-- ==== Sys2Proof/Word.lean ====
section
/-! DEFINITION. The word types of the machine and their plainest arithmetic (02_words R52, R53; 00_scope R4). -/

namespace Sys2Proof

/-- A 64-bit scalar (R52). -/
abbrev Word := BitVec 64
/-- A byte. -/
abbrev Byte := BitVec 8
/-- A 32-bit tile handle (R27) or FP32 bit pattern. -/
abbrev W32 := BitVec 32
/-- A 64-byte row (R53): byte j is bits 8j+7 .. 8j. -/
abbrev Row := BitVec 512
/-- A 128-byte row of a moment register (R55, R313). -/
abbrev KRow := BitVec 1024

end Sys2Proof
end

