-- ==== Sys2Proof/Syntax.lean ====
section
/-! DEFINITION. The syntax of bundles (Bruberi instructions, 02_words R44-R51) and of the events of the device
(the rows of spec/opcode_table.json that have no encoding, 95_what_each_step_holds). -/

namespace Sys2Proof

/-- A scalar register number s0-s15 (R52). -/
abbrev SReg := Fin 16
/-- A tile register number t0-t15 (R53). -/
abbrev TReg := Fin 16
/-- A row operand code (R54). -/
abbrev RCode := Fin 16
/-- An accumulator c0-c7 (R55). -/
abbrev AccR := Fin 8
/-- A moment register k0-k7 (R55). -/
abbrev KReg := Fin 8
/-- A ring handle h0-h7 (R58). -/
abbrev Ring := Fin 8
/-- A queue register q0-q7 (R60). -/
abbrev Queue := Fin 8

/-- Which core of a tile (R12, R156 DCORE). -/
inductive CoreSel where
  | stage | comp
  deriving DecidableEq, Repr, Inhabited

/-- The order field of XSC (R46). -/
inductive Order where
  | rlx | acq | rel | ar
  deriving DecidableEq, Repr, Inhabited

/-- The scopes (R20, R46). -/
inductive Scope where
  | tile | quad | region | wafer | pod
  deriving DecidableEq, Repr, Inhabited

/-- An XSC prefix (R46). -/
structure Xsc where
  ord : Order
  scope : Scope
  deriving DecidableEq, Repr, Inhabited

/-- The REP prefix (R46, R48). -/
inductive Rep where
  | one
  | imm (n : Fin 128)
  | reg (s : SReg)
  deriving DecidableEq, Repr, Inhabited

/-- REP and the XLV base row and bank of a row operand (R46). -/
structure RowPos where
  rep : Rep := .one
  base : Fin 16 := 0
  bank : Bool := false
  deriving DecidableEq, Repr, Inhabited

/-- `RowPos` with the XRG fourth field c, a scalar for code 14 or a part index (R54, R263). -/
structure RowX where
  rep : Rep := .one
  base : Fin 16 := 0
  bank : Bool := false
  c : Fin 16 := 0
  deriving DecidableEq, Repr, Inhabited

/-- REP and the two XWT counts of a matrix operation (R46, R288). -/
structure MatX where
  rep : Rep := .one
  wa : Fin 16 := 0
  wb : Fin 16 := 0
  deriving DecidableEq, Repr, Inhabited

/-- The row types in the order of their codes (R51, R247, R248). -/
inductive RType where
  | f32 | bf16 | i32 | i8 | f16 | i16 | n8 | n32
  deriving DecidableEq, Repr, Inhabited

/-- The access sizes (R4, R120). -/
inductive Size where
  | b | h | w | d
  deriving DecidableEq, Repr, Inhabited

/-- The participant sets of a barrier (R215). -/
inductive PhaserSet where
  | cmp | stg | all
  deriving DecidableEq, Repr, Inhabited

/-- What a KMMA pops at retirement (R332). -/
inductive Keep where
  | both | aOnly | bOnly
  deriving DecidableEq, Repr, Inhabited

/-- The selector of QNT and DQN (R280): the narrow format and the wide one. -/
structure NarrowSel where
  t6 : Bool
  bf16 : Bool
  deriving DecidableEq, Repr, Inhabited

/-- The trap causes in the order of their codes (R362). -/
inductive Cause where
  | none | ill | priv | zdiv | xlat | bnd | capv | revk | rgf | nvf | shd | missp | qto | due | lsm | brk | swt
  deriving DecidableEq, Repr, Inhabited

/-- The causes of a containment unwind (R341, R344). -/
inductive UCause where
  | poison | due | nvf | lsm
  deriving DecidableEq, Repr, Inhabited

/-! ### Packets (07_messages) -/

/-- An endpoint of the fabric (R168 DKIND). -/
inductive Endpoint where
  | tile (x y : Nat)
  | quay (region : Nat)
  | module (n : Nat)
  | engine (n : Nat)
  | ualink (n : Nat)
  deriving DecidableEq, Repr, Inhabited

/-- The atomic operations (R189-R191). -/
inductive AtomOp where
  | add | and | or | xor | min | max | minu | maxu | swap | cas
  deriving DecidableEq, Repr, Inhabited

/-- The kinds of message (R156 KIND 0-3). -/
inductive MsgKind where
  | scalar | row | tileToRing | header
  deriving DecidableEq, Repr, Inhabited

/-- A phaser member's mode (R204). -/
inductive PhMode where
  | s | w | sw
  deriving DecidableEq, Repr, Inhabited

/-- A request to the home of a phaser (R205, R208-R212): who, which slot and generation, and what. -/
structure PhReq where
  engine : Bool
  region : Nat
  slot : Nat
  gen : Nat
  mx : Nat
  my : Nat
  mcore : CoreSel
  ent : Nat
  mode : PhMode
  phase : BitVec 16
  rel : Bool
  leave : Bool
  deriving DecidableEq, Repr, Inhabited

/-- A byte with the poison of the sector or row half it comes from (R125, R126). -/
abbrev PByte := Byte × Bool

/-- A link of a router, by the column and the global physical row of the router and the port (R8, R175, R356): 0 N, 1 S, 2 E,
3 W, 4 skip N, 5 skip S. The routers of the quay strips and of unused spare sites have links too. -/
structure Link where
  x : Nat
  y : Nat
  port : Fin 6
  deriving DecidableEq, Repr, Inhabited

/-- One exception entry written into a router, by its column and global physical row (R169). -/
structure RouterWrite where
  x : Nat
  y : Nat
  idx : Fin 16
  entry : BitVec 64
  deriving DecidableEq, Repr, Inhabited

/-- What a packet carries (R156, R195): requests, messages, responses and notices. A request to a quay is an `ask`: 0 to 7
QSVC by its code, 8 PLQ, 9 ALLOC, 10 PHNEW, 11 a translation, 12 the notice of a forwarded trap, with its arguments; `told` is its answer. `completed` is the
completion of a phaser wait; `q4` is a request of q4 with its header and arguments (15 R385), `entry` writes an exception entry into the router of the tile that it goes to (R169, R176), `failed` reports a link, or
with `router` the router, to a quay (R175). -/
inductive Body where
  | msg (kind : MsgKind) (berth : Fin 16) (ring : Ring) (dcore : CoreSel) (dhnd : W32) (rel : Option Scope)
      (payload : List Byte) (pmask : BitVec 32)
  | read (pos ofs n : Nat)
  | write (ofs : Nat) (bytes : List (Option PByte))
  | atomic (op : AtomOp) (w leasable : Bool) (ofs : Nat) (x e : Word)
  | phArrive (r : PhReq)
  | phWait (r : PhReq)
  | phReg (r : PhReq)
  | phQry (r : PhReq)
  | writeBack (sector : Nat) (bytes : List Byte) (bad : Bool)
  | close
  | data (pos : Nat) (bytes : List PByte)
  | old (v : Word) (poisoned : Bool) (grant : Option (Nat × List Byte × Bool))
  | value (v : Word)
  | ack (dup : Bool)
  | retry
  | reject
  | recall (sector : Nat)
  | ask (kind : Fin 13) (w1 w2 : Word)
  | told (words : List Word)
  | completed (v : Word)
  | resend (gen : BitVec 16)
  | stop
  | entry (w : RouterWrite)
  | q4 (h : Word) (args : List Word)
  | failed (l : Link) (router : Bool) (count : Nat)
  deriving DecidableEq, Repr, Inhabited

/-- A buffer of the fabric (R165, R186): the input buffer of the router at column x and global physical row g for an arrival port (0 N,
1 S, 2 E, 3 W, 4 local, 5 skip N, 6 skip S), or the boundary FIFO before it; `esc` is its escape lane (R170). -/
structure Spot where
  x : Nat
  g : Nat
  arr : Nat
  fifo : Bool := false
  esc : Bool := false
  deriving DecidableEq, Repr, Inhabited

/-- A packet (R156). `ent` and `req` name the replay-queue entry and the request of the source core that a response
answers, `avc` the VC of the packet it answers; `pos` in a read is where its bytes stand in the access. `hop` is the quay that hands
on a packet of a tile to another region (R188), `rhnd` the handle of the tile that sends a reply; `esc` says that it travels on the escape lane (R170), and `trail` lists the buffers
that hold flits of it, the one of its head first, with how many each holds, `sent` how many have entered the fabric (R165, R186). `taken` says that a spill queue has
taken and acknowledged it (R184), 2 that a returned lease in it has been written as well, 3 that the lease has been written and nothing acknowledged. -/
structure Packet where
  vc : Fin 8
  dst : Endpoint
  dcore : CoreSel
  src : Endpoint
  score : CoreSel
  shnd : W32
  ctx : Nat
  ttag : Nat
  part : Nat
  seq : BitVec 16
  opn : Bool
  age : Nat
  gen : BitVec 16
  ent : Nat
  req : Nat
  avc : Fin 8
  body : Body
  hop : Option Nat := none
  esc : Bool := false
  trail : List (Spot × Nat) := []
  sent : Nat := 0
  rhnd : W32 := 0
  taken : Fin 4 := 0
  stag : Nat := 0
  deriving DecidableEq, Repr, Inhabited

/-! ### Events of the quays, the engines and the host -/

/-- A storage target's answer to a command (R236), the value decrypted; for KVLST the keys in the order the target returns them (R235). -/
structure KvAnswer where
  stat : BitVec 4
  sct : BitVec 3
  sc : BitVec 8
  poi : Bool
  count : BitVec 32
  value : List Byte
  keys : List (List Byte) := []
  deriving DecidableEq, Repr, Inhabited

/-- A member's contribution to a block of a collective (R242), with the 32-byte halves of it that carry poison (R241) and the parameters
the member gave (R243). -/
structure CollContribution where
  member : Nat
  block : Nat
  bytes : List Byte
  bad : List Nat := []
  n : Nat
  type : Nat
  blklog : Nat
  root : Nat
  deriving DecidableEq, Repr, Inhabited

/-- The quay's choice of a placement (R29, R32, R411): the rectangle's north-west tile, the handles by rank, the team
tag; `none` places the team docked. `partners` are the origins of the partner quads under lockstep, row by row (R350). -/
structure PlaceChoice where
  origin : Option (Nat × Nat)
  handles : List W32
  tag : Nat
  partners : List (Nat × Nat) := []
  deriving DecidableEq, Repr, Inhabited

/-- An uncorrectable error that a module's own ECC finds (05 R125): the context and offset of the sector, and the copy of a paired team whose
shadow page holds it. -/
structure ModuleError where
  ctx : Nat
  copy : Option Nat := none
  ofs : Nat
  deriving DecidableEq, Repr, Inhabited

/-- What boot finds (R171, R404): whether the firmware signature verifies, the defective sites and the quarters that
fail. -/
structure BootFacts where
  firmwareOk : Bool
  defects : List (Nat × Nat × Nat)
  failedQuarters : List Nat
  deriving DecidableEq, Repr, Inhabited

/-- A key of the key store (R402): a partition's XTS pair, its RPC key by the direction of travel, its storage key, and the
administration key. -/
inductive KeyName where
  | xts (part : Nat)
  | rpc (part : Nat) (toDevice : Bool)
  | storage (part : Nat)
  | admin
  deriving DecidableEq, Repr, Inhabited

/-- An RPC frame that comes to the device (R396, R397): the fields of header words 0 to 2 but for CMD, which is the event's, the nonce, the key
under which it was sealed, with whether its tag is right under that key, and the payload, of which an event's operands are the reading. -/
structure Frame where
  part : Nat
  adm : Bool
  reqid : BitVec 64
  sender : BitVec 32
  counter : Nat
  tagOk : Bool
  magic : BitVec 32 := 0x53594E31
  ver : BitVec 8 := 1
  rsp : Bool := false
  len : Nat := 0
  key : KeyName := if adm then .admin else .rpc part true
  payload : List (BitVec 8) := []
  deriving DecidableEq, Repr, Inhabited

/-- A berth declared by a module (R21, R67, R103). -/
structure BerthDecl where
  core : CoreSel
  n : Fin 16
  entry : BitVec 19
  vc : Fin 4
  prio : Fin 4
  stage : Fin 16
  quota : BitVec 8
  conv : BitVec 32
  stk : BitVec 20
  deriving DecidableEq, Repr, Inhabited

/-- The module image of a launch (R29, R67, R412): per placed rank its berths and bytes, and the placed ranks that have neither; rings and keep
ranges of every placed tile; the flex tiles by rank and stages; the objects in edge memory. -/
structure ModuleImage where
  berths : List (Nat × BerthDecl)
  bytes : List (Nat × Nat × List Byte)
  keeps : List (Nat × Nat)
  rings : List (Ring × BitVec 16)
  flex : List (Nat × Nat × Nat)
  edges : List (Nat × Nat)
  loadable : Bool
  placed : List Nat := []
  deriving DecidableEq, Repr, Inhabited

/-- A launch packet (R399). -/
structure LaunchPacket where
  quay : Nat
  prio : Nat
  ctx : Nat
  w : Nat
  h : Nat
  preds : List Nat
  image : ModuleImage
  deriving DecidableEq, Repr, Inhabited

/-- The request of ALLOCATE operation 0 (R399): quarters by list or by count, quotas, NET windows of named engines
(engine, bytes), peers and duty-split selections. -/
structure QuarterGrant where
  partition : Nat
  quarters : List Nat
  count : Nat
  byCount : Bool
  quotas : List (Nat × Nat)
  windows : List (Nat × Nat)
  peers : Nat
  hostDetour : Bool
  hostSigning : Bool
  deriving DecidableEq, Repr, Inhabited

/-- The mode bits of a context's control block (R26, R346, R349, R354, R356, R358, R389, R407). -/
structure Modes where
  sys : Bool := false
  testInj : Bool := false
  shadowTrap : Bool := false
  lockstep : Bool := false
  paired : Bool := false
  storeFold : Bool := false
  tracing : Bool := false
  hostXlat : Bool := false
  hostTraps : Bool := false
  hostSwap : Bool := false
  deriving DecidableEq, Repr, Inhabited

/-- The request of ALLOCATE operation 1 (R399). -/
structure CtxRequest where
  modes : Modes
  quotas : Nat × Nat × Nat
  heapBase : Nat
  heapSize : Nat
  reserve : Nat
  dockSize : Nat
  spillQuota : Nat
  tvec : BitVec 64
  number : Nat
  deriving DecidableEq, Repr, Inhabited

/-- The instructions and events, one constructor per row of spec/opcode_table.json. -/
inductive Instr where
  -- Page 0 (R51)
  | add (d a b : SReg)
  | sub (d a b : SReg)
  | and (d a b : SReg)
  | or (d a b : SReg)
  | xor (d a b : SReg)
  | shl (d a b : SReg)
  | shr (d a b : SReg)
  | sha (d a b : SReg)
  | mul (d a b : SReg)
  | mulh (d a b : SReg)
  | div (d a b : SReg)
  | rem (d a b : SReg)
  | seq (d a b : SReg)
  | slt (d a b : SReg)
  | sltu (d a b : SReg)
  | sel (d a b : SReg)
  | min (d a b : SReg)
  | max (d a b : SReg)
  | minu (d a b : SReg)
  | maxu (d a b : SReg)
  | addi (d a : SReg) (imm : Int)
  | li (d : SReg) (imm : Int)
  | andi (d a : SReg) (imm : Int)
  | shli (d a : SReg) (n : Fin 64)
  | shri (d a : SReg) (n : Fin 64)
  | shai (d a : SReg) (n : Fin 64)
  | mov (d a : SReg)
  | qrd (d : SReg) (q : Queue)
  | qwr (q : Queue) (a : SReg)
  | ldw (d a : SReg) (imm : Int) (x : Option Xsc)
  | ldd (d a : SReg) (imm : Int) (x : Option Xsc)
  | stw (d a : SReg) (imm : Int) (x : Option Xsc)
  | std (d a : SReg) (imm : Int) (x : Option Xsc)
  | ldr (d : RCode) (a : SReg) (imm : Int) (p : RowPos) (x : Option Xsc)
  | str (d : RCode) (a : SReg) (imm : Int) (p : RowPos) (x : Option Xsc)
  | bra (imm : Int)
  | call (imm : Int)
  | bz (d : SReg) (imm : Int)
  | bnz (d : SReg) (imm : Int)
  | loop (d : SReg) (imm : Int)
  | sendS (a b : SReg) (rep : Rep) (x : Option Xsc)
  | sendR (d : RCode) (a c : SReg) (p : RowPos) (x : Option Xsc)
  | sendT (t : Fin 4) (a : SReg) (rep : Rep) (x : Option Xsc)
  | sendH (a : SReg) (rep : Rep) (x : Option Xsc)
  | inpop (d : SReg)
  | inrd (d a : SReg)
  | inrdR (d : RCode) (base : Fin 16) (bank : Bool)
  | insk (d : SReg)
  | rwaitFull (h : Ring) (n : Fin 128)
  | rwaitFree (h : Ring) (n : Fin 128)
  | radvHead (h : Ring) (n : Fin 128)
  | radvTail (h : Ring) (n : Fin 128)
  | jr (a : SReg)
  | callr (a : SReg)
  -- Page 1 (R51)
  | mulhu (d a b : SReg)
  | divu (d a b : SReg)
  | remu (d a b : SReg)
  | clz (d a : SReg)
  | ctz (d a : SReg)
  | popc (d a : SReg)
  | brev (d a : SReg)
  | bext (d a b : SReg)
  | bins (d a b : SReg)
  | sextB (d a : SReg)
  | sextH (d a : SReg)
  | sextW (d a : SReg)
  | zextW (d a : SReg)
  | addw (d a b : SReg)
  | subw (d a b : SReg)
  | mulw (d a b : SReg)
  | divw (d a b : SReg)
  | remw (d a b : SReg)
  | divuw (d a b : SReg)
  | remuw (d a b : SReg)
  | padd (d a b : SReg)
  | pmk (d a b : SReg)
  | pspc (d a : SReg)
  | prnk (d a : SReg)
  | poff (d a : SReg)
  | bccEq (a b : SReg) (imm : Int)
  | bccNe (a b : SReg) (imm : Int)
  | bccLt (a b : SReg) (imm : Int)
  | bccGe (a b : SReg) (imm : Int)
  | bccuLtu (a b : SReg) (imm : Int)
  | bccuGeu (a b : SReg) (imm : Int)
  -- Page 2 (R51)
  | ldx (z : Size) (d a b : SReg) (x : Option Xsc)
  | ldxs (z : Size) (d a b : SReg) (x : Option Xsc)
  | stx (z : Size) (d a b : SReg) (x : Option Xsc)
  | ldt (t : Fin 4) (a : SReg) (imm : Int) (x : Option Xsc)
  | stt (t : Fin 4) (a : SReg) (imm : Int) (x : Option Xsc)
  | lds (d : RCode) (a b : SReg) (p : RowPos) (x : Option Xsc)
  | sts (d : RCode) (a b : SReg) (p : RowPos) (x : Option Xsc)
  | cld (z : Size) (d a b : SReg) (x : Option Xsc)
  | cst (z : Size) (d a b : SReg) (x : Option Xsc)
  | cbnd (d a b : SReg)
  | cnar (d a b c : SReg)
  | cchk (d a b : SReg)
  | alloc (d a b : SReg)
  | free (a : SReg)
  -- Page 3 (R51)
  | amoaAdd (d a b : SReg) (w : Bool) (x : Option Xsc)
  | amoaAnd (d a b : SReg) (w : Bool) (x : Option Xsc)
  | amoaOr (d a b : SReg) (w : Bool) (x : Option Xsc)
  | amoaXor (d a b : SReg) (w : Bool) (x : Option Xsc)
  | amobMin (d a b : SReg) (w : Bool) (x : Option Xsc)
  | amobMax (d a b : SReg) (w : Bool) (x : Option Xsc)
  | amobMinu (d a b : SReg) (w : Bool) (x : Option Xsc)
  | amobMaxu (d a b : SReg) (w : Bool) (x : Option Xsc)
  | amobSwap (d a b : SReg) (w : Bool) (x : Option Xsc)
  | casW (d a b : SReg) (x : Option Xsc)
  | casD (d a b : SReg) (x : Option Xsc)
  | phnew (d a : SReg)
  | phreg (d a b : SReg)
  | phdrop (d a : SReg)
  | phqry (d a : SReg)
  | pharr (d a : SReg) (o : Option Order)
  | phwait (d a : SReg) (o : Option Order)
  | phaw (d a : SReg) (o : Option Order)
  | bar (d : SReg) (sc : Scope) (ps : PhaserSet)
  | bara (d : SReg) (sc : Scope) (ps : PhaserSet)
  | barw (d : SReg) (sc : Scope) (ps : PhaserSet)
  | cpy (d a : SReg) (x : Option Xsc)
  | cpy2d (d a : SReg) (x : Option Xsc)
  | cpyGth (d a : SReg) (x : Option Xsc)
  | cpyRing (d a : SReg) (x : Option Xsc)
  | waitp (d a : SReg)
  | kvget (d a b : SReg)
  | kvset (d a b : SReg)
  | kvdel (d b : SReg)
  | kvlst (d a b : SReg)
  | collRed (d a : SReg) (x : Option Xsc)
  | collBcst (d a : SReg) (x : Option Xsc)
  | collAgth (d a : SReg) (x : Option Xsc)
  | plh (d a : SReg)
  | plq (d a : SReg)
  -- Page 4 (R51, R253)
  | vadd (ty : RType) (d a b : RCode) (x : RowX)
  | vsub (ty : RType) (d a b : RCode) (x : RowX)
  | vmul (ty : RType) (d a b : RCode) (x : RowX)
  | vfma (ty : RType) (d a b : RCode) (x : RowX)
  | vmin (ty : RType) (d a b : RCode) (x : RowX)
  | vmax (ty : RType) (d a b : RCode) (x : RowX)
  | vand (ty : RType) (d a b : RCode) (x : RowX)
  | vor (ty : RType) (d a b : RCode) (x : RowX)
  | vxor (ty : RType) (d a b : RCode) (x : RowX)
  | vshl (ty : RType) (d a b : RCode) (x : RowX)
  | vshr (ty : RType) (d a b : RCode) (x : RowX)
  | vceq (ty : RType) (d a b : RCode) (x : RowX)
  | vclt (ty : RType) (d a b : RCode) (x : RowX)
  | vcle (ty : RType) (d a b : RCode) (x : RowX)
  | vsel (ty : RType) (d a b : RCode) (x : RowX)
  | vunaAbs (ty : RType) (d a : RCode) (x : RowX)
  | vunaNeg (ty : RType) (d a : RCode) (x : RowX)
  | vunaExp (ty : RType) (d a : RCode) (x : RowX)
  | vunaLog2 (ty : RType) (d a : RCode) (x : RowX)
  | vunaRcp (ty : RType) (d a : RCode) (x : RowX)
  | vunaRsq (ty : RType) (d a : RCode) (x : RowX)
  | vunaTanh (ty : RType) (d a : RCode) (x : RowX)
  | vunaSig (ty : RType) (d a : RCode) (x : RowX)
  | vredSum (ty : RType) (d a : RCode) (x : RowX)
  | vredMax (ty : RType) (d a : RCode) (x : RowX)
  | vredMin (ty : RType) (d a : RCode) (x : RowX)
  | vredSsq (ty : RType) (d a : RCode) (x : RowX)
  | vcvt (ty src : RType) (d a : RCode) (x : RowX)
  | vbc (ty : RType) (d a : RCode) (b : SReg) (x : RowX)
  | vmov (d a : RCode) (x : RowX)
  | vshuf (ty : RType) (d a b : RCode) (x : RowX)
  | vscan (ty : RType) (d a : RCode) (x : RowX)
  | viota (ty : RType) (d : RCode) (a : SReg) (x : RowX)
  | vrot (ty : RType) (d a : RCode) (b : SReg) (x : RowX)
  -- Page 5 (R51)
  | mmaAcc (d : AccR) (a b : Ring) (m : MatX)
  | mmaOvw (d : AccR) (a b : Ring) (m : MatX)
  | mmaKeepb (d : AccR) (a b : Ring) (m : MatX)
  | mmaKeepa (d : AccR) (a b : Ring) (m : MatX)
  | mmq (d : AccR) (a b : Ring) (wa wb : Fin 16)
  | mmg (d : AccR) (a b : Ring) (m : MatX)
  | chkv (d : SReg) (a : AccR)
  | cfix (d : SReg) (a : AccR)
  | csrd (d : SReg) (a : AccR) (b : SReg)
  | macz (d : AccR)
  | macrdF32 (t : TReg) (a : AccR)
  | macrdBf16 (t : TReg) (half : Fin 2) (a : AccR)
  | macrdT8 (t : TReg) (quarter : Fin 4) (a : AccR) (c : SReg)
  | macwr (d : AccR) (t : TReg)
  | mtr (d a : AccR)
  | rcfg (h : Ring) (a : SReg)
  | rqry (d : SReg) (h : Ring)
  | rpsh (t : Option (Fin 4)) (h : Ring) (rep : Rep)
  | rtak (t : Option TReg) (h : Ring) (rep : Rep) (w : Fin 16)
  -- Page 6 (R51)
  | kadd (d a b : KReg)
  | ksub (d a b : KReg)
  | kmul (d a b : KReg)
  | kfma (d a b : KReg)
  | kaddd (d a : KReg) (t : TReg)
  | kscl (d a : KReg) (b : SReg)
  | kmuld (d a : KReg) (t : TReg)
  | kvsub (d a b : KReg)
  | knlRelu (d a : KReg)
  | knlExp (d a : KReg)
  | knlSig (d a : KReg)
  | knlSq (d a : KReg)
  | knlRcp (d a : KReg)
  | kmk (d : KReg) (a : Fin 8) (b : Option (Fin 8)) (bank : Bool)
  | kcolMean (t : TReg) (a : KReg)
  | kcolVar (t : TReg) (a : KReg)
  | kcolSdev (t : TReg) (a : KReg)
  | kcolDraw (t : Fin 8) (a : KReg) (b : RCode) (base : Fin 16) (bank : Bool) (c : SReg)
  | kldMp32 (d : KReg) (a : SReg)
  | kldMb16 (d : KReg) (a : SReg)
  | kstMp32 (d : KReg) (a : SReg)
  | kstMb16 (d : KReg) (a : SReg)
  | kmmaDwAcc (d : AccR) (a b : Ring) (keep : Keep) (m : MatX)
  | kmmaMwAcc (d : AccR) (a b : Ring) (keep : Keep) (m : MatX)
  | kmmaDwOvw (d : AccR) (a b : Ring) (keep : Keep) (m : MatX)
  | kmmaMwOvw (d : AccR) (a b : Ring) (keep : Keep) (m : MatX)
  | kacrd (d : KReg) (a : AccR)
  | kred (d a : KReg)
  | kmode (a b : SReg)
  | kmov (d a : KReg)
  | kmovTr (d a : KReg)
  | qnt (f : NarrowSel) (d : RCode) (a : Fin 8) (base : Fin 16) (bank : Bool) (c : SReg)
  | dqn (f : NarrowSel) (d : Fin 8) (a : RCode) (base : Fin 16) (bank : Bool) (c : SReg)
  | baq (d a b : RCode) (base : Fin 16) (bank : Bool) (c : SReg)
  -- Page 7 (R51)
  | trap (code : Nat)
  | rpqrd (d a : SReg)
  | rpqwr (a b : SReg)
  | rpqdrp (a : SReg)
  | rpqlen (d : SReg)
  | srd (d : SReg) (n : Fin 256)
  | swr (n : Fin 256) (d : SReg)
  | swrCki (d : SReg)
  | swrMctl (d : SReg)
  | swrFfl (d : SReg)
  | swrTvec (d : SReg)
  | cro (imm : Int)
  | chke (d a : SReg)
  | sigS (a : SReg)
  | sigR (a : RCode) (base : Fin 16) (bank : Bool)
  | sigT (t : TReg)
  | sigRd (d : SReg)
  | inj (a b : SReg)
  | ctxsv (d a : SReg)
  | ctxld (a : SReg)
  | pack (d : SReg)
  | idle (a : SReg)
  | metr (d a : SReg)
  -- The instructions without operands (the Lean runtime numbers at most 244 constructors that have arguments)
  | nop
  | endAct
  | ret
  | brk
  | endTeam
  | fenceRwTile
  | fenceRwQuad
  | fenceRwRegion
  | fenceRwWafer
  | fenceRwPod
  | fenceR
  | fenceWTile
  | fenceWQuad
  | fenceWRegion
  | fenceWWafer
  | fenceWPod
  | fenceI
  | mwait0
  | mwait1
  | mwait2
  | mwait3
  | mwait4
  | mwait5
  | mwait6
  | mwait7
  | mwaitAll
  | tret
  | crc
  | qsvcPing
  | qsvcMap
  | qsvcUnmap
  | qsvcGroup
  | qsvcYield
  | qsvcReport
  | qsvcDebug
  | qsvcUnknown
  -- Events: the rows of the table that have no encoding
  | divideComplete (e : Fin 8)
  | allocResponse (e : Fin 8) (base : Option Nat)
  | quayResponse (e : Fin 8)
  | remoteResponse (p : Packet)
  | translationResponse
  | scrubTick
  | scrubModule (found : ModuleError)
  | heldSlotWritePerform
  | messageDelivery (p : Packet)
  | inboxAppendAfterWait
  | ringMessageDelivery (p : Packet)
  | ringMessageAfterWait
  | activationStart
  | seqWindowArrival (p : Packet)
  | ackReceived (p : Packet)
  | retryReceived (p : Packet)
  | retryWaitExpiry (k : Nat)
  | rejectReceived (p : Packet)
  | resendNotice (gen : BitVec 16)
  | unackedTimeout (k : Nat)
  | vc0RequestRetry (e : Fin 8)
  | packetAgeTick (k : Nat)
  | flitCrcError (l : Link)
  | linkCrcThreshold (l : Link)
  | linkCreditTimeout (l : Link)
  | failureReport (l : Link) (detour : Option (List RouterWrite))
  | regionFirewallCheck (p : Packet) (region : Nat)
  | tileRetirement (region : Nat) (col prow : Nat) (spare : Bool) (rewrites : List RouterWrite)
  | remoteAtomicAtHome (p : Packet)
  | leaseRecall (hx hy sector : Nat)
  | leaseWriteBack (p : Packet)
  | phaserArrivalAtHome (r : PhReq)
  | phaserWaitAtHome (r : PhReq)
  | phaserRelease (e : Fin 8) (phase : BitVec 16)
  | phaserRegisterAtHome (r : PhReq)
  | barrierEpisodeComplete (sc : Scope) (ps : PhaserSet) (ep : BitVec 16)
  | barrierRelease (e : Fin 8)
  | copyOperationStart
  | copyRingRoom
  | copyChunkTransfer
  | copyOperationEnd
  | completionPlaceDeferred
  | storageCommandComplete (tag : BitVec 16) (ans : KvAnswer)
  | collContributionArrival (slot : Nat) (c : CollContribution)
  | gatewayIndexReturn
  | gatewayIndexTimeout (slot block : Nat)
  | collTimeout (slot : Nat)
  | collPeerLost (slot member : Nat)
  | unitOperationStart
  | unitOperationRetire
  | rpshSlotFilled
  | mmqRendezvous
  | mmqRetireSignal
  | mmqTimeout
  | trapTake (cause : Cause) (va tpc : BitVec 64) (dfr : Bool)
  | forwardResume
  | forwardDeliver
  | forwardKill
  | containmentUnwind (u : UCause)
  | deferredEvent
  | iabHit
  | singleStep
  | lockstepMismatch (again : Bool)
  | stopRequest
  | collectorQuiescent (ctx tag : Nat)
  | stopAckTimeout (ctx tag : Nat)
  | launchQueueTake (region : Nat) (c : PlaceChoice)
  | teamEnd (ctx tag : Nat)
  | teamSwapOut (ctx tag : Nat)
  | spillDivert (p : Packet)
  | teamSwapIn (ctx tag : Nat) (c : PlaceChoice)
  | tokenBucketRefill (ctx : Nat)
  | tokenBucketEmpty (ctx : Nat)
  | energyMeterPeriod (region microjoules : Nat)
  | journalCheckpoint (quay : Nat)
  | journalGapRecord (quay : Nat)
  | idleWake
  | q4RequestService
  | clockStepChange (region : Nat) (up : Bool)
  | pllRelockDone (region : Nat)
  | governorTick (milliwatts : Nat)
  | droopStretch (region : Nat) (percent : Nat)
  | rampInTolerance (region : Nat)
  | rampTimeout (region : Nat)
  | regulatorFault (region : Nat)
  | coolDone (region : Nat)
  | triesReset (region : Nat)
  | modulePowerCycle
  | moduleBoot (b : BootFacts)
  | launch (f : Frame) (pkt : LaunchPacket)
  | write (f : Frame) (ctx off : Nat) (data : List (BitVec 8))
  | read (f : Frame) (ctx off len : Nat)
  | queryResidency (f : Frame)
  | queryCounters (f : Frame) (ctx : Nat)
  | queryErrorLog (f : Frame) (region : Nat)
  | queryTrace (f : Frame) (region : Nat)
  | allocateQuarters (f : Frame) (q : QuarterGrant)
  | allocateCreateContext (f : Frame) (c : CtxRequest)
  | allocateReleaseContext (f : Frame) (ctx : Nat)
  | stopContext (f : Frame) (ctx : Nat)
  | stopTeam (f : Frame) (ctx tag : Nat)
  | attest (f : Frame) (nonce : List (BitVec 8))
  | journal (f : Frame) (quay : Nat)
  | promiseDeadline (tag : Fin 8)
  | placementCacheFill
  | swapAnnouncement (ctx tag : Nat)
  | edgeMemoryModuleFailure (engine : Bool) (number : Nat)
  | hostRdmaOperation (part window off : Nat) (write : Option (List (BitVec 8))) (len : Nat)
  deriving DecidableEq, Repr, Inhabited

/-- Whether a row of the table is an event (it has no encoding). -/
def Instr.isEvent : Instr → Bool
  | .nop => false
  | .endAct => false
  | .ret => false
  | .brk => false
  | .endTeam => false
  | .add _ _ _ => false
  | .sub _ _ _ => false
  | .and _ _ _ => false
  | .or _ _ _ => false
  | .xor _ _ _ => false
  | .shl _ _ _ => false
  | .shr _ _ _ => false
  | .sha _ _ _ => false
  | .mul _ _ _ => false
  | .mulh _ _ _ => false
  | .div _ _ _ => false
  | .rem _ _ _ => false
  | .seq _ _ _ => false
  | .slt _ _ _ => false
  | .sltu _ _ _ => false
  | .sel _ _ _ => false
  | .min _ _ _ => false
  | .max _ _ _ => false
  | .minu _ _ _ => false
  | .maxu _ _ _ => false
  | .addi _ _ _ => false
  | .li _ _ => false
  | .andi _ _ _ => false
  | .shli _ _ _ => false
  | .shri _ _ _ => false
  | .shai _ _ _ => false
  | .mov _ _ => false
  | .qrd _ _ => false
  | .qwr _ _ => false
  | .ldw _ _ _ _ => false
  | .ldd _ _ _ _ => false
  | .stw _ _ _ _ => false
  | .std _ _ _ _ => false
  | .ldr _ _ _ _ _ => false
  | .str _ _ _ _ _ => false
  | .bra _ => false
  | .call _ => false
  | .bz _ _ => false
  | .bnz _ _ => false
  | .loop _ _ => false
  | .sendS _ _ _ _ => false
  | .sendR _ _ _ _ _ => false
  | .sendT _ _ _ _ => false
  | .sendH _ _ _ => false
  | .inpop _ => false
  | .inrd _ _ => false
  | .inrdR _ _ _ => false
  | .insk _ => false
  | .rwaitFull _ _ => false
  | .rwaitFree _ _ => false
  | .radvHead _ _ => false
  | .radvTail _ _ => false
  | .jr _ => false
  | .callr _ => false
  | .mulhu _ _ _ => false
  | .divu _ _ _ => false
  | .remu _ _ _ => false
  | .clz _ _ => false
  | .ctz _ _ => false
  | .popc _ _ => false
  | .brev _ _ => false
  | .bext _ _ _ => false
  | .bins _ _ _ => false
  | .sextB _ _ => false
  | .sextH _ _ => false
  | .sextW _ _ => false
  | .zextW _ _ => false
  | .addw _ _ _ => false
  | .subw _ _ _ => false
  | .mulw _ _ _ => false
  | .divw _ _ _ => false
  | .remw _ _ _ => false
  | .divuw _ _ _ => false
  | .remuw _ _ _ => false
  | .padd _ _ _ => false
  | .pmk _ _ _ => false
  | .pspc _ _ => false
  | .prnk _ _ => false
  | .poff _ _ => false
  | .bccEq _ _ _ => false
  | .bccNe _ _ _ => false
  | .bccLt _ _ _ => false
  | .bccGe _ _ _ => false
  | .bccuLtu _ _ _ => false
  | .bccuGeu _ _ _ => false
  | .ldx _ _ _ _ _ => false
  | .ldxs _ _ _ _ _ => false
  | .stx _ _ _ _ _ => false
  | .ldt _ _ _ _ => false
  | .stt _ _ _ _ => false
  | .lds _ _ _ _ _ => false
  | .sts _ _ _ _ _ => false
  | .cld _ _ _ _ _ => false
  | .cst _ _ _ _ _ => false
  | .cbnd _ _ _ => false
  | .cnar _ _ _ _ => false
  | .cchk _ _ _ => false
  | .alloc _ _ _ => false
  | .free _ => false
  | .fenceRwTile => false
  | .fenceRwQuad => false
  | .fenceRwRegion => false
  | .fenceRwWafer => false
  | .fenceRwPod => false
  | .fenceR => false
  | .fenceWTile => false
  | .fenceWQuad => false
  | .fenceWRegion => false
  | .fenceWWafer => false
  | .fenceWPod => false
  | .fenceI => false
  | .amoaAdd _ _ _ _ _ => false
  | .amoaAnd _ _ _ _ _ => false
  | .amoaOr _ _ _ _ _ => false
  | .amoaXor _ _ _ _ _ => false
  | .amobMin _ _ _ _ _ => false
  | .amobMax _ _ _ _ _ => false
  | .amobMinu _ _ _ _ _ => false
  | .amobMaxu _ _ _ _ _ => false
  | .amobSwap _ _ _ _ _ => false
  | .casW _ _ _ _ => false
  | .casD _ _ _ _ => false
  | .phnew _ _ => false
  | .phreg _ _ _ => false
  | .phdrop _ _ => false
  | .phqry _ _ => false
  | .pharr _ _ _ => false
  | .phwait _ _ _ => false
  | .phaw _ _ _ => false
  | .bar _ _ _ => false
  | .bara _ _ _ => false
  | .barw _ _ _ => false
  | .cpy _ _ _ => false
  | .cpy2d _ _ _ => false
  | .cpyGth _ _ _ => false
  | .cpyRing _ _ _ => false
  | .waitp _ _ => false
  | .kvget _ _ _ => false
  | .kvset _ _ _ => false
  | .kvdel _ _ => false
  | .kvlst _ _ _ => false
  | .collRed _ _ _ => false
  | .collBcst _ _ _ => false
  | .collAgth _ _ _ => false
  | .plh _ _ => false
  | .plq _ _ => false
  | .vadd _ _ _ _ _ => false
  | .vsub _ _ _ _ _ => false
  | .vmul _ _ _ _ _ => false
  | .vfma _ _ _ _ _ => false
  | .vmin _ _ _ _ _ => false
  | .vmax _ _ _ _ _ => false
  | .vand _ _ _ _ _ => false
  | .vor _ _ _ _ _ => false
  | .vxor _ _ _ _ _ => false
  | .vshl _ _ _ _ _ => false
  | .vshr _ _ _ _ _ => false
  | .vceq _ _ _ _ _ => false
  | .vclt _ _ _ _ _ => false
  | .vcle _ _ _ _ _ => false
  | .vsel _ _ _ _ _ => false
  | .vunaAbs _ _ _ _ => false
  | .vunaNeg _ _ _ _ => false
  | .vunaExp _ _ _ _ => false
  | .vunaLog2 _ _ _ _ => false
  | .vunaRcp _ _ _ _ => false
  | .vunaRsq _ _ _ _ => false
  | .vunaTanh _ _ _ _ => false
  | .vunaSig _ _ _ _ => false
  | .vredSum _ _ _ _ => false
  | .vredMax _ _ _ _ => false
  | .vredMin _ _ _ _ => false
  | .vredSsq _ _ _ _ => false
  | .vcvt _ _ _ _ _ => false
  | .vbc _ _ _ _ _ => false
  | .vmov _ _ _ => false
  | .vshuf _ _ _ _ _ => false
  | .vscan _ _ _ _ => false
  | .viota _ _ _ _ => false
  | .vrot _ _ _ _ _ => false
  | .mmaAcc _ _ _ _ => false
  | .mmaOvw _ _ _ _ => false
  | .mmaKeepb _ _ _ _ => false
  | .mmaKeepa _ _ _ _ => false
  | .mmq _ _ _ _ _ => false
  | .mmg _ _ _ _ => false
  | .chkv _ _ => false
  | .cfix _ _ => false
  | .csrd _ _ _ => false
  | .macz _ => false
  | .macrdF32 _ _ => false
  | .macrdBf16 _ _ _ => false
  | .macrdT8 _ _ _ _ => false
  | .macwr _ _ => false
  | .mwait0 => false
  | .mwait1 => false
  | .mwait2 => false
  | .mwait3 => false
  | .mwait4 => false
  | .mwait5 => false
  | .mwait6 => false
  | .mwait7 => false
  | .mwaitAll => false
  | .mtr _ _ => false
  | .rcfg _ _ => false
  | .rqry _ _ => false
  | .rpsh _ _ _ => false
  | .rtak _ _ _ _ => false
  | .kadd _ _ _ => false
  | .ksub _ _ _ => false
  | .kmul _ _ _ => false
  | .kfma _ _ _ => false
  | .kaddd _ _ _ => false
  | .kscl _ _ _ => false
  | .kmuld _ _ _ => false
  | .kvsub _ _ _ => false
  | .knlRelu _ _ => false
  | .knlExp _ _ => false
  | .knlSig _ _ => false
  | .knlSq _ _ => false
  | .knlRcp _ _ => false
  | .kmk _ _ _ _ => false
  | .kcolMean _ _ => false
  | .kcolVar _ _ => false
  | .kcolSdev _ _ => false
  | .kcolDraw _ _ _ _ _ _ => false
  | .kldMp32 _ _ => false
  | .kldMb16 _ _ => false
  | .kstMp32 _ _ => false
  | .kstMb16 _ _ => false
  | .kmmaDwAcc _ _ _ _ _ => false
  | .kmmaMwAcc _ _ _ _ _ => false
  | .kmmaDwOvw _ _ _ _ _ => false
  | .kmmaMwOvw _ _ _ _ _ => false
  | .kacrd _ _ => false
  | .kred _ _ => false
  | .kmode _ _ => false
  | .kmov _ _ => false
  | .kmovTr _ _ => false
  | .qnt _ _ _ _ _ _ => false
  | .dqn _ _ _ _ _ _ => false
  | .baq _ _ _ _ _ _ => false
  | .trap _ => false
  | .tret => false
  | .rpqrd _ _ => false
  | .rpqwr _ _ => false
  | .rpqdrp _ => false
  | .rpqlen _ => false
  | .srd _ _ => false
  | .swr _ _ => false
  | .swrCki _ => false
  | .swrMctl _ => false
  | .swrFfl _ => false
  | .swrTvec _ => false
  | .cro _ => false
  | .crc => false
  | .chke _ _ => false
  | .sigS _ => false
  | .sigR _ _ _ => false
  | .sigT _ => false
  | .sigRd _ => false
  | .inj _ _ => false
  | .ctxsv _ _ => false
  | .ctxld _ => false
  | .pack _ => false
  | .qsvcPing => false
  | .qsvcMap => false
  | .qsvcUnmap => false
  | .qsvcGroup => false
  | .qsvcYield => false
  | .qsvcReport => false
  | .qsvcDebug => false
  | .qsvcUnknown => false
  | .idle _ => false
  | .metr _ _ => false
  | .divideComplete _ => true
  | .allocResponse _ _ => true
  | .quayResponse _ => true
  | .remoteResponse _ => true
  | .translationResponse => true
  | .scrubTick => true
  | .scrubModule _ => true
  | .heldSlotWritePerform => true
  | .messageDelivery _ => true
  | .inboxAppendAfterWait => true
  | .ringMessageDelivery _ => true
  | .ringMessageAfterWait => true
  | .activationStart => true
  | .seqWindowArrival _ => true
  | .ackReceived _ => true
  | .retryReceived _ => true
  | .retryWaitExpiry _ => true
  | .rejectReceived _ => true
  | .resendNotice _ => true
  | .unackedTimeout _ => true
  | .vc0RequestRetry _ => true
  | .packetAgeTick _ => true
  | .flitCrcError _ => true
  | .linkCrcThreshold _ => true
  | .linkCreditTimeout _ => true
  | .failureReport _ _ => true
  | .regionFirewallCheck _ _ => true
  | .tileRetirement _ _ _ _ _ => true
  | .remoteAtomicAtHome _ => true
  | .leaseRecall _ _ _ => true
  | .leaseWriteBack _ => true
  | .phaserArrivalAtHome _ => true
  | .phaserWaitAtHome _ => true
  | .phaserRelease _ _ => true
  | .phaserRegisterAtHome _ => true
  | .barrierEpisodeComplete _ _ _ => true
  | .barrierRelease _ => true
  | .copyOperationStart => true
  | .copyRingRoom => true
  | .copyChunkTransfer => true
  | .copyOperationEnd => true
  | .completionPlaceDeferred => true
  | .storageCommandComplete _ _ => true
  | .collContributionArrival _ _ => true
  | .gatewayIndexReturn => true
  | .gatewayIndexTimeout _ _ => true
  | .collTimeout _ => true
  | .collPeerLost _ _ => true
  | .unitOperationStart => true
  | .unitOperationRetire => true
  | .rpshSlotFilled => true
  | .mmqRendezvous => true
  | .mmqRetireSignal => true
  | .mmqTimeout => true
  | .trapTake _ _ _ _ => true
  | .forwardResume => true
  | .forwardDeliver => true
  | .forwardKill => true
  | .containmentUnwind _ => true
  | .deferredEvent => true
  | .iabHit => true
  | .singleStep => true
  | .lockstepMismatch _ => true
  | .stopRequest => true
  | .collectorQuiescent _ _ => true
  | .stopAckTimeout _ _ => true
  | .launchQueueTake _ _ => true
  | .teamEnd _ _ => true
  | .teamSwapOut _ _ => true
  | .spillDivert _ => true
  | .teamSwapIn _ _ _ => true
  | .tokenBucketRefill _ => true
  | .tokenBucketEmpty _ => true
  | .energyMeterPeriod _ _ => true
  | .journalCheckpoint _ => true
  | .journalGapRecord _ => true
  | .idleWake => true
  | .q4RequestService => true
  | .clockStepChange _ _ => true
  | .pllRelockDone _ => true
  | .governorTick _ => true
  | .droopStretch _ _ => true
  | .rampInTolerance _ => true
  | .rampTimeout _ => true
  | .regulatorFault _ => true
  | .coolDone _ => true
  | .triesReset _ => true
  | .modulePowerCycle => true
  | .moduleBoot _ => true
  | .launch _ _ => true
  | .write _ _ _ _ => true
  | .read _ _ _ _ => true
  | .queryResidency _ => true
  | .queryCounters _ _ => true
  | .queryErrorLog _ _ => true
  | .queryTrace _ _ => true
  | .allocateQuarters _ _ => true
  | .allocateCreateContext _ _ => true
  | .allocateReleaseContext _ _ => true
  | .stopContext _ _ => true
  | .stopTeam _ _ _ => true
  | .attest _ _ => true
  | .journal _ _ => true
  | .promiseDeadline _ => true
  | .placementCacheFill => true
  | .swapAnnouncement _ _ => true
  | .edgeMemoryModuleFailure _ _ => true
  | .hostRdmaOperation _ _ _ _ _ => true

end Sys2Proof
end

