-- ==== Sys2Proof/Config.lean ====
section
/-! DEFINITION. What the spec leaves open: free values, opaque keys and codes, as constants without a body. Nothing in Lean can
evaluate them or prove a value of them. -/

namespace Sys2Proof

/-- The free values: contents that the spec calls undefined (01 R24, 14 R356, 05 R125); the machine draws them one after the
other by the counter `fresh` of State. Log entry 4 (DESIGN CHOICE). -/
opaque Config.freeByte : Nat → Byte

/-- Whether an activation start leaves the bytes that R24 calls undefined with new values, by the counter `fresh`. Log entry 42
(DEDUCED). -/
opaque Config.startClobbers : Nat → Bool

/-- A free 64-bit value, drawn by the counter `fresh`. Log entry 4 (DESIGN CHOICE). -/
opaque Config.freeWord : Nat → Word

/-- Which of the outcomes of R125 a word with three or more flipped bits has: 0 uncorrectable, 1 a wrong correction, 2 none. Log entry 67 (DESIGN CHOICE). -/
opaque Config.manyFlips : Nat → Fin 3

/-- The bit that a wrong correction flips (R125). Log entry 67 (DESIGN CHOICE). -/
opaque Config.wrongBit : Nat → Fin 64

/-- The seal key of a context (05 R127): derived by the quay from its key store, read by no instruction. Log entry 66 (DESIGN CHOICE). -/
opaque Config.sealKey : Nat → BitVec 128

/-- The module serial number (16 R403, R405). Log entry 66 (DESIGN CHOICE). -/
opaque Config.serial : List Byte

/-- The measurements of the firmware images (16 R404, R405). Log entry 66 (DESIGN CHOICE). -/
opaque Config.measurements : List Byte

/-- The firmware release of the identity block (16 R405). Log entry 66 (DESIGN CHOICE). -/
opaque Config.firmwareRelease : List Byte

/-- The attestation public key (16 R405). Log entry 66 (DESIGN CHOICE). -/
opaque Config.attestPublicKey : List Byte

/-- ECDSA P-256 signatures of the attestation key (16 R405). Log entry 66 (DESIGN CHOICE). -/
opaque Config.attestSign : List Byte → List Byte

/-- ECDSA P-256 signatures of the metering key (16 R403). Log entry 66 (DESIGN CHOICE). -/
opaque Config.meterSign : List Byte → List Byte

/-- The doubleword that an atomic folds for its encoding's m and c (14 R349 does not say how the two stand in it). Log entry 65 (DESIGN CHOICE). -/
opaque Config.atomCode : Nat → Nat → BitVec 64

/-- Where in the control block the kill report stands (15 R368 gives no place). Log entry 63 (DESIGN CHOICE). -/
opaque Config.killReportAt : Fin 3969

/-- What the quay keeps in a byte of a context's control block that no software wrote (01 R26 gives the items and no layout). Log entry 63 (DESIGN CHOICE). -/
opaque Config.ctlByte : Nat → Nat → Byte

/-- The digest of a lockstep core over what a retirement writes and sends (14 R351, which names no function). Log entry 44 (DESIGN CHOICE). -/
opaque Config.digest : List Word → Word

/-- The byte and the bit of the control block that enable shadow trapping (14 R346; 01 R26 gives the items and no layout). Log entry 63 (DESIGN CHOICE). -/
opaque Config.shadowTrapAt : Fin 4096 × Fin 8

/-- Which context and which of energy, tile-cycles and edge bytes stand in doubleword k of the region meter window (15 R360 gives no
layout). Log entry 63 (DESIGN CHOICE). -/
opaque Config.meterSlot : Nat → Nat × Fin 3

/-- The FP32 value of σ, or of σxσy, where the variance under the root is negative: 13 R317 defines σ for a non-negative variance
only. Log entry 64 (DESIGN CHOICE). -/
opaque Config.negativeRoot : Nat → Nat → BitVec 32

/-- What KNL.relu (0) and KNL.sig (2) write for a mean and a negative variance, for which 13 R323 states no result. Log entry 64 (DESIGN CHOICE). -/
opaque Config.negativeVariance : Nat → Nat → Nat → BitVec 32 × BitVec 32

/-- The module that holds a page which the quay maps (05 R117 gives the quay the choice), by context and page. Log entry 13 (DESIGN CHOICE). -/
opaque Config.homeModule : Nat → Nat → Fin 64

/-- The frame of that page in its module (05 R117), which nothing of the model reads. Log entry 13 (DESIGN CHOICE). -/
opaque Config.homeFrame : Nat → Nat → Nat

/-- The engine whose buffer holds a NET page, by partition and window. Log entry 13 (DESIGN CHOICE). -/
opaque Config.homeEngine : Nat → Nat → Fin 16

/-- Two places in the last doublewords of an accumulator's image for VALID and INT, for which 15 R379 gives no layout. Log entry 25 (DESIGN CHOICE). -/
opaque Config.validBit : Fin 64
opaque Config.intBit : Fin 63

/-- Whether a percentage of a residency report that is no whole number is rounded up (16 R400 gives no rounding): by level and quota. Log entry 46 (DESIGN CHOICE). -/
opaque Config.percentUp : Nat → Nat → Bool

/-- Where the quay maps a partition's NET windows (16 R401 gives the quay the choice): the first of its windows, in units of 2^26 bytes. Log entry 47 (DESIGN CHOICE). -/
opaque Config.netBase : Nat → Fin 536870912

/-- The EDGE pointers of a context's dock and control block (15 R359). Log entry 63 (DESIGN CHOICE). -/
opaque Config.dockPtr : Nat → Word
opaque Config.ctlPtr : Nat → Word

/-- AES-256-GCM of a storage value under the storage key of a partition, with its nonce (16 R402), which no instruction reads. Log entry 66 (DESIGN CHOICE). -/
opaque Config.storageSeal : Nat → List Byte → List Byte

/-- The GCM tag of a frame under a key of the key store, from the bytes 0 to 47 of its header and its payload (16 R396, R402). Log entry 66 (DESIGN CHOICE). -/
opaque Config.gcmTag : KeyName → List Byte → List Byte → Vector Byte 16

/-- The sender identifier in the nonces of the device (16 R396). Log entry 58 (DESIGN CHOICE). -/
opaque Config.senderId : BitVec 32

/-- The 64 bytes of a journal record, from its contents in the order of 16 R403, which gives no layout. Log entry 56 (DESIGN CHOICE). -/
opaque Config.journalRecord : List Nat → Vector Byte 64

/-- The bytes of an error report as QUERY 2 returns it, from its contents in the order of 16 R406, which gives no layout. Log entry 59 (DESIGN CHOICE). -/
opaque Config.errRecord : List Nat → List Byte

end Sys2Proof
end

