-- ==== Sys2Proof/WellFormed.lean ====
section
/-! DEFINITION. Well-formed instructions: the operand values the encodings admit and the decoder does not refuse
(02_words R44-R50 and the encoding rules of each chapter), and well-formed events. -/

namespace Sys2Proof

/-- A signed immediate of w bits (R45). -/
def fitsS (w : Nat) (v : Int) : Bool := decide (-(2 ^ (w - 1) : Int) ≤ v) && decide (v < (2 ^ (w - 1) : Int))

/-- R124: a load is relaxed or an acquire. -/
def loadOrder (x : Option Xsc) : Bool :=
  match x with
  | none => true
  | some x => x.ord == .rlx || x.ord == .acq

/-- R124, R221: a store, a CPY or a COLL is relaxed or a release. -/
def storeOrder (x : Option Xsc) : Bool :=
  match x with
  | none => true
  | some x => x.ord == .rlx || x.ord == .rel

/-- R158: a SEND takes every order but acquire. -/
def sendOrder (x : Option Xsc) : Bool :=
  match x with
  | none => true
  | some x => x.ord != .acq

/-- A row code that may be written or stored: 0-13 (R54). -/
def rowDst (d : RCode) : Bool := decide (d.val ≤ 13)

/-- A row code that may be read: 0-14 (R54). -/
def rowSrc (a : RCode) : Bool := decide (a.val ≤ 14)

/-- The even register of a capability pair (R127). -/
def evenReg (a : SReg) : Bool := a.val % 2 == 0

/-- The even register of a moment accumulator (R55). -/
def evenAcc (a : AccR) : Bool := a.val % 2 == 0

/-- The width in bytes of a lane (R247, R248). -/
def RType.width : RType → Nat
  | .f32 | .i32 | .n32 => 4
  | .bf16 | .f16 | .i16 => 2
  | .i8 | .n8 => 1

/-- The float types (R247). -/
def RType.isFloat : RType → Bool
  | .f32 | .bf16 | .f16 => true
  | _ => false

/-- The integer types, which the logic, shift, shuffle and iota instructions take (R253). -/
def RType.isLogic (t : RType) : Bool := !t.isFloat

/-- The types of VUNA ABS and NEG (R259). -/
def RType.isSigned : RType → Bool
  | .n8 | .n32 => false
  | _ => true

/-- How many part indices VCVT accepts (R263). -/
def cvtParts (src dst : RType) : Nat :=
  if src.width < dst.width then dst.width / src.width
  else if dst.width < src.width then src.width / dst.width else 1

/-- An endpoint that exists (R9, R18, R168). -/
def Endpoint.wf : Endpoint → Bool
  | .tile x y => decide (x < 256) && decide (y < 256)
  | .quay r => decide (r < 64)
  | .module n => decide (n < 64)
  | .engine n => decide (n < 16)
  | .ualink n => decide (n < 8)

/-- A phaser request that names a slot that exists (R202). -/
def PhReq.wf (r : PhReq) : Bool :=
  (if r.engine then decide (r.slot < 1024) && decide (r.region < 64) else decide (r.slot < 8)) &&
    decide (r.mx < 256) && decide (r.my < 256)

/-- The payload length of a message (R158). -/
def MsgKind.bytes : MsgKind → Nat
  | .scalar => 8
  | .row => 64
  | .tileToRing => 1024
  | .header => 0

/-- A body whose sizes are those of its kind: an access is at most 2 KiB (R327). -/
def Body.wf : Body → Bool
  | .msg k _ _ _ _ _ p _ => p.length == k.bytes
  | .read _ _ n => decide (n ≤ 2048)
  | .write _ b => decide (b.length ≤ 2048)
  | .atomic _ w _ o _ _ => o % (if w then 4 else 8) == 0
  | .phArrive r | .phWait r | .phReg r | .phQry r => r.wf
  | .writeBack s b _ => decide (s < 16384) && b.length == 32
  | .recall s => decide (s < 16384)
  | .data _ b => decide (b.length ≤ 2048)
  | .close | .old _ _ _ | .value _ | .ack _ | .retry | .reject | .ask _ _ _ | .told _ | .completed _ | .resend _ | .stop => true
  | .q4 _ a => decide (a.length ≤ 3)
  | .entry w => decide (w.x < 256) && decide (w.y < 272)
  | .failed l _ _ => decide (l.x < 256) && decide (l.y < 272)

/-- A packet between endpoints that exist, its replay-queue entry among the eight of a core or none of them, its context and tags in
their fields (R156). -/
def Packet.wf (p : Packet) : Bool :=
  p.dst.wf && p.src.wf && decide (p.ctx < 4096) && decide (p.ttag < 4096) && decide (p.part < 64) &&
    decide (p.ent ≤ 8) && decide (p.age < 128) && p.body.wf

/-- A link of a router that exists: 272 physical rows (R8). -/
def Link.wf (l : Link) : Bool := decide (l.x < 256) && decide (l.y < 272)

/-- A placement whose rectangle starts at even coordinates (R411). -/
def PlaceChoice.wf (c : PlaceChoice) : Bool :=
  decide (c.tag < 4096) && (c.handles.all (· != 0)) &&
    (c.partners.all fun p => decide (p.1 < 256) && decide (p.2 < 256) && p.1 % 2 == 0 && p.2 % 2 == 0) &&
    match c.origin with
    | none => true
    | some (x, y) => decide (x < 256) && decide (y < 256) && x % 2 == 0 && y % 2 == 0

/-! ### Payloads of RPC frames (16 R396, R399) -/

/-- The n low bytes of a number, the least significant first. -/
def lowBytes (n v : Nat) : List (BitVec 8) := (List.range n).map fun k => BitVec.ofNat 8 (v / 256 ^ k)

/-- Bytes 0 to 39 of a LAUNCH payload (R399). -/
def LaunchPacket.head (p : LaunchPacket) : List (BitVec 8) :=
  lowBytes 1 p.quay ++ lowBytes 1 p.prio ++ lowBytes 2 p.ctx ++ lowBytes 1 p.w ++ lowBytes 1 p.h ++ lowBytes 1 p.preds.length ++ [0] ++
    (List.range 8).flatMap fun k => lowBytes 4 (p.preds.getD k 0)

/-- Bytes 0 to 19 of a WRITE or READ payload (R399). -/
def rangeHead (ctx off len : Nat) : List (BitVec 8) := lowBytes 2 ctx ++ List.replicate 6 0 ++ lowBytes 8 off ++ lowBytes 4 len

/-- A frame names a partition of its field, and LEN counts its payload (R396). -/
def Frame.wf (f : Frame) : Bool := f.part < 64 && f.len == f.payload.length


/-- Well-formed instructions and events. -/
def Instr.wf : Instr → Bool
  | .nop => true
  | .endAct => true
  | .ret => true
  | .brk => true
  | .endTeam => true
  | .add _ _ _ => true
  | .sub _ _ _ => true
  | .and _ _ _ => true
  | .or _ _ _ => true
  | .xor _ _ _ => true
  | .shl _ _ _ => true
  | .shr _ _ _ => true
  | .sha _ _ _ => true
  | .mul _ _ _ => true
  | .mulh _ _ _ => true
  | .div _ _ _ => true
  | .rem _ _ _ => true
  | .seq _ _ _ => true
  | .slt _ _ _ => true
  | .sltu _ _ _ => true
  | .sel _ _ _ => true
  | .min _ _ _ => true
  | .max _ _ _ => true
  | .minu _ _ _ => true
  | .maxu _ _ _ => true
  | .addi _ _ imm => fitsS 49 imm
  | .li _ imm => fitsS 52 imm
  | .andi _ _ imm => fitsS 49 imm
  | .shli _ _ _ => true
  | .shri _ _ _ => true
  | .shai _ _ _ => true
  | .mov _ _ => true
  | .qrd _ _ => true
  | .qwr _ _ => true
  | .ldw _ _ imm x => fitsS 49 imm && loadOrder x
  | .ldd _ _ imm x => fitsS 49 imm && loadOrder x
  | .stw _ _ imm x => fitsS 49 imm && storeOrder x
  | .std _ _ imm x => fitsS 49 imm && storeOrder x
  | .ldr d _ imm _ x => fitsS 49 imm && loadOrder x && rowDst d
  | .str d _ imm _ x => fitsS 49 imm && storeOrder x && rowDst d
  | .bra imm => fitsS 55 imm
  | .call imm => fitsS 55 imm
  | .bz _ imm => fitsS 52 imm
  | .bnz _ imm => fitsS 52 imm
  | .loop d imm => fitsS 52 imm && (d != 0)
  | .sendS _ _ _ x => sendOrder x
  | .sendR d _ c _ x => sendOrder x && rowSrc d && (c == 0 || d == 14)
  | .sendT _ _ _ x => sendOrder x
  | .sendH _ _ x => sendOrder x
  | .inpop _ => true
  | .inrd _ _ => true
  | .inrdR d _ _ => rowDst d
  | .insk _ => true
  | .rwaitFull _ n => (1 ≤ n.val && n.val ≤ 64)
  | .rwaitFree _ n => (1 ≤ n.val && n.val ≤ 64)
  | .radvHead _ n => (1 ≤ n.val && n.val ≤ 64)
  | .radvTail _ n => (1 ≤ n.val && n.val ≤ 64)
  | .jr _ => true
  | .callr _ => true
  | .mulhu _ _ _ => true
  | .divu _ _ _ => true
  | .remu _ _ _ => true
  | .clz _ _ => true
  | .ctz _ _ => true
  | .popc _ _ => true
  | .brev _ _ => true
  | .bext _ _ _ => true
  | .bins _ _ _ => true
  | .sextB _ _ => true
  | .sextH _ _ => true
  | .sextW _ _ => true
  | .zextW _ _ => true
  | .addw _ _ _ => true
  | .subw _ _ _ => true
  | .mulw _ _ _ => true
  | .divw _ _ _ => true
  | .remw _ _ _ => true
  | .divuw _ _ _ => true
  | .remuw _ _ _ => true
  | .padd _ _ _ => true
  | .pmk _ _ _ => true
  | .pspc _ _ => true
  | .prnk _ _ => true
  | .poff _ _ => true
  | .bccEq _ _ imm => fitsS 36 imm
  | .bccNe _ _ imm => fitsS 36 imm
  | .bccLt _ _ imm => fitsS 36 imm
  | .bccGe _ _ imm => fitsS 36 imm
  | .bccuLtu _ _ imm => fitsS 36 imm
  | .bccuGeu _ _ imm => fitsS 36 imm
  | .ldx _ _ _ _ x => loadOrder x
  | .ldxs _ _ _ _ x => loadOrder x
  | .stx _ _ _ _ x => storeOrder x
  | .ldt _ _ imm x => fitsS 38 imm && loadOrder x
  | .stt _ _ imm x => fitsS 38 imm && storeOrder x
  | .lds d _ _ _ x => loadOrder x && rowDst d
  | .sts d _ _ _ x => storeOrder x && rowDst d
  | .cld _ _ a _ x => loadOrder x && evenReg a
  | .cst _ _ a _ x => storeOrder x && evenReg a
  | .cbnd _ a _ => evenReg a
  | .cnar d a _ _ => evenReg a && evenReg d
  | .cchk _ a _ => evenReg a
  | .alloc d _ _ => evenReg d
  | .free a => evenReg a
  | .fenceRwTile => true
  | .fenceRwQuad => true
  | .fenceRwRegion => true
  | .fenceRwWafer => true
  | .fenceRwPod => true
  | .fenceR => true
  | .fenceWTile => true
  | .fenceWQuad => true
  | .fenceWRegion => true
  | .fenceWWafer => true
  | .fenceWPod => true
  | .fenceI => true
  | .amoaAdd _ _ _ _ _ => true
  | .amoaAnd _ _ _ _ _ => true
  | .amoaOr _ _ _ _ _ => true
  | .amoaXor _ _ _ _ _ => true
  | .amobMin _ _ _ _ _ => true
  | .amobMax _ _ _ _ _ => true
  | .amobMinu _ _ _ _ _ => true
  | .amobMaxu _ _ _ _ _ => true
  | .amobSwap _ _ _ _ _ => true
  | .casW _ _ _ _ => true
  | .casD _ _ _ _ => true
  | .phnew _ _ => true
  | .phreg _ _ _ => true
  | .phdrop _ _ => true
  | .phqry _ _ => true
  | .pharr _ _ o => (o == none || o == some .rlx || o == some .rel)
  | .phwait _ _ o => (o == none || o == some .rlx || o == some .acq)
  | .phaw _ _ _ => true
  | .bar _ _ _ => true
  | .bara _ _ _ => true
  | .barw _ _ _ => true
  | .cpy _ _ x => storeOrder x
  | .cpy2d _ _ x => storeOrder x
  | .cpyGth _ _ x => storeOrder x
  | .cpyRing _ _ x => storeOrder x
  | .waitp _ _ => true
  | .kvget _ a _ => evenReg a
  | .kvset _ a _ => evenReg a
  | .kvdel _ _ => true
  | .kvlst _ a _ => evenReg a
  | .collRed _ _ x => storeOrder x
  | .collBcst _ _ x => storeOrder x
  | .collAgth _ _ x => storeOrder x
  | .plh _ _ => true
  | .plq _ _ => true
  | .vadd _ d a b x => rowDst d && rowSrc a && rowSrc b && (x.c == 0 || a == 14 || b == 14)
  | .vsub _ d a b x => rowDst d && rowSrc a && rowSrc b && (x.c == 0 || a == 14 || b == 14)
  | .vmul _ d a b x => rowDst d && rowSrc a && rowSrc b && (x.c == 0 || a == 14 || b == 14)
  | .vfma _ d a b x => rowDst d && rowSrc a && rowSrc b && (x.c == 0 || a == 14 || b == 14)
  | .vmin _ d a b x => rowDst d && rowSrc a && rowSrc b && (x.c == 0 || a == 14 || b == 14)
  | .vmax _ d a b x => rowDst d && rowSrc a && rowSrc b && (x.c == 0 || a == 14 || b == 14)
  | .vand ty d a b x => rowDst d && ty.isLogic && rowSrc a && rowSrc b && (x.c == 0 || a == 14 || b == 14)
  | .vor ty d a b x => rowDst d && ty.isLogic && rowSrc a && rowSrc b && (x.c == 0 || a == 14 || b == 14)
  | .vxor ty d a b x => rowDst d && ty.isLogic && rowSrc a && rowSrc b && (x.c == 0 || a == 14 || b == 14)
  | .vshl ty d a b x => rowDst d && ty.isLogic && rowSrc a && rowSrc b && (x.c == 0 || a == 14 || b == 14)
  | .vshr ty d a b x => rowDst d && ty.isLogic && rowSrc a && rowSrc b && (x.c == 0 || a == 14 || b == 14)
  | .vceq _ d a b x => rowDst d && rowSrc a && rowSrc b && (x.c == 0 || a == 14 || b == 14)
  | .vclt _ d a b x => rowDst d && rowSrc a && rowSrc b && (x.c == 0 || a == 14 || b == 14)
  | .vcle _ d a b x => rowDst d && rowSrc a && rowSrc b && (x.c == 0 || a == 14 || b == 14)
  | .vsel _ d a b x => rowDst d && rowSrc a && rowSrc b && (x.c == 0 || a == 14 || b == 14)
  | .vunaAbs ty d a x => rowDst d && ty.isSigned && rowSrc a && (x.c == 0 || a == 14)
  | .vunaNeg ty d a x => rowDst d && ty.isSigned && rowSrc a && (x.c == 0 || a == 14)
  | .vunaExp ty d a x => rowDst d && ty.isFloat && rowSrc a && (x.c == 0 || a == 14)
  | .vunaLog2 ty d a x => rowDst d && ty.isFloat && rowSrc a && (x.c == 0 || a == 14)
  | .vunaRcp ty d a x => rowDst d && ty.isFloat && rowSrc a && (x.c == 0 || a == 14)
  | .vunaRsq ty d a x => rowDst d && ty.isFloat && rowSrc a && (x.c == 0 || a == 14)
  | .vunaTanh ty d a x => rowDst d && ty.isFloat && rowSrc a && (x.c == 0 || a == 14)
  | .vunaSig ty d a x => rowDst d && ty.isFloat && rowSrc a && (x.c == 0 || a == 14)
  | .vredSum _ d a x => rowDst d && rowSrc a && (x.c == 0 || a == 14)
  | .vredMax _ d a x => rowDst d && rowSrc a && (x.c == 0 || a == 14)
  | .vredMin _ d a x => rowDst d && rowSrc a && (x.c == 0 || a == 14)
  | .vredSsq _ d a x => rowDst d && rowSrc a && (x.c == 0 || a == 14)
  | .vcvt ty src d a x => rowDst d && rowDst a && (x.c.val < cvtParts src ty)
  | .vbc _ d a _ x => rowDst d && rowSrc a && (x.c == 0 || a == 14)
  | .vmov d a x => rowDst d && rowSrc a && (x.c == 0 || a == 14)
  | .vshuf ty d a b x => rowDst d && ty.isLogic && rowSrc a && rowSrc b && (x.c == 0 || a == 14 || b == 14)
  | .vscan _ d a x => rowDst d && rowSrc a && (x.c == 0 || a == 14)
  | .viota ty d _ x => rowDst d && ty.isLogic && (x.c == 0)
  | .vrot _ d a _ x => rowDst d && rowSrc a && (x.c == 0 || a == 14)
  | .mmaAcc _ _ _ _ => true
  | .mmaOvw _ _ _ _ => true
  | .mmaKeepb _ _ _ _ => true
  | .mmaKeepa _ _ _ _ => true
  | .mmq d _ _ _ _ => (d == 0 || d == 4)
  | .mmg _ _ _ _ => true
  | .chkv _ _ => true
  | .cfix _ _ => true
  | .csrd _ _ _ => true
  | .macz _ => true
  | .macrdF32 _ _ => true
  | .macrdBf16 _ _ _ => true
  | .macrdT8 _ _ _ _ => true
  | .macwr _ _ => true
  | .mwait0 => true
  | .mwait1 => true
  | .mwait2 => true
  | .mwait3 => true
  | .mwait4 => true
  | .mwait5 => true
  | .mwait6 => true
  | .mwait7 => true
  | .mwaitAll => true
  | .mtr _ _ => true
  | .rcfg _ _ => true
  | .rqry _ _ => true
  | .rpsh _ _ _ => true
  | .rtak _ _ _ _ => true
  | .kadd _ _ _ => true
  | .ksub _ _ _ => true
  | .kmul _ _ _ => true
  | .kfma _ _ _ => true
  | .kaddd _ _ _ => true
  | .kscl _ _ _ => true
  | .kmuld _ _ _ => true
  | .kvsub _ _ _ => true
  | .knlRelu _ _ => true
  | .knlExp _ _ => true
  | .knlSig _ _ => true
  | .knlSq _ _ => true
  | .knlRcp _ _ => true
  | .kmk _ _ _ _ => true
  | .kcolMean _ _ => true
  | .kcolVar _ _ => true
  | .kcolSdev _ _ => true
  | .kcolDraw _ _ b _ _ c => rowSrc b && (c == 0 || b == 14)
  | .kldMp32 _ _ => true
  | .kldMb16 _ _ => true
  | .kstMp32 _ _ => true
  | .kstMb16 _ _ => true
  | .kmmaDwAcc d _ _ _ _ => evenAcc d
  | .kmmaMwAcc d _ _ _ _ => evenAcc d
  | .kmmaDwOvw d _ _ _ _ => evenAcc d
  | .kmmaMwOvw d _ _ _ _ => evenAcc d
  | .kacrd _ a => evenAcc a
  | .kred _ _ => true
  | .kmode _ _ => true
  | .kmov _ _ => true
  | .kmovTr _ _ => true
  | .qnt _ d _ _ _ _ => rowDst d
  | .dqn _ _ a _ _ _ => rowDst a
  | .baq d a b _ _ _ => rowDst d && rowDst a && rowDst b
  | .trap code => (code < 2 ^ 41)
  | .tret => true
  | .rpqrd _ _ => true
  | .rpqwr _ _ => true
  | .rpqdrp _ => true
  | .rpqlen _ => true
  | .srd _ _ => true
  | .swr n _ => (n != 2 && n != 3 && n != 13 && n != 16)
  | .swrCki _ => true
  | .swrMctl _ => true
  | .swrFfl _ => true
  | .swrTvec _ => true
  | .cro imm => fitsS 44 imm
  | .crc => true
  | .chke _ _ => true
  | .sigS _ => true
  | .sigR a _ _ => rowDst a
  | .sigT _ => true
  | .sigRd _ => true
  | .inj _ _ => true
  | .ctxsv _ _ => true
  | .ctxld _ => true
  | .pack _ => true
  | .qsvcPing => true
  | .qsvcMap => true
  | .qsvcUnmap => true
  | .qsvcGroup => true
  | .qsvcYield => true
  | .qsvcReport => true
  | .qsvcDebug => true
  | .qsvcUnknown => true
  | .idle _ => true
  | .metr _ _ => true
  | .divideComplete _ => true
  | .allocResponse _ _ => true
  | .quayResponse _ => true
  | .remoteResponse p => p.wf
  | .translationResponse => true
  | .scrubTick => true
  | .scrubModule _ => true
  | .heldSlotWritePerform => true
  | .messageDelivery p => p.wf
  | .inboxAppendAfterWait => true
  | .ringMessageDelivery p => p.wf
  | .ringMessageAfterWait => true
  | .activationStart => true
  | .seqWindowArrival p => p.wf
  | .ackReceived p => p.wf
  | .retryReceived _ => true
  | .retryWaitExpiry k => (k < 64)
  | .rejectReceived p => p.wf
  | .resendNotice _ => true
  | .unackedTimeout k => (k < 64)
  | .vc0RequestRetry _ => true
  | .packetAgeTick _ => true
  | .flitCrcError l => l.wf
  | .linkCrcThreshold l => l.wf
  | .linkCreditTimeout l => l.wf
  | .failureReport l _ => l.wf
  | .regionFirewallCheck p region => p.wf && (region < 64)
  | .tileRetirement region col prow _ _ => (region < 64) && (col < 32) && (prow < 34)
  | .remoteAtomicAtHome p => p.wf
  | .leaseRecall hx hy sector => (hx < 256 && hy < 256) && (sector < 16384)
  | .leaseWriteBack p => p.wf
  | .phaserArrivalAtHome r => r.wf
  | .phaserWaitAtHome r => r.wf
  | .phaserRelease _ _ => true
  | .phaserRegisterAtHome r => r.wf
  | .barrierEpisodeComplete _ _ _ => true
  | .barrierRelease _ => true
  | .copyOperationStart => true
  | .copyRingRoom => true
  | .copyChunkTransfer => true
  | .copyOperationEnd => true
  | .completionPlaceDeferred => true
  | .storageCommandComplete _ a => a.keys.all fun k => (1 ≤ k.length) && (k.length ≤ 16)
  | .collContributionArrival slot c => (slot < 16384) && (c.member < 64)
  | .gatewayIndexReturn => true
  | .gatewayIndexTimeout slot _ => (slot < 16384)
  | .collTimeout slot => (slot < 16384)
  | .collPeerLost slot member => (slot < 16384) && (member < 64)
  | .unitOperationStart => true
  | .unitOperationRetire => true
  | .rpshSlotFilled => true
  | .mmqRendezvous => true
  | .mmqRetireSignal => true
  | .mmqTimeout => true
  | .trapTake _ _ _ _ => true
  | .forwardResume => true
  | .forwardDeliver => true
  | .forwardKill => true
  | .containmentUnwind _ => true
  | .deferredEvent => true
  | .iabHit => true
  | .singleStep => true
  | .lockstepMismatch _ => true
  | .stopRequest => true
  | .collectorQuiescent ctx tag => (ctx < 4096 && tag < 4096)
  | .stopAckTimeout ctx tag => (ctx < 4096 && tag < 4096)
  | .launchQueueTake region c => (region < 64) && c.wf
  | .teamEnd ctx tag => (ctx < 4096 && tag < 4096)
  | .teamSwapOut ctx tag => (ctx < 4096 && tag < 4096)
  | .spillDivert p => p.wf
  | .teamSwapIn ctx tag c => (ctx < 4096 && tag < 4096) && c.wf
  | .tokenBucketRefill ctx => (ctx < 4096)
  | .tokenBucketEmpty ctx => (ctx < 4096)
  | .energyMeterPeriod region _ => (region < 64)
  | .journalCheckpoint quay => (quay < 64)
  | .journalGapRecord quay => (quay < 64)
  | .idleWake => true
  | .q4RequestService => true
  | .clockStepChange region _ => (region < 64)
  | .pllRelockDone region => (region < 64)
  | .governorTick _ => true
  | .droopStretch region _ => (region < 64)
  | .rampInTolerance region => (region < 64)
  | .rampTimeout region => (region < 64)
  | .regulatorFault region => (region < 64)
  | .coolDone region => (region < 64)
  | .triesReset region => (region < 64)
  | .modulePowerCycle => true
  | .moduleBoot _ => true
  | .launch f pkt => (pkt.quay < 256 && pkt.prio < 4 && pkt.ctx < 2 ^ 16 && pkt.w < 256 && pkt.h < 256 && pkt.preds.length < 256 &&
      pkt.preds.all (· < 2 ^ 32)) && f.payload.take 40 == pkt.head && f.wf
  | .write f ctx off data => (ctx < 2 ^ 16 && off < 2 ^ 64 && data.length < 2 ^ 32) && f.payload == rangeHead ctx off data.length ++ data && f.wf
  | .read f ctx off len => (ctx < 2 ^ 16 && off < 2 ^ 64 && len < 2 ^ 32) && f.payload == rangeHead ctx off len && f.wf
  | .queryResidency f => f.wf
  | .queryCounters f ctx => (ctx < 2 ^ 16) && f.wf
  | .queryErrorLog f region => (region < 64) && f.wf
  | .queryTrace f region => (region < 64) && f.wf
  | .allocateQuarters f _ => f.payload.head? == some 0 && f.wf
  | .allocateCreateContext f _ => f.payload.head? == some 1 && f.wf
  | .allocateReleaseContext f ctx => (ctx < 2 ^ 16) && f.payload.head? == some 2 && f.wf
  | .stopContext f ctx => (ctx < 2 ^ 16) && f.wf
  | .stopTeam f ctx tag => (ctx < 2 ^ 16 && tag < 4096) && f.wf
  | .attest f _ => f.wf
  | .journal f quay => (quay < 65) && f.wf
  | .promiseDeadline _ => true
  | .placementCacheFill => true
  | .swapAnnouncement ctx tag => (ctx < 4096 && tag < 4096)
  | .edgeMemoryModuleFailure engine number => (if engine then number < 16 else number < 64)
  | .hostRdmaOperation part _ _ _ _ => (part < 64)

end Sys2Proof
end

