-- ==== Sys2Proof/Decode.lean ====
section
/-! DEFINITION. Decoding a bundle from its instruction words, rejecting by name, and the encoder (02_words R37-R51, the
encoding tables of chapters 03 to 15). -/

namespace Sys2Proof

/-- Why a bundle is illegal (R40, R50): the offence that is charged to a word. -/
inductive IllReason where
  | fifthPrefix | repeatedPrefix | reservedKind | mustBeZero | notAccepted | unassigned | refused
  deriving DecidableEq, Repr, Inhabited

/-- What the decoder reads: an instruction of n words; ILL, the charged word being word k of the bundle (R40); or a bundle
that goes on past the words given. -/
inductive Decoded where
  | instr (i : Instr) (n : Nat)
  | ill (why : IllReason) (k : Nat)
  | short
  deriving DecidableEq, Repr, Inhabited

/-- A bundle whose prefixes are legal: page, primary opcode, the other 11 bits of the base word, the prefix payloads
(R44-R46). -/
structure Bundle where
  page : Nat := 0
  op : Nat := 0
  o : Nat := 0
  xrg : Option Nat := none
  rep : Option Nat := none
  xlv : Option Nat := none
  xsc : Option Nat := none
  xwt : Option Nat := none
  xims : List Nat := []
  deriving DecidableEq, Repr, Inhabited

/-! ### Fields of the base word (R44) and of the prefixes (R46) -/

def Bundle.fm (b : Bundle) : Nat := b.o / 512
def Bundle.fd (b : Bundle) : Nat := b.o / 64 % 8
def Bundle.fa (b : Bundle) : Nat := b.o / 8 % 8
def Bundle.fb (b : Bundle) : Nat := b.o % 8
/-- Register field of FI, F2I and FS. -/
def Bundle.id (b : Bundle) : Nat := b.o / 256
/-- Immediate of FI, number of FS. -/
def Bundle.i (b : Bundle) : Nat := b.o % 256
/-- Second register field of F2I. -/
def Bundle.ja (b : Bundle) : Nat := b.o / 32 % 8
/-- Immediate of F2I. -/
def Bundle.j (b : Bundle) : Nat := b.o % 32
def Bundle.hd (b : Bundle) : Nat := b.xrg.getD 0 / 128
def Bundle.ha (b : Bundle) : Nat := b.xrg.getD 0 / 64 % 2
def Bundle.hb (b : Bundle) : Nat := b.xrg.getD 0 / 32 % 2
def Bundle.c (b : Bundle) : Nat := b.xrg.getD 0 % 16
def Bundle.row (b : Bundle) : Nat := b.xlv.getD 0 / 16
def Bundle.tx (b : Bundle) : Nat := b.xlv.getD 0 / 8 % 2
def Bundle.bank (b : Bundle) : Nat := b.xlv.getD 0 / 4 % 2
def Bundle.noXlv (b : Bundle) : Bool := b.xlv.getD 0 == 0
def Bundle.scScope (b : Bundle) : Nat := b.xsc.getD 0 % 8
def Bundle.scOrd (b : Bundle) : Nat := b.xsc.getD 0 / 8

def r4 (lo hi : Nat) : Fin 16 := Fin.ofNat 16 (lo + 8 * hi)
def r3 (lo : Nat) : Fin 8 := Fin.ofNat 8 lo
def r2 (lo : Nat) : Fin 4 := Fin.ofNat 4 lo
def rc (c : Nat) : Fin 16 := Fin.ofNat 16 c
def n8 (n : Nat) : Fin 256 := Fin.ofNat 256 n
def n7 (n : Nat) : Fin 128 := Fin.ofNat 128 n
def shOf (n : Nat) : Fin 64 := Fin.ofNat 64 n
/-- A tile register from its 3-bit code and the XLV bank (R54). -/
def tile (lo bank : Nat) : TReg := Fin.ofNat 16 (lo + 8 * bank)
/-- Code 13 is the zero row. -/
def opt13 {α : Type} (lo hi : Nat) (x : α) : Option α := if lo + 8 * hi == 13 then none else some x
def halfOf (row : Nat) : Fin 2 := Fin.ofNat 2 (row / 8)
def quarterOf (row : Nat) : Fin 4 := Fin.ofNat 4 (row / 4)

def sizeOf (m : Nat) : Size := match m with | 0 => .b | 1 => .h | 2 => .w | _ => .d
def sizeCode : Size → Nat | .b => 0 | .h => 1 | .w => 2 | .d => 3
def typeOf (t : Nat) : RType :=
  match t with | 0 => .f32 | 1 => .bf16 | 2 => .i32 | 3 => .i8 | 4 => .f16 | 5 => .i16 | 6 => .n8 | _ => .n32
def typeCode : RType → Nat
  | .f32 => 0 | .bf16 => 1 | .i32 => 2 | .i8 => 3 | .f16 => 4 | .i16 => 5 | .n8 => 6 | .n32 => 7
def scopeOf (s : Nat) : Scope := match s with | 0 => .tile | 1 => .quad | 2 => .region | 3 => .wafer | _ => .pod
def scopeCode : Scope → Nat | .tile => 0 | .quad => 1 | .region => 2 | .wafer => 3 | .pod => 4
def orderOf (o : Nat) : Order := match o with | 0 => .rlx | 1 => .acq | 2 => .rel | _ => .ar
def orderCode : Order → Nat | .rlx => 0 | .acq => 1 | .rel => 2 | .ar => 3
def psetOf (s : Nat) : PhaserSet := match s with | 0 => .cmp | 1 => .stg | _ => .all
def psetCode : PhaserSet → Nat | .cmp => 0 | .stg => 1 | .all => 2
def keepOf (c : Nat) : Keep := match c with | 0 => .both | 1 => .aOnly | _ => .bOnly
def keepCode : Keep → Nat | .both => 0 | .aOnly => 1 | .bOnly => 2
def nselOf (b : Nat) : NarrowSel := { t6 := 2 ≤ b, bf16 := b % 2 == 1 }
def nselCode (f : NarrowSel) : Nat := (if f.t6 then 2 else 0) + (if f.bf16 then 1 else 0)

/-- The row type m + 4*tx (R51). -/
def Bundle.ty (b : Bundle) : RType := typeOf (b.fm + 4 * b.tx)
/-- The repeat count (R46). -/
def Bundle.repOf (b : Bundle) : Rep :=
  match b.rep with
  | none => .one
  | some p => if p < 128 then .imm (Fin.ofNat 128 p) else .reg (Fin.ofNat 16 p)
def Bundle.rowBase (b : Bundle) : Fin 16 := Fin.ofNat 16 b.row
def Bundle.bankOf (b : Bundle) : Bool := b.bank == 1
def Bundle.rowPos (b : Bundle) : RowPos := { rep := b.repOf, base := b.rowBase, bank := b.bankOf }
def Bundle.rowX (b : Bundle) : RowX := { rep := b.repOf, base := b.rowBase, bank := b.bankOf, c := rc b.c }
def Bundle.waOf (b : Bundle) : Fin 16 := Fin.ofNat 16 (b.xwt.getD 0 % 16)
def Bundle.wbOf (b : Bundle) : Fin 16 := Fin.ofNat 16 (b.xwt.getD 0 / 16)
def Bundle.matX (b : Bundle) : MatX := { rep := b.repOf, wa := b.waOf, wb := b.wbOf }
def Bundle.xscOf (b : Bundle) : Option Xsc := b.xsc.map fun p => { ord := orderOf (p / 8), scope := scopeOf (p % 8) }
/-- The scope of a FENCE, wafer where none is written (R149). -/
def Bundle.fenceScope (b : Bundle) : Nat := (b.xsc.map (· % 8)).getD 3
def Bundle.ordOf (b : Bundle) : Option Order := b.xsc.map fun p => orderOf (p / 8)

/-- The immediate of w bits in the base word extended by the XIM payloads, the first one most significant (R45). -/
def Bundle.immU (b : Bundle) (w lo : Nat) : Nat := (b.xims.foldl (fun v p => v * 2048 + p) 0) * 2 ^ w + lo
/-- The same, sign-extended from its most significant bit (R45). -/
def Bundle.immS (b : Bundle) (w lo : Nat) : Int :=
  let n := w + 11 * b.xims.length
  let v := b.immU w lo
  if v < 2 ^ (n - 1) then (v : Int) else (v : Int) - (2 ^ n : Nat)

/-- An instruction where its encoding's fields are legal. -/
def req (ok : Bool) (i : Instr) : Option Instr := if ok then some i else none

/-! ### The opcode map (R51) -/

/-- The prefix kinds a base word accepts (R47). -/
structure Kinds where
  xim : Bool := false
  xrg : Bool := false
  rep : Bool := false
  xlv : Bool := false
  xsc : Bool := false
  xwt : Bool := false
  deriving DecidableEq, Repr, Inhabited

/-- The prefix kinds that the base word accepts besides XPG (R47); `none` where the map lists no instruction (R50, R51). MMQ is not in the
list of REP, though R300 gives it the prefixes of MMA: log entry 88 (DEDUCED). -/
def kindsOf (page op m d b : Nat) : Option Kinds :=
  match page, op with
  | 0, 0 => if m == 0 && decide (d < 5) then some {} else none
  | 0, 1 => some { xrg := true }
  | 0, 2 => some { xrg := true }
  | 0, 3 => some { xrg := true }
  | 0, 4 => some { xrg := true }
  | 0, 5 => some { xrg := true }
  | 0, 6 => some { xim := true, xrg := true }
  | 0, 7 => some { xim := true, xrg := true }
  | 0, 8 => some { xim := true, xrg := true }
  | 0, 9 => some { xim := true, xrg := true }
  | 0, 10 => some { xim := true, xrg := true }
  | 0, 11 => some { xim := true, xrg := true }
  | 0, 12 => if m < 3 then some { xrg := true } else none
  | 0, 13 => some { xim := true, xrg := true, xsc := true }
  | 0, 14 => some { xim := true, xrg := true, xsc := true }
  | 0, 15 => some { xim := true, xrg := true, xsc := true }
  | 0, 16 => some { xim := true, xrg := true, xsc := true }
  | 0, 17 => some { xim := true, xrg := true, rep := true, xlv := true, xsc := true }
  | 0, 18 => some { xim := true, xrg := true, rep := true, xlv := true, xsc := true }
  | 0, 19 => some { xim := true }
  | 0, 20 => some { xim := true }
  | 0, 21 => some { xim := true, xrg := true }
  | 0, 22 => some { xim := true, xrg := true }
  | 0, 23 => some { xim := true, xrg := true }
  | 0, 24 => match m with | 0 => some { xrg := true, rep := true, xsc := true } | 1 => some { xrg := true, rep := true, xlv := true, xsc := true } | 2 => some { xrg := true, rep := true, xlv := true, xsc := true } | 3 => some { xrg := true, rep := true, xsc := true } | _ => none
  | 0, 25 => match m with | 0 => some { xrg := true } | 1 => some { xrg := true, xlv := b == 1 } | 2 => some { xrg := true } | _ => none
  | 0, 26 => some {}
  | 0, 27 => some {}
  | 0, 28 => if m < 2 then some { xrg := true } else none
  | 1, 0 => if m < 3 then some { xrg := true } else none
  | 1, 1 => some { xrg := true }
  | 1, 2 => if m < 1 then some { xrg := true } else none
  | 1, 3 => if m < 1 then some { xrg := true } else none
  | 1, 4 => some { xrg := true }
  | 1, 5 => some { xrg := true }
  | 1, 6 => if m < 3 then some { xrg := true } else none
  | 1, 7 => if m < 1 then some { xrg := true } else none
  | 1, 8 => some { xrg := true }
  | 1, 9 => some { xim := true, xrg := true }
  | 1, 10 => if m < 2 then some { xim := true, xrg := true } else none
  | 2, 0 => some { xrg := true, xsc := true }
  | 2, 1 => some { xrg := true, xsc := true }
  | 2, 2 => some { xrg := true, xsc := true }
  | 2, 7 => some { xrg := true, xsc := true }
  | 2, 8 => some { xrg := true, xsc := true }
  | 2, 3 => some { xim := true, xrg := true, xlv := true, xsc := true }
  | 2, 4 => some { xim := true, xrg := true, xlv := true, xsc := true }
  | 2, 5 => if m < 1 then some { xrg := true, rep := true, xlv := true, xsc := true } else none
  | 2, 6 => if m < 1 then some { xrg := true, rep := true, xlv := true, xsc := true } else none
  | 2, 9 => if m < 3 then some { xrg := true } else none
  | 2, 10 => if m < 1 then some { xrg := true } else none
  | 2, 11 => if m < 1 then some { xrg := true } else none
  | 2, 12 => some { xsc := true }
  | 3, 0 => some { xrg := true, xsc := true }
  | 3, 1 => if m < 3 then some { xrg := true, xsc := true } else none
  | 3, 2 => if m < 2 then some { xrg := true, xsc := true } else none
  | 3, 3 => some { xrg := true }
  | 3, 4 => if m < 3 then some { xrg := true, xsc := true } else none
  | 3, 5 => if m < 3 then some { xrg := true } else none
  | 3, 6 => some { xrg := true, xsc := true }
  | 3, 7 => if m < 1 then some { xrg := true } else none
  | 3, 8 => some { xrg := true }
  | 3, 9 => if m < 3 then some { xrg := true, xsc := true } else none
  | 3, 10 => if m < 2 then some { xrg := true } else none
  | 4, 0 => some { xrg := true, rep := true, xlv := true }
  | 4, 1 => some { xrg := true, rep := true, xlv := true }
  | 4, 2 => some { xrg := true, rep := true, xlv := true }
  | 4, 3 => some { xrg := true, rep := true, xlv := true }
  | 4, 4 => some { xrg := true, rep := true, xlv := true }
  | 4, 5 => some { xrg := true, rep := true, xlv := true }
  | 4, 6 => some { xrg := true, rep := true, xlv := true }
  | 4, 7 => some { xrg := true, rep := true, xlv := true }
  | 4, 8 => some { xrg := true, rep := true, xlv := true }
  | 4, 9 => some { xrg := true, rep := true, xlv := true }
  | 4, 10 => some { xrg := true, rep := true, xlv := true }
  | 4, 11 => some { xrg := true, rep := true, xlv := true }
  | 4, 12 => some { xrg := true, rep := true, xlv := true }
  | 4, 13 => some { xrg := true, rep := true, xlv := true }
  | 4, 14 => some { xrg := true, rep := true, xlv := true }
  | 4, 15 => some { xrg := true, rep := true, xlv := true }
  | 4, 16 => some { xrg := true, rep := true, xlv := true }
  | 4, 17 => some { xrg := true, rep := true, xlv := true }
  | 4, 18 => some { xrg := true, rep := true, xlv := true }
  | 4, 19 => some { xrg := true, rep := true, xlv := true }
  | 4, 20 => some { xrg := true, rep := true, xlv := true }
  | 4, 21 => some { xrg := true, rep := true, xlv := true }
  | 4, 22 => some { xrg := true, rep := true, xlv := true }
  | 4, 23 => some { xrg := true, rep := true, xlv := true }
  | 5, 0 => some { xrg := true, rep := true, xwt := true }
  | 5, 1 => if m < 1 then some { xrg := true, xwt := true } else none
  | 5, 2 => if m < 1 then some { xrg := true, rep := true, xwt := true } else none
  | 5, 3 => if m < 3 then some { xrg := true } else none
  | 5, 4 => if m < 1 then some { xrg := true } else none
  | 5, 5 => if m < 3 then some { xrg := true, xlv := true } else none
  | 5, 6 => if m < 1 then some { xrg := true, xlv := true } else none
  | 5, 7 => if m < 1 then some { xrg := true } else none
  | 5, 8 => if m < 1 then some { xrg := true } else none
  | 5, 9 => if m < 1 then some { xrg := true } else none
  | 5, 10 => if m < 1 then some { xrg := true } else none
  | 5, 11 => if m < 1 then some { xrg := true, rep := true, xlv := true } else none
  | 5, 12 => if m < 1 then some { xrg := true, rep := true, xlv := true, xwt := true } else none
  | 6, 0 => some { xrg := true }
  | 6, 1 => match m with | 0 => some { xrg := true, xlv := true } | 1 => some { xrg := true } | 2 => some { xrg := true, xlv := true } | 3 => some { xrg := true } | _ => none
  | 6, 2 => if m < 1 then some { xrg := true } else none
  | 6, 3 => if m < 1 then some { xrg := true, xlv := true } else none
  | 6, 4 => some { xrg := true, xlv := true }
  | 6, 5 => some { xrg := true }
  | 6, 6 => some { xrg := true, rep := true, xwt := true }
  | 6, 7 => if m < 1 then some { xrg := true } else none
  | 6, 8 => if m < 1 then some { xrg := true } else none
  | 6, 9 => if m < 1 then some { xrg := true } else none
  | 6, 10 => if m < 1 then some { xrg := true } else none
  | 6, 16 => if m < 1 then some { xrg := true, xlv := true } else none
  | 6, 17 => if m < 1 then some { xrg := true, xlv := true } else none
  | 6, 18 => if m < 1 then some { xrg := true, xlv := true } else none
  | 7, 0 => some { xim := true }
  | 7, 1 => if m < 1 then some {} else none
  | 7, 2 => some { xrg := true }
  | 7, 3 => some { xrg := true }
  | 7, 4 => some { xrg := true }
  | 7, 5 => some { xim := true }
  | 7, 6 => if m < 1 then some {} else none
  | 7, 7 => if m < 1 then some { xrg := true } else none
  | 7, 8 => match m with | 0 => some { xrg := true } | 1 => some { xrg := true, xlv := true } | 2 => some { xrg := true, xlv := true } | 3 => some { xrg := true } | _ => none
  | 7, 9 => if m < 1 then some { xrg := true } else none
  | 7, 10 => if m < 3 then some { xrg := true } else none
  | 7, 11 => some { xim := true }
  | 7, 12 => if m < 1 then some { xrg := true } else none
  | 7, 13 => if m < 1 then some { xrg := true } else none
  | _, _ => none

/-- The base words of page 0 (R51). -/
def Bundle.build0 (b : Bundle) : Option Instr :=
  match b.op with
  | 0 =>
    req (b.fm == 0 && b.fd == 0 && b.hd == 0 && b.fa == 0 && b.ha == 0 && b.fb == 0 && b.hb == 0 && b.c == 0) (.nop) <|>
    req (b.fm == 0 && b.fd == 1 && b.hd == 0 && b.fa == 0 && b.ha == 0 && b.fb == 0 && b.hb == 0 && b.c == 0) (.endAct) <|>
    req (b.fm == 0 && b.fd == 2 && b.hd == 0 && b.fa == 0 && b.ha == 0 && b.fb == 0 && b.hb == 0 && b.c == 0) (.ret) <|>
    req (b.fm == 0 && b.fd == 3 && b.hd == 0 && b.fa == 0 && b.ha == 0 && b.fb == 0 && b.hb == 0 && b.c == 0) (.brk) <|>
    req (b.fm == 0 && b.fd == 4 && b.hd == 0 && b.fa == 0 && b.ha == 0 && b.fb == 0 && b.hb == 0 && b.c == 0) (.endTeam)
  | 1 =>
    req (b.fm == 0 && b.c == 0) (.add (r4 b.fd b.hd) (r4 b.fa b.ha) (r4 b.fb b.hb)) <|>
    req (b.fm == 1 && b.c == 0) (.sub (r4 b.fd b.hd) (r4 b.fa b.ha) (r4 b.fb b.hb)) <|>
    req (b.fm == 2 && b.c == 0) (.and (r4 b.fd b.hd) (r4 b.fa b.ha) (r4 b.fb b.hb)) <|>
    req (b.fm == 3 && b.c == 0) (.or (r4 b.fd b.hd) (r4 b.fa b.ha) (r4 b.fb b.hb))
  | 2 =>
    req (b.fm == 0 && b.c == 0) (.xor (r4 b.fd b.hd) (r4 b.fa b.ha) (r4 b.fb b.hb)) <|>
    req (b.fm == 1 && b.c == 0) (.shl (r4 b.fd b.hd) (r4 b.fa b.ha) (r4 b.fb b.hb)) <|>
    req (b.fm == 2 && b.c == 0) (.shr (r4 b.fd b.hd) (r4 b.fa b.ha) (r4 b.fb b.hb)) <|>
    req (b.fm == 3 && b.c == 0) (.sha (r4 b.fd b.hd) (r4 b.fa b.ha) (r4 b.fb b.hb))
  | 3 =>
    req (b.fm == 0 && b.c == 0) (.mul (r4 b.fd b.hd) (r4 b.fa b.ha) (r4 b.fb b.hb)) <|>
    req (b.fm == 1 && b.c == 0) (.mulh (r4 b.fd b.hd) (r4 b.fa b.ha) (r4 b.fb b.hb)) <|>
    req (b.fm == 2 && b.c == 0) (.div (r4 b.fd b.hd) (r4 b.fa b.ha) (r4 b.fb b.hb)) <|>
    req (b.fm == 3 && b.c == 0) (.rem (r4 b.fd b.hd) (r4 b.fa b.ha) (r4 b.fb b.hb))
  | 4 =>
    req (b.fm == 0 && b.c == 0) (.seq (r4 b.fd b.hd) (r4 b.fa b.ha) (r4 b.fb b.hb)) <|>
    req (b.fm == 1 && b.c == 0) (.slt (r4 b.fd b.hd) (r4 b.fa b.ha) (r4 b.fb b.hb)) <|>
    req (b.fm == 2 && b.c == 0) (.sltu (r4 b.fd b.hd) (r4 b.fa b.ha) (r4 b.fb b.hb)) <|>
    req (b.fm == 3 && b.c == 0) (.sel (r4 b.fd b.hd) (r4 b.fa b.ha) (r4 b.fb b.hb))
  | 5 =>
    req (b.fm == 0 && b.c == 0) (.min (r4 b.fd b.hd) (r4 b.fa b.ha) (r4 b.fb b.hb)) <|>
    req (b.fm == 1 && b.c == 0) (.max (r4 b.fd b.hd) (r4 b.fa b.ha) (r4 b.fb b.hb)) <|>
    req (b.fm == 2 && b.c == 0) (.minu (r4 b.fd b.hd) (r4 b.fa b.ha) (r4 b.fb b.hb)) <|>
    req (b.fm == 3 && b.c == 0) (.maxu (r4 b.fd b.hd) (r4 b.fa b.ha) (r4 b.fb b.hb))
  | 6 =>
    req (b.hb == 0 && b.c == 0) (.addi (r4 b.id b.hd) (r4 b.ja b.ha) (b.immS 5 b.j))
  | 7 =>
    req (b.ha == 0 && b.hb == 0 && b.c == 0) (.li (r4 b.id b.hd) (b.immS 8 b.i))
  | 8 =>
    req (b.hb == 0 && b.c == 0) (.andi (r4 b.id b.hd) (r4 b.ja b.ha) (b.immS 5 b.j))
  | 9 =>
    req (b.hb == 0 && b.c == 0 && b.immU 5 b.j < 64) (.shli (r4 b.id b.hd) (r4 b.ja b.ha) (shOf (b.immU 5 b.j)))
  | 10 =>
    req (b.hb == 0 && b.c == 0 && b.immU 5 b.j < 64) (.shri (r4 b.id b.hd) (r4 b.ja b.ha) (shOf (b.immU 5 b.j)))
  | 11 =>
    req (b.hb == 0 && b.c == 0 && b.immU 5 b.j < 64) (.shai (r4 b.id b.hd) (r4 b.ja b.ha) (shOf (b.immU 5 b.j)))
  | 12 =>
    req (b.fm == 0 && b.fb == 0 && b.hb == 0 && b.c == 0) (.mov (r4 b.fd b.hd) (r4 b.fa b.ha)) <|>
    req (b.fm == 1 && b.ha == 0 && b.fb == 0 && b.hb == 0 && b.c == 0) (.qrd (r4 b.fd b.hd) (r3 b.fa)) <|>
    req (b.fm == 2 && b.hd == 0 && b.fb == 0 && b.hb == 0 && b.c == 0) (.qwr (r3 b.fd) (r4 b.fa b.ha))
  | 13 =>
    req (b.hb == 0 && b.c == 0) (.ldw (r4 b.id b.hd) (r4 b.ja b.ha) (b.immS 5 b.j) b.xscOf)
  | 14 =>
    req (b.hb == 0 && b.c == 0) (.ldd (r4 b.id b.hd) (r4 b.ja b.ha) (b.immS 5 b.j) b.xscOf)
  | 15 =>
    req (b.hb == 0 && b.c == 0) (.stw (r4 b.id b.hd) (r4 b.ja b.ha) (b.immS 5 b.j) b.xscOf)
  | 16 =>
    req (b.hb == 0 && b.c == 0) (.std (r4 b.id b.hd) (r4 b.ja b.ha) (b.immS 5 b.j) b.xscOf)
  | 17 =>
    req (b.hb == 0 && b.c == 0 && b.tx == 0) (.ldr (r4 b.id b.hd) (r4 b.ja b.ha) (b.immS 5 b.j) b.rowPos b.xscOf)
  | 18 =>
    req (b.hb == 0 && b.c == 0 && b.tx == 0) (.str (r4 b.id b.hd) (r4 b.ja b.ha) (b.immS 5 b.j) b.rowPos b.xscOf)
  | 19 =>
    req (true) (.bra (b.immS 11 b.o))
  | 20 =>
    req (true) (.call (b.immS 11 b.o))
  | 21 =>
    req (b.ha == 0 && b.hb == 0 && b.c == 0) (.bz (r4 b.id b.hd) (b.immS 8 b.i))
  | 22 =>
    req (b.ha == 0 && b.hb == 0 && b.c == 0) (.bnz (r4 b.id b.hd) (b.immS 8 b.i))
  | 23 =>
    req (b.ha == 0 && b.hb == 0 && b.c == 0) (.loop (r4 b.id b.hd) (b.immS 8 b.i))
  | 24 =>
    req (b.fm == 0 && b.fd == 0 && b.hd == 0 && b.c == 0) (.sendS (r4 b.fa b.ha) (r4 b.fb b.hb) b.repOf b.xscOf) <|>
    req (b.fm == 1 && b.fb == 0 && b.hb == 0 && b.tx == 0) (.sendR (r4 b.fd b.hd) (r4 b.fa b.ha) (rc b.c) b.rowPos b.xscOf) <|>
    req (b.fm == 2 && b.hd == 0 && b.fd < 4 && b.fb == 0 && b.hb == 0 && b.c == 0 && b.noXlv) (.sendT (r2 b.fd) (r4 b.fa b.ha) b.repOf b.xscOf) <|>
    req (b.fm == 3 && b.fd == 0 && b.hd == 0 && b.fb == 0 && b.hb == 0 && b.c == 0) (.sendH (r4 b.fa b.ha) b.repOf b.xscOf)
  | 25 =>
    req (b.fm == 0 && b.fa == 0 && b.ha == 0 && b.fb == 0 && b.hb == 0 && b.c == 0) (.inpop (r4 b.fd b.hd)) <|>
    req (b.fm == 1 && b.fb == 0 && b.hb == 0 && b.c == 0) (.inrd (r4 b.fd b.hd) (r4 b.fa b.ha)) <|>
    req (b.fm == 1 && b.fa == 0 && b.ha == 0 && b.fb == 1 && b.hb == 0 && b.c == 0 && b.tx == 0) (.inrdR (r4 b.fd b.hd) b.rowBase b.bankOf) <|>
    req (b.fm == 2 && b.fa == 0 && b.ha == 0 && b.fb == 0 && b.hb == 0 && b.c == 0) (.insk (r4 b.fd b.hd))
  | 26 =>
    req (b.i < 128) (.rwaitFull (r3 b.id) (n7 b.i)) <|>
    req (128 ≤ b.i) (.rwaitFree (r3 b.id) (n7 b.i))
  | 27 =>
    req (b.i < 128) (.radvHead (r3 b.id) (n7 b.i)) <|>
    req (128 ≤ b.i) (.radvTail (r3 b.id) (n7 b.i))
  | 28 =>
    req (b.fm == 0 && b.fd == 0 && b.hd == 0 && b.fb == 0 && b.hb == 0 && b.c == 0) (.jr (r4 b.fa b.ha)) <|>
    req (b.fm == 1 && b.fd == 0 && b.hd == 0 && b.fb == 0 && b.hb == 0 && b.c == 0) (.callr (r4 b.fa b.ha))
  | _ => none

/-- The base words of page 1 (R51). -/
def Bundle.build1 (b : Bundle) : Option Instr :=
  match b.op with
  | 0 =>
    req (b.fm == 0 && b.c == 0) (.mulhu (r4 b.fd b.hd) (r4 b.fa b.ha) (r4 b.fb b.hb)) <|>
    req (b.fm == 1 && b.c == 0) (.divu (r4 b.fd b.hd) (r4 b.fa b.ha) (r4 b.fb b.hb)) <|>
    req (b.fm == 2 && b.c == 0) (.remu (r4 b.fd b.hd) (r4 b.fa b.ha) (r4 b.fb b.hb))
  | 1 =>
    req (b.fm == 0 && b.fb == 0 && b.hb == 0 && b.c == 0) (.clz (r4 b.fd b.hd) (r4 b.fa b.ha)) <|>
    req (b.fm == 1 && b.fb == 0 && b.hb == 0 && b.c == 0) (.ctz (r4 b.fd b.hd) (r4 b.fa b.ha)) <|>
    req (b.fm == 2 && b.fb == 0 && b.hb == 0 && b.c == 0) (.popc (r4 b.fd b.hd) (r4 b.fa b.ha)) <|>
    req (b.fm == 3 && b.fb == 0 && b.hb == 0 && b.c == 0) (.brev (r4 b.fd b.hd) (r4 b.fa b.ha))
  | 2 =>
    req (b.fm == 0 && b.c == 0) (.bext (r4 b.fd b.hd) (r4 b.fa b.ha) (r4 b.fb b.hb))
  | 3 =>
    req (b.fm == 0 && b.c == 0) (.bins (r4 b.fd b.hd) (r4 b.fa b.ha) (r4 b.fb b.hb))
  | 4 =>
    req (b.fm == 0 && b.fb == 0 && b.hb == 0 && b.c == 0) (.sextB (r4 b.fd b.hd) (r4 b.fa b.ha)) <|>
    req (b.fm == 1 && b.fb == 0 && b.hb == 0 && b.c == 0) (.sextH (r4 b.fd b.hd) (r4 b.fa b.ha)) <|>
    req (b.fm == 2 && b.fb == 0 && b.hb == 0 && b.c == 0) (.sextW (r4 b.fd b.hd) (r4 b.fa b.ha)) <|>
    req (b.fm == 3 && b.fb == 0 && b.hb == 0 && b.c == 0) (.zextW (r4 b.fd b.hd) (r4 b.fa b.ha))
  | 5 =>
    req (b.fm == 0 && b.c == 0) (.addw (r4 b.fd b.hd) (r4 b.fa b.ha) (r4 b.fb b.hb)) <|>
    req (b.fm == 1 && b.c == 0) (.subw (r4 b.fd b.hd) (r4 b.fa b.ha) (r4 b.fb b.hb)) <|>
    req (b.fm == 2 && b.c == 0) (.mulw (r4 b.fd b.hd) (r4 b.fa b.ha) (r4 b.fb b.hb)) <|>
    req (b.fm == 3 && b.c == 0) (.divw (r4 b.fd b.hd) (r4 b.fa b.ha) (r4 b.fb b.hb))
  | 6 =>
    req (b.fm == 0 && b.c == 0) (.remw (r4 b.fd b.hd) (r4 b.fa b.ha) (r4 b.fb b.hb)) <|>
    req (b.fm == 1 && b.c == 0) (.divuw (r4 b.fd b.hd) (r4 b.fa b.ha) (r4 b.fb b.hb)) <|>
    req (b.fm == 2 && b.c == 0) (.remuw (r4 b.fd b.hd) (r4 b.fa b.ha) (r4 b.fb b.hb))
  | 7 =>
    req (b.fm == 0 && b.c == 0) (.padd (r4 b.fd b.hd) (r4 b.fa b.ha) (r4 b.fb b.hb))
  | 8 =>
    req (b.fm == 0 && b.c == 0) (.pmk (r4 b.fd b.hd) (r4 b.fa b.ha) (r4 b.fb b.hb)) <|>
    req (b.fm == 1 && b.fb == 0 && b.hb == 0 && b.c == 0) (.pspc (r4 b.fd b.hd) (r4 b.fa b.ha)) <|>
    req (b.fm == 2 && b.fb == 0 && b.hb == 0 && b.c == 0) (.prnk (r4 b.fd b.hd) (r4 b.fa b.ha)) <|>
    req (b.fm == 3 && b.fb == 0 && b.hb == 0 && b.c == 0) (.poff (r4 b.fd b.hd) (r4 b.fa b.ha))
  | 9 =>
    req (b.fm == 0 && b.hd == 0 && b.c == 0) (.bccEq (r4 b.fd b.ha) (r4 b.fa b.hb) (b.immS 3 b.fb)) <|>
    req (b.fm == 1 && b.hd == 0 && b.c == 0) (.bccNe (r4 b.fd b.ha) (r4 b.fa b.hb) (b.immS 3 b.fb)) <|>
    req (b.fm == 2 && b.hd == 0 && b.c == 0) (.bccLt (r4 b.fd b.ha) (r4 b.fa b.hb) (b.immS 3 b.fb)) <|>
    req (b.fm == 3 && b.hd == 0 && b.c == 0) (.bccGe (r4 b.fd b.ha) (r4 b.fa b.hb) (b.immS 3 b.fb))
  | 10 =>
    req (b.fm == 0 && b.hd == 0 && b.c == 0) (.bccuLtu (r4 b.fd b.ha) (r4 b.fa b.hb) (b.immS 3 b.fb)) <|>
    req (b.fm == 1 && b.hd == 0 && b.c == 0) (.bccuGeu (r4 b.fd b.ha) (r4 b.fa b.hb) (b.immS 3 b.fb))
  | _ => none

/-- The base words of page 2 (R51). -/
def Bundle.build2 (b : Bundle) : Option Instr :=
  match b.op with
  | 0 =>
    req (b.c == 0) (.ldx (sizeOf b.fm) (r4 b.fd b.hd) (r4 b.fa b.ha) (r4 b.fb b.hb) b.xscOf)
  | 1 =>
    req (b.c == 0) (.ldxs (sizeOf b.fm) (r4 b.fd b.hd) (r4 b.fa b.ha) (r4 b.fb b.hb) b.xscOf)
  | 2 =>
    req (b.c == 0) (.stx (sizeOf b.fm) (r4 b.fd b.hd) (r4 b.fa b.ha) (r4 b.fb b.hb) b.xscOf)
  | 7 =>
    req (b.c == 0) (.cld (sizeOf b.fm) (r4 b.fd b.hd) (r4 b.fa b.ha) (r4 b.fb b.hb) b.xscOf)
  | 8 =>
    req (b.c == 0) (.cst (sizeOf b.fm) (r4 b.fd b.hd) (r4 b.fa b.ha) (r4 b.fb b.hb) b.xscOf)
  | 3 =>
    req (b.hb == 0 && b.c == 0 && b.hd == 0 && b.id < 4 && b.noXlv) (.ldt (r2 b.id) (r4 b.ja b.ha) (b.immS 5 b.j) b.xscOf)
  | 4 =>
    req (b.hb == 0 && b.c == 0 && b.hd == 0 && b.id < 4 && b.noXlv) (.stt (r2 b.id) (r4 b.ja b.ha) (b.immS 5 b.j) b.xscOf)
  | 5 =>
    req (b.fm == 0 && b.c == 0 && b.tx == 0 && b.tx == 0) (.lds (r4 b.fd b.hd) (r4 b.fa b.ha) (r4 b.fb b.hb) b.rowPos b.xscOf)
  | 6 =>
    req (b.fm == 0 && b.c == 0 && b.tx == 0 && b.tx == 0) (.sts (r4 b.fd b.hd) (r4 b.fa b.ha) (r4 b.fb b.hb) b.rowPos b.xscOf)
  | 9 =>
    req (b.fm == 0 && b.c == 0) (.cbnd (r4 b.fd b.hd) (r4 b.fa b.ha) (r4 b.fb b.hb)) <|>
    req (b.fm == 1) (.cnar (r4 b.fd b.hd) (r4 b.fa b.ha) (r4 b.fb b.hb) (rc b.c)) <|>
    req (b.fm == 2 && b.c == 0) (.cchk (r4 b.fd b.hd) (r4 b.fa b.ha) (r4 b.fb b.hb))
  | 10 =>
    req (b.fm == 0 && b.c == 0) (.alloc (r4 b.fd b.hd) (r4 b.fa b.ha) (r4 b.fb b.hb))
  | 11 =>
    req (b.fm == 0 && b.fd == 0 && b.hd == 0 && b.fb == 0 && b.hb == 0 && b.c == 0) (.free (r4 b.fa b.ha))
  | 12 =>
    req (b.fm == 0 && b.fd == 0 && b.hd == 0 && b.fa == 0 && b.ha == 0 && b.fb == 0 && b.hb == 0 && b.c == 0 && b.scOrd == 0 && b.fenceScope == 0) (.fenceRwTile) <|>
    req (b.fm == 0 && b.fd == 0 && b.hd == 0 && b.fa == 0 && b.ha == 0 && b.fb == 0 && b.hb == 0 && b.c == 0 && b.scOrd == 0 && b.fenceScope == 1) (.fenceRwQuad) <|>
    req (b.fm == 0 && b.fd == 0 && b.hd == 0 && b.fa == 0 && b.ha == 0 && b.fb == 0 && b.hb == 0 && b.c == 0 && b.scOrd == 0 && b.fenceScope == 2) (.fenceRwRegion) <|>
    req (b.fm == 0 && b.fd == 0 && b.hd == 0 && b.fa == 0 && b.ha == 0 && b.fb == 0 && b.hb == 0 && b.c == 0 && b.scOrd == 0 && b.fenceScope == 3) (.fenceRwWafer) <|>
    req (b.fm == 0 && b.fd == 0 && b.hd == 0 && b.fa == 0 && b.ha == 0 && b.fb == 0 && b.hb == 0 && b.c == 0 && b.scOrd == 0 && b.fenceScope == 4) (.fenceRwPod) <|>
    req (b.fm == 1 && b.fd == 0 && b.hd == 0 && b.fa == 0 && b.ha == 0 && b.fb == 0 && b.hb == 0 && b.c == 0 && b.scOrd == 0) (.fenceR) <|>
    req (b.fm == 2 && b.fd == 0 && b.hd == 0 && b.fa == 0 && b.ha == 0 && b.fb == 0 && b.hb == 0 && b.c == 0 && b.scOrd == 0 && b.fenceScope == 0) (.fenceWTile) <|>
    req (b.fm == 2 && b.fd == 0 && b.hd == 0 && b.fa == 0 && b.ha == 0 && b.fb == 0 && b.hb == 0 && b.c == 0 && b.scOrd == 0 && b.fenceScope == 1) (.fenceWQuad) <|>
    req (b.fm == 2 && b.fd == 0 && b.hd == 0 && b.fa == 0 && b.ha == 0 && b.fb == 0 && b.hb == 0 && b.c == 0 && b.scOrd == 0 && b.fenceScope == 2) (.fenceWRegion) <|>
    req (b.fm == 2 && b.fd == 0 && b.hd == 0 && b.fa == 0 && b.ha == 0 && b.fb == 0 && b.hb == 0 && b.c == 0 && b.scOrd == 0 && b.fenceScope == 3) (.fenceWWafer) <|>
    req (b.fm == 2 && b.fd == 0 && b.hd == 0 && b.fa == 0 && b.ha == 0 && b.fb == 0 && b.hb == 0 && b.c == 0 && b.scOrd == 0 && b.fenceScope == 4) (.fenceWPod) <|>
    req (b.fm == 3 && b.fd == 0 && b.hd == 0 && b.fa == 0 && b.ha == 0 && b.fb == 0 && b.hb == 0 && b.c == 0 && b.xsc == none) (.fenceI)
  | _ => none

/-- The base words of page 3 (R51). -/
def Bundle.build3 (b : Bundle) : Option Instr :=
  match b.op with
  | 0 =>
    req (b.fm == 0 && b.c < 2) (.amoaAdd (r4 b.fd b.hd) (r4 b.fa b.ha) (r4 b.fb b.hb) (b.c == 1) b.xscOf) <|>
    req (b.fm == 1 && b.c < 2) (.amoaAnd (r4 b.fd b.hd) (r4 b.fa b.ha) (r4 b.fb b.hb) (b.c == 1) b.xscOf) <|>
    req (b.fm == 2 && b.c < 2) (.amoaOr (r4 b.fd b.hd) (r4 b.fa b.ha) (r4 b.fb b.hb) (b.c == 1) b.xscOf) <|>
    req (b.fm == 3 && b.c < 2) (.amoaXor (r4 b.fd b.hd) (r4 b.fa b.ha) (r4 b.fb b.hb) (b.c == 1) b.xscOf)
  | 1 =>
    req (b.fm == 0 && b.c < 2) (.amobMin (r4 b.fd b.hd) (r4 b.fa b.ha) (r4 b.fb b.hb) (b.c == 1) b.xscOf) <|>
    req (b.fm == 1 && b.c < 2) (.amobMax (r4 b.fd b.hd) (r4 b.fa b.ha) (r4 b.fb b.hb) (b.c == 1) b.xscOf) <|>
    req (b.fm == 0 && 2 ≤ b.c && b.c < 4) (.amobMinu (r4 b.fd b.hd) (r4 b.fa b.ha) (r4 b.fb b.hb) (b.c == 3) b.xscOf) <|>
    req (b.fm == 1 && 2 ≤ b.c && b.c < 4) (.amobMaxu (r4 b.fd b.hd) (r4 b.fa b.ha) (r4 b.fb b.hb) (b.c == 3) b.xscOf) <|>
    req (b.fm == 2 && b.c < 2) (.amobSwap (r4 b.fd b.hd) (r4 b.fa b.ha) (r4 b.fb b.hb) (b.c == 1) b.xscOf)
  | 2 =>
    req (b.fm == 0 && b.c == 0) (.casW (r4 b.fd b.hd) (r4 b.fa b.ha) (r4 b.fb b.hb) b.xscOf) <|>
    req (b.fm == 1 && b.c == 0) (.casD (r4 b.fd b.hd) (r4 b.fa b.ha) (r4 b.fb b.hb) b.xscOf)
  | 3 =>
    req (b.fm == 0 && b.fb == 0 && b.hb == 0 && b.c == 0) (.phnew (r4 b.fd b.hd) (r4 b.fa b.ha)) <|>
    req (b.fm == 1 && b.c == 0) (.phreg (r4 b.fd b.hd) (r4 b.fa b.ha) (r4 b.fb b.hb)) <|>
    req (b.fm == 2 && b.fb == 0 && b.hb == 0 && b.c == 0) (.phdrop (r4 b.fd b.hd) (r4 b.fa b.ha)) <|>
    req (b.fm == 3 && b.fb == 0 && b.hb == 0 && b.c == 0) (.phqry (r4 b.fd b.hd) (r4 b.fa b.ha))
  | 4 =>
    req (b.fm == 0 && b.fb == 0 && b.hb == 0 && b.c == 0 && b.scScope == 0) (.pharr (r4 b.fd b.hd) (r4 b.fa b.ha) b.ordOf) <|>
    req (b.fm == 1 && b.fb == 0 && b.hb == 0 && b.c == 0 && b.scScope == 0) (.phwait (r4 b.fd b.hd) (r4 b.fa b.ha) b.ordOf) <|>
    req (b.fm == 2 && b.fb == 0 && b.hb == 0 && b.c == 0 && b.scScope == 0) (.phaw (r4 b.fd b.hd) (r4 b.fa b.ha) b.ordOf)
  | 5 =>
    req (b.fm == 0 && b.fa < 5 && b.ha == 0 && b.fb < 3 && b.hb == 0 && b.c == 0) (.bar (r4 b.fd b.hd) (scopeOf b.fa) (psetOf b.fb)) <|>
    req (b.fm == 1 && b.fa < 5 && b.ha == 0 && b.fb < 3 && b.hb == 0 && b.c == 0) (.bara (r4 b.fd b.hd) (scopeOf b.fa) (psetOf b.fb)) <|>
    req (b.fm == 2 && b.fa < 5 && b.ha == 0 && b.fb < 3 && b.hb == 0 && b.c == 0) (.barw (r4 b.fd b.hd) (scopeOf b.fa) (psetOf b.fb))
  | 6 =>
    req (b.fm == 0 && b.fb == 0 && b.hb == 0 && b.c == 0) (.cpy (r4 b.fd b.hd) (r4 b.fa b.ha) b.xscOf) <|>
    req (b.fm == 1 && b.fb == 0 && b.hb == 0 && b.c == 0) (.cpy2d (r4 b.fd b.hd) (r4 b.fa b.ha) b.xscOf) <|>
    req (b.fm == 2 && b.fb == 0 && b.hb == 0 && b.c == 0) (.cpyGth (r4 b.fd b.hd) (r4 b.fa b.ha) b.xscOf) <|>
    req (b.fm == 3 && b.fb == 0 && b.hb == 0 && b.c == 0) (.cpyRing (r4 b.fd b.hd) (r4 b.fa b.ha) b.xscOf)
  | 7 =>
    req (b.fm == 0 && b.fb == 0 && b.hb == 0 && b.c == 0) (.waitp (r4 b.fd b.hd) (r4 b.fa b.ha))
  | 8 =>
    req (b.fm == 0 && b.c == 0) (.kvget (r4 b.fd b.hd) (r4 b.fa b.ha) (r4 b.fb b.hb)) <|>
    req (b.fm == 1 && b.c == 0) (.kvset (r4 b.fd b.hd) (r4 b.fa b.ha) (r4 b.fb b.hb)) <|>
    req (b.fm == 2 && b.fa == 0 && b.ha == 0 && b.c == 0) (.kvdel (r4 b.fd b.hd) (r4 b.fb b.hb)) <|>
    req (b.fm == 3 && b.c == 0) (.kvlst (r4 b.fd b.hd) (r4 b.fa b.ha) (r4 b.fb b.hb))
  | 9 =>
    req (b.fm == 0 && b.fb == 0 && b.hb == 0 && b.c == 0) (.collRed (r4 b.fd b.hd) (r4 b.fa b.ha) b.xscOf) <|>
    req (b.fm == 1 && b.fb == 0 && b.hb == 0 && b.c == 0) (.collBcst (r4 b.fd b.hd) (r4 b.fa b.ha) b.xscOf) <|>
    req (b.fm == 2 && b.fb == 0 && b.hb == 0 && b.c == 0) (.collAgth (r4 b.fd b.hd) (r4 b.fa b.ha) b.xscOf)
  | 10 =>
    req (b.fm == 0 && b.fb == 0 && b.hb == 0 && b.c == 0) (.plh (r4 b.fd b.hd) (r4 b.fa b.ha)) <|>
    req (b.fm == 1 && b.fb == 0 && b.hb == 0 && b.c == 0) (.plq (r4 b.fd b.hd) (r4 b.fa b.ha))
  | _ => none

/-- The base words of page 4 (R51). -/
def Bundle.build4 (b : Bundle) : Option Instr :=
  match b.op with
  | 0 =>
    req (true) (.vadd b.ty (r4 b.fd b.hd) (r4 b.fa b.ha) (r4 b.fb b.hb) b.rowX)
  | 1 =>
    req (true) (.vsub b.ty (r4 b.fd b.hd) (r4 b.fa b.ha) (r4 b.fb b.hb) b.rowX)
  | 2 =>
    req (true) (.vmul b.ty (r4 b.fd b.hd) (r4 b.fa b.ha) (r4 b.fb b.hb) b.rowX)
  | 3 =>
    req (true) (.vfma b.ty (r4 b.fd b.hd) (r4 b.fa b.ha) (r4 b.fb b.hb) b.rowX)
  | 4 =>
    req (true) (.vmin b.ty (r4 b.fd b.hd) (r4 b.fa b.ha) (r4 b.fb b.hb) b.rowX)
  | 5 =>
    req (true) (.vmax b.ty (r4 b.fd b.hd) (r4 b.fa b.ha) (r4 b.fb b.hb) b.rowX)
  | 6 =>
    req (true) (.vand b.ty (r4 b.fd b.hd) (r4 b.fa b.ha) (r4 b.fb b.hb) b.rowX)
  | 7 =>
    req (true) (.vor b.ty (r4 b.fd b.hd) (r4 b.fa b.ha) (r4 b.fb b.hb) b.rowX)
  | 8 =>
    req (true) (.vxor b.ty (r4 b.fd b.hd) (r4 b.fa b.ha) (r4 b.fb b.hb) b.rowX)
  | 9 =>
    req (true) (.vshl b.ty (r4 b.fd b.hd) (r4 b.fa b.ha) (r4 b.fb b.hb) b.rowX)
  | 10 =>
    req (true) (.vshr b.ty (r4 b.fd b.hd) (r4 b.fa b.ha) (r4 b.fb b.hb) b.rowX)
  | 11 =>
    req (true) (.vceq b.ty (r4 b.fd b.hd) (r4 b.fa b.ha) (r4 b.fb b.hb) b.rowX)
  | 12 =>
    req (true) (.vclt b.ty (r4 b.fd b.hd) (r4 b.fa b.ha) (r4 b.fb b.hb) b.rowX)
  | 13 =>
    req (true) (.vcle b.ty (r4 b.fd b.hd) (r4 b.fa b.ha) (r4 b.fb b.hb) b.rowX)
  | 14 =>
    req (true) (.vsel b.ty (r4 b.fd b.hd) (r4 b.fa b.ha) (r4 b.fb b.hb) b.rowX)
  | 15 =>
    req (b.fb == 0 && b.hb == 0) (.vunaAbs b.ty (r4 b.fd b.hd) (r4 b.fa b.ha) b.rowX) <|>
    req (b.fb == 1 && b.hb == 0) (.vunaNeg b.ty (r4 b.fd b.hd) (r4 b.fa b.ha) b.rowX) <|>
    req (b.fb == 2 && b.hb == 0) (.vunaExp b.ty (r4 b.fd b.hd) (r4 b.fa b.ha) b.rowX) <|>
    req (b.fb == 3 && b.hb == 0) (.vunaLog2 b.ty (r4 b.fd b.hd) (r4 b.fa b.ha) b.rowX) <|>
    req (b.fb == 4 && b.hb == 0) (.vunaRcp b.ty (r4 b.fd b.hd) (r4 b.fa b.ha) b.rowX) <|>
    req (b.fb == 5 && b.hb == 0) (.vunaRsq b.ty (r4 b.fd b.hd) (r4 b.fa b.ha) b.rowX) <|>
    req (b.fb == 6 && b.hb == 0) (.vunaTanh b.ty (r4 b.fd b.hd) (r4 b.fa b.ha) b.rowX) <|>
    req (b.fb == 7 && b.hb == 0) (.vunaSig b.ty (r4 b.fd b.hd) (r4 b.fa b.ha) b.rowX)
  | 16 =>
    req (b.fb == 0 && b.hb == 0) (.vredSum b.ty (r4 b.fd b.hd) (r4 b.fa b.ha) b.rowX) <|>
    req (b.fb == 1 && b.hb == 0) (.vredMax b.ty (r4 b.fd b.hd) (r4 b.fa b.ha) b.rowX) <|>
    req (b.fb == 2 && b.hb == 0) (.vredMin b.ty (r4 b.fd b.hd) (r4 b.fa b.ha) b.rowX) <|>
    req (b.fb == 3 && b.hb == 0) (.vredSsq b.ty (r4 b.fd b.hd) (r4 b.fa b.ha) b.rowX)
  | 17 =>
    req (b.hb == 0) (.vcvt b.ty (typeOf b.fb) (r4 b.fd b.hd) (r4 b.fa b.ha) b.rowX)
  | 18 =>
    req (true) (.vbc b.ty (r4 b.fd b.hd) (r4 b.fa b.ha) (r4 b.fb b.hb) b.rowX)
  | 19 =>
    req (b.fm == 0 && b.tx == 0 && b.fb == 0 && b.hb == 0) (.vmov (r4 b.fd b.hd) (r4 b.fa b.ha) b.rowX)
  | 20 =>
    req (true) (.vshuf b.ty (r4 b.fd b.hd) (r4 b.fa b.ha) (r4 b.fb b.hb) b.rowX)
  | 21 =>
    req (b.fb == 0 && b.hb == 0) (.vscan b.ty (r4 b.fd b.hd) (r4 b.fa b.ha) b.rowX)
  | 22 =>
    req (b.fb == 0 && b.hb == 0) (.viota b.ty (r4 b.fd b.hd) (r4 b.fa b.ha) b.rowX)
  | 23 =>
    req (true) (.vrot b.ty (r4 b.fd b.hd) (r4 b.fa b.ha) (r4 b.fb b.hb) b.rowX)
  | _ => none

/-- The base words of page 5 (R51). RTAK has no b ring, and bits [7:4] of its XWT are ignored: log entry 98 (DESIGN CHOICE). -/
def Bundle.build5 (b : Bundle) : Option Instr :=
  match b.op with
  | 0 =>
    req (b.fm == 0 && b.hd == 0 && b.ha == 0 && b.hb == 0 && b.c == 0) (.mmaAcc (r3 b.fd) (r3 b.fa) (r3 b.fb) b.matX) <|>
    req (b.fm == 1 && b.hd == 0 && b.ha == 0 && b.hb == 0 && b.c == 0) (.mmaOvw (r3 b.fd) (r3 b.fa) (r3 b.fb) b.matX) <|>
    req (b.fm == 2 && b.hd == 0 && b.ha == 0 && b.hb == 0 && b.c == 0) (.mmaKeepb (r3 b.fd) (r3 b.fa) (r3 b.fb) b.matX) <|>
    req (b.fm == 3 && b.hd == 0 && b.ha == 0 && b.hb == 0 && b.c == 0) (.mmaKeepa (r3 b.fd) (r3 b.fa) (r3 b.fb) b.matX)
  | 1 =>
    req (b.fm == 0 && b.hd == 0 && b.ha == 0 && b.hb == 0 && b.c == 0) (.mmq (r3 b.fd) (r3 b.fa) (r3 b.fb) b.waOf b.wbOf)
  | 2 =>
    req (b.fm == 0 && b.hd == 0 && b.ha == 0 && b.hb == 0 && b.c == 0) (.mmg (r3 b.fd) (r3 b.fa) (r3 b.fb) b.matX)
  | 3 =>
    req (b.fm == 0 && b.ha == 0 && b.fb == 0 && b.hb == 0 && b.c == 0) (.chkv (r4 b.fd b.hd) (r3 b.fa)) <|>
    req (b.fm == 1 && b.ha == 0 && b.fb == 0 && b.hb == 0 && b.c == 0) (.cfix (r4 b.fd b.hd) (r3 b.fa)) <|>
    req (b.fm == 2 && b.ha == 0 && b.c == 0) (.csrd (r4 b.fd b.hd) (r3 b.fa) (r4 b.fb b.hb))
  | 4 =>
    req (b.fm == 0 && b.hd == 0 && b.fa == 0 && b.ha == 0 && b.fb == 0 && b.hb == 0 && b.c == 0 && b.xrg == none) (.macz (r3 b.fd))
  | 5 =>
    req (b.fm == 0 && b.hd == 0 && b.ha == 0 && b.fb == 0 && b.hb == 0 && b.c == 0 && b.tx == 0 && b.row == 0 && b.xrg == none) (.macrdF32 (tile b.fd b.bank) (r3 b.fa)) <|>
    req (b.fm == 1 && b.hd == 0 && b.ha == 0 && b.fb == 0 && b.hb == 0 && b.c == 0 && b.tx == 0 && b.row % 8 == 0 && b.xrg == none) (.macrdBf16 (tile b.fd b.bank) (halfOf b.row) (r3 b.fa)) <|>
    req (b.fm == 2 && b.hd == 0 && b.ha == 0 && b.fb == 0 && b.hb == 0 && b.tx == 0 && b.row % 4 == 0) (.macrdT8 (tile b.fd b.bank) (quarterOf b.row) (r3 b.fa) (rc b.c))
  | 6 =>
    req (b.fm == 0 && b.hd == 0 && b.ha == 0 && b.fb == 0 && b.hb == 0 && b.c == 0 && b.tx == 0 && b.row == 0 && b.xrg == none) (.macwr (r3 b.fd) (tile b.fa b.bank))
  | 7 =>
    req (b.fm == 0 && b.fd == 0 && b.hd == 0 && b.fa == 0 && b.ha == 0 && b.fb == 0 && b.hb == 0 && b.c == 0 && b.xrg == none) (.mwait0) <|>
    req (b.fm == 0 && b.fd == 0 && b.hd == 0 && b.fa == 1 && b.ha == 0 && b.fb == 0 && b.hb == 0 && b.c == 0 && b.xrg == none) (.mwait1) <|>
    req (b.fm == 0 && b.fd == 0 && b.hd == 0 && b.fa == 2 && b.ha == 0 && b.fb == 0 && b.hb == 0 && b.c == 0 && b.xrg == none) (.mwait2) <|>
    req (b.fm == 0 && b.fd == 0 && b.hd == 0 && b.fa == 3 && b.ha == 0 && b.fb == 0 && b.hb == 0 && b.c == 0 && b.xrg == none) (.mwait3) <|>
    req (b.fm == 0 && b.fd == 0 && b.hd == 0 && b.fa == 4 && b.ha == 0 && b.fb == 0 && b.hb == 0 && b.c == 0 && b.xrg == none) (.mwait4) <|>
    req (b.fm == 0 && b.fd == 0 && b.hd == 0 && b.fa == 5 && b.ha == 0 && b.fb == 0 && b.hb == 0 && b.c == 0 && b.xrg == none) (.mwait5) <|>
    req (b.fm == 0 && b.fd == 0 && b.hd == 0 && b.fa == 6 && b.ha == 0 && b.fb == 0 && b.hb == 0 && b.c == 0 && b.xrg == none) (.mwait6) <|>
    req (b.fm == 0 && b.fd == 0 && b.hd == 0 && b.fa == 7 && b.ha == 0 && b.fb == 0 && b.hb == 0 && b.c == 0 && b.xrg == none) (.mwait7) <|>
    req (b.fm == 0 && b.fd == 0 && b.hd == 0 && b.fa == 0 && b.ha == 0 && b.fb == 1 && b.hb == 0 && b.c == 0 && b.xrg == none) (.mwaitAll)
  | 8 =>
    req (b.fm == 0 && b.hd == 0 && b.ha == 0 && b.fb == 0 && b.hb == 0 && b.c == 0 && b.xrg == none) (.mtr (r3 b.fd) (r3 b.fa))
  | 9 =>
    req (b.fm == 0 && b.hd == 0 && b.fb == 0 && b.hb == 0 && b.c == 0) (.rcfg (r3 b.fd) (r4 b.fa b.ha))
  | 10 =>
    req (b.fm == 0 && b.ha == 0 && b.fb == 0 && b.hb == 0 && b.c == 0) (.rqry (r4 b.fd b.hd) (r3 b.fa))
  | 11 =>
    req (b.fm == 0 && (b.fd + 8 * b.hd < 4 || b.fd + 8 * b.hd == 13) && b.ha == 0 && b.fb == 0 && b.hb == 0 && b.c == 0 && b.noXlv) (.rpsh (opt13 b.fd b.hd (r2 b.fd)) (r3 b.fa) b.repOf)
  | 12 =>
    req (b.fm == 0 && (b.hd == 0 || b.fd + 8 * b.hd == 13) && b.ha == 0 && b.fb == 0 && b.hb == 0 && b.c == 0 && b.tx == 0 && b.row == 0) (.rtak (opt13 b.fd b.hd (tile b.fd b.bank)) (r3 b.fa) b.repOf b.waOf)
  | _ => none

/-- The base words of page 6 (R51). -/
def Bundle.build6 (b : Bundle) : Option Instr :=
  match b.op with
  | 0 =>
    req (b.fm == 0 && b.hd == 0 && b.ha == 0 && b.hb == 0 && b.c == 0) (.kadd (r3 b.fd) (r3 b.fa) (r3 b.fb)) <|>
    req (b.fm == 1 && b.hd == 0 && b.ha == 0 && b.hb == 0 && b.c == 0) (.ksub (r3 b.fd) (r3 b.fa) (r3 b.fb)) <|>
    req (b.fm == 2 && b.hd == 0 && b.ha == 0 && b.hb == 0 && b.c == 0) (.kmul (r3 b.fd) (r3 b.fa) (r3 b.fb)) <|>
    req (b.fm == 3 && b.hd == 0 && b.ha == 0 && b.hb == 0 && b.c == 0) (.kfma (r3 b.fd) (r3 b.fa) (r3 b.fb))
  | 1 =>
    req (b.fm == 0 && b.hd == 0 && b.ha == 0 && b.hb == 0 && b.c == 0 && b.tx == 0 && b.row == 0) (.kaddd (r3 b.fd) (r3 b.fa) (tile b.fb b.bank)) <|>
    req (b.fm == 1 && b.hd == 0 && b.ha == 0 && b.c == 0) (.kscl (r3 b.fd) (r3 b.fa) (r4 b.fb b.hb)) <|>
    req (b.fm == 2 && b.hd == 0 && b.ha == 0 && b.hb == 0 && b.c == 0 && b.tx == 0 && b.row == 0) (.kmuld (r3 b.fd) (r3 b.fa) (tile b.fb b.bank)) <|>
    req (b.fm == 3 && b.hd == 0 && b.ha == 0 && b.hb == 0 && b.c == 0) (.kvsub (r3 b.fd) (r3 b.fa) (r3 b.fb))
  | 2 =>
    req (b.fm == 0 && b.hd == 0 && b.ha == 0 && b.fb == 0 && b.hb == 0 && b.c == 0) (.knlRelu (r3 b.fd) (r3 b.fa)) <|>
    req (b.fm == 0 && b.hd == 0 && b.ha == 0 && b.fb == 1 && b.hb == 0 && b.c == 0) (.knlExp (r3 b.fd) (r3 b.fa)) <|>
    req (b.fm == 0 && b.hd == 0 && b.ha == 0 && b.fb == 2 && b.hb == 0 && b.c == 0) (.knlSig (r3 b.fd) (r3 b.fa)) <|>
    req (b.fm == 0 && b.hd == 0 && b.ha == 0 && b.fb == 3 && b.hb == 0 && b.c == 0) (.knlSq (r3 b.fd) (r3 b.fa)) <|>
    req (b.fm == 0 && b.hd == 0 && b.ha == 0 && b.fb == 4 && b.hb == 0 && b.c == 0) (.knlRcp (r3 b.fd) (r3 b.fa))
  | 3 =>
    req (b.fm == 0 && b.hd == 0 && b.ha == 0 && (b.hb == 0 || b.fb + 8 * b.hb == 13) && b.c == 0 && b.tx == 0 && b.row == 0) (.kmk (r3 b.fd) (r3 b.fa) (opt13 b.fb b.hb (r3 b.fb)) b.bankOf)
  | 4 =>
    req (b.fm == 0 && b.hd == 0 && b.ha == 0 && b.fb == 0 && b.hb == 0 && b.c == 0 && b.tx == 0 && b.row == 0) (.kcolMean (tile b.fd b.bank) (r3 b.fa)) <|>
    req (b.fm == 1 && b.hd == 0 && b.ha == 0 && b.fb == 0 && b.hb == 0 && b.c == 0 && b.tx == 0 && b.row == 0) (.kcolVar (tile b.fd b.bank) (r3 b.fa)) <|>
    req (b.fm == 2 && b.hd == 0 && b.ha == 0 && b.fb == 0 && b.hb == 0 && b.c == 0 && b.tx == 0 && b.row == 0) (.kcolSdev (tile b.fd b.bank) (r3 b.fa)) <|>
    req (b.fm == 3 && b.hd == 0 && b.ha == 0 && b.tx == 0) (.kcolDraw (r3 b.fd) (r3 b.fa) (r4 b.fb b.hb) b.rowBase b.bankOf (rc b.c))
  | 5 =>
    req (b.fm == 0 && b.hd == 0 && b.fb == 0 && b.hb == 0 && b.c == 0) (.kldMp32 (r3 b.fd) (r4 b.fa b.ha)) <|>
    req (b.fm == 1 && b.hd == 0 && b.fb == 0 && b.hb == 0 && b.c == 0) (.kldMb16 (r3 b.fd) (r4 b.fa b.ha)) <|>
    req (b.fm == 2 && b.hd == 0 && b.fb == 0 && b.hb == 0 && b.c == 0) (.kstMp32 (r3 b.fd) (r4 b.fa b.ha)) <|>
    req (b.fm == 3 && b.hd == 0 && b.fb == 0 && b.hb == 0 && b.c == 0) (.kstMb16 (r3 b.fd) (r4 b.fa b.ha))
  | 6 =>
    req (b.fm == 0 && b.hd == 0 && b.ha == 0 && b.hb == 0 && b.c < 3) (.kmmaDwAcc (r3 b.fd) (r3 b.fa) (r3 b.fb) (keepOf b.c) b.matX) <|>
    req (b.fm == 1 && b.hd == 0 && b.ha == 0 && b.hb == 0 && b.c < 3) (.kmmaMwAcc (r3 b.fd) (r3 b.fa) (r3 b.fb) (keepOf b.c) b.matX) <|>
    req (b.fm == 2 && b.hd == 0 && b.ha == 0 && b.hb == 0 && b.c < 3) (.kmmaDwOvw (r3 b.fd) (r3 b.fa) (r3 b.fb) (keepOf b.c) b.matX) <|>
    req (b.fm == 3 && b.hd == 0 && b.ha == 0 && b.hb == 0 && b.c < 3) (.kmmaMwOvw (r3 b.fd) (r3 b.fa) (r3 b.fb) (keepOf b.c) b.matX)
  | 7 =>
    req (b.fm == 0 && b.hd == 0 && b.ha == 0 && b.fb == 0 && b.hb == 0 && b.c == 0) (.kacrd (r3 b.fd) (r3 b.fa))
  | 8 =>
    req (b.fm == 0 && b.hd == 0 && b.ha == 0 && b.fb == 0 && b.hb == 0 && b.c == 0) (.kred (r3 b.fd) (r3 b.fa))
  | 9 =>
    req (b.fm == 0 && b.fd == 0 && b.hd == 0 && b.c == 0) (.kmode (r4 b.fa b.ha) (r4 b.fb b.hb))
  | 10 =>
    req (b.fm == 0 && b.hd == 0 && b.ha == 0 && b.fb == 0 && b.hb == 0 && b.c == 0) (.kmov (r3 b.fd) (r3 b.fa)) <|>
    req (b.fm == 0 && b.hd == 0 && b.ha == 0 && b.fb == 1 && b.hb == 0 && b.c == 0) (.kmovTr (r3 b.fd) (r3 b.fa))
  | 16 =>
    req (b.fm == 0 && b.ha == 0 && b.fb < 4 && b.hb == 0 && b.tx == 0) (.qnt (nselOf b.fb) (r4 b.fd b.hd) (r3 b.fa) b.rowBase b.bankOf (rc b.c))
  | 17 =>
    req (b.fm == 0 && b.hd == 0 && b.fb < 4 && b.hb == 0 && b.tx == 0) (.dqn (nselOf b.fb) (r3 b.fd) (r4 b.fa b.ha) b.rowBase b.bankOf (rc b.c))
  | 18 =>
    req (b.fm == 0 && b.tx == 0) (.baq (r4 b.fd b.hd) (r4 b.fa b.ha) (r4 b.fb b.hb) b.rowBase b.bankOf (rc b.c))
  | _ => none

/-- The base words of page 7 (R51). -/
def Bundle.build7 (b : Bundle) : Option Instr :=
  match b.op with
  | 0 =>
    req (b.ha == 0 && b.hb == 0 && b.c == 0 && b.id == 0 && b.hd == 0) (.trap (b.immU 8 b.i))
  | 1 =>
    req (b.fm == 0 && b.fd == 0 && b.hd == 0 && b.fa == 0 && b.ha == 0 && b.fb == 0 && b.hb == 0 && b.c == 0) (.tret)
  | 2 =>
    req (b.fm == 0 && b.fb == 0 && b.hb == 0 && b.c == 0) (.rpqrd (r4 b.fd b.hd) (r4 b.fa b.ha)) <|>
    req (b.fm == 1 && b.fd == 0 && b.hd == 0 && b.c == 0) (.rpqwr (r4 b.fa b.ha) (r4 b.fb b.hb)) <|>
    req (b.fm == 2 && b.fd == 0 && b.hd == 0 && b.fb == 0 && b.hb == 0 && b.c == 0) (.rpqdrp (r4 b.fa b.ha)) <|>
    req (b.fm == 3 && b.fa == 0 && b.ha == 0 && b.fb == 0 && b.hb == 0 && b.c == 0) (.rpqlen (r4 b.fd b.hd))
  | 3 =>
    req (b.ha == 0 && b.hb == 0 && b.c == 0) (.srd (r4 b.id b.hd) (n8 b.i))
  | 4 =>
    req (b.ha == 0 && b.hb == 0 && b.c == 0 && b.i == 2) (.swrCki (r4 b.id b.hd)) <|>
    req (b.ha == 0 && b.hb == 0 && b.c == 0 && b.i == 3) (.swrMctl (r4 b.id b.hd)) <|>
    req (b.ha == 0 && b.hb == 0 && b.c == 0 && b.i == 13) (.swrFfl (r4 b.id b.hd)) <|>
    req (b.ha == 0 && b.hb == 0 && b.c == 0 && b.i == 16) (.swrTvec (r4 b.id b.hd)) <|>
    req (b.ha == 0 && b.hb == 0 && b.c == 0) (.swr (n8 b.i) (r4 b.id b.hd))
  | 5 =>
    req (true) (.cro (b.immS 11 b.o))
  | 6 =>
    req (b.fm == 0 && b.fd == 0 && b.hd == 0 && b.fa == 0 && b.ha == 0 && b.fb == 0 && b.hb == 0 && b.c == 0) (.crc)
  | 7 =>
    req (b.fm == 0 && b.fb == 0 && b.hb == 0 && b.c == 0) (.chke (r4 b.fd b.hd) (r4 b.fa b.ha))
  | 8 =>
    req (b.fm == 0 && b.fd == 0 && b.hd == 0 && b.fb == 0 && b.hb == 0 && b.c == 0) (.sigS (r4 b.fa b.ha)) <|>
    req (b.fm == 1 && b.fd == 0 && b.hd == 0 && b.fb == 0 && b.hb == 0 && b.c == 0 && b.tx == 0) (.sigR (r4 b.fa b.ha) b.rowBase b.bankOf) <|>
    req (b.fm == 2 && b.fd == 0 && b.hd == 0 && b.ha == 0 && b.fb == 0 && b.hb == 0 && b.c == 0 && b.tx == 0 && b.row == 0) (.sigT (tile b.fa b.bank)) <|>
    req (b.fm == 3 && b.fa == 0 && b.ha == 0 && b.fb == 0 && b.hb == 0 && b.c == 0) (.sigRd (r4 b.fd b.hd))
  | 9 =>
    req (b.fm == 0 && b.fd == 0 && b.hd == 0 && b.c == 0) (.inj (r4 b.fa b.ha) (r4 b.fb b.hb))
  | 10 =>
    req (b.fm == 0 && b.fb == 0 && b.hb == 0 && b.c == 0) (.ctxsv (r4 b.fd b.hd) (r4 b.fa b.ha)) <|>
    req (b.fm == 1 && b.fd == 0 && b.hd == 0 && b.fb == 0 && b.hb == 0 && b.c == 0) (.ctxld (r4 b.fa b.ha)) <|>
    req (b.fm == 2 && b.fa == 0 && b.ha == 0 && b.fb == 0 && b.hb == 0 && b.c == 0) (.pack (r4 b.fd b.hd))
  | 11 =>
    req (b.ha == 0 && b.hb == 0 && b.c == 0 && b.id == 0 && b.hd == 0 && b.immU 8 b.i == 0) (.qsvcPing) <|>
    req (b.ha == 0 && b.hb == 0 && b.c == 0 && b.id == 0 && b.hd == 0 && b.immU 8 b.i == 1) (.qsvcMap) <|>
    req (b.ha == 0 && b.hb == 0 && b.c == 0 && b.id == 0 && b.hd == 0 && b.immU 8 b.i == 2) (.qsvcUnmap) <|>
    req (b.ha == 0 && b.hb == 0 && b.c == 0 && b.id == 0 && b.hd == 0 && b.immU 8 b.i == 3) (.qsvcGroup) <|>
    req (b.ha == 0 && b.hb == 0 && b.c == 0 && b.id == 0 && b.hd == 0 && b.immU 8 b.i == 4) (.qsvcYield) <|>
    req (b.ha == 0 && b.hb == 0 && b.c == 0 && b.id == 0 && b.hd == 0 && b.immU 8 b.i == 5) (.qsvcReport) <|>
    req (b.ha == 0 && b.hb == 0 && b.c == 0 && b.id == 0 && b.hd == 0 && b.immU 8 b.i == 6) (.qsvcDebug) <|>
    req (b.ha == 0 && b.hb == 0 && b.c == 0 && b.id == 0 && b.hd == 0 && 7 ≤ b.immU 8 b.i) (.qsvcUnknown)
  | 12 =>
    req (b.fm == 0 && b.fd == 0 && b.hd == 0 && b.fb == 0 && b.hb == 0 && b.c == 0) (.idle (r4 b.fa b.ha))
  | 13 =>
    req (b.fm == 0 && b.fb == 0 && b.hb == 0 && b.c == 0) (.metr (r4 b.fd b.hd) (r4 b.fa b.ha))
  | _ => none

/-- The instruction a bundle is, before the operand checks of `Instr.wf`. -/
def Bundle.build (b : Bundle) : Option Instr :=
  match b.page with
  | 0 => b.build0
  | 1 => b.build1
  | 2 => b.build2
  | 3 => b.build3
  | 4 => b.build4
  | 5 => b.build5
  | 6 => b.build6
  | _ => b.build7

/-! ### Reading the words of a bundle -/

/-- A charge: the word an offence is charged to and the offence (R40). -/
abbrev Charge := Nat × IllReason

/-- The prefixes read so far: payload and word index of each kind, and the charges to prefix words (R40). -/
structure Prefixes where
  xpg : Option (Nat × Nat) := none
  xrg : Option (Nat × Nat) := none
  rep : Option (Nat × Nat) := none
  xlv : Option (Nat × Nat) := none
  xsc : Option (Nat × Nat) := none
  xwt : Option (Nat × Nat) := none
  xims : List Nat := []
  ximAt : Nat := 0
  charges : List Charge := []
  deriving DecidableEq, Repr, Inhabited

def Prefixes.charge (p : Prefixes) (k : Nat) (bad : Bool) (why : IllReason) : Prefixes :=
  if bad then { p with charges := p.charges ++ [(k, why)] } else p

/-- One prefix word w, word k of the bundle: its kind, its payload, and its "must be 0" bits (R45, R46). XPG with page 0 and XSC with
scope 5 to 7 are charged to the prefix word: log entry 77 (DESIGN CHOICE). -/
def Prefixes.add (p : Prefixes) (k w : Nat) : Prefixes :=
  if w / 2048 == 30 then
    { p with xims := p.xims ++ [w % 2048], ximAt := if p.xims.isEmpty then k else p.ximAt }
  else
    let v := w % 256
    let again (q : Option (Nat × Nat)) := p.charge k q.isSome .repeatedPrefix
    match w / 256 % 8 with
    | 0 => { (again p.xpg).charge k (v / 8 != 0 || v % 8 == 0) .mustBeZero with xpg := some (p.xpg.getD (v, k)) }
    | 1 => { (again p.xrg).charge k (v / 16 % 2 == 1) .mustBeZero with xrg := some (p.xrg.getD (v, k)) }
    | 2 => { (again p.rep).charge k (v / 128 == 1 && v / 16 % 8 != 0) .mustBeZero with rep := some (p.rep.getD (v, k)) }
    | 3 => { (again p.xlv).charge k (v % 4 != 0) .mustBeZero with xlv := some (p.xlv.getD (v, k)) }
    | 4 => { (again p.xsc).charge k (v / 32 != 0 || 5 ≤ v % 8) .mustBeZero with xsc := some (p.xsc.getD (v, k)) }
    | 5 => { again p.xwt with xwt := some (p.xwt.getD (v, k)) }
    | _ => p.charge k true .reservedKind

/-- Charges every prefix of a kind that the base word does not accept (R47). -/
def Prefixes.check (p : Prefixes) (a : Kinds) : Prefixes :=
  let one (ok : Bool) (q : Option (Nat × Nat)) (p : Prefixes) :=
    match q with
    | some (_, k) => p.charge k (!ok) .notAccepted
    | none => p
  one a.xwt p.xwt (one a.xsc p.xsc (one a.xlv p.xlv (one a.rep p.rep (one a.xrg p.xrg
    (p.charge p.ximAt (!p.xims.isEmpty && !a.xim) .notAccepted)))))

/-- The charge of the lowest word (R40). -/
def lowest : List Charge → Option Charge
  | [] => none
  | x :: xs =>
    match lowest xs with
    | none => some x
    | some y => some (if y.1 < x.1 then y else x)

/-- The bundle of the prefixes and the base word w. -/
def Prefixes.bundle (p : Prefixes) (w : Nat) : Bundle where
  page := (p.xpg.map (·.1)).getD 0 % 8
  op := w / 2048
  o := w % 2048
  xrg := p.xrg.map (·.1)
  rep := p.rep.map (·.1)
  xlv := p.xlv.map (·.1)
  xsc := p.xsc.map (·.1)
  xwt := p.xwt.map (·.1)
  xims := p.xims

/-- The bundle whose base word w is word k (R40, R50). Where the base word is unassigned it is charged alone, and no prefix before it as one
that it does not accept: log entry 77 (DESIGN CHOICE). -/
def decodeBase (p : Prefixes) (k w : Nat) : Decoded :=
  let b := p.bundle w
  match kindsOf b.page b.op b.fm b.fd b.fb with
  | none =>
    match lowest (p.charges ++ [(k, .unassigned)]) with
    | some c => .ill c.2 c.1
    | none => .ill .unassigned k
  | some a =>
    let charges := (p.check a).charges
    match b.build with
    | some i =>
      match lowest (charges ++ if i.wf then [] else [(k, .refused)]) with
      | some c => .ill c.2 c.1
      | none => .instr i (k + 1)
    | none =>
      match lowest (charges ++ [(k, .refused)]) with
      | some c => .ill c.2 c.1
      | none => .ill .refused k

/-- Reads prefix words up to the base word; k words are read already (R37). A fifth prefix is charged without a base word, against which R40
would check the earlier ones: log entry 77 (DESIGN CHOICE). -/
def decodeFrom : List Nat → Nat → Prefixes → Decoded
  | [], _, _ => .short
  | w :: ws, k, p =>
    if w / 2048 < 30 then decodeBase p k w
    else if 4 ≤ k then
      match lowest (p.charges ++ [(k, .fifthPrefix)]) with
      | some c => .ill c.2 c.1
      | none => .ill .fifthPrefix k
    else decodeFrom ws (k + 1) (p.add k w)

/-- The bundle that a list of 16-bit words begins with. -/
def decode (ws : List Nat) : Decoded := decodeFrom ws 0 {}

/-- The words of stored bytes, little-endian (R37). -/
def wordsOfBytes : List Byte → List Nat
  | lo :: hi :: rest => (lo.toNat + 256 * hi.toNat) :: wordsOfBytes rest
  | _ => []

/-- Decoding of any bytes. -/
def decodeBytes (bs : List Byte) : Decoded := decode (wordsOfBytes bs)

/-! ### The encoder -/

def f3 (m d a b : Nat) : Nat := m * 512 + d * 64 + a * 8 + b
def fi (d i : Nat) : Nat := d * 256 + i
def f2i (d a i : Nat) : Nat := d * 256 + a * 32 + i
def xr (hd ha hb c : Nat) : Nat := hd * 128 + ha * 64 + hb * 32 + c
def lv (base tx : Nat) (bank : Bool) : Nat := base * 16 + tx * 8 + (if bank then 4 else 0)
def wt (wa wb : Nat) : Nat := wb * 16 + wa
/-- A prefix payload of zero needs no prefix (R66). -/
def nz (p : Nat) : Option Nat := if p == 0 then none else some p
def lo13 (t : Option Nat) : Nat := t.getD 5
def hi13 (t : Option Nat) : Nat := if t.isNone then 1 else 0
def bank13 (t : Option TReg) : Nat := match t with | some t => t.val / 8 | none => 0
def repCode : Rep → Option Nat
  | .one => none
  | .imm n => some n.val
  | .reg s => some (128 + s.val)
def xscCode (x : Option Xsc) : Option Nat := x.map fun x => 8 * orderCode x.ord + scopeCode x.scope

/-- The k XIM payloads of a value, most significant first, and what is left below them. -/
def ximSplit : Nat → Nat → List Nat
  | 0, _ => []
  | k + 1, v => ximSplit k (v / 2048) ++ [v % 2048]

/-- The fewest XIM words in which an immediate fits (R66). -/
def fewest (fits : Nat → Bool) : Option Nat :=
  if fits 0 then some 0 else if fits 1 then some 1 else if fits 2 then some 2 else if fits 3 then some 3
  else if fits 4 then some 4 else none

/-- A signed immediate over a base immediate of w bits: the base bits and the XIM payloads. -/
def immBitsS (w : Nat) (v : Int) : Option (Nat × List Nat) :=
  (fewest fun k => fitsS (w + 11 * k) v).map fun k =>
    let n := (v % (2 ^ (w + 11 * k) : Nat)).toNat
    (n % 2 ^ w, ximSplit k (n / 2 ^ w))

/-- An unsigned immediate over a base immediate of w bits. -/
def immBitsU (w v : Nat) : Option (Nat × List Nat) :=
  (fewest fun k => decide (v < 2 ^ (w + 11 * k))).map fun k => (v % 2 ^ w, ximSplit k (v / 2 ^ w))

/-- The bundle of an instruction, with the prefixes that its operands need (R66); an event has none. -/
def Instr.bundle : Instr → Option Bundle
  | .nop => some { page := 0, op := 0, o := f3 0 0 0 0 }
  | .endAct => some { page := 0, op := 0, o := f3 0 1 0 0 }
  | .ret => some { page := 0, op := 0, o := f3 0 2 0 0 }
  | .brk => some { page := 0, op := 0, o := f3 0 3 0 0 }
  | .endTeam => some { page := 0, op := 0, o := f3 0 4 0 0 }
  | .add d a b => some { page := 0, op := 1, o := f3 0 (d.val % 8) (a.val % 8) (b.val % 8), xrg := nz (xr (d.val / 8) (a.val / 8) (b.val / 8) 0) }
  | .sub d a b => some { page := 0, op := 1, o := f3 1 (d.val % 8) (a.val % 8) (b.val % 8), xrg := nz (xr (d.val / 8) (a.val / 8) (b.val / 8) 0) }
  | .and d a b => some { page := 0, op := 1, o := f3 2 (d.val % 8) (a.val % 8) (b.val % 8), xrg := nz (xr (d.val / 8) (a.val / 8) (b.val / 8) 0) }
  | .or d a b => some { page := 0, op := 1, o := f3 3 (d.val % 8) (a.val % 8) (b.val % 8), xrg := nz (xr (d.val / 8) (a.val / 8) (b.val / 8) 0) }
  | .xor d a b => some { page := 0, op := 2, o := f3 0 (d.val % 8) (a.val % 8) (b.val % 8), xrg := nz (xr (d.val / 8) (a.val / 8) (b.val / 8) 0) }
  | .shl d a b => some { page := 0, op := 2, o := f3 1 (d.val % 8) (a.val % 8) (b.val % 8), xrg := nz (xr (d.val / 8) (a.val / 8) (b.val / 8) 0) }
  | .shr d a b => some { page := 0, op := 2, o := f3 2 (d.val % 8) (a.val % 8) (b.val % 8), xrg := nz (xr (d.val / 8) (a.val / 8) (b.val / 8) 0) }
  | .sha d a b => some { page := 0, op := 2, o := f3 3 (d.val % 8) (a.val % 8) (b.val % 8), xrg := nz (xr (d.val / 8) (a.val / 8) (b.val / 8) 0) }
  | .mul d a b => some { page := 0, op := 3, o := f3 0 (d.val % 8) (a.val % 8) (b.val % 8), xrg := nz (xr (d.val / 8) (a.val / 8) (b.val / 8) 0) }
  | .mulh d a b => some { page := 0, op := 3, o := f3 1 (d.val % 8) (a.val % 8) (b.val % 8), xrg := nz (xr (d.val / 8) (a.val / 8) (b.val / 8) 0) }
  | .div d a b => some { page := 0, op := 3, o := f3 2 (d.val % 8) (a.val % 8) (b.val % 8), xrg := nz (xr (d.val / 8) (a.val / 8) (b.val / 8) 0) }
  | .rem d a b => some { page := 0, op := 3, o := f3 3 (d.val % 8) (a.val % 8) (b.val % 8), xrg := nz (xr (d.val / 8) (a.val / 8) (b.val / 8) 0) }
  | .seq d a b => some { page := 0, op := 4, o := f3 0 (d.val % 8) (a.val % 8) (b.val % 8), xrg := nz (xr (d.val / 8) (a.val / 8) (b.val / 8) 0) }
  | .slt d a b => some { page := 0, op := 4, o := f3 1 (d.val % 8) (a.val % 8) (b.val % 8), xrg := nz (xr (d.val / 8) (a.val / 8) (b.val / 8) 0) }
  | .sltu d a b => some { page := 0, op := 4, o := f3 2 (d.val % 8) (a.val % 8) (b.val % 8), xrg := nz (xr (d.val / 8) (a.val / 8) (b.val / 8) 0) }
  | .sel d a b => some { page := 0, op := 4, o := f3 3 (d.val % 8) (a.val % 8) (b.val % 8), xrg := nz (xr (d.val / 8) (a.val / 8) (b.val / 8) 0) }
  | .min d a b => some { page := 0, op := 5, o := f3 0 (d.val % 8) (a.val % 8) (b.val % 8), xrg := nz (xr (d.val / 8) (a.val / 8) (b.val / 8) 0) }
  | .max d a b => some { page := 0, op := 5, o := f3 1 (d.val % 8) (a.val % 8) (b.val % 8), xrg := nz (xr (d.val / 8) (a.val / 8) (b.val / 8) 0) }
  | .minu d a b => some { page := 0, op := 5, o := f3 2 (d.val % 8) (a.val % 8) (b.val % 8), xrg := nz (xr (d.val / 8) (a.val / 8) (b.val / 8) 0) }
  | .maxu d a b => some { page := 0, op := 5, o := f3 3 (d.val % 8) (a.val % 8) (b.val % 8), xrg := nz (xr (d.val / 8) (a.val / 8) (b.val / 8) 0) }
  | .addi d a imm => (immBitsS 5 imm).map fun x0 => { page := 0, op := 6, o := f2i (d.val % 8) (a.val % 8) x0.1, xims := x0.2, xrg := nz (xr (d.val / 8) (a.val / 8) 0 0) }
  | .li d imm => (immBitsS 8 imm).map fun x0 => { page := 0, op := 7, o := fi (d.val % 8) x0.1, xims := x0.2, xrg := nz (xr (d.val / 8) 0 0 0) }
  | .andi d a imm => (immBitsS 5 imm).map fun x0 => { page := 0, op := 8, o := f2i (d.val % 8) (a.val % 8) x0.1, xims := x0.2, xrg := nz (xr (d.val / 8) (a.val / 8) 0 0) }
  | .shli d a n => (immBitsU 5 n.val).map fun x0 => { page := 0, op := 9, o := f2i (d.val % 8) (a.val % 8) x0.1, xims := x0.2, xrg := nz (xr (d.val / 8) (a.val / 8) 0 0) }
  | .shri d a n => (immBitsU 5 n.val).map fun x0 => { page := 0, op := 10, o := f2i (d.val % 8) (a.val % 8) x0.1, xims := x0.2, xrg := nz (xr (d.val / 8) (a.val / 8) 0 0) }
  | .shai d a n => (immBitsU 5 n.val).map fun x0 => { page := 0, op := 11, o := f2i (d.val % 8) (a.val % 8) x0.1, xims := x0.2, xrg := nz (xr (d.val / 8) (a.val / 8) 0 0) }
  | .mov d a => some { page := 0, op := 12, o := f3 0 (d.val % 8) (a.val % 8) 0, xrg := nz (xr (d.val / 8) (a.val / 8) 0 0) }
  | .qrd d q => some { page := 0, op := 12, o := f3 1 (d.val % 8) q.val 0, xrg := nz (xr (d.val / 8) 0 0 0) }
  | .qwr q a => some { page := 0, op := 12, o := f3 2 q.val (a.val % 8) 0, xrg := nz (xr 0 (a.val / 8) 0 0) }
  | .ldw d a imm x => (immBitsS 5 imm).map fun x0 => { page := 0, op := 13, o := f2i (d.val % 8) (a.val % 8) x0.1, xims := x0.2, xrg := nz (xr (d.val / 8) (a.val / 8) 0 0), xsc := xscCode x }
  | .ldd d a imm x => (immBitsS 5 imm).map fun x0 => { page := 0, op := 14, o := f2i (d.val % 8) (a.val % 8) x0.1, xims := x0.2, xrg := nz (xr (d.val / 8) (a.val / 8) 0 0), xsc := xscCode x }
  | .stw d a imm x => (immBitsS 5 imm).map fun x0 => { page := 0, op := 15, o := f2i (d.val % 8) (a.val % 8) x0.1, xims := x0.2, xrg := nz (xr (d.val / 8) (a.val / 8) 0 0), xsc := xscCode x }
  | .std d a imm x => (immBitsS 5 imm).map fun x0 => { page := 0, op := 16, o := f2i (d.val % 8) (a.val % 8) x0.1, xims := x0.2, xrg := nz (xr (d.val / 8) (a.val / 8) 0 0), xsc := xscCode x }
  | .ldr d a imm p x => (immBitsS 5 imm).map fun x0 => { page := 0, op := 17, o := f2i (d.val % 8) (a.val % 8) x0.1, xims := x0.2, xrg := nz (xr (d.val / 8) (a.val / 8) 0 0), rep := repCode p.rep, xlv := nz (lv p.base.val 0 p.bank), xsc := xscCode x }
  | .str d a imm p x => (immBitsS 5 imm).map fun x0 => { page := 0, op := 18, o := f2i (d.val % 8) (a.val % 8) x0.1, xims := x0.2, xrg := nz (xr (d.val / 8) (a.val / 8) 0 0), rep := repCode p.rep, xlv := nz (lv p.base.val 0 p.bank), xsc := xscCode x }
  | .bra imm => (immBitsS 11 imm).map fun x0 => { page := 0, op := 19, o := x0.1, xims := x0.2 }
  | .call imm => (immBitsS 11 imm).map fun x0 => { page := 0, op := 20, o := x0.1, xims := x0.2 }
  | .bz d imm => (immBitsS 8 imm).map fun x0 => { page := 0, op := 21, o := fi (d.val % 8) x0.1, xims := x0.2, xrg := nz (xr (d.val / 8) 0 0 0) }
  | .bnz d imm => (immBitsS 8 imm).map fun x0 => { page := 0, op := 22, o := fi (d.val % 8) x0.1, xims := x0.2, xrg := nz (xr (d.val / 8) 0 0 0) }
  | .loop d imm => (immBitsS 8 imm).map fun x0 => { page := 0, op := 23, o := fi (d.val % 8) x0.1, xims := x0.2, xrg := nz (xr (d.val / 8) 0 0 0) }
  | .sendS a b rep x => some { page := 0, op := 24, o := f3 0 0 (a.val % 8) (b.val % 8), xrg := nz (xr 0 (a.val / 8) (b.val / 8) 0), rep := repCode rep, xsc := xscCode x }
  | .sendR d a c p x => some { page := 0, op := 24, o := f3 1 (d.val % 8) (a.val % 8) 0, xrg := nz (xr (d.val / 8) (a.val / 8) 0 c.val), rep := repCode p.rep, xlv := nz (lv p.base.val 0 p.bank), xsc := xscCode x }
  | .sendT t a rep x => some { page := 0, op := 24, o := f3 2 t.val (a.val % 8) 0, xrg := nz (xr 0 (a.val / 8) 0 0), rep := repCode rep, xsc := xscCode x }
  | .sendH a rep x => some { page := 0, op := 24, o := f3 3 0 (a.val % 8) 0, xrg := nz (xr 0 (a.val / 8) 0 0), rep := repCode rep, xsc := xscCode x }
  | .inpop d => some { page := 0, op := 25, o := f3 0 (d.val % 8) 0 0, xrg := nz (xr (d.val / 8) 0 0 0) }
  | .inrd d a => some { page := 0, op := 25, o := f3 1 (d.val % 8) (a.val % 8) 0, xrg := nz (xr (d.val / 8) (a.val / 8) 0 0) }
  | .inrdR d base bank => some { page := 0, op := 25, o := f3 1 (d.val % 8) 0 1, xrg := nz (xr (d.val / 8) 0 0 0), xlv := nz (lv base.val 0 bank) }
  | .insk d => some { page := 0, op := 25, o := f3 2 (d.val % 8) 0 0, xrg := nz (xr (d.val / 8) 0 0 0) }
  | .rwaitFull h n => some { page := 0, op := 26, o := fi h.val (n.val + 0) }
  | .rwaitFree h n => some { page := 0, op := 26, o := fi h.val (n.val + 128) }
  | .radvHead h n => some { page := 0, op := 27, o := fi h.val (n.val + 0) }
  | .radvTail h n => some { page := 0, op := 27, o := fi h.val (n.val + 128) }
  | .jr a => some { page := 0, op := 28, o := f3 0 0 (a.val % 8) 0, xrg := nz (xr 0 (a.val / 8) 0 0) }
  | .callr a => some { page := 0, op := 28, o := f3 1 0 (a.val % 8) 0, xrg := nz (xr 0 (a.val / 8) 0 0) }
  | .mulhu d a b => some { page := 1, op := 0, o := f3 0 (d.val % 8) (a.val % 8) (b.val % 8), xrg := nz (xr (d.val / 8) (a.val / 8) (b.val / 8) 0) }
  | .divu d a b => some { page := 1, op := 0, o := f3 1 (d.val % 8) (a.val % 8) (b.val % 8), xrg := nz (xr (d.val / 8) (a.val / 8) (b.val / 8) 0) }
  | .remu d a b => some { page := 1, op := 0, o := f3 2 (d.val % 8) (a.val % 8) (b.val % 8), xrg := nz (xr (d.val / 8) (a.val / 8) (b.val / 8) 0) }
  | .clz d a => some { page := 1, op := 1, o := f3 0 (d.val % 8) (a.val % 8) 0, xrg := nz (xr (d.val / 8) (a.val / 8) 0 0) }
  | .ctz d a => some { page := 1, op := 1, o := f3 1 (d.val % 8) (a.val % 8) 0, xrg := nz (xr (d.val / 8) (a.val / 8) 0 0) }
  | .popc d a => some { page := 1, op := 1, o := f3 2 (d.val % 8) (a.val % 8) 0, xrg := nz (xr (d.val / 8) (a.val / 8) 0 0) }
  | .brev d a => some { page := 1, op := 1, o := f3 3 (d.val % 8) (a.val % 8) 0, xrg := nz (xr (d.val / 8) (a.val / 8) 0 0) }
  | .bext d a b => some { page := 1, op := 2, o := f3 0 (d.val % 8) (a.val % 8) (b.val % 8), xrg := nz (xr (d.val / 8) (a.val / 8) (b.val / 8) 0) }
  | .bins d a b => some { page := 1, op := 3, o := f3 0 (d.val % 8) (a.val % 8) (b.val % 8), xrg := nz (xr (d.val / 8) (a.val / 8) (b.val / 8) 0) }
  | .sextB d a => some { page := 1, op := 4, o := f3 0 (d.val % 8) (a.val % 8) 0, xrg := nz (xr (d.val / 8) (a.val / 8) 0 0) }
  | .sextH d a => some { page := 1, op := 4, o := f3 1 (d.val % 8) (a.val % 8) 0, xrg := nz (xr (d.val / 8) (a.val / 8) 0 0) }
  | .sextW d a => some { page := 1, op := 4, o := f3 2 (d.val % 8) (a.val % 8) 0, xrg := nz (xr (d.val / 8) (a.val / 8) 0 0) }
  | .zextW d a => some { page := 1, op := 4, o := f3 3 (d.val % 8) (a.val % 8) 0, xrg := nz (xr (d.val / 8) (a.val / 8) 0 0) }
  | .addw d a b => some { page := 1, op := 5, o := f3 0 (d.val % 8) (a.val % 8) (b.val % 8), xrg := nz (xr (d.val / 8) (a.val / 8) (b.val / 8) 0) }
  | .subw d a b => some { page := 1, op := 5, o := f3 1 (d.val % 8) (a.val % 8) (b.val % 8), xrg := nz (xr (d.val / 8) (a.val / 8) (b.val / 8) 0) }
  | .mulw d a b => some { page := 1, op := 5, o := f3 2 (d.val % 8) (a.val % 8) (b.val % 8), xrg := nz (xr (d.val / 8) (a.val / 8) (b.val / 8) 0) }
  | .divw d a b => some { page := 1, op := 5, o := f3 3 (d.val % 8) (a.val % 8) (b.val % 8), xrg := nz (xr (d.val / 8) (a.val / 8) (b.val / 8) 0) }
  | .remw d a b => some { page := 1, op := 6, o := f3 0 (d.val % 8) (a.val % 8) (b.val % 8), xrg := nz (xr (d.val / 8) (a.val / 8) (b.val / 8) 0) }
  | .divuw d a b => some { page := 1, op := 6, o := f3 1 (d.val % 8) (a.val % 8) (b.val % 8), xrg := nz (xr (d.val / 8) (a.val / 8) (b.val / 8) 0) }
  | .remuw d a b => some { page := 1, op := 6, o := f3 2 (d.val % 8) (a.val % 8) (b.val % 8), xrg := nz (xr (d.val / 8) (a.val / 8) (b.val / 8) 0) }
  | .padd d a b => some { page := 1, op := 7, o := f3 0 (d.val % 8) (a.val % 8) (b.val % 8), xrg := nz (xr (d.val / 8) (a.val / 8) (b.val / 8) 0) }
  | .pmk d a b => some { page := 1, op := 8, o := f3 0 (d.val % 8) (a.val % 8) (b.val % 8), xrg := nz (xr (d.val / 8) (a.val / 8) (b.val / 8) 0) }
  | .pspc d a => some { page := 1, op := 8, o := f3 1 (d.val % 8) (a.val % 8) 0, xrg := nz (xr (d.val / 8) (a.val / 8) 0 0) }
  | .prnk d a => some { page := 1, op := 8, o := f3 2 (d.val % 8) (a.val % 8) 0, xrg := nz (xr (d.val / 8) (a.val / 8) 0 0) }
  | .poff d a => some { page := 1, op := 8, o := f3 3 (d.val % 8) (a.val % 8) 0, xrg := nz (xr (d.val / 8) (a.val / 8) 0 0) }
  | .bccEq a b imm => (immBitsS 3 imm).map fun x0 => { page := 1, op := 9, o := f3 0 (a.val % 8) (b.val % 8) x0.1, xims := x0.2, xrg := nz (xr 0 (a.val / 8) (b.val / 8) 0) }
  | .bccNe a b imm => (immBitsS 3 imm).map fun x0 => { page := 1, op := 9, o := f3 1 (a.val % 8) (b.val % 8) x0.1, xims := x0.2, xrg := nz (xr 0 (a.val / 8) (b.val / 8) 0) }
  | .bccLt a b imm => (immBitsS 3 imm).map fun x0 => { page := 1, op := 9, o := f3 2 (a.val % 8) (b.val % 8) x0.1, xims := x0.2, xrg := nz (xr 0 (a.val / 8) (b.val / 8) 0) }
  | .bccGe a b imm => (immBitsS 3 imm).map fun x0 => { page := 1, op := 9, o := f3 3 (a.val % 8) (b.val % 8) x0.1, xims := x0.2, xrg := nz (xr 0 (a.val / 8) (b.val / 8) 0) }
  | .bccuLtu a b imm => (immBitsS 3 imm).map fun x0 => { page := 1, op := 10, o := f3 0 (a.val % 8) (b.val % 8) x0.1, xims := x0.2, xrg := nz (xr 0 (a.val / 8) (b.val / 8) 0) }
  | .bccuGeu a b imm => (immBitsS 3 imm).map fun x0 => { page := 1, op := 10, o := f3 1 (a.val % 8) (b.val % 8) x0.1, xims := x0.2, xrg := nz (xr 0 (a.val / 8) (b.val / 8) 0) }
  | .ldx z d a b x => some { page := 2, op := 0, o := f3 (sizeCode z) (d.val % 8) (a.val % 8) (b.val % 8), xrg := nz (xr (d.val / 8) (a.val / 8) (b.val / 8) 0), xsc := xscCode x }
  | .ldxs z d a b x => some { page := 2, op := 1, o := f3 (sizeCode z) (d.val % 8) (a.val % 8) (b.val % 8), xrg := nz (xr (d.val / 8) (a.val / 8) (b.val / 8) 0), xsc := xscCode x }
  | .stx z d a b x => some { page := 2, op := 2, o := f3 (sizeCode z) (d.val % 8) (a.val % 8) (b.val % 8), xrg := nz (xr (d.val / 8) (a.val / 8) (b.val / 8) 0), xsc := xscCode x }
  | .ldt t a imm x => (immBitsS 5 imm).map fun x0 => { page := 2, op := 3, o := f2i t.val (a.val % 8) x0.1, xims := x0.2, xrg := nz (xr 0 (a.val / 8) 0 0), xsc := xscCode x }
  | .stt t a imm x => (immBitsS 5 imm).map fun x0 => { page := 2, op := 4, o := f2i t.val (a.val % 8) x0.1, xims := x0.2, xrg := nz (xr 0 (a.val / 8) 0 0), xsc := xscCode x }
  | .lds d a b p x => some { page := 2, op := 5, o := f3 0 (d.val % 8) (a.val % 8) (b.val % 8), xrg := nz (xr (d.val / 8) (a.val / 8) (b.val / 8) 0), rep := repCode p.rep, xlv := nz (lv p.base.val 0 p.bank), xsc := xscCode x }
  | .sts d a b p x => some { page := 2, op := 6, o := f3 0 (d.val % 8) (a.val % 8) (b.val % 8), xrg := nz (xr (d.val / 8) (a.val / 8) (b.val / 8) 0), rep := repCode p.rep, xlv := nz (lv p.base.val 0 p.bank), xsc := xscCode x }
  | .cld z d a b x => some { page := 2, op := 7, o := f3 (sizeCode z) (d.val % 8) (a.val % 8) (b.val % 8), xrg := nz (xr (d.val / 8) (a.val / 8) (b.val / 8) 0), xsc := xscCode x }
  | .cst z d a b x => some { page := 2, op := 8, o := f3 (sizeCode z) (d.val % 8) (a.val % 8) (b.val % 8), xrg := nz (xr (d.val / 8) (a.val / 8) (b.val / 8) 0), xsc := xscCode x }
  | .cbnd d a b => some { page := 2, op := 9, o := f3 0 (d.val % 8) (a.val % 8) (b.val % 8), xrg := nz (xr (d.val / 8) (a.val / 8) (b.val / 8) 0) }
  | .cnar d a b c => some { page := 2, op := 9, o := f3 1 (d.val % 8) (a.val % 8) (b.val % 8), xrg := nz (xr (d.val / 8) (a.val / 8) (b.val / 8) c.val) }
  | .cchk d a b => some { page := 2, op := 9, o := f3 2 (d.val % 8) (a.val % 8) (b.val % 8), xrg := nz (xr (d.val / 8) (a.val / 8) (b.val / 8) 0) }
  | .alloc d a b => some { page := 2, op := 10, o := f3 0 (d.val % 8) (a.val % 8) (b.val % 8), xrg := nz (xr (d.val / 8) (a.val / 8) (b.val / 8) 0) }
  | .free a => some { page := 2, op := 11, o := f3 0 0 (a.val % 8) 0, xrg := nz (xr 0 (a.val / 8) 0 0) }
  | .fenceRwTile => some { page := 2, op := 12, o := f3 0 0 0 0, xsc := some 0 }
  | .fenceRwQuad => some { page := 2, op := 12, o := f3 0 0 0 0, xsc := some 1 }
  | .fenceRwRegion => some { page := 2, op := 12, o := f3 0 0 0 0, xsc := some 2 }
  | .fenceRwWafer => some { page := 2, op := 12, o := f3 0 0 0 0 }
  | .fenceRwPod => some { page := 2, op := 12, o := f3 0 0 0 0, xsc := some 4 }
  | .fenceR => some { page := 2, op := 12, o := f3 1 0 0 0 }
  | .fenceWTile => some { page := 2, op := 12, o := f3 2 0 0 0, xsc := some 0 }
  | .fenceWQuad => some { page := 2, op := 12, o := f3 2 0 0 0, xsc := some 1 }
  | .fenceWRegion => some { page := 2, op := 12, o := f3 2 0 0 0, xsc := some 2 }
  | .fenceWWafer => some { page := 2, op := 12, o := f3 2 0 0 0 }
  | .fenceWPod => some { page := 2, op := 12, o := f3 2 0 0 0, xsc := some 4 }
  | .fenceI => some { page := 2, op := 12, o := f3 3 0 0 0 }
  | .amoaAdd d a b w x => some { page := 3, op := 0, o := f3 0 (d.val % 8) (a.val % 8) (b.val % 8), xrg := nz (xr (d.val / 8) (a.val / 8) (b.val / 8) (if w then 1 else 0)), xsc := xscCode x }
  | .amoaAnd d a b w x => some { page := 3, op := 0, o := f3 1 (d.val % 8) (a.val % 8) (b.val % 8), xrg := nz (xr (d.val / 8) (a.val / 8) (b.val / 8) (if w then 1 else 0)), xsc := xscCode x }
  | .amoaOr d a b w x => some { page := 3, op := 0, o := f3 2 (d.val % 8) (a.val % 8) (b.val % 8), xrg := nz (xr (d.val / 8) (a.val / 8) (b.val / 8) (if w then 1 else 0)), xsc := xscCode x }
  | .amoaXor d a b w x => some { page := 3, op := 0, o := f3 3 (d.val % 8) (a.val % 8) (b.val % 8), xrg := nz (xr (d.val / 8) (a.val / 8) (b.val / 8) (if w then 1 else 0)), xsc := xscCode x }
  | .amobMin d a b w x => some { page := 3, op := 1, o := f3 0 (d.val % 8) (a.val % 8) (b.val % 8), xrg := nz (xr (d.val / 8) (a.val / 8) (b.val / 8) (if w then 1 else 0)), xsc := xscCode x }
  | .amobMax d a b w x => some { page := 3, op := 1, o := f3 1 (d.val % 8) (a.val % 8) (b.val % 8), xrg := nz (xr (d.val / 8) (a.val / 8) (b.val / 8) (if w then 1 else 0)), xsc := xscCode x }
  | .amobMinu d a b w x => some { page := 3, op := 1, o := f3 0 (d.val % 8) (a.val % 8) (b.val % 8), xrg := nz (xr (d.val / 8) (a.val / 8) (b.val / 8) (if w then 3 else 2)), xsc := xscCode x }
  | .amobMaxu d a b w x => some { page := 3, op := 1, o := f3 1 (d.val % 8) (a.val % 8) (b.val % 8), xrg := nz (xr (d.val / 8) (a.val / 8) (b.val / 8) (if w then 3 else 2)), xsc := xscCode x }
  | .amobSwap d a b w x => some { page := 3, op := 1, o := f3 2 (d.val % 8) (a.val % 8) (b.val % 8), xrg := nz (xr (d.val / 8) (a.val / 8) (b.val / 8) (if w then 1 else 0)), xsc := xscCode x }
  | .casW d a b x => some { page := 3, op := 2, o := f3 0 (d.val % 8) (a.val % 8) (b.val % 8), xrg := nz (xr (d.val / 8) (a.val / 8) (b.val / 8) 0), xsc := xscCode x }
  | .casD d a b x => some { page := 3, op := 2, o := f3 1 (d.val % 8) (a.val % 8) (b.val % 8), xrg := nz (xr (d.val / 8) (a.val / 8) (b.val / 8) 0), xsc := xscCode x }
  | .phnew d a => some { page := 3, op := 3, o := f3 0 (d.val % 8) (a.val % 8) 0, xrg := nz (xr (d.val / 8) (a.val / 8) 0 0) }
  | .phreg d a b => some { page := 3, op := 3, o := f3 1 (d.val % 8) (a.val % 8) (b.val % 8), xrg := nz (xr (d.val / 8) (a.val / 8) (b.val / 8) 0) }
  | .phdrop d a => some { page := 3, op := 3, o := f3 2 (d.val % 8) (a.val % 8) 0, xrg := nz (xr (d.val / 8) (a.val / 8) 0 0) }
  | .phqry d a => some { page := 3, op := 3, o := f3 3 (d.val % 8) (a.val % 8) 0, xrg := nz (xr (d.val / 8) (a.val / 8) 0 0) }
  | .pharr d a o => some { page := 3, op := 4, o := f3 0 (d.val % 8) (a.val % 8) 0, xrg := nz (xr (d.val / 8) (a.val / 8) 0 0), xsc := o.map (8 * orderCode ·) }
  | .phwait d a o => some { page := 3, op := 4, o := f3 1 (d.val % 8) (a.val % 8) 0, xrg := nz (xr (d.val / 8) (a.val / 8) 0 0), xsc := o.map (8 * orderCode ·) }
  | .phaw d a o => some { page := 3, op := 4, o := f3 2 (d.val % 8) (a.val % 8) 0, xrg := nz (xr (d.val / 8) (a.val / 8) 0 0), xsc := o.map (8 * orderCode ·) }
  | .bar d sc ps => some { page := 3, op := 5, o := f3 0 (d.val % 8) (scopeCode sc) (psetCode ps), xrg := nz (xr (d.val / 8) 0 0 0) }
  | .bara d sc ps => some { page := 3, op := 5, o := f3 1 (d.val % 8) (scopeCode sc) (psetCode ps), xrg := nz (xr (d.val / 8) 0 0 0) }
  | .barw d sc ps => some { page := 3, op := 5, o := f3 2 (d.val % 8) (scopeCode sc) (psetCode ps), xrg := nz (xr (d.val / 8) 0 0 0) }
  | .cpy d a x => some { page := 3, op := 6, o := f3 0 (d.val % 8) (a.val % 8) 0, xrg := nz (xr (d.val / 8) (a.val / 8) 0 0), xsc := xscCode x }
  | .cpy2d d a x => some { page := 3, op := 6, o := f3 1 (d.val % 8) (a.val % 8) 0, xrg := nz (xr (d.val / 8) (a.val / 8) 0 0), xsc := xscCode x }
  | .cpyGth d a x => some { page := 3, op := 6, o := f3 2 (d.val % 8) (a.val % 8) 0, xrg := nz (xr (d.val / 8) (a.val / 8) 0 0), xsc := xscCode x }
  | .cpyRing d a x => some { page := 3, op := 6, o := f3 3 (d.val % 8) (a.val % 8) 0, xrg := nz (xr (d.val / 8) (a.val / 8) 0 0), xsc := xscCode x }
  | .waitp d a => some { page := 3, op := 7, o := f3 0 (d.val % 8) (a.val % 8) 0, xrg := nz (xr (d.val / 8) (a.val / 8) 0 0) }
  | .kvget d a b => some { page := 3, op := 8, o := f3 0 (d.val % 8) (a.val % 8) (b.val % 8), xrg := nz (xr (d.val / 8) (a.val / 8) (b.val / 8) 0) }
  | .kvset d a b => some { page := 3, op := 8, o := f3 1 (d.val % 8) (a.val % 8) (b.val % 8), xrg := nz (xr (d.val / 8) (a.val / 8) (b.val / 8) 0) }
  | .kvdel d b => some { page := 3, op := 8, o := f3 2 (d.val % 8) 0 (b.val % 8), xrg := nz (xr (d.val / 8) 0 (b.val / 8) 0) }
  | .kvlst d a b => some { page := 3, op := 8, o := f3 3 (d.val % 8) (a.val % 8) (b.val % 8), xrg := nz (xr (d.val / 8) (a.val / 8) (b.val / 8) 0) }
  | .collRed d a x => some { page := 3, op := 9, o := f3 0 (d.val % 8) (a.val % 8) 0, xrg := nz (xr (d.val / 8) (a.val / 8) 0 0), xsc := xscCode x }
  | .collBcst d a x => some { page := 3, op := 9, o := f3 1 (d.val % 8) (a.val % 8) 0, xrg := nz (xr (d.val / 8) (a.val / 8) 0 0), xsc := xscCode x }
  | .collAgth d a x => some { page := 3, op := 9, o := f3 2 (d.val % 8) (a.val % 8) 0, xrg := nz (xr (d.val / 8) (a.val / 8) 0 0), xsc := xscCode x }
  | .plh d a => some { page := 3, op := 10, o := f3 0 (d.val % 8) (a.val % 8) 0, xrg := nz (xr (d.val / 8) (a.val / 8) 0 0) }
  | .plq d a => some { page := 3, op := 10, o := f3 1 (d.val % 8) (a.val % 8) 0, xrg := nz (xr (d.val / 8) (a.val / 8) 0 0) }
  | .vadd ty d a b x => some { page := 4, op := 0, o := f3 (typeCode ty % 4) (d.val % 8) (a.val % 8) (b.val % 8), xrg := nz (xr (d.val / 8) (a.val / 8) (b.val / 8) x.c.val), rep := repCode x.rep, xlv := nz (lv x.base.val (typeCode ty / 4) x.bank) }
  | .vsub ty d a b x => some { page := 4, op := 1, o := f3 (typeCode ty % 4) (d.val % 8) (a.val % 8) (b.val % 8), xrg := nz (xr (d.val / 8) (a.val / 8) (b.val / 8) x.c.val), rep := repCode x.rep, xlv := nz (lv x.base.val (typeCode ty / 4) x.bank) }
  | .vmul ty d a b x => some { page := 4, op := 2, o := f3 (typeCode ty % 4) (d.val % 8) (a.val % 8) (b.val % 8), xrg := nz (xr (d.val / 8) (a.val / 8) (b.val / 8) x.c.val), rep := repCode x.rep, xlv := nz (lv x.base.val (typeCode ty / 4) x.bank) }
  | .vfma ty d a b x => some { page := 4, op := 3, o := f3 (typeCode ty % 4) (d.val % 8) (a.val % 8) (b.val % 8), xrg := nz (xr (d.val / 8) (a.val / 8) (b.val / 8) x.c.val), rep := repCode x.rep, xlv := nz (lv x.base.val (typeCode ty / 4) x.bank) }
  | .vmin ty d a b x => some { page := 4, op := 4, o := f3 (typeCode ty % 4) (d.val % 8) (a.val % 8) (b.val % 8), xrg := nz (xr (d.val / 8) (a.val / 8) (b.val / 8) x.c.val), rep := repCode x.rep, xlv := nz (lv x.base.val (typeCode ty / 4) x.bank) }
  | .vmax ty d a b x => some { page := 4, op := 5, o := f3 (typeCode ty % 4) (d.val % 8) (a.val % 8) (b.val % 8), xrg := nz (xr (d.val / 8) (a.val / 8) (b.val / 8) x.c.val), rep := repCode x.rep, xlv := nz (lv x.base.val (typeCode ty / 4) x.bank) }
  | .vand ty d a b x => some { page := 4, op := 6, o := f3 (typeCode ty % 4) (d.val % 8) (a.val % 8) (b.val % 8), xrg := nz (xr (d.val / 8) (a.val / 8) (b.val / 8) x.c.val), rep := repCode x.rep, xlv := nz (lv x.base.val (typeCode ty / 4) x.bank) }
  | .vor ty d a b x => some { page := 4, op := 7, o := f3 (typeCode ty % 4) (d.val % 8) (a.val % 8) (b.val % 8), xrg := nz (xr (d.val / 8) (a.val / 8) (b.val / 8) x.c.val), rep := repCode x.rep, xlv := nz (lv x.base.val (typeCode ty / 4) x.bank) }
  | .vxor ty d a b x => some { page := 4, op := 8, o := f3 (typeCode ty % 4) (d.val % 8) (a.val % 8) (b.val % 8), xrg := nz (xr (d.val / 8) (a.val / 8) (b.val / 8) x.c.val), rep := repCode x.rep, xlv := nz (lv x.base.val (typeCode ty / 4) x.bank) }
  | .vshl ty d a b x => some { page := 4, op := 9, o := f3 (typeCode ty % 4) (d.val % 8) (a.val % 8) (b.val % 8), xrg := nz (xr (d.val / 8) (a.val / 8) (b.val / 8) x.c.val), rep := repCode x.rep, xlv := nz (lv x.base.val (typeCode ty / 4) x.bank) }
  | .vshr ty d a b x => some { page := 4, op := 10, o := f3 (typeCode ty % 4) (d.val % 8) (a.val % 8) (b.val % 8), xrg := nz (xr (d.val / 8) (a.val / 8) (b.val / 8) x.c.val), rep := repCode x.rep, xlv := nz (lv x.base.val (typeCode ty / 4) x.bank) }
  | .vceq ty d a b x => some { page := 4, op := 11, o := f3 (typeCode ty % 4) (d.val % 8) (a.val % 8) (b.val % 8), xrg := nz (xr (d.val / 8) (a.val / 8) (b.val / 8) x.c.val), rep := repCode x.rep, xlv := nz (lv x.base.val (typeCode ty / 4) x.bank) }
  | .vclt ty d a b x => some { page := 4, op := 12, o := f3 (typeCode ty % 4) (d.val % 8) (a.val % 8) (b.val % 8), xrg := nz (xr (d.val / 8) (a.val / 8) (b.val / 8) x.c.val), rep := repCode x.rep, xlv := nz (lv x.base.val (typeCode ty / 4) x.bank) }
  | .vcle ty d a b x => some { page := 4, op := 13, o := f3 (typeCode ty % 4) (d.val % 8) (a.val % 8) (b.val % 8), xrg := nz (xr (d.val / 8) (a.val / 8) (b.val / 8) x.c.val), rep := repCode x.rep, xlv := nz (lv x.base.val (typeCode ty / 4) x.bank) }
  | .vsel ty d a b x => some { page := 4, op := 14, o := f3 (typeCode ty % 4) (d.val % 8) (a.val % 8) (b.val % 8), xrg := nz (xr (d.val / 8) (a.val / 8) (b.val / 8) x.c.val), rep := repCode x.rep, xlv := nz (lv x.base.val (typeCode ty / 4) x.bank) }
  | .vunaAbs ty d a x => some { page := 4, op := 15, o := f3 (typeCode ty % 4) (d.val % 8) (a.val % 8) 0, xrg := nz (xr (d.val / 8) (a.val / 8) 0 x.c.val), rep := repCode x.rep, xlv := nz (lv x.base.val (typeCode ty / 4) x.bank) }
  | .vunaNeg ty d a x => some { page := 4, op := 15, o := f3 (typeCode ty % 4) (d.val % 8) (a.val % 8) 1, xrg := nz (xr (d.val / 8) (a.val / 8) 0 x.c.val), rep := repCode x.rep, xlv := nz (lv x.base.val (typeCode ty / 4) x.bank) }
  | .vunaExp ty d a x => some { page := 4, op := 15, o := f3 (typeCode ty % 4) (d.val % 8) (a.val % 8) 2, xrg := nz (xr (d.val / 8) (a.val / 8) 0 x.c.val), rep := repCode x.rep, xlv := nz (lv x.base.val (typeCode ty / 4) x.bank) }
  | .vunaLog2 ty d a x => some { page := 4, op := 15, o := f3 (typeCode ty % 4) (d.val % 8) (a.val % 8) 3, xrg := nz (xr (d.val / 8) (a.val / 8) 0 x.c.val), rep := repCode x.rep, xlv := nz (lv x.base.val (typeCode ty / 4) x.bank) }
  | .vunaRcp ty d a x => some { page := 4, op := 15, o := f3 (typeCode ty % 4) (d.val % 8) (a.val % 8) 4, xrg := nz (xr (d.val / 8) (a.val / 8) 0 x.c.val), rep := repCode x.rep, xlv := nz (lv x.base.val (typeCode ty / 4) x.bank) }
  | .vunaRsq ty d a x => some { page := 4, op := 15, o := f3 (typeCode ty % 4) (d.val % 8) (a.val % 8) 5, xrg := nz (xr (d.val / 8) (a.val / 8) 0 x.c.val), rep := repCode x.rep, xlv := nz (lv x.base.val (typeCode ty / 4) x.bank) }
  | .vunaTanh ty d a x => some { page := 4, op := 15, o := f3 (typeCode ty % 4) (d.val % 8) (a.val % 8) 6, xrg := nz (xr (d.val / 8) (a.val / 8) 0 x.c.val), rep := repCode x.rep, xlv := nz (lv x.base.val (typeCode ty / 4) x.bank) }
  | .vunaSig ty d a x => some { page := 4, op := 15, o := f3 (typeCode ty % 4) (d.val % 8) (a.val % 8) 7, xrg := nz (xr (d.val / 8) (a.val / 8) 0 x.c.val), rep := repCode x.rep, xlv := nz (lv x.base.val (typeCode ty / 4) x.bank) }
  | .vredSum ty d a x => some { page := 4, op := 16, o := f3 (typeCode ty % 4) (d.val % 8) (a.val % 8) 0, xrg := nz (xr (d.val / 8) (a.val / 8) 0 x.c.val), rep := repCode x.rep, xlv := nz (lv x.base.val (typeCode ty / 4) x.bank) }
  | .vredMax ty d a x => some { page := 4, op := 16, o := f3 (typeCode ty % 4) (d.val % 8) (a.val % 8) 1, xrg := nz (xr (d.val / 8) (a.val / 8) 0 x.c.val), rep := repCode x.rep, xlv := nz (lv x.base.val (typeCode ty / 4) x.bank) }
  | .vredMin ty d a x => some { page := 4, op := 16, o := f3 (typeCode ty % 4) (d.val % 8) (a.val % 8) 2, xrg := nz (xr (d.val / 8) (a.val / 8) 0 x.c.val), rep := repCode x.rep, xlv := nz (lv x.base.val (typeCode ty / 4) x.bank) }
  | .vredSsq ty d a x => some { page := 4, op := 16, o := f3 (typeCode ty % 4) (d.val % 8) (a.val % 8) 3, xrg := nz (xr (d.val / 8) (a.val / 8) 0 x.c.val), rep := repCode x.rep, xlv := nz (lv x.base.val (typeCode ty / 4) x.bank) }
  | .vcvt ty src d a x => some { page := 4, op := 17, o := f3 (typeCode ty % 4) (d.val % 8) (a.val % 8) (typeCode src), xrg := nz (xr (d.val / 8) (a.val / 8) 0 x.c.val), rep := repCode x.rep, xlv := nz (lv x.base.val (typeCode ty / 4) x.bank) }
  | .vbc ty d a b x => some { page := 4, op := 18, o := f3 (typeCode ty % 4) (d.val % 8) (a.val % 8) (b.val % 8), xrg := nz (xr (d.val / 8) (a.val / 8) (b.val / 8) x.c.val), rep := repCode x.rep, xlv := nz (lv x.base.val (typeCode ty / 4) x.bank) }
  | .vmov d a x => some { page := 4, op := 19, o := f3 0 (d.val % 8) (a.val % 8) 0, xrg := nz (xr (d.val / 8) (a.val / 8) 0 x.c.val), rep := repCode x.rep, xlv := nz (lv x.base.val 0 x.bank) }
  | .vshuf ty d a b x => some { page := 4, op := 20, o := f3 (typeCode ty % 4) (d.val % 8) (a.val % 8) (b.val % 8), xrg := nz (xr (d.val / 8) (a.val / 8) (b.val / 8) x.c.val), rep := repCode x.rep, xlv := nz (lv x.base.val (typeCode ty / 4) x.bank) }
  | .vscan ty d a x => some { page := 4, op := 21, o := f3 (typeCode ty % 4) (d.val % 8) (a.val % 8) 0, xrg := nz (xr (d.val / 8) (a.val / 8) 0 x.c.val), rep := repCode x.rep, xlv := nz (lv x.base.val (typeCode ty / 4) x.bank) }
  | .viota ty d a x => some { page := 4, op := 22, o := f3 (typeCode ty % 4) (d.val % 8) (a.val % 8) 0, xrg := nz (xr (d.val / 8) (a.val / 8) 0 x.c.val), rep := repCode x.rep, xlv := nz (lv x.base.val (typeCode ty / 4) x.bank) }
  | .vrot ty d a b x => some { page := 4, op := 23, o := f3 (typeCode ty % 4) (d.val % 8) (a.val % 8) (b.val % 8), xrg := nz (xr (d.val / 8) (a.val / 8) (b.val / 8) x.c.val), rep := repCode x.rep, xlv := nz (lv x.base.val (typeCode ty / 4) x.bank) }
  | .mmaAcc d a b m => some { page := 5, op := 0, o := f3 0 d.val a.val b.val, rep := repCode m.rep, xwt := nz (wt m.wa.val m.wb.val) }
  | .mmaOvw d a b m => some { page := 5, op := 0, o := f3 1 d.val a.val b.val, rep := repCode m.rep, xwt := nz (wt m.wa.val m.wb.val) }
  | .mmaKeepb d a b m => some { page := 5, op := 0, o := f3 2 d.val a.val b.val, rep := repCode m.rep, xwt := nz (wt m.wa.val m.wb.val) }
  | .mmaKeepa d a b m => some { page := 5, op := 0, o := f3 3 d.val a.val b.val, rep := repCode m.rep, xwt := nz (wt m.wa.val m.wb.val) }
  | .mmq d a b wa wb => some { page := 5, op := 1, o := f3 0 d.val a.val b.val, xwt := nz (wt wa.val wb.val) }
  | .mmg d a b m => some { page := 5, op := 2, o := f3 0 d.val a.val b.val, rep := repCode m.rep, xwt := nz (wt m.wa.val m.wb.val) }
  | .chkv d a => some { page := 5, op := 3, o := f3 0 (d.val % 8) a.val 0, xrg := nz (xr (d.val / 8) 0 0 0) }
  | .cfix d a => some { page := 5, op := 3, o := f3 1 (d.val % 8) a.val 0, xrg := nz (xr (d.val / 8) 0 0 0) }
  | .csrd d a b => some { page := 5, op := 3, o := f3 2 (d.val % 8) a.val (b.val % 8), xrg := nz (xr (d.val / 8) 0 (b.val / 8) 0) }
  | .macz d => some { page := 5, op := 4, o := f3 0 d.val 0 0 }
  | .macrdF32 t a => some { page := 5, op := 5, o := f3 0 (t.val % 8) a.val 0, xlv := nz ((t.val / 8) * 4) }
  | .macrdBf16 t half a => some { page := 5, op := 5, o := f3 1 (t.val % 8) a.val 0, xlv := nz ((8 * half.val) * 16 + (t.val / 8) * 4) }
  | .macrdT8 t quarter a c => some { page := 5, op := 5, o := f3 2 (t.val % 8) a.val 0, xrg := nz (xr 0 0 0 c.val), xlv := nz ((4 * quarter.val) * 16 + (t.val / 8) * 4) }
  | .macwr d t => some { page := 5, op := 6, o := f3 0 d.val (t.val % 8) 0, xlv := nz ((t.val / 8) * 4) }
  | .mwait0 => some { page := 5, op := 7, o := f3 0 0 0 0 }
  | .mwait1 => some { page := 5, op := 7, o := f3 0 0 1 0 }
  | .mwait2 => some { page := 5, op := 7, o := f3 0 0 2 0 }
  | .mwait3 => some { page := 5, op := 7, o := f3 0 0 3 0 }
  | .mwait4 => some { page := 5, op := 7, o := f3 0 0 4 0 }
  | .mwait5 => some { page := 5, op := 7, o := f3 0 0 5 0 }
  | .mwait6 => some { page := 5, op := 7, o := f3 0 0 6 0 }
  | .mwait7 => some { page := 5, op := 7, o := f3 0 0 7 0 }
  | .mwaitAll => some { page := 5, op := 7, o := f3 0 0 0 1 }
  | .mtr d a => some { page := 5, op := 8, o := f3 0 d.val a.val 0 }
  | .rcfg h a => some { page := 5, op := 9, o := f3 0 h.val (a.val % 8) 0, xrg := nz (xr 0 (a.val / 8) 0 0) }
  | .rqry d h => some { page := 5, op := 10, o := f3 0 (d.val % 8) h.val 0, xrg := nz (xr (d.val / 8) 0 0 0) }
  | .rpsh t h rep => some { page := 5, op := 11, o := f3 0 (lo13 (t.map (·.val))) h.val 0, xrg := nz (xr (hi13 (t.map (·.val))) 0 0 0), rep := repCode rep }
  | .rtak t h rep w => some { page := 5, op := 12, o := f3 0 (lo13 (t.map (·.val % 8))) h.val 0, xrg := nz (xr (hi13 (t.map (·.val % 8))) 0 0 0), xlv := nz ((bank13 t) * 4), xwt := nz (wt w.val 0), rep := repCode rep }
  | .kadd d a b => some { page := 6, op := 0, o := f3 0 d.val a.val b.val }
  | .ksub d a b => some { page := 6, op := 0, o := f3 1 d.val a.val b.val }
  | .kmul d a b => some { page := 6, op := 0, o := f3 2 d.val a.val b.val }
  | .kfma d a b => some { page := 6, op := 0, o := f3 3 d.val a.val b.val }
  | .kaddd d a t => some { page := 6, op := 1, o := f3 0 d.val a.val (t.val % 8), xlv := nz ((t.val / 8) * 4) }
  | .kscl d a b => some { page := 6, op := 1, o := f3 1 d.val a.val (b.val % 8), xrg := nz (xr 0 0 (b.val / 8) 0) }
  | .kmuld d a t => some { page := 6, op := 1, o := f3 2 d.val a.val (t.val % 8), xlv := nz ((t.val / 8) * 4) }
  | .kvsub d a b => some { page := 6, op := 1, o := f3 3 d.val a.val b.val }
  | .knlRelu d a => some { page := 6, op := 2, o := f3 0 d.val a.val 0 }
  | .knlExp d a => some { page := 6, op := 2, o := f3 0 d.val a.val 1 }
  | .knlSig d a => some { page := 6, op := 2, o := f3 0 d.val a.val 2 }
  | .knlSq d a => some { page := 6, op := 2, o := f3 0 d.val a.val 3 }
  | .knlRcp d a => some { page := 6, op := 2, o := f3 0 d.val a.val 4 }
  | .kmk d a b bank => some { page := 6, op := 3, o := f3 0 d.val a.val (lo13 (b.map (·.val))), xrg := nz (xr 0 0 (hi13 (b.map (·.val))) 0), xlv := nz (lv 0 0 bank) }
  | .kcolMean t a => some { page := 6, op := 4, o := f3 0 (t.val % 8) a.val 0, xlv := nz ((t.val / 8) * 4) }
  | .kcolVar t a => some { page := 6, op := 4, o := f3 1 (t.val % 8) a.val 0, xlv := nz ((t.val / 8) * 4) }
  | .kcolSdev t a => some { page := 6, op := 4, o := f3 2 (t.val % 8) a.val 0, xlv := nz ((t.val / 8) * 4) }
  | .kcolDraw t a b base bank c => some { page := 6, op := 4, o := f3 3 t.val a.val (b.val % 8), xrg := nz (xr 0 0 (b.val / 8) c.val), xlv := nz (lv base.val 0 bank) }
  | .kldMp32 d a => some { page := 6, op := 5, o := f3 0 d.val (a.val % 8) 0, xrg := nz (xr 0 (a.val / 8) 0 0) }
  | .kldMb16 d a => some { page := 6, op := 5, o := f3 1 d.val (a.val % 8) 0, xrg := nz (xr 0 (a.val / 8) 0 0) }
  | .kstMp32 d a => some { page := 6, op := 5, o := f3 2 d.val (a.val % 8) 0, xrg := nz (xr 0 (a.val / 8) 0 0) }
  | .kstMb16 d a => some { page := 6, op := 5, o := f3 3 d.val (a.val % 8) 0, xrg := nz (xr 0 (a.val / 8) 0 0) }
  | .kmmaDwAcc d a b keep m => some { page := 6, op := 6, o := f3 0 d.val a.val b.val, xrg := nz (xr 0 0 0 (keepCode keep)), rep := repCode m.rep, xwt := nz (wt m.wa.val m.wb.val) }
  | .kmmaMwAcc d a b keep m => some { page := 6, op := 6, o := f3 1 d.val a.val b.val, xrg := nz (xr 0 0 0 (keepCode keep)), rep := repCode m.rep, xwt := nz (wt m.wa.val m.wb.val) }
  | .kmmaDwOvw d a b keep m => some { page := 6, op := 6, o := f3 2 d.val a.val b.val, xrg := nz (xr 0 0 0 (keepCode keep)), rep := repCode m.rep, xwt := nz (wt m.wa.val m.wb.val) }
  | .kmmaMwOvw d a b keep m => some { page := 6, op := 6, o := f3 3 d.val a.val b.val, xrg := nz (xr 0 0 0 (keepCode keep)), rep := repCode m.rep, xwt := nz (wt m.wa.val m.wb.val) }
  | .kacrd d a => some { page := 6, op := 7, o := f3 0 d.val a.val 0 }
  | .kred d a => some { page := 6, op := 8, o := f3 0 d.val a.val 0 }
  | .kmode a b => some { page := 6, op := 9, o := f3 0 0 (a.val % 8) (b.val % 8), xrg := nz (xr 0 (a.val / 8) (b.val / 8) 0) }
  | .kmov d a => some { page := 6, op := 10, o := f3 0 d.val a.val 0 }
  | .kmovTr d a => some { page := 6, op := 10, o := f3 0 d.val a.val 1 }
  | .qnt f d a base bank c => some { page := 6, op := 16, o := f3 0 (d.val % 8) a.val (nselCode f), xrg := nz (xr (d.val / 8) 0 0 c.val), xlv := nz (lv base.val 0 bank) }
  | .dqn f d a base bank c => some { page := 6, op := 17, o := f3 0 d.val (a.val % 8) (nselCode f), xrg := nz (xr 0 (a.val / 8) 0 c.val), xlv := nz (lv base.val 0 bank) }
  | .baq d a b base bank c => some { page := 6, op := 18, o := f3 0 (d.val % 8) (a.val % 8) (b.val % 8), xrg := nz (xr (d.val / 8) (a.val / 8) (b.val / 8) c.val), xlv := nz (lv base.val 0 bank) }
  | .trap code => (immBitsU 8 code).map fun x0 => { page := 7, op := 0, o := fi 0 x0.1, xims := x0.2 }
  | .tret => some { page := 7, op := 1, o := f3 0 0 0 0 }
  | .rpqrd d a => some { page := 7, op := 2, o := f3 0 (d.val % 8) (a.val % 8) 0, xrg := nz (xr (d.val / 8) (a.val / 8) 0 0) }
  | .rpqwr a b => some { page := 7, op := 2, o := f3 1 0 (a.val % 8) (b.val % 8), xrg := nz (xr 0 (a.val / 8) (b.val / 8) 0) }
  | .rpqdrp a => some { page := 7, op := 2, o := f3 2 0 (a.val % 8) 0, xrg := nz (xr 0 (a.val / 8) 0 0) }
  | .rpqlen d => some { page := 7, op := 2, o := f3 3 (d.val % 8) 0 0, xrg := nz (xr (d.val / 8) 0 0 0) }
  | .srd d n => some { page := 7, op := 3, o := fi (d.val % 8) n.val, xrg := nz (xr (d.val / 8) 0 0 0) }
  | .swr n d => some { page := 7, op := 4, o := fi (d.val % 8) n.val, xrg := nz (xr (d.val / 8) 0 0 0) }
  | .swrCki d => some { page := 7, op := 4, o := fi (d.val % 8) 2, xrg := nz (xr (d.val / 8) 0 0 0) }
  | .swrMctl d => some { page := 7, op := 4, o := fi (d.val % 8) 3, xrg := nz (xr (d.val / 8) 0 0 0) }
  | .swrFfl d => some { page := 7, op := 4, o := fi (d.val % 8) 13, xrg := nz (xr (d.val / 8) 0 0 0) }
  | .swrTvec d => some { page := 7, op := 4, o := fi (d.val % 8) 16, xrg := nz (xr (d.val / 8) 0 0 0) }
  | .cro imm => (immBitsS 11 imm).map fun x0 => { page := 7, op := 5, o := x0.1, xims := x0.2 }
  | .crc => some { page := 7, op := 6, o := f3 0 0 0 0 }
  | .chke d a => some { page := 7, op := 7, o := f3 0 (d.val % 8) (a.val % 8) 0, xrg := nz (xr (d.val / 8) (a.val / 8) 0 0) }
  | .sigS a => some { page := 7, op := 8, o := f3 0 0 (a.val % 8) 0, xrg := nz (xr 0 (a.val / 8) 0 0) }
  | .sigR a base bank => some { page := 7, op := 8, o := f3 1 0 (a.val % 8) 0, xrg := nz (xr 0 (a.val / 8) 0 0), xlv := nz (lv base.val 0 bank) }
  | .sigT t => some { page := 7, op := 8, o := f3 2 0 (t.val % 8) 0, xlv := nz ((t.val / 8) * 4) }
  | .sigRd d => some { page := 7, op := 8, o := f3 3 (d.val % 8) 0 0, xrg := nz (xr (d.val / 8) 0 0 0) }
  | .inj a b => some { page := 7, op := 9, o := f3 0 0 (a.val % 8) (b.val % 8), xrg := nz (xr 0 (a.val / 8) (b.val / 8) 0) }
  | .ctxsv d a => some { page := 7, op := 10, o := f3 0 (d.val % 8) (a.val % 8) 0, xrg := nz (xr (d.val / 8) (a.val / 8) 0 0) }
  | .ctxld a => some { page := 7, op := 10, o := f3 1 0 (a.val % 8) 0, xrg := nz (xr 0 (a.val / 8) 0 0) }
  | .pack d => some { page := 7, op := 10, o := f3 2 (d.val % 8) 0 0, xrg := nz (xr (d.val / 8) 0 0 0) }
  | .qsvcPing => some { page := 7, op := 11, o := fi 0 0 }
  | .qsvcMap => some { page := 7, op := 11, o := fi 0 1 }
  | .qsvcUnmap => some { page := 7, op := 11, o := fi 0 2 }
  | .qsvcGroup => some { page := 7, op := 11, o := fi 0 3 }
  | .qsvcYield => some { page := 7, op := 11, o := fi 0 4 }
  | .qsvcReport => some { page := 7, op := 11, o := fi 0 5 }
  | .qsvcDebug => some { page := 7, op := 11, o := fi 0 6 }
  | .qsvcUnknown => some { page := 7, op := 11, o := fi 0 7 }
  | .idle a => some { page := 7, op := 12, o := f3 0 0 (a.val % 8) 0, xrg := nz (xr 0 (a.val / 8) 0 0) }
  | .metr d a => some { page := 7, op := 13, o := f3 0 (d.val % 8) (a.val % 8) 0, xrg := nz (xr (d.val / 8) (a.val / 8) 0 0) }
  | .divideComplete _ => none
  | .allocResponse _ _ => none
  | .quayResponse _ => none
  | .remoteResponse _ => none
  | .translationResponse => none
  | .scrubTick => none
  | .scrubModule _ => none
  | .heldSlotWritePerform => none
  | .messageDelivery _ => none
  | .inboxAppendAfterWait => none
  | .ringMessageDelivery _ => none
  | .ringMessageAfterWait => none
  | .activationStart => none
  | .seqWindowArrival _ => none
  | .ackReceived _ => none
  | .retryReceived _ => none
  | .retryWaitExpiry _ => none
  | .rejectReceived _ => none
  | .resendNotice _ => none
  | .unackedTimeout _ => none
  | .vc0RequestRetry _ => none
  | .packetAgeTick _ => none
  | .flitCrcError _ => none
  | .linkCrcThreshold _ => none
  | .linkCreditTimeout _ => none
  | .failureReport _ _ => none
  | .regionFirewallCheck _ _ => none
  | .tileRetirement _ _ _ _ _ => none
  | .remoteAtomicAtHome _ => none
  | .leaseRecall _ _ _ => none
  | .leaseWriteBack _ => none
  | .phaserArrivalAtHome _ => none
  | .phaserWaitAtHome _ => none
  | .phaserRelease _ _ => none
  | .phaserRegisterAtHome _ => none
  | .barrierEpisodeComplete _ _ _ => none
  | .barrierRelease _ => none
  | .copyOperationStart => none
  | .copyRingRoom => none
  | .copyChunkTransfer => none
  | .copyOperationEnd => none
  | .completionPlaceDeferred => none
  | .storageCommandComplete _ _ => none
  | .collContributionArrival _ _ => none
  | .gatewayIndexReturn => none
  | .gatewayIndexTimeout _ _ => none
  | .collTimeout _ => none
  | .collPeerLost _ _ => none
  | .unitOperationStart => none
  | .unitOperationRetire => none
  | .rpshSlotFilled => none
  | .mmqRendezvous => none
  | .mmqRetireSignal => none
  | .mmqTimeout => none
  | .trapTake _ _ _ _ => none
  | .forwardResume => none
  | .forwardDeliver => none
  | .forwardKill => none
  | .containmentUnwind _ => none
  | .deferredEvent => none
  | .iabHit => none
  | .singleStep => none
  | .lockstepMismatch _ => none
  | .stopRequest => none
  | .collectorQuiescent _ _ => none
  | .stopAckTimeout _ _ => none
  | .launchQueueTake _ _ => none
  | .teamEnd _ _ => none
  | .teamSwapOut _ _ => none
  | .spillDivert _ => none
  | .teamSwapIn _ _ _ => none
  | .tokenBucketRefill _ => none
  | .tokenBucketEmpty _ => none
  | .energyMeterPeriod _ _ => none
  | .journalCheckpoint _ => none
  | .journalGapRecord _ => none
  | .idleWake => none
  | .q4RequestService => none
  | .clockStepChange _ _ => none
  | .pllRelockDone _ => none
  | .governorTick _ => none
  | .droopStretch _ _ => none
  | .rampInTolerance _ => none
  | .rampTimeout _ => none
  | .regulatorFault _ => none
  | .coolDone _ => none
  | .triesReset _ => none
  | .modulePowerCycle => none
  | .moduleBoot _ => none
  | .launch _ _ => none
  | .write _ _ _ _ => none
  | .read _ _ _ _ => none
  | .queryResidency _ => none
  | .queryCounters _ _ => none
  | .queryErrorLog _ _ => none
  | .queryTrace _ _ => none
  | .allocateQuarters _ _ => none
  | .allocateCreateContext _ _ => none
  | .allocateReleaseContext _ _ => none
  | .stopContext _ _ => none
  | .stopTeam _ _ _ => none
  | .attest _ _ => none
  | .journal _ _ => none
  | .promiseDeadline _ => none
  | .placementCacheFill => none
  | .swapAnnouncement _ _ => none
  | .edgeMemoryModuleFailure _ _ => none
  | .hostRdmaOperation _ _ _ _ _ => none

/-- The prefix words of a bundle in drasm's canonical order (R42, R66). -/
def Bundle.prefixWords (b : Bundle) : List Nat :=
  (b.rep.map (0xFA00 + ·)).toList ++ (if b.page == 0 then [] else [0xF800 + b.page]) ++
    (b.xrg.map (0xF900 + ·)).toList ++ (b.xlv.map (0xFB00 + ·)).toList ++ (b.xsc.map (0xFC00 + ·)).toList ++
    (b.xwt.map (0xFD00 + ·)).toList ++ b.xims.map (0xF000 + ·)

/-- The words of a bundle, where it needs at most four prefixes (R37). -/
def Bundle.words (b : Bundle) : Option (List Nat) :=
  if b.prefixWords.length ≤ 4 then some (b.prefixWords ++ [b.op * 2048 + b.o]) else none

/-- The words of an instruction; `none` for an event and where more than four prefixes would be needed (R37, R66). -/
def encode (i : Instr) : Option (List Nat) := i.bundle.bind (·.words)

/-- The words of the instruction whose bits are w, as the opcode table numbers them: of a row of two words, the table places the
XPG prefix, the first word in memory, in bits 31..16 and the base word in bits 15..0. -/
def tableWords (nbits w : Nat) : List Nat :=
  if nbits ≤ 16 then [w % 65536]
  else if w / 65536 % 65536 / 2048 == 31 then [w / 65536 % 65536, w % 65536]
  else [w % 65536, w / 65536 % 65536]

/-- The instruction that the decoder reads from a row of the opcode table. -/
def decodeTableWord (nbits w : Nat) : Option Instr :=
  match decode (tableWords nbits w) with
  | .instr i _ => some i
  | _ => none

end Sys2Proof
end

