-- ==== Sys2Proof/Machine/State.lean ====
section
/-! DEFINITION. The state of the machine, as plain data (01_machine R7-R36, 02_words R52-R63 and the state that the other
chapters give), and the state after reset. -/

namespace Sys2Proof.Machine

/-- The model's own stops. No instruction of the spec ends in one. -/
inductive Fault where
  /-- Raised by nothing: the spec turns every fault of an instruction into a trap, a kill or poison (15 R362, 14 R338). Safe. -/
  | none
  deriving DecidableEq, Repr, Inhabited

/-- Refusals. -/
inductive Refusal where
  /-- Raised by the dispatch for an instruction that has no meaning yet. Safe. -/
  | notModelled (mnemonic : String)
  deriving DecidableEq, Repr, Inhabited

/-- The outcome of a step of this machine. -/
abbrev OutcomeOf (σ : Type) : Type := Host.Outcome σ Fault Refusal

/-! ### Memory -/

/-- A memory: cells in rising order of address; an address that is not listed reads 0 (log entry 2). -/
abbrev Memory := List Host.Cell

/-- The canonical form: addresses strictly rising, and no listed byte is 0. -/
def Memory.wf : Memory → Bool
  | [] => true
  | [(_, v)] => v != 0
  | (a, v) :: (b, w) :: m => v != 0 && decide (a < b) && Memory.wf ((b, w) :: m)

/-- A table: the keys that differ from the default, each once. -/
abbrev Tab (α : Type) := List (Nat × α)

/-! ### Registers of a core -/

/-- A 64-byte row with a poison bit for each half (02 R53, 05 R125). -/
structure RowVal where
  bits : Row := 0
  bad : BitVec 2 := 0
  deriving DecidableEq, Repr, Inhabited

/-- A row of a moment register: 128 bytes with a poison bit for each quarter (13 R313). -/
structure KRowVal where
  bits : KRow := 0
  bad : BitVec 4 := 0
  deriving DecidableEq, Repr, Inhabited

/-- A tile register (02 R53, R56). -/
structure TileReg where
  live : Bool := false
  rows : Vector RowVal 16 := Vector.replicate 16 {}
  deriving DecidableEq, Repr, Inhabited

/-- An operand row or the latch (02 R53, R56). -/
structure ORow where
  live : Bool := false
  val : RowVal := {}
  deriving DecidableEq, Repr, Inhabited

/-- An accumulator with its checksum state (02 R55, 12 R305, R308). -/
structure Acc where
  live : Bool := false
  rows : Vector RowVal 16 := Vector.replicate 16 {}
  kc : Vector W32 16 := Vector.replicate 16 0
  kr : Vector W32 16 := Vector.replicate 16 0
  valid : Bool := false
  int : Bool := false
  deriving DecidableEq, Repr, Inhabited

/-- A moment register (02 R55, 13 R313). -/
structure MomentReg where
  live : Bool := false
  rows : Vector KRowVal 16 := Vector.replicate 16 {}
  deriving DecidableEq, Repr, Inhabited

/-- The row registers of a core: t0-t15 (t0-t3 on the staging core), o0-o3, l, c0-c7 and k0-k7 (01 R12, 02 R53-R55). -/
structure RowFile where
  t : Vector TileReg 16 := Vector.replicate 16 {}
  o : Vector ORow 4 := Vector.replicate 4 {}
  l : ORow := {}
  c : Vector Acc 8 := Vector.replicate 8 {}
  k : Vector MomentReg 8 := Vector.replicate 8 {}
  deriving DecidableEq, Repr, Inhabited

/-- The state registers of a core that software writes or that an activation loads (02 R63, 15 R359). -/
structure Srs where
  conv : Word := 0x00F000F0
  mctl : Word := 0
  tola : Word := 0
  tolr : Word := 0
  fmta : Word := 0
  fmtb : Word := 0
  scla : Word := 0
  sclb : Word := 0
  gtb : Word := 0
  kmd : Word := 0
  krho : Word := 0
  ffl : Word := 0
  fctl : Word := 0
  tvec : Word := 0
  brth : Word := 0
  msgh : Word := 0
  iab0 : Word := 0
  iab1 : Word := 0
  trctl : Word := 0
  deriving DecidableEq, Repr, Inhabited

/-- A forwarded trap that waits for the quay: cause, pc and address, and whether it was deferred (15 R374). -/
structure Forwarded where
  cause : Cause
  pc : Word
  va : Word
  dfr : Bool := false
  deriving DecidableEq, Repr, Inhabited

/-- A deferred event that waits for the next bundle boundary (12 R311, 13 R319). -/
structure Deferred where
  cause : Cause
  va : Word
  deriving DecidableEq, Repr, Inhabited

/-- The trap state of a core: LEVEL and SSTEP of TLV, the two trap banks, a forwarded trap and a deferred event
(15 R365, R374). -/
structure TrapRegs where
  level : Fin 3 := 0
  sstep : Bool := false
  tca1 : Word := 0
  tpc1 : Word := 0
  tva1 : Word := 0
  tca2 : Word := 0
  tpc2 : Word := 0
  tva2 : Word := 0
  fwd : Option Forwarded := none
  deferred : Option Deferred := none
  deriving DecidableEq, Repr, Inhabited

/-- A containment frame (14 R341); `rings` lists the slots that tail advances of the core filled since its CRO: ring, configuration
and number (14 R345). -/
structure ContFrame where
  handler : BitVec 19
  regs : Vector Word 16
  live : BitVec 16
  rings : List (Nat × Nat × Nat) := []
  deriving DecidableEq, Repr, Inhabited

/-- A replay-queue entry (15 R369): word 0 by its fields, words 1-3; and what the core holds with it: the operation, the request in
the fabric with the parts still outstanding and the bytes received, whether it is an acquire, whether it is a REP bundle that still
issues iterations, whether it was re-injected and has to be issued or sent again, and a captured operand that the words have no place
for. `forced` holds the iterations, or 0, whose operation was forced before it was withdrawn (12 R292); `late` says that the latch, which it loads,
has had a later result since (10 R268). -/
structure Entry where
  v : Bool := false
  lvl : Fin 3 := 0
  st : BitVec 2 := 0
  kind : BitVec 4 := 0
  bofs : BitVec 19 := 0
  next : BitVec 16 := 0
  count : BitVec 16 := 1
  w1 : Word := 0
  w2 : Word := 0
  w3 : Word := 0
  op : Option Instr := none
  fabric : Bool := false
  req : Nat := 0
  parts : List (Nat × Nat) := []
  buf : List PByte := []
  acq : Bool := false
  issuing : Bool := false
  resume : Bool := false
  cap : Word := 0
  forced : List Nat := []
  late : Bool := false
  deriving DecidableEq, Repr, Inhabited

/-- A message in an inbox: its header words, its payload and the round in which it arrived (07 R156, R161; 04 R105). -/
structure Msg where
  h0 : Word
  h1 : Word
  h2 : Word
  h3 : Word
  payload : List Byte
  pmask : BitVec 32
  order : Nat
  deriving DecidableEq, Repr, Inhabited

/-- A berth (04 R103) with its inbox, oldest first. -/
structure Berth where
  entry : BitVec 19 := 0
  valid : Bool := false
  vc : BitVec 2 := 0
  prio : BitVec 2 := 0
  stage : BitVec 4 := 0
  quota : BitVec 8 := 0
  conv : BitVec 32 := 0x00F000F0
  stk : BitVec 20 := 0
  inbox : List Msg := []
  deriving DecidableEq, Repr, Inhabited

/-- The queues behind q0-q5 of a core, and its completion queue (02 R60, 07 R161, R162, 15 R385); `q4sent` is the number of the request of q4
that is on its way to the quay. -/
structure Queues where
  q0pos : Nat := 0
  cq : List Word := []
  q1 : List Word := []
  q2 : List Word := []
  q3in : List Word := []
  q3out : List Word := []
  q4req : List Word := []
  q4resp : List Word := []
  q4sent : Option Nat := none
  q5 : List Word := []
  deriving DecidableEq, Repr, Inhabited

/-- A membership of a phaser (08 R204). -/
structure Member where
  id : Word
  mode : PhMode
  ap : BitVec 16
  wp : BitVec 16
  deriving DecidableEq, Repr, Inhabited

/-- The barrier state for one scope and set (08 R216). -/
structure BarState where
  ep : BitVec 16 := 0
  out : Bool := false
  deriving DecidableEq, Repr, Inhabited

/-- A stream to an endpoint on a VC (07 R177, R179). -/
structure Stream where
  dst : Endpoint
  vc : Fin 8
  next : BitVec 16
  closing : Bool := false
  lastReinject : Nat := 0
  deriving DecidableEq, Repr, Inhabited

/-- A packet that is not acknowledged yet, in state SENT or WAIT (07 R177). -/
structure RetryEntry where
  pkt : Packet
  wait : Bool := false
  gen : BitVec 16
  deriving DecidableEq, Repr, Inhabited

/-- The stream table, the retry buffer and its counters (07 R177, 18 R413), and the requests on VC0 without a reply (07 R180). -/
structure LinkState where
  streams : List Stream := []
  retry : List RetryEntry := []
  rtx : BitVec 16 := 0
  req : Nat := 0
  vc0 : List Packet := []
  deriving DecidableEq, Repr, Inhabited

/-- An operation that the matrix unit holds (12 R288, R295): its entry, what it sampled at issue, the offset of its A slot and of its
B slots from HEAD and how many of each it still binds, the scale and group bytes it read, the bytes captured at its start, whether it
was forced (12 R292), its step or pass (`scalar` then holds the events of the earlier ones), whether it has started, whether a deferred event holds it (12 R311), and CYC at its issue. -/
structure UnitOp where
  ent : Nat
  op : Instr
  fmta : Word
  fmtb : Word
  kmd : Word
  krho : Word
  scla : Word
  sclb : Word
  gtb : Word
  scalar : Word := 0
  ua : Nat := 0
  ub : Nat := 0
  na : Nat := 1
  nb : Nat := 1
  sca : List PByte := []
  scb : List PByte := []
  group : List Byte := []
  a : List PByte := []
  b : List PByte := []
  row : RowVal := {}
  forced : Bool := false
  step : Nat := 0
  started : Bool := false
  stuck : Bool := false
  since : Word := 0
  deriving DecidableEq, Repr, Inhabited

/-- The matrix unit as a core uses it: its operations in issue order; at issue it holds at most one that waits (12 R295). `kept` are the
operations that left it and whose slots stay bound: one that a deferred event holds, one that stopped at a pass or step boundary
(12 R302, R311, 13 R319, R333). -/
structure UnitState where
  ops : List UnitOp := []
  kept : List UnitOp := []
  deriving DecidableEq, Repr, Inhabited

/-- An RPSH that has not advanced TAIL (12 R293): its ring, the slot reserved for it and the bytes that it has still to store there; none
for z. -/
structure RpshOp where
  ring : Ring
  slot : Nat
  bytes : List PByte
  deriving DecidableEq, Repr, Inhabited

/-- A translation that a bundle waits for, and the number of its request on VC0 once it has left (05 R117). -/
structure XlatReq where
  va : Word
  write : Bool
  req : Option Nat := none
  deriving DecidableEq, Repr, Inhabited

/-- A core (01 R12, R13). `upset` says how the next lockstep comparison ends: it agrees (0), disagrees once (1), or again at the
re-execution (2) (14 R351-R353). `stopAsked` says that the collector's stop has arrived (15 R376), `dead` that the kill of its context began at it: it issues no more (15 R368). `asleep` holds the limit of an IDLE and what the core counted when it went to sleep (15 R386). -/
structure Core where
  pc : Word := 0
  npc : Word := 0
  active : Bool := false
  regs : Vector Word 16 := Vector.replicate 16 0
  live : BitVec 16 := 0
  rf : RowFile := {}
  sr : Srs := {}
  tr : TrapRegs := {}
  frames : List ContFrame := []
  ucause : BitVec 3 := 0
  uopc : BitVec 19 := 0
  sig : Word := 0xFFFFFFFFFFFFFFFF
  rq : Vector Entry 8 := Vector.replicate 8 {}
  berths : Vector Berth 16 := Vector.replicate 16 {}
  guard : Nat := 0
  lastPrio : Nat := 0
  stagePick : Option Nat := none
  q : Queues := {}
  kvTag : BitVec 16 := 0
  kvOut : Nat := 0
  members : List Member := []
  bars : Vector BarState 15 := Vector.replicate 15 {}
  link : LinkState := {}
  unit : UnitState := {}
  rpsh : List RpshOp := []
  xlatReq : Option XlatReq := none
  plReq : Option Nat := none
  advisory : BitVec 5 := 0
  injRow : Bool := false
  injMat : Bool := false
  upset : Nat := 0
  stopped : Bool := false
  stopAsked : Bool := false
  dead : Bool := false
  ended : Bool := false
  asleep : Option (Word × List Nat) := none
  iabSkip : Bool := false
  issued : Bool := false
  deriving DecidableEq, Repr, Inhabited

/-! ### The shared parts of a tile -/

/-- Which tile: a compute tile by its logical wafer coordinates, or a gateway tile (01 R9, R15, R18). -/
inductive TileId where
  | grid (x y : Nat)
  | gateway (n : Nat)
  deriving DecidableEq, Repr, Inhabited

/-- A ring handle (02 R58); `pops` counts the slots popped since its configuration and `epoch` the configurations, by which a
containment frame names slots (14 R345). -/
structure RingState where
  base : BitVec 9 := 0
  nslot : BitVec 7 := 0
  head : BitVec 6 := 0
  tail : BitVec 6 := 0
  fill : BitVec 7 := 0
  held : BitVec 7 := 0
  pops : Nat := 0
  epoch : Nat := 0
  deriving DecidableEq, Repr, Inhabited

/-- A member registered at a phaser's home (08 R205): its mode, the phase from which it counts, the phase after which it has left,
the phases at which it has arrived or waited. -/
structure PhMember where
  x : Nat
  y : Nat
  core : CoreSel
  mode : PhMode
  start : BitVec 16
  left : Option (BitVec 16) := none
  arrived : List (BitVec 16) := []
  deriving DecidableEq, Repr, Inhabited

/-- A phaser slot (08 R202-R205): `waiters` are the waits recorded, `pend` the early arrivals that an engine holds. -/
structure Phaser where
  inUse : Bool := false
  gen : BitVec 8 := 0
  scope : Scope := .tile
  phase : BitVec 16 := 0
  ctx : Nat := 0
  ttag : Nat := 0
  cx : Nat := 0
  cy : Nat := 0
  members : List PhMember := []
  waiters : List PhReq := []
  pend : List PhReq := []
  deriving DecidableEq, Repr, Inhabited

/-- A copy-engine entry (09 R222, R227, R228). `mode` 0 plain, 1 2-D, 2 gather, 3 to-ring; `unit` rows or elements are done, and
`within` bytes of the next; `done` bytes in all; `room` says that a to-ring operation has found room and sampled TAIL. -/
structure CopyEntry where
  gen : BitVec 5 := 0
  busy : Bool := false
  ended : Bool := false
  used : Bool := false
  mode : Nat := 0
  desc : List Word := []
  core : CoreSel := .stage
  promise : Word := 0
  started : Bool := false
  unit : Nat := 0
  within : Nat := 0
  done : Nat := 0
  poi : Bool := false
  taint : Bool := false
  room : Bool := false
  tail : Nat := 0
  status : Word := 0
  order : Nat := 0
  deriving DecidableEq, Repr, Inhabited

/-- The copy engine: its entries, the completion word it holds because a queue is full (the core, whether it goes to q1, the word), and
the order of issue (09 R222, R225, R227). -/
structure CopyEngine where
  entries : Vector CopyEntry 8 := Vector.replicate 8 {}
  hold : Option (CoreSel × Bool × Word) := none
  nextOrder : Nat := 0
  deriving DecidableEq, Repr, Inhabited

/-- A translation (05 R117): the context, the first offset (the virtual page number times the page size), log2 of the page size, the
module with its frame or the engine with its window, the permissions. `bad` marks an entry of the context's tables that reads poisoned
(05 R126). -/
structure Page where
  ctx : Nat := 0
  base : Nat
  log : Nat
  net : Bool
  target : Nat
  frame : Nat := 0
  r : Bool
  w : Bool
  bad : Bool := false
  deriving DecidableEq, Repr, Inhabited

/-- An entry of the placement table (01 R27, 07 R164). -/
structure Placed where
  hnd : W32
  x : Nat
  y : Nat
  deriving DecidableEq, Repr, Inhabited

/-- An entry of the lease store (08 R197): the home, the sector, its copy and poison, whether a recall has arrived. -/
structure Lease where
  x : Nat
  y : Nat
  sector : Nat
  bytes : List Byte
  bad : Bool
  recalled : Bool := false
  deriving DecidableEq, Repr, Inhabited

/-- An entry of the home's lease directory (08 R197, R198). -/
structure LeaseDir where
  sector : Nat
  x : Nat
  y : Nat
  recalled : Bool := false
  deriving DecidableEq, Repr, Inhabited

/-- An entry of the contention predictor (08 R196). -/
structure Predict where
  sector : Nat
  last : W32
  count : BitVec 2
  deriving DecidableEq, Repr, Inhabited

/-- A sequence window (07 R178): its stream, by the source's handle, core and VC, and its team's tag, since the copies of a paired team
have the same handles (14 R354); the partition whose quota it counts against; E, the held early packets and the cached results of
atomics. -/
structure SeqWindow where
  hnd : W32
  core : CoreSel
  vc : Fin 8
  tag : Nat := 0
  part : Nat := 0
  e : BitVec 16 := 0
  held : List Packet := []
  cache : List (BitVec 16 × Body) := []
  deriving DecidableEq, Repr, Inhabited

/-- A collective slot of a tile (09 R238, R240). -/
structure CollSlot where
  gen : BitVec 5 := 0
  used : Bool := false
  busy : Bool := false
  core : CoreSel := .stage
  deriving DecidableEq, Repr, Inhabited

/-- A tile without its cores (01 R12, R13); `heldWrites` are the VC1 packets that wait at the slice port, with whether the predictor has
been updated for them or a returned lease has been taken from them (05 R137, 08 R196, R198), `portWait` the messages that wait (04 R104); `heldExt` are the scale and group entries held with ring slots (11 R279), `collDone` the
completions of collectives that wait for room in a completion queue (07 R162); `engine` the edge network engine assigned at launch (09 R234); `opened` are the modules, and from 64 on the engines, to which its
cores have opened a stream since team start (18 R413). -/
structure Tile where
  id : TileId := .grid 0 0
  owned : Bool := false
  hnd : W32 := 0
  ctx : Nat := 0
  part : Nat := 0
  ttag : Nat := 0
  rank : Nat := 0
  modes : Modes := {}
  engine : Nat := 0
  placement : List Placed := []
  plCache : List Nat := []
  swapping : Bool := false
  slice : Memory := []
  poison : List Nat := []
  flips : List (Nat × Nat) := []
  errSeen : Nat := 0
  errTimes : List Nat := []
  badCount : Nat := 0
  badSeen : Nat := 0
  scrubPos : BitVec 16 := 0
  cki : Word := 0
  heldExt : List (Nat × Nat) := []
  rings : Vector RingState 8 := Vector.replicate 8 {}
  phasers : Vector Phaser 8 := Vector.replicate 8 {}
  copy : CopyEngine := {}
  tlb : List Page := []
  ckCache : List Nat := []
  leases : List Lease := []
  leaseDir : List LeaseDir := []
  predictor : List Predict := []
  windows : List SeqWindow := []
  heldWrites : List (Packet × Bool) := []
  portWait : List Packet := []
  mqn : BitVec 16 := 0
  coll : Vector CollSlot 4 := Vector.replicate 4 {}
  collDone : List (CoreSel × Word) := []
  keeps : List (Nat × Nat) := []
  flex : Option (Nat × Nat) := none
  arrivals : Nat := 0
  charged : Vector Nat 3 := Vector.replicate 3 0
  refills : Nat := 0
  dups : BitVec 16 := 0
  opened : List Nat := []
  discarded : Nat := 0
  errCount : Nat := 0
  deriving DecidableEq, Repr, Inhabited

/-- A tile with both its cores. -/
structure FullTile where
  tile : Tile := {}
  stage : Core := {}
  comp : Core := {}
  deriving DecidableEq, Repr, Inhabited

/-! ### Regions, contexts, partitions, teams -/

/-- The states of a region regulator (16 R394). -/
inductive RegState where
  | off | ramp | on | trip | cool | restart | fenced
  deriving DecidableEq, Repr, Inhabited

/-- An error report (16 R406): kind, handle, site word, generation, CYC, the partition that has the handle (64 for none), counter,
header words. -/
structure ErrRecord where
  kind : Nat
  hnd : W32
  site : Word
  gen : BitVec 16
  cyc : Word
  part : Nat
  count : Nat
  h0 : Word
  h1 : Word
  deriving DecidableEq, Repr, Inhabited

/-- A record of the activation trace (15 R389). -/
structure TraceRecord where
  hnd : W32
  site : Word
  cyc : Word
  w3 : Word
  part : Nat
  deriving DecidableEq, Repr, Inhabited

/-- A launch in a queue (01 R29, 16 R398). -/
structure Queued where
  id : Nat
  reqid : BitVec 64
  part : Nat
  pkt : LaunchPacket
  deriving DecidableEq, Repr, Inhabited

/-- A region (01 R7, R16): its clock, regulator, meter, logs, launch queues, phaser engine (08 R202), firewall count, the defects that
the mapping of its columns skips (07 R171, R188), and the sites marked dead that it does not skip (07 R183). -/
structure Region where
  cyc : Word := 0
  clk : Nat := 1
  gated : Bool := false
  stepAsked : Option Bool := none
  stretch : Nat := 0
  reg : RegState := .off
  tries : Nat := 0
  queue : List Queued := []
  errLog : List ErrRecord := []
  trace : List TraceRecord := []
  traced : Nat := 0
  meter : List (Nat × Nat × Nat × Nat) := []
  draw : Nat := 0
  energyRest : Nat := 0
  eng : Tab Phaser := []
  rejects : Nat := 0
  defects : List (Nat × Nat) := []
  lost : List (Nat × Nat) := []
  lastRefill : Word := 0
  deriving DecidableEq, Repr, Inhabited

/-- A collective group of a context (09 R239): its number, own rank, members' launch identifiers and peers, and the team that made it. -/
structure Group where
  num : Nat := 0
  own : Nat
  members : List (Nat × Nat)
  agreed : Bool := false
  team : Nat := 0
  deriving DecidableEq, Repr, Inhabited

/-- The shadow pages of a copy of a paired team (14 R354): their first offset and log2 of their size, their bytes, their poisoned
sectors. -/
structure Shadow where
  pages : List (Nat × Nat) := []
  mem : Memory := []
  bad : List Nat := []
  deriving DecidableEq, Repr, Inhabited

/-- A context (`killing`: its kill is in progress, 15 R368; `bitmapBad`: the sectors of the revocation bitmap, of 256 slots each, that read poisoned, 05 R126) (01 R26, 05 R117, R127-R133, 15 R360-R382, 16 R399). -/
structure Ctx where
  exist : Bool := false
  part : Nat := 0
  modes : Modes := {}
  quota : Vector Nat 3 := Vector.replicate 3 0
  level : Vector Nat 3 := Vector.replicate 3 0
  charged : Vector Nat 3 := Vector.replicate 3 0
  tvec : Word := 0
  reserve : Nat := 0
  pages : List Page := []
  edge : Memory := []
  edgePoison : List Nat := []
  net : Memory := []
  netPoison : List Nat := []
  shadows : Tab Shadow := []
  revoked : List Nat := []
  bitmapBad : List Nat := []
  heapFree : List (Nat × Nat) := []
  allocs : List (Nat × Nat × Nat) := []
  nextSlot : Nat := 1
  groups : List Group := []
  ctl : Tab Byte := []
  dock : Word := 0
  ctlb : Word := 0
  spillQuota : Nat := 0
  fslots : Tab Memory := []
  killReport : List Word := []
  releasing : List (BitVec 64 × Nat × Bool) := []
  dockSize : Nat := 0
  storageOps : Nat := 0
  counters : List Word := []
  killing : Bool := false
  deriving DecidableEq, Repr, Inhabited

/-- A frame that goes to the host: the header words 0 to 5, the associated data of its tag, and the payload; the bytes of an RDMA read
have no header (16 R396). -/
structure RpcFrame where
  words : List Word
  payload : List Byte
  deriving DecidableEq, Repr, Inhabited

/-- A partition (08 R219, 15 R358, 16 R397-R401); it has the 16 namespaces of 09 R234, which no rule configures: log entry 98 (DESIGN CHOICE). -/
structure Part where
  quarters : List Nat := []
  quotas : Tab Nat := []
  windows : List (Nat × Nat × Nat) := []
  net : Memory := []
  netPoison : List Nat := []
  peers : Nat := 0
  namespaces : Nat := 16
  cache : List (BitVec 64 × RpcFrame) := []
  finals : List (Nat × Nat) := []
  dropped : Nat := 0
  deriving DecidableEq, Repr, Inhabited

/-- Where a team stands (01 R31, R32, 15 R376). -/
inductive TeamPhase where
  | resident | docked | stopping | swappingOut | ended
  deriving DecidableEq, Repr, Inhabited

/-- A team; `rep` is the kill report that its launch completes with, none while no kill stops it (15 R368); `partners` are the origins of the partner quads of its quads, row by row (14 R350) (01 R10, R26-R34, 07 R184, 14 R354, 15 R376, R378). -/
structure Team where
  ctx : Nat := 0
  tag : Nat := 0
  launch : Nat := 0
  reqid : BitVec 64 := 0
  prio : Nat := 0
  w : Nat := 0
  h : Nat := 0
  origin : Nat × Nat := (0, 0)
  handles : List W32 := []
  phase : TeamPhase := .docked
  why : Nat := 0
  endt : Bool := false
  yield : Bool := false
  started : Bool := false
  acks : List (Nat × Nat × CoreSel) := []
  dockTiles : List FullTile := []
  spill : List Packet := []
  discarded : Nat := 0
  copies : List (Nat × List Word) := []
  copy : Nat := 0
  readyOrder : Nat := 0
  partners : List (Nat × Nat) := []
  image : Option ModuleImage := none
  quay : Nat := 0
  rep : List Word := []
  deriving DecidableEq, Repr, Inhabited

/-- A storage command in an engine (09 R234-R237): its tile, core and tag, its context, team and launch, the engine, the key (KLEN bytes),
namespace, options, the value that a KVSET sends under the partition's storage key and whether it was poisoned, its buffer and the greatest number of keys;
the shadow pages that it writes, in a paired context, and whether they were discarded with their copy (14 R354). -/
structure KvOp where
  hnd : W32
  core : CoreSel
  tag : BitVec 16
  ctx : Nat
  ttag : Nat := 0
  launch : Nat := 0
  engine : Nat := 0
  key : List Byte := []
  nsi : Nat := 0
  opts : Nat := 0
  sent : List Byte := []
  poi : Bool := false
  op : Nat
  base : Nat
  len : Nat
  maxKeys : Nat
  sh : Option Nat := none
  void : Bool := false
  deriving DecidableEq, Repr, Inhabited

/-- A collective operation in an engine slot (09 R238-R244): slot n of engine e is 1024 * e + n. `kind` 0 RED, 1 BCST, 2 AGTH; `bitmap`
holds the members that have contributed to each block, `data` their bytes by 64 * block + member, `pushed` the blocks that gateway `pushedTo` has, `known` the other members whose parameters
have come. -/
structure CollOp where
  slot : Nat
  hnd : W32
  ttag : Nat := 0
  launch : Nat := 0
  core : CoreSel
  tslot : Nat
  gen : BitVec 5
  ctx : Nat
  part : Nat
  kind : Nat
  group : Nat
  srcBase : Nat
  srcLen : Nat
  dstBase : Nat
  dstLen : Nat
  report : Nat
  n : Nat
  blklog : Nat
  type : Nat
  root : Nat
  timeout : Nat
  m : Nat
  own : Nat
  bitmap : Tab (List Nat) := []
  data : Tab (List PByte) := []
  pushed : List Nat := []
  pushedTo : Nat := 0
  known : List Nat := []
  poi : Bool := false
  missing : List Nat := []
  written : List Nat := []
  deriving DecidableEq, Repr, Inhabited

/-- An episode of a barrier of a team (08 R216): scope, set, instance, episode and the cores that have arrived. -/
structure Episode where
  ctx : Nat
  ttag : Nat
  scope : Scope
  set : PhaserSet
  inst : Nat
  ep : BitVec 16
  arrived : List (Nat × Nat × CoreSel) := []
  done : Bool := false
  deriving DecidableEq, Repr, Inhabited

/-- A journal of a quay (16 R403): the records not yet returned, their number, the chain value, the GAP totals and the last signed
checkpoint. -/
structure Journal where
  count : Nat := 0
  records : List (List Byte) := []
  chain : List Byte := []
  gap : Bool := false
  gapTotals : Nat × Nat × Nat := (0, 0, 0)
  signed : List Byte := []
  deriving DecidableEq, Repr, Inhabited

/-- A retirement under way (07 R182, R183): the region, column and physical row of the site, whether the column has a spare, the exception
entries to write, and the step: 0 the cores stop or the team is swapped out, 1 the hawser is asserted, 2 the mapping is rewritten, 3 the
hawser is released and the sources send again; the cores that stopped for it. -/
structure Retiring where
  region : Nat
  col : Nat
  prow : Nat
  spare : Bool
  writes : List RouterWrite := []
  step : Fin 4 := 0
  cores : List (TileId × CoreSel) := []
  deriving DecidableEq, Repr, Inhabited

/-- A STOP whose answer waits until the stop is complete (16 R398): of a context, or of a launch of it. -/
structure HeldStop where
  ctx : Nat
  launch : Option Nat := none
  part : Nat
  adm : Bool
  reqid : BitVec 64
  deriving DecidableEq, Repr, Inhabited

/-- An answer that a quay has given to a request on VC0 of a core of a tile, until it has arrived (07 R180). -/
structure Answer where
  hnd : W32
  tag : Nat
  core : CoreSel
  req : Nat
  words : List Word
  deriving DecidableEq, Repr, Inhabited

/-- A move of the environment or of an agent that the model does not schedule itself: an event, and the core it happens at. -/
structure Move where
  place : Option (TileId × CoreSel)
  ev : Instr
  deriving DecidableEq, Repr, Inhabited

/-- The machine. `core` is the core in focus, number `sel` of `tile`; `peer` is the tile's other core; `tiles` holds the other tiles
that differ from a tile that was never used; `installing` the
exception entries of a detour that are still to reach their routers (07 R176), `now` counts the rounds of the machine, `retireNext` the sites whose retirement waits for the one under way; `booting` the facts of a boot
in progress (16 R404); `nonces` the last counter accepted of each sender, `frames` the frames that the device has sent (16 R396, R397). -/
structure State where
  sel : CoreSel := .stage
  core : Core := {}
  peer : Core := {}
  tile : Tile := {}
  tiles : List FullTile := []
  regions : Tab Region := []
  ctxs : Tab Ctx := []
  parts : Tab Part := []
  teams : List Team := []
  net : List Packet := []
  modWins : Tab (List SeqWindow) := []
  engWins : Tab (List SeqWindow) := []
  modDups : Tab Nat := []
  modDrops : Tab Nat := []
  barriers : List Episode := []
  storage : List KvOp := []
  collOps : List CollOp := []
  lateIdx : List (Nat × Nat × Nat) := []
  gateNext : Tab Nat := []
  routeGen : BitVec 16 := 0
  installing : List RouterWrite := []
  hawser : Bool := false
  retiring : Option Retiring := none
  retireNext : List (Nat × Nat × Nat) := []
  credits : List (Spot × Fin 8) := []
  linkFail : List Link := []
  crcErrs : List (Link × Nat) := []
  replays : List (Link × Nat) := []
  deadRouters : List (Nat × Nat) := []
  exceptions : Tab (Vector (BitVec 64) 16) := []
  withdrawn : List Nat := []
  withdrawnTiles : List (Nat × Nat) := []
  answers : List Answer := []
  replace : Bool := false
  failedParts : List (Bool × Nat) := []
  power : Nat := 0
  booted : Bool := false
  booting : Option BootFacts := none
  degraded : Bool := false
  hostDetour : Bool := false
  hostSigning : Bool := false
  throttle : Bool := false
  nextLaunch : Nat := 1
  stops : List HeldStop := []
  nonces : Tab Nat := []
  frames : Nat := 0
  responses : List RpcFrame := []
  completions : List (List Word × Nat × List Word) := []
  journals : Tab Journal := []
  agenda : List Move := []
  turn : Bool := false
  now : Nat := 0
  fresh : Nat := 0
  deriving DecidableEq, Repr, Inhabited

/-- What an instruction or a step answers. -/
abbrev Out := Host.Outcome State Fault Refusal

/-- The machine after reset: the values the spec states, and those that log entries 1, 2, 3 and 4 name. -/
def State.reset : State := {}

end Sys2Proof.Machine
end

