-- ==== Sys2Proof/Machine/Hash.lean ====
section
/-! DEFINITION. SHA-256 (16_platform R403 names it and does not describe it: FIPS 180-4, log entry 70). -/

namespace Sys2Proof.Machine

/-- The round constants. -/
def shaK : List W32 :=
  [0x428A2F98, 0x71374491, 0xB5C0FBCF, 0xE9B5DBA5, 0x3956C25B, 0x59F111F1, 0x923F82A4, 0xAB1C5ED5] ++
  [0xD807AA98, 0x12835B01, 0x243185BE, 0x550C7DC3, 0x72BE5D74, 0x80DEB1FE, 0x9BDC06A7, 0xC19BF174] ++
  [0xE49B69C1, 0xEFBE4786, 0x0FC19DC6, 0x240CA1CC, 0x2DE92C6F, 0x4A7484AA, 0x5CB0A9DC, 0x76F988DA] ++
  [0x983E5152, 0xA831C66D, 0xB00327C8, 0xBF597FC7, 0xC6E00BF3, 0xD5A79147, 0x06CA6351, 0x14292967] ++
  [0x27B70A85, 0x2E1B2138, 0x4D2C6DFC, 0x53380D13, 0x650A7354, 0x766A0ABB, 0x81C2C92E, 0x92722C85] ++
  [0xA2BFE8A1, 0xA81A664B, 0xC24B8B70, 0xC76C51A3, 0xD192E819, 0xD6990624, 0xF40E3585, 0x106AA070] ++
  [0x19A4C116, 0x1E376C08, 0x2748774C, 0x34B0BCB5, 0x391C0CB3, 0x4ED8AA4A, 0x5B9CCA4F, 0x682E6FF3] ++
  [0x748F82EE, 0x78A5636F, 0x84C87814, 0x8CC70208, 0x90BEFFFA, 0xA4506CEB, 0xBEF9A3F7, 0xC67178F2]

/-- The initial hash value. -/
def shaStart : List W32 := [0x6A09E667, 0xBB67AE85, 0x3C6EF372, 0xA54FF53A, 0x510E527F, 0x9B05688C, 0x1F83D9AB, 0x5BE0CD19]

/-- Four bytes, the first the most significant. -/
def beWord (b0 b1 b2 b3 : Byte) : W32 := b0 ++ b1 ++ b2 ++ b3

/-- Bytes as words, and the words of the message in blocks of 16. -/
def beWords : List Byte → List W32
  | b0 :: b1 :: b2 :: b3 :: bs => beWord b0 b1 b2 b3 :: beWords bs
  | _ => []

/-- The four bytes of a word, the most significant first. -/
def beBytes (w : W32) : List Byte := [w.extractLsb' 24 8, w.extractLsb' 16 8, w.extractLsb' 8 8, w.extractLsb' 0 8]

/-- The eight bytes of a length in bits. -/
def beLength (n : Nat) : List Byte := beBytes (BitVec.ofNat 32 (n / 2 ^ 32)) ++ beBytes (BitVec.ofNat 32 n)

/-- The message with its padding: a one bit, zeros, and the length in bits. -/
def shaPad (bs : List Byte) : List Byte :=
  bs ++ [0x80] ++ List.replicate ((119 - bs.length % 64) % 64) 0 ++ beLength (8 * bs.length)

/-- The message schedule, newest word first: n more words after the 16 of the block. -/
def shaSchedule : Nat → List W32 → List W32
  | 0, w => w
  | n + 1, w =>
    let at' (k : Nat) : W32 := (w[k]?).getD 0
    let x := at' 14
    let y := at' 1
    let s0 := (x.rotateRight 7) ^^^ (x.rotateRight 18) ^^^ (x >>> 3)
    let s1 := (y.rotateRight 17) ^^^ (y.rotateRight 19) ^^^ (y >>> 10)
    shaSchedule n ((at' 15 + s0 + at' 6 + s1) :: w)

/-- The rounds of one block over the working variables a to h. -/
def shaRounds : List (W32 × W32) → List W32 → List W32
  | (k, w) :: r, [a, b, c, d, e, f, g, h] =>
    let s1 := (e.rotateRight 6) ^^^ (e.rotateRight 11) ^^^ (e.rotateRight 25)
    let t1 := h + s1 + ((e &&& f) ^^^ (~~~e &&& g)) + k + w
    let s0 := (a.rotateRight 2) ^^^ (a.rotateRight 13) ^^^ (a.rotateRight 22)
    let t2 := s0 + ((a &&& b) ^^^ (a &&& c) ^^^ (b &&& c))
    shaRounds r [t1 + t2, a, b, c, d + t1, e, f, g]
  | _, v => v

/-- One block. -/
def shaBlock (h : List W32) (block : List W32) : List W32 :=
  List.zipWith (· + ·) h (shaRounds (shaK.zip (shaSchedule 48 block.reverse).reverse) h)

/-- The blocks of a message, one after the other. -/
def shaBlocks : Nat → List W32 → List W32 → List W32
  | 0, h, _ => h
  | n + 1, h, ws => shaBlocks n (shaBlock h (ws.take 16)) (ws.drop 16)

/-- SHA-256 of bytes. Log entry 70 (PRESUMED). -/
def sha256 (bs : List Byte) : List Byte :=
  let ws := beWords (shaPad bs)
  ((shaBlocks (ws.length / 16) shaStart ws).map beBytes).flatten

end Sys2Proof.Machine
end

