-- ==== Sys2Proof/Machine/Ops.lean ====
section
/-! DEFINITION. The named operations over memory, registers, rings, the replay queue and the tables of the module, and the taking of
an exception (02_words R52-R62, 05_memory R114-R126, 15_system R362-R374). -/

namespace Sys2Proof.Machine

/-! ### Tables and vectors -/

def Tab.find {α : Type} : Tab α → Nat → Option α
  | [], _ => none
  | (k, v) :: t, n => if n == k then some v else Tab.find t n

def Tab.get {α : Type} (t : Tab α) (d : α) (n : Nat) : α := (t.find n).getD d

def Tab.put {α : Type} : Tab α → Nat → α → Tab α
  | [], n, v => [(n, v)]
  | (k, w) :: t, n, v => if n == k then (k, v) :: t else (k, w) :: Tab.put t n v

/-- Replaces element i. -/
def vput {α : Type} {n : Nat} (v : Vector α n) (i : Fin n) (x : α) : Vector α n := v.set i.val x i.isLt

/-- 0 to n - 1. -/
def upto : Nat → List Nat
  | 0 => []
  | n + 1 => upto n ++ [n]

/-! ### Memory -/

/-- The byte at an address; an address not listed reads 0 (log entry 2). -/
def Memory.read : Memory → Nat → Byte
  | [], _ => 0
  | (b, v) :: m, a => if a == b then v else if a < b then 0 else Memory.read m a

/-- Writes one byte, keeping the canonical form. -/
def Memory.write : Memory → Nat → Byte → Memory
  | [], a, v => if v == 0 then [] else [(a, v)]
  | (b, w) :: m, a, v =>
    if a < b then (if v == 0 then (b, w) :: m else (a, v) :: (b, w) :: m)
    else if a == b then (if v == 0 then m else (a, v) :: m)
    else (b, w) :: Memory.write m a v

/-- Writes the bytes that are given, from address a on. -/
def Memory.writeMany (m : Memory) (a : Nat) : List (Option Byte) → Memory
  | [] => m
  | none :: bs => Memory.writeMany m (a + 1) bs
  | some v :: bs => Memory.writeMany (m.write a v) (a + 1) bs

def Memory.readMany (m : Memory) (a : Nat) : Nat → List Byte
  | 0 => []
  | n + 1 => m.read a :: Memory.readMany m (a + 1) n

/-- Little-endian value of bytes (00 R3). -/
def leNat : List Byte → Nat
  | [] => 0
  | b :: bs => b.toNat + 256 * leNat bs

/-- The n little-endian bytes of a value. -/
def leBytes : Nat → Nat → List Byte
  | 0, _ => []
  | n + 1, v => BitVec.ofNat 8 v :: leBytes n (v / 256)

def Memory.readWord (m : Memory) (a : Nat) : Word := BitVec.ofNat 64 (leNat (m.readMany a 8))
def Memory.writeWord (m : Memory) (a : Nat) (w : Word) : Memory := m.writeMany a ((leBytes 8 w.toNat).map some)

/-- The sectors that n bytes at o touch (R114). -/
def sectors (o n : Nat) : List Nat := if n == 0 then [] else (upto ((o + n - 1) / 32 + 1 - o / 32)).map (· + o / 32)

def addTo (l : List Nat) (x : Nat) : List Nat := if l.contains x then l else l ++ [x]
def dropFrom (l : List Nat) (x : Nat) : List Nat := l.filter (· != x)

/-- The poison bit that a sector has after a write of bytes at o (R126): clear where the write covers the sector and no byte of it
comes from a poisoned half, set where one does, as before otherwise. -/
def sectorPoison (bad : List Nat) (o : Nat) (bs : List (Option PByte)) (sec : Nat) : List Nat :=
  let mine := (upto 32).filterMap fun j => let a := sec * 32 + j; if o ≤ a then (bs[a - o]?).join else none
  if mine.any (·.2) then addTo bad sec else if mine.length == 32 then dropFrom bad sec else bad

/-- The sectors' poison bits after a write (R126). -/
def poisonAfter (bad : List Nat) (o : Nat) (bs : List (Option PByte)) : List Nat :=
  (sectors o bs.length).foldl (fun b sec => sectorPoison b o bs sec) bad

def plain (bs : List Byte) : List (Option PByte) := bs.map fun b => some (b, false)

/-! ### CKI (14 R339) -/

def satInc (w : Word) (lo : Nat) : Word :=
  if w.extractLsb' lo 16 == 0xFFFF then w else w + BitVec.shiftLeft 1 lo

def ckiSet (w : Word) (bit : Nat) : Word := w ||| BitVec.shiftLeft 1 bit

def Tile.poi (t : Tile) : Tile := { t with cki := satInc (ckiSet t.cki 0) 16 }
def Tile.shd (t : Tile) : Tile := { t with cki := satInc (ckiSet t.cki 1) 32 }
def Tile.countShd (t : Tile) : Tile := { t with cki := satInc t.cki 32 }
def Tile.cor (t : Tile) : Tile := { t with cki := satInc (ckiSet t.cki 2) 48, errCount := t.errCount + 1 }
def Tile.drp (t : Tile) : Tile := { t with cki := ckiSet t.cki 3, discarded := t.discarded + 1 }

/-! ### The slice, with its check bits (R125) -/

def flipBit (b : Byte) (i : Nat) : Byte := b ^^^ BitVec.shiftLeft 1 i

/-- Puts flipped data bits of a word into the stored bytes; check bits have no data. -/
def applyFlips (m : Memory) (w : Nat) : List Nat → Memory
  | [] => m
  | b :: bs =>
    let m := if b < 64 then m.write (8 * w + b / 8) (flipBit (m.read (8 * w + b / 8)) (b % 8)) else m
    applyFlips m w bs

/-- A read of word w (R125): one flip is corrected and counted, two poison the sector, three or more have one of the outcomes the
code leaves open. -/
def Tile.readWordEcc (t : Tile) (fresh w : Nat) : Tile :=
  let fs := (t.flips.filter (·.1 == w)).map (·.2)
  let rest := t.flips.filter (·.1 != w)
  match fs with
  | [] => t
  | [_] => { t with flips := rest }.cor
  | [_, _] => { t with flips := rest, poison := addTo t.poison (w / 4), badCount := t.badCount + 1 }
  | fs =>
    match Config.manyFlips fresh with
    | 0 => { t with flips := rest, poison := addTo t.poison (w / 4), badCount := t.badCount + 1 }
    | 1 => { t with flips := rest, slice := applyFlips t.slice w ((Config.wrongBit fresh).val :: fs) }.cor
    | _ => { t with flips := rest, slice := applyFlips t.slice w fs }

def wordsTouched (o n : Nat) : List Nat := if n == 0 then [] else (upto ((o + n - 1) / 8 + 1 - o / 8)).map (· + o / 8)

/-- The reads of the words that n bytes at o touch. -/
def Tile.ecc (t : Tile) (fresh o n : Nat) : Tile :=
  if t.flips.isEmpty then t else (wordsTouched o n).foldl (fun t w => t.readWordEcc fresh w) t

/-- The bytes at o with their sectors' poison. -/
def Tile.bytes (t : Tile) (o n : Nat) : List PByte :=
  (upto n).map fun j => (t.slice.read (o + j), t.poison.contains ((o + j) / 32))

/-- Writes bytes at o: data, poison, and the check bits: a word written whole is not read (R125, R126). -/
def Tile.store (t : Tile) (fresh o : Nat) (bs : List (Option PByte)) : Tile :=
  let whole (w : Nat) : Bool := decide (o ≤ 8 * w) && (upto 8).all fun j => ((bs[8 * w + j - o]?).join).isSome
  let touched (w : Nat) : Bool := (upto 8).any fun j => decide (o ≤ 8 * w + j) && ((bs[8 * w + j - o]?).join).isSome
  let t :=
    if t.flips.isEmpty then t
    else (wordsTouched o bs.length).foldl (fun t w =>
      if whole w then { t with flips := t.flips.filter (·.1 != w) }
      else if touched w then t.readWordEcc fresh w else t) t
  { t with
    slice := t.slice.writeMany o (bs.map fun b => b.map (·.1))
    poison := poisonAfter t.poison o bs }

/-! ### Scalars (02 R52, R56) -/

/-- Scalar r: s0 and a dead register read 0. -/
def Core.S (c : Core) (r : SReg) : Word := if r == 0 then 0 else if c.live.getLsbD r.val then c.regs[r] else 0

/-- Writes scalar r, reviving it; a write to s0 is discarded. -/
def Core.setS (c : Core) (r : SReg) (v : Word) : Core :=
  if r == 0 then c else { c with regs := vput c.regs r v, live := c.live ||| BitVec.shiftLeft 1 r.val }

/-- Kills the scalars whose bits are set (R57); bit 0 is ignored. -/
def Core.kill (c : Core) (mask : BitVec 16) : Core := { c with live := c.live &&& ~~~(mask &&& 0xFFFE) }

/-- Every register of R56 dead (R23, R100). -/
def Core.killAll (c : Core) : Core := { c with live := 0, rf := {} }

def State.S (s : State) (r : SReg) : Word := s.core.S r
def State.setS (s : State) (r : SReg) (v : Word) : State := { s with core := s.core.setS r v }

/-- The odd register of a pair. -/
def pairOf (r : SReg) : SReg := r + 1

/-! ### The replay queue (15 R369, 02 R83) -/

/-- What a long operation writes at its retirement: scalars, tile registers by number, the latch or operand rows by code. -/
structure Dst where
  s : List SReg := []
  t : List Nat := []
  o : List Nat := []
  deriving DecidableEq, Repr, Inhabited

def tileNo (code : Nat) (bank : Bool) : Nat := if bank then code + 8 else code

/-- Row (base + i) of a row code: the tile register and the row in it (R96). -/
def rowPlace (code base i : Nat) (bank : Bool) : Nat × Nat := (tileNo code bank + (base + i) / 16, (base + i) % 16)

/-- The registers that a row code names over the iterations of a repeat. -/
def rowDstOf (d : RCode) (base : Fin 16) (bank : Bool) (n : Nat) : Dst :=
  if d.val < 8 then { t := (upto ((base.val + (n - 1)) / 16 + 1)).map (· + tileNo d.val bank) }
  else if d.val ≤ 12 then { o := [d.val] } else {}

/-- The destinations of the long operations. -/
def dstOf (i : Instr) (n : Nat) : Dst :=
  match i with
  | .div d _ _ | .rem d _ _ | .divu d _ _ | .remu d _ _ | .divw d _ _ | .remw d _ _ | .divuw d _ _ | .remuw d _ _ => { s := [d] }
  | .ldw d _ _ _ | .ldd d _ _ _ => { s := [d] }
  | .ldx _ d _ _ _ | .ldxs _ d _ _ _ | .cld _ d _ _ _ => { s := [d] }
  | .ldr d _ _ p _ | .lds d _ _ p _ => rowDstOf d p.base p.bank n
  | .ldt t _ _ _ => { t := [t.val] }
  | .rtak (some t) _ _ _ => { t := [t.val] }
  | .amoaAdd d _ _ _ _ | .amoaAnd d _ _ _ _ | .amoaOr d _ _ _ _ | .amoaXor d _ _ _ _ | .amobMin d _ _ _ _ | .amobMax d _ _ _ _
  | .amobMinu d _ _ _ _ | .amobMaxu d _ _ _ _ | .amobSwap d _ _ _ _ => { s := [d] }
  | .casW d _ _ _ | .casD d _ _ _ => { s := [d] }
  | .chkv d _ | .cfix d _ | .csrd d _ _ => { s := [d] }
  | .macrdF32 t _ => { t := [t.val] }
  | .macrdBf16 t _ _ => { t := [t.val] }
  | .macrdT8 t _ _ c => { s := [c], t := [t.val] }
  | .kcolMean t _ | .kcolVar t _ | .kcolSdev t _ => { t := [t.val] }
  | .kcolDraw t _ _ _ b _ => { t := [tileNo t.val b] }
  | .phnew d _ | .phreg d _ _ | .phqry d _ | .phwait d _ _ | .phaw d _ _ => { s := [d] }
  | .bar d _ _ | .barw d _ _ => { s := [d] }
  | .plq d _ => { s := [d] }
  | .alloc d _ _ => { s := [d, pairOf d] }
  | .qsvcPing | .qsvcMap | .qsvcUnmap | .qsvcGroup | .qsvcYield | .qsvcReport | .qsvcDebug | .qsvcUnknown => { s := [1, 2] }
  | _ => {}

def Entry.dst (e : Entry) : Dst := match e.op with | some i => dstOf i e.count.toNat | none => {}

/-- The entries of the current level that hold issue (R415: a frozen entry of a lower level makes no claim). -/
def Core.claims (c : Core) : List Entry := c.rq.toList.filter fun e => e.v && e.lvl == c.tr.level

/-- Whether an entry is that of the REP bundle at the pc, which goes on issuing its iterations (04 R97). -/
def Core.own (c : Core) (e : Entry) : Bool := e.issuing && e.bofs == c.pc.truncate 19

/-- The entries for whose results a bundle waits: those that hold issue, without the bundle's own. -/
def Core.pending (c : Core) : List Entry := c.claims.filter fun e => !c.own e

/-- Whether scalar r has a write pending (R83). -/
def Core.busyS (c : Core) (r : SReg) : Bool := r != 0 && c.pending.any fun e => e.dst.s.contains r

/-- Whether tile register n has a write pending (R83, R296). -/
def Core.busyT (c : Core) (n : Nat) : Bool := c.pending.any fun e => e.dst.t.contains n

/-- Whether an operand row or the latch, by its code, has a write pending. -/
def Core.busyO (c : Core) (code : Nat) : Bool := c.pending.any fun e => e.dst.o.contains code

/-- Whether none of these scalars has a write pending. -/
def Core.ready (c : Core) (rs : List SReg) : Bool := rs.all fun r => !c.busyS r

/-- The first free entry. -/
def Core.freeEntry (c : Core) : Option (Fin 8) :=
  ([0, 1, 2, 3, 4, 5, 6, 7] : List (Fin 8)).find? fun i => !c.rq[i].v

def Core.setEntry (c : Core) (i : Fin 8) (e : Entry) : Core := { c with rq := vput c.rq i e }

/-- Frees an entry. -/
def Core.dropEntry (c : Core) (i : Fin 8) : Core := { c with rq := vput c.rq i {} }

/-- Whether an entry does not write its result when it is ready but holds it: its level was interrupted, a forwarded trap waits, or
the core is stopped (R370, R374, R376). -/
def Core.frozen (c : Core) (e : Entry) : Bool := decide (e.lvl.val < c.tr.level.val) || c.tr.fwd.isSome || c.stopped

/-! ### Focus -/

def State.curTile (s : State) : FullTile :=
  match s.sel with
  | .stage => { tile := s.tile, stage := s.core, comp := s.peer }
  | .comp => { tile := s.tile, stage := s.peer, comp := s.core }

def FullTile.core (t : FullTile) : CoreSel → Core
  | .stage => t.stage
  | .comp => t.comp

def FullTile.setCore (t : FullTile) (k : CoreSel) (c : Core) : FullTile :=
  match k with
  | .stage => { t with stage := c }
  | .comp => { t with comp := c }

def otherCore : CoreSel → CoreSel
  | .stage => .comp
  | .comp => .stage

/-- The tile id as the module holds it; a tile that was never used has nothing but its id. -/
def State.tileAt (s : State) (id : TileId) : FullTile :=
  if id == s.tile.id then s.curTile
  else (s.tiles.find? fun t => t.tile.id == id).getD { tile := { id := id } }

/-- Puts a core of the tile in focus. -/
def State.withFull (s : State) (t : FullTile) (k : CoreSel) : State :=
  { s with sel := k, core := t.core k, peer := t.core (otherCore k), tile := t.tile }

/-- Moves the focus to a core (log entry 3). -/
def State.focusOn (s : State) (id : TileId) (k : CoreSel) : State :=
  if id == s.tile.id then s.withFull s.curTile k
  else
    let t := s.tileAt id
    { s with tiles := s.curTile :: s.tiles.filter fun u => u.tile.id != id && u.tile.id != s.tile.id }.withFull t k

/-- Replaces a tile, in focus or not. -/
def State.putTile (s : State) (t : FullTile) : State :=
  if t.tile.id == s.tile.id then s.withFull t s.sel
  else if s.tiles.any fun u => u.tile.id == t.tile.id then
    { s with tiles := s.tiles.map fun u => if u.tile.id == t.tile.id then t else u }
  else { s with tiles := s.tiles ++ [t] }

/-- Every tile that differs from an unused one, the one in focus first. -/
def State.allTiles (s : State) : List FullTile := s.curTile :: s.tiles

/-- Applies f to a core and its tile, wherever they are. -/
def State.mapTiles (s : State) (p : Tile → Bool) (f : FullTile → FullTile) : State :=
  let cur := s.curTile
  let s := if p cur.tile then s.withFull (f cur) s.sel else s
  { s with tiles := s.tiles.map fun u => if p u.tile then f u else u }

def State.modTile (s : State) (f : Tile → Tile) : State := { s with tile := f s.tile }
def State.modCore (s : State) (f : Core → Core) : State := { s with core := f s.core }

/-! ### Regions, contexts, teams -/

/-- The region of logical coordinates (01 R9). -/
def regionOf (x y : Nat) : Nat := 8 * (y / 32) + x / 32

/-- Coordinates of the router that serves a tile: its own, or for a gateway tile its engine's attachment router (07 R168). -/
def engineRouter (n : Nat) : Nat × Nat :=
  let side := n / 4
  let p := if n % 4 < 2 then n % 4 + 1 else n % 4 + 3
  match side with
  | 0 => (32 * p + 8, 0)
  | 1 => (255, 32 * p + 8)
  | 2 => (32 * p + 8, 255)
  | _ => (0, 32 * p + 8)

def moduleRouter (n : Nat) : Nat × Nat :=
  let side := n / 16
  let p := n % 16 / 2
  let j := n % 2
  match side with
  | 0 => (32 * p + 16 * j, 0)
  | 1 => (255, 32 * p + 16 * j)
  | 2 => (32 * p + 16 * j, 255)
  | _ => (0, 32 * p + 16 * j)

def ualinkRouter (n : Nat) : Nat × Nat :=
  let side := n / 2
  let p := n % 2 + 3
  match side with
  | 0 => (32 * p + 8, 0)
  | 1 => (255, 32 * p + 8)
  | 2 => (32 * p + 8, 255)
  | _ => (0, 32 * p + 8)

/-- The attachment router of an endpoint (07 R168). -/
def routerOf : Endpoint → Nat × Nat
  | .tile x y => (x, y)
  | .quay r => (32 * (r % 8) + 16, 32 * (r / 8) + 15)
  | .module n => moduleRouter n
  | .engine n => engineRouter n
  | .ualink n => ualinkRouter n

def TileId.xy : TileId → Nat × Nat
  | .grid x y => (x, y)
  | .gateway n => engineRouter (n / 16)

def TileId.isGateway : TileId → Bool
  | .grid _ _ => false
  | .gateway _ => true

/-- The region a tile belongs to. -/
def TileId.region (t : TileId) : Nat := regionOf t.xy.1 t.xy.2

/-- The endpoint of a tile; a gateway tile's traffic is its engine's (07 R168). -/
def TileId.endpoint : TileId → Endpoint
  | .grid x y => .tile x y
  | .gateway n => .engine (n / 16)

def State.region (s : State) (n : Nat) : Region := Tab.get s.regions {} n
def State.putRegion (s : State) (n : Nat) (r : Region) : State := { s with regions := Tab.put s.regions n r }
def State.ctx (s : State) (n : Nat) : Ctx := Tab.get s.ctxs {} n
def State.putCtx (s : State) (n : Nat) (c : Ctx) : State := { s with ctxs := Tab.put s.ctxs n c }
def State.partOf (s : State) (n : Nat) : Part := Tab.get s.parts {} n
def State.putPart (s : State) (n : Nat) (p : Part) : State := { s with parts := Tab.put s.parts n p }
/-- The context that owns the tile in focus. -/
def State.myCtx (s : State) : Ctx := s.ctx s.tile.ctx
def State.modCtx (s : State) (f : Ctx → Ctx) : State := s.putCtx s.tile.ctx (f s.myCtx)
/-- The region of the tile in focus. -/
def State.myRegion (s : State) : Nat := s.tile.id.region
/-- CYC (02 R63): delivered edges of the clock of the tile's region. -/
def State.cyc (s : State) : Word := (s.region s.myRegion).cyc

def State.team? (s : State) (ctx tag : Nat) : Option Team := s.teams.find? fun t => t.ctx == ctx && t.tag == tag && t.phase != .ended
def State.putTeam (s : State) (t : Team) : State :=
  { s with teams := s.teams.map fun u => if u.ctx == t.ctx && u.tag == t.tag then t else u }

/-- The region of the quay that launched a team (15 R381). -/
def State.quayFor (s : State) (ctx tag : Nat) : Nat :=
  match s.teams.find? fun t => t.ctx == ctx && t.tag == tag with
  | some t => t.quay
  | none => 0

/-- The region of the quay that launched the first team of the context. -/
def State.quayOf (s : State) (ctx : Nat) : Nat :=
  match s.teams.find? fun t => t.ctx == ctx with
  | some t => t.quay
  | none => 0

/-- The level of a bucket falls, saturating at 0; a quota of 0 means no limit (15 R382). -/
def Ctx.charge (x : Ctx) (k : Fin 3) (n : Nat) : Ctx :=
  { x with
    charged := vput x.charged k (x.charged[k] + n)
    level := if x.quota[k] == 0 then x.level else vput x.level k (x.level[k] - n) }

/-- The meter of a region: energy, tile-cycles and edge bytes of each context (15 R360). -/
def meterAdd (k : Fin 3) (n : Nat) (m : Nat × Nat × Nat × Nat) : Nat × Nat × Nat × Nat :=
  match k with
  | 0 => (m.1, m.2.1, m.2.2.1 + n, m.2.2.2)
  | 1 => (m.1, m.2.1, m.2.2.1, m.2.2.2 + n)
  | _ => (m.1, m.2.1 + n, m.2.2.1, m.2.2.2)

def Region.note (r : Region) (ctx : Nat) (k : Fin 3) (n : Nat) : Region :=
  if r.meter.any (·.1 == ctx) then { r with meter := r.meter.map fun m => if m.1 == ctx then meterAdd k n m else m }
  else { r with meter := r.meter ++ [meterAdd k n (ctx, 0, 0, 0)] }

/-- The quay of region q charges a context: 0 tile-cycles, 1 edge bytes, 2 microjoules (15 R381). -/
def State.chargeCtx (s : State) (q ctx : Nat) (k : Fin 3) (n : Nat) : State :=
  (s.putCtx ctx ((s.ctx ctx).charge k n)).putRegion q ((s.region q).note ctx k n)

/-- What a tile has charged. -/
def Tile.addCharge (t : Tile) (k : Fin 3) (n : Nat) : Tile := { t with charged := vput t.charged k (t.charged[k] + n) }

/-- Charges the context of a tile, by its team's tag and its handle, for it. -/
def State.chargeTile (s : State) (ctx tag : Nat) (h : W32) (k : Fin 3) (n : Nat) : State :=
  (s.chargeCtx (s.quayFor ctx tag) ctx k n).mapTiles (fun t => t.owned && t.ctx == ctx && t.ttag == tag && t.hnd == h) fun u => { u with tile := u.tile.addCharge k n }

/-- Team size of the issuing core's team. -/
def State.teamSize (s : State) : Nat := s.tile.placement.length

/-- Privileged: a core of a gateway tile, or the context's SYS bit (15 R358). -/
def State.privileged (s : State) : Bool := s.tile.id.isGateway || s.tile.modes.sys

/-- Draws a free value. -/
def State.draw (s : State) (n : Nat := 1) : State := { s with fresh := s.fresh + n }

/-! ### Site words, error log, trace (07 R163, R174; 15 R389; 16 R406) -/

/-- The physical row of a logical row in a column of a region (01 R8, 07 R171). -/
def physRow (defects : List (Nat × Nat)) (col row : Nat) : Nat :=
  let good := ((upto 34).filter (· != 16)).filter fun p => !defects.contains (col, p)
  (good[row]?).getD 33

/-- The site word of a handle's coordinates (R163). -/
def State.siteWord (s : State) (x y : Nat) : Word :=
  let r := s.region (regionOf x y)
  BitVec.ofNat 64 (x / 32 + 8 * (y / 32) + 64 * (x % 32) + 2048 * physRow r.defects (x % 32) (y % 32) +
    2 ^ 32 * s.routeGen.toNat + 2 ^ 63)

def State.mySite (s : State) : Word := s.siteWord s.tile.id.xy.1 s.tile.id.xy.2

/-- The partition whose team has a handle; 64 for none. -/
def State.partOfHandle (s : State) (h : W32) : Nat :=
  match s.teams.find? fun t => t.handles.contains h with
  | some t => (s.ctx t.ctx).part
  | none => 64

/-- The resident tile with a handle in the partition of the tile in focus: of its own team, whose copies have the same handles (14 R354),
else of any. -/
def State.tileOf (s : State) (h : W32) : Option FullTile :=
  let is (t : FullTile) : Bool := t.tile.owned && t.tile.hnd == h && t.tile.part == s.tile.part
  match s.allTiles.find? fun t => is t && t.tile.ctx == s.tile.ctx && t.tile.ttag == s.tile.ttag with
  | some t => some t
  | none => s.allTiles.find? is

/-- The launch of a team of a context; 0 for none. -/
def State.launchOf (s : State) (ctx tag : Nat) : Nat :=
  match s.teams.find? fun t => t.ctx == ctx && t.tag == tag with
  | some t => t.launch
  | none => 0

/-- Appends an error report to a region's log of 4,096 records (16 R406). -/
def State.report (s : State) (reg kind : Nat) (hnd : W32) (site : Word) (count : Nat) (h0 h1 : Word) : State :=
  let r := s.region reg
  let e : ErrRecord := { kind := kind, hnd := hnd, site := site, gen := s.routeGen, cyc := r.cyc, part := s.partOfHandle hnd, count := count, h0 := h0, h1 := h1 }
  s.putRegion reg { r with errLog := if r.errLog.length < 4096 then r.errLog ++ [e] else r.errLog.drop 1 ++ [e] }

/-- A trace record of the core in focus: kind 0 start, 1 end, 2 trap (15 R389). -/
def State.traceRec (s : State) (kind : Nat) (cause : Nat) : State :=
  if s.core.sr.trctl.getLsbD 0 || s.tile.modes.tracing then
    let r := s.region s.myRegion
    let e : TraceRecord :=
      { hnd := s.tile.hnd, site := s.mySite, cyc := r.cyc, part := s.tile.part
        w3 := BitVec.ofNat 64 (s.core.sr.brth.toNat % 16 + (if s.sel == .comp then 16 else 0) + 32 * kind + 256 * cause +
          65536 * (s.core.pc.toNat % 2 ^ 19) + 2 ^ 48 * s.tile.ctx) }
    s.putRegion s.myRegion { r with traced := r.traced + 1, trace := if r.trace.length < 1024 then r.trace ++ [e] else r.trace.drop 1 ++ [e] }
  else s

/-! ### Issue, retirement, stalls -/

/-- Retires the bundle: the pc moves past it (02 R64). -/
def Core.retire (c : Core) : Core := { c with pc := c.npc, issued := true }
def State.retire (s : State) : State := { s with core := s.core.retire }

/-- Control moves to a target. -/
def Core.goto (c : Core) (pc : Word) : Core := { c with pc := pc, issued := true }
def State.goto (s : State) (pc : Word) : State := { s with core := s.core.goto pc }

/-- The bundle holds issue: nothing of it is done, the pc stays, and it issues again from its start at the core's next turn (R83,
R62). -/
def State.stall (s : State) : Out := .next s

/-- The address of the base word (02 R64: NPC is the address after it). -/
def State.baseWord (s : State) : Word := s.core.npc - 2

/-! ### Rings (02 R58, R59, 12 R288) -/

def RingState.word (r : RingState) : Word :=
  BitVec.ofNat 64 (r.base.toNat + 2 ^ 9 * r.nslot.toNat + 2 ^ 16 * r.head.toNat + 2 ^ 24 * r.tail.toNat + 2 ^ 32 * r.fill.toNat +
    2 ^ 40 * r.held.toNat)

def Tile.ring (t : Tile) (h : Ring) : RingState := t.rings[h]
def Tile.setRing (t : Tile) (h : Ring) (r : RingState) : Tile := { t with rings := vput t.rings h r }

/-- Slice offset of slot n. -/
def RingState.slotAt (r : RingState) (n : Nat) : Nat := 1024 * (r.base.toNat + n)

/-- Slice offset of the slot at offset u from HEAD. -/
def RingState.at (r : RingState) (u : Nat) : Nat := r.slotAt ((r.head.toNat + u) % r.nslot.toNat)

/-- The head moves past n slots. -/
def RingState.pop (r : RingState) (n : Nat) : RingState :=
  { r with head := BitVec.ofNat 6 ((r.head.toNat + n) % r.nslot.toNat), fill := r.fill - BitVec.ofNat 7 n, pops := r.pops + n }

/-- The tail moves past n slots. -/
def RingState.push (r : RingState) (n : Nat) : RingState :=
  { r with tail := BitVec.ofNat 6 ((r.tail.toNat + n) % r.nslot.toNat), fill := r.fill + BitVec.ofNat 7 n }

/-- Slots that are not filled. -/
def RingState.free (r : RingState) : Nat := r.nslot.toNat - r.fill.toNat

/-- The tail advance of a core: the frames that it has open note the slots (14 R345). -/
def State.tailAdvance (s : State) (h : Ring) (n : Nat) : State :=
  let r := s.tile.ring h
  let mine := (upto n).map fun j => (h.val, r.epoch, r.pops + r.fill.toNat + j)
  { s with
    tile := s.tile.setRing h (r.push n)
    core := { s.core with frames := s.core.frames.map fun f => { f with rings := f.rings ++ mine } } }

/-- The rings of a unit operation, and whether it pops each at its retirement (12 R298, R300, R304, 13 R332). -/
def unitRings : Instr → Option ((Ring × Bool) × (Ring × Bool))
  | .mmaAcc _ a b _ | .mmaOvw _ a b _ | .mmq _ a b _ _ | .mmg _ a b _ => some ((a, true), (b, true))
  | .mmaKeepb _ a b _ => some ((a, true), (b, false))
  | .mmaKeepa _ a b _ => some ((a, false), (b, true))
  | .kmmaDwAcc _ a b k _ | .kmmaMwAcc _ a b k _ | .kmmaDwOvw _ a b k _ | .kmmaMwOvw _ a b k _ =>
    some ((a, k == .both || k == .aOnly), (b, k == .both || k == .bOnly))
  | _ => none

/-- How many slots of ring h an operation pops at its retirement. -/
def UnitOp.popsOf (u : UnitOp) (h : Ring) : Nat :=
  match unitRings u.op with
  | some ((a, pa), (b, pb)) => (if a == h && pa then u.na else 0) + (if b == h && pb then u.nb else 0)
  | none => 0

/-- How far from HEAD the slots of ring h reach that an operation reads. -/
def UnitOp.reach (u : UnitOp) (h : Ring) : Nat :=
  match unitRings u.op with
  | some ((a, _), (b, _)) =>
    Nat.max (if a == h && u.na != 0 then u.ua + u.na else 0) (if b == h && u.nb != 0 then u.ub + u.nb else 0)
  | none => 0

/-- Whether an operation reads scale entries: MMA, MMQ and MMG in t8 or t6 (11 R277, R278). -/
def UnitOp.scaled (u : UnitOp) : Bool :=
  (match u.op with
    | .mmaAcc _ _ _ _ | .mmaOvw _ _ _ _ | .mmaKeepb _ _ _ _ | .mmaKeepa _ _ _ _ | .mmq _ _ _ _ _ | .mmg _ _ _ _ => true
    | _ => false) && (u.fmta == 1 || u.fmta == 2)

/-- Slot number of the slot at offset k from HEAD. -/
def RingState.slotNo (r : RingState) (k : Nat) : Nat := (r.head.toNat + k) % r.nslot.toNat

/-- The scale entries and the group entry held with the slots that an operation binds (11 R279, 12 R295). -/
def UnitOp.ext (u : UnitOp) (t : Tile) : List (Nat × Nat) :=
  match unitRings u.op with
  | some ((a, _), (b, _)) =>
    let sa := (upto u.na).map fun k => (u.scla.toNat + 128 * (t.ring a).slotNo (u.ua + k), 128)
    let sb := (upto u.nb).map fun k => (u.sclb.toNat + 128 * (t.ring b).slotNo (u.ub + k), 128)
    let g := match u.op with
      | .mmg _ _ _ _ => (upto u.na).map fun k => (u.gtb.toNat + 32 * (t.ring a).slotNo (u.ua + k), 32)
      | _ => []
    (if u.scaled then sa ++ sb else []) ++ g
  | none => []

/-- HELD of every ring and the entries held beside the slots, from the operations in flight (R288, 11 R279). -/
def reheld (ops : List UnitOp) (t : Tile) : Tile :=
  { t with
    rings := Vector.ofFn fun h => { t.rings[h] with held := BitVec.ofNat 7 (ops.foldl (fun n u => Nat.max n (u.reach h)) 0) }
    heldExt := (ops.map fun u => u.ext t).flatten }

/-- The operations whose slots are bound. -/
def UnitState.bound (u : UnitState) : List UnitOp := u.ops ++ u.kept

/-- Recomputes HELD for the compute core in focus. -/
def State.reheld (s : State) : State :=
  if s.sel == .comp then { s with tile := Sys2Proof.Machine.reheld s.core.unit.bound s.tile } else s

/-- The entry of a withdrawn operation: it keeps its sampled values and its step; a REP bundle goes on with the first iteration that
has not started (R297). -/
def Entry.withdrawn (e : Entry) (step : Nat) : Entry :=
  let e := { e with st := 2, w3 := BitVec.ofNat 64 step, resume := !e.issuing }
  if 1 < e.count.toNat then { e with next := e.next - 1 } else e

def Core.withdrawOp (c : Core) (u : UnitOp) : Core :=
  if h : u.ent < 8 then
    let e := c.rq[u.ent].withdrawn u.step
    { c with rq := vput c.rq ⟨u.ent, h⟩ { e with cap := u.scalar, forced := if u.forced then addTo e.forced e.next.toNat else e.forced } }
  else c

/-- A trap or a stop withdraws the operations of the unit that have not started, and one that a deferred event or a boundary holds, the
last first, so that an entry keeps the step of its first. The former give up their binding; the slots of the latter stay bound (R297,
R311, 13 R319, R333). -/
def State.withdraw (s : State) : State :=
  let c := s.core
  let gone := c.unit.ops.filter fun u => u.ent < 8 && (!u.started || u.stuck)
  if gone.isEmpty then s
  else
    let c := gone.reverse.foldl Core.withdrawOp c
    State.reheld { s with core := { c with unit :=
      { ops := c.unit.ops.filter fun u => 8 ≤ u.ent || (u.started && !u.stuck), kept := c.unit.kept ++ gone.filter (·.stuck) } } }

/-! ### Containment (14 R341-R345) -/

/-- Inside an open region, where events unwind (R344). -/
def Core.inRegion (c : Core) : Bool := c.tr.level.val == 0 && !c.frames.isEmpty

def ucauseCode : UCause → BitVec 3
  | .poison => 1 | .due => 2 | .nvf => 3 | .lsm => 4

/-- Marks the sectors of a slot poisoned. -/
def Tile.poisonSlot (t : Tile) (o : Nat) : Tile := { t with poison := (sectors o 1024).foldl addTo t.poison }

/-- Step 4 of R345 for one noted slot: poisoned if it is still filled. -/
def Tile.taintSlot (t : Tile) (k : Nat × Nat × Nat) : Tile :=
  if hk : k.1 < 8 then
    let r := t.rings[k.1]
    if r.epoch == k.2.1 && decide (r.pops ≤ k.2.2) && decide (k.2.2 < r.pops + r.fill.toNat) then
      t.poisonSlot (r.at (k.2.2 - r.pops))
    else t
  else t

/-- The copy operations of a core that still write ring slots mark them (R345). -/
def CopyEngine.taint (e : CopyEngine) (k : CoreSel) : CopyEngine :=
  { e with entries := e.entries.map fun x => if x.busy && x.core == k && x.mode == 3 then { x with taint := true } else x }

/-- The lease that the home has given out on the first sector of an access that is away (08 R198). -/
def Tile.leasedOut (t : Tile) (o n : Nat) : Option LeaseDir := t.leaseDir.find? fun d => (sectors o n).contains d.sector

/-- The lease that the store of an RPSH waits for. -/
def State.rpshLeased (s : State) (p : RpshOp) : Option LeaseDir :=
  if p.bytes.isEmpty then none else s.tile.leasedOut ((s.tile.ring p.ring).slotAt p.slot) 1024

/-- The earliest RPSH of the core that has not advanced TAIL (12 R293): its slot is filled, but not while a lease is out on it (08 R198), and
TAIL advances once the ring has room (02 R59). -/
def State.rpshFill (s : State) : State :=
  match s.core.rpsh with
  | [] => s
  | p :: rest =>
    if (s.rpshLeased p).isSome then s
    else
    let s :=
      if p.bytes.isEmpty then s
      else { s with tile := s.tile.store s.fresh ((s.tile.ring p.ring).slotAt p.slot) (p.bytes.map some), fresh := s.fresh + 1 }
    if (s.tile.ring p.ring).free == 0 then { s with core := { s.core with rpsh := { p with bytes := [] } :: rest } }
    else State.tailAdvance { s with core := { s.core with rpsh := rest } } p.ring 1

/-- Performs the RPSHs of the core that are not performed yet, as far as their rings have room. -/
def rpshFillAll : Nat → State → State
  | 0, s => s
  | n + 1, s => rpshFillAll n s.rpshFill

/-- The unwind of the innermost region (R345), by the bundle at `bofs`. -/
def State.unwind (s : State) (u : UCause) (bofs : BitVec 19) : State :=
  let s := rpshFillAll s.core.rpsh.length s
  match s.core.frames with
  | [] => s
  | f :: fs =>
    let c := { s.core with
      rq := Vector.replicate 8 {}, unit := {}, frames := fs, regs := f.regs, live := f.live, ucause := ucauseCode u, uopc := bofs,
      pc := f.handler.zeroExtend 64, asleep := none, xlatReq := none, plReq := none, issued := true, iabSkip := false,
      tr := { s.core.tr with deferred := none } }
    let s := { s with core := c, tile := f.rings.foldl Tile.taintSlot s.tile }.reheld
    let t := { s.tile with copy := s.tile.copy.taint s.sel }
    let t := { t with cki := ckiSet t.cki 5 }
    { s with tile := if u == .poison then t.poi else t }

/-- What reading poison does, for the bundle at `bofs`: in a region it unwinds; otherwise the bundle has its effect and CKI.POI is
set (R126, R344). -/
def State.consume (s : State) (bad : Bool) (bofs : BitVec 19) (k : State → State) : State :=
  if bad then
    if s.core.inRegion then s.unwind .poison bofs
    else
      let s := k s
      { s with tile := s.tile.poi }
  else k s

/-! ### Taking a trap (15 R362-R374) -/

def causeCode : Cause → Nat
  | .none => 0 | .ill => 1 | .priv => 2 | .zdiv => 3 | .xlat => 4 | .bnd => 5 | .capv => 6 | .revk => 7 | .rgf => 8 | .nvf => 9
  | .shd => 10 | .missp => 11 | .qto => 12 | .due => 13 | .lsm => 14 | .brk => 15 | .swt => 16

/-- Whether TVEC forwards a cause: bit 32 + c; every cause reads forwarded where the context selects host-assisted trap handling
(R364). -/
def State.forwards (s : State) (c : Cause) : Bool :=
  c != .none && (s.tile.modes.hostTraps || s.core.sr.tvec.getLsbD (32 + causeCode c))

/-- The handler's address for cause c at level n (R364). -/
def vectorAddr (tvec : Word) (n : Nat) (c : Cause) : Word :=
  BitVec.ofNat 64 (2048 * (tvec.extractLsb' 11 8).toNat + 1024 * (n - 1) + 32 * causeCode c)

/-- A replay-queue entry's four doublewords (R369). -/
def Entry.word0 (e : Entry) : Word :=
  BitVec.ofNat 64 (e.bofs.toNat + (if e.v then 2 ^ 19 else 0) + 2 ^ 20 * e.lvl.val + 2 ^ 22 * e.st.toNat + 2 ^ 24 * e.kind.toNat +
    2 ^ 32 * e.next.toNat + 2 ^ 48 * e.count.toNat)

/-- Log entry 29 (DEDUCED). -/
def Entry.words (e : Entry) : List Word := if e.v then [e.word0, e.w1, e.w2, e.w3] else [0, 0, 0, 0]

def TrapRegs.tlv (t : TrapRegs) : Word := BitVec.ofNat 64 (t.level.val + (if t.sstep then 4 else 0))

/-- CRB (14 R341). -/
def Core.crb (c : Core) : Word :=
  BitVec.ofNat 64 ((match c.frames with | f :: _ => f.handler.toNat | [] => 0) + 2 ^ 19 * c.frames.length + 2 ^ 24 * c.ucause.toNat +
    2 ^ 32 * c.uopc.toNat)

/-- TVEC as it reads: under host-assisted trap handling every bit of FWD reads 1 (R364). -/
def State.tvecValue (s : State) : Word :=
  if s.tile.modes.hostTraps then s.core.sr.tvec ||| 0x1FFFE00000000 else s.core.sr.tvec

/-- The save area of 512 bytes as doublewords, with TVEC as it reads (R373). -/
def Core.saveArea (c : Core) (fw : Forwarded) (tvec : Word) : List Word :=
  [BitVec.ofNat 64 (c.live.toNat / 2 * 2)] ++ (([1, 2, 3, 4, 5, 6, 7, 8, 9, 10, 11, 12, 13, 14, 15] : List (Fin 16)).map c.S) ++
    (c.rq.toList.map Entry.words).flatten ++
    [c.tr.tca1, c.tr.tpc1, c.tr.tva1, c.tr.tca2, c.tr.tpc2, c.tr.tva2, c.sr.conv, c.tr.tlv, c.sr.ffl, c.sr.fctl, c.crb, tvec,
      c.sr.msgh, BitVec.ofNat 64 (causeCode fw.cause), fw.pc, fw.va]

/-- The number of a core's forwarding slot in its context's dock (R360, R374). -/
def State.slotNo (s : State) : Nat := 2 * s.tile.rank + (if s.sel == .comp then 1 else 0) + 8192 * s.tile.ttag

def writeWords (m : Memory) (a : Nat) : List Word → Memory
  | [] => m
  | w :: ws => writeWords (m.writeWord a w) (a + 8) ws

/-! ### Requests on VC0 (07 R165, R180) -/

/-- A packet of the core in focus. -/
def State.packet (s : State) (dst : Endpoint) (vc : Fin 8) (dcore : CoreSel) (seq : BitVec 16) (opn : Bool) (ent req : Nat)
    (body : Body) : Packet :=
  { vc := vc, dst := dst, dcore := dcore, src := s.tile.id.endpoint, score := s.sel, shnd := s.tile.hnd, ctx := s.tile.ctx,
    ttag := (match dst with | .tile _ _ => s.tile.ttag | _ => 0), part := s.tile.part, seq := seq, opn := opn, age := 0,
    gen := s.routeGen, ent := ent, req := req, avc := 0, body := body, stag := s.tile.ttag }

/-- Sends a request on VC0, which stands in no retry buffer: it is kept until its reply comes (R180). Its `seq` only tells the requests of
one bundle apart. -/
def State.askPacket (s : State) (dst : Endpoint) (ent : Nat) (b : Body) : State :=
  let k := (s.core.link.vc0.filter fun p => p.req == s.core.link.req).length
  let p := s.packet dst 0 .stage (BitVec.ofNat 16 k) false ent s.core.link.req b
  { s with core := { s.core with link := { s.core.link with vc0 := s.core.link.vc0 ++ [p] } }, net := s.net ++ [p] }

/-- The number of the next request. -/
def bumpReq (c : Core) : Core := { c with link := { c.link with req := c.link.req + 1 } }

/-! ### Forwarded traps (R373, R374) -/

/-- A trap that is forwarded to the quay: the core writes its save area into its slot, sends a notice on VC0 and waits (R374). -/
def State.forward (s : State) (c : Cause) (va tpc : Word) (dfr : Bool) : State :=
  let fw : Forwarded := { cause := c, pc := tpc, va := va, dfr := dfr }
  let s := s.modCtx fun x => { x with fslots := Tab.put x.fslots s.slotNo (writeWords [] 0 (s.core.saveArea fw s.tvecValue)) }
  let s := { s with core := { s.core with tr := { s.core.tr with fwd := some fw } } }
  let s := s.askPacket (.quay s.myRegion) 8 (.ask 12 (BitVec.ofNat 64 (causeCode c)) va)
  { s with core := bumpReq s.core }

/-- Writes bytes into the control block. -/
def putBytesAt (m : Tab Byte) (a : Nat) : List Byte → Tab Byte
  | [] => m
  | b :: bs => putBytesAt (Tab.put m a b) (a + 1) bs

/-- The site of the partner of the tile in focus (14 R350); 0 without one. -/
def State.partnerSite (s : State) : Word :=
  match s.team? s.tile.ctx s.tile.ttag with
  | none => 0
  | some t =>
    let x := s.tile.id.xy.1
    let y := s.tile.id.xy.2
    match t.partners[(y - t.origin.2) / 2 * (t.w / 2) + (x - t.origin.1) / 2]? with
    | some p => s.siteWord (p.1 + x % 2) (p.2 + y % 2)
    | none => 0

/-- The kill report (R368): `mine` says that the core in focus is the one concerned; a kill that concerns no tile has zeros in its place,
and the CYC is that of the quay which launched the team of the tile, or of the first team of the context where no tile is concerned: log
entry 86 (DEDUCED). For LSM word 13 names the partner's site (14 R353): log entry 87 (DESIGN CHOICE). -/
def State.killReport (s : State) (mine : Bool) (ctx reason : Nat) (c : Cause) (tpc va : Word) : List Word :=
  let t := if mine then s.core.tr else {}
  [BitVec.ofNat 64 (ctx + 4096 * reason + 65536 * causeCode c + 2 ^ 32 * (if mine then s.tile.hnd.toNat else 0)), if mine then s.mySite else 0,
    t.tca1, t.tpc1, t.tva1, t.tca2, t.tpc2, t.tva2, BitVec.ofNat 64 (causeCode c), tpc, va,
    (s.region (if mine then s.quayFor s.tile.ctx s.tile.ttag else s.quayOf ctx)).cyc,
    if mine then s.tile.cki else 0, if mine && reason == 3 then s.partnerSite else 0, 0, 0]

/-- Status codes of completions (16 R398). -/
def stDone : Nat := 0
def stRerun : Nat := 1
def stUnresolved : Nat := 2
def stAbandoned : Nat := 3
def stTooLarge : Nat := 4
def stKilled : Nat := 5

/-- A level as a percentage of its quota; 255 for a bucket without a limit (16 R400). Log entry 46 (DESIGN CHOICE). -/
def percent (level quota : Nat) : Nat :=
  if quota == 0 then 255
  else if level * 100 % quota == 0 then level * 100 / quota
  else level * 100 / quota + if Config.percentUp level quota then 1 else 0

/-- The wafer quarter of logical coordinates (01 R10). -/
def quarterOf (x y : Nat) : Nat := 4 * regionOf x y + 2 * (y % 32 / 16) + x % 32 / 16

/-- Quarters withdrawn: by boot or a retirement, and those of a region that is fenced (R400). -/
def State.wdrq (s : State) : List Nat :=
  (upto 256).filter fun q => s.withdrawn.contains q || (s.region (q / 4)).reg == .fenced

/-- How many quarters WDRQ counts (16 R400): those withdrawn, and those with a tile that is withdrawn (07 R183). Log entry 93 (DEDUCED). -/
def State.wdrqCount (s : State) : Nat :=
  ((upto 256).filter fun q => s.wdrq.contains q || s.withdrawnTiles.any fun p => quarterOf p.1 p.2 == q).length

/-- Quarters in no partition and not withdrawn. -/
def State.freeQuarters (s : State) : List Nat :=
  (upto 256).filter fun q => !s.wdrq.contains q && !(s.parts.any fun p => p.2.quarters.contains q)

/-- Whether a column of a region has used its spare: a site of its compute rows is mapped around; a site of the quay strip uses none (07 R171). -/
def Region.spareUsed (r : Region) (col : Nat) : Bool := r.defects.any fun d => d.1 == col && d.2 != 16

/-- Columns that have used their spare. -/
def State.spareGone (s : State) : Nat := s.regions.foldl (fun n r => n + ((upto 32).filter r.2.spareUsed).length) 0

/-- Tiles of a team: its rectangle, docked or not; under lockstep twice as many (14 R350). -/
def Team.doubleword (s : State) (t : Team) : Word :=
  let x := s.ctx t.ctx
  let m := if x.modes.lockstep then 2 else 1
  BitVec.ofNat 64 (t.ctx + (if t.phase == .docked then 0 else 4096) + 65536 * (m * t.w * t.h) + 2 ^ 32 * percent x.level[0] x.quota[0] +
    2 ^ 40 * percent x.level[1] x.quota[1] + 2 ^ 48 * percent x.level[2] x.quota[2])

/-- Whether quarters hold invisible partners or redundant copies for a team (R400 REDQ). -/
def State.redundant (s : State) (t : Team) : Bool := (s.ctx t.ctx).modes.lockstep || 0 < t.copy

/-- The summary doubleword of R400. -/
def State.summary (s : State) : Word :=
  let red := (upto 256).filter fun q => s.teams.any fun t => t.phase != .docked && s.redundant t &&
    (s.allTiles.any fun u => u.tile.owned && u.tile.ctx == t.ctx && u.tile.ttag == t.tag && quarterOf u.tile.id.xy.1 u.tile.id.xy.2 == q)
  BitVec.ofNat 64 (s.freeQuarters.length + 2 ^ 16 * s.wdrqCount + 2 ^ 32 * red.length + 2 ^ 48 * (s.spareGone / 16) +
    (if s.replace then 2 ^ 56 else 0))

/-- The residency report (R400) as a partition sees it: a team of another partition reads as zero (15 R390). Log entry 48 (DEDUCED). -/
def State.residency (s : State) (part : Nat) : List Word :=
  s.summary :: (s.teams.filter (·.phase != .ended)).map fun t => if (s.ctx t.ctx).part == part then Team.doubleword s t else 0

/-- Header words 0 to 3 of a frame that the device sends (16 R396). -/
def rpcHead (cmd part : Nat) (adm rsp : Bool) (reqid : BitVec 64) (len status : Nat) (replace : Bool) : List Word :=
  [BitVec.ofNat 64 (0x53594E31 + 2 ^ 32 + 2 ^ 40 * cmd + 2 ^ 48 * part + (if adm then 2 ^ 54 else 0) + if rsp then 2 ^ 55 else 0), reqid,
    BitVec.ofNat 64 (len + 2 ^ 32 * status + if replace then 2 ^ 48 else 0), 0]

/-- The nonce of the device's frame number n, bytes 32 to 47 of its header (16 R396): the sender identifier and the counter. Log entry 58
(DESIGN CHOICE). -/
def rpcNonce (n : Nat) : List Word :=
  [Config.senderId.zeroExtend 64 ||| BitVec.ofNat 64 (2 ^ 32 * (n % 2 ^ 32)), BitVec.ofNat 64 (n / 2 ^ 32 % 2 ^ 32)]

/-- Header words 0 to 5 of the next frame that the device sends: the associated data of its tag. -/
def State.rpcWords (s : State) (cmd part : Nat) (adm rsp : Bool) (reqid : BitVec 64) (len status : Nat) : List Word :=
  rpcHead cmd part adm rsp reqid len status s.replace ++ rpcNonce (s.frames + 1)

/-- The key of a frame that the device sends, by word 0 (16 R397). -/
def deviceKey (w : Word) : KeyName := if w.getLsbD 54 then .admin else .rpc (w.extractLsb' 48 6).toNat false

/-- The GCM tag of a frame that the device sends (16 R396, R397). -/
def RpcFrame.tag (f : RpcFrame) : List Byte :=
  match f.words with
  | w :: _ => (Config.gcmTag (deviceKey w) (f.words.flatMap fun w => leBytes 8 w.toNat) f.payload).toList
  | [] => []

/-- A launch ends: its status is kept and its completion frame is sent, with the residency report (01 R30, 16 R398, R400); a launch
completes once. -/
def State.complete (s : State) (part id : Nat) (reqid : BitVec 64) (status : Nat) (words : List Word) : State :=
  let p := s.partOf part
  let finals := p.finals ++ [(id, status)]
  if p.finals.any (·.1 == id) then s
  else
    let ws := words ++ s.residency part
    State.putPart { s with
      completions := s.completions ++ [(s.rpcWords 9 part false false reqid (8 + 8 * ws.length) 0, status, ws)], frames := s.frames + 1 } part
    { p with finals := if finals.length ≤ 4096 then finals else finals.drop 1 }

/-- Launches of the context that are queued complete with a status (R368, 16 R399). -/
def State.flushQueues (s : State) (ctx status : Nat) (words : List Word) : State :=
  s.regions.foldl (fun s (n, r) =>
    let mine := r.queue.filter fun q => q.pkt.ctx == ctx
    let s := mine.foldl (fun s q => s.complete q.part q.id q.reqid status words) s
    if mine.isEmpty then s else s.putRegion n { (s.region n) with queue := r.queue.filter fun q => q.pkt.ctx != ctx }) s

/-- A core whose state is lost: it issues nothing more, and nothing of it is awaited. -/
def Core.discard (c : Core) : Core :=
  { c with active := false, stopped := true, rq := Vector.replicate 8 {}, unit := {}, rpsh := [], frames := [], asleep := none,
           xlatReq := none, plReq := none, link := { c.link with retry := [], vc0 := [] } }

/-- Releases the tiles of a team (01 R31): nothing of it stays on them. -/
def State.releaseTiles (s : State) (ctx tag : Nat) : State :=
  s.mapTiles (fun t => t.owned && t.ctx == ctx && t.ttag == tag) fun u =>
    { tile :=
        { id := u.tile.id, slice := u.tile.slice, poison := u.tile.poison, flips := u.tile.flips, scrubPos := u.tile.scrubPos,
          errCount := u.tile.errCount, errSeen := u.tile.errSeen, errTimes := u.tile.errTimes, badCount := u.tile.badCount, badSeen := u.tile.badSeen } }

/-- Ends the barrier episodes, engine phasers and collectives' claims of a team (08 R213). -/
def State.forgetTeam (s : State) (ctx tag : Nat) : State :=
  { s with
    barriers := s.barriers.filter fun b => !(b.ctx == ctx && b.ttag == tag)
    regions := s.regions.map fun (n, r) => (n, { r with eng := r.eng.map fun (k, p) =>
      (k, if p.ctx == ctx && p.ttag == tag then { p with inUse := false, members := [], waiters := [], pend := [] } else p) }) }

/-- Releases the tiles of a team and takes it from the tables. -/
def State.removeTeam (s : State) (t : Team) : State :=
  let s := (s.releaseTiles t.ctx t.tag).forgetTeam t.ctx t.tag
  { s with teams := s.teams.filter fun u => !(u.ctx == t.ctx && u.tag == t.tag) }

/-- Completes a team's launch and takes the team from the tables. -/
def State.finishTeam (s : State) (t : Team) (status : Nat) (words : List Word) : State :=
  let s := s.removeTeam t
  s.complete (s.ctx t.ctx).part t.launch t.reqid status words

/-! ### The metering journal (16 R403) -/

/-- The flags byte of a record. -/
def flUnresolved : Nat := 1
def flKilled : Nat := 2
def flGap : Nat := 4

/-- The chain value before the first record. -/
def chainStart (quay : Nat) : List Byte := sha256 (Config.serial ++ leBytes 8 quay)

def State.journalOf (s : State) (quay : Nat) : Journal := Tab.get s.journals { chain := chainStart quay } quay

/-- One record more: its number stands in it, and the chain value goes on over it. -/
def Journal.add (j : Journal) (body : List Nat) : Journal :=
  let r := (Config.journalRecord (j.count :: body)).toList
  { j with count := j.count + 1, records := j.records ++ [r], chain := sha256 (j.chain ++ r) }

/-- Appends a record to a journal; past 2^24 + 4096 unreturned records the charges go into the totals of the GAP record. -/
def Journal.append (j : Journal) (body : List Nat) (charges : Nat × Nat × Nat) : Journal :=
  if 2 ^ 24 + 4096 ≤ j.records.length then
    { j with gapTotals := (j.gapTotals.1 + charges.1, j.gapTotals.2.1 + charges.2.1, j.gapTotals.2.2 + charges.2.2) }
  else
    j.add body

/-- The record of a context at a refill, a swap-out or a team end; the charges of the period start again. Log entry 56 (DESIGN CHOICE). -/
def State.journalCtx (s : State) (quay ctx flags : Nat) : State :=
  let x := s.ctx ctx
  let used := x.charged
  let body := [ctx, x.part, (s.region quay).lastRefill.toNat, used[0], used[1], used[2], x.storageOps, flags]
  { s with journals := Tab.put s.journals quay ((s.journalOf quay).append body (used[0], used[1], used[2])) }.putCtx ctx
    { x with charged := Vector.replicate 3 0, storageOps := 0 }

/-- The copy operations of a team that have not ended (09 R233). -/
def unfinished (us : List FullTile) : Nat :=
  us.foldl (fun n u => n + (u.tile.copy.entries.toList.filter fun x => x.busy && !x.ended).length) 0

def State.tilesOf (s : State) (t : Team) : List FullTile :=
  s.allTiles.filter fun u => u.tile.owned && u.tile.ctx == t.ctx && u.tile.ttag == t.tag

/-! ### The end of a team (01 R31, 14 R347) -/

def crcStep (g : Word) : Word := if g.msb then (g <<< 1) ^^^ 0x42F0E1EBA9EA3693 else g <<< 1

def crcByte (g : Word) (b : Byte) : Word :=
  (upto 8).foldl (fun g _ => crcStep g) (g ^^^ (b.zeroExtend 64 <<< 56))

/-- fold(g, v): CRC-64 of the 8 little-endian bytes of v (R347). -/
def foldSig (g v : Word) : Word := (leBytes 8 v.toNat).foldl crcByte g

def FullTile.sig (u : FullTile) : Word := foldSig u.stage.sig u.comp.sig

/-- The tiles in the order of their ranks. -/
def byRank (us : List FullTile) : List FullTile :=
  (upto (us.foldl (fun n u => Nat.max n (u.tile.rank + 1)) 0)).filterMap fun n => us.find? fun u => u.tile.rank == n

/-- The signature of a copy. -/
def copySig (us : List FullTile) : Word := (byRank us).foldl (fun g u => foldSig g u.sig) 0xFFFFFFFFFFFFFFFF

/-- The messages among packets. -/
def messagesIn (ps : List Packet) : Nat := (ps.filter fun p => match p.body with | .msg _ _ _ _ _ _ _ _ => true | _ => false).length

/-- The messages that wait for a tile and that its team's end discards: at its local port, and held early in its sequence windows (R31, 07
R178). -/
def Tile.waiting (t : Tile) : Nat := messagesIn t.portWait + messagesIn (t.windows.flatMap (·.held))

/-- CKI and signature of every tile, the count of discarded messages, and that of copy operations that had not ended (R31, 09 R233). Log entry 41 (DEDUCED). -/
def endWords (t : Team) (us : List FullTile) : List Word :=
  ((byRank us).map fun u => [u.tile.cki, u.sig]).flatten ++
    [BitVec.ofNat 64 (t.discarded + messagesIn t.spill + us.foldl (fun n u => n + u.tile.waiting) 0), BitVec.ofNat 64 (unfinished us)]

/-- Groups of a team end with it. -/
def State.dropGroups (s : State) (t : Team) : State :=
  let x := s.ctx t.ctx
  s.putCtx t.ctx { x with groups := x.groups.filter fun g => g.team != t.tag }

/-- The modules, and from 64 on the engines, to which the tiles of a team have opened a stream since team start (18 R413). -/
def usedEnds (us : List FullTile) : List Nat := (upto 80).filter (us.flatMap fun u => u.tile.opened).contains

/-- The replay counters of a team (R413). -/
def State.replayCounters (s : State) (t : Team) (us : List FullTile) : List Word :=
  ((byRank us).map fun u => BitVec.ofNat 64 (u.stage.link.rtx.toNat + 2 ^ 16 * u.comp.link.rtx.toNat + 2 ^ 32 * u.tile.dups.toNat)) ++
    (usedEnds us).map fun k =>
      BitVec.ofNat 64 (Nat.min 65535 (Tab.get s.modDups 0 (128 * t.launch + k)) + 2 ^ 16 * (k % 64) + if 64 ≤ k then 2 ^ 22 else 0)

/-- The collector's stops, on VC7, to cores (R376). -/
def State.sendStops (s : State) (quay : Nat) (cs : List (TileId × CoreSel)) : State :=
  { s with net := s.net ++ cs.map fun c =>
      let t := (s.tileAt c.1).tile
      { vc := 7, dst := c.1.endpoint, dcore := c.2, src := .quay quay, score := .stage, shnd := 0, ctx := t.ctx, ttag := t.ttag,
        part := t.part, seq := 0, opn := false, age := 0, gen := s.routeGen, ent := 8, req := 0, avc := 0, body := .stop } }

/-- Both cores of tiles. -/
def bothCores (us : List FullTile) : List (TileId × CoreSel) :=
  us.flatMap fun u => [(u.tile.id, CoreSel.stage), (u.tile.id, CoreSel.comp)]

/-! ### Kills (15 R368) -/

/-- The number of the shadow pages of a copy of a launch. -/
def shadowKey (launch copy : Nat) : Nat := 4 * launch + copy

/-- Discards the shadow pages of a copy. -/
def Ctx.dropShadow (x : Ctx) (k : Nat) : Ctx := { x with shadows := x.shadows.filter fun h => h.1 != k }

/-- The storage commands in flight of copies of a launch, when their shadow pages go: those of the copy that is committed write the committed
pages, those of the others nothing (09 R237, 14 R354, R355). Log entry 45 (DESIGN CHOICE). -/
def State.settleStorage (s : State) (launch : Nat) (copies : List Nat) (commit : Option Nat) : State :=
  { s with storage := s.storage.map fun k =>
      if commit.isSome && k.sh == commit.map (shadowKey launch) then { k with sh := none }
      else if copies.any fun c => k.sh == some (shadowKey launch c) then { k with void := true }
      else k }

/-- A team that a kill has stopped, or that is not resident, ends: its launch completes KILLED, with CKI and signature of its tiles and
the kill report (R368, 16 R398); of several copies of a launch the last one completes it (14 R354). Log entry 51 (DEDUCED). -/
def State.finishKilled (s : State) (t : Team) : State :=
  let us := s.tilesOf t ++ t.dockTiles
  let s := s.settleStorage t.launch [t.copy] none
  let x := s.ctx t.ctx
  let s := s.putCtx t.ctx { x.dropShadow (shadowKey t.launch t.copy) with counters := s.replayCounters t us }
  let s := (s.dropGroups t).journalCtx t.quay t.ctx flKilled
  if s.teams.any fun u => u.launch == t.launch && !(u.ctx == t.ctx && u.tag == t.tag) then s.removeTeam t
  else s.finishTeam t stKilled (endWords t us ++ t.rep)

/-- The quay stops a team for a kill whose report is `rep` (R368, R376): the stops go to its cores, unless they are under way; a team
without resident tiles ends at once. -/
def State.killTeam (s : State) (rep : List Word) (t : Team) : State :=
  let t' := { t with rep := rep }
  if (s.tilesOf t).isEmpty then s.finishKilled t'
  else
    let s' := s.putTeam { t' with phase := .stopping }
    if t.phase == .stopping || t.phase == .swappingOut then s' else s'.sendStops t.quay (bothCores (s.tilesOf t))

/-- The kill of a context is complete once none of its teams is left. -/
def State.settleKill (s : State) (ctx : Nat) : State :=
  if s.teams.any fun t => t.ctx == ctx then s else s.putCtx ctx { s.ctx ctx with killing := false }

/-- The core at which a kill begins issues nothing more, and stops as if its stop had come. -/
def Core.killed (c : Core) : Core := { c with dead := true, stopAsked := true, tr := { c.tr with fwd := none } }

/-- A kill of a context begins (R368): the report is written to the control block, the launches of it that are queued complete KILLED, and
its teams are stopped; the context itself stays. A second cause while it is in progress changes nothing but the core that it comes from.
Log entry 51 (DEDUCED). -/
def State.killContext (s : State) (mine : Bool) (ctx reason : Nat) (c : Cause) (tpc va : Word) : State :=
  let x := s.ctx ctx
  let rep := s.killReport mine ctx reason c tpc va
  let s := if mine then s.modCore Core.killed else s
  if x.killing then s
  else
    let s := s.putCtx ctx { x with
      killing := true, killReport := rep
      ctl := putBytesAt x.ctl Config.killReportAt.val ((rep.map fun w => leBytes 8 w.toNat).flatten) }
    let s := s.flushQueues ctx stKilled rep
    ((s.teams.filter fun t => t.ctx == ctx).foldl (fun s t => s.killTeam rep t) s).settleKill ctx

/-- A trap that is not forwarded (R366): the next trap level, or the kill of the context. -/
def State.enterTrap (s : State) (c : Cause) (va tpc : Word) (dfr : Bool) : State :=
  if s.core.tr.level.val == 2 || !s.core.sr.tvec.getLsbD 19 then
    s.killContext true s.tile.ctx (if s.core.tr.level.val == 2 then 1 else 2) c tpc va
  else
    let tca : Word := BitVec.ofNat 64 (causeCode c + if dfr then 32 else 0)
    let t := s.core.tr
    let t :=
      if t.level.val == 0 then { t with level := 1, sstep := false, tca1 := tca, tpc1 := tpc, tva1 := va }
      else { t with level := 2, sstep := false, tca2 := tca, tpc2 := tpc, tva2 := va }
    { s with core := { s.core with tr := t, pc := vectorAddr s.core.sr.tvec t.level.val c } }

/-- Takes a trap at a bundle boundary (R366): forwarded, or entered here. A single step under way lasts over a forwarded trap (R388). -/
def State.takeTrap (s : State) (c : Cause) (va tpc : Word) (dfr : Bool) : State :=
  let s := { s with core := { s.core with iabSkip := false, asleep := none, xlatReq := none, plReq := none } }
  let s := s.withdraw
  let s := s.traceRec 2 (causeCode c)
  if s.forwards c then s.forward c va tpc dfr else s.enterTrap c va tpc dfr

/-- A fault: DUE and NVF unwind an open region in place of the trap (14 R344); every other cause is a trap. -/
def State.fault (s : State) (c : Cause) (va tpc : Word) (dfr : Bool) (bofs : BitVec 19) : State :=
  if s.core.inRegion && c == .due then s.unwind .due bofs
  else if s.core.inRegion && c == .nvf then s.unwind .nvf bofs
  else s.takeTrap c va tpc dfr

/-- Offset of the bundle at the pc. -/
def Core.bofs (c : Core) : BitVec 19 := c.pc.truncate 19

/-- The bundle at the pc raises a cause: TPC is BPC (R362). -/
def State.trapB (s : State) (c : Cause) (va : Word) : Out := .next (s.fault c va s.core.pc false s.core.bofs)

end Sys2Proof.Machine
end

