-- ==== Sys2Proof/Machine/Operands.lean ====
section
/-! DEFINITION. Operand forms: tagged pointers and their checks (03 R78-R81, 05 R111-R118), row operands (02 R53-R56, 04 R96), the
REP prefix (02 R48, 04 R94-R98) and the waits at issue (03 R83, 05 R137, 06 R147, 12 R296). -/

namespace Sys2Proof.Machine

/-- What a check at issue answers: go on, a trap with its TVA, or hold issue. -/
inductive Chk (α : Type) where
  | ok (a : α)
  | trap (c : Cause) (va : Word)
  | wait (s : State)

/-- Goes on where the check allows it. -/
def Chk.run {α : Type} (c : Chk α) (s : State) (k : α → Out) : Out :=
  match c with
  | .ok a => k a
  | .trap c va => s.trapB c va
  | .wait s => s.stall

/-- Chains checks. -/
def Chk.bind {α β : Type} (c : Chk α) (k : α → Chk β) : Chk β :=
  match c with
  | .ok a => k a
  | .trap c va => .trap c va
  | .wait s => .wait s

/-- Holds issue until a condition holds. -/
def State.when (s : State) (b : Bool) (k : Out) : Out := if b then k else s.stall

/-- Writes a scalar from scalars that are read at issue (R83): d is also a pending write to wait for. -/
def State.alu (s : State) (d : SReg) (reads : List SReg) (v : Word) : Out :=
  if s.core.ready (d :: reads) then .next (s.setS d v).retire else s.stall

/-! ### Tagged pointers (03 R78-R81, 05 R112) -/

def ptrSpace (p : Word) : Nat := (p.extractLsb' 60 4).toNat

/-- The offset field of a pointer, by its space (R80 POFF). -/
def ptrOfs (p : Word) : Nat := if ptrSpace p ≤ 1 then (p.extractLsb' 0 40).toNat else (p.extractLsb' 0 56).toNat

def ptrRank (p : Word) : Nat := if ptrSpace p == 1 then (p.extractLsb' 40 20).toNat else 0

/-- The offset limit of a space (R79). -/
def spaceLimit (sp : Nat) : Nat := if sp ≤ 1 then 0x80000 else 0xFFFFFFFFFFFFFF

/-- x with its offset field replaced; the other bits stay. -/
def withOfs (x : Word) (o : Nat) : Word :=
  if ptrSpace x ≤ 1 then x.extractLsb' 40 24 ++ BitVec.ofNat 40 o else x.extractLsb' 56 8 ++ BitVec.ofNat 56 o

/-- `ea` of R112, which is also PADD (R80): none raises BND with TVA = x. -/
def ea (x : Word) (disp : Int) : Option Word :=
  let o : Int := Int.ofNat (ptrOfs x) + disp
  if 5 ≤ ptrSpace x then none
  else if o < 0 ∨ Int.ofNat (spaceLimit (ptrSpace x)) < o then none
  else some (withOfs x o.toNat)

def eaChk (x : Word) (disp : Int) : Chk Word :=
  match ea x disp with
  | some p => .ok p
  | none => .trap .bnd x

/-- Where the bytes of an access lie: the own slice, the slice of a tile of the team, edge memory or a NET window by the endpoints
that hold the parts (offset and length), a window of the quay. -/
inductive Target where
  | slice (o : Nat)
  | tile (x y : Nat) (o : Nat)
  | far (net : Bool) (segs : List (Endpoint × Nat × Nat))
  | quay (o : Nat)
  deriving DecidableEq, Repr, Inhabited

/-- Whether a page holds the byte at o. -/
def Page.covers (g : Page) (net : Bool) (o : Nat) : Bool := g.net == net && o / 2 ^ g.log == g.base / 2 ^ g.log

def Page.endpoint (g : Page) : Endpoint := if g.net then .engine g.target else .module g.target

/-- The 64 KiB units that n bytes at o touch, as (offset, length). -/
def chunks (o n : Nat) : List (Nat × Nat) :=
  (upto ((o + n - 1) / 65536 + 1 - o / 65536)).map fun k =>
    let lo := Nat.max o ((o / 65536 + k) * 65536)
    let hi := Nat.min (o + n) ((o / 65536 + k + 1) * 65536)
    (lo, hi - lo)

/-- Joins neighbouring parts that one endpoint holds. Log entry 89 (DESIGN CHOICE). -/
def joinSegs : List (Endpoint × Nat × Nat) → List (Endpoint × Nat × Nat)
  | [] => []
  | (e, o, n) :: r =>
    match joinSegs r with
    | (e', o', n') :: r' => if e == e' && o + n == o' then (e, o, n + n') :: r' else (e, o, n) :: (e', o', n') :: r'
    | [] => [(e, o, n)]

/-- Marks an entry of the micro-TLB as the most recently used (R117). -/
def Tile.touchPage (t : Tile) (g : Page) : Tile := { t with tlb := g :: t.tlb.filter (· != g) }

/-! ### Translation requests -/

/-- A bundle waits for a translation: its request leaves once for each miss, not under the hawser (05 R117, 07 R181). -/
def State.askPage (s : State) (va : Word) (write : Bool) : State :=
  let asked := match s.core.xlatReq with | some q => q.va == va && q.write == write && q.req.isSome | none => false
  if asked || s.hawser then s
  else
    let q : XlatReq := { va := va, write := write, req := some s.core.link.req }
    let s := { s with core := { s.core with xlatReq := some q } }
    let s := s.askPacket (.quay s.myRegion) 8 (.ask 11 va (if write then 1 else 0))
    { s with core := bumpReq s.core }

/-- Translates the units of an access in increasing order of address (R112, R117, R118): a miss asks the quay and holds issue. -/
def translate (p : Word) (net write : Bool) : List (Nat × Nat) → State → Chk (List (Endpoint × Nat × Nat) × State)
  | [], s => .ok ([], s)
  | (o, n) :: r, s =>
    match s.tile.tlb.find? fun g => g.covers net o with
    | none => .wait (s.askPage (withOfs p o) write)
    | some g =>
      if (if write then g.w else g.r) then
        match translate p net write r { s with tile := s.tile.touchPage g } with
        | .ok (segs, s) => .ok ((g.endpoint, o, n) :: segs, s)
        | .trap c va => .trap c va
        | .wait s => .wait s
      else .trap .xlat (withOfs p o)

/-- The windows of QUAY space (R360): first offset, length, whether a store is allowed. -/
def quayWindows : List (Nat × Nat × Bool) :=
  [(0, 0x1000, true), (0x10000, 0x8000, false), (0x20000, 0x100, false), (0x30000, 0x400, true)]

/-- `resolve` of R112, with the checks of R111, R117, R354 and R360, before any byte moves. -/
def State.resolve (s : State) (p : Word) (n : Nat) (write : Bool) : Chk (Target × State) :=
  let sp := ptrSpace p
  let o := ptrOfs p
  if sp == 3 && !s.privileged then .trap .priv p
  else if spaceLimit sp < o + n then .trap .bnd p
  else if sp == 0 then .ok (.slice o, s)
  else if sp == 1 then
    match s.tile.placement[ptrRank p]? with
    | none => .trap .bnd p
    | some q => if ptrRank p == s.tile.rank then .ok (.slice o, s) else .ok (.tile q.x q.y o, s)
  else if sp == 3 then
    if quayWindows.any fun w => decide (w.1 ≤ o) && decide (o + n ≤ w.1 + w.2.1) && (!write || w.2.2) then .ok (.quay o, s)
    else .trap .xlat p
  else if sp == 4 && write && s.tile.modes.paired then .trap .priv s.core.pc
  else (translate p (sp == 4) write (chunks o n) s).bind fun (segs, s) => .ok (.far (sp == 4) (joinSegs segs), s)

/-! ### Row operands (02 R53-R56, 04 R96) -/

/-- A row operand or the ground on which it is refused. -/
inductive RowSel where
  | tile (t : Fin 16) (r : Fin 16)
  | o (n : Fin 4)
  | l
  | z
  | bc
  | rgf
  | ill
  deriving DecidableEq, Repr, Inhabited

/-- The row operand of code k in iteration i (R54, R96). -/
def rowSel (sel : CoreSel) (k : RCode) (base : Fin 16) (bank : Bool) (i : Nat) : RowSel :=
  if sel == .stage && (bank || (3 < k.val && k.val < 13) || k.val == 15) then .ill
  else if k.val < 8 then
    let p := rowPlace k.val base.val i bank
    if h : p.1 < 16 ∧ p.2 < 16 then
      if sel == .stage && 3 < p.1 then .rgf else .tile ⟨p.1, h.1⟩ ⟨p.2, h.2⟩
    else .rgf
  else
    match k.val with
    | 8 => .o 0 | 9 => .o 1 | 10 => .o 2 | 11 => .o 3 | 12 => .l | 13 => .z | 14 => .bc | _ => .ill

def TileReg.row (t : TileReg) (r : Fin 16) : RowVal := if t.live then t.rows[r] else {}
def ORow.get (o : ORow) : RowVal := if o.live then o.val else {}

/-- Writes a row of a tile register, reviving it: the other rows of a dead register read zero (R56). -/
def TileReg.put (t : TileReg) (r : Fin 16) (v : RowVal) : TileReg :=
  { live := true, rows := vput (if t.live then t.rows else Vector.replicate 16 {}) r v }

/-- The low 8w bits of x in every lane of w bytes. -/
def broadcast (w : Nat) (x : Word) : Row :=
  (upto (64 / w)).foldl (fun acc j => acc ||| BitVec.shiftLeft ((BitVec.ofNat 512 (x.toNat % 2 ^ (8 * w)))) (8 * w * j)) 0

/-- Reads a row operand; code 14 is the broadcast of s[c] in lanes of w bytes. -/
def Core.rowVal (c : Core) (x : RowSel) (w : Nat) (b : SReg) : RowVal :=
  match x with
  | .tile t r => c.rf.t[t].row r
  | .o n => c.rf.o[n].get
  | .l => c.rf.l.get
  | .bc => { bits := broadcast w (c.S b) }
  | _ => {}

/-- Writes a row operand; z discards. -/
def Core.setRow (c : Core) (x : RowSel) (v : RowVal) : Core :=
  match x with
  | .tile t r => { c with rf := { c.rf with t := vput c.rf.t t (c.rf.t[t].put r v) } }
  | .o n => { c with rf := { c.rf with o := vput c.rf.o n { live := true, val := v } } }
  | .l => { c with rf := { c.rf with l := { live := true, val := v } } }
  | _ => c

/-- Writes the latch. -/
def Core.setL (c : Core) (v : RowVal) : Core := c.setRow .l v

/-- The operations of the unit that have not started and read tile register n (R296). -/
def unitReadsT : Instr → Nat → Bool
  | .macwr _ t, n => t.val == n
  | .kaddd _ _ t, n | .kmuld _ _ t, n => t.val == n
  | .kmk _ a b bank, n => tileNo a.val bank == n || (match b with | some b => tileNo b.val bank == n | none => false)
  | .kcolDraw _ _ b base bank _, n => decide (b.val < 8) && (rowPlace b.val base.val 0 bank).1 == n
  | _, _ => false

/-- Whether a row operand may be read. -/
def Core.rowFree (c : Core) (x : RowSel) : Bool :=
  match x with
  | .tile t _ => !c.busyT t.val
  | .o n => !c.busyO (8 + n.val)
  | .l => !c.busyO 12
  | _ => true

/-- Whether a row operand may be written (R83, R296). -/
def Core.rowOpen (c : Core) (x : RowSel) : Bool :=
  c.rowFree x && (match x with
    | .tile t _ => !(c.unit.ops.any fun u => !u.started && unitReadsT u.op t.val)
    | _ => true)

/-- Whether tile register n may be written. -/
def Core.tileOpen (c : Core) (n : Nat) : Bool := !c.busyT n && !(c.unit.ops.any fun u => !u.started && unitReadsT u.op n)

/-- A code that the core lacks is ILL at the base word before anything else of the bundle, whatever its count (R40, R54). -/
def State.codeChk (s : State) (xs : List RowSel) : Chk Unit := if xs.contains .ill then .trap .ill s.baseWord else .ok ()

/-- The faults of the row operands of one iteration: codes that the core lacks are ILL at the base word, a register past the last is
RGF (R54, R96). -/
def State.rowChk (s : State) (xs : List RowSel) : Chk Unit :=
  if xs.contains .ill then .trap .ill s.baseWord
  else if xs.contains .rgf then .trap .rgf s.core.pc
  else .ok ()

/-! ### Bytes of rows -/

def Row.byte (r : Row) (j : Nat) : Byte := r.extractLsb' (8 * j) 8

/-- The bytes of a row with the poison of their halves. -/
def RowVal.bytes (v : RowVal) : List PByte := (upto 64).map fun j => (Row.byte v.bits j, v.bad.getLsbD (j / 32))

def rowOfBytes : List Byte → Row := fun bs => BitVec.ofNat 512 (leNat bs)

/-- A row from bytes: a poisoned byte is written as 0 and poisons its half (R126). -/
def RowVal.ofBytes (bs : List PByte) : RowVal :=
  { bits := rowOfBytes (bs.map fun b => if b.2 then 0 else b.1)
    bad := (if (bs.take 32).any (·.2) then 1 else 0) ||| (if (bs.drop 32).any (·.2) then 2 else 0) }

/-- The row with the bytes of the mask replaced (R123). A half that was poisoned stays so, also where clean bytes replace all of it:
log entry 79 (DESIGN CHOICE). -/
def RowVal.merge (v : RowVal) (bs : List (Option PByte)) : RowVal :=
  let new := (upto 64).map fun j => match (bs[j]?).join with
    | some b => if b.2 then 0 else b.1
    | none => Row.byte v.bits j
  let bad (h : Nat) : Bool := (upto 32).any fun j => match (bs[32 * h + j]?).join with | some b => b.2 | none => false
  { bits := rowOfBytes new, bad := v.bad ||| (if bad 0 then 1 else 0) ||| (if bad 1 then 2 else 0) }

/-! ### Entries of the replay queue at issue (03 R84, 15 R370) -/

/-- A long operation takes the first free entry; with none it waits, or raises RGF where lower levels hold all eight. -/
def State.withEntry (s : State) (k : Fin 8 → Out) : Out :=
  match s.core.freeEntry with
  | some e => k e
  | none =>
    if s.core.tr.level.val != 0 && s.core.rq.toList.all fun e => decide (e.lvl.val < s.core.tr.level.val) then s.trapB .rgf s.core.pc
    else s.stall

/-- The entry of the bundle at the pc. -/
def State.newEntry (s : State) (i : Instr) (kind : BitVec 4) (w1 w2 : Word) : Entry :=
  { v := true, lvl := s.core.tr.level, kind := kind, bofs := s.core.bofs, w1 := w1, w2 := w2, op := some i }

def State.putEntry (s : State) (e : Fin 8) (x : Entry) : State := { s with core := s.core.setEntry e x }

/-! ### REP (02 R48, 04 R94-R98) -/

/-- The entry of the REP bundle at the pc that still issues iterations. -/
def Core.issuing (c : Core) : Option (Fin 8) :=
  ([0, 1, 2, 3, 4, 5, 6, 7] : List (Fin 8)).find? fun i =>
    let e := c.rq[i]
    e.v && e.issuing && e.lvl == c.tr.level && e.bofs == c.bofs

def repReady (c : Core) : Rep → Bool
  | .reg r => c.ready [r]
  | _ => true

def repCount (c : Core) : Rep → Nat
  | .one => 1
  | .imm n => n.val
  | .reg r => (c.S r).toNat

/-- The iteration of entry e retires: the bundle stays, or with the last one the entry is freed and the bundle retires (R97). -/
def State.repStep (s : State) (e : Fin 8) : State :=
  let x := s.core.rq[e]
  if x.next.toNat + 1 < x.count.toNat then
    { s with core := { s.core.setEntry e { x with next := x.next + 1 } with issued := true } }
  else { s with core := (s.core.dropEntry e).retire }

/-- A bundle that may carry REP: `it` performs one iteration from the captured scalars and ends it with the state change it is
given. One iteration is one step. A trap in iteration 0 leaves no entry, and the bundle issues anew with the count that the register then
has: log entry 98 (DESIGN CHOICE). -/
def State.repeated (s : State) (i : Instr) (rep : Rep) (kind : BitVec 4) (w1 w2 : Word)
    (it : State → Nat → Word → Word → (State → State) → Out) (cap : Word := 0) : Out :=
  match s.core.issuing with
  | some e => it s s.core.rq[e].next.toNat s.core.rq[e].w1 s.core.rq[e].w2 fun s => s.repStep e
  | none =>
    if !repReady s.core rep then s.stall
    else
      let n := repCount s.core rep
      if 65535 < n then s.trapB .rgf s.core.pc
      else if n == 0 then .next s.retire
      else if n == 1 then it s 0 w1 w2 State.retire
      else
        s.withEntry fun e =>
          let x := { s.newEntry i kind w1 w2 with count := BitVec.ofNat 16 n, issuing := true, cap := cap }
          it s 0 w1 w2 fun s => (s.putEntry e x).repStep e

/-! ### Waits of memory accesses -/

/-- An acquire of the core that has not retired holds the later accesses to memory (06 R147). -/
def Core.acquiring (c : Core) : Bool := c.claims.any (·.acq)

/-- Whether an RPSH of the core has a store into its slot that is not performed yet (12 R293). -/
def Core.slotStores (c : Core) : Bool := c.rpsh.any fun p => !p.bytes.isEmpty

/-- Loads of the core at its level that have not retired: KIND 2, and KLD (R147). -/
def Core.loadsPending (c : Core) : Bool := c.claims.any fun e => e.kind == 2 || e.kind == 8

/-- Whether an endpoint lies in the scope instance of a tile (06 R145). -/
def inScope (sc : Scope) (me : TileId) (e : Endpoint) : Bool :=
  match e with
  | .tile x y =>
    let m := me.xy
    (match sc with
    | .tile => m.1 == x && m.2 == y
    | .quad => m.1 / 2 == x / 2 && m.2 / 2 == y / 2
    | .region => regionOf m.1 m.2 == regionOf x y
    | .wafer => true
    | .pod => true)
  | .quay _ => (match sc with | .tile => false | .quad => false | _ => true)
  | _ => (match sc with | .wafer => true | .pod => true | _ => false)

/-- Whether a packet is a write, an atomic or a message for the release waits (R147, R151). -/
def Body.isWrite : Body → Bool
  | .read _ _ _ => false
  | _ => true

/-- Loads and atomics of the core that have not retired: an acquire fence waits for both (R150). -/
def Core.readsPending (c : Core) : Bool := c.loadsPending || c.claims.any fun e => e.kind == 3

/-- Earlier writes, atomics and messages of the core to the scope instance that are not acknowledged, and its stores into ring slots
that are not performed. -/
def State.unacked (s : State) (sc : Scope) : Bool :=
  s.core.slotStores || (s.core.link.retry.any fun r => Body.isWrite r.pkt.body && inScope sc s.tile.id r.pkt.dst) ||
    s.core.link.vc0.any fun p => (match p.body with | .write _ _ => true | _ => false) && inScope sc s.tile.id p.dst

/-- What a release waits for (R147). -/
def State.releaseReady (s : State) (sc : Scope) : Bool := !s.core.loadsPending && !s.unacked sc

def Xsc.isRel (x : Option Xsc) : Bool := match x with | some x => x.ord == .rel || x.ord == .ar | none => false
def Xsc.isAcq (x : Option Xsc) : Bool := match x with | some x => x.ord == .acq || x.ord == .ar | none => false
def Xsc.scopeOf (x : Option Xsc) : Scope := match x with | some x => x.scope | none => .wafer

/-- Whether a memory access with this order may issue. -/
def State.orderReady (s : State) (x : Option Xsc) : Bool :=
  !s.core.acquiring && (!Xsc.isRel x || s.releaseReady (Xsc.scopeOf x))

/-! ### Held slots and leased sectors of a slice (05 R137, 08 R198) -/

/-- Whether a byte at o lies in a held slot, or in a scale or group entry that is held with one (11 R279). -/
def Tile.heldAt (t : Tile) (o : Nat) : Bool :=
  t.heldExt.any (fun e => decide (e.1 ≤ o) && decide (o < e.1 + e.2)) || t.rings.toList.any fun r =>
    r.nslot != 0 && decide (1024 * r.base.toNat ≤ o) &&
      (let n := o / 1024 - r.base.toNat
       decide (n < r.nslot.toNat) && decide ((n + r.nslot.toNat - r.head.toNat) % r.nslot.toNat < r.held.toNat))

/-- Whether any of the bytes written lies in a held slot. -/
def Tile.heldWrite (t : Tile) (o : Nat) (bs : List (Option PByte)) : Bool :=
  (!t.heldExt.isEmpty || t.rings.toList.any (·.held != 0)) && (upto bs.length).any fun j => ((bs[j]?).join).isSome && t.heldAt (o + j)

end Sys2Proof.Machine
end

