-- ==== Sys2Proof/Machine/Net.lean ====
section
/-! DEFINITION. Packets: streams, the retry buffer, replies (07_messages R156, R165-R180), and the results of long operations
(05_memory R126, R136, 15_system R369, R370). -/

namespace Sys2Proof.Machine

/-! ### Injection (07 R158, R177, R179) -/

/-- Payload bytes of a packet (R156). -/
def Body.size : Body → Nat
  | .msg _ _ _ _ _ _ p _ => p.length
  | .write _ bs => bs.length
  | .atomic _ _ _ _ _ _ => 32
  | .phArrive _ | .phWait _ | .phReg _ | .phQry _ => 32
  | .writeBack _ bs _ => bs.length
  | .data _ bs => bs.length
  | .old _ _ (some _) => 64
  | _ => 0

/-- Bytes of a packet in the retry buffer and in a hold pool: its header words and its payload. Log entry 79 (DESIGN CHOICE). -/
def pktBytes (b : Body) : Nat := 32 + Body.size b

/-- The flits of a packet (R156, R158): the first carries 32 bytes of payload, each later one 64. -/
def Packet.flits (p : Packet) : Nat := 1 + (Body.size p.body - 32 + 63) / 64

def LinkState.find (l : LinkState) (dst : Endpoint) (vc : Fin 8) : Option Stream :=
  l.streams.find? fun t => t.dst == dst && t.vc == vc && !t.closing

/-- A packet that a bundle is about to inject. -/
structure Outgoing where
  dst : Endpoint
  vc : Fin 8
  dcore : CoreSel := .stage
  ent : Nat := 8
  body : Body
  deriving DecidableEq, Repr, Inhabited

/-- The streams that the packets would open. -/
def newStreams (l : LinkState) : List Outgoing → List (Endpoint × Fin 8) → Nat
  | [], _ => 0
  | o :: os, seen =>
    if o.vc == 0 || (l.find o.dst o.vc).isSome || seen.contains (o.dst, o.vc) then newStreams l os seen
    else 1 + newStreams l os ((o.dst, o.vc) :: seen)

def retryBytes (l : LinkState) : Nat := l.retry.foldl (fun n r => n + pktBytes r.pkt.body) 0

/-- Whether the retry buffer has the room (64 entries, 16 KiB), every stream is open or openable, and the hawser is not asserted
(R158, R177, R181); a request on VC0 needs neither (R165). -/
def State.canSend (s : State) (out : List Outgoing) : Bool :=
  let l := s.core.link
  let os := out.filter (·.vc != 0)
  !s.hawser && decide (l.retry.length + os.length ≤ 64) &&
    decide (retryBytes l + os.foldl (fun n o => n + pktBytes o.body) 0 ≤ 16384) &&
    decide (l.streams.length + newStreams l os [] ≤ 64)

/-- Notes that a core of the tile has opened a stream to a module, or by 64 more to an engine (18 R413). -/
def Tile.noteOpened (t : Tile) (e : Endpoint) : Tile :=
  match e with
  | .module n => { t with opened := addTo t.opened n }
  | .engine n => { t with opened := addTo t.opened (64 + n) }
  | _ => t

/-- Injects one packet on its stream: the next number, OPEN on the first, an entry of the retry buffer (R158, R177); on VC0 it is a
request that is sent again while it has no reply (R180). -/
def State.inject (s : State) (o : Outgoing) : State :=
  if o.vc == 0 then s.askPacket o.dst o.ent o.body
  else
  let l := s.core.link
  let seq : BitVec 16 := match l.find o.dst o.vc with | some t => t.next | none => 0
  let opn := (l.find o.dst o.vc).isNone
  let p := s.packet o.dst o.vc o.dcore seq opn o.ent l.req o.body
  let streams :=
    if opn then l.streams ++ [{ dst := o.dst, vc := o.vc, next := 1 }]
    else l.streams.map fun t => if t.dst == o.dst && t.vc == o.vc && !t.closing then { t with next := t.next + 1 } else t
  { s with
    core := { s.core with link := { l with streams := streams, retry := l.retry ++ [{ pkt := p, gen := s.routeGen }] } }
    tile := if opn then s.tile.noteOpened o.dst else s.tile
    net := s.net ++ [p] }

/-- A stream that its source may close: nothing unacknowledged, and 2^16 cycles since its last re-injection (R179). -/
def State.closable (s : State) (t : Stream) : Bool :=
  !t.closing && !(s.core.link.retry.any fun r => r.pkt.dst == t.dst && r.pkt.vc == t.vc) &&
    (t.lastReinject == 0 || decide (t.lastReinject + 65536 ≤ s.cyc.toNat))

/-- Where the packets need an entry that the stream table lacks, the first stream that may be closed, and that they do not use, is closed
by a close packet, its next number (R179). -/
def State.makeRoom (s : State) (os : List Outgoing) : State :=
  let l := s.core.link
  let needed (t : Stream) : Bool := os.any fun o => o.dst == t.dst && o.vc == t.vc
  if l.streams.length + newStreams l os [] ≤ 64 || s.hawser || decide (64 ≤ l.retry.length) || l.streams.any (·.closing) then s
  else
    match l.streams.find? fun t => s.closable t && !needed t with
    | none => s
    | some t =>
      let s := s.inject { dst := t.dst, vc := t.vc, body := .close }
      { s with core := { s.core with link := { s.core.link with
          streams := s.core.link.streams.map fun u => if u.dst == t.dst && u.vc == t.vc then { u with closing := true } else u } } }

/-- Injects the packets of a bundle, or holds issue (R158); a bundle without packets does not wait. -/
def State.send (s : State) (os : List Outgoing) (k : State → Out) : Out :=
  if os.isEmpty || s.canSend os then k (os.foldl State.inject s) else (s.makeRoom os).stall

/-- A packet that no retry buffer holds: a reply on VC2, a notice on VC7 (R165). -/
def State.notice (s : State) (p : Packet) : State := { s with net := s.net ++ [p] }

/-- The reply of an endpoint to a packet: on VC2, to its core, with its number and VC (R156 ASEQ, STAT). -/
def replyTo (p : Packet) (gen : BitVec 16) (b : Body) : Packet :=
  { p with vc := 2, dst := p.src, dcore := p.score, src := p.dst, score := p.dcore, avc := p.vc, opn := false, age := 0, gen := gen,
           body := b, hop := none, esc := false, trail := [], sent := 0, taken := 0 }

/-- The handle of the tile that a reply comes from; 0 for a quay and an engine (R156 SHND). -/
def State.replier (s : State) (e : Endpoint) : W32 :=
  match e with
  | .tile x y => (s.tileAt (.grid x y)).tile.hnd
  | _ => 0

/-- Whether a packet comes from a spill queue, which has acknowledged it (R184). -/
def spilled (p : Packet) : Bool := p.taken == 1 || p.taken == 2

/-- A reply, with the tags of the team that it goes to (R156). What a spill queue has taken is acknowledged only once (R185). -/
def State.reply (s : State) (p : Packet) (b : Body) : State :=
  if spilled p && (match b with | .ack _ => true | _ => false) then s
  else s.notice { replyTo p s.routeGen b with
    rhnd := s.replier p.dst, ttag := (match p.dst with | .tile _ _ => p.ttag | _ => p.stag) }

/-- A request of the core in focus to the quay of its region: an entry of KIND 7 and a packet on VC0 (R165, 15 R369, R384). -/
def State.askQuay (s : State) (i : Instr) (k : Fin 13) (w1 w2 : Word) : Out :=
  s.withEntry fun n => s.send [{ dst := .quay s.myRegion, vc := 0, ent := n.val, body := .ask k w1 w2 }] fun s =>
    let e := { s.newEntry i 7 w1 w2 with fabric := true, req := s.core.link.req }
    .next (State.retire { s with core := bumpReq (s.core.setEntry n e) })

/-! ### Acknowledgement (07 R177) -/

/-- The stream entry of a close that was acknowledged is freed (R179). -/
def LinkState.closed (l : LinkState) (p : Packet) : LinkState :=
  match p.body with
  | .close => { l with streams := l.streams.filter fun t => !(t.closing && t.dst == p.dst && t.vc == p.vc) }
  | _ => l

/-- Frees the retry entry that a reply answers, and says whether there was one. -/
def LinkState.free (l : LinkState) (p : Packet) : LinkState × Option RetryEntry :=
  match l.retry.find? fun r => r.pkt.dst == p.src && r.pkt.vc == p.avc && r.pkt.seq == p.seq with
  | none => (l, none)
  | some r => (({ l with retry := l.retry.erase r } : LinkState).closed r.pkt, some r)

/-! ### Results of long operations -/

def sextTo (n : Nat) (v : Nat) : Word := BitVec.signExtend 64 (BitVec.ofNat n v)

def sizeBytes : Size → Nat
  | .b => 1 | .h => 2 | .w => 4 | .d => 8

/-- The scalar that a load or an atomic writes from the bytes it read: 0 where a byte is poisoned (R120, R126, R191). -/
def scalarResult (i : Instr) (bs : List PByte) : Word :=
  if bs.any (·.2) then 0
  else
    let v := leNat (bs.map (·.1))
    match i with
    | .ldw _ _ _ _ => sextTo 32 v
    | .ldxs z _ _ _ _ =>
      (match z with | .b => sextTo 8 v | .h => sextTo 16 v | .w => sextTo 32 v | .d => sextTo 64 v)
    | .amoaAdd _ _ _ w _ | .amoaAnd _ _ _ w _ | .amoaOr _ _ _ w _ | .amoaXor _ _ _ w _ | .amobMin _ _ _ w _
    | .amobMax _ _ _ w _ | .amobMinu _ _ _ w _ | .amobMaxu _ _ _ w _ | .amobSwap _ _ _ w _ =>
      if w then sextTo 32 v else BitVec.ofNat 64 v
    | .casW _ _ _ _ => sextTo 32 v
    | _ => BitVec.ofNat 64 v

/-- The bytes of a load that its mask selects (R123); without a mask, all. -/
def maskBytes (mask : Word) (bs : List PByte) : List (Option PByte) :=
  (upto bs.length).map fun j => if mask.getLsbD j then bs[j]? else none

/-- All 16 rows of a tile register from 1,024 bytes. -/
def tileOfBytes (bs : List PByte) : TileReg :=
  { live := true, rows := Vector.ofFn fun i => RowVal.ofBytes ((bs.drop (64 * i.val)).take 64) }

/-- Writes a whole tile register. -/
def Core.setT (c : Core) (t : Nat) (v : TileReg) : Core :=
  if h : t < 16 then { c with rf := { c.rf with t := vput c.rf.t ⟨t, h⟩ v } } else c

/-- The scalars that an operation writes with one result (R369 word 3). -/
def resultReg (i : Instr) : Option SReg :=
  match i with
  | .div d _ _ | .rem d _ _ | .divu d _ _ | .remu d _ _ | .divw d _ _ | .remw d _ _ | .divuw d _ _ | .remuw d _ _ => some d
  | .ldw d _ _ _ | .ldd d _ _ _ => some d
  | .ldx _ d _ _ _ | .ldxs _ d _ _ _ | .cld _ d _ _ _ => some d
  | .amoaAdd d _ _ _ _ | .amoaAnd d _ _ _ _ | .amoaOr d _ _ _ _ | .amoaXor d _ _ _ _ | .amobMin d _ _ _ _ | .amobMax d _ _ _ _
  | .amobMinu d _ _ _ _ | .amobMaxu d _ _ _ _ | .amobSwap d _ _ _ _ | .casW d _ _ _ | .casD d _ _ _ => some d
  | .phnew d _ | .phreg d _ _ | .phqry d _ | .phwait d _ _ | .phaw d _ _ | .bar d _ _ | .barw d _ _ | .plq d _ => some d
  | _ => none

/-! ### Loading a moment register (13 R327) -/

/-- Element (i, j) of the two layouts: mean, variance and whether it came from poison. -/
def kldElem (mp32 : Bool) (bs : List PByte) (i j : Nat) : Nat × Nat × Bool :=
  let val (o n : Nat) : Nat := leNat (((bs.drop o).take n).map (·.1))
  let bad (o n : Nat) : Bool := ((bs.drop o).take n).any (·.2)
  if mp32 then
    let o := 128 * i + 8 * j
    (val o 4, val (o + 4) 4, bad o 8)
  else
    let o := 32 * i + 2 * j
    (65536 * val o 2, 65536 * val (512 + o) 2, bad o 2 || bad (512 + o) 2)

/-- The register that a KLD loads. -/
def kldReg16 (mp32 : Bool) (bs : List PByte) : MomentReg :=
  { live := true
    rows := Vector.ofFn fun i =>
      let es := (upto 16).map fun j => kldElem mp32 bs i.val j
      let bits := (es.foldl (fun (a : Nat × Nat) e => (a.1 + (e.1 + 2 ^ 32 * e.2.1) * 2 ^ (64 * a.2), a.2 + 1)) (0, 0)).1
      let q (n : Nat) : Nat := if ((es.drop (4 * n)).take 4).any (fun e => e.2.2) then 2 ^ n else 0
      { bits := BitVec.ofNat 1024 bits, bad := BitVec.ofNat 4 (q 0 + q 1 + q 2 + q 3) } }

/-- The KLD that an entry holds: its layout and its register. -/
def kldOf (i : Instr) : Option (Bool × KReg) :=
  match i with
  | .kldMp32 d _ => some (true, d)
  | .kldMb16 d _ => some (false, d)
  | _ => none

/-- The lowest element of a KLD whose variance has its sign set and is neither -0 nor a NaN (R319 case 1). -/
def kldFault (mp32 : Bool) (bs : List PByte) : Option (Nat × Nat) :=
  ((upto 16).map fun i => (upto 16).map fun j => (i, j)).flatten.find? fun p =>
    let e := kldElem mp32 bs p.1 p.2
    !e.2.2 && decide (0x80000000 < e.2.1) && decide (e.2.1 ≤ 0xFF800000)

/-- Writes the result of an entry, unless the latch that it loads has had a later result (10 R268): its word 3 for a scalar, s1 and s2 for QSVC, the pair for ALLOC, the bytes it holds for rows and
tile registers (R369, R370). -/
def Core.writeResult (c : Core) (sel : CoreSel) (e : Entry) (i : Instr) : Core :=
  match i with
  | .ldr d _ _ p _ => if e.late then c else c.setRow (rowSel sel d p.base p.bank e.next.toNat) (RowVal.ofBytes e.buf)
  | .lds d _ _ p _ =>
    let x := rowSel sel d p.base p.bank e.next.toNat
    if e.late then c else c.setRow x ((c.rowVal x 8 0).merge (maskBytes e.w2 e.buf))
  | .ldt t _ _ _ => c.setT t.val (tileOfBytes e.buf)
  | .alloc d _ _ => (c.setS d e.w3).setS (pairOf d) e.cap
  | .qsvcPing | .qsvcMap | .qsvcUnmap | .qsvcGroup | .qsvcYield | .qsvcReport | .qsvcDebug | .qsvcUnknown =>
    (c.setS 1 e.w2).setS 2 e.w3
  | i => match kldOf i with
    | some (m, d) => { c with rf := { c.rf with k := vput c.rf.k d (kldReg16 m e.buf) } }
    | none =>
      match resultReg i with
      | some d => c.setS d e.w3
      | none => c

/-- Whether the data of an entry came from poison (R126). -/
def Entry.tainted (e : Entry) : Bool :=
  match e.op with
  | some (.lds _ _ _ _ _) => (maskBytes e.w2 e.buf).any fun b => match b with | some x => x.2 | none => false
  | _ => e.buf.any (·.2)

/-- After an iteration of a REP bundle of loads: the bundle goes on at the next index; after its last retirement the entry is freed
(R97). -/
def State.entryDone (s : State) (n : Fin 8) : State :=
  let e := s.core.rq[n]
  if e.next.toNat + 1 < e.count.toNat then
    { s with core := (s.core.setEntry n { e with next := e.next + 1, st := 0, fabric := false, parts := [], buf := [], w3 := 0 }) }
  else { s with core := s.core.dropEntry n }

/-- A KLD whose data hold a negative variance writes nothing and stays in the replay queue; the core takes NVF at its next bundle
boundary (13 R319, R327). -/
def State.deferKld (s : State) (n : Fin 8) (p : Nat × Nat) : State :=
  let e := s.core.rq[n]
  let c := s.core.setEntry n { e with st := 0, fabric := false, buf := [], parts := [] }
  let va : Word := BitVec.ofNat 64 (e.bofs.toNat + 2 ^ 24 * p.1 + 2 ^ 28 * p.2 + 2 ^ 33)
  let dfr := match c.tr.deferred with | some x => some x | none => some { cause := .nvf, va := va }
  { s with core := { c with tr := { c.tr with deferred := dfr } } }

/-- The element at which the entry's KLD faults. -/
def Entry.kldFault (e : Entry) (i : Instr) : Option (Nat × Nat) :=
  match kldOf i with
  | some (m, _) => Sys2Proof.Machine.kldFault m e.buf
  | none => none

/-! ### Lockstep (14 R350-R353) -/

def rowWords (v : RowVal) : List Word := (upto 8).map fun j => v.bits.extractLsb' (64 * j) 64

/-- The row registers that differ, as doublewords. -/
def RowFile.changes (a b : RowFile) : List Word :=
  let rows (x y : Vector RowVal 16) : List Word := if x == y then [] else y.toList.flatMap rowWords
  (((upto 16).flatMap fun i => match a.t[i]?, b.t[i]? with | some x, some y => if x == y then [] else y.rows.toList.flatMap rowWords | _, _ => []) ++
    ((upto 4).flatMap fun i => match a.o[i]?, b.o[i]? with | some x, some y => if x == y then [] else rowWords y.val | _, _ => [])) ++
    (if a.l == b.l then [] else rowWords b.l.val) ++
    ((upto 8).flatMap fun i => match a.c[i]?, b.c[i]? with | some x, some y => rows x.rows y.rows | _, _ => []) ++
    (upto 8).flatMap fun i => match a.k[i]?, b.k[i]? with
      | some x, some y => if x == y then [] else y.rows.toList.flatMap fun v => (upto 16).map fun j => v.bits.extractLsb' (64 * j) 64
      | _, _ => []

/-- The pointer and the data of a packet. -/
def Body.words : Body → List Word
  | .msg _ _ _ _ _ _ bs _ => bs.map (·.zeroExtend 64)
  | .read _ o n => [BitVec.ofNat 64 o, BitVec.ofNat 64 n]
  | .write o bs => BitVec.ofNat 64 o :: bs.map fun b => match b with | some v => v.1.zeroExtend 64 | none => 256
  | .atomic _ _ _ o x e => [BitVec.ofNat 64 o, x, e]
  | .phArrive r | .phWait r | .phReg r | .phQry r => [BitVec.ofNat 64 r.slot, r.phase.zeroExtend 64]
  | .writeBack o bs _ => BitVec.ofNat 64 o :: bs.map (·.zeroExtend 64)
  | .ask k w1 w2 => [BitVec.ofNat 64 k.val, w1, w2]
  | _ => []

/-- The state registers of a core, as doublewords. -/
def Srs.words (r : Srs) : List Word :=
  [r.conv, r.mctl, r.tola, r.tolr, r.fmta, r.fmtb, r.scla, r.sclb, r.gtb, r.kmd, r.krho, r.ffl, r.fctl, r.tvec, r.brth, r.msgh, r.iab0, r.iab1,
    r.trctl]

/-- The rows of accumulators, as doublewords. -/
def RowFile.accWords (r : RowFile) (ns : List Nat) : List Word :=
  ns.flatMap fun n => match r.c[n]? with | some x => x.rows.toList.flatMap rowWords | none => []

/-- What a retirement that leads from s to t writes and sends, as doublewords: scalars, state registers, row registers, bytes of the slice,
packets (R351). A register that is written with what it holds adds nothing to the digest: log entry 44 (DESIGN CHOICE). -/
def State.effects (s t : State) : List Word :=
  (([1, 2, 3, 4, 5, 6, 7, 8, 9, 10, 11, 12, 13, 14, 15] : List SReg).filter fun r => s.core.S r != t.core.S r).flatMap (fun r =>
      [BitVec.ofNat 64 r.val, t.core.S r]) ++
    (if s.core.sr == t.core.sr then [] else t.core.sr.words) ++
    s.core.rf.changes t.core.rf ++
    (if s.tile.slice == t.tile.slice then []
      else ((s.tile.slice.filter fun c => !t.tile.slice.contains c) ++ t.tile.slice.filter fun c => !s.tile.slice.contains c).flatMap fun c =>
        [BitVec.ofNat 64 c.1, (t.tile.slice.read c.1).zeroExtend 64]) ++
    (t.net.filter fun p => !s.net.contains p).flatMap fun p => BitVec.ofNat 64 (p.vc.val + 8) :: Body.words p.body

/-- The digests of a primary core and of its partner, which does the same unless an error upsets it (R351). -/
def Core.digests (c : Core) (ws : List Word) : Word × Word :=
  let d := Config.digest ws
  (d, if c.upset == 0 then d else d + 1)

/-- Whether a step from s to t issued a bundle that has not retired: it took an entry, and wrote and sent nothing. -/
def State.onlyIssued (s t : State) : Bool := decide (s.core.claims.length < t.core.claims.length) && (s.effects t).isEmpty

/-- The comparison at a retirement that leads from s to t, by the bundle at `bofs` (R351-R353), on a digest of `own` and of what it writes
and sends: every bundle is compared, and what agrees is committed. After a first
mismatch neither copy commits, and both execute the bundle again with its captured operands: where they then agree, it is committed and
CKI.LSM set; where they do not, the open region unwinds, or the context is killed. Log entry 44 (DESIGN CHOICE). -/
def State.compared (s t : State) (bofs : BitVec 19) (own : List Word := []) : State :=
  if !s.tile.modes.lockstep || decide (t.core.frames.length < s.core.frames.length) || s.onlyIssued t then t
  else
    let d := s.core.digests (own ++ s.effects t)
    if d.1 == d.2 then t
    else if s.core.upset == 1 then
      { t with core := { t.core with upset := 0 }, tile := { t.tile with cki := ckiSet t.tile.cki 4 } }
    else
      let s := { s with core := { s.core with upset := 0 } }
      if s.core.inRegion then s.unwind .lsm bofs
      else s.killContext true s.tile.ctx 3 .lsm (bofs.zeroExtend 64) (bofs.zeroExtend 64)

/-! ### Retirement of an entry -/

/-- Retires the operation of an entry, whose result is ready (R126, R344, R370); under lockstep it is compared (14 R351). -/
def State.retireEntry (s : State) (n : Fin 8) : State :=
  let e := s.core.rq[n]
  match e.op with
  | none => { s with core := s.core.dropEntry n }
  | some i =>
    match e.kldFault i with
    | some p => s.deferKld n p
    | none => s.compared (s.consume e.tainted e.bofs fun s => ({ s with core := s.core.writeResult s.sel e i } : State).entryDone n) e.bofs

/-- The result of an entry is ready: it is written, or captured while the entry is frozen (R370). -/
def State.settle (s : State) (n : Fin 8) : State :=
  let e := s.core.rq[n]
  if s.core.frozen e then { s with core := s.core.setEntry n { e with st := 1, fabric := false } } else s.retireEntry n

/-- A scalar result is ready. -/
def State.settleWord (s : State) (n : Fin 8) (v : Word) : State :=
  let e := s.core.rq[n]
  State.settle { s with core := s.core.setEntry n { e with w3 := v } } n

/-- Puts the bytes of a part into the bytes that a load has received. -/
def putBytes (buf : List PByte) (pos : Nat) (bs : List PByte) : List PByte := buf.take pos ++ bs ++ buf.drop (pos + bs.length)

/-- A part of the data of a load has arrived. -/
def State.dataArrived (s : State) (n : Fin 8) (pos : Nat) (bs : List PByte) : State :=
  let e := s.core.rq[n]
  let e := { e with buf := putBytes e.buf pos bs, parts := e.parts.filter (·.1 != pos) }
  let e := match e.op with
    | some i => if (resultReg i).isSome then { e with w3 := scalarResult i e.buf } else e
    | none => e
  let s := { s with core := s.core.setEntry n e }
  if e.parts.isEmpty then s.settle n else s

end Sys2Proof.Machine
end

