-- ==== Sys2Proof/Machine/Access.lean ====
section
/-! DEFINITION. Accesses to memory: the own slice, the slices of the team, edge memory, NET and QUAY windows (05_memory R111-R126,
R136, R137, 08_sync R198, 14_reliability R349, R354). -/

namespace Sys2Proof.Machine

/-! ### Signatures (14 R347) -/

def Core.fold (c : Core) (vs : List Word) : Core := { c with sig := vs.foldl foldSig c.sig }

/-- Whether stores, atomics and messages fold (R349). -/
def State.folds (s : State) : Bool := s.tile.modes.storeFold || s.tile.modes.paired

/-- The folds of R349, taken at issue. -/
def State.fold (s : State) (vs : List Word) : State := if s.folds then { s with core := s.core.fold vs } else s

/-- Bytes as doublewords, zero-extended below 8 bytes. -/
def wordsOf : List Byte → List Word
  | b0 :: b1 :: b2 :: b3 :: b4 :: b5 :: b6 :: b7 :: bs => BitVec.ofNat 64 (leNat [b0, b1, b2, b3, b4, b5, b6, b7]) :: wordsOf bs
  | [] => []
  | bs => [BitVec.ofNat 64 (leNat bs)]

/-- Bytes as they fold: a byte of a half that carries poison folds as zero (R347). -/
def foldBytes (bs : List PByte) : List Word := wordsOf (bs.map fun b => if b.2 then 0 else b.1)

/-! ### Places -/

/-- Where a part of an access is performed: the own slice, an endpoint of the fabric, a window of the quay. -/
inductive Place where
  | here (o : Nat)
  | at (e : Endpoint) (o : Nat)
  | quay (o : Nat)
  deriving DecidableEq, Repr, Inhabited

/-- A placed part: its position in the access, its place and its length. -/
structure Part1 where
  pos : Nat
  place : Place
  len : Nat
  deriving DecidableEq, Repr, Inhabited

def segParts (pos : Nat) : List (Endpoint × Nat × Nat) → List Part1
  | [] => []
  | (e, o, n) :: r => { pos := pos, place := .at e o, len := n } :: segParts (pos + n) r

def targetParts (pos n : Nat) : Target → List Part1
  | .slice o => [{ pos := pos, place := .here o, len := n }]
  | .tile x y o => [{ pos := pos, place := .at (.tile x y) o, len := n }]
  | .far _ segs => segParts pos segs
  | .quay o => [{ pos := pos, place := .quay o, len := n }]

/-- Resolves the parts (position, pointer, length) of an access, all before any byte moves (R112, R113). -/
def State.placeAll (write : Bool) : List (Nat × Word × Nat) → State → Chk (List Part1 × State)
  | [], s => .ok ([], s)
  | (pos, p, n) :: r, s =>
    (s.resolve p n write).bind fun (t, s) =>
      (State.placeAll write r s).bind fun (ps, s) => .ok (targetParts pos n t ++ ps, s)

/-- Whether a part is performed elsewhere, by a packet (R111, R136). -/
def Part1.isFar (p : Part1) : Bool := match p.place with | .here _ => false | _ => true

/-- Whether a part lies in a window of the quay. -/
def Part1.isQuay (p : Part1) : Bool := match p.place with | .quay _ => true | _ => false

/-- Whether a part touches a slot whose RPSH by the core is not performed yet: the store comes first (06 R141). -/
def State.slotPending (s : State) (ps : List Part1) : Bool :=
  s.core.rpsh.any fun q => !q.bytes.isEmpty && ps.any fun p => match p.place with
    | .here o =>
      let a := (s.tile.ring q.ring).slotAt q.slot
      decide (o < a + 1024) && decide (a < o + p.len)
    | _ => false

/-! ### Leases around plain accesses (08 R198) -/

/-- The home recalls a lease: a notice on VC7 to the lessee, once. -/
def State.recall (s : State) (d : LeaseDir) : State :=
  if d.recalled then s
  else
    let s := { s with tile := { s.tile with leaseDir := s.tile.leaseDir.map fun e => if e == d then { e with recalled := true } else e } }
    s.notice { s.packet (.tile d.x d.y) 7 .stage 0 false 8 0 (.recall d.sector) with ttag := s.tile.ttag }

/-- A lease that the home has given out on a sector of one of the parts. -/
def State.leaseHere (s : State) (ps : List Part1) : Option LeaseDir :=
  ps.findSome? fun p => match p.place with
    | .here o => s.tile.leasedOut o p.len
    | _ => none

/-- An access to n bytes at o of the own slice waits for a lease that is out on one of their sectors, which is recalled (R198). -/
def State.recallOwn (s : State) (o n : Nat) : Chk Unit :=
  match s.tile.leasedOut o n with
  | some d => .wait (s.recall d)
  | none => .ok ()

/-- The leases of this tile that its own plain access returns first. -/
def State.leasesOf (s : State) (ps : List Part1) : List Lease :=
  s.tile.leases.filter fun l => ps.any fun p => match p.place with
    | .at (.tile x y) o => l.x == x && l.y == y && (sectors o p.len).contains l.sector
    | _ => false

def writeBackOf (l : Lease) : Outgoing := { dst := .tile l.x l.y, vc := 1, body := .writeBack l.sector l.bytes l.bad }

/-- Whether a core has a request outstanding that may still bring a lease of the sector. Log entry 39 (DEDUCED). -/
def Core.mayLease (c : Core) (e : Endpoint) (sec : Nat) : Bool :=
  c.link.retry.any fun r => r.pkt.dst == e && (match r.pkt.body with | .atomic _ _ l o _ _ => l && o / 32 == sec | _ => false)

/-- Whether a core has an unanswered access to the sector. -/
def Core.uses (c : Core) (e : Endpoint) (sec : Nat) : Bool :=
  c.link.retry.any fun r => r.pkt.dst == e && (match r.pkt.body with
    | .read _ o n => (sectors o n).contains sec
    | .write o bs => (sectors o bs.length).contains sec
    | .atomic _ _ _ o _ _ => o / 32 == sec
    | _ => false)

/-- Whether a lease may be on its way for a sector that a plain access touches: the access waits for it, to return it first (R198). -/
def State.grantPending (s : State) (ps : List Part1) : Bool :=
  ps.any fun p => match p.place with
    | .at (.tile x y) o => (sectors o p.len).any fun sec => s.core.mayLease (.tile x y) sec || s.peer.mayLease (.tile x y) sec
    | _ => false

def State.dropLeases (s : State) (ls : List Lease) : State :=
  { s with tile := { s.tile with leases := s.tile.leases.filter fun l => !ls.contains l } }

/-! ### Tokens (15 R381, R382) -/

/-- Charges the context of the tile in focus. -/
def State.charge (s : State) (k : Fin 3) (n : Nat) : State :=
  (s.modTile fun t => t.addCharge k n).chargeCtx (s.quayFor s.tile.ctx s.tile.ttag) s.tile.ctx k n

/-- 32 bytes for each sector of EDGE or NET space that the access touches. -/
def State.chargeParts (s : State) (ps : List Part1) : State :=
  let n := ps.foldl (fun n p => match p.place with
    | .at (.module _) o | .at (.engine _) o => n + 32 * (sectors o p.len).length
    | _ => n) 0
  if n == 0 then s else s.charge 1 n

/-! ### QUAY windows (15 R360, R389, R390) -/

def TraceRecord.bytes (r : TraceRecord) : List Byte :=
  leBytes 8 r.hnd.toNat ++ leBytes 8 r.site.toNat ++ leBytes 8 r.cyc.toNat ++ leBytes 8 r.w3.toNat

/-- The byte at an offset of the region's trace buffer: record k stands at place k mod 1024; a record of another partition reads as
zero (R389, R390). -/
def Region.traceByte (r : Region) (part o : Nat) : Byte :=
  let first := r.traced - r.trace.length
  let k := (o / 32 + 1024 - first % 1024) % 1024
  match r.trace[k]? with
  | some t => if t.part == part then (t.bytes[o % 32]?).getD 0 else 0
  | none => 0

/-- Log entry 63 (DESIGN CHOICE). -/
def Region.meterByte (r : Region) (o : Nat) : Byte :=
  let c := Config.meterSlot (o / 8)
  match r.meter.find? fun m => m.1 == c.1 with
  | some (_, e, t, b) => ((leBytes 8 (match c.2 with | 0 => e | 1 => t | 2 => b))[o % 8]?).getD 0
  | none => 0

/-- Who asks for a window of a quay: the region, the context, the partition, and the number of the first forwarding slot of the tile. -/
structure Asker where
  reg : Nat
  ctx : Nat
  part : Nat
  slot : Nat

/-- The asker of a packet: its tile's rank by its handle. -/
def State.askerOf (s : State) (reg : Nat) (p : Packet) : Asker :=
  let t := (s.teams.find? fun t => t.ctx == p.ctx && t.tag == p.stag).getD {}
  { reg := reg, ctx := p.ctx, part := p.part, slot := 2 * (t.handles.findIdx fun h => h == p.shnd) + 8192 * t.tag }

/-- A byte of a window. Log entry 63 (DESIGN CHOICE). -/
def State.quayByte (s : State) (a : Asker) (o : Nat) : Byte :=
  if o < 0x1000 then ((s.ctx a.ctx).ctl.find o).getD (Config.ctlByte a.ctx o)
  else if o < 0x20000 then (s.region a.reg).traceByte a.part (o - 0x10000)
  else if o < 0x30000 then (s.region a.reg).meterByte (o - 0x20000)
  else (Tab.get (s.ctx a.ctx).fslots [] (a.slot + (o - 0x30000) / 512)).read ((o - 0x30000) % 512)

def State.quayPut (s : State) (a : Asker) (o : Nat) (b : Byte) : State :=
  let x := s.ctx a.ctx
  if o < 0x1000 then s.putCtx a.ctx { x with ctl := Tab.put x.ctl o b }
  else
    let k := a.slot + (o - 0x30000) / 512
    s.putCtx a.ctx { x with fslots := Tab.put x.fslots k ((Tab.get x.fslots [] k).write ((o - 0x30000) % 512) b) }

/-- The asker that the tile in focus is. -/
def State.asker (s : State) : Asker := { reg := s.myRegion, ctx := s.tile.ctx, part := s.tile.part, slot := 2 * s.tile.rank + 8192 * s.tile.ttag }

/-! ### Performing in the own slice -/

/-- Reads the parts that are performed here: the check bits of the words read (R125), then the bytes. Log entry 89 (DESIGN CHOICE). -/
def State.readHere : List Part1 → State → List (Nat × List PByte) × State
  | [], s => ([], s)
  | p :: r, s =>
    match p.place with
    | .here o =>
      let t := s.tile.ecc s.fresh o p.len
      let s := { s with tile := t, fresh := if s.tile.flips.isEmpty then s.fresh else s.fresh + 1 }
      let x := State.readHere r s
      ((p.pos, t.bytes o p.len) :: x.1, x.2)
    | _ => State.readHere r s

/-- The bytes of an access of n bytes from its parts. -/
def gather (n : Nat) (xs : List (Nat × List PByte)) : List PByte :=
  xs.foldl (fun b x => putBytes b x.1 x.2) (List.replicate n (0, false))

/-- The part of the bytes of a store. -/
def Part1.cut (p : Part1) (bs : List (Option PByte)) : List (Option PByte) := (bs.drop p.pos).take p.len

/-- Performs the parts of a store here. -/
def State.writeHere (bs : List (Option PByte)) : List Part1 → State → State
  | [], s => s
  | p :: r, s =>
    match p.place with
    | .here o =>
      let t := s.tile.store s.fresh o (p.cut bs)
      State.writeHere bs r { s with tile := t, fresh := if s.tile.flips.isEmpty then s.fresh else s.fresh + 1 }
    | _ => State.writeHere bs r s

/-- The request of a load's part: on VC1, to the quay of the region on VC0 (R111). -/
def Part1.readReq (p : Part1) (reg ent : Nat) : List Outgoing :=
  match p.place with
  | .at e o => [{ dst := e, vc := 1, ent := ent, body := .read p.pos o p.len }]
  | .quay o => [{ dst := .quay reg, vc := 0, ent := ent, body := .read p.pos o p.len }]
  | .here _ => []

def Part1.writeReq (p : Part1) (reg : Nat) (bs : List (Option PByte)) : List Outgoing :=
  match p.place with
  | .at e o => [{ dst := e, vc := 1, body := .write o (p.cut bs) }]
  | .quay o => [{ dst := .quay reg, vc := 0, body := .write o (p.cut bs) }]
  | .here _ => []

/-- Whether a store here meets a held slot (R137). -/
def State.heldHere (s : State) (bs : List (Option PByte)) (ps : List Part1) : Bool :=
  ps.any fun p => match p.place with
    | .here o => s.tile.heldWrite o (p.cut bs)
    | _ => false

/-! ### The shape of a load and of a store -/

/-- The POI bit alone: an instruction that copies poison, a forced operation (R344). -/
def State.copied (s : State) (b : Bool) : State := if b then { s with tile := { s.tile with cki := ckiSet s.tile.cki 0 } } else s

/-- The requests of a remote load leave, and its entry holds the parts outstanding (R136). -/
def State.sendLoad (s : State) (n : Fin 8) (e : Entry) (total : Nat) (ps : List Part1) (k : State → State) : Out :=
  let ls := s.leasesOf ps
  if s.grantPending ps then s.stall
  else s.send (ls.map writeBackOf ++ (ps.map fun p => p.readReq s.myRegion n.val).flatten) fun s =>
    let e := { e with fabric := true, req := s.core.link.req, parts := ps.map fun p => (p.pos, p.len),
                      buf := List.replicate total (0, false) }
    let c := { (s.core.setEntry n e) with link := { s.core.link with req := s.core.link.req + 1 } }
    .next (k (({ s with core := c }.dropLeases ls).chargeParts ps))

/-- A load by pointer parts. Performed here it gets its bytes at once; elsewhere it takes an entry and its requests leave (R136). Log entry 62 (DEDUCED). -/
def State.load (s : State) (i : Instr) (x : Option Xsc) (parts : List (Nat × Word × Nat)) (total : Nat) (w1 w2 : Word)
    (k : State → List PByte → Out) : Out :=
  if !s.orderReady x then s.stall
  else
    (State.placeAll false parts s).run s fun (ps, s) =>
      if s.slotPending ps then s.stall
      else if ps.any Part1.isFar then
        s.withEntry fun n =>
          s.sendLoad n { s.newEntry i 2 w1 w2 with acq := Xsc.isAcq x } total ps State.retire
      else
        match s.leaseHere ps with
        | some d => (s.recall d).stall
        | none =>
          let y := State.readHere ps s
          k y.2 (gather total y.1)

/-- A store of bytes to pointer parts: here it is performed at once, but not into a held slot; elsewhere it is posted (R136, R137).
Poisoned bytes pass on their poison and set CKI.POI (R344). Log entry 69 (DESIGN CHOICE). Log entry 62 (DEDUCED). -/
def State.storeTo (s : State) (x : Option Xsc) (parts : List (Nat × Word × Nat)) (bs : List (Option PByte)) (folded : List Word)
    (k : State → Out) : Out :=
  if !s.orderReady x then s.stall
  else
    (State.placeAll true parts s).run s fun (ps, s) =>
      if s.heldHere bs ps || s.slotPending ps then s.stall
      else
        match s.leaseHere ps with
        | some d => (s.recall d).stall
        | none =>
          let ls := s.leasesOf ps
          if s.grantPending ps then s.stall
          else s.send (ls.map writeBackOf ++ (ps.map fun p => p.writeReq s.myRegion bs).flatten) fun s =>
            let s := if ps.any Part1.isQuay then { s with core := bumpReq s.core } else s
            k ((((State.writeHere bs ps (s.dropLeases ls)).chargeParts ps).fold folded).copied
              (bs.any fun b => match b with | some x => x.2 | none => false))

/-- Whether a base pointer names something other than the own slice (R111). -/
def State.isFarPtr (s : State) (p : Word) : Bool :=
  !(ptrSpace p == 0 || (ptrSpace p == 1 && ptrRank p == s.tile.rank))

/-- The pointer of iteration i of a repeated access, from the captured base scalar and displacement, or from word 1 where a handler
changed it (R95, R369). -/
def repPtr (cap w1 : Word) (disp : Int) (far : Bool) (step i : Nat) : Chk Word :=
  if far && ea cap disp != some w1 then eaChk w1 (step * i : Nat) else eaChk cap (disp + (step * i : Nat))

/-- Whether the bundle is a load of rows by KIND 2: one under way is what its entry says, another by its base pointer. -/
def State.isFarRep (s : State) (base : Word) : Bool :=
  match s.core.issuing with
  | some e => s.core.rq[e].kind == 2
  | none => s.isFarPtr base

/-- The data of an entry's access: from here at once, or by requests that leave. -/
def State.loadInto (s : State) (n : Fin 8) (e : Entry) (total : Nat) (ps : List Part1) (k : State → State) : Out :=
  if s.slotPending ps then s.stall
  else if ps.any Part1.isFar then s.sendLoad n e total ps k
  else
    match s.leaseHere ps with
    | some d => (s.recall d).stall
    | none =>
      let y := State.readHere ps s
      let w3 := match e.op with
        | some i => if (resultReg i).isSome then scalarResult i (gather total y.1) else e.w3
        | none => e.w3
      .next ((k (y.2.putEntry n { e with buf := gather total y.1, w3 := w3 })).retireEntry n)

/-- A load of rows that may carry REP, to another tile or to edge memory: KIND 2, one iteration in the fabric at a time (R97). -/
def State.farLoadRep (s : State) (i : Instr) (rep : Rep) (x : Option Xsc) (cap w2 : Word) (disp : Int)
    (parts : Nat → Word → List (Nat × Word × Nat)) (ok : State → Nat → Chk Unit) (free : State → Nat → Bool) : Out :=
  let step (s : State) (n : Fin 8) (e : Entry) : Out :=
    let j := e.next.toNat
    if !free s j then s.stall
    else if !s.orderReady (match x with | some y => if j == 0 then some y else none | none => none) then s.stall
    else
      (ok s j).run s fun _ =>
        (repPtr e.cap e.w1 disp true 64 j).run s fun p =>
          (State.placeAll false (parts j p) s).run s fun (ps, s) =>
            let e := { e with resume := false, op := some i }
            if j + 1 < e.count.toNat then s.loadInto n { e with issuing := true } 64 ps fun s => { s with core := { s.core with issued := true } }
            else s.loadInto n { e with issuing := false, acq := Xsc.isAcq x } 64 ps State.retire
  match s.core.issuing with
  | some n =>
    let e := s.core.rq[n]
    if e.fabric || e.st != 0 then s.stall else step s n e
  | none =>
    if !repReady s.core rep then s.stall
    else
      let c := repCount s.core rep
      if 65535 < c then s.trapB .rgf s.core.pc
      else if c == 0 then .next s.retire
      else
        (eaChk cap disp).run s fun w1 =>
          s.withEntry fun n => step s n { s.newEntry i 2 w1 w2 with cap := cap, count := BitVec.ofNat 16 c }

end Sys2Proof.Machine
end

