-- ==== Sys2Proof/Machine/Memory.lean ====
section
/-! DEFINITION. Loads and stores (05_memory R120-R126, R136, R137). -/

namespace Sys2Proof.Machine

/-! ### Scalars (R120) -/

/-- A scalar load by pointer check. -/
def State.loadScalar (s : State) (i : Instr) (d : SReg) (reads : List SReg) (p : Chk Word) (n : Nat) (x : Option Xsc) : Out :=
  if !s.core.ready (d :: reads) then s.stall
  else p.run s fun p =>
    s.load i x [(0, p, n)] n p 0 fun s bs =>
      .next (s.consume (bs.any (·.2)) s.core.bofs fun s => (s.setS d (scalarResult i bs)).retire)

/-- A scalar store by pointer check: the low n bytes of v. -/
def State.storeScalar (s : State) (reads : List SReg) (p : Chk Word) (n : Nat) (v : Word) (x : Option Xsc) : Out :=
  if !s.core.ready reads then s.stall
  else p.run s fun p =>
    let bs := leBytes n v.toNat
    s.storeTo x [(0, p, n)] (plain bs) (p :: wordsOf bs) fun s => .next s.retire

/-- p := ea(S(a), sext(S(b))*n) (R120). -/
def State.indexed (s : State) (a b : SReg) (n : Nat) : Chk Word := eaChk (s.S a) ((s.S b).toInt * (n : Int))

/-- R120 LDW. -/
def execLdw (d a : SReg) (imm : Int) (x : Option Xsc) (s : State) : Out :=
  s.loadScalar (.ldw d a imm x) d [a] (eaChk (s.S a) imm) 4 x
/-- R120 LDD. -/
def execLdd (d a : SReg) (imm : Int) (x : Option Xsc) (s : State) : Out :=
  s.loadScalar (.ldd d a imm x) d [a] (eaChk (s.S a) imm) 8 x
/-- R120 STW. -/
def execStw (d a : SReg) (imm : Int) (x : Option Xsc) (s : State) : Out :=
  s.storeScalar [d, a] (eaChk (s.S a) imm) 4 (s.S d) x
/-- R120 STD. -/
def execStd (d a : SReg) (imm : Int) (x : Option Xsc) (s : State) : Out :=
  s.storeScalar [d, a] (eaChk (s.S a) imm) 8 (s.S d) x

/-- Page-2 loads and stores are the staging core's (R14): elsewhere ILL. -/
def State.staging (s : State) (k : Out) : Out := if s.sel == .stage then k else s.trapB .ill s.core.pc

/-- R120 LDX. -/
def execLdx (z : Size) (d a b : SReg) (x : Option Xsc) (s : State) : Out :=
  s.staging (s.loadScalar (.ldx z d a b x) d [a, b] (s.indexed a b (sizeBytes z)) (sizeBytes z) x)
/-- R120 LDXS. -/
def execLdxs (z : Size) (d a b : SReg) (x : Option Xsc) (s : State) : Out :=
  s.staging (s.loadScalar (.ldxs z d a b x) d [a, b] (s.indexed a b (sizeBytes z)) (sizeBytes z) x)
/-- R120 STX. -/
def execStx (z : Size) (d a b : SReg) (x : Option Xsc) (s : State) : Out :=
  s.staging (s.storeScalar [d, a, b] (s.indexed a b (sizeBytes z)) (sizeBytes z) (s.S d) x)

/-! ### Rows (R121) -/

/-- The row operand of LDR, STR, LDS and STS in iteration j. -/
def State.memRow (s : State) (d : RCode) (p : RowPos) (j : Nat) : RowSel :=
  match rowSel s.sel d p.base p.bank j with
  | .bc => .ill
  | x => x

/-- The pointer of a bundle of masked loads under way, else the base scalar. -/
def State.repBase (s : State) (a : SReg) : Word := match s.core.issuing with | some e => s.core.rq[e].w1 | none => s.S a

/-- R121 LDR. -/
def execLdr (d : RCode) (a : SReg) (imm : Int) (p : RowPos) (x : Option Xsc) (s : State) : Out :=
  let i : Instr := .ldr d a imm p x
  if !s.core.ready [a] then s.stall
  else (s.codeChk [s.memRow d p 0]).run s fun _ =>
  if s.isFarRep (s.S a) then
    s.farLoadRep i p.rep x (s.S a) 0 imm (fun _ q => [(0, q, 64)]) (fun s j => s.rowChk [s.memRow d p j])
      fun s j => s.core.rowOpen (s.memRow d p j)
  else
    s.repeated i p.rep 5 (s.S a) 0 fun s j w1 _ fin =>
      let r := s.memRow d p j
      if !s.core.rowOpen r then s.stall
      else
        (s.rowChk [r]).run s fun _ =>
          (eaChk w1 (imm + (64 * j : Nat))).run s fun q =>
            s.load i x [(0, q, 64)] 64 q 0 fun s bs =>
              .next (s.consume (bs.any (·.2)) s.core.bofs fun s => fin { s with core := s.core.setRow r (RowVal.ofBytes bs) })

/-- R121 STR. -/
def execStr (d : RCode) (a : SReg) (imm : Int) (p : RowPos) (x : Option Xsc) (s : State) : Out :=
  if !s.core.ready [a] then s.stall
  else
    (s.codeChk [s.memRow d p 0]).run s fun _ => s.repeated (.str d a imm p x) p.rep 5 (s.S a) 0 fun s j w1 _ fin =>
      let r := s.memRow d p j
      if !s.core.rowFree r then s.stall
      else
        (s.rowChk [r]).run s fun _ =>
          (eaChk w1 (imm + (64 * j : Nat))).run s fun q =>
            let bs := (s.core.rowVal r 8 0).bytes
            s.storeTo x [(0, q, 64)] (bs.map some) (q :: foldBytes bs) fun s => .next (fin s)

/-! ### Tiles (R122) -/

/-- R122 LDT. -/
def execLdt (t : Fin 4) (a : SReg) (imm : Int) (x : Option Xsc) (s : State) : Out :=
  s.staging
    (if !(s.core.ready [a] && s.core.tileOpen t.val) then s.stall
    else
      (eaChk (s.S a) imm).run s fun p =>
        s.load (.ldt t a imm x) x [(0, p, 1024)] 1024 p 0 fun s bs =>
          .next (s.consume (bs.any (·.2)) s.core.bofs fun s =>
            State.retire { s with core := s.core.setT t.val (tileOfBytes bs) }))

/-- The 1,024 bytes of a tile register with the poison of its row halves. -/
def TileReg.bytes (t : TileReg) : List PByte :=
  (([0, 1, 2, 3, 4, 5, 6, 7, 8, 9, 10, 11, 12, 13, 14, 15] : List (Fin 16)).map fun i => (t.row i).bytes).flatten

/-- Tile register n. -/
def Core.T (c : Core) (n : Nat) : TileReg := (c.rf.t[n]?).getD {}

/-- R122 STT. -/
def execStt (t : Fin 4) (a : SReg) (imm : Int) (x : Option Xsc) (s : State) : Out :=
  s.staging
    (if !(s.core.ready [a] && !s.core.busyT t.val) then s.stall
    else
      (eaChk (s.S a) imm).run s fun p =>
        let bs := (s.core.T t.val).bytes
        s.storeTo x [(0, p, 1024)] (bs.map some) (p :: foldBytes bs) fun s => .next s.retire)

/-! ### Masked sectors (R123) -/

/-- The length by which the second sector is checked: one that starts past the last offset of its space gets a length that no space
holds, so that its check answers BND (R112). -/
def secondLen (p : Word) : Nat := if spaceLimit (ptrSpace p) < ptrOfs p + 32 then 2 ^ 60 else 32

/-- The sectors of a row access whose mask is not zero: position, pointer, length. -/
def maskParts (mask p : Word) : List (Nat × Word × Nat) :=
  (if mask.truncate 32 == (0 : W32) then [] else [(0, p, 32)]) ++
    (if (mask >>> 32).truncate 32 == (0 : W32) then [] else [(32, p + 32, secondLen p)])

/-- The pointer of a masked access must be a multiple of 32. -/
def alignChk (p : Word) (n : Nat) : Chk Word := if ptrOfs p % n == 0 then .ok p else .trap .bnd p

/-- R123 LDS. -/
def execLds (d : RCode) (a b : SReg) (p : RowPos) (x : Option Xsc) (s : State) : Out :=
  let i : Instr := .lds d a b p x
  s.staging
    (if !s.core.ready [a, b] then s.stall
    else (s.codeChk [s.memRow d p 0]).run s fun _ =>
    if s.isFarRep (s.S a) then
      let mask := match s.core.issuing with | some e => s.core.rq[e].w2 | none => s.S b
      if mask == 0 then
        s.repeated i p.rep 5 (s.S a) (s.S b) fun s j w1 _ fin =>
          (s.rowChk [s.memRow d p j]).run s fun _ =>
            ((eaChk w1 (64 * j : Nat)).bind fun q => alignChk q 32).run s fun _ =>
              .next (fin { s with core := s.core.setRow (s.memRow d p j) (s.core.rowVal (s.memRow d p j) 8 0) })
      else
        s.farLoadRep i p.rep x (s.S a) (s.S b) 0 (fun _ q => maskParts mask q)
          (fun s j => (s.rowChk [s.memRow d p j]).bind fun _ =>
            ((eaChk (s.repBase a) (64 * j : Nat)).bind fun q => alignChk q 32).bind fun _ => .ok ())
          fun s j => s.core.rowOpen (s.memRow d p j)
    else
      s.repeated i p.rep 5 (s.S a) (s.S b) fun s j w1 w2 fin =>
        let r := s.memRow d p j
        if !s.core.rowOpen r then s.stall
        else
          (s.rowChk [r]).run s fun _ =>
            ((eaChk w1 (64 * j : Nat)).bind fun q => alignChk q 32).run s fun q =>
              s.load i x (maskParts w2 q) 64 q w2 fun s bs =>
                let bs := maskBytes w2 bs
                .next (s.consume (bs.any fun b => match b with | some y => y.2 | none => false) s.core.bofs fun s =>
                  fin { s with core := s.core.setRow r ((s.core.rowVal r 8 0).merge bs) }))

/-- R123 STS: the mask is folded too (R349). -/
def execSts (d : RCode) (a b : SReg) (p : RowPos) (x : Option Xsc) (s : State) : Out :=
  s.staging
    (if !s.core.ready [a, b] then s.stall
    else
      (s.codeChk [s.memRow d p 0]).run s fun _ => s.repeated (.sts d a b p x) p.rep 5 (s.S a) (s.S b) fun s j w1 w2 fin =>
        let r := s.memRow d p j
        if !s.core.rowFree r then s.stall
        else
          (s.rowChk [r]).run s fun _ =>
            ((eaChk w1 (64 * j : Nat)).bind fun q => alignChk q 32).run s fun q =>
              let bs := (s.core.rowVal r 8 0).bytes
              s.storeTo x (maskParts w2 q) (maskBytes w2 bs) (q :: (foldBytes bs ++ [w2])) fun s => .next (fin s))

end Sys2Proof.Machine
end

