-- ==== Sys2Proof/Machine/Capability.lean ====
section
/-! DEFINITION. Capabilities and the capability heap (05_memory R127-R134). -/

namespace Sys2Proof.Machine

/-! ### SipHash-2-4 (R127) -/

/-- The four words of SipHash. -/
structure Sip where
  v0 : Word
  v1 : Word
  v2 : Word
  v3 : Word

def sipRound (s : Sip) : Sip :=
  let v0 := s.v0 + s.v1
  let v1 := (s.v1.rotateLeft 13) ^^^ v0
  let v0 := v0.rotateLeft 32
  let v2 := s.v2 + s.v3
  let v3 := (s.v3.rotateLeft 16) ^^^ v2
  let v0 := v0 + v3
  let v3 := (v3.rotateLeft 21) ^^^ v0
  let v2 := v2 + v1
  let v1 := (v1.rotateLeft 17) ^^^ v2
  let v2 := v2.rotateLeft 32
  { v0 := v0, v1 := v1, v2 := v2, v3 := v3 }

def sipRounds : Nat → Sip → Sip
  | 0, s => s
  | n + 1, s => sipRounds n (sipRound s)

def sipBlock (s : Sip) (m : Word) : Sip :=
  let s := sipRounds 2 { s with v3 := s.v3 ^^^ m }
  { s with v0 := s.v0 ^^^ m }

/-- SipHash-2-4 of the 16 bytes of two words under a key whose low half is the first key word. -/
def sipHash (key : BitVec 128) (a b : Word) : Word :=
  let k0 : Word := key.truncate 64
  let k1 : Word := (key >>> 64).truncate 64
  let s : Sip :=
    { v0 := k0 ^^^ 0x736F6D6570736575, v1 := k1 ^^^ 0x646F72616E646F6D, v2 := k0 ^^^ 0x6C7967656E657261, v3 := k1 ^^^ 0x7465646279746573 }
  let s := sipBlock (sipBlock (sipBlock s a) b) (BitVec.shiftLeft 16 56)
  let s := sipRounds 4 { s with v2 := s.v2 ^^^ 0xFF }
  s.v0 ^^^ s.v1 ^^^ s.v2 ^^^ s.v3

/-! ### The fields of a capability (R127) -/

def capBase (e : Word) : Nat := (e.extractLsb' 0 48).toNat
def capPR (e : Word) : Bool := e.getLsbD 48
def capPW (e : Word) : Bool := e.getLsbD 49
def capPS (e : Word) : Bool := e.getLsbD 50
def capLen (o : Word) : Nat := (o.extractLsb' 0 40).toNat
def capSlot (o : Word) : Nat := (o.extractLsb' 40 24).toNat

/-- SEAL of an even and an odd word in a context. -/
def sealOf (ctx : Nat) (e o : Word) : BitVec 13 :=
  (sipHash (Config.sealKey ctx) ((e.extractLsb' 0 51).zeroExtend 64) o).truncate 13

def isSealed (ctx : Nat) (e o : Word) : Bool := capSlot o != 0 && e.extractLsb' 51 13 == sealOf ctx e o

/-- The sealed even word of base and permissions for an odd word. -/
def mkCap (ctx base : Nat) (perms : BitVec 3) (o : Word) : Word :=
  let e : Word := BitVec.ofNat 64 (base % 2 ^ 48 + perms.toNat * 2 ^ 48)
  e ||| ((sealOf ctx e o).zeroExtend 64 <<< 51)

/-- The EDGE pointer of an offset. -/
def edgePtr (o : Nat) : Word := BitVec.ofNat 64 (2 ^ 61 + o % 2 ^ 56)

/-! ### Revocation (R131) -/

/-- Whether a slot is revoked: the check cache knows slots found clear; a miss reads the context's bitmap. -/
def State.slotRevoked (s : State) (slot : Nat) : Bool := !s.tile.ckCache.contains slot && s.myCtx.revoked.contains slot

/-- Whether the read of a slot's bit, on a miss of the check cache, finds its sector of the bitmap poisoned (R126). CCHK, which never
traps, takes the bit as it stands: log entry 84 (DEDUCED). -/
def State.slotPoisoned (s : State) (slot : Nat) : Bool := !s.tile.ckCache.contains slot && s.myCtx.bitmapBad.contains (slot / 256)

/-- The check cache after a slot was found clear: 16 entries, the most recently used first. Which one makes room is log entry 79
(DESIGN CHOICE). -/
def State.noteClear (s : State) (slot : Nat) : State :=
  if s.slotRevoked slot then s
  else { s with tile := { s.tile with ckCache := (slot :: s.tile.ckCache.filter (· != slot)).take 16 } }

/-- The checks of CLD and CST in their order (R129). -/
def State.capCheck (s : State) (a b : SReg) (n : Nat) (write : Bool) : Chk Word :=
  let e := s.S a
  let o := s.S (pairOf a)
  let q := edgePtr (capBase e + (s.S b).toNat)
  if !isSealed s.tile.ctx e o then .trap .capv q
  else if !(if write then capPW e else capPR e) then .trap .capv q
  else if capLen o < (s.S b).toNat + n then .trap .capv q
  else if s.slotPoisoned (capSlot o) then .trap .due q
  else if s.slotRevoked (capSlot o) then .trap .revk q
  else .ok q

/-- R129 CLD. -/
def execCld (z : Size) (d a b : SReg) (x : Option Xsc) (s : State) : Out :=
  s.staging
    (if !s.core.ready [d, a, pairOf a, b] then s.stall
    else (s.capCheck a b (sizeBytes z) false).run s fun q =>
      (s.noteClear (capSlot (s.S (pairOf a)))).loadScalar (.cld z d a b x) d [a, pairOf a, b] (.ok q) (sizeBytes z) x)

/-- R129 CST. -/
def execCst (z : Size) (d a b : SReg) (x : Option Xsc) (s : State) : Out :=
  s.staging
    (if !s.core.ready [d, a, pairOf a, b] then s.stall
    else (s.capCheck a b (sizeBytes z) true).run s fun q =>
      (s.noteClear (capSlot (s.S (pairOf a)))).storeScalar [d, a, pairOf a, b] (.ok q) (sizeBytes z) (s.S d) x)

/-- R130 CBND. -/
def execCbnd (d a b : SReg) (s : State) : Out :=
  s.staging
    (if !s.core.ready [d, a, pairOf a, b] then s.stall
    else if !isSealed s.tile.ctx (s.S a) (s.S (pairOf a)) || decide (capLen (s.S (pairOf a)) < (s.S b).toNat) then
      s.trapB .capv (s.S b)
    else .next (s.setS d (edgePtr (capBase (s.S a) + (s.S b).toNat))).retire)

/-- R130 CNAR: the narrowed copy goes to the pair d. -/
def execCnar (d a b c : SReg) (s : State) : Out :=
  s.staging
    (if !s.core.ready [d, pairOf d, a, pairOf a, b, c] then s.stall
    else
      let e := s.S a
      let o := s.S (pairOf a)
      let off := ((s.S b).extractLsb' 0 40).toNat
      let nl := (s.S c).toNat
      if !isSealed s.tile.ctx e o || decide (2 ^ 40 ≤ nl) || decide (capLen o < off + nl) then s.trapB .capv (s.S b)
      else
        let o' : Word := BitVec.ofNat 64 (nl + capSlot o * 2 ^ 40)
        let e' := mkCap s.tile.ctx (capBase e + off) (e.extractLsb' 48 3 &&& (s.S b).extractLsb' 40 3) o'
        .next ((s.setS d e').setS (pairOf d) o').retire)

/-- R130 CCHK: never traps. -/
def execCchk (d a b : SReg) (s : State) : Out :=
  s.staging
    (if !s.core.ready [d, a, pairOf a, b] then s.stall
    else
      let o := s.S (pairOf a)
      if !isSealed s.tile.ctx (s.S a) o then .next (s.setS d 1).retire
      else if capLen o ≤ (s.S b).toNat then .next (s.setS d 2).retire
      else if s.slotRevoked (capSlot o) then .next (s.setS d 3).retire
      else .next ((s.noteClear (capSlot o)).setS d 0).retire)

/-! ### The capability heap (R132, R133) -/

def roundUp64 (n : Nat) : Nat := (n + 63) / 64 * 64

/-- Takes len bytes at base out of the free ranges, if they lie in one. -/
def takeRange (base len : Nat) : List (Nat × Nat) → Option (List (Nat × Nat))
  | [] => none
  | (b, l) :: r =>
    if b ≤ base && decide (base + len ≤ b + l) then
      some (((if b < base then [(b, base - b)] else []) ++ (if base + len < b + l then [(base + len, b + l - (base + len))] else [])) ++ r)
    else (takeRange base len r).map ((b, l) :: ·)

/-- The first base that fits. -/
def firstFit (len : Nat) : List (Nat × Nat) → Option Nat
  | [] => none
  | (b, l) :: r => if roundUp64 b + len ≤ b + l then some (roundUp64 b) else firstFit len r

/-- R132 ALLOC: a request to the quay, with an entry of KIND 7. -/
def execAlloc (d a b : SReg) (s : State) : Out :=
  s.staging
    (if !s.core.ready [d, pairOf d, a, b] then s.stall
    else s.askQuay (.alloc d a b) 9 (s.S a) (s.S b))

/-- What the quay does for an allocation: the base it chooses (a multiple of 64 that lies in free bytes; otherwise the first that
fits: log entry 79, DESIGN CHOICE), the next slot; none where R132 answers 0. -/
def Ctx.allocate (x : Ctx) (len : Nat) (base : Option Nat) : Option (Nat × Nat × Ctx) :=
  if len == 0 || decide (2 ^ 40 ≤ len) || decide (2 ^ 24 ≤ x.nextSlot) then none
  else
    let wanted := match base with
      | some b => if b % 64 == 0 && (takeRange b len x.heapFree).isSome then some b else firstFit len x.heapFree
      | none => firstFit len x.heapFree
    match wanted with
    | none => none
    | some b =>
      match takeRange b len x.heapFree with
      | none => none
      | some free =>
        some (b, x.nextSlot, { x with heapFree := free, nextSlot := x.nextSlot + 1, allocs := x.allocs ++ [(x.nextSlot, b, len)] })

/-- The quay's answer to an allocation: the sealed capability, or two zeros (R132). -/
def State.allocAnswer (s : State) (w1 w2 : Word) (base : Option Nat) : List Word × State :=
  match s.myCtx.allocate w1.toNat base with
  | none => ([0, 0], s)
  | some (b, slot, c) =>
    let o : Word := BitVec.ofNat 64 (w1.toNat + slot * 2 ^ 40)
    ([mkCap s.tile.ctx b (w2.truncate 3) o, o], s.putCtx s.tile.ctx c)

/-- Puts a range back among the free ones, joined with those that touch it. -/
def freeRange (base len : Nat) (rs : List (Nat × Nat)) : List (Nat × Nat) :=
  let near (r : Nat × Nat) : Bool := r.1 + r.2 == base || base + len == r.1
  let lo := (rs.filter near).foldl (fun n r => Nat.min n r.1) base
  let hi := (rs.filter near).foldl (fun n r => Nat.max n (r.1 + r.2)) (base + len)
  rs.filter (fun r => !near r) ++ [(lo, hi - lo)]

/-- Whether a packet reads or writes bytes of a range of the context's edge memory. -/
def touchesRange (ctx base len : Nat) (p : Packet) : Bool :=
  p.ctx == ctx && (match p.dst, p.body with
    | .module _, .read _ o n => decide (o < base + len) && decide (base < o + n)
    | .module _, .write o bs => decide (o < base + len) && decide (base < o + bs.length)
    | _, _ => false)

/-- CLD and CST accesses of the context that are not performed yet and may touch the bytes (R133 step 3): in the fabric, held early in a
window, or in a retry buffer; those of an entry that was dropped among them. -/
def State.capInFlight (s : State) (base len : Nat) : Bool :=
  let hit := touchesRange s.tile.ctx base len
  s.net.any hit || (s.modWins.any fun w => w.2.any fun x => x.held.any hit) ||
    s.allTiles.any fun t => t.tile.owned && t.tile.ctx == s.tile.ctx && [t.stage, t.comp].any fun c => c.link.retry.any fun r => hit r.pkt

/-- R133 FREE: the bit of the slot is set and the check caches of the context drop it; FREE retires once every access that passed its
check before has been performed; then the bytes return to the heap. -/
def execFree (a : SReg) (s : State) : Out :=
  s.staging
    (if !s.core.ready [a, pairOf a] then s.stall
    else
      let e := s.S a
      let o := s.S (pairOf a)
      let slot := capSlot o
      if !isSealed s.tile.ctx e o then s.trapB .capv (edgePtr (capBase e))
      else
        let s := s.modCtx fun x => { x with revoked := addTo x.revoked slot }
        let ctx := s.tile.ctx
        let s := s.mapTiles (fun t => t.owned && t.ctx == ctx) fun u => { u with tile := { u.tile with ckCache := dropFrom u.tile.ckCache slot } }
        match s.myCtx.allocs.find? fun k => k.1 == slot with
        | none => .next s.retire
        | some (_, b, l) =>
          if s.capInFlight b l then s.stall
          else
            .next (s.modCtx fun x =>
              { x with allocs := x.allocs.filter (fun k => k.1 != slot), heapFree := freeRange b l x.heapFree }).retire)

end Sys2Proof.Machine
end

