-- ==== Sys2Proof/Machine/Routing.lean ====
section
/-! DEFINITION. The mesh: sites, routes, exception entries, failed links and routers (01_machine R7-R9, 07_messages R167-R176). -/

namespace Sys2Proof.Machine

/-! ### Sites (R8, R9, R171) -/

/-- Global physical row of logical row y in column x. -/
def State.rowOf (s : State) (x y : Nat) : Nat := 34 * (y / 32) + physRow (s.region (regionOf x y)).defects (x % 32) (y % 32)

/-- The region of a physical site. -/
def siteRegion (x g : Nat) : Nat := 8 * (g / 34) + x / 32

/-- The defects of the region that holds a physical site. -/
def State.defectsAt (s : State) (x g : Nat) : List (Nat × Nat) := (s.region (siteRegion x g)).defects

/-- Whether the site is marked dead. -/
def State.deadSite (s : State) (x g : Nat) : Bool :=
  (s.defectsAt x g).contains (x % 32, g % 34) || (s.region (siteRegion x g)).lost.contains (x % 32, g % 34)

/-- The logical row of a physical site; none for the quay strip, a dead site and an unused spare. -/
def State.logicalAt (s : State) (x g : Nat) : Option Nat :=
  let p := g % 34
  if p == 16 || s.deadSite x g then none
  else
    let ds := s.defectsAt x g
    let n := ((upto p).filter fun q => q != 16 && !ds.contains (x % 32, q)).length
    if n < 32 then some (32 * (g / 34) + n) else none

/-- The site word of a physical site (R163), the generation with it. -/
def State.siteWordAt (s : State) (x g : Nat) : Word :=
  BitVec.ofNat 64 (x / 32 + 8 * (g / 34) + 64 * (x % 32) + 2048 * (g % 34) + 2 ^ 32 * s.routeGen.toNat + 2 ^ 63)

/-! ### Attachment (R168, R395) -/

/-- The side of the wafer on which a rim endpoint lies: 0 N, 1 E, 2 S, 3 W. -/
def rimSide : Endpoint → Option Nat
  | .module n => some (n / 16)
  | .engine n => some (n / 4)
  | .ualink n => some (n / 2)
  | _ => none

/-- The port towards a side. Ports: 0 N, 1 S, 2 E, 3 W, 4 skip N, 5 skip S, 6 local. -/
def sidePort (side : Nat) : Nat := match side with | 0 => 0 | 1 => 2 | 2 => 1 | _ => 3

/-- Whether a region has left ON and not come back (16 R395). -/
def Region.leftOn (r : Region) : Bool :=
  match r.reg with | .trip | .cool | .restart | .fenced => true | .ramp => decide (0 < r.tries) | _ => false

/-- The router of a module's alternate port, in the next border region along its side. Log entry 80 (DEDUCED). -/
def altRouter (n : Nat) : Nat × Nat :=
  let p := n % 16 / 2
  moduleRouter (16 * (n / 16) + 2 * (if p < 7 then p + 1 else 6) + n % 2)

/-- The modules that are reached through their alternate ports. -/
def State.detachedModules (s : State) : List Nat :=
  if s.regions.all fun r => !r.2.leftOn then []
  else (upto 64).filter fun n => (s.region (regionOf (moduleRouter n).1 (moduleRouter n).2)).leftOn

/-- The router by which an endpoint joins the mesh now. -/
def State.attach (s : State) (e : Endpoint) : Nat × Nat :=
  match e with
  | .module n => if s.detachedModules.contains n then altRouter n else moduleRouter n
  | _ => routerOf e

/-- The link by which a quay or a rim endpoint joins its attachment router: south into the quay strip, or north where a defect above has
moved the router below the strip (log entry 80, DEDUCED); none for a tile. -/
def State.attachPort (s : State) (e : Endpoint) : Option Nat :=
  match e with
  | .tile _ _ => none
  | .quay r => some (if s.rowOf (routerOf (.quay r)).1 (routerOf (.quay r)).2 % 34 < 16 then 1 else 0)
  | e => (rimSide e).map sidePort

/-! ### The choice of a port (R167, R169) -/

/-- Whether an exception entry matches a packet for (dx, dy) on a VC that arrived by a port. -/
def excMatch (e : BitVec 64) (vc arr dx dy : Nat) : Bool :=
  let f (lo n : Nat) : Nat := e.toNat / 2 ^ lo % 2 ^ n
  e.getLsbD 0 && f 1 3 != 7 && e.getLsbD (4 + vc) && e.getLsbD (44 + arr) && decide (f 12 8 ≤ dx) && decide (dx ≤ f 20 8) &&
    decide (f 28 8 ≤ dy) && decide (dy ≤ f 36 8)

/-- An exception entry of every VC and arrival port. -/
def mkEntry (port xlo xhi ylo yhi : Nat) : BitVec 64 :=
  BitVec.ofNat 64 (1 + 2 * port + 2 ^ 4 * 255 + 2 ^ 12 * xlo + 2 ^ 20 * xhi + 2 ^ 28 * ylo + 2 ^ 36 * yhi + 2 ^ 44 * 127)

/-- The entries by which the router at a site carries the packets of a detached module to its alternate router, and out there (R168). -/
def State.altEntries (s : State) (x g : Nat) : List (BitVec 64) :=
  s.detachedModules.map fun n =>
    let d := moduleRouter n
    let a := altRouter n
    let t := s.rowOf a.1 a.2
    let port := if x < a.1 then 2 else if a.1 < x then 3 else if t < g then 0 else if g < t then 1 else sidePort (n / 16)
    mkEntry port d.1 d.1 d.2 d.2

/-- The exception entries of the router at a site: at most 16 are valid (R169). -/
def State.entriesAt (s : State) (x g : Nat) : List (BitVec 64) :=
  let es := match s.exceptions.find (x + 256 * g) with | some es => es.toList | none => []
  es ++ (s.altEntries x g).take (16 - (es.filter (·.getLsbD 0)).length)

/-- The output port of the lowest-numbered entry of the router at a site that matches. -/
def State.excPort (s : State) (x g vc arr dx dy : Nat) : Option Nat :=
  ((s.entriesAt x g).find? fun e => excMatch e vc arr dx dy).map fun e => e.toNat / 2 % 8

/-- North or south towards a row, past a neighbour that is marked dead (R167). -/
def State.vertical (s : State) (x g t : Nat) : Nat :=
  if t < g then (if s.deadSite x (g - 1) then 4 else 0) else if s.deadSite x (g + 1) then 5 else 1

/-- The port by dimension order (R167), with the attachment port in place of the local port (R168). -/
def State.plainPort (s : State) (x g arr : Nat) (e : Endpoint) : Nat :=
  let d := routerOf e
  let t := s.rowOf d.1 d.2
  if x < d.1 then 2
  else if d.1 < x then 3
  else
    match e with
    | .tile _ _ => if g == t then 6 else s.vertical x g t
    | .quay _ =>
      let out := (s.attachPort e).getD 1
      if g == t then out else if g == (if out == 1 then t + 1 else t - 1) && arr == 1 - out then 6 else s.vertical x g t
    | _ =>
      match rimSide e with
      | some 0 => if g ≤ t then (if g != 0 && s.deadSite x (g - 1) then 4 else 0) else s.vertical x g t
      | some 2 => if t ≤ g then (if s.deadSite x (g + 1) then 5 else 1) else s.vertical x g t
      | some side => if g == t then sidePort side else s.vertical x g t
      | none => 6

/-- The site behind a port, and the arrival bit of R169 there (N, S, E, W, local, skip N, skip S); none at the rim. -/
def portTo (x g p : Nat) : Option (Nat × Nat × Nat) :=
  match p with
  | 0 => if g == 0 then none else some (x, g - 1, 1)
  | 1 => if 271 ≤ g then none else some (x, g + 1, 0)
  | 2 => if 255 ≤ x then none else some (x + 1, g, 3)
  | 3 => if x == 0 then none else some (x - 1, g, 2)
  | 4 => if g < 2 then none else some (x, g - 2, 6)
  | 5 => if 270 ≤ g then none else some (x, g + 2, 5)
  | _ => none

/-- Whether a router still uses its link at a port (R175). -/
def State.linkUp (s : State) (x g p : Nat) : Bool := !(s.linkFail.any fun l => l.x == x && l.y == g && l.port.val == p)

/-- Whether the endpoint stands behind the router's local port or its attachment port. -/
def State.endAt (s : State) (x g port : Nat) (e : Endpoint) : Bool :=
  let a := s.attach e
  match e with
  | .tile _ _ => port == 6 && x == a.1 && s.logicalAt x g == some a.2
  | .quay _ => port == 6 && x == a.1 && g == 34 * (a.2 / 32) + 16
  | e => (portTo x g port).isNone && (rimSide e).map sidePort == some (if port == 4 then 0 else if port == 5 then 1 else port) &&
      (if port == 2 || port == 3 then g == s.rowOf a.1 a.2 else x == a.1)

/-! ### The legs of a packet (R188) -/

def regionOfEnd (e : Endpoint) : Nat := regionOf (routerOf e).1 (routerOf e).2

/-- Whether the quay of its region has to hand a packet on: the firewall lets a packet on VC0 or VC7 into a region only from a quay or a
rim endpoint. Log entry 33 (DEDUCED). -/
def relays (p : Packet) : Bool :=
  (p.vc == 0 || p.vc == 7) && p.hop.isNone &&
    (match p.src with | .tile _ _ => regionOfEnd p.src != regionOfEnd p.dst | _ => false)

/-- Where a packet comes from and goes to on its present leg. -/
def legSrc (p : Packet) : Endpoint := match p.hop with | some r => .quay r | none => p.src
def legDst (p : Packet) : Endpoint := if relays p then .quay (regionOfEnd p.src) else p.dst

/-- A packet that has arrived, and one that the quay hands on. -/
def landed (p : Packet) : Packet := { p with trail := [], sent := 0, esc := false }
def handedOn (p : Packet) : Packet := { landed p with hop := some (regionOfEnd p.src) }

/-! ### Hops, lanes and buffers (R165, R170, R186, R187) -/

/-- Where the head of a packet goes next: it has arrived; it is lost over a failed link, into a dead site or without an end; or a buffer,
and whether it then travels on the escape lane. -/
inductive Hop where
  | arrive
  | lost
  | to (sp : Spot) (esc : Bool)
  deriving DecidableEq, Repr, Inhabited

/-- The next hop of a packet whose head is in a buffer. A packet that leaves by the port of an exception entry, against dimension order,
goes on by the escape lane (R170). -/
def State.hop (s : State) (p : Packet) (esc : Bool) (sp : Spot) : Hop :=
  if sp.fifo then .to { sp with fifo := false } sp.esc
  else
    let d := routerOf (legDst p)
    let plain := s.plainPort sp.x sp.g sp.arr (legDst p)
    let exc := s.excPort sp.x sp.g p.vc.val sp.arr d.1 d.2
    let port := exc.getD plain
    if port == 6 then (if s.endAt sp.x sp.g 6 (legDst p) then .arrive else .lost)
    else if !s.linkUp sp.x sp.g port then .lost
    else
      match portTo sp.x sp.g port with
      | none => if s.endAt sp.x sp.g port (legDst p) then .arrive else .lost
      | some (x, g, arr) =>
        if s.deadSite x g then .lost
        else
          let lane := esc || exc.isSome && port != plain
          .to { x := x, g := g, arr := arr, fifo := siteRegion sp.x sp.g != siteRegion x g, esc := lane } lane

/-- The buffer by which a packet enters the mesh; none where the link of its endpoint has failed. -/
def State.startSpot (s : State) (e : Endpoint) : Option Spot :=
  let a := s.attach e
  let g := s.rowOf a.1 a.2
  match s.attachPort e with
  | none => some { x := a.1, g := g, arr := 4 }
  | some p => if s.linkUp a.1 g p then some { x := a.1, g := g, arr := p } else none

/-- Flits that a buffer holds of one VC: 4, and 8 in the FIFO of a region boundary (R165, R186). -/
def spotSize (sp : Spot) : Nat := if sp.fifo then 8 else 4

/-- The site from which a buffer is filled. -/
def spotWriter (sp : Spot) : Nat × Nat :=
  match sp.arr with
  | 0 => (sp.x, sp.g - 1) | 1 => (sp.x, sp.g + 1) | 2 => (sp.x + 1, sp.g) | 3 => (sp.x - 1, sp.g)
  | 5 => (sp.x, sp.g - 2) | 6 => (sp.x, sp.g + 2) | _ => (sp.x, sp.g)

/-- Whether the clocks on both sides of a buffer run: a FIFO at a region in a step change withholds its credits and keeps its flits
(R187). -/
def State.clocked (s : State) (sp : Spot) : Bool :=
  !(s.region (siteRegion sp.x sp.g)).gated && (!sp.fifo || !(s.region (siteRegion (spotWriter sp).1 (spotWriter sp).2)).gated)

/-- Credits of a buffer that are on their way back to its sender, through the matching FIFO of a boundary (R186). -/
def State.creditsDue (s : State) (sp : Spot) (vc : Fin 8) : Nat :=
  (s.credits.filter fun c => c.1.x == sp.x && c.1.g == sp.g && c.1.arr == sp.arr && c.1.fifo == sp.fifo && c.2 == vc).length

/-- Flits of a VC that the other lane of a buffer holds: both lanes share the credits of the VC (R170). -/
def State.otherLane (s : State) (sp : Spot) (vc : Fin 8) : Nat :=
  s.net.foldl (fun n q => if q.vc == vc then q.trail.foldl (fun n t => if t.1 == { sp with esc := !sp.esc } then n + t.2 else n) n else n) 0

/-- Credits of a lane of a buffer that its sender does not have. -/
def State.creditsOut (s : State) (sp : Spot) (vc : Fin 8) : Nat := s.creditsDue sp vc + s.otherLane sp vc

/-- Whether the head flit of a packet may enter a lane of a buffer: its sender has a credit, and no other packet has that lane on that VC
(R166, R170). One packet at a time is log entry 81 (DESIGN CHOICE). -/
def State.roomFor (s : State) (p : Packet) (sp : Spot) : Bool :=
  s.clocked sp && decide (s.creditsOut sp p.vc < spotSize sp) && !(s.net.any fun q => q.vc == p.vc && q.trail.any (·.1 == sp) && q != p)

/-- How a packet's journey ends from where it is. -/
inductive Journey where
  | arrives | lost | blocked
  deriving DecidableEq, Repr, Inhabited

/-- The journey of a packet from a buffer, as the mesh stands. -/
def State.journey (s : State) (p : Packet) : Nat → Bool → Spot → Journey
  | 0, _, _ => .blocked
  | n + 1, esc, sp =>
    match s.hop p esc sp with
    | .arrive => .arrives
    | .lost => .lost
    | .to sp' esc' => if s.roomFor p sp' && s.clocked sp then State.journey s p n esc' sp' else .blocked

/-- Nothing in the mesh stands in the way of any packet: dimension order brings it to its destination. -/
def State.calm (s : State) : Bool :=
  s.linkFail.isEmpty && s.exceptions.isEmpty && s.credits.isEmpty &&
    (s.regions.all fun r => r.2.defects.isEmpty && r.2.lost.isEmpty && !r.2.gated && !r.2.leftOn) && s.net.all (·.trail.isEmpty)

/-- The journey of a packet from where it is. -/
def State.journeyOf (s : State) (p : Packet) : Journey :=
  if s.calm then .arrives
  else
    match p.trail with
    | h :: _ => s.journey p 4096 p.esc h.1
    | [] =>
      match s.startSpot (legSrc p) with
      | none => .lost
      | some sp => if s.roomFor p sp then s.journey p 4096 p.esc sp else .blocked

/-- Whether the way of a packet from a buffer crosses a region boundary. -/
def State.crosses (s : State) (p : Packet) : Nat → Bool → Spot → Bool
  | 0, _, _ => false
  | n + 1, esc, sp =>
    match s.hop p esc sp with
    | .to sp' esc' => sp.fifo || sp'.fifo || State.crosses s p n esc' sp'
    | _ => false

/-- Whether a packet enters another region on the rest of its leg. -/
def State.entersRegion (s : State) (p : Packet) : Bool :=
  if s.calm then regionOfEnd (legSrc p) != regionOfEnd (legDst p)
  else
    match p.trail with
    | h :: _ => s.crosses p 4096 p.esc h.1
    | [] => match s.startSpot (legSrc p) with | some sp => s.crosses p 4096 p.esc sp | none => false

/-- Whether the mesh, apart from what is in it, leads from a to b. -/
def State.routed (s : State) (vc : Fin 8) (a b : Endpoint) : Bool :=
  State.journeyOf { s with net := [], credits := [], regions := s.regions.map fun r => (r.1, { r.2 with gated := false }) }
    { vc := vc, dst := b, dcore := .stage, src := a, score := .stage, shnd := 0, ctx := 0, ttag := 0, part := 0, seq := 0, opn := false,
      age := 0, gen := 0, ent := 8, req := 0, avc := 0, body := .close } == .arrives

/-! ### Exception sets without cycles (R170) -/

/-- The steps of a packet on the escape lane from a buffer: each buffer with the next. -/
def State.escapeSteps (s : State) (p : Packet) : Nat → Spot → List (Spot × Spot)
  | 0, _ => []
  | n + 1, sp =>
    match s.hop p true sp with
    | .to sp' _ => (sp, sp') :: State.escapeSteps s p n sp'
    | _ => []

/-- The columns (or rows) where a route can change: those of routers with entries and of dead sites with their neighbours, the ends of
the ranges of the entries, and the rim. -/
def around (top : Nat) (ns : List Nat) : List Nat :=
  ([0, top] ++ ns.flatMap fun n => [n - 1, n, Nat.min top (n + 1)]).eraseDups

/-- The dependencies among escape-lane buffers: for every VC, every destination at which a route can differ and every entry, the steps of
a packet that the entry has sent against dimension order. -/
def State.escapeDeps (s : State) : List (Spot × Spot) :=
  let sites := s.exceptions.map fun e => (e.1 % 256, e.1 / 256)
  let bounds (lo : Nat) : List Nat := s.exceptions.flatMap fun e => (e.2.toList.filter (·.getLsbD 0)).map fun w => w.toNat / 2 ^ lo % 256
  let cols := around 255 (sites.map (·.1) ++ bounds 12 ++ bounds 20)
  let rows := around 255 (sites.filterMap (fun t => s.logicalAt t.1 t.2) ++ bounds 28 ++ bounds 36)
  (upto 8).flatMap fun v => cols.flatMap fun dx => rows.flatMap fun dy => sites.flatMap fun t => (upto 7).flatMap fun arr =>
    let p : Packet :=
      { vc := Fin.ofNat 8 v, dst := .tile dx dy, dcore := .stage, src := .tile dx dy, score := .stage, shnd := 0, ctx := 0, ttag := 0,
        part := 0, seq := 0, opn := false, age := 0, gen := 0, ent := 8, req := 0, avc := 0, body := .close }
    match s.hop p false { x := t.1, g := t.2, arr := arr } with
    | .to sp true => s.escapeSteps p 1024 sp
    | _ => []

/-- Takes the edges away that lead nowhere, as long as there are any; what is left are the cycles. -/
def cycles : Nat → List (Spot × Spot) → List (Spot × Spot)
  | 0, es => es
  | n + 1, es =>
    let rest := es.filter fun e => es.any fun d => d.1 == e.2
    if rest.length == es.length then es else cycles n rest

/-- Whether the dependencies among escape-lane buffers form no cycle: the exception sets that the quays install (R170). -/
def State.acyclic (s : State) : Bool :=
  s.exceptions.isEmpty || (let es := s.escapeDeps.eraseDups; (cycles es.length es).isEmpty)

/-! ### Failures (R175) -/

/-- The same link as the router at its other end names it. -/
def otherEnd (l : Link) : Option Link :=
  (portTo l.x l.y l.port.val).map fun e =>
    { x := e.1, y := e.2.1, port := match l.port with | 0 => 1 | 1 => 0 | 2 => 3 | 3 => 2 | 4 => 5 | 5 => 4 }

/-- Report kinds in the order in which R406 lists them. -/
def repCorrected : Nat := 0
def repUncorrectable : Nat := 1
def repLink : Nat := 2
def repRouter : Nat := 3
def repRegulator : Nat := 4
def repFirewall : Nat := 5
def repDelivery : Nat := 6
def repRetirement : Nat := 7

def State.reportTile (s : State) (kind x y count : Nat) (h0 h1 : Word) : State :=
  s.report (regionOf x y) kind (s.tileAt (.grid x y)).tile.hnd (s.siteWord x y) count h0 h1

/-- A report of the router at a physical site, with the handle of the tile there (R174). -/
def State.reportSite (s : State) (kind x g count : Nat) : State :=
  let h := match s.logicalAt x g with | some y => (s.tileAt (.grid x y)).tile.hnd | none => 0
  s.report (siteRegion x g) kind h (s.siteWordAt x g) count 0 0

/-- Whether every link of a router has failed. -/
def State.routerDown (s : State) (x g : Nat) : Bool :=
  ([0, 1, 2, 3, 4, 5] : List Nat).all fun p => (portTo x g p).isNone || !s.linkUp x g p

/-- Packets are lost with a link, a router or a site. A home whose recall is lost recalls again when the next access waits: log entry 34
(DESIGN CHOICE). -/
def State.lose (s : State) (ps : List Packet) : State :=
  let s := { s with net := ps.foldl List.erase s.net }
  ps.foldl (fun s p => match p.src, p.body with
    | .tile x y, .recall sec =>
      s.mapTiles (fun t => t.id == .grid x y) fun u =>
        { u with tile := { u.tile with leaseDir := u.tile.leaseDir.map fun d => if d.sector == sec then { d with recalled := false } else d } }
    | _, _ => s) s

/-- The port of a router by which a buffer is filled from it. -/
def arrPort (arr : Nat) : Nat := match arr with | 0 => 1 | 1 => 0 | 2 => 3 | 3 => 2 | 5 => 5 | _ => 4

/-- Whether flits of a packet have still to cross a link that its head has crossed. -/
def crossing (l : Link) : List (Spot × Nat) → Bool
  | (a, _) :: (b, n) :: r => (!b.fifo && b.x == l.x && b.g == l.y && arrPort a.arr == l.port.val) || crossing l ((b, n) :: r)
  | _ => false

/-- The packets that are queued for a link: those whose head stands in its router and leaves by it, and those of which later flits have
still to cross it: without them the packet is lost. -/
def State.queuedFor (s : State) (l : Link) (p : Packet) : Bool :=
  crossing l p.trail || match p.trail with
  | (sp, _) :: _ =>
    !sp.fifo && sp.x == l.x && sp.g == l.y &&
      ((s.excPort sp.x sp.g p.vc.val sp.arr (routerOf (legDst p)).1 (routerOf (legDst p)).2).getD (s.plainPort sp.x sp.g sp.arr (legDst p))) == l.port.val
  | [] => false

/-- The errors of a link within 4,096 cycles of its router's region (R175). -/
def State.crcCount (s : State) (l : Link) : Nat :=
  let now := (s.region (siteRegion l.x l.y)).cyc.toNat
  (s.crcErrs.filter fun e => e.1 == l && decide (now < e.2 + 4096)).length

/-- A router reports a failure on VC0 to the quay of its region (R175), with the count that crossed its threshold (16 R406): the errors of
a link, the links of a router. A router whose row no tile stands on is that of a quay strip, a dead site or a spare: its quay has the
report at once. Log entry 97 (DEDUCED). -/
def State.tellFailure (s : State) (l : Link) (router : Bool) : State :=
  let q := siteRegion l.x l.y
  let n := if router then 6 else s.crcCount l
  match s.logicalAt l.x l.y with
  | some y => { s with net := s.net ++ [
      { vc := 0, dst := .quay q, dcore := .stage, src := .tile l.x y, score := .stage, shnd := (s.tileAt (.grid l.x y)).tile.hnd, ctx := 0,
        ttag := 0, part := 0, seq := 0, opn := false, age := 0, gen := s.routeGen, ent := 8, req := 0, avc := 0, body := .failed l router n }] }
  | none => s.reportSite (if router then repRouter else repLink) l.x l.y n

/-- Takes one end of a link out of use: the flits queued for it are discarded, and the failure is reported; a router without a link left is
failed. -/
def State.endFail (s : State) (l : Link) : State :=
  if s.linkFail.contains l then s
  else
    let s := { s.lose (s.net.filter (s.queuedFor l)) with linkFail := s.linkFail ++ [l] }.tellFailure l false
    if s.routerDown l.x l.y && !s.deadRouters.contains (l.x, l.y) then
      { s with deadRouters := s.deadRouters ++ [(l.x, l.y)] }.tellFailure l true
    else s

/-- A link is declared failed: both routers stop using it (R175). -/
def State.failLink (s : State) (l : Link) : State :=
  let s := s.endFail l
  match otherEnd l with
  | some o => s.endFail o
  | none => s

/-- How often the flit that now crosses a link has been replayed from the link's replay buffer. -/
def State.replaysOf (s : State) (l : Link) : Nat := ((s.replays.find? fun r => r.1 == l).map (·.2)).getD 0

/-- R166, R175 FLIT_CRC_ERROR: the flit is replayed, at most 3 times; an error in its third replay, or the 16th error within 4,096
cycles, fails the link. -/
def execFlitCrcError (l : Link) (s : State) : Out :=
  let now := (s.region (siteRegion l.x l.y)).cyc.toNat
  let n := s.replaysOf l
  let s := { s with
    crcErrs := (s.crcErrs.filter fun e => e.1 != l || decide (now < e.2 + 4096)) ++ [(l, now)]
    replays := (l, n + 1) :: s.replays.filter fun r => r.1 != l }
  .next (if 16 ≤ s.crcCount l || 3 ≤ n then s.failLink l else s)

/-- R175 LINK_CRC_THRESHOLD: too many errors, or a third replay that failed. -/
def execLinkCrcThreshold (l : Link) (s : State) : Out := .next (s.failLink l)

/-- R175 LINK_CREDIT_TIMEOUT: flits held for 8,192 cycles without a credit. -/
def execLinkCreditTimeout (l : Link) (s : State) : Out := .next (s.failLink l)

/-- The quay writes exception entries (R169). -/
def State.writeException (s : State) (w : RouterWrite) : State :=
  let k := w.x + 256 * w.y
  let es := (s.exceptions.find k).getD (Vector.replicate 16 0)
  { s with exceptions := Tab.put s.exceptions k (vput es w.idx w.entry) }

/-- The resend notice of a core (R177): every packet of an older generation is injected again, in the order of its stream. -/
def Core.resend (c : Core) (gen : BitVec 16) : Core × List Packet :=
  let old := c.link.retry.filter fun r => !r.wait && decide ((gen - r.gen).toNat < 32768) && r.gen != gen
  let upd (r : RetryEntry) : RetryEntry :=
    if !r.wait && decide ((gen - r.gen).toNat < 32768) && r.gen != gen then { r with gen := gen, pkt := { r.pkt with gen := gen } } else r
  let rtx := Nat.min 65535 (c.link.rtx.toNat + old.length)
  ({ c with link := { c.link with retry := c.link.retry.map upd, rtx := BitVec.ofNat 16 rtx } }, old.map fun r => { r.pkt with gen := gen })

/-- Notes a re-injection on the streams of the packets (R179). -/
def noteReinject (now : Nat) (ps : List Packet) (c : Core) : Core :=
  let note (t : Stream) : Stream := if ps.any (fun p => p.dst == t.dst && p.vc == t.vc) then { t with lastReinject := now } else t
  { c with link := { c.link with streams := c.link.streams.map note } }

/-- A resend notice takes effect at the core in focus. -/
def State.resendFrom (s : State) (gen : BitVec 16) : State :=
  let r := s.core.resend gen
  { s with core := noteReinject (Nat.max 1 s.cyc.toNat) r.2 r.1, net := s.net ++ r.2 }

/-- R177 RESEND_NOTICE: the notice of a generation reaches the core in focus. -/
def execResendNotice (gen : BitVec 16) (s : State) : Out := .next (s.resendFrom gen)

/-- The resend notices that the quays send over VC7 to every tile (R176): a rim endpoint has nothing to send again. -/
def State.notices (s : State) : State :=
  let one (t : FullTile) : Packet :=
    { vc := 7, dst := t.tile.id.endpoint, dcore := .stage, src := .quay t.tile.id.region, score := .stage, shnd := t.tile.hnd,
      ctx := t.tile.ctx, ttag := t.tile.ttag, part := t.tile.part, seq := 0, opn := false, age := 0, gen := s.routeGen, ent := 8, req := 0,
      avc := 0, body := .resend s.routeGen }
  { s with net := s.net ++ (s.allTiles.filter (·.tile.owned)).map one }

/-! ### Installing a detour over VC7 (R169, R176) -/

/-- The packet by which the quay of its region writes an entry of a router. -/
def entryPacket (gen : BitVec 16) (w : RouterWrite) (y : Nat) : Packet :=
  { vc := 7, dst := .tile w.x y, dcore := .stage, src := .quay (siteRegion w.x w.y), score := .stage, shnd := 0, ctx := 0, ttag := 0,
    part := 0, seq := 0, opn := false, age := 0, gen := gen, ent := 8, req := 0, avc := 0, body := .entry w }

/-- A quay sends an entry over VC7 to its router; one whose row no tile stands on it writes itself. Log entry 97 (DEDUCED). -/
def State.sendEntry (s : State) (w : RouterWrite) : State :=
  match s.logicalAt w.x w.y with
  | some y => { s with net := s.net ++ [entryPacket s.routeGen w y], installing := s.installing ++ [w] }
  | none => s.writeException w

/-- Once every entry of the detour has been written, the route generation rises, and the resend notices go out. -/
def State.installed (s : State) : State :=
  if s.installing.isEmpty then State.notices { s with routeGen := s.routeGen + 1 } else s

/-- An entry has come to its router. -/
def State.entryLanded (s : State) (w : RouterWrite) : State :=
  if s.installing.contains w then State.installed { s.writeException w with installing := s.installing.erase w } else s

/-- The entries whose packets were lost are sent again. -/
def State.entriesAgain (s : State) : State :=
  let lost := s.installing.filter fun w => !(s.net.any fun p => p.body == .entry w)
  lost.foldl State.sendEntry { s with installing := s.installing.filter fun w => !lost.contains w }

end Sys2Proof.Machine
end

