-- ==== Sys2Proof/Machine/Far.lean ====
section
/-! DEFINITION. Memory that an engine, a port controller or the quay performs on: the context's edge memory and NET windows with the
shadow pages of paired teams, and the slices of other tiles (05_memory R111, R117-R119, R125, R126, 14_reliability R354, R355,
16_platform R399, 19_programs_traps R416). -/

namespace Sys2Proof.Machine

/-! ### Ranges of a memory -/

/-- dst with the n bytes from lo on replaced by those of src. -/
def Memory.copyRange (src : Memory) (lo n : Nat) (dst : Memory) : Memory :=
  dst.filter (fun c => decide (c.1 < lo)) ++ src.filter (fun c => decide (lo ≤ c.1) && decide (c.1 < lo + n)) ++
    dst.filter fun c => decide (lo + n ≤ c.1)

/-- The same for a list of poisoned sectors. -/
def badRange (src : List Nat) (lo n : Nat) (dst : List Nat) : List Nat :=
  dst.filter (fun k => !(decide (lo ≤ 32 * k) && decide (32 * k < lo + n))) ++
    src.filter fun k => decide (lo ≤ 32 * k) && decide (32 * k < lo + n)

/-! ### Pages of a context -/

/-- The page of a context that holds an offset. -/
def Ctx.page (x : Ctx) (net : Bool) (o : Nat) : Option Page := x.pages.find? fun g => g.covers net o

def Page.size (g : Page) : Nat := 2 ^ g.log

/-- The shadow pages of a context without those of n bytes at b, whose bytes are gone (14 R354). -/
def Shadow.without (h : Shadow) (b n : Nat) : Shadow :=
  { pages := h.pages.filter fun g => !(decide (b ≤ g.1) && decide (g.1 < b + n))
    mem := Memory.copyRange [] b n h.mem, bad := badRange [] b n h.bad }

def Ctx.clearShadows (x : Ctx) (b n : Nat) : Ctx := { x with shadows := x.shadows.map fun h => (h.1, h.2.without b n) }

/-- Maps the 64 KiB page that holds o from the reserve, zero (R416). A page that is mapped stays as it is; none where the reserve is
empty. -/
def Ctx.mapPage (x : Ctx) (n o : Nat) (w : Bool) : Option Ctx :=
  match x.page false o with
  | some _ => some x
  | none =>
    if x.reserve == 0 then none
    else
      let b := o / 65536 * 65536
      some { x.clearShadows b 65536 with
        reserve := x.reserve - 1
        pages := x.pages ++ [{ ctx := n, base := b, log := 16, net := false, target := (Config.homeModule n (o / 65536)).val,
                               frame := Config.homeFrame n (o / 65536), r := true, w := w }]
        edge := Memory.copyRange [] b 65536 x.edge
        edgePoison := badRange [] b 65536 x.edgePoison }

/-- Takes the page that holds o from the context; its frames return to the reserve and read zero when next mapped (R384). -/
def Ctx.unmapPage (x : Ctx) (o : Nat) : Ctx :=
  match x.page false o with
  | none => x
  | some g =>
    { x.clearShadows g.base g.size with
      reserve := x.reserve + g.size / 65536
      pages := x.pages.filter (· != g)
      edge := Memory.copyRange [] g.base g.size x.edge
      edgePoison := badRange [] g.base g.size x.edgePoison }

/-! ### Shadow pages (R354) -/

/-- The shadow pages that an access of a team goes to, in a paired context. -/
def State.shadowOf (s : State) (ctx tag : Nat) : Option Nat :=
  if (s.ctx ctx).modes.paired then
    match s.teams.find? fun t => t.ctx == ctx && t.tag == tag with
    | some t => some (shadowKey t.launch t.copy)
    | none => none
  else none

def Shadow.covers (h : Shadow) (o : Nat) : Bool := h.pages.any fun g => decide (g.1 ≤ o) && decide (o < g.1 + 2 ^ g.2)

/-- A shadow page made from the committed page, on the first write to it. -/
def Shadow.open (h : Shadow) (x : Ctx) (o : Nat) : Shadow :=
  if h.covers o then h
  else
    match x.page false o with
    | none => h
    | some g =>
      { pages := h.pages ++ [(g.base, g.log)]
        mem := Memory.copyRange x.edge g.base g.size h.mem
        bad := badRange x.edgePoison g.base g.size h.bad }

/-- Makes the shadow pages permanent (R355). -/
def Ctx.commit (x : Ctx) (k : Nat) : Ctx :=
  let h := Tab.get x.shadows {} k
  h.pages.foldl (fun x g =>
    { x with edge := Memory.copyRange h.mem g.1 (2 ^ g.2) x.edge, edgePoison := badRange h.bad g.1 (2 ^ g.2) x.edgePoison }) x

/-! ### Bytes of EDGE and NET space -/

/-- One byte with the poison of its sector. -/
def Ctx.farByte (x : Ctx) (sh : Option Nat) (net : Bool) (o : Nat) : PByte :=
  if net then (x.net.read o, x.netPoison.contains (o / 32))
  else
    match sh with
    | none => (x.edge.read o, x.edgePoison.contains (o / 32))
    | some k =>
      let h := Tab.get x.shadows {} k
      if h.covers o then (h.mem.read o, h.bad.contains (o / 32)) else (x.edge.read o, x.edgePoison.contains (o / 32))

/-- The sector of an EDGE offset reads poisoned from now on, where its page, or the copy's shadow page, is mapped (05 R125, R126). -/
def Ctx.poisonFar (x : Ctx) (sh : Option Nat) (o : Nat) : Ctx :=
  match x.page false o, sh with
  | none, _ => x
  | some _, none => { x with edgePoison := addTo x.edgePoison (o / 32) }
  | some _, some k =>
    let h := Tab.get x.shadows {} k
    if h.covers o then { x with shadows := Tab.put x.shadows k { h with bad := addTo h.bad (o / 32) } } else x

def Ctx.farBytes (x : Ctx) (sh : Option Nat) (net : Bool) (o n : Nat) : List PByte := (upto n).map fun j => x.farByte sh net (o + j)

/-- Writes bytes, with the poison of the sectors (R126). -/
def Ctx.farStore (x : Ctx) (sh : Option Nat) (net : Bool) (o : Nat) (bs : List (Option PByte)) : Ctx :=
  let data := bs.map fun b => b.map (·.1)
  if net then { x with net := x.net.writeMany o data, netPoison := poisonAfter x.netPoison o bs }
  else
    match sh with
    | none => { x with edge := x.edge.writeMany o data, edgePoison := poisonAfter x.edgePoison o bs }
    | some k =>
      let h := (chunks o bs.length).foldl (fun (h : Shadow) c => h.open x c.1) (Tab.get x.shadows {} k)
      { x with shadows := Tab.put x.shadows k { h with mem := h.mem.writeMany o data, bad := poisonAfter h.bad o bs } }

def State.farRead (s : State) (ctx tag : Nat) (net : Bool) (o n : Nat) : List PByte :=
  (s.ctx ctx).farBytes (s.shadowOf ctx tag) net o n

/-- Writes bytes; a NET window of a partition holds the same bytes for each of its contexts (16 R401). -/
def State.farWrite (s : State) (ctx tag : Nat) (net : Bool) (o : Nat) (bs : List (Option PByte)) : State :=
  if net && decide (ctx < 4096) then
    let p := (s.ctx ctx).part
    let pt := s.partOf p
    let s := s.putPart p { pt with
      net := pt.net.writeMany o (bs.map fun b => b.map (·.1)), netPoison := poisonAfter pt.netPoison o bs }
    { s with ctxs := s.ctxs.map fun (n, x) => (n, if n < 4096 && x.part == p then x.farStore none true o bs else x) }
  else s.putCtx ctx ((s.ctx ctx).farStore (s.shadowOf ctx tag) net o bs)

/-! ### Slices of tiles -/

/-- Changes the parts of a tile that its cores share, in focus or not. -/
def State.modTileAt (s : State) (id : TileId) (f : Tile → Tile) : State :=
  if id == s.tile.id then { s with tile := f s.tile }
  else
    let t := s.tileAt id
    s.putTile { t with tile := f t.tile }

/-- The bytes of a slice; the check bits of the words are read (R125). -/
def State.sliceRead (s : State) (id : TileId) (o n : Nat) : List PByte × State :=
  let t := (s.tileAt id).tile
  let u := t.ecc s.fresh o n
  (u.bytes o n, if t.flips.isEmpty then s else { s.modTileAt id (fun _ => u) with fresh := s.fresh + 1 })

def State.sliceWrite (s : State) (id : TileId) (o : Nat) (bs : List (Option PByte)) : State :=
  let fl := (s.tileAt id).tile.flips.isEmpty
  let s' := s.modTileAt id fun t => t.store s.fresh o bs
  if fl then s' else { s' with fresh := s'.fresh + 1 }

/-! ### An access of an engine by its parts -/

/-- Whether a part lies in NET space. -/
def Part1.isNet (p : Part1) : Bool := match p.place with | .at (.engine _) _ => true | _ => false

/-- The tile whose slice a part lies in. -/
def State.partTile (s : State) (p : Part1) : Option (TileId × Nat) :=
  match p.place with
  | .here o => some (s.tile.id, o)
  | .at (.tile x y) o => some (.grid x y, o)
  | _ => none

/-- Reads the parts, for the tile in focus, in one step. -/
def State.readParts (s : State) : List Part1 → List (Nat × List PByte) × State
  | [] => ([], s)
  | p :: r =>
    match s.partTile p with
    | some (id, o) =>
      let x := s.sliceRead id o p.len
      let y := State.readParts x.2 r
      ((p.pos, x.1) :: y.1, y.2)
    | none =>
      let bs := match p.place with
        | .quay o => (upto p.len).map fun j => (s.quayByte s.asker (o + j), false)
        | .at _ o => s.farRead s.tile.ctx s.tile.ttag p.isNet o p.len
        | .here _ => []
      let y := State.readParts s r
      ((p.pos, bs) :: y.1, y.2)

/-- Writes the parts, for the tile in focus, in one step. -/
def State.writeParts (s : State) (bs : List (Option PByte)) : List Part1 → State
  | [] => s
  | p :: r =>
    let b := p.cut bs
    let s := match s.partTile p with
      | some (id, o) => s.sliceWrite id o b
      | none =>
        match p.place with
        | .quay o => (upto p.len).foldl (fun s j => match (b[j]?).join with | some v => s.quayPut s.asker (o + j) v.1 | none => s) s
        | .at _ o => s.farWrite s.tile.ctx s.tile.ttag p.isNet o b
        | .here _ => s
    State.writeParts s bs r

/-- Whether a slice write of the parts meets a held slot or a leased sector. -/
def State.partsHeld (s : State) (bs : List (Option PByte)) (ps : List Part1) : Bool :=
  ps.any fun p => match s.partTile p with
    | some (id, o) => (s.tileAt id).tile.heldWrite o (p.cut bs)
    | none => false

/-- The leases, by home and directory entry, on the sectors that the parts touch (08 R198). -/
def State.partsLeased (s : State) (ps : List Part1) : Option (TileId × LeaseDir) :=
  ps.findSome? fun p => match s.partTile p with
    | some (id, o) => ((s.tileAt id).tile.leasedOut o p.len).map fun d => (id, d)
    | none => none

/-- The home of a sector recalls a lease on it. -/
def State.recallAt (s : State) (id : TileId) (d : LeaseDir) : State :=
  if d.recalled then s
  else
    let t := (s.tileAt id).tile
    let s := s.modTileAt id fun t => { t with leaseDir := t.leaseDir.map fun e => if e == d then { e with recalled := true } else e }
    s.notice
      { vc := 7, dst := .tile d.x d.y, dcore := .stage, src := id.endpoint, score := .stage, shnd := t.hnd, ctx := t.ctx, ttag := t.ttag,
        part := t.part, seq := 0, opn := false, age := 0, gen := s.routeGen, ent := 8, req := 0, avc := 0, body := .recall d.sector }

/-! ### Micro-TLBs (R119) -/

/-- Drops a page from the micro-TLBs of every tile of the context, or of every gateway of an engine. -/
def State.shootDown (s : State) (ctx : Nat) (p : Page → Bool) : State :=
  s.mapTiles (fun t => (t.owned || t.id.isGateway) && t.ctx == ctx) fun u => { u with tile := { u.tile with tlb := u.tile.tlb.filter fun g => !p g } }

/-- Whether a packet accesses a page of a context. -/
def Page.usedBy (g : Page) (ctx : Nat) (p : Packet) : Bool :=
  p.ctx == ctx && p.dst == g.endpoint &&
    (match p.body with
    | .read _ o n => decide (o < g.base + g.size) && decide (g.base < o + n)
    | .write o bs => decide (o < g.base + g.size) && decide (g.base < o + bs.length)
    | .atomic _ _ _ o _ _ => decide (o < g.base + g.size) && decide (g.base ≤ o)
    | _ => false)

/-- Accesses of the context to a page that left and are not performed (R119): in the fabric, held early in a window, or in a retry
buffer. -/
def State.pageInFlight (s : State) (ctx : Nat) (g : Page) : Bool :=
  s.net.any (g.usedBy ctx) || (s.modWins.any fun w => w.2.any fun x => x.held.any (g.usedBy ctx)) ||
    s.allTiles.any fun u => u.tile.owned && u.tile.ctx == ctx && [u.stage, u.comp].any fun c => c.link.retry.any fun r => g.usedBy ctx r.pkt

/-! ### The region firewall (R188) -/

/-- The bytes of a request at a rim endpoint. -/
def reqSpan : Body → Nat × Nat
  | .read _ o n => (o, n)
  | .write o bs => (o, bs.length)
  | .atomic _ w _ o _ _ => (o, if w then 4 else 8)
  | _ => (0, 0)

/-- Whether the context of a packet, of its partition, has the pages it addresses. -/
def State.pageOwned (s : State) (net : Bool) (p : Packet) : Bool :=
  let x := s.ctx p.ctx
  let o := (reqSpan p.body).1
  let n := (reqSpan p.body).2
  (x.part == p.part || decide (4096 ≤ p.ctx)) && (n == 0 || (chunks o n).all fun c => (x.page net c.1).isSome)

/-- The firewall's check of a packet that enters a region across a boundary. Log entry 33 (DEDUCED). -/
def State.firewall (s : State) (p : Packet) : Bool :=
  if p.vc == 0 || p.vc == 7 then (match legSrc p with | .tile _ _ => false | _ => true)
  else
    match p.dst with
    | .tile x y => (s.partOf p.part).quarters.contains (quarterOf x y)
    | .module _ => s.pageOwned false p
    | .engine _ => s.pageOwned true p || p.vc == 2
    | _ => true

end Sys2Proof.Machine
end

