-- ==== Sys2Proof/Machine/Fetch.lean ====
section
/-! DEFINITION. Fetching the words of a bundle from the slice (02_words R37-R43, 05_memory R125, R126). -/

namespace Sys2Proof.Machine

/-- The words that a fetch found, and the word at which it stopped with a fault. -/
structure Fetched where
  words : List Nat
  stop : Option (Cause × Word) := none

/-- Reads words from address a: up to the first base word, at most n. A word past the slice stops with BND, one in a poisoned
sector with DUE (R38, R126). -/
def fetchWords : Nat → Word → State → Fetched × State
  | 0, _, s => ({ words := [] }, s)
  | n + 1, a, s =>
    if 0x80000 ≤ a.toNat then ({ words := [], stop := some (.bnd, a) }, s)
    else
      let t := s.tile.ecc s.fresh a.toNat 2
      let s := { s with tile := t, fresh := if s.tile.flips.isEmpty then s.fresh else s.fresh + 1 }
      if t.poison.contains (a.toNat / 32) then ({ words := [], stop := some (.due, a) }, s)
      else
        let w := (t.slice.read a.toNat).toNat + 256 * (t.slice.read (a.toNat + 1)).toNat
        if w / 2048 < 30 then ({ words := [w] }, s)
        else
          let r := fetchWords n (a + 2) s
          ({ r.1 with words := w :: r.1.words }, r.2)

/-- What issuing the bundle at the pc comes to: an instruction of n words, or the cause and TVA of a trap. -/
inductive Issue where
  | run (i : Instr) (n : Nat)
  | trap (c : Cause) (va : Word)

/-- Fetches and decodes the bundle at the pc (R37-R40). Log entry 6 (DESIGN CHOICE). A malformed prefix whose next word lies past the slice
raises BND, since the bundle does not end in it: log entry 77 (DESIGN CHOICE). -/
def State.fetch (s : State) : Issue × State :=
  let r := fetchWords 5 s.core.pc s
  match decode r.1.words with
  | .instr i n => (.run i n, r.2)
  | .ill _ k => (.trap .ill (s.core.pc + BitVec.ofNat 64 (2 * k)), r.2)
  | .short =>
    match r.1.stop with
    | some (c, va) => (.trap c va, r.2)
    | none => (.trap .ill s.core.pc, r.2)

/-- The bundle at the pc is about to issue: NPC is the address after it (R64). -/
def State.begin (s : State) (n : Nat) : State :=
  { s with core := { s.core with npc := s.core.pc + BitVec.ofNat 64 (2 * n), issued := false } }

/-- The focus and the words for the host's question of one instruction: the core that may issue it (R14), in an activation, with the
words at its pc. -/
def homeOf : Instr → CoreSel
  | .rtak _ _ _ _ | .radvHead _ _ => .comp
  | .vadd _ _ _ _ _ | .vsub _ _ _ _ _ | .vmul _ _ _ _ _ | .vfma _ _ _ _ _ | .vmin _ _ _ _ _ | .vmax _ _ _ _ _ | .vand _ _ _ _ _
  | .vor _ _ _ _ _ | .vxor _ _ _ _ _ | .vshl _ _ _ _ _ | .vshr _ _ _ _ _ | .vceq _ _ _ _ _ | .vclt _ _ _ _ _ | .vcle _ _ _ _ _
  | .vsel _ _ _ _ _ | .vunaAbs _ _ _ _ | .vunaNeg _ _ _ _ | .vunaExp _ _ _ _ | .vunaLog2 _ _ _ _ | .vunaRcp _ _ _ _
  | .vunaRsq _ _ _ _ | .vunaTanh _ _ _ _ | .vunaSig _ _ _ _ | .vredSum _ _ _ _ | .vredMax _ _ _ _ | .vredMin _ _ _ _
  | .vredSsq _ _ _ _ | .vcvt _ _ _ _ _ | .vbc _ _ _ _ _ | .vmov _ _ _ | .vshuf _ _ _ _ _ | .vscan _ _ _ _ | .viota _ _ _ _
  | .vrot _ _ _ _ _ => .comp
  | .mmaAcc _ _ _ _ | .mmaOvw _ _ _ _ | .mmaKeepb _ _ _ _ | .mmaKeepa _ _ _ _ | .mmq _ _ _ _ _ | .mmg _ _ _ _ | .chkv _ _
  | .cfix _ _ | .csrd _ _ _ | .macz _ | .macrdF32 _ _ | .macrdBf16 _ _ _ | .macrdT8 _ _ _ _ | .macwr _ _ | .mwait0 | .mwait1
  | .mwait2 | .mwait3 | .mwait4 | .mwait5 | .mwait6 | .mwait7 | .mwaitAll | .mtr _ _ => .comp
  | .kadd _ _ _ | .ksub _ _ _ | .kmul _ _ _ | .kfma _ _ _ | .kaddd _ _ _ | .kscl _ _ _ | .kmuld _ _ _ | .kvsub _ _ _ | .knlRelu _ _
  | .knlExp _ _ | .knlSig _ _ | .knlSq _ _ | .knlRcp _ _ | .kmk _ _ _ _ | .kcolMean _ _ | .kcolVar _ _ | .kcolSdev _ _
  | .kcolDraw _ _ _ _ _ _ | .kldMp32 _ _ | .kldMb16 _ _ | .kstMp32 _ _ | .kstMb16 _ _ | .kmmaDwAcc _ _ _ _ _ | .kmmaMwAcc _ _ _ _ _
  | .kmmaDwOvw _ _ _ _ _ | .kmmaMwOvw _ _ _ _ _ | .kacrd _ _ | .kred _ _ | .kmode _ _ | .kmov _ _ | .kmovTr _ _ | .qnt _ _ _ _ _ _
  | .dqn _ _ _ _ _ _ | .baq _ _ _ _ _ _ => .comp
  | _ => .stage

/-- Bytes of words, little-endian. -/
def bytesOfWords (ws : List Nat) : List Byte := (ws.map fun w => leBytes 2 w).flatten

/-- The core of the tile in focus that may issue the words runs an activation, holds the words at its pc, and has its turn. Log entry 5 (DESIGN CHOICE). -/
def State.placeWords (s : State) (ws : List Nat) : State :=
  let k := match decode ws with | .instr i _ => homeOf i | _ => s.sel
  let s := s.withFull s.curTile k
  { s with
    turn := false, agenda := []
    core := { s.core with active := true }
    tile := { s.tile with slice := s.tile.slice.writeMany s.core.pc.toNat ((bytesOfWords ws).map some) } }

end Sys2Proof.Machine
end

