-- ==== Sys2Proof/Machine/Messages.lean ====
section
/-! DEFINITION. Message, queue and placement instructions (02_words R60-R62, 07_messages R155-R164). -/

namespace Sys2Proof.Machine

/-! ### The placement cache (R164) -/

/-- Looks up a rank: a hit becomes the most recently used of 64; a miss asks the quay and holds issue. -/
def State.placeLookup (s : State) (rank : Nat) : Chk State :=
  if s.tile.plCache.contains rank then
    .ok { s with tile := { s.tile with plCache := rank :: s.tile.plCache.filter (· != rank) } }
  else .wait { s with core := { s.core with plReq := some rank } }

/-- The entry fetched from the team's placement table (R164 PLACEMENT_CACHE_FILL). It replaces the least recently used of 64: log entry
79 (DESIGN CHOICE). -/
def execPlacementCacheFill (s : State) : Out :=
  match s.core.plReq with
  | none => .next s
  | some rank =>
    .next { s with
      core := { s.core with plReq := none }
      tile := { s.tile with plCache := (rank :: s.tile.plCache.filter (· != rank)).take 64 } }

/-! ### SEND (R157-R159) -/

def kindCode : MsgKind → Nat
  | .scalar => 0 | .row => 1 | .tileToRing => 2 | .header => 3

/-- The checks of a routing scalar (R157, R158). -/
def routeChk (k : MsgKind) (rt : Word) : Bool :=
  rt.extractLsb' 42 22 == (0 : BitVec 22) &&
    (if k == .tileToRing then rt.extractLsb' 32 4 == (0 : BitVec 4) && !rt.getLsbD 41 else rt.extractLsb' 38 3 == (0 : BitVec 3))

/-- Which rank of the team has a handle. -/
def rankOf (h : W32) : List Placed → Nat → Option (Nat × Placed)
  | [], _ => none
  | p :: r, n => if p.hnd == h then some (n, p) else rankOf h r (n + 1)

/-- A bit for each 32 bytes that holds a poisoned byte (R156 PMASK). -/
def pmaskOf (bs : List PByte) : BitVec 32 :=
  BitVec.ofNat 32 ((upto 32).foldl (fun n j => if ((bs.drop (32 * j)).take 32).any (·.2) then n + 2 ^ j else n) 0)

def vcOf (n : Nat) : Fin 8 := Fin.ofNat 8 (3 + n)

def selOf (b : Bool) : CoreSel := if b then .comp else .stage

/-- One SEND (R158): the checks, the placement look-up, the waits, the packet; poison that it copies sets CKI.POI (14 R344). -/
def State.sendMsg (s : State) (k : MsgKind) (rt : Word) (x : Option Xsc) (bs : List PByte) (fin : State → State) : Out :=
  if !routeChk k rt then s.trapB .bnd rt
  else
    match rankOf (rt.truncate 32) s.tile.placement 0 with
    | none => s.trapB .bnd rt
    | some (n, p) =>
      (s.placeLookup n).run s fun s =>
        if !s.orderReady x then s.stall
        else
          let dcore := selOf (rt.getLsbD 41)
          let body : Body := .msg k (Fin.ofNat 16 ((rt.extractLsb' 32 4).toNat)) (Fin.ofNat 8 ((rt.extractLsb' 38 3).toNat)) dcore
            (rt.truncate 32) (if Xsc.isRel x then some (Xsc.scopeOf x) else none) (bs.map (·.1)) (pmaskOf bs)
          s.send [{ dst := .tile p.x p.y, vc := vcOf (rt.extractLsb' 36 2).toNat, dcore := dcore, body := body }] fun s =>
            .next (fin ((s.fold (rt :: foldBytes bs)).copied (bs.any (·.2))))

/-- R158 SEND.s. -/
def execSendS (a b : SReg) (rep : Rep) (x : Option Xsc) (s : State) : Out :=
  s.staging
    (if !s.core.ready [a, b] then s.stall
    else s.repeated (.sendS a b rep x) rep 5 (s.S a) (s.S b) fun s _ w1 w2 fin =>
      s.sendMsg .scalar w1 x ((leBytes 8 w2.toNat).map fun b => (b, false)) fin)

/-- R158 SEND.r: a row of the staging core, the zero row or the broadcast of s[c]. -/
def execSendR (d : RCode) (a c : SReg) (p : RowPos) (x : Option Xsc) (s : State) : Out :=
  s.staging
    (if !s.core.ready [a, c] then s.stall
    else (s.codeChk [rowSel s.sel d p.base p.bank 0]).run s fun _ => s.repeated (.sendR d a c p x) p.rep 5 (s.S a) (s.S c) fun s j w1 w2 fin =>
      let r := rowSel s.sel d p.base p.bank j
      if !s.core.rowFree r then s.stall
      else
        (s.rowChk [r]).run s fun _ =>
          let v : RowVal := if r == .bc then { bits := broadcast 8 w2 } else s.core.rowVal r 8 c
          s.sendMsg .row w1 x v.bytes fin)

/-- R158 SEND.t. -/
def execSendT (t : Fin 4) (a : SReg) (rep : Rep) (x : Option Xsc) (s : State) : Out :=
  s.staging
    (if !(s.core.ready [a] && !s.core.busyT t.val) then s.stall
    else s.repeated (.sendT t a rep x) rep 5 (s.S a) 0 fun s _ w1 _ fin =>
      s.sendMsg .tileToRing w1 x (s.core.T t.val).bytes fin)

/-- R158 SEND.h. -/
def execSendH (a : SReg) (rep : Rep) (x : Option Xsc) (s : State) : Out :=
  s.staging
    (if !s.core.ready [a] then s.stall
    else s.repeated (.sendH a rep x) rep 5 (s.S a) 0 fun s _ w1 _ fin => s.sendMsg .header w1 x [] fin)

/-! ### The activating message (R161, R162) -/

/-- The berth of the current activation (R63 BRTH). -/
def Core.myBerth (c : Core) : Berth := c.berths[(Fin.ofNat 16 c.sr.brth.toNat)]

def Core.myMsg (c : Core) : Option Msg := c.myBerth.inbox.head?

/-- Bytes of the payload of the activating message. -/
def Core.payload (c : Core) : List PByte :=
  match c.myMsg with
  | some m => (upto m.payload.length).map fun j => ((m.payload[j]?).getD 0, m.pmask.getLsbD (j / 32))
  | none => []

/-- The next header word of q0, if one remains (R161). -/
def Core.q0word (c : Core) : Option Word :=
  match c.myBerth.inbox[c.q.q0pos / 4]? with
  | none => none
  | some m => some (match c.q.q0pos % 4 with | 0 => m.h0 | 1 => m.h1 | 2 => m.h2 | _ => m.h3)

/-- Pops the completion queue: the POI bit of the word sets CKI.POI (09 R227). -/
def State.popCq (s : State) (d : SReg) (w : Word) (r : List Word) : Out :=
  .next (((State.setS { s with core := { s.core with q := { s.core.q with cq := r } } } d w).copied (w.getLsbD 13)).retire)

/-- R162 INPOP: holds issue while the completion queue is empty. -/
def execInpop (d : SReg) (s : State) : Out :=
  if !s.core.ready [d] then s.stall
  else match s.core.q.cq with
    | [] => s.stall
    | w :: r => s.popCq d w r

/-- R162 INSK. -/
def execInsk (d : SReg) (s : State) : Out :=
  if !s.core.ready [d] then s.stall
  else match s.core.q.cq with
    | [] => .next (s.setS d 0).retire
    | w :: r => s.popCq d w r

/-- R162 INRD, b = 0: a poisoned half reads 0 and is a consumption. -/
def execInrd (d a : SReg) (s : State) : Out :=
  if !s.core.ready [d, a] then s.stall
  else
    let k := (s.S a).toNat % 128
    let p := s.core.payload
    if 8 * k + 8 ≤ p.length then
      let bs := (p.drop (8 * k)).take 8
      let bad := bs.any (·.2)
      .next (s.consume bad s.core.bofs fun s => (s.setS d (if bad then 0 else BitVec.ofNat 64 (leNat (bs.map (·.1))))).retire)
    else .next (s.setS d 0).retire

/-- R162 INRD.r: the first 64 payload bytes, missing bytes 0. -/
def execInrdR (d : RCode) (base : Fin 16) (bank : Bool) (s : State) : Out :=
  let r := rowSel s.sel d base bank 0
  if !s.core.rowOpen r then s.stall
  else
    (s.rowChk [r]).run s fun _ =>
      let bs := s.core.payload.take 64
      let bs := bs ++ List.replicate (64 - bs.length) (0, false)
      .next (s.consume (bs.any (·.2)) s.core.bofs fun s => State.retire { s with core := s.core.setRow r (RowVal.ofBytes bs) })

/-! ### Queue registers (R60-R62) -/

/-- Whether QRD may name a queue on this core. -/
def State.qReadable (s : State) (q : Queue) : Bool :=
  match q with
  | 3 => s.tile.id.isGateway
  | 5 => s.sel == .comp
  | 6 | 7 => false
  | _ => true

/-- The entry at the front of a queue. -/
def Core.qHead (c : Core) (q : Queue) : Option Word :=
  match q with
  | 0 => c.q0word
  | 1 => c.q.q1.head?
  | 2 => c.q.q2.head?
  | 3 => c.q.q3in.head?
  | 4 => c.q.q4resp.head?
  | 5 => c.q.q5.head?
  | _ => none

/-- The queues after a pop. -/
def Queues.pop (x : Queues) (q : Queue) : Queues :=
  match q with
  | 0 => { x with q0pos := x.q0pos + 1 }
  | 1 => { x with q1 := x.q1.drop 1 }
  | 2 => { x with q2 := x.q2.drop 1 }
  | 3 => { x with q3in := x.q3in.drop 1 }
  | 4 => { x with q4resp := x.q4resp.drop 1 }
  | 5 => { x with q5 := x.q5.drop 1 }
  | _ => x

/-- Whether the word popped from a queue carries poison (09 R227, R236). -/
def qPoi (q : Queue) (w : Word) : Bool := (q == 1 && w.getLsbD 13) || (q == 2 && w.getLsbD 31)

/-- The commands outstanding after a pop: one of q2 ends one (09 R235). -/
def Core.popped (c : Core) (q : Queue) : Core := { c with q := c.q.pop q, kvOut := if q == 2 then c.kvOut - 1 else c.kvOut }

/-- R61 QRD. -/
def execQrd (d : SReg) (q : Queue) (s : State) : Out :=
  if !s.qReadable q then s.trapB .ill s.core.pc
  else if !s.core.ready [d] then s.stall
  else match s.core.qHead q with
    | none => s.stall
    | some w => .next (((State.setS { s with core := s.core.popped q } d w).copied (qPoi q w)).retire)

/-- Entries on the return side of the engine of the gateway in focus (R287). -/
def State.returned (s : State) : Nat :=
  match s.tile.id with
  | .gateway g => (s.allTiles.filter fun u => match u.tile.id with | .gateway k => k / 16 == g / 16 | _ => false).foldl
      (fun n u => n + u.stage.q.q3out.length + u.comp.q.q3out.length) 0
  | .grid _ _ => 0

/-- R61 QWR: q3 on gateway tiles, after every earlier write of the core is acknowledged and where the engine's return side of 16
entries has room (09 R244, R287), and q4. -/
def execQwr (q : Queue) (a : SReg) (s : State) : Out :=
  if !(q == 4 || (q == 3 && s.tile.id.isGateway)) then s.trapB .ill s.core.pc
  else if !s.core.ready [a] then s.stall
  else if q == 4 then
    if 4 ≤ s.core.q.q4req.length then s.stall
    else .next (State.retire { s with core := { s.core with q := { s.core.q with q4req := s.core.q.q4req ++ [s.S a] } } })
  else if 16 ≤ s.returned || s.unacked .pod then s.stall
  else .next (State.retire { s with core := { s.core with q := { s.core.q with q3out := s.core.q.q3out ++ [s.S a] } } })

/-! ### Placement (R163, R164) -/

/-- R163 PLH. -/
def execPlh (d a : SReg) (s : State) : Out :=
  if !s.core.ready [d, a] then s.stall
  else match s.tile.placement[(s.S a).toNat]? with
    | none => s.trapB .bnd (s.S a)
    | some p => (s.placeLookup (s.S a).toNat).run s fun s => .next (s.setS d (p.hnd.zeroExtend 64)).retire

/-- R163 PLQ: a request to the quay, with an entry of KIND 7. -/
def execPlq (d a : SReg) (s : State) : Out :=
  if !s.core.ready [d, a] then s.stall
  else s.askQuay (.plq d a) 8 (s.S a) 0

/-- The site word of a handle of the caller's partition, else 0 (R163). A handle of the partition whose team is docked stands on no site:
VALID and the generation with zeros for the site, log entry 83 (DESIGN CHOICE). -/
def State.siteOfHandle (s : State) (h : W32) : Word :=
  match s.tileOf h with
  | some t => s.siteWord t.tile.id.xy.1 t.tile.id.xy.2
  | none => if s.partOfHandle h == s.tile.part then BitVec.ofNat 64 (2 ^ 32 * s.routeGen.toNat + 2 ^ 63) else 0

end Sys2Proof.Machine
end

