-- ==== Sys2Proof/Machine/Header.lean ====
section
/-! DEFINITION. The header words of packets, and the count of packets that a firewall turned away (07_messages R156, R188). -/

namespace Sys2Proof.Machine

/-! ### Header words (R156) -/

def endKind : Endpoint → Nat
  | .tile _ _ => 0 | .quay _ => 1 | .module _ => 2 | .engine _ => 3 | .ualink _ => 4

/-- KIND. A request to a quay that is no translation is management: log entry 82 (DESIGN CHOICE). -/
def pktKind : Body → Nat
  | .msg k _ _ _ _ _ _ _ => kindCode k
  | .read _ _ _ | .write _ _ | .atomic _ _ _ _ _ _ | .phArrive _ | .phWait _ | .phReg _ | .phQry _ | .writeBack _ _ _ => 4
  | .ask k _ _ => if k == 11 then 4 else 7
  | .completed _ => 6
  | .close | .recall _ | .resend _ | .stop | .entry _ | .failed _ _ _ | .q4 _ _ => 7
  | _ => 5

def coreBit (k : CoreSel) : Nat := match k with | .stage => 0 | .comp => 1

def pktWord0 (p : Packet) : Word :=
  let d := routerOf p.dst
  let m : Nat × Nat × Nat := match p.body with
    | .msg _ b _ _ _ r _ _ => (b.val, (if r.isSome then 1 else 0), match r with | some sc => scopeCode sc | none => 0)
    | _ => (0, 0, 0)
  BitVec.ofNat 64 (d.1 + 2 ^ 8 * d.2 + 2 ^ 16 * p.vc.val + 2 ^ 19 * m.1 + 2 ^ 23 * pktKind p.body + 2 ^ 26 * p.ctx + 2 ^ 38 * m.2.1 +
    2 ^ 39 * m.2.2 + 2 ^ 42 * p.part + (if p.vc == 0 || p.vc == 2 || p.vc == 7 then 0 else 2 ^ 48 * p.seq.toNat))

/-- The handle of the tile that a packet comes from: of a reply, the replier's own. -/
def senderHandle (p : Packet) : W32 := if p.vc == 2 then p.rhnd else p.shnd

/-- The source that the header names is that of the leg: the quay that hands on a packet of a tile (R188), else its own. SHND is 0 for
quays and engines. -/
def pktWord1 (p : Packet) : Word :=
  let r := routerOf (legSrc p)
  let dc := match p.body with
    | .msg .tileToRing _ _ _ _ _ _ _ => 0
    | .msg _ _ _ c _ _ _ _ => coreBit c
    | _ => 0
  let h : W32 := match legSrc p with | .tile _ _ => senderHandle p | _ => 0
  BitVec.ofNat 64 (h.toNat + 2 ^ 32 * r.1 + 2 ^ 40 * r.2 + 2 ^ 48 * coreBit p.score + (if p.opn then 2 ^ 49 else 0) +
    2 ^ 50 * p.age + 2 ^ 57 * endKind p.dst + 2 ^ 60 * endKind (legSrc p) + 2 ^ 63 * dc)

/-- OFS and OP of a kind-4 packet. -/
def reqWord (o op : Nat) : Word := BitVec.ofNat 64 (o % 2 ^ 56 + 2 ^ 56 * op)

/-- Word 2: a message's handle, ring and length, a request's offset and operation, the number and status that a response answers. -/
def pktWord2 (p : Packet) : Word :=
  let answer (stat : Nat) : Word := BitVec.ofNat 64 ((if p.avc == 0 || p.avc == 7 then 0 else p.seq.toNat) + 2 ^ 16 * stat)
  match p.body with
  | .msg _ _ r _ h _ bs _ => BitVec.ofNat 64 (h.toNat + 2 ^ 32 * r.val + 2 ^ 35 * bs.length)
  | .read _ o _ => reqWord o 0
  | .write o _ => reqWord o 1
  | .writeBack sec _ _ => reqWord (32 * sec) 1
  | .atomic _ _ _ o _ _ => reqWord o 2
  | .phReg r => reqWord (0x100000 + r.slot) 2
  | .phArrive _ | .phWait _ | .phQry _ => reqWord 0 2
  | .ask k va _ => if k == 11 then reqWord (ptrOfs va) 3 else 0
  | .ack false | .data _ _ | .old _ _ _ | .value _ | .told _ => answer 0
  | .ack true => answer 1
  | .retry => answer 2
  | .reject => answer 3
  | .close | .recall _ | .resend _ | .stop | .completed _ | .entry _ | .failed _ _ _ | .q4 _ _ => 0

/-- PMASK of a packet. -/
def pktMask : Body → Nat
  | .msg _ _ _ _ _ _ _ m => m.toNat
  | .write _ bs => (pmaskOf (bs.map fun b => b.getD (0, false))).toNat
  | .data _ bs => (pmaskOf bs).toNat
  | .writeBack _ _ bad => if bad then 1 else 0
  | .old _ _ (some (_, _, bad)) => if bad then 2 else 0
  | _ => 0

/-- Word 3: PMASK, GEN and TTAG. -/
def pktWord3 (p : Packet) : Word :=
  let m := pktMask p.body
  BitVec.ofNat 64 (m + 2 ^ 32 * p.gen.toNat + 2 ^ 48 * p.ttag)

/-- A packet that a firewall turned away is counted and reported by the quay of the region of its destination; the report names the tile
that sent it (R174, R188). -/
def State.countReject (s : State) (p : Packet) : State :=
  let reg := regionOfEnd p.dst
  let r := s.region reg
  let s := s.putRegion reg { r with rejects := r.rejects + 1 }
  let at' := routerOf p.src
  s.report reg repFirewall (senderHandle p) (s.siteWord at'.1 at'.2) (r.rejects + 1) (pktWord0 p) (pktWord1 p)

end Sys2Proof.Machine
end

