-- ==== Sys2Proof/Machine/Real.lean ====
section
/-! DEFINITION. Exact real arithmetic for the rules that define a result by a formula in exact reals and one rounding (10_row R255,
R260, 11_narrow R273, 12_matrix R299, 13_moment R317): dyadic numbers, intervals of them with outward rounding, and the functions that
the formulas use. A value is computed to more and more bits until its rounding is decided (log entry 20). -/

namespace Sys2Proof.Machine

/-! ### Dyadic numbers -/

/-- The number m * 2^e. -/
structure Dy where
  m : Int
  e : Int
  deriving DecidableEq, Repr, Inhabited

def bitLen (n : Nat) : Nat := if n == 0 then 0 else Nat.log2 n + 1

/-- Position of the leading bit. -/
def Dy.top (x : Dy) : Int := (bitLen x.m.natAbs : Int) - 1 + x.e

def Dy.zero : Dy := { m := 0, e := 0 }
def Dy.one : Dy := { m := 1, e := 0 }
def Dy.ofInt (n : Int) : Dy := { m := n, e := 0 }
def Dy.neg (x : Dy) : Dy := { m := -x.m, e := x.e }
def Dy.abs (x : Dy) : Dy := { m := x.m.natAbs, e := x.e }
def Dy.mul (x y : Dy) : Dy := { m := x.m * y.m, e := x.e + y.e }
def Dy.scale (x : Dy) (k : Int) : Dy := { m := x.m, e := x.e + k }
def Dy.isZero (x : Dy) : Bool := x.m == 0

def shl (m : Int) (k : Nat) : Int := m * (2 ^ k : Nat)

/-- The exact sum. -/
def Dy.add (x y : Dy) : Dy :=
  if x.m == 0 then y else if y.m == 0 then x
  else if x.e ≤ y.e then { m := x.m + shl y.m (y.e - x.e).toNat, e := x.e }
  else { m := shl x.m (x.e - y.e).toNat + y.m, e := y.e }

def Dy.sub (x y : Dy) : Dy := x.add y.neg

/-- x < y; numbers of different size are compared by their leading bits. -/
def Dy.lt (x y : Dy) : Bool :=
  if decide (x.m < 0) != decide (y.m < 0) then decide (x.m < 0)
  else if x.m == 0 || y.m == 0 then decide (x.m < y.m)
  else if x.top != y.top then (if x.m < 0 then decide (y.top < x.top) else decide (x.top < y.top))
  else decide ((x.sub y).m < 0)

def Dy.le (x y : Dy) : Bool := !y.lt x
def Dy.eq (x y : Dy) : Bool := !x.lt y && !y.lt x

/-- Rounded down to p bits. -/
def Dy.down (p : Nat) (x : Dy) : Dy :=
  let l := bitLen x.m.natAbs
  if l ≤ p then x else { m := x.m.fdiv (2 ^ (l - p) : Nat), e := x.e + (l - p : Nat) }

def Dy.up (p : Nat) (x : Dy) : Dy := (Dy.down p x.neg).neg

/-- An addend far below the leading bit of the sum, bounded from the side that is asked for. -/
def Dy.clip (up : Bool) (ref : Int) (x : Dy) : Dy :=
  if x.m == 0 || decide (ref ≤ x.top) then x
  else if decide (0 < x.m) then (if up then { m := 1, e := ref } else Dy.zero)
  else if up then Dy.zero else { m := -1, e := ref }

def Dy.addTo (p : Nat) (up : Bool) (x y : Dy) : Dy :=
  let r := (if x.m == 0 then y.top else if y.m == 0 then x.top else if x.top < y.top then y.top else x.top) - (2 * p + 8 : Nat)
  let z := (x.clip up r).add (y.clip up r)
  if up then z.up p else z.down p

def Dy.mulTo (p : Nat) (up : Bool) (x y : Dy) : Dy := if up then (x.mul y).up p else (x.mul y).down p

/-- The quotient rounded to p bits; y is not 0. -/
def Dy.divTo (p : Nat) (up : Bool) (x y : Dy) : Dy :=
  let k := p + 2 + bitLen y.m.natAbs
  let n := shl x.m k
  let q := if up then -((-n).fdiv y.m) else n.fdiv y.m
  let z : Dy := { m := q, e := x.e - y.e - (k : Nat) }
  if up then z.up p else z.down p

/-- Newton's iteration for the integer square root, from above. -/
def isqrtLoop : Nat → Nat → Nat → Nat
  | 0, _, x => x
  | f + 1, n, x => let y := (x + n / x) / 2; if y < x then isqrtLoop f n y else x

def isqrt (n : Nat) : Nat := if n == 0 then 0 else isqrtLoop (bitLen n + 4) n (2 ^ (bitLen n / 2 + 1))

/-- The square root of x, not negative, rounded to p bits; exact where it is dyadic. -/
def Dy.sqrtTo (p : Nat) (up : Bool) (x : Dy) : Dy :=
  if x.m ≤ 0 then Dy.zero
  else
    let k := 2 * p + 4 + (if x.e % 2 == 0 then 0 else 1)
    let n := (shl x.m k).toNat
    let r := isqrt n
    let r := if up && r * r != n then r + 1 else r
    let z : Dy := { m := r, e := (x.e - (k : Nat)) / 2 }
    if up then z.up p else z.down p

/-- The integer below. -/
def Dy.floor (x : Dy) : Int := if 0 ≤ x.e then shl x.m x.e.toNat else x.m.fdiv (2 ^ (-x.e).toNat : Nat)

/-! ### Intervals -/

/-- An interval that holds a real number; `ok` is false where nothing is known. -/
structure Iv where
  lo : Dy
  hi : Dy
  ok : Bool := true
  deriving DecidableEq, Repr, Inhabited

def Iv.pt (x : Dy) : Iv := { lo := x, hi := x }
def Iv.int (n : Int) : Iv := Iv.pt (Dy.ofInt n)
def Iv.none : Iv := { lo := Dy.zero, hi := Dy.zero, ok := false }
def Iv.neg (x : Iv) : Iv := { lo := x.hi.neg, hi := x.lo.neg, ok := x.ok }
def Iv.isPt (x : Iv) : Bool := x.lo.eq x.hi
def Iv.scale (x : Iv) (k : Int) : Iv := { x with lo := x.lo.scale k, hi := x.hi.scale k }

def Dy.min (x y : Dy) : Dy := if x.lt y then x else y
def Dy.max (x y : Dy) : Dy := if x.lt y then y else x

def Iv.add (p : Nat) (x y : Iv) : Iv := { lo := x.lo.addTo p false y.lo, hi := x.hi.addTo p true y.hi, ok := x.ok && y.ok }
def Iv.sub (p : Nat) (x y : Iv) : Iv := Iv.add p x y.neg

def Iv.mul (p : Nat) (x y : Iv) : Iv :=
  let a := x.lo.mul y.lo
  let b := x.lo.mul y.hi
  let c := x.hi.mul y.lo
  let d := x.hi.mul y.hi
  { lo := ((a.min b).min (c.min d)).down p, hi := ((a.max b).max (c.max d)).up p, ok := x.ok && y.ok }

/-- x / y where y does not hold 0. -/
def Iv.div (p : Nat) (x y : Iv) : Iv :=
  if y.lo.m ≤ 0 && 0 ≤ y.hi.m then Iv.none
  else
    let q (up : Bool) : Dy :=
      let f (a b : Dy) := a.divTo p up b
      if up then ((f x.lo y.lo).max (f x.lo y.hi)).max ((f x.hi y.lo).max (f x.hi y.hi))
      else ((f x.lo y.lo).min (f x.lo y.hi)).min ((f x.hi y.lo).min (f x.hi y.hi))
    { lo := q false, hi := q true, ok := x.ok && y.ok }

def Iv.sqrt (p : Nat) (x : Iv) : Iv :=
  if x.lo.m < 0 then Iv.none else { lo := x.lo.sqrtTo p false, hi := x.hi.sqrtTo p true, ok := x.ok }

/-- max(x, 0) where the sign of x is known. -/
def Iv.maxZero (x : Iv) : Iv :=
  if 0 ≤ x.lo.m then x else if x.hi.m ≤ 0 then { lo := Dy.zero, hi := Dy.zero, ok := x.ok } else Iv.none

/-! ### Constants and functions -/

/-- The sum of u^j / (2(k+j)+1) over j, from its n-th term up, for 0 ≤ u ≤ 1/8. -/
def atanhHorner (p : Nat) (u : Iv) : Nat → Nat → Iv
  | 0, _ => { lo := Dy.zero, hi := Dy.ofInt 2 }
  | n + 1, k => Iv.add p (Iv.div p (Iv.int 1) (Iv.int (2 * k + 1))) (Iv.mul p u (atanhHorner p u n (k + 1)))

def atanhIv (p : Nat) (t : Iv) : Iv := Iv.mul p t (atanhHorner p (Iv.mul p t t) (p / 3 + 8) 0)

/-- The same sum with alternating signs. -/
def atanHorner (p : Nat) (u : Iv) : Nat → Nat → Iv
  | 0, _ => { lo := Dy.zero, hi := Dy.ofInt 1 }
  | n + 1, k => Iv.sub p (Iv.div p (Iv.int 1) (Iv.int (2 * k + 1))) (Iv.mul p u (atanHorner p u n (k + 1)))

def atanInv (p : Nat) (n : Int) : Iv :=
  let t := Iv.div p (Iv.int 1) (Iv.int n)
  Iv.mul p t (atanHorner p (Iv.mul p t t) (p / 4 + 8) 0)

def ln2Iv (p : Nat) : Iv := (atanhIv p (Iv.div p (Iv.int 1) (Iv.int 3))).scale 1

/-- π = 16 atan(1/5) - 4 atan(1/239). -/
def piIv (p : Nat) : Iv := Iv.sub p ((atanInv p 5).scale 4) ((atanInv p 239).scale 2)

/-- ln x for x > 0: e ln 2 + 2 atanh((m - 1)/(m + 1)) with m from 2/3 to 4/3; exact at 1. -/
def lnPt (p : Nat) (x : Dy) : Iv :=
  let e := x.top
  let m := x.scale (-e)
  let big := (Dy.ofInt 4).lt (m.mul (Dy.ofInt 3))
  let e := if big then e + 1 else e
  let m := if big then m.scale (-1) else m
  let t := Iv.div p (Iv.pt (m.sub Dy.one)) (Iv.pt (m.add Dy.one))
  let l := (atanhIv p t).scale 1
  if e == 0 then l else Iv.add p (Iv.mul p (Iv.int e) (ln2Iv p)) l

def lnIv (p : Nat) (x : Iv) : Iv :=
  if x.lo.m ≤ 0 then Iv.none else { lo := (lnPt p x.lo).lo, hi := (lnPt p x.hi).hi, ok := x.ok }

/-- log2 x for x > 0; exact at powers of two. -/
def log2Pt (p : Nat) (x : Dy) : Iv :=
  if x.eq (Dy.one.scale x.top) then Iv.int x.top else Iv.div p (lnPt p x) (ln2Iv p)

/-- 1 + r/(k+1) (1 + r/(k+2) (...)) for |r| ≤ 1/2. -/
def expHorner (p : Nat) (r : Iv) : Nat → Nat → Iv
  | 0, _ => { lo := { m := 1, e := -1 }, hi := Dy.ofInt 2 }
  | n + 1, k => Iv.add p (Iv.int 1) (Iv.div p (Iv.mul p r (expHorner p r n (k + 1))) (Iv.int (k + 1)))

/-- e^x; exact at 0. -/
def expPt (p : Nat) (x : Dy) : Iv :=
  if x.isZero then Iv.int 1
  else
    let q := p + 16 + x.top.toNat
    let l := ln2Iv q
    let n := ((x.divTo q false l.lo).addTo (q + 2) false { m := 1, e := -1 }).floor
    let n := if x.top < -2 then 0 else n
    let r := if n == 0 then Iv.pt x else Iv.sub q (Iv.pt x) (Iv.mul q (Iv.int n) l)
    let y := (expHorner (p + 8) r (p / 4 + 16) 0).scale n
    { lo := y.lo.down p, hi := y.hi.up p }

def expIv (p : Nat) (x : Iv) : Iv :=
  if x.isPt then { expPt p x.lo with ok := x.ok } else { lo := (expPt p x.lo).lo, hi := (expPt p x.hi).hi, ok := x.ok }

/-- 1 / (1 + e^-x). -/
def sigIv (p : Nat) (x : Iv) : Iv := Iv.div p (Iv.int 1) (Iv.add p (Iv.int 1) (expIv p x.neg))

/-- tanh x = (e^2x - 1) / (e^2x + 1). -/
def tanhIv (p : Nat) (x : Iv) : Iv :=
  let t := expIv p (x.scale 1)
  Iv.div p (Iv.sub p t (Iv.int 1)) (Iv.add p t (Iv.int 1))

/-- The standard normal density. -/
def densityIv (p : Nat) (a : Iv) : Iv :=
  Iv.div p (expIv p ((Iv.mul p a a).scale (-1)).neg) (Iv.sqrt p ((piIv p).scale 1))

/-- 1 + u/(2k+3) (1 + u/(2k+5) (...)); the tail lies from 1 to 2 where u ≤ k. -/
def phiHorner (p : Nat) (u : Iv) : Nat → Nat → Iv
  | 0, _ => { lo := Dy.ofInt 1, hi := Dy.ofInt 2 }
  | n + 1, k => Iv.add p (Iv.int 1) (Iv.div p (Iv.mul p u (phiHorner p u n (k + 1))) (Iv.int (2 * k + 3)))

/-- The standard normal distribution function for |a| ≤ 8: 1/2 + φ(a) (a + a^3/3 + a^5/15 + ...). -/
def phiIv (p : Nat) (a : Iv) : Iv :=
  Iv.add p (Iv.pt { m := 1, e := -1 })
    (Iv.mul p (densityIv p a) (Iv.mul p a (phiHorner p (Iv.mul p a a) (p + 160) 0)))

/-! ### Deciding a rounding -/

/-- The precisions that are tried. Log entry 20 (DESIGN CHOICE). -/
def precisions : List Nat := [96, 192, 384, 768, 1536, 3072, 6144, 12288]

/-- The value of a monotone rounding g at the real that f encloses; `exact` tells g whether the enclosure is a point. -/
def decideIn {α : Type} [BEq α] (f : Nat → Iv) (g : Bool → Dy → α) : List Nat → α
  | [] => let v := f 12288; g v.isPt v.lo
  | p :: ps =>
    let v := f p
    if v.ok && v.isPt then g true v.lo
    else if v.ok && g false v.lo == g false v.hi then g false v.lo
    else decideIn f g ps

def decideReal {α : Type} [BEq α] (f : Nat → Iv) (g : Bool → Dy → α) : α := decideIn f g precisions

end Sys2Proof.Machine
end

