-- ==== Sys2Proof/Machine/Float.lean ====
section
/-! DEFINITION. Floating-point formats, rounding, flags and element arithmetic (10_row R247-R260, R263), and the tapered formats T8 and
T6 (11_narrow R270-R273). -/

namespace Sys2Proof.Machine

/-! ### Formats and values (R247) -/

/-- A binary format: exponent and fraction bits. -/
structure Fmt where
  ew : Nat
  fw : Nat
  deriving DecidableEq, Repr, Inhabited

def f32 : Fmt := { ew := 8, fw := 23 }
def bf16 : Fmt := { ew := 8, fw := 7 }
def f16 : Fmt := { ew := 5, fw := 10 }

def Fmt.bias (f : Fmt) : Nat := 2 ^ (f.ew - 1) - 1
def Fmt.width (f : Fmt) : Nat := 1 + f.ew + f.fw
def Fmt.signBit (f : Fmt) : Nat := 2 ^ (f.ew + f.fw)
/-- The default NaN. -/
def Fmt.qnan (f : Fmt) : Nat := (2 ^ f.ew - 1) * 2 ^ f.fw + 2 ^ (f.fw - 1)
def Fmt.inf (f : Fmt) (neg : Bool) : Nat := (2 ^ f.ew - 1) * 2 ^ f.fw + if neg then f.signBit else 0
def Fmt.maxFinite (f : Fmt) (neg : Bool) : Nat := (2 ^ f.ew - 1) * 2 ^ f.fw - 1 + if neg then f.signBit else 0
def Fmt.zero (f : Fmt) (neg : Bool) : Nat := if neg then f.signBit else 0
/-- The exponent of the last fraction bit of a subnormal. -/
def Fmt.qmin (f : Fmt) : Int := 1 - (f.bias : Int) - f.fw

/-- A value: NaN (signalling or quiet), an infinity, or a finite number by sign and magnitude. -/
inductive Fp where
  | nan (sig : Bool)
  | inf (neg : Bool)
  | num (neg : Bool) (mag : Nat) (e : Int)
  deriving DecidableEq, Repr, Inhabited

/-- The value of a bit pattern. -/
def Fmt.decode (f : Fmt) (bits : Nat) : Fp :=
  let neg := bits / f.signBit % 2 == 1
  let ex := bits / 2 ^ f.fw % 2 ^ f.ew
  let fr := bits % 2 ^ f.fw
  if ex == 2 ^ f.ew - 1 then (if fr == 0 then .inf neg else .nan (fr < 2 ^ (f.fw - 1)))
  else if ex == 0 then .num neg fr f.qmin
  else .num neg (fr + 2 ^ f.fw) (f.qmin + (ex : Int) - 1)

def Fp.isNan : Fp → Bool
  | .nan _ => true
  | _ => false
def Fp.isSig : Fp → Bool
  | .nan s => s
  | _ => false
def Fp.isInf : Fp → Bool
  | .inf _ => true
  | _ => false
def Fp.neg : Fp → Bool
  | .nan _ => false
  | .inf n => n
  | .num n _ _ => n
def Fp.isZero : Fp → Bool
  | .num _ m _ => m == 0
  | _ => false
/-- The exact number; only for finite values. -/
def Fp.dy : Fp → Dy
  | .num n m e => { m := if n then -(m : Int) else m, e := e }
  | _ => Dy.zero
def Fp.flip : Fp → Fp
  | .nan s => .nan s
  | .inf n => .inf (!n)
  | .num n m e => .num (!n) m e

/-! ### Flags and rounding (R250, R251) -/

/-- Rounding modes by their code in FCTL. -/
inductive Rm where
  | rne | rtz | rup | rdn
  deriving DecidableEq, Repr, Inhabited

def rmOf (n : Nat) : Rm := match n % 4 with | 0 => .rne | 1 => .rtz | 2 => .rup | _ => .rdn

/-- The flags as they stand in FFL: NV, DZ, OF, UF, NX from bit 0. -/
abbrev Flags := BitVec 5

def flagNV : Flags := 1
def flagDZ : Flags := 2
def flagOF : Flags := 4
def flagUF : Flags := 8
def flagNX : Flags := 16

/-- A result with the flags it raises. -/
structure Res where
  bits : Nat
  fl : Flags := 0
  deriving DecidableEq, Repr, Inhabited

/-- Whether the magnitude goes up: it lies above its floor, `half` compares it with the midpoint. -/
def roundsUp (rm : Rm) (neg odd : Bool) (half : Ordering) (exact : Bool) : Bool :=
  if exact then false
  else
    match rm with
    | .rne => half == .gt || (half == .eq && odd)
    | .rtz => false
    | .rup => !neg
    | .rdn => neg

/-- The magnitude a * 2^e as a multiple of 2^q: the integer after rounding and whether it is exact. -/
def roundMag (rm : Rm) (neg : Bool) (a : Nat) (e q : Int) : Nat × Bool :=
  if q ≤ e then (a * 2 ^ (e - q).toNat, true)
  else
    let k := (q - e).toNat
    if bitLen a + 1 < k then
      let ex := a == 0
      ((if roundsUp rm neg false .lt ex then 1 else 0), ex)
    else
      let fl := a / 2 ^ k
      let r := a % 2 ^ k
      let half := compare (2 * r) (2 ^ k)
      ((if roundsUp rm neg (fl % 2 == 1) half (r == 0) then fl + 1 else fl), r == 0)

/-- Rounds an exact real to a format; `exact` false says that the real is near x and no dyadic number. `zneg` is the sign of an exact
zero. Tininess is detected after rounding. -/
def Fmt.round (f : Fmt) (rm : Rm) (x : Dy) (zneg : Bool := false) (exact : Bool := true) : Res :=
  if x.m == 0 then { bits := f.zero zneg }
  else
    let neg := decide (x.m < 0)
    let a := x.m.natAbs
    let big : Res :=
      { bits := (match rm with
          | .rne => f.inf neg
          | .rtz => f.maxFinite neg
          | .rup => if neg then f.maxFinite neg else f.inf neg
          | .rdn => if neg then f.inf neg else f.maxFinite neg)
        fl := flagOF ||| flagNX }
    if (f.bias : Int) + 1 < x.top then big
    else
      let qn := x.top - f.fw
      let free := roundMag rm neg a x.e qn
      let tiny := decide (((bitLen free.1 : Int) - 1 + qn) < 1 - (f.bias : Int))
      let q := if qn < f.qmin then f.qmin else qn
      let r := roundMag rm neg a x.e q
      let mag := ((q - f.qmin).toNat) * 2 ^ f.fw + r.1
      if (2 ^ f.ew - 1) * 2 ^ f.fw ≤ mag then big
      else
        let ex := r.2 && exact
        { bits := mag + (if neg then f.signBit else 0)
          fl := (if ex then 0 else flagNX) ||| (if !ex && tiny then flagUF else 0) }

/-- The default NaN, with NV where an invalid operation or a signalling NaN made it. -/
def Fmt.nanRes (f : Fmt) (nv : Bool) : Res := { bits := f.qnan, fl := if nv then flagNV else 0 }

/-! ### Element arithmetic (R255) -/

/-- The sign of an exact zero sum of addends with these signs. -/
def zeroSign (rm : Rm) (x y : Bool) : Bool := if x == y then x else rm == .rdn

/-- x + y. -/
def Fmt.add (f : Fmt) (rm : Rm) (x y : Nat) : Res :=
  let x := f.decode x
  let y := f.decode y
  if x.isNan || y.isNan then f.nanRes (x.isSig || y.isSig)
  else if x.isInf then (if y.isInf && x.neg != y.neg then f.nanRes true else { bits := f.inf x.neg })
  else if y.isInf then { bits := f.inf y.neg }
  else f.round rm (x.dy.add y.dy) (zeroSign rm x.neg y.neg)

/-- x - y. -/
def Fmt.sub (f : Fmt) (rm : Rm) (x y : Nat) : Res := f.add rm x (y ^^^ f.signBit)

/-- x * y. -/
def Fmt.mul (f : Fmt) (rm : Rm) (x y : Nat) : Res :=
  let x := f.decode x
  let y := f.decode y
  let s := x.neg != y.neg
  if x.isNan || y.isNan then f.nanRes (x.isSig || y.isSig)
  else if x.isInf || y.isInf then (if x.isZero || y.isZero then f.nanRes true else { bits := f.inf s })
  else f.round rm (x.dy.mul y.dy) s

/-- x * y + z, rounded once. -/
def Fmt.fma (f : Fmt) (rm : Rm) (x y z : Nat) : Res :=
  let x := f.decode x
  let y := f.decode y
  let z := f.decode z
  let s := x.neg != y.neg
  let zi := (x.isInf && y.isZero) || (x.isZero && y.isInf)
  if zi then f.nanRes true
  else if x.isNan || y.isNan || z.isNan then f.nanRes (x.isSig || y.isSig || z.isSig)
  else if x.isInf || y.isInf then (if z.isInf && z.neg != s then f.nanRes true else { bits := f.inf s })
  else if z.isInf then { bits := f.inf z.neg }
  else f.round rm ((x.dy.mul y.dy).add z.dy) (zeroSign rm s z.neg)

/-! ### Comparison (R256, R258) -/

/-- x < y as numbers with -0 = +0; no NaN. -/
def Fp.less (x y : Fp) : Bool :=
  match x, y with
  | .inf n, .inf n' => n && !n'
  | .inf n, _ => n
  | _, .inf n => !n
  | _, _ => x.dy.lt y.dy

def Fp.same (x y : Fp) : Bool := !x.less y && !y.less x

/-- x < y with -0 < +0. -/
def Fp.lessZ (x y : Fp) : Bool := x.less y || (x.same y && x.isZero && y.isZero && x.neg && !y.neg)

def Fmt.minmax (f : Fmt) (max : Bool) (xb yb : Nat) : Res :=
  let x := f.decode xb
  let y := f.decode yb
  let fl : Flags := if x.isSig || y.isSig then flagNV else 0
  if x.isNan && y.isNan then { bits := f.qnan, fl := fl }
  else if x.isNan then { bits := yb, fl := fl }
  else if y.isNan then { bits := xb, fl := fl }
  else if max then { bits := if x.lessZ y then yb else xb }
  else { bits := if y.lessZ x then yb else xb }

/-- The three comparisons. -/
inductive Rel where
  | eq | lt | le
  deriving DecidableEq, Repr, Inhabited

/-- A comparison and the flags it raises. -/
def Fmt.cmp (f : Fmt) (r : Rel) (xb yb : Nat) : Bool × Flags :=
  let x := f.decode xb
  let y := f.decode yb
  if x.isNan || y.isNan then
    (false, if r != .eq || x.isSig || y.isSig then flagNV else 0)
  else
    ((match r with
      | .eq => x.same y
      | .lt => x.less y
      | .le => !y.less x), 0)

/-! ### Transcendental functions (R259, R260) -/

/-- VUNA's functions that round. -/
inductive Fun1 where
  | exp | log2 | rcp | rsq | tanh | sig
  deriving DecidableEq, Repr, Inhabited

/-- The nearest value of an enclosed real. -/
def Fmt.nearest (f : Fmt) (v : Nat → Iv) : Res := decideReal v fun exact x => f.round .rne x false exact

/-- Function values with the special cases of R260. -/
def Fmt.fun1 (f : Fmt) (g : Fun1) (bits : Nat) : Res :=
  let x := f.decode bits
  let one := f.bias * 2 ^ f.fw
  let p := Iv.pt x.dy
  if x.isNan then f.nanRes x.isSig
  else
    match g with
    | .exp =>
      if x.isInf then { bits := if x.neg then 0 else f.inf false }
      else f.nearest fun k => expIv k p
    | .log2 =>
      if x.isZero then { bits := f.inf true, fl := flagDZ }
      else if x.neg then f.nanRes true
      else if x.isInf then { bits := f.inf false }
      else f.nearest fun k => log2Pt k x.dy
    | .rcp =>
      if x.isZero then { bits := f.inf x.neg, fl := flagDZ }
      else if x.isInf then { bits := f.zero x.neg }
      else f.nearest fun k => Iv.div k (Iv.int 1) p
    | .rsq =>
      if x.isZero then { bits := f.inf x.neg, fl := flagDZ }
      else if x.neg then f.nanRes true
      else if x.isInf then { bits := 0 }
      else f.nearest fun k => Iv.div k (Iv.int 1) (Iv.sqrt k p)
    | .tanh =>
      if x.isInf then { bits := if x.neg then one + f.signBit else one }
      else if x.isZero then { bits := bits }
      else f.nearest fun k => tanhIv k p
    | .sig =>
      if x.isInf then { bits := if x.neg then 0 else one }
      else f.nearest fun k => sigIv k p

/-! ### Integers and conversions (R248, R263) -/

/-- A two's complement or unsigned value of n bits. -/
def intOf (signed : Bool) (n v : Nat) : Int := if signed && 2 ^ (n - 1) ≤ v then (v : Int) - (2 ^ n : Nat) else v

/-- The low n bits of an integer. -/
def lowBits (n : Nat) (v : Int) : Nat := (v % (2 ^ n : Nat)).toNat

def satMin (signed : Bool) (n : Nat) : Int := if signed then -(2 ^ (n - 1) : Nat) else 0
def satMax (signed : Bool) (n : Nat) : Int := if signed then (2 ^ (n - 1) : Nat) - 1 else (2 ^ n : Nat) - 1

/-- v held in the range, as bits. -/
def saturate (signed : Bool) (n : Nat) (v : Int) : Nat :=
  lowBits n (if v < satMin signed n then satMin signed n else if satMax signed n < v then satMax signed n else v)

/-- Float to float. -/
def Fmt.convert (s d : Fmt) (rm : Rm) (bits : Nat) : Res :=
  match s.decode bits with
  | .nan g => d.nanRes g
  | .inf n => { bits := d.inf n }
  | .num n m e => d.round rm (Fp.num n m e).dy n

/-- Float to integer: rounded, then saturated. -/
def Fmt.toInt (s : Fmt) (signed : Bool) (n : Nat) (rm : Rm) (bits : Nat) : Res :=
  match s.decode bits with
  | .nan _ => { bits := 0, fl := flagNV }
  | .inf g => { bits := lowBits n (if g then satMin signed n else satMax signed n), fl := flagNV }
  | .num g m e =>
    let r := roundMag rm g m e 0
    let v : Int := if g then -(r.1 : Int) else r.1
    if v < satMin signed n || satMax signed n < v then { bits := saturate signed n v, fl := flagNV }
    else { bits := lowBits n v, fl := if r.2 then 0 else flagNX }

/-- Integer to float. -/
def Fmt.ofInt (d : Fmt) (rm : Rm) (v : Int) : Res := d.round rm (Dy.ofInt v)

/-! ### Exact sums with one rounding (12 R299, 13 R330) -/

/-- A sum: whether it is NaN, infinities of either sign, the exact finite part, whether every addend is -0, and whether a rule of
invalid operation made a NaN. -/
structure Sum where
  nan : Bool := false
  pinf : Bool := false
  ninf : Bool := false
  x : Dy := Dy.zero
  negz : Bool := true
  inv : Bool := false
  deriving DecidableEq, Repr, Inhabited

/-- Adds x times 2^sc. -/
def Sum.put (s : Sum) (x : Fp) (sc : Int := 0) : Sum :=
  match x with
  | .nan _ => { s with nan := true, negz := false }
  | .inf n => { s with pinf := s.pinf || !n, ninf := s.ninf || n, negz := false }
  | .num n m _ => { s with x := if m == 0 then s.x else s.x.add (x.dy.scale sc), negz := s.negz && n && m == 0 }

/-- The product as an addend; 0 times infinity is an invalid operation. -/
def Sum.putProduct (s : Sum) (x y : Fp) (sc : Int := 0) : Sum :=
  if x.isNan || y.isNan then { s with nan := true, inv := s.inv || x.isSig || y.isSig, negz := false }
  else if (x.isInf && y.isZero) || (x.isZero && y.isInf) then { s with nan := true, inv := true, negz := false }
  else if x.isInf || y.isInf then s.put (.inf (x.neg != y.neg))
  else
    match x, y with
    | .num n m e, .num n' m' e' => s.put (.num (n != n') (m * m') (e + e')) sc
    | _, _ => s

/-- Two sums in one. -/
def Sum.merge (s t : Sum) : Sum :=
  { nan := s.nan || t.nan, pinf := s.pinf || t.pinf, ninf := s.ninf || t.ninf, x := s.x.add t.x, negz := s.negz && t.negz,
    inv := s.inv || t.inv }

/-- An element result with the events that the MCTL counters record. -/
structure Rounded where
  bits : Nat
  nv : Bool := false
  ovf : Bool := false
  deriving DecidableEq, Repr, Inhabited

/-- The rounding of a sum to FP32. -/
def Sum.round (s : Sum) (rm : Rm) : Rounded :=
  if s.nan then { bits := f32.qnan, nv := s.inv }
  else if s.pinf && s.ninf then { bits := f32.qnan, nv := true }
  else if s.pinf then { bits := f32.inf false }
  else if s.ninf then { bits := f32.inf true }
  else
    let r := f32.round rm s.x s.negz
    { bits := r.bits, ovf := r.fl &&& flagOF != 0 }

/-! ### Tapered formats (11 R270-R273) -/

/-- T8 or T6. -/
structure Taper where
  /-- Bits of the magnitude field. -/
  w : Nat
  /-- Bits of the exponent, and factor of the regime. -/
  es : Nat
  deriving DecidableEq, Repr, Inhabited

def t8 : Taper := { w := 7, es := 1 }
def t6 : Taper := { w := 5, es := 0 }

/-- The run of equal bits from bit n - 1 down. -/
def runLen (v : Nat) (b : Bool) : Nat → Nat
  | 0 => 0
  | n + 1 => if Nat.testBit v n == b then 1 + runLen v b n else 0

/-- The magnitude of a code from 1 up (R270, R271). -/
def Taper.magnitude (t : Taper) (code : Nat) : Dy :=
  let b := Nat.testBit code (t.w - 1)
  let m := runLen code b t.w
  let k : Int := if b then (m : Int) - 1 else -(m : Int)
  let left := t.w - m - 1
  let eb := if t.es == 1 && 0 < left then 1 else 0
  let fb := left - eb
  let e := if eb == 1 then code / 2 ^ fb % 2 else 0
  let fr := code % 2 ^ fb
  { m := (2 ^ fb + fr : Nat), e := (if t.es == 1 then 2 * k else k) + e - fb }

/-- An element: NaR reads as a quiet NaN. -/
def Taper.decode (t : Taper) (code : Nat) : Fp :=
  let neg := Nat.testBit code t.w
  let mag := code % 2 ^ t.w
  if mag == 0 then (if neg then .nan false else .num false 0 0)
  else
    let d := t.magnitude mag
    .num neg d.m.natAbs d.e

def Taper.maxpos (t : Taper) : Dy := t.magnitude (2 ^ t.w - 1)
def Taper.minpos (t : Taper) : Dy := t.magnitude 1
def Taper.nar (t : Taper) : Nat := 2 ^ t.w

/-- The largest code whose magnitude is not above m, by its bits from the top. -/
def Taper.below (t : Taper) (m : Dy) : Nat → Nat → Nat
  | 0, c => c
  | n + 1, c =>
    let c' := c + 2 ^ n
    Taper.below t m n (if (t.magnitude c').le m then c' else c)

/-- rndT (R273). -/
def Taper.round (t : Taper) (x : Dy) : Res :=
  if x.m == 0 then { bits := 0 }
  else
    let m := x.abs
    let neg := decide (x.m < 0)
    let r : Res :=
      if t.maxpos.lt m then { bits := 2 ^ t.w - 1, fl := flagOF ||| flagNX }
      else if m.lt t.minpos then
        if (t.minpos.scale (-1)).lt m then { bits := 1, fl := flagNX } else { bits := 0, fl := flagNX ||| flagUF }
      else
        let c := Taper.below t m t.w 0
        let lo := t.magnitude c
        if lo.eq m then { bits := c }
        else
          let mid := (lo.add (t.magnitude (c + 1))).scale (-1)
          { bits := if m.lt mid then c else if mid.lt m then c + 1 else if c % 2 == 0 then c else c + 1, fl := flagNX }
    if r.bits == 0 then r else { r with bits := r.bits + if neg then 2 ^ t.w else 0 }

/-- clamp(floor(log2 m), -127, 127) of a positive number. -/
def scaleOf (m : Dy) : Int := if m.top < -127 then -127 else if 127 < m.top then 127 else m.top

end Sys2Proof.Machine
end

