-- ==== Sys2Proof/Machine/Flags.lean ====
section
/-! DEFINITION. Flags and counters: FFL and FCTL (10_row R250-R252), the MCTL counters and q5 entries (12_matrix R306, R307), the
shadow divergences (10_row R266, 14_reliability R339, R346). -/

namespace Sys2Proof.Machine

/-- ORs flags into FFL (R252). -/
def Core.flag (c : Core) (f : Flags) : Core := { c with sr := { c.sr with ffl := c.sr.ffl ||| f.zeroExtend 64 } }

def State.flag (s : State) (f : Flags) : State := { s with core := s.core.flag f }

/-- FCTL.RM. -/
def Core.rm (c : Core) : Rm := rmOf c.sr.fctl.toNat

/-- What a unit operation met: the events of R307. -/
structure Events where
  nv : Bool := false
  ovf : Bool := false
  poi : Bool := false
  frc : Bool := false
  shd : Bool := false
  deriving DecidableEq, Repr, Inhabited

/-- Events as a word, in which an operation that stopped between two passes or steps carries those of its earlier ones (R300, 13 R333). -/
def Events.word (e : Events) : Word :=
  BitVec.ofNat 64 ((if e.nv then 1 else 0) + (if e.ovf then 2 else 0) + (if e.poi then 4 else 0) + if e.shd then 8 else 0)

/-- The events of the earlier passes or steps of an operation. -/
def UnitOp.before (u : UnitOp) : Events :=
  if u.step == 0 then {} else { nv := u.scalar.getLsbD 0, ovf := u.scalar.getLsbD 1, poi := u.scalar.getLsbD 2, shd := u.scalar.getLsbD 3 }

/-! ### Shadows (10 R265) -/

/-- What a shadow has of a result: sign, exponent field, the top 6 stored fraction bits, and whether it is a NaN. -/
structure LaneShadow where
  sign : Bool
  ex : Nat
  pre : Nat
  nan : Bool
  deriving DecidableEq, Repr, Inhabited

def Fmt.shadow (f : Fmt) (x : Nat) : LaneShadow :=
  { sign := x / f.signBit % 2 == 1, ex := x / 2 ^ f.fw % 2 ^ f.ew, pre := x % 2 ^ f.fw / 2 ^ (f.fw - 6), nan := (f.decode x).isNan }

/-- The divergence of two results. -/
def LaneShadow.diverges (a b : LaneShadow) : Bool :=
  if a.nan || b.nan then a.nan != b.nan
  else a.sign != b.sign || decide (a.ex + 1 < b.ex) || decide (b.ex + 1 < a.ex) ||
    (a.ex == b.ex && (decide (a.pre + 1 < b.pre) || decide (b.pre + 1 < a.pre)))

/-- The shadow of the result that a kind-3 INJ makes diverge (14 R356). -/
def LaneShadow.upset (a : LaneShadow) : LaneShadow := { a with sign := !a.sign, nan := !a.nan }

/-- Whether a lane diverges from its shadow: the shadow computes the same result, unless an injection upsets it. -/
def Fmt.laneDiverges (f : Fmt) (inj : Bool) (x : Nat) : Bool :=
  let a := f.shadow x
  a.diverges (if inj then a.upset else a)

/-! ### Counters (12 R306, R307) -/

/-- A saturating 8-bit field of MCTL. -/
def satByte (w : Word) (lo : Nat) : Word := if w.extractLsb' lo 8 == (0xFF : BitVec 8) then w else w + BitVec.shiftLeft 1 lo

/-- The MCTL counters after an operation (R306). -/
def countEvents (w : Word) (e : Events) : Word :=
  let w := if e.nv then satByte w 8 else w
  let w := if e.ovf then satByte w 16 else w
  if e.poi || e.frc then satByte w 24 else w

/-- The q5 entry of an operation (R307). -/
def q5Entry (acc : Nat) (bofs : BitVec 19) (e : Events) : Word :=
  let b (x : Bool) (n : Nat) : Nat := if x then 2 ^ n else 0
  BitVec.ofNat 64 (acc % 8 + b e.nv 3 + b e.ovf 4 + b e.poi 5 + b e.frc 6 + b e.shd 7 + 2 ^ 8 * bofs.toNat + 2 ^ 63)

/-- Counts an operation at its retirement and posts its q5 entry where MCTL.QST asks for one and the queue has room (R307, R60). -/
def Core.countOp (c : Core) (acc : Nat) (bofs : BitVec 19) (e : Events) : Core :=
  let q := if c.sr.mctl.getLsbD 1 && (e.nv || e.ovf || e.poi || e.frc || e.shd) && decide (c.q.q5.length < 8) then
      { c.q with q5 := c.q.q5 ++ [q5Entry acc bofs e] }
    else c.q
  { c with sr := { c.sr with mctl := countEvents c.sr.mctl e }, q := q }

end Sys2Proof.Machine
end

