-- ==== Sys2Proof/Machine/Row.lean ====
section
/-! DEFINITION. The row instructions (10_row R247-R269). -/

namespace Sys2Proof.Machine

/-! ### Lanes (R247, R248, R254) -/

def RType.bytes : RType → Nat
  | .f32 => 4 | .bf16 => 2 | .i32 => 4 | .i8 => 1 | .f16 => 2 | .i16 => 2 | .n8 => 1 | .n32 => 4

def RType.fmt : RType → Option Fmt
  | .f32 => some f32
  | .bf16 => some bf16
  | .f16 => some f16
  | _ => none

def RType.signed : RType → Bool
  | .i32 => true | .i8 => true | .i16 => true | _ => false

def RType.lanes (t : RType) : Nat := 64 / RType.bytes t
def RType.width (t : RType) : Nat := 8 * RType.bytes t

/-- A lane as it is read: the element, the stored bits, and whether it lies in a poisoned half. -/
structure Lane where
  v : Nat
  raw : Nat
  bad : Bool
  deriving DecidableEq, Repr, Inhabited

/-- What a poisoned element reads as. -/
def RType.poisonValue (t : RType) : Nat := match RType.fmt t with | some f => f.qnan | none => 0

/-- The lanes of a row (R254). -/
def lanesOf (t : RType) (r : RowVal) : List Lane :=
  let w := RType.width t
  (upto (RType.lanes t)).map fun j =>
    let raw := r.bits.toNat / 2 ^ (w * j) % 2 ^ w
    let bad := r.bad.getLsbD (RType.bytes t * j / 32)
    { v := if bad then RType.poisonValue t else raw, raw := raw, bad := bad }

/-- A row of lanes of n bits; a half is poisoned when one of its lanes is. -/
def packRow (n : Nat) (vs : List (Nat × Bool)) : RowVal :=
  let bits := (vs.foldl (fun (a : Nat × Nat) v => (a.1 + v.1 % 2 ^ n * 2 ^ (n * a.2), a.2 + 1)) (0, 0)).1
  let half (h : Nat) : Bool := (upto vs.length).any fun j => n * j / 256 == h && (match vs[j]? with | some v => v.2 | none => false)
  { bits := BitVec.ofNat 512 bits, bad := (if half 0 then 1 else 0) ||| (if half 1 then 2 else 0) }

/-- What an iteration computes: the row, its flags, whether it read poison as a value, whether it copied poison, and the lanes that the
shadow checks, in their format. -/
structure RowOut where
  row : RowVal
  fl : Flags := 0
  eats : Bool := false
  copies : Bool := false
  checked : List Nat := []
  fmt : Fmt := f32
  deriving DecidableEq, Repr, Inhabited

def orFlags (rs : List Res) : Flags := rs.foldl (fun f r => f ||| r.fl) 0

/-! ### One iteration (R252, R254, R266, R268) -/

/-- A shadow divergence that TRET lets go on counts all the same (R339). -/
def State.divergence (s : State) : State := { s with tile := s.tile.countShd }

/-- The injection has had its result (14 R356). -/
def State.spent (s : State) (unitMat : Bool) : State :=
  { s with core := if unitMat then { s.core with injMat := false } else { s.core with injRow := false } }

/-- Only the compute core issues it (R14). -/
def State.computing (s : State) (k : Out) : Out := if s.sel == .comp then k else s.trapB .ill s.core.pc

/-- The checked lanes that diverge (R265). -/
def RowOut.diverging (o : RowOut) (inj : Bool) : List Nat :=
  o.checked.filter fun l => o.fmt.laneDiverges inj (o.row.bits.toNat / 2 ^ (o.fmt.width * l) % 2 ^ o.fmt.width)

/-- The latch holds a result of the row unit: loads of it that are older come too late (R268). -/
def Core.passLatch (c : Core) : Core :=
  if c.busyO 12 then { c with rq := c.rq.map fun e => if e.v && e.lvl == c.tr.level && e.kind != 5 && e.dst.o.contains 12 then { e with late := true } else e }
  else c

/-- Ends an iteration: the shadow check, the consumption of poison, the row and the latch, the flags; what an unwind discards records
nothing (14 R357). -/
def State.rowEnd (s : State) (j : Nat) (d : RowSel) (latch : Bool) (o : RowOut) (fin : State → State) : Out :=
  let ls := o.diverging s.core.injRow
  let dv := !ls.isEmpty
  let s := if dv then s.spent false else s
  if dv && s.tile.modes.shadowTrap then s.divergence.trapB .shd (BitVec.ofNat 64 (ls.headD 0 + 256 * (j % 65536)))
  else
    .next (s.consume o.eats s.core.bofs fun s =>
      let s := s.copied o.copies
      let s := if dv then { s with tile := s.tile.shd } else s
      let c := s.core.setRow d o.row
      let c := if latch then (c.setL o.row).passLatch else c
      fin ({ s with core := c }.flag o.fl))

/-- A page-4 bundle, which no pending write of l as its destination holds (R268): row operands `srcs` (with d where it is read), scalars `scal`; `own` says that b names a scalar, so that the
broadcast scalar is captured beside it. `f` computes an iteration from its rows and the rounding mode. -/
def State.rowBundle (s : State) (i : Instr) (ty : RType) (d : RCode) (x : RowX) (srcs : List RCode) (scal : List SReg) (own : Bool)
    (w1 w2 : Word) (f : (RCode → RowVal) → Word → Word → Rm → RowOut) : Out :=
  let usesC := srcs.contains 14
  let cap : Word := if own then s.S x.c else s.core.sr.fctl
  s.computing
    (if !s.core.ready (scal ++ if usesC then [x.c] else []) then s.stall
    else
      (s.codeChk ((match rowSel s.sel d x.base x.bank 0 with | .bc => RowSel.ill | y => y) :: srcs.map fun k => rowSel s.sel k x.base x.bank 0)).run s fun _ =>
      s.repeated i x.rep 5 w1 (if own then w2 else s.S x.c) (cap := cap) fun s j w1 w2 fin =>
        let cap := match s.core.issuing with | some e => s.core.rq[e].cap | none => cap
        let sel (k : RCode) : RowSel := rowSel s.sel k x.base x.bank j
        let dst := match sel d with | .bc => RowSel.ill | y => y
        if !(srcs.all fun k => s.core.rowFree (sel k)) || !(dst == .l || s.core.rowOpen dst) then s.stall
        else
          (s.rowChk (dst :: srcs.map sel)).run s fun _ =>
            let rd (k : RCode) : RowVal :=
              match sel k with
              | .bc => { bits := broadcast (RType.bytes ty) (if own then cap else w2) }
              | y => s.core.rowVal y (RType.bytes ty) x.c
            s.rowEnd j dst true (f rd w1 w2 (rmOf cap.toNat)) fin)

/-! ### Lane by lane (R255-R258) -/

/-- The results of three-operand lanes. -/
def zipLanes (f : Lane → Lane → Lane → Res × Bool) (a b z : List Lane) : List (Res × Bool) :=
  match a, b, z with
  | x :: a, y :: b, w :: z => f x y w :: zipLanes f a b z
  | _, _, _ => []

/-- Lanes that were computed, with the poison of what they depend on. -/
def laneOut (ty : RType) (rs : List (Res × Bool)) (eats : Bool) (chk : Bool) : RowOut :=
  { row := packRow (RType.width ty) (rs.map fun r => (r.1.bits, r.2))
    fl := orFlags (rs.map (·.1))
    eats := eats
    checked := if chk then (upto rs.length).filter fun j => match rs[j]? with | some r => !r.2 | none => false else []
    fmt := (RType.fmt ty).getD f32 }

def anyBad (l : List Lane) : Bool := l.any (·.bad)

/-- An element-wise instruction with sources a and b. -/
def State.row2 (s : State) (i : Instr) (ty : RType) (d a b : RCode) (x : RowX) (chk : Bool) (f : Rm → Nat → Nat → Res) : Out :=
  s.rowBundle i ty d x [a, b] [] false 0 0 fun rd _ _ rm =>
    let la := lanesOf ty (rd a)
    let lb := lanesOf ty (rd b)
    laneOut ty (zipLanes (fun p q _ => (f rm p.v q.v, p.bad || q.bad)) la lb lb) (anyBad la || anyBad lb) (chk && (RType.fmt ty).isSome)

/-- An integer result. -/
def intRes (ty : RType) (v : Int) : Res := { bits := lowBits (RType.width ty) v }

def RType.int (t : RType) (v : Nat) : Int := intOf (RType.signed t) (RType.width t) v

/-- VADD, VSUB, VMUL of one lane. -/
def laneArith (ty : RType) (f : Fmt → Rm → Nat → Nat → Res) (g : Int → Int → Int) (rm : Rm) (x y : Nat) : Res :=
  match RType.fmt ty with
  | some m => f m rm x y
  | none => intRes ty (g (RType.int ty x) (RType.int ty y))

def laneMinMax (ty : RType) (max : Bool) (x y : Nat) : Res :=
  match RType.fmt ty with
  | some m => m.minmax max x y
  | none => { bits := if max then (if RType.int ty x < RType.int ty y then y else x) else (if RType.int ty y < RType.int ty x then y else x) }

def laneCmp (ty : RType) (r : Rel) (x y : Nat) : Res :=
  let c : Bool × Flags := match RType.fmt ty with
    | some m => m.cmp r x y
    | none => ((match r with
      | .eq => decide (x = y)
      | .lt => decide (RType.int ty x < RType.int ty y)
      | .le => decide (RType.int ty x ≤ RType.int ty y)), 0)
  { bits := if c.1 then 2 ^ RType.width ty - 1 else 0, fl := c.2 }

/-- R257. -/
def laneShl (ty : RType) (x k : Nat) : Res := { bits := if k < RType.width ty then x * 2 ^ k % 2 ^ RType.width ty else 0 }
def laneShr (ty : RType) (x k : Nat) : Res :=
  let n := Nat.min k (RType.width ty)
  intRes ty ((RType.int ty x).fdiv (2 ^ n : Nat))

/-- R255 VADD. -/
def execVadd (ty : RType) (d a b : RCode) (x : RowX) (s : State) : Out :=
  s.row2 (.vadd ty d a b x) ty d a b x true (laneArith ty Fmt.add (· + ·))
/-- R255 VSUB. -/
def execVsub (ty : RType) (d a b : RCode) (x : RowX) (s : State) : Out :=
  s.row2 (.vsub ty d a b x) ty d a b x true (laneArith ty Fmt.sub (· - ·))
/-- R255 VMUL. -/
def execVmul (ty : RType) (d a b : RCode) (x : RowX) (s : State) : Out :=
  s.row2 (.vmul ty d a b x) ty d a b x true (laneArith ty Fmt.mul (· * ·))
/-- R255 VFMA. -/
def execVfma (ty : RType) (d a b : RCode) (x : RowX) (s : State) : Out :=
  s.rowBundle (.vfma ty d a b x) ty d x [a, b, d] [] false 0 0 fun rd _ _ rm =>
    let la := lanesOf ty (rd a)
    let lb := lanesOf ty (rd b)
    let ld := lanesOf ty (rd d)
    let f (p q z : Lane) : Res × Bool :=
      ((match RType.fmt ty with
        | some m => m.fma rm p.v q.v z.v
        | none => intRes ty (RType.int ty p.v * RType.int ty q.v + RType.int ty z.v)), p.bad || q.bad || z.bad)
    laneOut ty (zipLanes f la lb ld) (anyBad la || anyBad lb || anyBad ld) (RType.fmt ty).isSome
/-- R256 VMIN. -/
def execVmin (ty : RType) (d a b : RCode) (x : RowX) (s : State) : Out :=
  s.row2 (.vmin ty d a b x) ty d a b x false fun _ => laneMinMax ty false
/-- R256 VMAX. -/
def execVmax (ty : RType) (d a b : RCode) (x : RowX) (s : State) : Out :=
  s.row2 (.vmax ty d a b x) ty d a b x false fun _ => laneMinMax ty true
/-- R257 VAND. -/
def execVand (ty : RType) (d a b : RCode) (x : RowX) (s : State) : Out :=
  s.row2 (.vand ty d a b x) ty d a b x false fun _ p q => { bits := Nat.land p q }
/-- R257 VOR. -/
def execVor (ty : RType) (d a b : RCode) (x : RowX) (s : State) : Out :=
  s.row2 (.vor ty d a b x) ty d a b x false fun _ p q => { bits := Nat.lor p q }
/-- R257 VXOR. -/
def execVxor (ty : RType) (d a b : RCode) (x : RowX) (s : State) : Out :=
  s.row2 (.vxor ty d a b x) ty d a b x false fun _ p q => { bits := Nat.xor p q }
/-- R257 VSHL. -/
def execVshl (ty : RType) (d a b : RCode) (x : RowX) (s : State) : Out :=
  s.row2 (.vshl ty d a b x) ty d a b x false fun _ => laneShl ty
/-- R257 VSHR. -/
def execVshr (ty : RType) (d a b : RCode) (x : RowX) (s : State) : Out :=
  s.row2 (.vshr ty d a b x) ty d a b x false fun _ => laneShr ty
/-- R258 VCEQ. -/
def execVceq (ty : RType) (d a b : RCode) (x : RowX) (s : State) : Out :=
  s.row2 (.vceq ty d a b x) ty d a b x false fun _ => laneCmp ty .eq
/-- R258 VCLT. -/
def execVclt (ty : RType) (d a b : RCode) (x : RowX) (s : State) : Out :=
  s.row2 (.vclt ty d a b x) ty d a b x false fun _ => laneCmp ty .lt
/-- R258 VCLE. -/
def execVcle (ty : RType) (d a b : RCode) (x : RowX) (s : State) : Out :=
  s.row2 (.vcle ty d a b x) ty d a b x false fun _ => laneCmp ty .le
/-- R258 VSEL: the condition is old d; a lane that is poisoned is a consumption (log entry 21). -/
def execVsel (ty : RType) (d a b : RCode) (x : RowX) (s : State) : Out :=
  s.rowBundle (.vsel ty d a b x) ty d x [a, b, d] [] false 0 0 fun rd _ _ _ =>
    let la := lanesOf ty (rd a)
    let lb := lanesOf ty (rd b)
    let ld := lanesOf ty (rd d)
    let f (p q z : Lane) : Res × Bool := if z.v != 0 then ({ bits := p.v }, p.bad || z.bad) else ({ bits := q.v }, q.bad || z.bad)
    laneOut ty (zipLanes f la lb ld) (anyBad la || anyBad lb || anyBad ld) false

/-! ### Unary functions (R259, R260) -/

def State.row1 (s : State) (i : Instr) (ty : RType) (d a : RCode) (x : RowX) (chk : Bool) (f : Nat → Res) : Out :=
  s.rowBundle i ty d x [a] [] false 0 0 fun rd _ _ _ =>
    let la := lanesOf ty (rd a)
    laneOut ty (la.map fun p => (f p.v, p.bad)) (anyBad la) chk

/-- R259 ABS: the sign is cleared; an integer's absolute value, modulo its width. -/
def laneAbs (ty : RType) (x : Nat) : Res :=
  match RType.fmt ty with
  | some m => { bits := x % m.signBit }
  | none => intRes ty ((RType.int ty x).natAbs : Int)
/-- R259 NEG. -/
def laneNeg (ty : RType) (x : Nat) : Res :=
  match RType.fmt ty with
  | some m => { bits := Nat.xor x m.signBit }
  | none => intRes ty (-(RType.int ty x))

/-- R260; an integer type is refused by the decoder (R259). -/
def laneFun (ty : RType) (g : Fun1) (x : Nat) : Res :=
  match RType.fmt ty with
  | some m => m.fun1 g x
  | none => { bits := 0 }

/-- R259 VUNA.abs. -/
def execVunaAbs (ty : RType) (d a : RCode) (x : RowX) (s : State) : Out := s.row1 (.vunaAbs ty d a x) ty d a x false (laneAbs ty)
/-- R259 VUNA.neg. -/
def execVunaNeg (ty : RType) (d a : RCode) (x : RowX) (s : State) : Out := s.row1 (.vunaNeg ty d a x) ty d a x false (laneNeg ty)
/-- R260 VUNA.exp. -/
def execVunaExp (ty : RType) (d a : RCode) (x : RowX) (s : State) : Out := s.row1 (.vunaExp ty d a x) ty d a x true (laneFun ty .exp)
/-- R260 VUNA.log2. -/
def execVunaLog2 (ty : RType) (d a : RCode) (x : RowX) (s : State) : Out := s.row1 (.vunaLog2 ty d a x) ty d a x true (laneFun ty .log2)
/-- R260 VUNA.rcp. -/
def execVunaRcp (ty : RType) (d a : RCode) (x : RowX) (s : State) : Out := s.row1 (.vunaRcp ty d a x) ty d a x true (laneFun ty .rcp)
/-- R260 VUNA.rsq. -/
def execVunaRsq (ty : RType) (d a : RCode) (x : RowX) (s : State) : Out := s.row1 (.vunaRsq ty d a x) ty d a x true (laneFun ty .rsq)
/-- R260 VUNA.tanh. -/
def execVunaTanh (ty : RType) (d a : RCode) (x : RowX) (s : State) : Out := s.row1 (.vunaTanh ty d a x) ty d a x true (laneFun ty .tanh)
/-- R260 VUNA.sig. -/
def execVunaSig (ty : RType) (d a : RCode) (x : RowX) (s : State) : Out := s.row1 (.vunaSig ty d a x) ty d a x true (laneFun ty .sig)

/-! ### Reductions and scans (R261, R262) -/

/-- One level of the pairwise tree. -/
def pairUp (f : Nat → Nat → Res) : List Nat → List Nat × Flags
  | x :: y :: r =>
    let z := f x y
    let t := pairUp f r
    (z.bits :: t.1, z.fl ||| t.2)
  | l => (l, 0)

/-- The tree over n levels. -/
def reduceTree (f : Nat → Nat → Res) : Nat → List Nat → Nat × Flags
  | 0, l => (l.headD 0, 0)
  | n + 1, l =>
    let p := pairUp f l
    let r := reduceTree f n p.1
    (r.1, p.2 ||| r.2)

def State.rowReduce (s : State) (i : Instr) (ty : RType) (d a : RCode) (x : RowX) (chk : Bool) (pre : Rm → Nat → Res)
    (f : Rm → Nat → Nat → Res) : Out :=
  s.rowBundle i ty d x [a] [] false 0 0 fun rd _ _ rm =>
    let la := lanesOf ty (rd a)
    let vs := la.map fun p => pre rm p.v
    let r := reduceTree (f rm) 6 (vs.map (·.bits))
    let bad := anyBad la
    { row := packRow (RType.width ty) ((r.1, bad) :: List.replicate (RType.lanes ty - 1) (0, false))
      fl := orFlags vs ||| r.2
      eats := bad
      checked := if chk && (RType.fmt ty).isSome && !bad then [0] else []
      fmt := (RType.fmt ty).getD f32 }

def asIs (_ : Rm) (v : Nat) : Res := { bits := v }

/-- R261 VRED.sum. -/
def execVredSum (ty : RType) (d a : RCode) (x : RowX) (s : State) : Out :=
  s.rowReduce (.vredSum ty d a x) ty d a x true asIs (laneArith ty Fmt.add (· + ·))
/-- R261 VRED.max. -/
def execVredMax (ty : RType) (d a : RCode) (x : RowX) (s : State) : Out :=
  s.rowReduce (.vredMax ty d a x) ty d a x false asIs fun _ => laneMinMax ty true
/-- R261 VRED.min. -/
def execVredMin (ty : RType) (d a : RCode) (x : RowX) (s : State) : Out :=
  s.rowReduce (.vredMin ty d a x) ty d a x false asIs fun _ => laneMinMax ty false
/-- R261 VRED.ssq. -/
def execVredSsq (ty : RType) (d a : RCode) (x : RowX) (s : State) : Out :=
  s.rowReduce (.vredSsq ty d a x) ty d a x true (fun rm v => laneArith ty Fmt.mul (· * ·) rm v v) (laneArith ty Fmt.add (· + ·))

/-- NaN made the default NaN, NV for a signalling one (R249). -/
def Fmt.quiet (f : Fmt) (x : Nat) : Res :=
  match f.decode x with
  | .nan g => f.nanRes g
  | _ => { bits := x }

/-- The prefixes of integer lanes. -/
def scanInt (ty : RType) (acc : Int) : List Nat → List Res
  | [] => []
  | x :: r =>
    let v := acc + RType.int ty x
    intRes ty v :: scanInt ty v r

/-- The prefixes of FP32 lanes after the first: each step rounded. -/
def scanF32 (rm : Rm) (acc : Nat) : List Nat → List Res
  | [] => []
  | x :: r =>
    let v := f32.add rm acc x
    v :: scanF32 rm v.bits r

/-- The prefixes of bf16 and f16 lanes: the running sum is FP32. -/
def scanNarrow (f : Fmt) (rm : Rm) (acc : Nat) : List Nat → List Res
  | [] => []
  | x :: r =>
    let w := f.convert f32 rm x
    let v := f32.add rm acc w.bits
    let o := f32.convert f rm v.bits
    { bits := o.bits, fl := w.fl ||| v.fl ||| o.fl } :: scanNarrow f rm v.bits r

def scanLanes (ty : RType) (rm : Rm) : List Nat → List Res
  | [] => []
  | x :: r =>
    match RType.fmt ty with
    | none => scanInt ty 0 (x :: r)
    | some f =>
      let q := f.quiet x
      if ty == .f32 then q :: scanF32 rm q.bits r
      else q :: scanNarrow f rm (f.convert f32 rm q.bits).bits r

/-- Whether any of the lanes up to each one is poisoned. -/
def badPrefix (b : Bool) : List Lane → List Bool
  | [] => []
  | l :: r => (b || l.bad) :: badPrefix (b || l.bad) r

/-- R262 VSCAN. -/
def execVscan (ty : RType) (d a : RCode) (x : RowX) (s : State) : Out :=
  s.rowBundle (.vscan ty d a x) ty d x [a] [] false 0 0 fun rd _ _ rm =>
    let la := lanesOf ty (rd a)
    laneOut ty ((scanLanes ty rm (la.map (·.v))).zip (badPrefix false la)) (anyBad la) (RType.fmt ty).isSome

/-! ### Conversion (R263) -/

/-- One lane from type S to type D. -/
def convertLane (src dst : RType) (rm : Rm) (v : Nat) : Res :=
  match RType.fmt src, RType.fmt dst with
  | some f, some g => if src == dst then f.quiet v else f.convert g rm v
  | some f, none => f.toInt (RType.signed dst) (RType.width dst) rm v
  | none, some g => g.ofInt rm (RType.int src v)
  | none, none => { bits := saturate (RType.signed dst) (RType.width dst) (RType.int src v) }

/-- Which source lane goes to lane j of the result, or none where old d stays. -/
def convertFrom (src dst : RType) (part j : Nat) : Option Nat :=
  let ls := RType.lanes src
  let ld := RType.lanes dst
  if ls == ld then some j
  else if ld < ls then some (part * ld + j)
  else if part * ls ≤ j && j < part * ls + ls then some (j - part * ls)
  else none

/-- R263 VCVT. -/
def execVcvt (ty src : RType) (d a : RCode) (x : RowX) (s : State) : Out :=
  let narrow := decide (RType.bytes ty < RType.bytes src)
  s.rowBundle (.vcvt ty src d a x) src d x (if narrow then [a, d] else [a]) [] false 0 0 fun rd _ _ rm =>
    let la := lanesOf src (rd a)
    let ld := if narrow then lanesOf ty (rd d) else []
    let lanes := (upto (RType.lanes ty)).map fun j =>
      match convertFrom src ty x.c.val j with
      | some k => (match la[k]? with
        | some p => (convertLane src ty rm p.v, p.bad, true)
        | none => (({ bits := 0 } : Res), false, true))
      | none => (match ld[j]? with
        | some p => (({ bits := p.raw } : Res), p.bad, false)
        | none => (({ bits := 0 } : Res), false, false))
    { row := packRow (RType.width ty) (lanes.map fun l => (l.1.bits, l.2.1))
      fl := orFlags (lanes.map (·.1))
      eats := lanes.any fun l => l.2.1 && l.2.2
      copies := lanes.any fun l => l.2.1 && !l.2.2
      checked := if (RType.fmt ty).isSome then
          (upto lanes.length).filter fun j => match lanes[j]? with | some l => l.2.2 && !l.2.1 | none => false
        else []
      fmt := (RType.fmt ty).getD f32 }

/-! ### Moving lanes (R264) -/

/-- The lanes of a row in another order, copied with their poison. -/
def moveLanes (ty : RType) (la : List Lane) (from' : Nat → Nat) : RowOut :=
  let lanes := (upto (RType.lanes ty)).map fun j => match la[from' j]? with | some p => (p.raw, p.bad) | none => (0, false)
  { row := packRow (RType.width ty) lanes, copies := lanes.any (·.2) }

/-- R264 VBC. -/
def execVbc (ty : RType) (d a : RCode) (b : SReg) (x : RowX) (s : State) : Out :=
  s.rowBundle (.vbc ty d a b x) ty d x [a] [b] true 0 (s.S b) fun rd _ w2 _ =>
    moveLanes ty (lanesOf ty (rd a)) fun _ => w2.toNat % RType.lanes ty
/-- R264 VMOV. -/
def execVmov (d a : RCode) (x : RowX) (s : State) : Out :=
  s.rowBundle (.vmov d a x) .f32 d x [a] [] false 0 0 fun rd _ _ _ =>
    let r := rd a
    { row := r, copies := r.bad != 0 }
/-- R264 VROT. -/
def execVrot (ty : RType) (d a : RCode) (b : SReg) (x : RowX) (s : State) : Out :=
  s.rowBundle (.vrot ty d a b x) ty d x [a] [b] true 0 (s.S b) fun rd _ w2 _ =>
    moveLanes ty (lanesOf ty (rd a)) fun j => (j + w2.toNat) % RType.lanes ty
/-- R264 VSHUF: the row of indexes is read as a value. -/
def execVshuf (ty : RType) (d a b : RCode) (x : RowX) (s : State) : Out :=
  s.rowBundle (.vshuf ty d a b x) ty d x [a, b] [] false 0 0 fun rd _ _ _ =>
    let la := lanesOf ty (rd a)
    let lb := lanesOf ty (rd b)
    let lanes := lb.map fun q => match la[q.v % RType.lanes ty]? with
      | some p => (p.raw, p.bad, q.bad)
      | none => (0, false, q.bad)
    { row := packRow (RType.width ty) (lanes.map fun l => (l.1, l.2.1 || l.2.2))
      eats := anyBad lb
      copies := lanes.any fun l => l.2.1 }
/-- R264 VIOTA. -/
def execViota (ty : RType) (d : RCode) (a : SReg) (x : RowX) (s : State) : Out :=
  s.rowBundle (.viota ty d a x) ty d x [] [a] true (s.S a) 0 fun _ w1 _ _ =>
    { row := packRow (RType.width ty) ((upto (RType.lanes ty)).map fun j => (w1.toNat + j, false)) }

end Sys2Proof.Machine
end

