-- ==== Sys2Proof/Machine/Narrow.lean ====
section
/-! DEFINITION. QNT, DQN and BAQ (11_narrow R270-R285). -/

namespace Sys2Proof.Machine

/-! ### Elements of narrow rows (R270-R274) -/

def NarrowSel.taper (f : NarrowSel) : Taper := if NarrowSel.t6 f then t6 else t8
def NarrowSel.wide (f : NarrowSel) : Fmt := if NarrowSel.bf16 f then Sys2Proof.Machine.bf16 else f32

/-- Elements of a row, and of a block. -/
def Taper.count (t : Taper) : Nat := if t.w == 7 then 64 else 80
def Taper.block (t : Taper) : Nat := if t.w == 7 then 32 else 16

/-- The code of element j of a row. -/
def Taper.elem (t : Taper) (r : Row) (j : Nat) : Nat := r.toNat / 2 ^ ((t.w + 1) * j) % 2 ^ (t.w + 1)

/-- Whether element j lies in a poisoned half (R272). -/
def Taper.elemBad (t : Taper) (bad : BitVec 2) (j : Nat) : Bool :=
  bad.getLsbD ((t.w + 1) * j / 256) || bad.getLsbD (((t.w + 1) * j + t.w) / 256)

/-- A row of codes; a half is poisoned when one of its elements is. -/
def Taper.pack (t : Taper) (cs : List (Nat × Bool)) : RowVal :=
  let n := t.w + 1
  let bits := (cs.foldl (fun (a : Nat × Nat) v => (a.1 + v.1 % 2 ^ n * 2 ^ (n * a.2), a.2 + 1)) (0, 0)).1
  let half (h : Nat) : Bool := (upto cs.length).any fun j =>
    (n * j / 256 == h || (n * j + n - 1) / 256 == h) && (match cs[j]? with | some v => v.2 | none => false)
  { bits := BitVec.ofNat 512 bits, bad := (if half 0 then 1 else 0) ||| (if half 1 then 2 else 0) }

/-- Byte k of a scale word (R281): SC0 is byte 1. -/
def scaleByte (w : Word) (q : Nat) : Nat := w.toNat / 2 ^ (8 * (q + 1)) % 256

def scaleInt (b : Nat) : Int := intOf true 8 b

/-- The scale of a block: 0 where no element is finite and not zero (R282, R284). -/
def blockScale (xs : List (Option Dy)) : Int :=
  match xs.foldl (fun (m : Option Dy) x => match m, x with
      | some a, some b => if b.isZero then m else some (a.max b.abs)
      | none, some b => if b.isZero then m else some b.abs
      | m, none => m) none with
  | some m => scaleOf m
  | none => 0

/-- Quantises the elements of a block with its scale; none is NaR. -/
def quantise (t : Taper) (sc : Int) (xs : List (Option Dy)) : List Res :=
  xs.map fun x => match x with
    | some v => t.round (v.scale (-sc))
    | none => { bits := t.nar }

/-! ### QNT (R282) -/

/-- Element e of w bytes of a tile register's bytes, with its poison. -/
def tileElem (bs : List PByte) (w e : Nat) : Nat × Bool :=
  let b := (bs.drop (w * e)).take w
  (leNat (b.map (·.1)), b.any (·.2))

def chunksOf {α : Type} (n : Nat) : Nat → List α → List (List α)
  | 0, _ => []
  | k + 1, l => l.take n :: chunksOf n k (l.drop n)

/-- The row, the scale word and the flags of QNT. -/
def qntResult (f : NarrowSel) (p : Nat) (src : List PByte) : RowVal × Word × Flags × Bool :=
  let t := NarrowSel.taper f
  let m := NarrowSel.wide f
  let es := (upto t.count).map fun j => tileElem src (m.width / 8) (t.count * p + j)
  let vals := es.map fun e => match m.decode e.1 with
    | .num n a x => if e.2 then none else some (Fp.num n a x).dy
    | _ => none
  let nv := es.any fun e => !e.2 && (match m.decode e.1 with | .nan g => g | .inf _ => true | _ => false)
  let nb := t.count / t.block
  let bls := chunksOf t.block nb vals
  let scs := bls.map blockScale
  let rs := (List.zipWith (fun sc b => quantise t sc b) scs bls).flatten
  let word := ((upto nb).zip scs).foldl (fun n (q, sc) => n + lowBits 8 sc * 2 ^ (8 * (q + 1))) p
  (t.pack (List.zipWith (fun (r : Res) e => (r.bits, e.2)) rs es), BitVec.ofNat 64 word,
    orFlags rs ||| (if nv then flagNV else 0), es.any (·.2))

/-- R282 QNT. -/
def execQnt (f : NarrowSel) (d : RCode) (a : Fin 8) (base : Fin 16) (bank : Bool) (c : SReg) (s : State) : Out :=
  let r := match rowSel s.sel d base bank 0 with | .bc => RowSel.ill | y => y
  let n := tileNo a.val bank
  s.computing
    (if !s.core.ready [c] || s.core.busyT n || !s.core.rowOpen r then s.stall
    else
      (s.rowChk [r]).run s fun _ =>
        let w := s.S c
        let p := w.toNat % 16
        if 1024 < (NarrowSel.taper f).count * (p + 1) * ((NarrowSel.wide f).width / 8) then s.trapB .rgf w
        else
          let q := qntResult f p (s.core.T n).bytes
          .next (s.consume q.2.2.2 s.core.bofs fun s =>
            State.retire (({ s with core := (s.core.setRow r q.1).setS c q.2.1 } : State).flag q.2.2.1)))

/-! ### DQN (R283) -/

/-- The elements that DQN writes, with their poison and flags. -/
def dqnElems (f : NarrowSel) (w : Word) (r : RowVal) : List (Res × Bool) :=
  let t := NarrowSel.taper f
  let m := NarrowSel.wide f
  (upto t.count).map fun j =>
    let bad := t.elemBad r.bad j
    let sc := scaleByte w (j / t.block)
    if bad || sc == 0x80 then ({ bits := m.qnan }, bad)
    else match t.decode (t.elem r.bits j) with
      | .num n a x => (m.round .rne ((Fp.num n a x).dy.scale (scaleInt sc)), false)
      | _ => ({ bits := m.qnan }, false)

/-- A row with bytes from o on replaced; a half that is replaced whole takes the poison of its bytes. -/
def RowVal.over (v : RowVal) (o : Nat) (bs : List PByte) : RowVal :=
  let at' (j : Nat) : Option PByte := if o ≤ j then bs[j - o]? else none
  let half (h : Nat) : Bool :=
    if (upto 32).all fun j => (at' (32 * h + j)).isSome then
      (upto 32).any fun j => match at' (32 * h + j) with | some b => b.2 | none => false
    else v.bad.getLsbD h || (upto 32).any fun j => match at' (32 * h + j) with | some b => b.2 | none => false
  { bits := rowOfBytes ((upto 64).map fun j => match at' j with | some b => b.1 | none => Row.byte v.bits j)
    bad := (if half 0 then 1 else 0) ||| (if half 1 then 2 else 0) }

/-- A tile register with bytes from o on replaced. -/
def TileReg.over (t : TileReg) (o : Nat) (bs : List PByte) : TileReg :=
  { live := true
    rows := Vector.ofFn fun i =>
      let v := t.row i
      if 64 * i.val + 64 ≤ o || o + bs.length ≤ 64 * i.val then v
      else if o ≤ 64 * i.val then v.over 0 (bs.drop (64 * i.val - o))
      else v.over (o - 64 * i.val) bs }

/-- R283 DQN. -/
def execDqn (f : NarrowSel) (d : Fin 8) (a : RCode) (base : Fin 16) (bank : Bool) (c : SReg) (s : State) : Out :=
  let r := match rowSel s.sel a base bank 0 with | .bc => RowSel.ill | y => y
  let n := tileNo d.val bank
  let m := NarrowSel.wide f
  let e := (NarrowSel.taper f).count
  s.computing
    (if !s.core.ready [c] || !s.core.tileOpen n || !s.core.rowFree r then s.stall
    else
      (s.rowChk [r]).run s fun _ =>
        let w := s.S c
        let p := w.toNat % 16
        if 1024 < e * (p + 1) * (m.width / 8) then s.trapB .rgf w
        else
          let es := dqnElems f w (s.core.rowVal r 8 0)
          let bs := (es.map fun x => (leBytes (m.width / 8) x.1.bits).map fun b => (b, x.2)).flatten
          .next (s.consume (es.any (·.2)) s.core.bofs fun s =>
            State.retire (({ s with core := s.core.setT n ((s.core.T n).over (e * p * (m.width / 8)) bs) } : State).flag
              (orFlags (es.map (·.1))))))

/-! ### BAQ (R284) -/

/-- One block of BAQ: its 32 results, its scale byte, whether its poison was read. -/
def baqBlock (sa sb : Nat) (xs : List (Nat × Nat)) (bad : Bool) : List Res × Nat × Bool :=
  if sa == 0x80 || sb == 0x80 then (List.replicate 32 { bits := 0x80 }, 0x80, false)
  else
    let vs := xs.map fun (x, y) => match t8.decode x, t8.decode y with
      | .num n a e, .num n' a' e' =>
        if bad then none
        else some (((Fp.num n a e).dy.scale (scaleInt sa)).add ((Fp.num n' a' e').dy.scale (scaleInt sb)))
      | _, _ => none
    let sc := blockScale vs
    (quantise t8 sc vs, lowBits 8 sc, bad)

/-- The row, the scale word, the flags of BAQ and whether it consumes poison. -/
def baqResult (w : Word) (a b : RowVal) : RowVal × Word × Flags × Bool :=
  let blk (q : Nat) : List Res × Nat × Bool :=
    baqBlock (scaleByte w q) (scaleByte w (q + 2)) ((upto 32).map fun j => (t8.elem a.bits (32 * q + j), t8.elem b.bits (32 * q + j)))
      (a.bad.getLsbD q || b.bad.getLsbD q)
  let x := blk 0
  let y := blk 1
  let rs := x.1 ++ y.1
  ({ t8.pack (rs.map fun r => (r.bits, false)) with bad := a.bad ||| b.bad },
    BitVec.ofNat 64 (w.toNat % 256 + 256 * x.2.1 + 65536 * y.2.1), orFlags rs, x.2.2 || y.2.2)

/-- R284 BAQ. -/
def execBaq (d a b : RCode) (base : Fin 16) (bank : Bool) (c : SReg) (s : State) : Out :=
  let sel (k : RCode) : RowSel := match rowSel s.sel k base bank 0 with | .bc => RowSel.ill | y => y
  s.computing
    (if !s.core.ready [c] || !s.core.rowOpen (sel d) || !s.core.rowFree (sel a) || !s.core.rowFree (sel b) then s.stall
    else
      (s.rowChk [sel d, sel a, sel b]).run s fun _ =>
        let q := baqResult (s.S c) (s.core.rowVal (sel a) 8 0) (s.core.rowVal (sel b) 8 0)
        .next (s.consume q.2.2.2 s.core.bofs fun s =>
          State.retire (({ s with core := (s.core.setRow (sel d) q.1).setS c q.2.1 } : State).flag q.2.2.1)))

end Sys2Proof.Machine
end

