-- ==== Sys2Proof/Machine/Summation.lean ====
section
/-! DEFINITION. The arithmetic of the matrix unit: operands, the summation of R299, the checksums of R308 and R309, the read-outs of R305
(12_matrix R298-R309, 11_narrow R276-R279). -/

namespace Sys2Proof.Machine

/-! ### Operands (R276, R298) -/

/-- The formats of FMTA and FMTB by their codes. -/
inductive MFmt where
  | bf16 | t8 | t6 | i8
  deriving DecidableEq, Repr, Inhabited

def mfmtOf (n : Nat) : MFmt := match n % 8 with | 0 => .bf16 | 1 => .t8 | 2 => .t6 | _ => .i8

def MFmt.scaled : MFmt → Bool
  | .t8 => true
  | .t6 => true
  | _ => false

/-- Groups or blocks of a row: how many, and of how many elements (R299). -/
def MFmt.groups : MFmt → Nat × Nat
  | .bf16 => (4, 8)
  | .t8 => (2, 32)
  | .t6 => (5, 16)
  | .i8 => (1, 64)

/-- A row of an operand: its elements, whether it holds poison, whether it holds an element that reads as NaR or comes from poison. -/
structure MRow where
  els : List Fp
  ints : List Int := []
  bad : Bool
  nar : Bool := false
  deriving DecidableEq, Repr, Inhabited

def anyPoison (bs : List PByte) : Bool := bs.any (·.2)

/-- A row of an operand from its 64 bytes; elements from a poisoned half read as NaN, or as 0 in i8. -/
def MFmt.row (f : MFmt) (bs : List PByte) : MRow :=
  let bad := anyPoison bs
  match f with
  | .bf16 =>
    { els := (upto 32).map fun k => let e := tileElem bs 2 k; if e.2 then .nan false else Sys2Proof.Machine.bf16.decode e.1, bad := bad }
  | .i8 => { els := [], ints := bs.map fun b => if b.2 then 0 else b.1.toInt, bad := bad }
  | .t8 =>
    let es := bs.map fun b => if b.2 then Fp.nan false else Sys2Proof.Machine.t8.decode b.1.toNat
    { els := es, bad := bad, nar := es.any Fp.isNan }
  | .t6 =>
    let r := rowOfBytes (bs.map (·.1))
    let p : BitVec 2 := (if anyPoison (bs.take 32) then 1 else 0) ||| (if anyPoison (bs.drop 32) then 2 else 0)
    let es := (upto 80).map fun j =>
      if Sys2Proof.Machine.t6.elemBad p j then Fp.nan false else Sys2Proof.Machine.t6.decode (Sys2Proof.Machine.t6.elem r j)
    { els := es, bad := bad, nar := es.any Fp.isNan }

/-- The 16 rows of a slot. -/
def MFmt.slot (f : MFmt) (bs : List PByte) : List MRow := (chunksOf 64 16 bs).map f.row

/-- The scales of row i from the 128 bytes of its entry: none is NaR (R274, R277, R279). -/
def MFmt.scales (f : MFmt) (bs : List PByte) (i : Nat) : List (Option Int) :=
  let n := f.groups.1
  if f.scaled then
    (upto n).map fun q => match bs[n * i + q]? with
      | some b => if b.2 || b.1 == 0x80 then none else some b.1.toInt
      | none => none
  else List.replicate n (some 0)

/-- Whether a scale byte that the operation reads is poisoned. -/
def MFmt.scalePoison (f : MFmt) (bs : List PByte) : Bool := f.scaled && anyPoison (bs.take (16 * f.groups.1))

/-- The exact sum of one group (R299). -/
def dotGroup : List Fp → List Fp → Int → Sum → Sum
  | x :: xs, y :: ys, sc, s => dotGroup xs ys sc (s.putProduct x y sc)
  | _, _, _, s => s

/-- The sums of the groups of a row of A and a row of B. -/
def groupSums (size : Nat) : List Fp → List Fp → List (Option Int) → List (Option Int) → List Sum
  | xs, ys, some p :: ps, some q :: qs => dotGroup (xs.take size) (ys.take size) (p + q) {} :: groupSums size (xs.drop size) (ys.drop size) ps qs
  | xs, ys, _ :: ps, _ :: qs => { nan := true, negz := false } :: groupSums size (xs.drop size) (ys.drop size) ps qs
  | _, _, _, _ => []

/-- Rounds the groups into acc in turn (R299). -/
def foldGroups (rm : Rm) : List Sum → Nat → Events → Nat × Events
  | [], acc, e => (acc, e)
  | g :: gs, acc, e =>
    let r := (g.put (f32.decode acc)).round rm
    foldGroups rm gs r.bits { e with nv := e.nv || r.nv, ovf := e.ovf || r.ovf }

def dotInt : List Int → List Int → Int
  | x :: xs, y :: ys => x * y + dotInt xs ys
  | _, _ => 0

/-! ### Accumulators (02 R55, R56) -/

def Acc.row (a : Acc) (i : Fin 16) : RowVal := if a.live then a.rows[i] else {}
def RowVal.lane32 (r : RowVal) (j : Nat) : Nat := r.bits.toNat / 2 ^ (32 * j) % 2 ^ 32
def RowVal.bad32 (r : RowVal) (j : Nat) : Bool := r.bad.getLsbD (j / 8)

/-- Element (i, j) with its poison. -/
def Acc.elem (a : Acc) (i j : Nat) : Nat × Bool :=
  let r := if a.live then (a.rows[i]?).getD {} else {}
  (r.lane32 j, r.bad32 j)

/-- Checksum state (R308): a dead accumulator has zero vectors, VALID = CKE and INT = 0. -/
def Acc.checks (a : Acc) (cke : Bool) : Acc :=
  if a.live then a else { a with kc := Vector.replicate 16 0, kr := Vector.replicate 16 0, valid := cke, int := false }

/-- One element of the result of a multiplication. -/
structure MElem where
  bits : Nat
  bad : Bool
  sum : Sum := {}
  isum : Int := 0
  ev : Events := {}
  used : Bool := true
  checked : Bool := false
  deriving DecidableEq, Repr, Inhabited

/-- Element (i, j): the start value, then the groups (R299). -/
def mulElem (f : MFmt) (ovw : Bool) (old : Nat × Bool) (a b : MRow) (sa sb : List (Option Int)) : MElem :=
  let sbad := !ovw && old.2
  let bad := a.bad || b.bad
  match f with
  | .i8 =>
    let p := dotInt a.ints b.ints
    let c := if ovw || old.2 then 0 else old.1
    { bits := lowBits 32 ((c : Int) + p), bad := bad || sbad, isum := p, ev := { poi := bad || sbad } }
  | _ =>
    let c := if ovw then 0 else if old.2 then f32.qnan else old.1
    let gs := groupSums f.groups.2 a.els b.els sa sb
    let r := foldGroups .rne gs c {}
    { bits := r.1, bad := bad || sbad, sum := gs.foldl Sum.merge {}, ev := { r.2 with poi := bad || sbad }
      checked := !(bad || sbad || a.nar || b.nar || sa.contains none || sb.contains none) }

/-- A multiplication of A by the B operands that `sel` gives each row; a row without one stays (R304). -/
def mulRows (f : MFmt) (ovw : Bool) (acc : Acc) (a : List MRow) (sca : List PByte) (sel : Nat → Option (List MRow × List PByte)) :
    List (List MElem) :=
  (upto 16).map fun i =>
    match sel i, a[i]? with
    | some (b, scb), some ra =>
      let sa := f.scales sca i
      (upto 16).map fun j => match b[j]? with
        | some rb => mulElem f ovw (acc.elem i j) ra rb sa (f.scales scb j)
        | none => { bits := 0, bad := false }
    | _, _ => (upto 16).map fun j => let e := acc.elem i j; { bits := e.1, bad := e.2, used := false }

def Events.join (a b : Events) : Events :=
  { nv := a.nv || b.nv, ovf := a.ovf || b.ovf, poi := a.poi || b.poi, frc := a.frc || b.frc, shd := a.shd || b.shd }

/-- The first element that the shadow checks, row first (R310, R311). -/
def firstChecked (m : List (List MElem)) : Option (Nat × Nat) :=
  ((upto 16).map fun i => ((upto 16).map fun j => (i, j))).flatten.find? fun p =>
    match m[p.1]? with
    | some r => (match r[p.2]? with | some e => e.checked | none => false)
    | none => false

def rowOfElems (r : List (Nat × Bool)) : RowVal := packRow 32 r

def rows16 (m : List RowVal) : Vector RowVal 16 := Vector.ofFn fun i => (m[i.val]?).getD {}

/-- KC or KR after the products of a column or row (R308). -/
def kSum (f : MFmt) (old : W32) (es : List MElem) : W32 :=
  match f with
  | .i8 => BitVec.ofInt 32 ((old.toNat : Int) + es.foldl (fun n e => n + e.isum) 0)
  | _ => BitVec.ofNat 32 (((es.foldl (fun s e => if e.used then s.merge e.sum else s) ({} : Sum)).put (f32.decode old.toNat)).round .rne).bits

/-- The accumulator after a multiplication, with its checksum state (R299, R308). -/
def accAfter (f : MFmt) (ovw cke : Bool) (acc : Acc) (m : List (List MElem)) : Acc :=
  let k := acc.checks cke
  let isI := f == .i8
  let kc : Vector W32 16 := if ovw then Vector.replicate 16 0 else k.kc
  let kr : Vector W32 16 := if ovw then Vector.replicate 16 0 else k.kr
  { live := true
    rows := rows16 (m.map fun r => rowOfElems (r.map fun e => (e.bits, e.bad)))
    kc := Vector.ofFn fun j => kSum f kc[j] (m.map fun r => (r[j.val]?).getD { bits := 0, bad := false, used := false })
    kr := Vector.ofFn fun i => kSum f kr[i] ((m[i.val]?).getD [])
    valid := if ovw then cke else k.valid && cke && k.int == isI
    int := if ovw then isI else k.int }

def mulEvents (m : List (List MElem)) : Events := m.foldl (fun e r => r.foldl (fun e x => e.join x.ev) e) {}

/-- The checksum state made invalid (R308). -/
def Acc.invalid (a : Acc) : Acc := { a with valid := false }

/-- Every half of every row that an operation writes poisoned (R292). -/
def Acc.forced (a : Acc) (writes : Nat → Bool) : Acc :=
  { a with rows := Vector.ofFn fun i => if writes i.val then { a.rows[i] with bad := 3 } else a.rows[i], valid := false }

/-! ### CHKV, CFIX (R309) -/

/-- What a check finds: the word, and for SINGLE the element and its corrected bits; whether it consumed poison. -/
structure Check where
  word : Word
  fix : Option (Nat × Nat × Nat) := none
  poi : Bool := false
  deriving DecidableEq, Repr, Inhabited

/-- The word from the rows and columns that exceed (R309). -/
def checkWord (er ec : List Nat) (res : Nat) : Word :=
  let nr := er.length
  let nc := ec.length
  let single := nr == 1 && nc == 1
  let st := if single then 1 else if nr == 0 && nc == 0 then 0 else if nr == 0 || nc == 0 then 2 else 3
  BitVec.ofNat 64 (st + 16 * er.headD 0 + 256 * ec.headD 0 + 2 ^ 16 * nr + 2 ^ 21 * nc + if single then 2 ^ 32 * res else 0)

def sumDy (l : List Dy) : Dy := l.foldl Dy.add Dy.zero

/-- CHKV on an accumulator with the tolerances TOLA and TOLR. -/
def Acc.check (a : Acc) (cke : Bool) (tola tolr : Nat) : Check :=
  let k := a.checks cke
  if !k.valid then { word := 5 }
  else
    let el (i j : Nat) := a.elem i j
    let all := ((upto 16).map fun i => (upto 16).map fun j => el i j)
    let poi := all.any fun r => r.any (·.2)
    if k.int then
      let v (i j : Nat) : Int := let e := el i j; if e.2 then 0 else (e.1 : Int)
      let rc := (upto 16).map fun j => lowBits 32 ((upto 16).foldl (fun n i => n + v i j) (0 : Int) - ((k.kc[j]?).getD 0).toNat)
      let rr := (upto 16).map fun i => lowBits 32 ((upto 16).foldl (fun n j => n + v i j) (0 : Int) - ((k.kr[i]?).getD 0).toNat)
      let ec := (upto 16).filter fun j => rc[j]? != some 0
      let er := (upto 16).filter fun i => rr[i]? != some 0
      let i := er.headD 0
      let j := ec.headD 0
      let r := (rc[j]?).getD 0
      { word := checkWord er ec r, poi := poi
        fix := if er.length == 1 && ec.length == 1 then some (i, j, lowBits 32 (v i j - (r : Int))) else none }
    else
      let fp (i j : Nat) : Fp := let e := el i j; if e.2 then .nan false else f32.decode e.1
      let odd (x : Fp) : Bool := x.isNan || x.isInf
      let kcs := k.kc.toList.map fun x => f32.decode x.toNat
      let krs := k.kr.toList.map fun x => f32.decode x.toNat
      let ta := f32.decode tola
      let tr := f32.decode tolr
      if all.any (fun r => r.any fun e => e.2 || odd (f32.decode e.1)) || kcs.any odd || krs.any odd || odd ta || odd tr then
        { word := 4, poi := poi }
      else
        let col (j : Nat) := (upto 16).map fun i => (fp i j).dy
        let row (i : Nat) := (upto 16).map fun j => (fp i j).dy
        let resid (l : List Dy) (x : Option Fp) : Dy := (sumDy l).sub ((x.getD (.num false 0 0)).dy)
        let tol (l : List Dy) : Dy := ta.dy.add (tr.dy.mul (sumDy (l.map Dy.abs)))
        let rcs := (upto 16).map fun j => resid (col j) kcs[j]?
        let exceeds (l : List Dy) (x : Option Fp) : Bool := (tol l).lt (resid l x).abs
        let ec := (upto 16).filter fun j => exceeds (col j) kcs[j]?
        let er := (upto 16).filter fun i => exceeds (row i) krs[i]?
        let i := er.headD 0
        let j := ec.headD 0
        let r := (rcs[j]?).getD Dy.zero
        { word := checkWord er ec (f32.round .rne r).bits, poi := poi
          fix := if er.length == 1 && ec.length == 1 then some (i, j, (f32.round .rne ((fp i j).dy.sub r)).bits) else none }

/-- The accumulator with element (i, j) replaced; poison stays (R309). -/
def Acc.putElem (a : Acc) (i j bits : Nat) : Acc :=
  if h : i < 16 then
    let r := a.row ⟨i, h⟩
    { a with
      live := true
      rows := vput (if a.live then a.rows else Vector.replicate 16 {}) ⟨i, h⟩
        { r with bits := BitVec.ofNat 512 (r.bits.toNat - r.lane32 j * 2 ^ (32 * j) + bits % 2 ^ 32 * 2 ^ (32 * j)) } }
  else a

/-! ### Read-outs (R305) -/

/-- Rows of bf16 from the accumulator, rows 0-7 of the result: lanes 16 (i mod 2) + j. -/
def Acc.toBf16 (a : Acc) : List (List (Res × Bool)) :=
  (upto 8).map fun r => (upto 32).map fun l =>
    let e := a.elem (2 * r + l / 16) (l % 16)
    if e.2 then ({ bits := bf16.qnan }, true) else (f32.convert bf16 .rne e.1, false)

/-- T8 rows of the accumulator, rows 0-3 of the result, with the eight scales and the flags (R282, R305). -/
def Acc.toT8 (a : Acc) : List (List (Res × Bool)) × List Int × Flags :=
  let es := ((upto 16).map fun i => (upto 16).map fun j => a.elem i j).flatten
  let vals := es.map fun e => match f32.decode e.1 with
    | .num n m x => if e.2 then none else some (Fp.num n m x).dy
    | _ => none
  let nv := es.any fun e => !e.2 && (match f32.decode e.1 with | .nan g => g | .inf _ => true | _ => false)
  let bls := chunksOf 32 8 vals
  let scs := bls.map blockScale
  let rs := (List.zipWith (fun sc b => quantise t8 sc b) scs bls).flatten
  (chunksOf 64 4 (List.zipWith (fun (r : Res) e => (r, e.2)) rs es), scs, orFlags rs ||| (if nv then flagNV else 0))

/-- The transpose, with KC and KR exchanged (R305 MTR). -/
def Acc.transpose (a : Acc) (cke : Bool) : Acc :=
  let k := a.checks cke
  { live := true
    rows := Vector.ofFn fun i => rowOfElems ((upto 16).map fun j => a.elem j i.val)
    kc := k.kr, kr := k.kc, valid := k.valid, int := k.int }

end Sys2Proof.Machine
end

