-- ==== Sys2Proof/Machine/MomentCalc.lean ====
section
/-! DEFINITION. The arithmetic of the moment datapath: formulas in the extended reals, the mean rounded to nearest and the variance
upward (13_moment R313-R334). -/

namespace Sys2Proof.Machine

/-! ### Extended reals (R317, R318) -/

/-- A value of a formula: NaN (`inv` where 0 times infinity or infinity minus infinity made it), an infinity, or an enclosed real. -/
inductive Ext where
  | nan (inv : Bool)
  | inf (neg : Bool)
  | fin (v : Iv)
  deriving DecidableEq, Repr, Inhabited

/-- An FP32 value; -0 reads as +0. -/
def Ext.of (x : Fp) : Ext :=
  match x with
  | .nan _ => .nan false
  | .inf n => .inf n
  | .num n m e => .fin (Iv.pt (Fp.num n m e).dy)

def Ext.bits (b : Nat) : Ext := Ext.of (f32.decode b)

def Iv.isZero (v : Iv) : Bool := v.lo.m == 0 && v.hi.m == 0

def Ext.mul (p : Nat) (x y : Ext) : Ext :=
  match x, y with
  | .nan a, .nan b => .nan (a || b)
  | .nan a, _ => .nan a
  | _, .nan b => .nan b
  | .inf n, .inf n' => .inf (n != n')
  | .inf n, .fin v => if v.isZero then .nan true else .inf (n != decide (v.lo.m < 0))
  | .fin v, .inf n => if v.isZero then .nan true else .inf (n != decide (v.lo.m < 0))
  | .fin v, .fin w => .fin (Iv.mul p v w)

def Ext.add (p : Nat) (x y : Ext) : Ext :=
  match x, y with
  | .nan a, .nan b => .nan (a || b)
  | .nan a, _ => .nan a
  | _, .nan b => .nan b
  | .inf n, .inf n' => if n == n' then .inf n else .nan true
  | .inf n, .fin _ => .inf n
  | .fin _, .inf n => .inf n
  | .fin v, .fin w => .fin (Iv.add p v w)

def Ext.neg : Ext → Ext
  | .nan a => .nan a
  | .inf n => .inf (!n)
  | .fin v => .fin v.neg

def Ext.sum (p : Nat) : List Ext → Ext
  | [] => .fin (Iv.int 0)
  | [x] => x
  | x :: xs => Ext.add p x (Ext.sum p xs)

def Ext.prod (p : Nat) : List Ext → Ext
  | [] => .fin (Iv.int 1)
  | [x] => x
  | x :: xs => Ext.mul p x (Ext.prod p xs)

/-- The root of the product of two variances; exact where the product is a square. -/
def rootOf (p : Nat) (v w : Nat) : Ext :=
  match Ext.mul p (Ext.bits v) (Ext.bits w) with
  | .nan a => .nan a
  | .inf n => if n then Ext.bits (Config.negativeRoot v w).toNat else .inf false
  | .fin x => if x.lo.m < 0 then Ext.bits (Config.negativeRoot v w).toNat else .fin (Iv.sqrt p x)

/-- FP32 1.0: the second factor of a single root. -/
def one32 : Nat := 0x3F800000

/-- Rounds a formula to FP32. -/
def Ext.round (rm : Rm) (f : Nat → Ext) : Rounded :=
  match f 96 with
  | .nan inv => { bits := f32.qnan, nv := inv }
  | .inf n => { bits := f32.inf n }
  | .fin _ =>
    let r := decideReal (fun p => match f p with | .fin v => v | _ => Iv.none) fun ex x =>
      let r := f32.round rm x false ex
      (r.bits, r.fl &&& flagOF != 0)
    { bits := r.1, ovf := r.2 }

/-! ### Elements (R313, R314) -/

/-- A pair read from a register: mean and variance bits, and whether it came from poison. -/
structure KPair where
  m : Nat
  v : Nat
  bad : Bool := false
  deriving DecidableEq, Repr, Inhabited

/-- A result pair with its events; `free` says that the shadow checks it, `neg` that a variance was below zero (R322). -/
structure KRes where
  m : Nat
  v : Nat
  bad : Bool := false
  ev : Events := {}
  free : Bool := true
  neg : Bool := false
  deriving DecidableEq, Repr, Inhabited

def isNan32 (b : Nat) : Bool := (f32.decode b).isNan

/-- A variance with its sign set, not -0 and not NaN (R319 case 1). -/
def negVar (b : Nat) : Bool := decide (2 ^ 31 < b) && !isNan32 b

def plusZero (b : Nat) : Nat := if b == 2 ^ 31 then 0 else b

/-- Element (i, j) as it is stored. -/
def MomentReg.raw (k : MomentReg) (i j : Nat) : KPair :=
  let r := if k.live then (k.rows[i]?).getD {} else {}
  { m := r.bits.toNat / 2 ^ (64 * j) % 2 ^ 32, v := r.bits.toNat / 2 ^ (64 * j + 32) % 2 ^ 32, bad := r.bad.getLsbD (j / 4) }

/-- Element (i, j) as it reads: a poisoned quarter gives NaN in both halves. -/
def MomentReg.elem (k : MomentReg) (i j : Nat) : KPair :=
  let e := k.raw i j
  if e.bad then { m := f32.qnan, v := f32.qnan, bad := true } else e

/-- A register from 16 rows of 16 pairs; a quarter is poisoned when one of its pairs is. -/
def momentReg (m : List (List KRes)) : MomentReg :=
  { live := true
    rows := Vector.ofFn fun i =>
      let r := (m[i.val]?).getD []
      let bits := (r.foldl (fun (a : Nat × Nat) e => (a.1 + (e.m + 2 ^ 32 * e.v) * 2 ^ (64 * a.2), a.2 + 1)) (0, 0)).1
      let q (n : Nat) : Nat := if ((r.drop (4 * n)).take 4).any (·.bad) then 2 ^ n else 0
      { bits := BitVec.ofNat 1024 bits, bad := BitVec.ofNat 4 (q 0 + q 1 + q 2 + q 3) } }

/-- The 16 x 16 results of an element-wise rule. -/
def gridOf {α : Type} (f : Nat → Nat → α) : List (List α) := (upto 16).map fun i => (upto 16).map fun j => f i j

/-- The pair of a mean formula and a variance formula (R318): one that is not defined makes both NaN. -/
def pairOfFormulas (bad : Bool) (fm fv : Nat → Ext) : KRes :=
  let m := Ext.round .rne fm
  let v := Ext.round .rup fv
  if isNan32 m.bits || isNan32 v.bits then
    { m := f32.qnan, v := f32.qnan, bad := bad, ev := { nv := m.nv || v.nv, poi := bad }, free := !bad }
  else { m := m.bits, v := v.bits, bad := bad, ev := { ovf := m.ovf || v.ovf, poi := bad }, free := !bad }

/-- NaN in an input: the pair is NaN and nothing is counted. -/
def nanPair (bad : Bool) : KRes := { m := f32.qnan, v := f32.qnan, bad := bad, ev := { poi := bad }, free := false }

def KPair.isNan (x : KPair) : Bool := isNan32 x.m || isNan32 x.v

/-! ### Two-operand and deterministic forms (R321, R322) -/

/-- A term whose factor is ρ is omitted when ρ = 0. -/
def rhoTerm (rho : Nat) (t : List Ext) : List Ext := if (f32.decode rho).isZero then [] else t

def two : Ext := .fin (Iv.int 2)

def kAddSub (sub : Bool) (rho : Nat) (x y : KPair) : KRes :=
  let bad := x.bad || y.bad
  if x.isNan || y.isNan then nanPair bad
  else
    let s (e : Ext) : Ext := if sub then e.neg else e
    pairOfFormulas bad
      (fun p => Ext.sum p [Ext.bits x.m, s (Ext.bits y.m)])
      (fun p => Ext.sum p ([Ext.bits x.v, Ext.bits y.v] ++ rhoTerm rho [s (Ext.prod p [two, Ext.bits rho, rootOf p x.v y.v])]))

/-- The mean and variance formulas of a product. -/
def mulMean (rho : Nat) (x y : KPair) (p : Nat) : List Ext :=
  [Ext.prod p [Ext.bits x.m, Ext.bits y.m]] ++ rhoTerm rho [Ext.prod p [Ext.bits rho, rootOf p x.v y.v]]

def mulVar (rho : Nat) (x y : KPair) (p : Nat) : List Ext :=
  let r := Ext.bits rho
  let c := Ext.add p (.fin (Iv.int 1)) (Ext.mul p r r)
  [Ext.prod p [Ext.bits x.v, Ext.bits y.v, c], Ext.prod p [Ext.bits x.m, Ext.bits x.m, Ext.bits y.v],
    Ext.prod p [Ext.bits y.m, Ext.bits y.m, Ext.bits x.v]] ++
    rhoTerm rho [Ext.prod p [two, r, Ext.bits x.m, Ext.bits y.m, rootOf p x.v y.v]]

def kMul (rho : Nat) (x y : KPair) : KRes :=
  let bad := x.bad || y.bad
  if x.isNan || y.isNan then nanPair bad
  else pairOfFormulas bad (fun p => Ext.sum p (mulMean rho x y p)) (fun p => Ext.sum p (mulVar rho x y p))

def kFma (rho : Nat) (x y d : KPair) : KRes :=
  let bad := x.bad || y.bad || d.bad
  if x.isNan || y.isNan || d.isNan then nanPair bad
  else pairOfFormulas bad (fun p => Ext.sum p (Ext.bits d.m :: mulMean rho x y p)) (fun p => Ext.sum p (Ext.bits d.v :: mulVar rho x y p))

/-- w as a deterministic operand. -/
def kAddD (x : KPair) (w : Nat) (wbad : Bool) : KRes :=
  let bad := x.bad || wbad
  if x.isNan || wbad || isNan32 w then nanPair bad
  else pairOfFormulas bad (fun p => Ext.sum p [Ext.bits x.m, Ext.bits w]) (fun _ => Ext.bits x.v)

def kMulD (x : KPair) (w : Nat) (wbad : Bool) : KRes :=
  let bad := x.bad || wbad
  if x.isNan || wbad || isNan32 w then nanPair bad
  else pairOfFormulas bad (fun p => Ext.prod p [Ext.bits x.m, Ext.bits w]) (fun p => Ext.prod p [Ext.bits w, Ext.bits w, Ext.bits x.v])

/-- Whether a formula is below zero; the formulas of KVSUB are exact. -/
def Ext.below (x : Ext) : Bool :=
  match x with
  | .nan _ => false
  | .inf n => n
  | .fin v => decide (v.hi.m < 0)

/-- R322: a variance below zero is written as +0, and the caller sees `neg`. -/
def kVsub (x y : KPair) : KRes :=
  let bad := x.bad || y.bad
  if x.isNan || y.isNan then nanPair bad
  else
    let fv (p : Nat) : Ext := Ext.sum p [Ext.bits x.v, (Ext.bits y.v).neg]
    let fm (p : Nat) : Ext := Ext.sum p [Ext.bits x.m, (Ext.bits y.m).neg]
    let m := Ext.round .rne fm
    if (fv 12288).below && !isNan32 m.bits then
      { m := m.bits, v := 0, bad := bad, ev := { nv := true, ovf := m.ovf, poi := bad }, free := !bad, neg := true }
    else pairOfFormulas bad fm fv

/-! ### Non-linearities (R323, R324) -/

/-- KNL's selectors. -/
inductive Knl where
  | relu | exp | sig | sq | rcp
  deriving DecidableEq, Repr, Inhabited

def Knl.code : Knl → Nat
  | .relu => 0 | .exp => 1 | .sig => 2 | .sq => 3 | .rcp => 4

/-- μΦ(α) + σφ(α), and the variance of the rectified Gaussian. -/
def reluIv (which : Bool) (mu v : Dy) (p : Nat) : Iv :=
  let m := Iv.pt mu
  let s := Iv.sqrt p (Iv.pt v)
  let a := Iv.div p m s
  let c := phiIv p a
  let d := densityIv p a
  let m1 := Iv.add p (Iv.mul p m c) (Iv.mul p s d)
  if which then
    Iv.sub p (Iv.add p (Iv.mul p (Iv.pt ((mu.mul mu).add v)) c) (Iv.mul p m (Iv.mul p s d))) (Iv.mul p m1 m1)
  else m1

/-- exp(μ + σ²/2), and (exp(σ²) - 1) exp(2μ + σ²). -/
def lognIv (which : Bool) (mu v : Dy) (p : Nat) : Iv :=
  if which then Iv.mul p (Iv.sub p (expPt p v) (Iv.int 1)) (expPt p ((mu.scale 1).add v))
  else expPt p (mu.add (v.scale (-1)))

/-- The arguments of s for m₁ and m₂ (R323 SIG). -/
def sigArgs (mu v : Dy) (p : Nat) : Iv × Iv :=
  let r2 := Iv.sqrt p (Iv.int 2)
  let a := Iv.sub p (Iv.int 4) (r2.scale 1)
  let b := (lnIv p (Iv.add p r2 (Iv.int 1))).neg
  let pv := (Iv.mul p (piIv p) (Iv.pt v)).scale (-3)
  (Iv.div p (Iv.pt mu) (Iv.sqrt p (Iv.add p (Iv.int 1) pv)),
    Iv.div p (Iv.mul p a (Iv.add p (Iv.pt mu) b)) (Iv.sqrt p (Iv.add p (Iv.int 1) (Iv.mul p (Iv.mul p a a) pv))))

/-- s(z₁), and max(m₂ - m₁², 0); for μ > 0 by the complements 1 - m, which keep small differences. -/
def sigmIv (which : Bool) (mu v : Dy) (p : Nat) : Iv :=
  let z := sigArgs mu v p
  if !which then sigIv p z.1
  else if 0 < mu.m then
    let t1 := sigIv p z.1.neg
    let t2 := sigIv p z.2.neg
    (Iv.sub p (Iv.sub p (t1.scale 1) (Iv.mul p t1 t1)) t2).maxZero
  else
    let m1 := sigIv p z.1
    (Iv.sub p (sigIv p z.2) (Iv.mul p m1 m1)).maxZero

/-- A pair of enclosed reals. -/
def pairOfIv (fm fv : Nat → Iv) : KRes := pairOfFormulas false (fun p => .fin (fm p)) (fun p => .fin (fv p))

/-- 1/μ + σ²/μ³ = (μ² + σ²)/μ³, and σ²/μ⁴. -/
def rcpIv (which : Bool) (mu v : Dy) (p : Nat) : Iv :=
  let m2 := mu.mul mu
  if which then Iv.div p (Iv.pt v) (Iv.pt (m2.mul m2)) else Iv.div p (Iv.pt (m2.add v)) (Iv.pt (m2.mul mu))

def kNl (g : Knl) (x : KPair) : KRes :=
  let fm := f32.decode x.m
  let fv := f32.decode x.v
  let both (nv : Bool) : KRes := { m := f32.qnan, v := f32.qnan, bad := x.bad, ev := { nv := nv, poi := x.bad }, free := !x.bad && nv }
  let mu := fm.dy
  let v := fv.dy
  let z : Nat → Iv := fun _ => Iv.int 0
  if x.isNan then nanPair x.bad
  else if fm.isInf || fv.isInf then both true
  else if g == .rcp && fm.isZero then both true
  else if fv.isZero then
    match g with
    | .relu => { m := if 0 < mu.m then x.m else 0, v := 0, free := !decide (0 < mu.m) }
    | .exp => pairOfIv (fun p => expPt p mu) z
    | .sig => pairOfIv (fun p => sigIv p (Iv.pt mu)) z
    | .sq => pairOfIv (fun p => Iv.mul p (Iv.pt mu) (Iv.pt mu)) z
    | .rcp => pairOfIv (fun p => Iv.div p (Iv.int 1) (Iv.pt mu)) z
  else
    let far := !((mu.mul mu).lt (v.scale 6))
    let free : KRes := let w := Config.negativeVariance g.code x.m x.v; { m := w.1.toNat, v := w.2.toNat }
    match g with
    | .relu =>
      if fv.neg then free
      else if far then (if 0 < mu.m then { m := x.m, v := x.v, free := false } else { m := 0, v := 0 })
      else pairOfIv (reluIv false mu v) (reluIv true mu v)
    | .exp => pairOfIv (lognIv false mu v) (lognIv true mu v)
    | .sig => if fv.neg then free else pairOfIv (sigmIv false mu v) (sigmIv true mu v)
    | .sq =>
      let m2 := mu.mul mu
      pairOfIv (fun _ => Iv.pt (m2.add v)) (fun _ => Iv.pt (((v.mul v).scale 1).add ((m2.mul v).scale 2)))
    | .rcp => pairOfIv (rcpIv false mu v) (rcpIv true mu v)

/-! ### Reduction, collapse, making (R325, R326, R334) -/

/-- The pairs (j, l) with j < l < 16. -/
def rowPairs : List (Nat × Nat) := ((upto 16).map fun l => (upto l).map fun j => (j, l)).flatten

/-- Column 0 of KRED. -/
def kRed (rho : Nat) (row : List KPair) : KRes :=
  let bad := row.any (·.bad)
  let vOf (j : Nat) : Nat := match row[j]? with | some x => x.v | none => 0
  if row.any KPair.isNan then nanPair bad
  else
    pairOfFormulas bad
      (fun p => Ext.sum p (row.map fun x => Ext.bits x.m))
      (fun p => Ext.sum p ((row.map fun x => Ext.bits x.v) ++
        (rowPairs.map fun jl => rhoTerm rho [Ext.prod p [two, Ext.bits rho, rootOf p (vOf jl.1) (vOf jl.2)]]).flatten))

/-- The forms of KCOL. -/
inductive ColForm where
  | mean | var | sdev | draw
  deriving DecidableEq, Repr, Inhabited

/-- One element of KCOL: its bits, its events, and whether the shadow checks it. -/
def kCol (f : ColForm) (x : KPair) (z : Nat) (zbad : Bool) : MElem :=
  let bad := x.bad || (f == .draw && zbad)
  let e (r : Rounded) (chk : Bool) : MElem := { bits := r.bits, bad := bad, ev := { nv := r.nv, ovf := r.ovf, poi := bad }, checked := chk && !bad }
  if x.isNan then e { bits := f32.qnan } false
  else
    match f with
    | .mean => e { bits := x.m } false
    | .var => e { bits := x.v } false
    | .sdev => e (Ext.round .rne fun p => rootOf p x.v one32) true
    | .draw =>
      if zbad || isNan32 z then e { bits := f32.qnan } false
      else e (Ext.round .rne fun p => Ext.add p (Ext.bits x.m) (Ext.mul p (Ext.bits z) (rootOf p x.v one32))) true

/-- A pair from two planes, without the sign check (R325, R334). -/
def makePair (m v : Nat) (bad nanBoth : Bool) : KRes :=
  if bad then { m := f32.qnan, v := f32.qnan, bad := true, ev := { poi := true }, free := false }
  else if nanBoth && (isNan32 m || isNan32 v) then { m := f32.qnan, v := f32.qnan, free := false }
  else { m := m, v := plusZero v, free := false }

/-! ### KMMA (R329, R330) -/

/-- The exact product of two values, and whether it is 0 times infinity. -/
def Fp.times (x y : Fp) : Fp :=
  match x, y with
  | .num n m e, .num n' m' e' => .num (n != n') (m * m') (e + e')
  | .inf n, y => if y.isZero || y.isNan then .nan false else .inf (n != y.neg)
  | x, .inf n => if x.isZero || x.isNan then .nan false else .inf (n != x.neg)
  | _, _ => .nan false

/-- A pair of bf16 halves as values; a variance of -0 reads as +0. -/
structure KVal where
  m : Fp
  v : Fp
  deriving DecidableEq, Repr, Inhabited

def KVal.isNan (x : KVal) : Bool := x.m.isNan || x.v.isNan

/-- Row i of an MB16 slot: its 16 pairs, and whether it is poisoned; without `vars` the variance plane is not read. -/
def mb16Row (bs : List PByte) (vars : Bool) (i : Nat) : List KVal × Bool :=
  let mp := (bs.drop (32 * i)).take 32
  let vp := if vars then (bs.drop (512 + 32 * i)).take 32 else List.replicate 32 (0, false)
  let bad := anyPoison mp || anyPoison vp
  let nan : KVal := { m := .nan false, v := .nan false }
  ((upto 16).map fun k =>
    if bad then nan else { m := bf16.decode (tileElem mp 2 k).1, v := bf16.decode (tileElem vp 2 k).1 }, bad)

/-- The exact sums of a group of 8 terms (R330). -/
def kGroup (mw : Bool) : List KVal → List KVal → Sum × Sum → Sum × Sum
  | x :: xs, w :: ws, (sm, sv) =>
    let sm := sm.put (w.m.times x.m)
    let w2 := w.m.times w.m
    let sv := sv.put (w2.times x.v)
    let sv := if mw then (sv.put (x.v.times w.v)).put ((x.m.times x.m).times w.v) else sv
    kGroup mw xs ws (sm, sv)
  | _, _, s => s

/-- One group rounded into the pair (am, av). -/
def kFold (mw : Bool) (xs ws : List KVal) (a : KRes) : KRes :=
  if isNan32 a.m || isNan32 a.v || xs.any KVal.isNan || ws.any KVal.isNan then
    { a with m := f32.qnan, v := f32.qnan, free := false }
  else
    let g := kGroup mw xs ws ({ negz := false }, { negz := false })
    let m := (g.1.put (f32.decode a.m)).round .rne
    let v := (g.2.put (f32.decode (plusZero a.v))).round .rup
    if isNan32 m.bits || isNan32 v.bits then
      { a with m := f32.qnan, v := f32.qnan, ev := { a.ev with nv := true } }
    else { a with m := m.bits, v := v.bits, ev := { a.ev with ovf := a.ev.ovf || m.ovf || v.ovf } }

/-- The groups `gs` of KMMA over the whole accumulator: from the start values `cm`, `cv`, and whether an element starts from poison. -/
def kmmaGrid (mw zero : Bool) (gs : List Nat) (cm cv : Acc) (a b : List PByte) : List (List KRes) :=
  let ra := (upto 16).map fun i => mb16Row a true i
  let rb := (upto 16).map fun j => mb16Row b mw j
  gridOf fun i j =>
    let x := (ra[i]?).getD ([], false)
    let w := (rb[j]?).getD ([], false)
    let m := cm.elem i j
    let v := cv.elem i j
    let sbad := !zero && (m.2 || v.2)
    let bad := x.2 || w.2 || sbad
    let start : KRes :=
      if zero then { m := 0, v := 0 } else if sbad then { m := f32.qnan, v := f32.qnan } else { m := m.1, v := v.1 }
    let r := gs.foldl (fun r g => kFold mw ((x.1.drop (8 * g)).take 8) ((w.1.drop (8 * g)).take 8) r) start
    { r with bad := bad, ev := { r.ev with poi := bad }, free := r.free && !bad }

/-- The lowest output element, row first. -/
def lowest (l : List (Nat × Nat)) : Option (Nat × Nat) :=
  l.foldl (fun m x => match m with
    | none => some x
    | some y => if x.1 < y.1 || (x.1 == y.1 && x.2 < y.2) then some x else some y) none

/-- The elements that a negative variance governs (R319, R330); an element with a poisoned half reads as NaN. -/
def kmmaNegative (mw ovw : Bool) (cm cv : Acc) (a b : List PByte) : Option (Nat × Nat) :=
  let neg (x : KVal) : Bool := match x.v with | .nan _ => false | .inf n => n | .num n m _ => n && m != 0
  let inA := (upto 16).filterMap fun i => if (mb16Row a true i).1.any neg then some (i, 0) else none
  let inB := if mw then (upto 16).filterMap fun j => if (mb16Row b true j).1.any neg then some (0, j) else none else []
  let inC := if ovw then [] else
    (((upto 16).map fun i => (upto 16).map fun j => (i, j)).flatten).filter fun p => let e := cv.elem p.1 p.2; !e.2 && !(cm.elem p.1 p.2).2 && negVar e.1
  lowest (inA ++ inB ++ inC)

end Sys2Proof.Machine
end

