-- ==== Sys2Proof/Machine/Unit.lean ====
section
/-! DEFINITION. The matrix unit: issue, binding, start, retirement, deferred events (12_matrix R288, R292, R295-R297, R306-R311,
13_moment R328, R333, R335, R336). -/

namespace Sys2Proof.Machine

/-! ### What an operation reads and writes -/

/-- Accumulators that an operation writes. -/
def accWrites (u : UnitOp) : List Nat :=
  match u.op with
  | .mmaAcc d _ _ _ | .mmaOvw d _ _ _ | .mmaKeepb d _ _ _ | .mmaKeepa d _ _ _ | .mmg d _ _ _ | .macz d | .macwr d _ | .mtr d _ => [d.val]
  | .mmq d _ _ _ _ => [d.val, d.val + 1, d.val + 2, d.val + 3]
  | .cfix _ a => [a.val]
  | .kmmaDwAcc d _ _ _ _ | .kmmaMwAcc d _ _ _ _ | .kmmaDwOvw d _ _ _ _ | .kmmaMwOvw d _ _ _ _ => [d.val, d.val + 1]
  | .inj _ _ => [u.scalar.toNat / 4 % 8]
  | _ => []

/-- Whether an operation writes row i of its accumulators: an MMG leaves a row of group 0xFF as it is (R303, R304). -/
def rowWrites (u : UnitOp) (i : Nat) : Bool :=
  match u.op with
  | .mmg _ _ _ _ => u.group[i]? != some 0xFF
  | _ => true

/-- The accumulator that a q5 entry names (R307). -/
def accNamed (u : UnitOp) : Nat :=
  match u.op with
  | .macrdF32 _ a | .macrdBf16 _ _ a | .macrdT8 _ _ a _ | .chkv _ a | .csrd _ a _ | .kacrd _ a => a.val
  | _ => (accWrites u).headD 0

/-- Moment registers that an instruction reads or writes, and those it writes. -/
def kTouched : Instr → List Nat
  | .kadd d a b | .ksub d a b | .kmul d a b | .kfma d a b | .kvsub d a b => [d.val, a.val, b.val]
  | .kaddd d a _ | .kscl d a _ | .kmuld d a _ | .knlRelu d a | .knlExp d a | .knlSig d a | .knlSq d a | .knlRcp d a | .kred d a
  | .kmov d a | .kmovTr d a => [d.val, a.val]
  | .kmk d _ _ _ | .kacrd d _ => [d.val]
  | .kcolMean _ a | .kcolVar _ a | .kcolSdev _ a | .kcolDraw _ a _ _ _ _ => [a.val]
  | _ => []

def kWritten : Instr → List Nat
  | .kcolMean _ _ | .kcolVar _ _ | .kcolSdev _ _ | .kcolDraw _ _ _ _ _ _ => []
  | i => (kTouched i).take 1

/-- The moment register of a KLD. -/
def kldReg : Option Instr → Option Nat
  | some (.kldMp32 d _) => some d.val
  | some (.kldMb16 d _) => some d.val
  | _ => none

/-- Whether a KLD into one of the registers has not retired (R328). -/
def Core.kldPending (c : Core) (ks : List Nat) : Bool :=
  c.claims.any fun e => match kldReg e.op with | some d => ks.contains d | none => false

/-! ### Sampling (R278, R295, 15 R369) -/

/-- Word 1 and word 2 of a KIND 4 entry from the state registers. -/
def Srs.sample1 (r : Srs) : Word :=
  BitVec.ofNat 64 (r.fmta.toNat % 8 + 8 * (r.fmtb.toNat % 8) + 64 * (r.kmd.toNat % 8) + 2 ^ 9 * (r.scla.toNat % 2 ^ 19) +
    2 ^ 28 * (r.sclb.toNat % 2 ^ 19))

def Srs.sample2 (r : Srs) : Word := BitVec.ofNat 64 (r.gtb.toNat % 2 ^ 19 + 2 ^ 32 * (r.krho.toNat % 2 ^ 32))

/-- An operation of entry n with the values that the entry's words hold. -/
def opOf (n : Nat) (i : Instr) (e : Entry) (now : Word) : UnitOp :=
  let w1 := e.w1.toNat
  let w2 := e.w2.toNat
  { ent := n, op := i, fmta := BitVec.ofNat 64 (w1 % 8), fmtb := BitVec.ofNat 64 (w1 / 8 % 8), kmd := BitVec.ofNat 64 (w1 / 64 % 8)
    scla := BitVec.ofNat 64 (w1 / 2 ^ 9 % 2 ^ 19), sclb := BitVec.ofNat 64 (w1 / 2 ^ 28 % 2 ^ 19), gtb := BitVec.ofNat 64 (w2 % 2 ^ 19)
    krho := BitVec.ofNat 64 (w2 / 2 ^ 32), scalar := e.cap, na := 0, nb := 0, row := RowVal.ofBytes e.buf, step := e.w3.toNat % 4
    forced := e.forced.contains e.next.toNat
    since := now }

/-! ### Binding (R288, R289) -/

/-- The offset at which a new operation of entry `ent` binds ring h: the slots that the other operations in flight will pop, with those
whose slots stay bound. -/
def UnitState.offset (u : UnitState) (ent : Nat) (h : Ring) : Nat :=
  (u.ops ++ u.kept.filter (·.ent != ent)).foldl (fun n o => n + o.popsOf h) 0

/-- The bytes that an operation's slots hold from offset u on. -/
def Tile.slotBytes (t : Tile) (h : Ring) (u : Nat) : List PByte := t.bytes ((t.ring h).at u) 1024

def slotsFrom (t : Tile) (h : Ring) (u n : Nat) : List PByte := ((upto n).map fun k => t.slotBytes h (u + k)).flatten

/-- The tile after the check bits of n slots are read. -/
def eccSlots (t : Tile) (fresh : Nat) (h : Ring) (u n : Nat) : Tile :=
  if t.flips.isEmpty then t else (upto n).foldl (fun t k => t.ecc fresh ((t.ring h).at (u + k)) 1024) t

/-- The scale bytes of the slots that an operation binds, read at issue (R279, R295). -/
def readScales (t : Tile) (fresh : Nat) (u : UnitOp) (a b : Ring) : Tile × UnitOp :=
  if u.scaled then
    let ofs (base : Word) (h : Ring) (k : Nat) : Nat := base.toNat + 128 * (t.ring h).slotNo k
    let oa := (upto u.na).map fun k => ofs u.scla a (u.ua + k)
    let ob := (upto u.nb).map fun k => ofs u.sclb b (u.ub + k)
    let t := (oa ++ ob).foldl (fun t o => t.ecc fresh o 128) t
    (t, { u with sca := (oa.map fun o => t.bytes o 128).flatten, scb := (ob.map fun o => t.bytes o 128).flatten })
  else (t, u)

/-- The lease that is out on a slot that an operation reads and has not captured; it comes back before the slot is read (08 R198). -/
def State.slotLeased (s : State) (u : UnitOp) : Option LeaseDir :=
  let of (h : Ring) (o n : Nat) (got : List PByte) : Option LeaseDir :=
    if got.isEmpty then (upto n).findSome? fun k => s.tile.leasedOut ((s.tile.ring h).at (o + k)) 1024 else none
  match unitRings u.op with
  | some ((a, _), (b, _)) => (of a u.ua u.na u.a).orElse fun _ => of b u.ub u.nb u.b
  | none => none

/-- The scale entries of the slots that an operation binds are read once no lease is out on them (08 R198). -/
def State.scaleRecall (s : State) (u : UnitOp) (a b : Ring) : Chk Unit :=
  let of (base : Word) (h : Ring) (o n : Nat) : Option LeaseDir :=
    (upto n).findSome? fun k => s.tile.leasedOut (base.toNat + 128 * (s.tile.ring h).slotNo (o + k)) 128
  if u.scaled then
    match (of u.scla a u.ua u.na).orElse fun _ => of u.sclb b u.ub u.nb with
    | some d => .wait (s.recall d)
    | none => .ok ()
  else .ok ()

/-- The check of the formats that an MMA, MMQ or MMG makes at issue (R278). -/
def formatChk (s : State) (u : UnitOp) : Chk Unit :=
  if u.fmta != u.fmtb || decide (3 < u.fmta.toNat) then .trap .ill s.core.pc else .ok ()

/-- The check of the scale arrays (R278): none for bf16 and i8. -/
def scaleChk (s : State) (u : UnitOp) (a b : Ring) : Chk Unit :=
  let outside (w : Word) (h : Ring) : Bool := w.toNat % 128 != 0 || decide (0x80000 < w.toNat + 128 * (s.tile.ring h).nslot.toNat)
  if !u.scaled then .ok ()
  else if outside u.scla a then .trap .bnd u.scla
  else if outside u.sclb b then .trap .bnd u.sclb
  else .ok ()

/-- An unconfigured ring raises BND with its handle word (R291). -/
def ringChk (s : State) (h : Ring) : Chk Unit := if (s.tile.ring h).nslot == 0 then .trap .bnd (s.tile.ring h).word else .ok ()

/-- Whether ring h holds v slots from offset u on. -/
def ringHas (s : State) (h : Ring) (u v : Nat) : Bool := decide (u + Nat.max v 1 ≤ (s.tile.ring h).fill.toNat)

/-- Binds one slot of each ring, with its waits (R288); the slots are read after an acquire that is pending (06 R147). -/
def bindPair (s : State) (u : UnitOp) (a b : Ring) (wa wb : Nat) : Chk (UnitOp × State) :=
  (ringChk s a).bind fun _ => (ringChk s b).bind fun _ =>
    let ua := s.core.unit.offset u.ent a
    let ub := s.core.unit.offset u.ent b
    if !s.core.acquiring && ringHas s a ua wa && ringHas s b ub wb then
      let u := { u with ua := ua, ub := ub, na := 1, nb := 1 }
      (s.scaleRecall u a b).bind fun _ =>
        let r := readScales s.tile s.fresh u a b
        .ok (r.2, { s with tile := r.1, fresh := s.fresh + 1 })
    else .wait s

/-! ### Issue (R295, R97) -/

/-- One iteration issues: the operation joins the unit, and the bundle goes on. -/
def unitJoin (s : State) (n : Fin 8) (e : Entry) (u : UnitOp) : Out :=
  let more := decide (e.next.toNat + 1 < e.count.toNat)
  let e := { e with st := 0, w3 := 0, next := if 1 < e.count.toNat then e.next + 1 else e.next, issuing := more, resume := false }
  let c := s.core.setEntry n e
  let s := State.reheld { s with core := { c with unit := { ops := c.unit.ops ++ [u], kept := c.unit.kept.filter (·.ent != u.ent) } } }
  .next (if more then { s with core := { s.core with issued := true } } else s.retire)

/-- Issues an iteration of entry n, where the unit holds no waiting operation; `bind` checks, waits and binds. -/
def unitIter (s : State) (i : Instr) (n : Fin 8) (e : Entry) (bind : State → UnitOp → Chk (UnitOp × State)) : Out :=
  if s.core.unit.ops.any fun u => !u.started then s.stall
  else (bind s (opOf n.val i e s.cyc)).run s fun (u, s) => unitJoin s n e u

/-- A unit operation at issue: an entry of KIND 4 with the sampled values; `cap` and `buf` are captured operands without a word. -/
def State.unitIssue (s : State) (i : Instr) (rep : Rep) (ready : Bool) (cap : Word) (buf : List PByte)
    (bind : State → UnitOp → Chk (UnitOp × State)) : Out :=
  s.computing
    (if !ready || s.core.kldPending (kTouched i) then s.stall
    else
      match s.core.issuing with
      | some n => unitIter s i n s.core.rq[n] bind
      | none =>
        if !repReady s.core rep then s.stall
        else
          let c := repCount s.core rep
          if 65535 < c then s.trapB .rgf s.core.pc
          else if c == 0 then .next s.retire
          else
            s.withEntry fun n =>
              unitIter s i n { s.newEntry i 4 s.core.sr.sample1 s.core.sr.sample2 with count := BitVec.ofNat 16 c, cap := cap, buf := buf } bind)

/-- An operation without slots. -/
def noBind (s : State) (u : UnitOp) : Chk (UnitOp × State) := .ok (u, s)

/-! ### Start (R292, R295, R311) -/

/-- The bytes of a tile register of the core. -/
def Core.tileBytes (c : Core) (n : Nat) : List PByte := (c.T n).bytes

/-- Captures the slots and tile registers that an operation reads; a slot popped before is captured already. -/
def capture (s : State) (u : UnitOp) : UnitOp × State :=
  match unitRings u.op with
  | some ((a, _), (b, _)) =>
    let t := eccSlots (eccSlots s.tile s.fresh a u.ua u.na) s.fresh b u.ub u.nb
    ({ u with a := if u.a.isEmpty then slotsFrom t a u.ua u.na else u.a, b := if u.b.isEmpty then slotsFrom t b u.ub u.nb else u.b },
      { s with tile := t, fresh := s.fresh + 1 })
  | none =>
    match u.op with
    | .macwr _ t | .kaddd _ _ t | .kmuld _ _ t => ({ u with a := s.core.tileBytes t.val }, s)
    | .kmk _ a b bank =>
      ({ u with a := s.core.tileBytes (tileNo a.val bank), b := match b with | some b => s.core.tileBytes (tileNo b.val bank) | none => [] }, s)
    | _ => (u, s)

def isMmq : Instr → Bool
  | .mmq _ _ _ _ _ => true
  | _ => false

/-- The operation that may start next: the first that has not started, with none executing before it, and no deferred event. -/
def UnitState.startable (u : UnitState) (dfr : Bool) : Option UnitOp :=
  match u.ops with
  | x :: _ => if x.started || dfr then none else some x
  | [] => none

def UnitState.replaceHead (u : UnitState) (x : UnitOp) : UnitState := { u with ops := x :: u.ops.drop 1 }

/-- Slice offset of an operation's bundle. -/
def Core.opc (c : Core) (u : UnitOp) : BitVec 19 := if h : u.ent < 8 then c.rq[u.ent].bofs else 0

/-- Fields of TVA of a deferred event of the unit (R311, 13 R319). -/
def unitTva (opc : BitVec 19) (i j cs : Nat) (mis : Bool) : Word :=
  BitVec.ofNat 64 (opc.toNat + 2 ^ 24 * i + 2 ^ 28 * j + 2 ^ 32 + 2 ^ 33 * cs + if mis then 2 ^ 63 else 0)

/-- A deferred event: the operation stays bound and writes nothing, and the core takes the event at its next bundle boundary; in an
open region NVF unwinds there (R311, R319, 14 R344). -/
def State.deferUnit (s : State) (u : UnitOp) (c : Cause) (va : Word) : State :=
  { s with core := { s.core with
      unit := s.core.unit.replaceHead { u with started := true, stuck := true }
      tr := { s.core.tr with deferred := some { cause := c, va := va } } } }

/-- The pair of accumulators of a KMMA: even member, moment weights, overwrite. -/
def kmmaOf : Instr → Option (Nat × Bool × Bool)
  | .kmmaDwAcc d _ _ _ _ => some (d.val, false, false)
  | .kmmaMwAcc d _ _ _ _ => some (d.val, true, false)
  | .kmmaDwOvw d _ _ _ _ => some (d.val, false, true)
  | .kmmaMwOvw d _ _ _ _ => some (d.val, true, true)
  | _ => none

def Core.acc (c : Core) (n : Nat) : Acc := (c.rf.c[n]?).getD {}

/-- R295 UNIT_OPERATION_START: the next operation starts; MMQ starts by its rendezvous. -/
def execUnitOperationStart (s : State) : Out :=
  match s.core.unit.startable s.core.tr.deferred.isSome with
  | none => .next s
  | some u =>
    if isMmq u.op then .next s
    else
    match s.slotLeased u with
    | some d => .next (s.recall d)
    | none =>
      let r := capture s u
      let u := { r.1 with started := true }
      let s := { r.2 with core := { r.2.core with unit := r.2.core.unit.replaceHead u } }
      match kmmaOf u.op with
      | some (d, mw, ovw) =>
        if u.step == 0 then
          match kmmaNegative mw ovw (s.core.acc d) (s.core.acc (d + 1)) u.a u.b with
          | some (i, j) => .next (s.deferUnit u .nvf (unitTva (s.core.opc u) i j 1 false))
          | none => .next s
        else .next s
      | none => .next s

/-! ### Results -/

/-- What an operation writes and meets: the row registers after it, events, the first element that the shadow checks, an NVF, flags, a
scalar. -/
structure UnitOut where
  rf : RowFile
  ev : Events := {}
  eats : Bool := false
  copies : Bool := false
  checked : Option (Nat × Nat) := none
  nvf : Option (Nat × Nat × Nat) := none
  fl : Flags := 0
  val : Option (SReg × Word) := none

def RowFile.setAcc (r : RowFile) (n : Nat) (a : Acc) : RowFile := if h : n < 8 then { r with c := vput r.c ⟨n, h⟩ a } else r
def RowFile.setK (r : RowFile) (n : KReg) (k : MomentReg) : RowFile := { r with k := vput r.k n k }
def RowFile.setTile (r : RowFile) (n : Nat) (t : TileReg) : RowFile := if h : n < 16 then { r with t := vput r.t ⟨n, h⟩ t } else r

/-- The result of a multiplication into accumulator d. -/
def mulOut (c : Core) (u : UnitOp) (d : Nat) (ovw : Bool) (m : List (List MElem)) (spoi : Bool) : UnitOut :=
  let f := mfmtOf u.fmta.toNat
  let ev := mulEvents m
  let acc := accAfter f ovw (c.sr.mctl.getLsbD 0) (c.acc d) m
  let poi := ev.poi || spoi
  { rf := c.rf.setAcc d (if poi then acc.invalid else acc), ev := { ev with poi := poi }, eats := poi
    checked := if f == .i8 then none else firstChecked m }

/-- MMA (R299). -/
def mmaOut (c : Core) (u : UnitOp) (d : Nat) (ovw : Bool) : UnitOut :=
  let f := mfmtOf u.fmta.toNat
  let b := f.slot u.b
  let m := mulRows f ovw (c.acc d) (f.slot u.a) u.sca fun _ => some (b, u.scb)
  mulOut c u d ovw m (f.scalePoison u.sca || f.scalePoison u.scb)

/-- MMG (R304): row i of A against the B slot of its group. -/
def mmgOut (c : Core) (u : UnitOp) (d : Nat) : UnitOut :=
  let f := mfmtOf u.fmta.toNat
  let n := u.b.length / 1024
  let bs := (upto n).map fun g => (f.slot ((u.b.drop (1024 * g)).take 1024), (u.scb.drop (128 * g)).take 128)
  let grp (i : Nat) : Option Nat := match u.group[i]? with | some b => (if b == 0xFF then none else some b.toNat) | none => none
  let m := mulRows f false (c.acc d) (f.slot u.a) u.sca fun i => match grp i with | some g => bs[g]? | none => none
  let used := (upto 16).filterMap grp
  mulOut c u d false m (f.scalePoison u.sca || used.any fun g => f.scalePoison ((u.scb.drop (128 * g)).take 128))

def gridEvents (m : List (List KRes)) : Events := m.foldl (fun e r => r.foldl (fun e x => e.join x.ev) e) {}

def firstFree (m : List (List KRes)) : Option (Nat × Nat) :=
  ((upto 16).map fun i => ((upto 16).map fun j => (i, j))).flatten.find? fun p =>
    match m[p.1]? with
    | some r => (match r[p.2]? with | some e => e.free | none => false)
    | none => false

def firstNeg (m : List (List KRes)) : Option (Nat × Nat) :=
  ((upto 16).map fun i => ((upto 16).map fun j => (i, j))).flatten.find? fun p =>
    match m[p.1]? with
    | some r => (match r[p.2]? with | some e => e.neg | none => false)
    | none => false

/-- An element-wise moment result into k(d). -/
def kOut (c : Core) (d : KReg) (m : List (List KRes)) : UnitOut :=
  let ev := gridEvents m
  { rf := c.rf.setK d (momentReg m), ev := ev, eats := ev.poi, checked := firstFree m }

def Core.K (c : Core) (n : KReg) : MomentReg := c.rf.k[n]

def kGrid2 (c : Core) (d a b : KReg) (f : KPair → KPair → KRes) : UnitOut :=
  kOut c d (gridOf fun i j => f ((c.K a).elem i j) ((c.K b).elem i j))

def kGrid1 (c : Core) (d a : KReg) (f : KPair → KRes) : UnitOut := kOut c d (gridOf fun i j => f ((c.K a).elem i j))

/-- Element (i, j) of an FP32 tile register's bytes. -/
def f32Elem (bs : List PByte) (i j : Nat) : Nat × Bool :=
  let o := 64 * i + 4 * j
  let half := anyPoison ((bs.drop (o / 32 * 32)).take 32)
  ((tileElem bs 4 (16 * i + j)).1, half)

def kDet (c : Core) (u : UnitOp) (d a : KReg) (f : KPair → Nat → Bool → KRes) : UnitOut :=
  kOut c d (gridOf fun i j => let w := f32Elem u.a i j; f ((c.K a).elem i j) w.1 w.2)

/-- KCOL (R326): a tile register of FP32 elements. -/
def kColOut (c : Core) (u : UnitOp) (t : Nat) (a : KReg) (f : ColForm) : UnitOut :=
  let m := gridOf fun i j => kCol f ((c.K a).elem i j) (u.row.lane32 j) (u.row.bad32 j)
  let ev := mulEvents m
  { rf := c.rf.setTile t { live := true, rows := rows16 (m.map fun r => rowOfElems (r.map fun e => (e.bits, e.bad))) }
    ev := ev, eats := ev.poi, checked := firstChecked m }

/-- A register made from two planes with a check of the variances (R319 case 1). -/
def makeOut (c : Core) (d : KReg) (m : Nat → Nat → Nat × Bool) (v : Nat → Nat → Nat × Bool) (nanBoth : Bool) : UnitOut :=
  let g := gridOf fun i j => let x := m i j; let y := v i j; { makePair x.1 y.1 (x.2 || y.2) nanBoth with neg := !(x.2 || y.2) && negVar y.1 }
  { kOut c d g with checked := none, nvf := (firstNeg g).map fun p => (p.1, p.2, 1) }

def transposeK (k : MomentReg) : List (List KRes) :=
  gridOf fun i j => let e := k.raw j i; { m := e.m, v := e.v, bad := e.bad }

/-- The groups of a KMMA from its pass on, or one pass of a moment-weight form (R330, R333). -/
def kmmaOut (c : Core) (u : UnitOp) (d : Nat) (mw ovw : Bool) (gs : List Nat) : UnitOut :=
  let cm := c.acc d
  let cv := c.acc (d + 1)
  let m := kmmaGrid mw (ovw && u.step == 0 && gs.head? == some 0) gs cm cv u.a u.b
  let plane (old : Acc) (f : KRes → Nat) : Acc :=
    { old with live := true, rows := rows16 (m.map fun r => rowOfElems (r.map fun e => (f e, e.bad))), valid := false }
  let ev := gridEvents m
  { rf := (c.rf.setAcc d (plane cm (·.m))).setAcc (d + 1) (plane cv (·.v)), ev := ev, eats := ev.poi, checked := firstFree m }

def rnd32 (r : List (Res × Bool)) (n : Nat) : RowVal := packRow n (r.map fun e => (e.1.bits, e.2))

/-- Rows of a tile register replaced from row b on. -/
def putRows (t : TileReg) (b : Nat) (rs : List RowVal) : TileReg :=
  { live := true, rows := Vector.ofFn fun i => if b ≤ i.val then (rs[i.val - b]?).getD (t.row i) else t.row i }

def rho32 (u : UnitOp) : Nat := u.krho.toNat % 2 ^ 32

/-- The result of an operation (R299-R309, 13 R321-R334); KMMA with moment weights by `kmmaOut`. -/
def unitOut (c : Core) (u : UnitOp) : UnitOut :=
  let cke := c.sr.mctl.getLsbD 0
  let rho := rho32 u
  let nop : UnitOut := { rf := c.rf }
  match u.op with
  | .mmaAcc d _ _ _ | .mmaKeepb d _ _ _ | .mmaKeepa d _ _ _ => mmaOut c u d.val false
  | .mmaOvw d _ _ _ => mmaOut c u d.val true
  | .mmg d _ _ _ => mmgOut c u d.val
  | .macz d => { nop with rf := c.rf.setAcc d.val { live := true, valid := cke } }
  | .macrdF32 t a =>
    let x := c.acc a.val
    let rows := Vector.ofFn fun i => x.row i
    { nop with rf := c.rf.setTile t.val { live := true, rows := rows }, copies := rows.any fun r => r.bad != 0 }
  | .macrdBf16 t h a =>
    let m := (c.acc a.val).toBf16
    let poi := m.any fun r => r.any (·.2)
    { nop with
      rf := c.rf.setTile t.val (putRows (c.T t.val) (8 * h.val) (m.map fun r => rnd32 r 16))
      fl := m.foldl (fun f r => f ||| orFlags (r.map (·.1))) 0, ev := { poi := poi }, eats := poi }
  | .macrdT8 t q a s =>
    let m := (c.acc a.val).toT8
    let poi := m.1.any fun r => r.any (·.2)
    let w := (m.2.1.foldl (fun (x : Nat × Nat) b => (x.1 + lowBits 8 b * 2 ^ (8 * x.2), x.2 + 1)) (0, 0)).1
    { nop with
      rf := c.rf.setTile t.val (putRows (c.T t.val) (4 * q.val) (m.1.map fun r => rnd32 r 8))
      fl := m.2.2, ev := { poi := poi }, eats := poi, val := some (s, BitVec.ofNat 64 w) }
  | .macwr d _ =>
    let rows := rows16 ((chunksOf 64 16 u.a).map fun b => packRow 8 (b.map fun x => (x.1.toNat, x.2)))
    { nop with
      rf := c.rf.setAcc d.val { ((c.acc d.val).checks cke) with live := true, rows := rows, valid := false }
      copies := anyPoison u.a }
  | .mtr d a =>
    let x := (c.acc a.val).transpose cke
    { nop with rf := c.rf.setAcc d.val x, copies := x.rows.any fun r => r.bad != 0 }
  | .chkv d a =>
    let k := (c.acc a.val).check cke (u.scalar.toNat % 2 ^ 32) (u.scalar.toNat / 2 ^ 32)
    { nop with ev := { poi := k.poi }, eats := k.poi, val := some (d, k.word) }
  | .cfix d a =>
    let x := c.acc a.val
    let k := x.check cke (u.scalar.toNat % 2 ^ 32) (u.scalar.toNat / 2 ^ 32)
    let y := match k.fix with
      | some (i, j, b) => ({ x.checks cke with live := x.live } : Acc).putElem i j b
      | none => x
    { nop with rf := c.rf.setAcc a.val y, ev := { poi := k.poi }, eats := k.poi, val := some (d, k.word) }
  | .csrd d a _ =>
    let k := (c.acc a.val).checks cke
    let n := u.scalar.toNat % 32
    let x := if n < 16 then (k.kc[n]?).getD 0 else (k.kr[n - 16]?).getD 0
    { nop with val := some (d, BitVec.ofNat 64 (x.toNat + (if k.valid then 2 ^ 32 else 0) + if k.int then 2 ^ 33 else 0)) }
  | .inj _ _ =>
    let w := u.scalar.toNat
    let d := w / 4 % 8
    let i := w / 2 ^ 8 % 16
    let j := w / 2 ^ 12 % 16
    let b := w / 2 ^ 32 % 32
    let x := c.acc d
    let x := { x.checks cke with live := x.live }
    { nop with rf := c.rf.setAcc d (x.putElem i j (Nat.xor (x.elem i j).1 (2 ^ b))) }
  | .kadd d a b => kGrid2 c d a b (kAddSub false rho)
  | .ksub d a b => kGrid2 c d a b (kAddSub true rho)
  | .kmul d a b => kGrid2 c d a b (kMul rho)
  | .kfma d a b => kOut c d (gridOf fun i j => kFma rho ((c.K a).elem i j) ((c.K b).elem i j) ((c.K d).elem i j))
  | .kaddd d a _ => kDet c u d a kAddD
  | .kmuld d a _ => kDet c u d a kMulD
  | .kscl d a _ => kGrid1 c d a fun x => kMulD x (u.scalar.toNat % 2 ^ 32) false
  | .kvsub d a b =>
    let g := gridOf fun i j => kVsub ((c.K a).elem i j) ((c.K b).elem i j)
    { kOut c d g with nvf := if u.kmd.getLsbD 2 then none else (firstNeg g).map fun p => (p.1, p.2, 0) }
  | .knlRelu d a => kGrid1 c d a (kNl .relu)
  | .knlExp d a => kGrid1 c d a (kNl .exp)
  | .knlSig d a => kGrid1 c d a (kNl .sig)
  | .knlSq d a => kGrid1 c d a (kNl .sq)
  | .knlRcp d a => kGrid1 c d a (kNl .rcp)
  | .kmk d _ b _ => { makeOut c d (f32Elem u.a) (fun i j => if b.isSome then f32Elem u.b i j else (0, false)) true with copies := false }
  | .kcolMean t a => { kColOut c u t.val a .mean with checked := none }
  | .kcolVar t a => { kColOut c u t.val a .var with checked := none }
  | .kcolSdev t a => kColOut c u t.val a .sdev
  | .kcolDraw t a _ _ bank _ => kColOut c u (tileNo t.val bank) a .draw
  | .kacrd d a => makeOut c d (fun i j => (c.acc a.val).elem i j) (fun i j => (c.acc (a.val + 1)).elem i j) false
  | .kred d a =>
    kOut c d (gridOf fun i j =>
      if j == 0 then kRed rho ((upto 16).map fun l => (c.K a).elem i l) else { m := 0, v := 0, free := false })
  | .kmov d a =>
    let k := c.K a
    let k' : MomentReg := { live := true, rows := if k.live then k.rows else Vector.replicate 16 {} }
    { nop with rf := c.rf.setK d k', copies := k.live && k.rows.any fun r => r.bad != 0 }
  | .kmovTr d a =>
    let k := momentReg (transposeK (c.K a))
    { nop with rf := c.rf.setK d k, copies := k.rows.any fun r => r.bad != 0 }
  | _ => nop

/-! ### Retirement (R292, R295, R307, R310, 14 R344) -/

/-- Marks the written rows of the accumulators of a forced operation. -/
def forceAccs (r : RowFile) (ns : List Nat) (writes : Nat → Bool) : RowFile :=
  ns.foldl (fun r n => match r.c[n]? with | some a => r.setAcc n (a.forced writes) | none => r) r

/-- The slots that an operation pops at its retirement leave their rings; the positions of the others fall (R288). -/
def popSlots (s : State) (u : UnitOp) (rest : List UnitOp) : State :=
  match unitRings u.op with
  | none => { s with core := { s.core with unit := { s.core.unit with ops := rest } } }
  | some ((a, pa), (b, pb)) =>
    let fall (h : Ring) (n : Nat) (os : List UnitOp) : List UnitOp := os.map fun o =>
      match unitRings o.op with
      | some ((x, _), (y, _)) => { o with ua := if x == h then o.ua - n else o.ua, ub := if y == h then o.ub - n else o.ub }
      | none => o
    let na := if pa then u.na else 0
    let nb := if pb then u.nb else 0
    let t := if na == 0 then s.tile else s.tile.setRing a ((s.tile.ring a).pop na)
    let t := if nb == 0 then t else t.setRing b ((t.ring b).pop nb)
    { s with tile := t, core := { s.core with unit := { ops := fall b nb (fall a na rest), kept := fall b nb (fall a na s.core.unit.kept) } } }

/-- The entry of an operation that retired: freed unless its bundle issues further iterations, has operations in flight, or has one that was
withdrawn and is still to be re-injected (R297). -/
def endEntry (c : Core) (u : UnitOp) : Core :=
  if h : u.ent < 8 then
    let e := c.rq[u.ent]
    if e.issuing || e.resume || c.unit.ops.any fun o => o.ent == u.ent then c else c.dropEntry ⟨u.ent, h⟩
  else c

/-- A retirement that is not abandoned: registers, events, counters, slots, entry. The consumption and the divergence of the earlier
passes or steps are recorded with it, once (14 R357). -/
def commitUnit (s : State) (u : UnitOp) (o : UnitOut) (shd : Bool) : State :=
  let rest := s.core.unit.ops.drop 1
  let rf := if u.forced then forceAccs o.rf (accWrites u) (rowWrites u) else o.rf
  let ev := { u.before.join o.ev with frc := u.forced, shd := shd || u.before.shd }
  let c := { s.core with rf := rf }
  let c := match o.val with | some (d, v) => c.setS d v | none => c
  let c := (c.flag o.fl).countOp (accNamed u) (s.core.opc u) ev
  let s := { s with core := c }
  let s := if o.eats || u.before.poi then { s with tile := s.tile.poi } else s
  let s := s.copied (o.copies || u.forced)
  let s := if ev.shd then { s with tile := s.tile.shd } else s
  let s := popSlots s u rest
  State.reheld { s with core := endEntry s.core u }

/-- A retirement, compared under lockstep on a digest of the accumulators written, those of an earlier pass among them, and of the other
registers (14 R351). -/
def retireUnit (s : State) (u : UnitOp) (o : UnitOut) (shd : Bool) : State :=
  let t := commitUnit s u o shd
  s.compared t (s.core.opc u) (t.core.rf.accWords (accWrites u))

/-- One pass of a moment-weight KMMA that does not retire: its writes, and its events kept until it retires (R307, R333). -/
def commitPass (s : State) (u : UnitOp) (o : UnitOut) (shd : Bool) : State :=
  let u := { u with step := 1, scalar := Events.word { o.ev with shd := shd } }
  { s with core := { s.core with rf := o.rf, unit := s.core.unit.replaceHead u } }

/-- Ends an operation, or a pass of it, with the shadow check, NVF and the consumption of poison before anything is written. The shadows
compute the same results (10 R265, `LaneShadow.diverges`); an injection makes every checked element diverge (14 R356). -/
def endUnit (s : State) (u : UnitOp) (o : UnitOut) (commit : State → Bool → State) : State :=
  match o.nvf with
  | some (i, j, cs) => s.deferUnit u .nvf (unitTva (s.core.opc u) i j cs false)
  | none =>
    let dv := s.core.injMat && o.checked.isSome
    let s := if dv then s.spent true else s
    if dv && s.tile.modes.shadowTrap then
      let p := o.checked.getD (0, 0)
      s.divergence.deferUnit u .shd (unitTva (s.core.opc u) p.1 p.2 0 false)
    else if o.eats && s.core.inRegion then s.unwind .poison (s.core.opc u)
    else commit s dv

/-- Whether a stop or a trap reaches the operation: it was issued at a lower level, or the core is stopped (R297, R333). -/
def Core.halts (c : Core) (u : UnitOp) : Bool :=
  c.stopped || (if h : u.ent < 8 then decide (c.rq[u.ent].lvl.val < c.tr.level.val) || c.tr.fwd.isSome else false)

/-- R295, R297, R307, R333 UNIT_OPERATION_RETIRE: the executing operation retires; MMQ retires by the leader's signal. -/
def execUnitOperationRetire (s : State) : Out :=
  match s.core.unit.ops with
  | [] => .next s
  | u :: _ =>
    if !u.started || u.stuck || isMmq u.op then .next s
    else
      match kmmaOf u.op with
      | some (d, true, ovw) =>
        if u.step == 0 then
          .next (endUnit s u (kmmaOut s.core u d true ovw [0]) fun s shd =>
            let s := commitPass s u (kmmaOut s.core u d true ovw [0]) shd
            match s.core.unit.ops with
            | u :: _ =>
              if s.core.halts u then
                State.withdraw { s with core := { s.core with unit := s.core.unit.replaceHead { u with stuck := true } } }
              else s
            | [] => s)
        else .next (endUnit s u (kmmaOut s.core u d true ovw [1]) fun s shd => retireUnit s u (kmmaOut s.core u d true ovw [1]) shd)
      | some (d, false, ovw) => .next (endUnit s u (kmmaOut s.core u d false ovw [0, 1]) fun s shd => retireUnit s u (kmmaOut s.core u d false ovw [0, 1]) shd)
      | none => .next (endUnit s u (unitOut s.core u) fun s shd => retireUnit s u (unitOut s.core u) shd)

end Sys2Proof.Machine
end

