-- ==== Sys2Proof/Machine/Matrix.lean ====
section
/-! DEFINITION. The matrix and ring instructions (12_matrix R289-R309), forced operations, RPSH, and the joint operations of a quad
(R300-R302, R311). -/

namespace Sys2Proof.Machine

/-! ### Ring instructions (R290-R294) -/

/-- A ring that must be configured: BND with its handle word otherwise (R291). -/
def State.ringOk (s : State) (h : Ring) (k : Out) : Out := (ringChk s h).run s fun _ => k

/-- A count past NSLOT raises BND(h). -/
def State.ringCount (s : State) (h : Ring) (n : Nat) (k : Out) : Out :=
  s.ringOk h (if (s.tile.ring h).nslot.toNat < n then s.trapB .bnd (s.tile.ring h).word else k)

/-- Whether a to-ring copy into the ring has not ended (R291). -/
def CopyEngine.ringBusy (e : CopyEngine) (h : Ring) : Bool :=
  e.entries.toList.any fun x => x.busy && x.mode == 3 && (match x.desc[1]? with | some w => w.toNat % 8 == h.val | none => false)

/-- R291 RCFG. -/
def execRcfg (h : Ring) (a : SReg) (s : State) : Out :=
  if !s.core.ready [a] then s.stall
  else
    let w := s.S a
    let base := w.toNat % 512
    let n := w.toNat / 512 % 128
    if 65536 ≤ w.toNat || n == 0 || decide (64 < n) || decide (512 < base + n) then s.trapB .bnd w
    else
      let r := s.tile.ring h
      if r.held != 0 || s.tile.copy.ringBusy h then s.stall
      else .next (s.modTile fun t => t.setRing h
        { base := BitVec.ofNat 9 base, nslot := BitVec.ofNat 7 n, epoch := r.epoch + 1 }).retire

/-- R291 RQRY. -/
def execRqry (d : SReg) (h : Ring) (s : State) : Out :=
  if !s.core.ready [d] then s.stall else s.ringOk h (.next (s.setS d (s.tile.ring h).word).retire)

/-- R291 RWAIT.full. -/
def execRwaitFull (h : Ring) (n : Fin 128) (s : State) : Out :=
  s.ringCount h n.val (s.when ((s.tile.ring h).held == 0 && decide (n.val ≤ (s.tile.ring h).fill.toNat)) (.next s.retire))

/-- R291 RWAIT.free. -/
def execRwaitFree (h : Ring) (n : Fin 128) (s : State) : Out :=
  s.ringCount h n.val (s.when (decide (n.val ≤ (s.tile.ring h).free)) (.next s.retire))

/-- R291 RADV.tail, on the staging core. -/
def execRadvTail (h : Ring) (n : Fin 128) (s : State) : Out :=
  s.staging (s.ringCount h n.val
    (s.when (s.core.rpsh.isEmpty && decide (n.val ≤ (s.tile.ring h).free)) (.next (s.tailAdvance h n.val).retire)))

/-- Whether an operation binds one of the first n slots of ring h. -/
def UnitOp.binds (u : UnitOp) (h : Ring) (n : Nat) : Bool :=
  match unitRings u.op with
  | some ((a, _), (b, _)) => (a == h && decide (u.ua < n) && u.na != 0) || (b == h && decide (u.ub < n) && u.nb != 0)
  | none => false

/-- The offset and count of slots of an operation after n slots were popped from under it (R288, R292). -/
def fallBy (n u c : Nat) : Nat × Nat := (u - n, c - Nat.min c (n - u))

/-- An operation after RADV.head popped n slots of ring h: forced where it binds one of them; the bytes that it reads are those of the
slots before the pop. -/
def State.forceOp (s : State) (h : Ring) (n : Nat) (u : UnitOp) : UnitOp × State :=
  match unitRings u.op with
  | some ((a, _), (b, _)) =>
    let hit := u.binds h n
    let r := if hit then capture s u else (u, s)
    let u := r.1
    let fa := if a == h then fallBy n u.ua u.na else (u.ua, u.na)
    let fb := if b == h then fallBy n u.ub u.nb else (u.ub, u.nb)
    ({ u with ua := fa.1, na := fa.2, ub := fb.1, nb := fb.2, forced := u.forced || hit }, r.2)
  | none => (u, s)

def State.forceOps (s : State) (h : Ring) (n : Nat) : List UnitOp → List UnitOp × State
  | [] => ([], s)
  | u :: us =>
    let r := s.forceOp h n u
    let q := State.forceOps r.2 h n us
    (r.1 :: q.1, q.2)

/-- The entry of a forced operation that has left the unit notes it (R292). -/
def Core.markForced (c : Core) (u : UnitOp) : Core :=
  if h : u.ent < 8 then
    let e := c.rq[u.ent]
    { c with rq := vput c.rq ⟨u.ent, h⟩ { e with forced := addTo e.forced e.next.toNat } }
  else c

/-- R291, R292 RADV.head, on the compute core; the slots of an operation that it forces are read first, once no lease is out on them. -/
def execRadvHead (h : Ring) (n : Fin 128) (s : State) : Out :=
  s.computing (s.ringCount h n.val
    (s.when (decide (n.val ≤ (s.tile.ring h).fill.toNat))
      (match (s.core.unit.ops ++ s.core.unit.kept).findSome? fun u => if u.binds h n.val then s.slotLeased u else none with
       | some d => (s.recall d).stall
       | none =>
       let r := s.forceOps h n.val s.core.unit.ops
       let s := r.2
       let q := s.forceOps h n.val s.core.unit.kept
       let s := q.2
       let c := (q.1.filter (·.forced)).foldl Core.markForced { s.core with unit := { ops := r.1, kept := q.1 } }
       let s := { s with core := c, tile := s.tile.setRing h ((s.tile.ring h).pop n.val) }
       .next (State.reheld s).retire)))

/-- Earlier RPSHs of the core into ring h that have not advanced TAIL (R293). -/
def Core.pushing (c : Core) (h : Ring) : Nat := (c.rpsh.filter fun p => p.ring == h).length

/-- R293 RPSH: the slot is reserved at issue, and filled later; with z TAIL alone advances. A store waits for a pending acquire
(06 R147). -/
def execRpsh (t : Option (Fin 4)) (h : Ring) (rep : Rep) (s : State) : Out :=
  s.staging
    (if (match t with | some t => s.core.busyT t.val | none => false) then s.stall
    else s.repeated (.rpsh t h rep) rep 5 0 0 fun s _ _ _ fin =>
      s.ringOk h
        (let r := s.tile.ring h
         let p := s.core.pushing h
         if r.free ≤ p || (t.isSome && s.core.acquiring) then s.stall
         else
           let bs := match t with | some t => (s.core.T t.val).bytes | none => []
           let op : RpshOp := { ring := h, slot := (r.tail.toNat + p) % r.nslot.toNat, bytes := bs }
           let s := { s with core := { s.core with rpsh := s.core.rpsh ++ [op] } }
           let s := s.fold (BitVec.ofNat 64 h.val :: r.tail.zeroExtend 64 :: foldBytes bs)
           .next (fin (s.copied (anyPoison bs)))))

/-- R293 RPSH_SLOT_FILLED: the earliest RPSH of the core is performed and TAIL advances; a lease on its slot is recalled first (08 R198). -/
def execRpshSlotFilled (s : State) : Out :=
  match s.core.rpsh.head?.bind s.rpshLeased with
  | some d => .next (s.recall d)
  | none => .next s.rpshFill

/-- R294 RTAK. The slot is popped when the bundle retires (14 R345), and read after an acquire that is pending (06 R147). -/
def execRtak (t : Option TReg) (h : Ring) (rep : Rep) (w : Fin 16) (s : State) : Out :=
  s.computing
    (if (match t with | some t => !s.core.tileOpen t.val | none => false) then s.stall
    else s.repeated (.rtak t h rep w) rep 2 (BitVec.ofNat 64 h.val) 0 fun s _ _ _ fin =>
      s.ringOk h
        (let r := s.tile.ring h
         if r.held != 0 || decide (r.fill.toNat < Nat.max w.val 1) || (t.isSome && s.core.acquiring) then s.stall
         else
           (match t with | some _ => s.recallOwn (r.at 0) 1024 | none => .ok ()).run s fun _ =>
           let go : Out :=
             let o := r.at 0
             let tl := match t with | some _ => s.tile.ecc s.fresh o 1024 | none => s.tile
             let bs := match t with | some _ => tl.bytes o 1024 | none => []
             .next (State.consume { s with tile := tl, fresh := s.fresh + 1 } (anyPoison bs) s.core.bofs fun s =>
               let s := { s with tile := s.tile.setRing h (r.pop 1) }
               fin (match t with | some t => { s with core := s.core.setT t.val (tileOfBytes bs) } | none => s))
           if s.core.issuing.isSome then go else s.withEntry fun _ => go))

/-! ### MMA, MMQ and MMG at issue (R289, R298-R304) -/

/-- One ring for both operands raises ILL (R289). -/
def State.twoRings (s : State) (a b : Ring) (k : Out) : Out := if a == b then s.trapB .ill s.baseWord else k

/-- The checks and the binding of an MMA. -/
def mmaBind (a b : Ring) (m : MatX) (s : State) (u : UnitOp) : Chk (UnitOp × State) :=
  (formatChk s u).bind fun _ => (ringChk s a).bind fun _ => (ringChk s b).bind fun _ => (scaleChk s u a b).bind fun _ =>
    bindPair s u a b m.wa.val m.wb.val

def State.mma (s : State) (i : Instr) (a b : Ring) (m : MatX) : Out :=
  s.computing (s.twoRings a b (s.unitIssue i m.rep true 0 [] (mmaBind a b m)))

/-- R298 MMA.acc. -/
def execMmaAcc (d : AccR) (a b : Ring) (m : MatX) (s : State) : Out := s.mma (.mmaAcc d a b m) a b m
/-- R298 MMA.ovw. -/
def execMmaOvw (d : AccR) (a b : Ring) (m : MatX) (s : State) : Out := s.mma (.mmaOvw d a b m) a b m
/-- R298 MMA.keepb. -/
def execMmaKeepb (d : AccR) (a b : Ring) (m : MatX) (s : State) : Out := s.mma (.mmaKeepb d a b m) a b m
/-- R298 MMA.keepa. -/
def execMmaKeepa (d : AccR) (a b : Ring) (m : MatX) (s : State) : Out := s.mma (.mmaKeepa d a b m) a b m

/-- The group table entry of an MMG (R303, R304): the bytes; BND where a field is out of range. -/
def groupOk (bs : List Byte) : Bool :=
  let g := ((bs[16]?).getD 0).toNat
  decide (1 ≤ g) && decide (g ≤ 16) && (bs.take 16).all (fun x => x == 0xFF || decide (x.toNat < g)) && (bs.drop 17).all (· == 0)

/-- The checks, waits and binding of an MMG, in the order of R304. -/
def mmgBind (a b : Ring) (m : MatX) (s : State) (u : UnitOp) : Chk (UnitOp × State) :=
  (formatChk s u).bind fun _ => (ringChk s a).bind fun _ => (ringChk s b).bind fun _ => (scaleChk s u a b).bind fun _ =>
    let ua := s.core.unit.offset u.ent a
    let ub := s.core.unit.offset u.ent b
    if s.core.acquiring || !ringHas s a ua m.wa.val then .wait s
    else
      let ra := s.tile.ring a
      if u.gtb.toNat % 32 != 0 || decide (0x80000 < u.gtb.toNat + 32 * ra.nslot.toNat) then .trap .bnd u.gtb
      else
        let o := u.gtb.toNat + 32 * ra.slotNo ua
        (s.recallOwn o 32).bind fun _ =>
        let t := s.tile.ecc s.fresh o 32
        let s := { s with tile := t, fresh := s.fresh + 1 }
        let bs := t.slice.readMany o 32
        if t.poison.contains (o / 32) then .trap .due (BitVec.ofNat 64 o)
        else if !groupOk bs then .trap .bnd (BitVec.ofNat 64 o)
        else
          let g := ((bs[16]?).getD 0).toNat
          if (s.tile.ring b).fill.toNat < ub + Nat.max m.wb.val g then .wait s
          else
            let u := { u with ua := ua, ub := ub, na := 1, nb := g, group := bs.take 16 }
            (s.scaleRecall u a b).bind fun _ =>
              let r := readScales s.tile s.fresh u a b
              .ok (r.2, { s with tile := r.1, fresh := s.fresh + 1 })

/-- R303, R304 MMG. -/
def execMmg (d : AccR) (a b : Ring) (m : MatX) (s : State) : Out :=
  s.computing (s.twoRings a b (s.unitIssue (.mmg d a b m) m.rep true 0 [] (mmgBind a b m)))

/-- The four tiles of a quad, in the order of their index (R11, R301). -/
def quadOf (x y : Nat) : List (Nat × Nat) :=
  let a := x / 2 * 2
  let b := y / 2 * 2
  [(a, b), (a + 1, b), (a, b + 1), (a + 1, b + 1)]

/-- Whether the whole quad of the tile in focus belongs to its team. -/
def State.wholeQuad (s : State) : Bool :=
  match s.tile.id with
  | .grid x y => (quadOf x y).all fun q => s.tile.placement.any fun p => p.x == q.1 && p.y == q.2
  | .gateway _ => false

/-- R300 MMQ: it issues like an MMA, and starts by the rendezvous of its quad. -/
def execMmq (d : AccR) (a b : Ring) (wa wb : Fin 16) (s : State) : Out :=
  s.computing
    (if !(d.val == 0 || d.val == 4) || !s.wholeQuad then s.trapB .ill s.baseWord
    else s.twoRings a b (s.unitIssue (.mmq d a b wa wb) .one true 0 [] (mmaBind a b { wa := wa, wb := wb })))

/-! ### Accumulator and checksum instructions (R305, R309) -/

/-- R305 MACZ. -/
def execMacz (d : AccR) (s : State) : Out := s.unitIssue (.macz d) .one true 0 [] noBind

/-- R305 MACRD.f32. -/
def execMacrdF32 (t : TReg) (a : AccR) (s : State) : Out :=
  s.unitIssue (.macrdF32 t a) .one (s.core.tileOpen t.val) 0 [] noBind
/-- R305 MACRD.bf16. -/
def execMacrdBf16 (t : TReg) (half : Fin 2) (a : AccR) (s : State) : Out :=
  s.unitIssue (.macrdBf16 t half a) .one (s.core.tileOpen t.val) 0 [] noBind
/-- R305 MACRD.t8. -/
def execMacrdT8 (t : TReg) (quarter : Fin 4) (a : AccR) (c : SReg) (s : State) : Out :=
  s.unitIssue (.macrdT8 t quarter a c) .one (s.core.tileOpen t.val && s.core.ready [c]) 0 [] noBind
/-- R305 MACWR. -/
def execMacwr (d : AccR) (t : TReg) (s : State) : Out := s.unitIssue (.macwr d t) .one (!s.core.busyT t.val) 0 [] noBind
/-- R305 MTR. -/
def execMtr (d a : AccR) (s : State) : Out := s.unitIssue (.mtr d a) .one true 0 [] noBind

/-- Whether an operation that writes accumulator n (any operation, for none) has not retired. -/
def State.unitPending (s : State) (n : Option Nat) : Bool :=
  let hit (u : UnitOp) : Bool := match n with | some n => (accWrites u).contains n | none => true
  s.core.unit.ops.any hit ||
    s.core.claims.any fun e => e.kind == 4 && (match e.op with | some i => hit (opOf 8 i e 0) | none => false)

/-- MWAIT holds issue. -/
def State.mwait (s : State) (n : Option Nat) : Out := s.computing (s.when (!s.unitPending n) (.next s.retire))

/-- R305 MWAIT c0. -/
def execMwait0 (s : State) : Out := s.mwait (some 0)
/-- R305 MWAIT c1. -/
def execMwait1 (s : State) : Out := s.mwait (some 1)
/-- R305 MWAIT c2. -/
def execMwait2 (s : State) : Out := s.mwait (some 2)
/-- R305 MWAIT c3. -/
def execMwait3 (s : State) : Out := s.mwait (some 3)
/-- R305 MWAIT c4. -/
def execMwait4 (s : State) : Out := s.mwait (some 4)
/-- R305 MWAIT c5. -/
def execMwait5 (s : State) : Out := s.mwait (some 5)
/-- R305 MWAIT c6. -/
def execMwait6 (s : State) : Out := s.mwait (some 6)
/-- R305 MWAIT c7. -/
def execMwait7 (s : State) : Out := s.mwait (some 7)
/-- R305 MWAIT.all. -/
def execMwaitAll (s : State) : Out := s.mwait none

/-- The tolerances that a check issues with (15 R361). -/
def Core.tolerances (c : Core) : Word := BitVec.ofNat 64 (c.sr.tola.toNat % 2 ^ 32 + 2 ^ 32 * (c.sr.tolr.toNat % 2 ^ 32))

/-- R309 CHKV. -/
def execChkv (d : SReg) (a : AccR) (s : State) : Out := s.unitIssue (.chkv d a) .one (s.core.ready [d]) s.core.tolerances [] noBind
/-- R309 CFIX. -/
def execCfix (d : SReg) (a : AccR) (s : State) : Out := s.unitIssue (.cfix d a) .one (s.core.ready [d]) s.core.tolerances [] noBind
/-- R309 CSRD: S(b) is captured at issue. -/
def execCsrd (d : SReg) (a : AccR) (b : SReg) (s : State) : Out :=
  s.unitIssue (.csrd d a b) .one (s.core.ready [d, b]) (s.S b) [] noBind

/-! ### The joint operation of a quad (R301, R302, R311) -/

/-- Applies f with a core in focus, and returns the focus. -/
def State.atCore (s : State) (id : TileId) (k : CoreSel) (f : State → State) : State :=
  let me := s.tile.id
  let sel := s.sel
  (f (s.focusOn id k)).focusOn me sel

/-- The members of the quad of the tile in focus. -/
def State.quadTiles (s : State) : List TileId :=
  match s.tile.id with
  | .grid x y => (quadOf x y).map fun p => .grid p.1 p.2
  | .gateway _ => []

/-- The compute core of a tile. -/
def State.compOf (s : State) (id : TileId) : Core := (s.tileAt id).comp

/-- The MMQ at the front of a member's unit. -/
def Core.mmqHead (c : Core) : Option UnitOp :=
  match c.unit.ops with
  | u :: _ => if isMmq u.op && !u.stuck && c.tr.deferred.isNone then some u else none
  | [] => none

/-- The MMQs of the four members, where all four have one at the front that has started as `started` says. -/
def State.mmqAll (s : State) (started : Bool) : Option (List (TileId × UnitOp)) :=
  let ms := s.quadTiles
  let us := ms.filterMap fun id => match (s.compOf id).mmqHead with
    | some u => if u.started == started then some (id, u) else none
    | none => none
  if ms.length == 4 && us.length == 4 then some us else none

def allEq {α : Type} [BEq α] : List α → Bool
  | a :: b :: r => a == b && allEq (b :: r)
  | _ => true

/-- The leases that are out on slots of members of a quad: the tile and the lease. -/
def State.quadLeased (s : State) (us : List (TileId × UnitOp)) : List (TileId × LeaseDir) :=
  us.filterMap fun m => (State.slotLeased { s with tile := (s.tileAt m.1).tile } m.2).map fun d => (m.1, d)

/-- R301 MMQ_RENDEZVOUS: with the four ready signals the leader starts step 0, or where counts or formats disagree all four take QTO
with MIS. A lease on a slot of a member comes back first (08 R198). -/
def execMmqRendezvous (s : State) : Out :=
  match s.mmqAll false with
  | none => .next s
  | some us =>
    let agree := allEq (us.map fun m => ((s.tileAt m.1).tile.mqn, m.2.fmta, m.2.fmtb, m.2.step))
    if agree && !(s.quadLeased us).isEmpty then .next ((s.quadLeased us).foldl (fun s d => s.recallAt d.1 d.2) s)
    else
    .next (us.foldl (fun s m => s.atCore m.1 .comp fun s =>
      if agree then
        let r := capture s m.2
        { r.2 with core := { r.2.core with unit := r.2.core.unit.replaceHead { r.1 with started := true } } }
      else s.deferUnit m.2 .qto (unitTva (s.core.opc m.2) 0 0 0 true)) s)

/-- The first accumulator of an MMQ's band. -/
def mmqBand : Instr → Nat
  | .mmq d _ _ _ _ => d.val
  | _ => 0

/-- What steps n .. n + k - 1 of a member's band come to (R300): step n multiplies with member n's B. -/
def mmqSteps (c : Core) (u : UnitOp) (bs : List UnitOp) (d : Nat) : Nat → Nat → UnitOut → UnitOut
  | 0, _, o => o
  | k + 1, n, o =>
    let b := (bs[n]?).getD u
    let x := mmaOut { c with rf := o.rf } { u with b := b.b, scb := b.scb } (d + n) false
    mmqSteps c u bs d k (n + 1)
      { x with ev := o.ev.join x.ev, eats := o.eats || x.eats, checked := match o.checked with | some p => some p | none => x.checked }

/-- The result of a member from its step on, over k steps. -/
def mmqOut (c : Core) (u : UnitOp) (bs : List UnitOp) (k : Nat) : UnitOut := mmqSteps c u bs (mmqBand u.op) k u.step { rf := c.rf }

/-- A joint operation after its last step: every member retires; or, with a divergence that traps, every member withholds its band and
takes SHD (R301, R310, R311). -/
def State.mmqEnd (s : State) (us : List (TileId × UnitOp)) (k : Nat) (commit : UnitOp → UnitOut → State → Bool → State) : State :=
  let bs := us.map (·.2)
  let outs := us.map fun m => (m.1, m.2, mmqOut (s.compOf m.1) m.2 bs k)
  let hit (m : TileId × UnitOp × UnitOut) : Bool :=
    (s.compOf m.1).injMat && m.2.2.checked.isSome && (s.tileAt m.1).tile.modes.shadowTrap
  if outs.any hit then
    outs.foldl (fun s m => s.atCore m.1 .comp fun s =>
      if (s.core.injMat && m.2.2.checked.isSome) then
        let p := m.2.2.checked.getD (0, 0)
        (s.spent true).divergence.deferUnit m.2.1 .shd (unitTva (s.core.opc m.2.1) p.1 p.2 0 false)
      else s.deferUnit m.2.1 .shd (unitTva (s.core.opc m.2.1) 0 0 0 false)) s
  else
    outs.foldl (fun s m => s.atCore m.1 .comp fun s => endUnit s m.2.1 m.2.2 (commit m.2.1 m.2.2)) s

/-- R301 MMQ_RETIRE_SIGNAL: the bands are complete, and every member retires; its joint-operation count goes up. -/
def execMmqRetireSignal (s : State) : Out :=
  match s.mmqAll true with
  | none => .next s
  | some us =>
    let n := (us.map fun m => m.2.step).headD 0
    .next (s.mmqEnd us (4 - n) fun u o s dv =>
      let s := retireUnit s u o dv
      { s with tile := { s.tile with mqn := s.tile.mqn + 1 } })

/-- R302: a stop reaches a started joint operation: the current step ends in all four members, and each keeps its MMQ in the replay
queue with the index of the next step. After the last step the operation retires instead. -/
def State.mmqHalt (s : State) : State :=
  match s.mmqAll true with
  | none => s
  | some us =>
    let n := (us.map fun m => m.2.step).headD 0
    if 3 ≤ n then
      s.mmqEnd us 1 fun u o s dv =>
        let s := retireUnit s u o dv
        { s with tile := { s.tile with mqn := s.tile.mqn + 1 } }
    else
      s.mmqEnd us 1 fun u o s dv =>
        let u := { u with step := n + 1, stuck := true, scalar := Events.word { u.before.join o.ev with shd := dv || u.before.shd } }
        State.withdraw { s with core := { s.core with rf := o.rf, unit := s.core.unit.replaceHead u } }

/-- R301 MMQ_TIMEOUT: an MMQ that has not started 2^16 cycles after its issue takes QTO. -/
def execMmqTimeout (s : State) : Out :=
  match s.core.unit.ops.find? fun u => isMmq u.op && !u.started && !u.stuck && decide (u.since.toNat + 65536 ≤ s.cyc.toNat) with
  | none => .next s
  | some u =>
    if s.core.tr.deferred.isSome then .next s
    else
      .next { s with core := { s.core with
        unit := { s.core.unit with ops := s.core.unit.ops.map fun o => if o.ent == u.ent then { o with stuck := true } else o }
        tr := { s.core.tr with deferred := some { cause := .qto, va := unitTva (s.core.opc u) 0 0 0 false } } } }

end Sys2Proof.Machine
end

