-- ==== Sys2Proof/Machine/Copy.lean ====
section
/-! DEFINITION. The copy engine: CPY, WAITP, promises, completions (09_async R222-R233). -/

namespace Sys2Proof.Machine

/-! ### Descriptors (R223, R224) -/

/-- A signed stride. -/
def strideOf (w : Word) : Int := w.toInt

/-- What a descriptor asks for, by mode: rows (or elements) of so many bytes. -/
structure Shape where
  mode : Nat
  len : Nat
  count : Nat
  sstep : Int
  dstep : Int
  deriving DecidableEq, Repr, Inhabited

def descWord (d : List Word) (k : Nat) : Word := (d[k]?).getD 0

/-- Rows of a 2-D copy and elements of a gather; the other modes are one row. -/
def shapeOf (mode : Nat) (d : List Word) : Shape :=
  let w := (descWord d 2).toNat
  match mode with
  | 0 => { mode := 0, len := w % 2 ^ 40, count := 1, sstep := 0, dstep := 0 }
  | 1 => { mode := 1, len := w % 2 ^ 20, count := w / 2 ^ 20 % 2 ^ 20, sstep := strideOf (descWord d 4), dstep := strideOf (descWord d 5) }
  | 2 => { mode := 2, len := w % 2 ^ 13, count := w / 2 ^ 20 % 2 ^ 20, sstep := 0, dstep := ((w % 2 ^ 13 : Nat) : Int) }
  | _ => { mode := 3, len := 1024 * (w % 128), count := 1, sstep := 0, dstep := 0 }

/-- Whether the operation transfers nothing (R224). -/
def Shape.empty (x : Shape) : Bool := x.len == 0 || x.count == 0

/-- The must-be-0 fields of a descriptor. -/
def descOk (mode : Nat) (d : List Word) : Bool :=
  let w := (descWord d 2).toNat
  decide ((descWord d 3).toNat < 2) &&
    (match mode with
    | 0 => decide (w < 2 ^ 40)
    | 1 => decide (w < 2 ^ 40) && descWord d 6 == 0 && descWord d 7 == 0
    | 2 => decide (w < 2 ^ 40) && w / 2 ^ 13 % 128 == 0 && decide ((descWord d 5).toNat < 2 ^ 32) && descWord d 6 == 0 && descWord d 7 == 0
    | _ => decide (w < 128) && decide ((descWord d 1).toNat < 8))

def limitOf (d : List Word) : Nat := (descWord d 5).toNat % 2 ^ 32

/-- The offsets from its pointer that one side addresses: lowest, and one past the highest; none where nothing is addressed. -/
def spanOf (n : Nat) (step : Int) (count : Nat) : Option (Int × Int) :=
  if n == 0 || count == 0 then none
  else
    let far : Int := ((count - 1 : Nat) : Int) * step
    some (min 0 far, max 0 far + (n : Int))

/-- Offsets of the first byte and the span of the source and of the destination. -/
def srcSpan (x : Shape) (d : List Word) : Option (Int × Int) :=
  if x.mode == 2 then (if x.count == 0 then none else spanOf (x.len * limitOf d) 0 1) else spanOf x.len x.sstep x.count

def dstSpan (x : Shape) : Option (Int × Int) :=
  if x.mode == 3 then none else if x.mode == 2 then spanOf (x.len * x.count) 0 1 else spanOf x.len x.dstep x.count

/-! ### Promises (R228-R230) -/

/-- Routers entered and region boundaries crossed on the dimension-ordered path from a router to another (05 R135). -/
def State.hops (s : State) (dx dy : Nat) : Nat → Nat → Nat → Nat × Nat
  | 0, _, _ => (0, 0)
  | n + 1, x, g =>
    let go (x' g' : Nat) : Nat × Nat :=
      let r := State.hops s dx dy n x' g'
      (r.1 + 1, r.2 + if x / 32 != x' / 32 || g / 34 != g' / 34 then 1 else 0)
    if x < dx then go (x + 1) g
    else if dx < x then go (x - 1) g
    else if s.logicalAt x g == some dy then (0, 0)
    else if s.rowOf dx dy < g then (if s.deadSite x (g - 1) then go x (g - 2) else go x (g - 1))
    else if s.deadSite x (g + 1) then go x (g + 2) else go x (g + 1)

/-- H and B from a tile to an endpoint: a quay's router counts as well. -/
def State.pathFrom (s : State) (a : Nat × Nat) (e : Endpoint) : Nat × Nat :=
  let b := routerOf e
  let r := s.hops b.1 b.2 1024 a.1 (s.rowOf a.1 a.2)
  match e with
  | .quay _ => (r.1 + 1, r.2)
  | _ => r

def State.pathTo (s : State) (e : Endpoint) : Nat × Nat := s.pathFrom s.tile.id.xy e

/-- The edge network engine nearest to a tile by dimension-ordered path (R234); of two equally near the lower number: log entry 98
(DESIGN CHOICE). -/
def State.nearEngine (s : State) (a : Nat × Nat) : Nat :=
  ((upto 16).foldl (fun (best : Nat × Nat) e =>
    let h := (s.pathFrom a (.engine e)).1
    if h < best.1 then (h, e) else best) (1000000, 0)).2

/-- Es by the step of the region: 60 ns. -/
def State.edgeLat (s : State) : Nat := 24 * ((s.region s.myRegion).clk + 1)

/-- Index k of a gather's list. A poisoned sector of it reads 0, as a scalar load would read it: log entry 23 (DEDUCED). -/
def State.gatherIdx (s : State) (d : List Word) (k : Nat) : Nat :=
  let o := ptrOfs (descWord d 4) + 4 * k
  if (sectors o 4).any s.tile.poison.contains then 0 else leNat (s.tile.slice.readMany o 4)

/-- The source and destination pointers moved to the first bytes that the rest of an operation addresses: `unit` rows or elements are done,
and `within` bytes of the next. Where it addresses none, or the next index is at or above LIMIT, the pointers of the descriptor: log entry 98
(DESIGN CHOICE). -/
def State.restPtrs (s : State) (mode : Nat) (d : List Word) (unit within : Nat) : Word × Word :=
  let x := shapeOf mode d
  let p := descWord d 0
  let q := descWord d 1
  let move (p : Word) (k : Int) : Word := withOfs p (Int.ofNat (ptrOfs p) + k).toNat
  let at1 (step : Int) : Int := (unit : Int) * step + (within : Int)
  if x.len == 0 || decide (x.count ≤ unit) then (p, q)
  else
    match mode with
    | 2 =>
      let i := s.gatherIdx d unit
      (if i < (descWord d 5).toNat % 2 ^ 32 then move p ((x.len * i + within : Nat) : Int) else p, move q (at1 x.dstep))
    | 3 => (move p (within : Int), q)
    | _ => (move p (at1 x.sstep), move q (at1 x.dstep))

/-- L of an endpoint: the place that its first byte has (R229). An EDGE or NET pointer whose page is not mapped, which only an empty operation
has, counts Es without a path: log entry 98 (DESIGN CHOICE). -/
def State.endLat (s : State) (p : Word) : Nat :=
  let cost (c : Nat) (e : Endpoint) : Nat := let r := s.pathTo e; c + 4 * r.1 + 10 * r.2
  match ptrSpace p with
  | 0 => 0
  | 1 => if ptrRank p == s.tile.rank then 0 else
      match s.tile.placement[ptrRank p]? with
      | some q => cost 8 (.tile q.x q.y)
      | none => 0
  | 3 => cost 60 (.quay s.myRegion)
  | _ =>
    match s.myCtx.page (ptrSpace p == 4) (ptrOfs p) with
    | some g => cost s.edgeLat g.endpoint
    | none => s.edgeLat

def ceilDiv (a b : Nat) : Nat := (a + b - 1) / b

/-- D for the part of an operation that is left: `unit` rows or elements are done, and `within` bytes of the next. -/
def Shape.cost (x : Shape) (unit within : Nat) : Nat :=
  match x.mode with
  | 1 => (x.count - unit) * (ceilDiv x.len 64 + 1)
  | 2 => (x.count - unit) * (ceilDiv x.len 64 + 1) + ceilDiv (4 * (x.count - unit)) 64
  | _ => ceilDiv (x.len - (if unit == 0 then within else x.len)) 64

/-- T of R229 for the rest of an operation. -/
def State.copyTime (s : State) (mode : Nat) (d : List Word) (unit within : Nat) : Nat :=
  let x := shapeOf mode d
  let r := s.restPtrs mode d unit within
  16 + x.cost unit within + s.endLat r.1 + if mode == 3 then 0 else s.endLat r.2

/-- The promise word. -/
def promiseWord (p : Word) (tag : Nat) (gen : BitVec 5) : Word :=
  BitVec.ofNat 64 (p.toNat % 2 ^ 52 + 2 ^ 52 * tag + 2 ^ 55 * gen.toNat + 2 ^ 63)

/-- The operations that have not ended, earliest first. -/
def CopyEngine.pending (e : CopyEngine) : List CopyEntry :=
  (e.entries.toList.filter (·.busy)).foldl (fun l x =>
    l.filter (fun y => decide (y.order < x.order)) ++ [x] ++ l.filter fun y => decide (x.order < y.order)) []

/-- The promise of the last operation that has not ended; 0 with none. -/
def CopyEngine.ahead (e : CopyEngine) : Nat := ((e.pending.getLast?).map fun (x : CopyEntry) => x.promise.toNat).getD 0

/-- The promise that the operation ahead of one holds; 0 with none. -/
def CopyEngine.aheadOf (e : CopyEngine) (x : CopyEntry) : Nat :=
  (((e.pending.filter fun y => decide (y.order < x.order)).getLast?).map fun (y : CopyEntry) => y.promise.toNat).getD 0

/-- A revised promise (R232): CYC and the time of the part still to do, but no less than the promise that the operation ahead holds, revised
or not: log entry 12 (DEDUCED). -/
def State.revised (s : State) (x : CopyEntry) : Word :=
  BitVec.ofNat 64 (Nat.max (s.cyc.toNat + s.copyTime x.mode x.desc x.unit x.within) (s.tile.copy.aheadOf x))

def State.setCopy (s : State) (n : Fin 8) (x : CopyEntry) : State :=
  s.modTile fun t => { t with copy := { t.copy with entries := vput t.copy.entries n x } }

/-! ### CPY at issue (R222) -/

/-- The first page that an endpoint addresses: translated, with XLAT at issue; a QUAY pointer must lie in a window (R360). -/
def State.firstPage (s : State) (p : Word) (write : Bool) : Chk State :=
  let sp := ptrSpace p
  if sp == 2 || sp == 4 then (translate p (sp == 4) write [(ptrOfs p, 1)] s).bind fun r => .ok r.2
  else if sp == 3 then (s.resolve p 1 write).bind fun r => .ok r.2
  else .ok s

/-- The checks of one endpoint pointer. -/
def State.endChk (s : State) (p : Word) (span : Option (Int × Int)) (first : Int) (write : Bool) : Chk State :=
  let sp := ptrSpace p
  if 5 ≤ sp then .trap .bnd p
  else if sp == 3 && !s.privileged then .trap .priv p
  else if sp == 1 && decide (s.teamSize ≤ ptrRank p) then .trap .bnd p
  else if sp == 4 && write && s.tile.modes.paired then .trap .priv s.core.pc
  else
    match span with
    | none => .ok s
    | some (lo, hi) =>
      let o : Int := Int.ofNat (ptrOfs p)
      if o + lo < 0 ∨ Int.ofNat (spaceLimit sp) < o + hi then .trap .bnd p
      else s.firstPage (withOfs p (o + first).toNat) write

/-- All endpoint checks of a descriptor. A gather's first index is read here, once a lease on it has come back. An IDXP that is not LOCAL or
not a multiple of 4 raises BND with IDXP: log entry 98 (DESIGN CHOICE). -/
def State.copyChk (s : State) (mode : Nat) (d : List Word) : Chk State :=
  let x := shapeOf mode d
  (if mode == 2 && x.count != 0 && ptrSpace (descWord d 4) == 0 then s.recallOwn (ptrOfs (descWord d 4)) 4 else .ok ()).bind fun _ =>
  let i0 := if mode == 2 then s.gatherIdx d 0 else 0
  let first : Int := if mode == 2 && decide (i0 < limitOf d) then ((x.len * i0 : Nat) : Int) else 0
  (s.endChk (descWord d 0) (srcSpan x d) first false).bind fun s =>
    (if mode == 3 then .ok s else s.endChk (descWord d 1) (dstSpan x) 0 true).bind fun s =>
      if mode == 2 then
        let p := descWord d 4
        if ptrSpace p == 3 && !s.privileged then .trap .priv p
        else if ptrSpace p != 0 || ptrOfs p % 4 != 0 then .trap .bnd p
        else s.endChk p (spanOf (4 * x.count) 0 1) 0 false
      else .ok s

/-- Whether E of a gather is out of range (R224), which raises BND with the descriptor's pointer: log entry 79 (DESIGN CHOICE). -/
def countBad (mode : Nat) (d : List Word) : Bool :=
  let x := shapeOf mode d
  mode == 2 && (x.len == 0 || decide (4096 < x.len))

/-- Whether a to-ring copy asks for more slots than its ring has, for one of a ring without slots, or for none (R222, R224); that n = 0 raises
BND with word 1 as well is log entry 79 (DESIGN CHOICE). -/
def State.ringShort (s : State) (mode : Nat) (d : List Word) : Bool :=
  mode == 3 && ((shapeOf mode d).len == 0 ||
    decide (1024 * (s.tile.rings[(Fin.ofNat 8 ((descWord d 1).toNat % 8))]).nslot.toNat < (shapeOf mode d).len))

/-- The lowest-numbered free entry. -/
def CopyEngine.freeEntry (e : CopyEngine) : Option (Fin 8) :=
  ([0, 1, 2, 3, 4, 5, 6, 7] : List (Fin 8)).find? fun i => !e.entries[i].busy

/-- R222 CPY in a mode, on the staging core. -/
def State.cpy (s : State) (mode : Nat) (d a : SReg) (x : Option Xsc) : Out :=
  if !s.core.ready [d, a] || s.core.acquiring then s.stall
  else
    let q := s.S a
    let n := if mode == 0 || mode == 3 then 32 else 64
    if ptrSpace q != 0 || ptrOfs q % 32 != 0 || decide (0x80000 < ptrOfs q + n) then s.trapB .bnd q
    else
    (s.recallOwn (ptrOfs q) n).run s fun _ =>
      let t := s.tile.ecc s.fresh (ptrOfs q) n
      let s := { s with tile := t, fresh := s.fresh + 1 }
      if (sectors (ptrOfs q) n).any t.poison.contains then s.trapB .due q
      else
        let desc := (upto (n / 8)).map fun k => t.slice.readWord (ptrOfs q + 8 * k)
        if !descOk mode desc || countBad mode desc then s.trapB .bnd q
        else
            (s.copyChk mode desc).run s fun s =>
              if s.ringShort mode desc then s.trapB .bnd (descWord desc 1)
              else if Xsc.isRel x && !s.releaseReady (Xsc.scopeOf x) then s.stall
              else
                match s.tile.copy.freeEntry with
                | none => s.stall
                | some i =>
                  let e := s.tile.copy
                  let old := e.entries[i]
                  let p : Word := BitVec.ofNat 64 (Nat.max (s.cyc.toNat + 2) e.ahead + s.copyTime mode desc 0 0)
                  let y : CopyEntry :=
                    { gen := if old.used then old.gen + 1 else old.gen, busy := true, used := true, mode := mode, desc := desc, core := s.sel,
                      promise := p, order := e.nextOrder }
                  let s := s.modTile fun t => { t with copy := { t.copy with entries := vput t.copy.entries i y, nextOrder := e.nextOrder + 1 } }
                  .next (s.setS d (promiseWord p i.val y.gen)).retire

/-- R222 CPY. -/
def execCpy (d a : SReg) (x : Option Xsc) (s : State) : Out := s.staging (s.cpy 0 d a x)
/-- R222 CPY.2d. -/
def execCpy2d (d a : SReg) (x : Option Xsc) (s : State) : Out := s.staging (s.cpy 1 d a x)
/-- R222 CPY.gth. -/
def execCpyGth (d a : SReg) (x : Option Xsc) (s : State) : Out := s.staging (s.cpy 2 d a x)
/-- R222 CPY.ring. -/
def execCpyRing (d a : SReg) (x : Option Xsc) (s : State) : Out := s.staging (s.cpy 3 d a x)

/-! ### WAITP (R231, R232) -/

/-- The status word of a promise whose entry was reused (STAT 4). -/
def expiredWord (tag gen : Nat) : Word := BitVec.ofNat 64 (4 + 16 * tag + 2 ^ 7 * gen + 2 ^ 63)

/-- The promise of an entry is revised, and MISSP names it. -/
def State.missPromise (s : State) (n : Fin 8) : Out :=
  let x := s.tile.copy.entries[n]
  let p := s.revised x
  (s.setCopy n { x with promise := p }).trapB .missp (promiseWord p n.val x.gen)

/-- R231 WAITP, on the staging core (R14). Log entry 12 (DEDUCED). -/
def execWaitp (d a : SReg) (s : State) : Out :=
  s.staging
    (if !s.core.ready [d, a] then s.stall
    else
      let w := s.S a
      if !w.getLsbD 63 || w.extractLsb' 60 3 != (0 : BitVec 3) then s.trapB .bnd w
      else
        let n : Fin 8 := Fin.ofNat 8 ((w.extractLsb' 52 3).toNat)
        let x := s.tile.copy.entries[n]
        if x.gen != w.extractLsb' 55 5 then .next (s.setS d (expiredWord n.val (w.extractLsb' 55 5).toNat)).retire
        else if x.ended then .next ((s.setS d x.status).copied (x.status.getLsbD 13)).retire
        else if decide (x.promise.toNat ≤ s.cyc.toNat) then s.missPromise n
        else s.stall)

/-- Whether the core in focus stands at a WAITP on an entry and issues bundles. -/
def State.waitsOn (s : State) (tag : Fin 8) : Bool :=
  s.core.active && !s.core.stopped && s.core.tr.fwd.isNone && s.core.tr.deferred.isNone && s.sel == .stage &&
    (match s.fetch.1 with
    | .run (.waitp d a) _ =>
      s.core.ready [d, a] && (s.S a).getLsbD 63 && (s.S a).extractLsb' 60 3 == (0 : BitVec 3) && ((s.S a).extractLsb' 52 3).toNat == tag.val &&
        (s.S a).extractLsb' 55 5 == s.tile.copy.entries[tag].gen
    | _ => false)

/-- R231 PROMISE_DEADLINE: CYC has reached the promise of entry `tag`, on which the WAITP at the pc sleeps. -/
def execPromiseDeadline (tag : Fin 8) (s : State) : Out :=
  let x := s.tile.copy.entries[tag]
  if x.busy && !x.ended && decide (x.promise.toNat ≤ s.cyc.toNat) && s.waitsOn tag then s.missPromise tag else .next s

/-! ### Execution (R225) -/

def allTags : List (Fin 8) := [0, 1, 2, 3, 4, 5, 6, 7]

/-- The operation that runs. -/
def CopyEngine.running (e : CopyEngine) : Option (Fin 8) := allTags.find? fun i => e.entries[i].busy && e.entries[i].started

/-- The earliest operation that has not ended. -/
def CopyEngine.first (e : CopyEngine) : Option (Fin 8) :=
  match e.pending with
  | [] => none
  | x :: _ => allTags.find? fun i => e.entries[i].busy && e.entries[i].order == x.order

/-- R225 COPY_OPERATION_START: no operation runs and no word is held; a stop holds the engine between chunks (15 R375). -/
def execCopyOperationStart (s : State) : Out :=
  let e := s.tile.copy
  if e.hold.isSome || e.running.isSome || s.core.stopped then .next s
  else
    match e.first with
    | none => .next s
    | some i => .next (s.setCopy i { e.entries[i] with started := true })

def ringOf (x : CopyEntry) : Ring := Fin.ofNat 8 ((descWord x.desc 1).toNat % 8)

/-- R225 COPY_RING_ROOM: a to-ring operation finds its slots free, and samples TAIL. -/
def execCopyRingRoom (s : State) : Out :=
  match s.tile.copy.running with
  | none => .next s
  | some i =>
    let x := s.tile.copy.entries[i]
    let r := s.tile.ring (ringOf x)
    if x.mode == 3 && !x.room && decide ((shapeOf 3 x.desc).len ≤ 1024 * r.free) then
      .next (s.setCopy i { x with room := true, tail := r.tail.toNat })
    else .next s

/-- The parts of an engine access, by the context's tables; none where a page is missing or lacks the permission, or where a QUAY
window does. Log entry 23 (DEDUCED). -/
def State.engineParts (s : State) (p : Word) (n : Nat) (write : Bool) : Option (List Part1) :=
  match ptrSpace p with
  | 0 => some [{ pos := 0, place := .here (ptrOfs p), len := n }]
  | 1 =>
    if ptrRank p == s.tile.rank then some [{ pos := 0, place := .here (ptrOfs p), len := n }]
    else (s.tile.placement[ptrRank p]?).map fun q => [{ pos := 0, place := .at (.tile q.x q.y) (ptrOfs p), len := n }]
  | 3 =>
    if quayWindows.any fun w => decide (w.1 ≤ ptrOfs p) && decide (ptrOfs p + n ≤ w.1 + w.2.1) && (!write || w.2.2) then
      some [{ pos := 0, place := .quay (ptrOfs p), len := n }]
    else none
  | sp =>
    (chunks (ptrOfs p) n).foldl (fun (acc : Option (List Part1)) c =>
      acc.bind fun ps =>
        match s.myCtx.page (sp == 4) c.1 with
        | some g =>
          if (if write then g.w else g.r) then some (ps ++ [{ pos := c.1 - ptrOfs p, place := .at g.endpoint c.1, len := c.2 }]) else none
        | none => none) (some [])

/-- The status word of an operation (R227). -/
def statusWord (stat tag : Nat) (gen : BitVec 5) (kind : Nat) (poi : Bool) (done : Nat) : Word :=
  BitVec.ofNat 64 (stat + 16 * tag + 2 ^ 7 * gen.toNat + 2 ^ 12 * kind + (if poi then 2 ^ 13 else 0) + 2 ^ 14 * (done % 2 ^ 40) + 2 ^ 63)

/-- Applies f to a core of the tile in focus. -/
def State.modOwn (s : State) (k : CoreSel) (f : Core → Core) : State :=
  if k == s.sel then { s with core := f s.core } else { s with peer := f s.peer }

def State.ownCore (s : State) (k : CoreSel) : Core := if k == s.sel then s.core else s.peer

/-- Room of the completion queue or of q1. -/
def Core.hasRoom (c : Core) (q1 : Bool) : Bool := if q1 then decide (c.q.q1.length < 8) else decide (c.q.cq.length < 8)

def Core.place (c : Core) (q1 : Bool) (w : Word) : Core :=
  if q1 then { c with q := { c.q with q1 := c.q.q1 ++ [w] } } else { c with q := { c.q with cq := c.q.cq ++ [w] } }

/-- Places a completion word, or the engine holds it (R227). -/
def State.placeWord (s : State) (k : CoreSel) (q1 : Bool) (w : Word) : State :=
  if (s.ownCore k).hasRoom q1 then s.modOwn k fun c => c.place q1 w
  else s.modTile fun t => { t with copy := { t.copy with hold := some (k, q1, w) } }

/-- An operation ends with a status. -/
def State.endCopy (s : State) (i : Fin 8) (stat : Nat) : State :=
  let x := s.tile.copy.entries[i]
  let w := statusWord stat i.val x.gen 0 x.poi x.done
  let s := s.setCopy i { x with busy := false, started := false, ended := true, status := w }
  let nocq := (descWord x.desc 3).getLsbD 0
  if !nocq then s.placeWord x.core false w else if stat == 0 then s else s.placeWord x.core true w

/-- The source and the destination of the next chunk, and its bytes. A gather whose index is out of bounds has none (status IDX). -/
def State.nextChunk (s : State) (x : CopyEntry) : Option (Word × Option Word × Nat) :=
  let sh := shapeOf x.mode x.desc
  let n := Nat.min 4096 (sh.len - x.within)
  let move (p : Word) (k : Int) : Word := withOfs p (Int.ofNat (ptrOfs p) + k).toNat
  let at1 (step : Int) : Int := (x.unit : Int) * step + (x.within : Int)
  match x.mode with
  | 2 =>
    let idx := s.gatherIdx x.desc x.unit
    if idx < limitOf x.desc then
      some (move (descWord x.desc 0) ((sh.len * idx + x.within : Nat) : Int), some (move (descWord x.desc 1) (at1 sh.dstep)), n)
    else none
  | 3 => some (move (descWord x.desc 0) (x.within : Int), none, n)
  | _ => some (move (descWord x.desc 0) (at1 sh.sstep), some (move (descWord x.desc 1) (at1 sh.dstep)), n)

/-- The parts of a to-ring chunk: the slots sampled, from byte `within` on. -/
def State.ringParts (s : State) (x : CopyEntry) (n : Nat) : List Part1 :=
  let r := s.tile.ring (ringOf x)
  (upto (ceilDiv n 1024)).map fun k =>
    { pos := 1024 * k, place := .here (r.slotAt ((x.tail + x.within / 1024 + k) % r.nslot.toNat)), len := Nat.min 1024 (n - 1024 * k) }

/-- The entry after n bytes of its current row were written. -/
def CopyEntry.moved (x : CopyEntry) (n : Nat) (poi : Bool) : CopyEntry :=
  let sh := shapeOf x.mode x.desc
  let x := { x with done := x.done + n, poi := x.poi || poi }
  if x.within + n < sh.len then { x with within := x.within + n } else { x with within := 0, unit := x.unit + 1 }

/-- Whether every byte is written. -/
def CopyEntry.finished (x : CopyEntry) : Bool := (shapeOf x.mode x.desc).empty || decide ((shapeOf x.mode x.desc).count ≤ x.unit)

/-- A part of an access that a region firewall refuses (R188), with the packet that was turned away. -/
def State.refused (s : State) (write : Bool) (ps : List Part1) : Option Packet :=
  ps.findSome? fun p =>
    match p.place with
    | .at e o =>
      let q := s.packet e 1 .stage 0 false 8 0 (if write then .write o (List.replicate p.len none) else .read p.pos o p.len)
      if regionOfEnd e != s.myRegion && !s.firewall q then some q else none
    | _ => none

/-- The lease on the index that a gather reads next. -/
def State.indexLeased (s : State) (x : CopyEntry) : Option LeaseDir :=
  if x.mode == 2 then s.tile.leasedOut (ptrOfs (descWord x.desc 4) + 4 * x.unit) 4 else none

/-- R225 COPY_CHUNK_TRANSFER: a chunk is read whole and then written; it waits for held slots, for leases, for what the core's RPSHs
still write into the own slice (R226), and, where it leaves the tile, for the hawser (07 R181). A part that a firewall refuses kills the
context (07 R188). Log entry 23 (DEDUCED). -/
def execCopyChunkTransfer (s : State) : Out :=
  match s.tile.copy.running with
  | none => .next s
  | some i =>
    let x := s.tile.copy.entries[i]
    if x.finished || (x.mode == 3 && !x.room) || s.core.stopped || (s.ownCore x.core).slotStores then .next s
    else
    match s.indexLeased x with
    | some l => .next (s.recall l)
    | none =>
      let t := if x.mode == 2 then s.tile.ecc s.fresh (ptrOfs (descWord x.desc 4) + 4 * x.unit) 4 else s.tile
      let s := { s with tile := t, fresh := s.fresh + 1 }
      match s.nextChunk x with
      | none => .next (s.endCopy i 2)
      | some (sp, dp, n) =>
        let ps := s.engineParts sp n false
        let qs := match dp with | some p => s.engineParts p n true | none => some (s.ringParts x n)
        match ps, qs with
        | some ps, some qs =>
          if s.hawser && (ps ++ qs).any Part1.isFar then .next s
          else
          match (s.refused false ps).orElse fun _ => s.refused true qs with
          | some q => .next (((s.countReject q).endCopy i 3).killContext true s.tile.ctx 4 .none 0 0)
          | none =>
          match s.partsLeased (ps ++ qs) with
          | some (id, l) => .next (s.recallAt id l)
          | none =>
            if s.partsHeld (List.replicate n (some (0, false))) qs then .next s
            else
              let r := s.readParts ps
              let bs := gather n r.1
              let out := bs.map fun b => some (b.1, b.2 || (x.mode == 3 && x.taint))
              let s := (r.2.writeParts out qs).chargeParts (ps ++ qs)
              .next (s.setCopy i (x.moved n (bs.any (·.2))))
        | _, _ => .next (s.endCopy i 1)

/-- R225, R227 COPY_OPERATION_END: every byte is written; a to-ring operation advances TAIL, for which it waits for room (02 R59). -/
def execCopyOperationEnd (s : State) : Out :=
  match s.tile.copy.running with
  | none => .next s
  | some i =>
    let x := s.tile.copy.entries[i]
    if !x.finished || (x.mode == 3 && decide ((s.tile.ring (ringOf x)).free < (shapeOf 3 x.desc).len / 1024)) then .next s
    else
      let s := if x.mode == 3 then s.atCore s.tile.id x.core fun s => s.tailAdvance (ringOf x) ((shapeOf 3 x.desc).len / 1024) else s
      .next (s.endCopy i 0)

/-- R227 COMPLETION_PLACE_DEFERRED: the word that the copy engine holds, then the collectives', where the queue has room. -/
def execCompletionPlaceDeferred (s : State) : Out :=
  match s.tile.copy.hold with
  | some (k, q1, w) =>
    if (s.ownCore k).hasRoom q1 then
      .next ((s.modTile fun t => { t with copy := { t.copy with hold := none } }).modOwn k fun c => c.place q1 w)
    else .next s
  | none =>
    match s.tile.collDone.find? fun x => (s.ownCore x.1).hasRoom false with
    | some (k, w) => .next ((s.modTile fun t => { t with collDone := t.collDone.erase (k, w) }).modOwn k fun c => c.place false w)
    | none => .next s

end Sys2Proof.Machine
end

