-- ==== Sys2Proof/Machine/Storage.lean ====
section
/-! DEFINITION. Storage commands (09_async R234-R237). -/

namespace Sys2Proof.Machine

/-! ### At issue (R234, R235) -/

/-- A block of n bytes in the slice at a pointer that must be LOCAL and a multiple of n, once a lease on it has come back (08 R198); a
poisoned sector raises DUE. Log entry 19 (DEDUCED). -/
def State.blockAt (s : State) (p tva : Word) (n align : Nat) : Chk (List Nat) :=
  if ptrSpace p != 0 || ptrOfs p % align != 0 || decide (0x80000 < ptrOfs p + n) then .trap .bnd tva
  else (s.recallOwn (ptrOfs p) n).bind fun _ =>
    if (sectors (ptrOfs p) n).any s.tile.poison.contains then .trap .due tva
    else .ok ((s.tile.slice.readMany (ptrOfs p) n).map BitVec.toNat)

/-- Which storage command: 0 KVGET, 1 KVSET, 2 KVDEL, 3 KVLST. -/
def kvBlockOk (op namespaces : Nat) (b : List Nat) : Bool :=
  let at' (k : Nat) : Nat := (b[k]?).getD 0
  let zero (lo n : Nat) : Bool := (upto n).all fun k => at' (lo + k) == 0
  decide (at' 16 ≤ 16) && (op == 3 || at' 16 != 0) && decide (at' 17 < 16) && decide (at' 17 < namespaces) &&
    (if op == 1 then decide (at' 18 < 3) else at' 18 == 0) && zero 19 5 && zero 26 6 &&
    (if op == 3 then at' 24 + at' 25 != 0 else zero 24 2)

/-- The checks of the buffer's capability: permission, and a KVSET of more than 2 MiB (R235). -/
def State.bufChk (s : State) (a : SReg) (ok : Word → Bool) (len : Nat → Bool) : Chk Unit :=
  let e := s.S a
  let o := s.S (pairOf a)
  let q := edgePtr (capBase e)
  if !isSealed s.tile.ctx e o || !capPS e || !ok e || !len (capLen o) then .trap .capv q
  else if s.slotPoisoned (capSlot o) then .trap .due q
  else if s.slotRevoked (capSlot o) then .trap .revk q
  else .ok ()

/-- The edge network engine of the tile in focus: the one assigned at launch (R234), or a gateway's own. -/
def State.myEngine (s : State) : Nat :=
  match s.tile.id with
  | .gateway n => n / 16
  | .grid _ _ => s.tile.engine

/-- The command that a request block asks for. A KVSET sends exactly LEN bytes of its buffer (R235), under the storage key of the partition
(16 R402); that it reads them as it issues is log entry 22 (DEDUCED). -/
def State.kvCommand (s : State) (op base len maxKeys : Nat) (b : List Nat) : KvOp :=
  let at' (k : Nat) : Nat := (b[k]?).getD 0
  let value := if op == 1 then s.farRead s.tile.ctx s.tile.ttag false base len else []
  { hnd := s.tile.hnd, core := s.sel, tag := s.core.kvTag, ctx := s.tile.ctx, ttag := s.tile.ttag, launch := s.launchOf s.tile.ctx s.tile.ttag,
    engine := s.myEngine, key := (b.take (at' 16)).map (BitVec.ofNat 8), nsi := at' 17, opts := at' 18,
    sent := if op == 1 then Config.storageSeal s.tile.part (value.map (·.1)) else [], poi := value.any (·.2), op := op, base := base, len := len,
    maxKeys := maxKeys, sh := s.shadowOf s.tile.ctx s.tile.ttag }

/-- A command after its checks: it waits as a release at wafer scope, for room in q2 and for the hawser, and takes the next tag. Log entry 22
(DEDUCED). -/
def State.kvIssue (s : State) (op : Nat) (d : SReg) (base len maxKeys : Nat) (blk : List Nat) : Out :=
  if s.core.acquiring || !s.releaseReady .wafer || decide (8 ≤ s.core.kvOut) || s.hawser then s.stall
  else
    let c := s.core
    let k := s.kvCommand op base len maxKeys blk
    let s := { s with core := { c with kvTag := c.kvTag + 1, kvOut := c.kvOut + 1 }, storage := s.storage ++ [k] }
    .next ((s.setS d (c.kvTag.zeroExtend 64)).modCtx fun x => { x with storageOps := x.storageOps + 1 }).retire

/-- A storage command with a buffer. -/
def State.kv (s : State) (op : Nat) (d a b : SReg) (ok : Word → Bool) (len : Nat → Bool) : Out :=
  if !s.core.ready [d, a, pairOf a, b] then s.stall
  else
    (s.blockAt (s.S b) (s.S b) 32 32).run s fun blk =>
      if !kvBlockOk op (s.partOf s.tile.part).namespaces blk then s.trapB .bnd (s.S b)
      else
        (s.bufChk a ok len).run s fun _ =>
          (s.noteClear (capSlot (s.S (pairOf a)))).kvIssue op d (capBase (s.S a)) (capLen (s.S (pairOf a)))
            ((blk[24]?).getD 0 + 256 * (blk[25]?).getD 0) blk

/-- KVSET, KVDEL and COLL cannot be shadowed (14 R354). -/
def State.unpaired (s : State) (k : Out) : Out := if s.tile.modes.paired then s.trapB .priv s.core.pc else k

/-- R234, R235 KVGET. -/
def execKvget (d a b : SReg) (s : State) : Out := s.staging (s.kv 0 d a b capPW fun _ => true)
/-- R234, R235 KVSET. -/
def execKvset (d a b : SReg) (s : State) : Out := s.staging (s.unpaired (s.kv 1 d a b capPR fun n => decide (n ≤ 2097152)))
/-- R234, R235 KVLST. -/
def execKvlst (d a b : SReg) (s : State) : Out := s.staging (s.kv 3 d a b capPW fun _ => true)

/-- R234, R235 KVDEL: no buffer. -/
def execKvdel (d b : SReg) (s : State) : Out :=
  s.staging
    (s.unpaired
      (if !s.core.ready [d, b] then s.stall
      else
        (s.blockAt (s.S b) (s.S b) 32 32).run s fun blk =>
          if !kvBlockOk 2 (s.partOf s.tile.part).namespaces blk then s.trapB .bnd (s.S b) else s.kvIssue 2 d 0 0 0 blk))

/-! ### Completion (R236, R237) -/

/-- Whether the pages of a range belong to the context, with a permission. -/
def Ctx.pagesOk (x : Ctx) (o n : Nat) (write : Bool) : Bool :=
  n == 0 || (chunks o n).all fun c => match x.page false c.1 with
    | some g => if write then g.w else g.r
    | none => false

/-- The q2 entry. -/
def kvWord (tag : BitVec 16) (stat sct sc : Nat) (poi : Bool) (count : Nat) : Word :=
  BitVec.ofNat 64 (tag.toNat + 2 ^ 16 * stat + 2 ^ 20 * sct + 2 ^ 23 * sc + (if poi then 2 ^ 31 else 0) + 2 ^ 32 * (count % 2 ^ 32))

/-- A list entry (R235): KLEN, three zeros, the key padded with zeros. -/
def kvEntry (key : List Byte) : List Byte :=
  BitVec.ofNat 8 key.length :: List.replicate 3 0 ++ (key ++ List.replicate 16 0).take 16

/-- The bytes that a command writes into its buffer: a value's first LEN bytes, or whole list entries. -/
def KvOp.bytes (k : KvOp) (a : KvAnswer) : List Byte :=
  match k.op with
  | 0 => a.value.take k.len
  | 3 => (a.keys.take (Nat.min k.maxKeys (k.len / 20))).flatMap kvEntry
  | _ => []

/-- What a command comes to: its word, and the bytes written. Log entry 22 (DEDUCED). -/
def State.kvResult (s : State) (k : KvOp) (a : KvAnswer) : Word × List Byte :=
  let x := s.ctx k.ctx
  let w := k.op == 0 || k.op == 3
  if (w || k.op == 1) && !x.pagesOk k.base k.len w then (kvWord k.tag 7 0 0 false 0, [])
  else
    let bs := if a.stat == 0 || a.stat == 3 then k.bytes a else []
    let trunc := k.op == 0 && a.stat == 0 && decide (k.len < a.count.toNat)
    let poi := if k.op == 1 then k.poi else a.poi
    let count := if k.op == 0 then a.count.toNat else if k.op == 3 then bs.length / 20 else 0
    (kvWord k.tag (if trunc then 3 else a.stat.toNat) a.sct.toNat a.sc.toNat poi count, bs)

/-- A command performs its writes in edge memory, or in the shadow pages of the copy that issued it, even where its team has ended; those of
a copy that was discarded are lost with it (14 R354). -/
def State.kvPerform (s : State) (k : KvOp) (bs : List Byte) : State :=
  let touched := if k.op == 1 then k.len else bs.length
  (if k.void then s else s.putCtx k.ctx ((s.ctx k.ctx).farStore k.sh false k.base (plain bs))).chargeTile k.ctx k.ttag k.hnd 1 (32 * (sectors k.base touched).length)

/-- Applies f to a tile of a team, by context, tag, launch and handle: resident, or in the dock; where the team is gone, to none
(R237, R245). -/
def State.onTeamTile (s : State) (ctx tag launch : Nat) (h : W32) (f : FullTile → FullTile) : State :=
  if s.launchOf ctx tag != launch then s
  else if s.allTiles.any fun t => t.tile.owned && t.tile.ctx == ctx && t.tile.ttag == tag && t.tile.hnd == h then
    s.mapTiles (fun t => t.owned && t.ctx == ctx && t.ttag == tag && t.hnd == h) f
  else
    { s with teams := s.teams.map fun t => if t.ctx == ctx && t.tag == tag then
        { t with dockTiles := t.dockTiles.map fun u => if u.tile.hnd == h then f u else u } else t }

/-- A command ends: its writes in edge memory, and its entry in q2 of the core that issued it, also in a dock (R237). -/
def State.kvEnd (s : State) (k : KvOp) (ans : KvAnswer) : State :=
  let r := s.kvResult k ans
  ({ s with storage := s.storage.erase k }.kvPerform k r.2).onTeamTile k.ctx k.ttag k.launch k.hnd fun u =>
    let c := u.core k.core
    u.setCore k.core { c with q := { c.q with q2 := c.q.q2 ++ [r.1] } }

/-- Whether a command is of the core in focus, and whether the tile that issued it is resident. -/
def State.kvMine (s : State) (k : KvOp) : Bool :=
  s.tile.owned && k.hnd == s.tile.hnd && k.core == s.sel && k.ctx == s.tile.ctx && k.ttag == s.tile.ttag
def State.kvHome (s : State) (k : KvOp) : Bool :=
  s.allTiles.any fun t => t.tile.owned && t.tile.ctx == k.ctx && t.tile.ttag == k.ttag && t.tile.hnd == k.hnd

/-- R236, R237 STORAGE_COMMAND_COMPLETE: a command of the core in focus, or else one whose team is docked or has ended. -/
def execStorageCommandComplete (tag : BitVec 16) (ans : KvAnswer) (s : State) : Out :=
  match (s.storage.find? fun k => k.tag == tag && s.kvMine k).orElse fun _ => s.storage.find? fun k => k.tag == tag && !s.kvHome k with
  | some k => .next (s.kvEnd k ans)
  | none => .next s

end Sys2Proof.Machine
end

