-- ==== Sys2Proof/Machine/Collective.lean ====
section
/-! DEFINITION. Collectives and the gateways' block indices (09_async R238-R246, R286, R287, 16_platform R401, 11_narrow R275). -/

namespace Sys2Proof.Machine

/-! ### COLL at issue (R238, R240) -/

/-- A COLL descriptor. -/
structure CollDesc where
  se : Word
  so : Word
  de : Word
  do' : Word
  report : Word
  n : Nat
  blklog : Nat
  type : Nat
  group : Nat
  root : Nat
  rest : Nat
  timeout : Nat
  deriving DecidableEq, Repr, Inhabited

def natAt (b : List Nat) (o n : Nat) : Nat := (upto n).foldl (fun v k => v + 256 ^ k * (b[o + k]?).getD 0) 0

def collDesc (b : List Nat) : CollDesc :=
  { se := BitVec.ofNat 64 (natAt b 0 8), so := BitVec.ofNat 64 (natAt b 8 8), de := BitVec.ofNat 64 (natAt b 16 8)
    do' := BitVec.ofNat 64 (natAt b 24 8), report := BitVec.ofNat 64 (natAt b 32 8), n := natAt b 40 8, blklog := natAt b 48 1
    type := natAt b 49 1, group := natAt b 50 2, root := natAt b 52 1, rest := natAt b 53 1 + natAt b 56 8, timeout := natAt b 54 2 }

/-- Bytes of n elements of a type in a buffer: t8 with its scale array (11 R275). -/
def typeBytes (type n : Nat) : Nat := match type with | 0 => 4 * n | 1 => 2 * n | 2 => 4 * n | _ => n + n / 32

/-- Kinds: 0 RED, 1 BCST, 2 AGTH. The fields in their ranges. -/
def CollDesc.ok (c : CollDesc) (kind m : Nat) : Bool :=
  ptrSpace c.report == 0 && ptrOfs c.report % 32 == 0 && decide (ptrOfs c.report + 256 ≤ 0x80000) && decide (12 ≤ c.blklog) &&
    decide (c.blklog ≤ 20) && decide (if kind == 0 then c.type < 4 else c.type = 0) && decide (if kind == 1 then c.root < m else c.root = 0) &&
    c.rest == 0 && !(kind == 0 && c.type == 3 && c.n % 64 != 0)

/-- Bytes that the source and the destination need. -/
def CollDesc.srcBytes (c : CollDesc) (kind : Nat) : Nat := if kind == 0 then typeBytes c.type c.n else c.n
def CollDesc.dstBytes (c : CollDesc) (kind m : Nat) : Nat := if kind == 2 then m * c.n else c.srcBytes kind

/-- The checks of one capability, but for revocation. -/
def State.collCap (s : State) (e o : Word) (perm : Bool) (need : Nat) : Chk Unit :=
  if !isSealed s.tile.ctx e o || !capPS e || !perm || decide (capLen o < need) then .trap .capv (edgePtr (capBase e)) else .ok ()

/-- The checks of R240 in the order of its table. -/
def State.collChk (s : State) (p : Word) (c : CollDesc) (kind : Nat) (g : Option Group) : Chk Unit :=
  match g with
  | none => .trap .bnd p
  | some g =>
    let m := g.members.length
    if !c.ok kind m then .trap .bnd p
    else
      let useSrc := !(kind == 1 && g.own != c.root)
      let nsrc := c.srcBytes kind
      let ndst := c.dstBytes kind m
      (if useSrc then s.collCap c.se c.so (capPR c.se) nsrc else .ok ()).bind fun _ =>
        (s.collCap c.de c.do' (capPW c.de) ndst).bind fun _ =>
          if useSrc && decide (capBase c.se < capBase c.de + ndst) && decide (capBase c.de < capBase c.se + nsrc) then .trap .bnd p
          else if useSrc && s.slotPoisoned (capSlot c.so) then .trap .due (edgePtr (capBase c.se))
          else if useSrc && s.slotRevoked (capSlot c.so) then .trap .revk (edgePtr (capBase c.se))
          else if s.slotPoisoned (capSlot c.do') then .trap .due (edgePtr (capBase c.de))
          else if s.slotRevoked (capSlot c.do') then .trap .revk (edgePtr (capBase c.de))
          else .ok ()

/-- Blocks of the destination. -/
def CollOp.total (o : CollOp) : Nat := if o.kind == 2 then o.m * o.n else if o.kind == 0 && o.type != 3 then typeBytes o.type o.n else o.n
def CollOp.blocks (o : CollOp) : Nat := ceilDiv o.total (2 ^ o.blklog)

/-- First element byte and length of a block. -/
def CollOp.block (o : CollOp) (b : Nat) : Nat × Nat := (b * 2 ^ o.blklog, Nat.min (2 ^ o.blklog) (o.total - b * 2 ^ o.blklog))

/-- Whether t8 scale bytes follow the element bytes of a block. -/
def CollOp.scaled (o : CollOp) : Bool := o.kind == 0 && o.type == 3

/-- Bytes of a block with its scale bytes. -/
def CollOp.blockBytes (o : CollOp) (b : Nat) : Nat := (o.block b).2 + if o.scaled then (o.block b).2 / 32 else 0

/-- The members whose data a block needs (R242). -/
def CollOp.needs (o : CollOp) (b : Nat) : List Nat :=
  match o.kind with
  | 0 => upto o.m
  | 1 => [o.root]
  | _ => (upto o.m).filter fun r => decide (r * o.n < (o.block b).1 + (o.block b).2) && decide ((o.block b).1 < (r + 1) * o.n)

def CollOp.full (o : CollOp) (b : Nat) : Bool := (o.needs b).all fun r => (Tab.get o.bitmap [] b).contains r

/-- Reads a block (elements, then scales) of a buffer at base with n element bytes. -/
def State.readBlock (s : State) (o : CollOp) (base lo len : Nat) : List PByte :=
  let x := s.ctx o.ctx
  let sh := s.shadowOf o.ctx o.ttag
  x.farBytes sh false (base + lo) len ++ if o.scaled then x.farBytes sh false (base + o.n + lo / 32) (len / 32) else []

/-- The own contribution to every block that needs it. Log entry 18 (DESIGN CHOICE). -/
def State.ownPart (s : State) (o : CollOp) (b : Nat) : CollOp :=
  if (o.needs b).contains o.own then
    let blk := o.block b
    let bytes :=
      if o.kind == 2 then
        (upto blk.2).map fun j =>
          let d := blk.1 + j
          if d / o.n == o.own then (s.ctx o.ctx).farByte (s.shadowOf o.ctx o.ttag) false (o.srcBase + d % o.n) else (0, false)
      else s.readBlock o o.srcBase blk.1 blk.2
    { o with bitmap := Tab.put o.bitmap b (addTo (Tab.get o.bitmap [] b) o.own), data := Tab.put o.data (64 * b + o.own) bytes }
  else o

def State.putOp (s : State) (o : CollOp) : State :=
  { s with collOps := s.collOps.map fun p => if p.slot == o.slot then o else p }

/-! ### Completion (R243, R245) -/

/-- Runs of missing blocks as (first, count), in increasing order. -/
def runsOf : List Nat → List (Nat × Nat)
  | [] => []
  | b :: r =>
    match runsOf r with
    | (f, n) :: rest => if b + 1 == f then (b, n + 1) :: rest else (b, 1) :: (f, n) :: rest
    | [] => [(b, 1)]

/-- The words of the report area (R243): at most 31 ranges, the last running to the last missing block. -/
def reportWords (missing : List Nat) : List Word :=
  let rs := runsOf missing
  let rs :=
    if rs.length ≤ 31 then rs
    else
      match rs.drop 30, rs.reverse with
      | (f, _) :: _, (g, n) :: _ => rs.take 30 ++ [(f, g + n - f)]
      | _, _ => rs.take 31
  BitVec.ofNat 64 rs.length :: rs.map fun r => BitVec.ofNat 64 (r.1 + 2 ^ 32 * r.2)

/-- The tile after an operation of it ended: its slot is free, and the word waits for its queue. -/
def FullTile.collEnd (u : FullTile) (o : CollOp) (w : Word) (rep : List Word) : FullTile :=
  let t := u.tile
  let t := if rep.isEmpty then t else t.store 0 o.report (plain ((rep.map fun x => leBytes 8 x.toNat).flatten))
  let t := { t with coll := (if h : o.tslot < 4 then vput t.coll ⟨o.tslot, h⟩ { t.coll[o.tslot] with busy := false } else t.coll) }
  if (u.core o.core).hasRoom false && t.collDone.isEmpty then { u with tile := t }.setCore o.core ((u.core o.core).place false w)
  else { u with tile := { t with collDone := t.collDone ++ [(o.core, w)] } }

/-- An operation leaves its engine slot; its completion goes to its core, and is discarded where the team is gone. An index that a gateway
still has is given up (R287). -/
def State.collFinish (s : State) (o : CollOp) (stat : Nat) : State :=
  let done := if stat == 6 then 0 else o.written.length
  let w := statusWord stat o.tslot o.gen 1 o.poi done
  let rep := if stat == 5 then reportWords ((upto o.blocks).filter fun b => !o.written.contains b) else []
  let late := o.pushed.map fun b => (o.pushedTo, o.slot, b)
  { s with collOps := s.collOps.filter fun p => p.slot != o.slot, lateIdx := s.lateIdx ++ late }.onTeamTile o.ctx o.ttag o.launch o.hnd fun u => u.collEnd o w rep

/-! ### Blocks (R241, R242, R244, R286) -/

/-- Writes a block to the destination as a whole. -/
def State.writeBlock (s : State) (o : CollOp) (b : Nat) (bs : List PByte) : State :=
  let blk := o.block b
  let el := (bs.take blk.2).map some
  let s := s.farWrite o.ctx o.ttag false (o.dstBase + blk.1) el
  let s := if o.scaled then s.farWrite o.ctx o.ttag false (o.dstBase + o.n + blk.1 / 32) ((bs.drop blk.2).map some) else s
  let scales := if o.scaled then (sectors (o.dstBase + o.n + blk.1 / 32) (blk.2 / 32)).length else 0
  let s := s.chargeTile o.ctx o.ttag o.hnd 1 (32 * ((sectors (o.dstBase + blk.1) blk.2).length + scales))
  s.putOp { o with written := o.written ++ [b], poi := o.poi || bs.any (·.2) }

/-- The context number under which an engine keeps the windows of its gateways. Log entry 16 (DESIGN CHOICE). -/
def gateCtx (e : Nat) : Nat := 4096 + e

/-- The handle that the engines use for gateway tile n. Log entry 16 (DESIGN CHOICE). -/
def gateHnd (n : Nat) : W32 := BitVec.ofNat 32 (0xFFFFFF00 + n)

/-- NET offset of the window of an operation slot (16 R401). -/
def windowAt (n : Nat) : Nat := n * 2 ^ 28

/-- The index word of R244. -/
def indexWord (o : CollOp) (b : Nat) : Word :=
  BitVec.ofNat 64 (b % 2 ^ 20 + 2 ^ 20 * (o.slot % 1024) + 2 ^ 30 * o.part + 2 ^ 36 * o.type + 2 ^ 38 * (o.m - 1) + 2 ^ 63)

/-- The gateway of an engine that takes the next index: round robin, passing over a full q3. -/
def State.nextGate (s : State) (e : Nat) : Option Nat :=
  let k := Tab.get s.gateNext 0 e
  ((upto 16).map fun j => (k + j) % 16).find? fun g => decide ((s.tileAt (.gateway (16 * e + g))).stage.q.q3in.length < 16)

/-- The pages of a window while a block of n bytes is in progress (16 R401): those of 64 KiB that its contributions and its result touch. Log
entry 16 (DESIGN CHOICE). -/
def gatePages (e w m n : Nat) : List Page :=
  (2 ^ 27 :: (upto m).map fun r => 2 ^ 21 * r).flatMap fun o => (upto (ceilDiv n 65536)).map fun k =>
    { base := w + o + 65536 * k, log := 16, net := true, target := e, r := true, w := true }

/-- Hands a block whose bitmap is full to a gateway: its contributions stand in the slot's window until the return. -/
def State.pushBlock (s : State) (o : CollOp) (b : Nat) : State :=
  let e := o.slot / 1024
  match s.nextGate e with
  | none => s
  | some g =>
    let w := windowAt (o.slot % 1024)
    let x := s.ctx (gateCtx e)
    let x := { x with pages := x.pages ++ gatePages e w o.m (o.blockBytes b) }
    let x := (upto o.m).foldl (fun (x : Ctx) r => x.farStore none true (w + 2 ^ 21 * r) ((Tab.get o.data [] (64 * b + r)).map some)) x
    let s := (s.putCtx (gateCtx e) x).putOp { o with pushed := o.pushed ++ [b], pushedTo := 16 * e + g }
    let u := s.tileAt (.gateway (16 * e + g))
    let u := { u with
      tile := { u.tile with ctx := gateCtx e, hnd := gateHnd (16 * e + g) }
      stage := { u.stage with q := { u.stage.q with q3in := u.stage.q.q3in ++ [indexWord o b] } } }
    { (s.putTile u) with gateNext := Tab.put s.gateNext e ((g + 1) % 16) }

/-- The window of an operation's slot goes back. -/
def State.closeWindow (s : State) (o : CollOp) : State :=
  let e := o.slot / 1024
  let w := windowAt (o.slot % 1024)
  let x := s.ctx (gateCtx e)
  let x := { x with
    pages := x.pages.filter fun p => p.base / 2 ^ 28 != w / 2 ^ 28
    net := Memory.copyRange [] w (2 ^ 28) x.net, netPoison := badRange [] w (2 ^ 28) x.netPoison }
  (s.putCtx (gateCtx e) x).shootDown (gateCtx e) fun p => p.base / 2 ^ 28 == w / 2 ^ 28

/-- Whether the parameters of every other member have come and agree. No block is written before that, since after a disagreement the
destination is unchanged (R243): log entry 17 (DESIGN CHOICE). -/
def CollOp.allKnown (o : CollOp) : Bool := (upto o.m).all fun r => r == o.own || o.known.contains r

/-- The first block that can go on: its bitmap is full, and nobody has it. -/
def CollOp.ready (o : CollOp) : Option Nat :=
  if !o.allKnown then none else (upto o.blocks).find? fun b => o.full b && !o.written.contains b && !o.missing.contains b && !o.pushed.contains b

/-- Moves an operation on: blocks without a reduction are written, one block at a time goes to a gateway, and the operation ends when
every block is written or missing. Log entry 17 (DESIGN CHOICE). -/
def collStep : Nat → Nat → State → State
  | 0, _, s => s
  | n + 1, slot, s =>
    match s.collOps.find? fun o => o.slot == slot with
    | none => s
    | some o =>
      match o.ready with
      | some b =>
        if o.kind == 0 then (if o.pushed.isEmpty then s.pushBlock o b else s)
        else
          let merged := (upto (o.block b).2).map fun j =>
            let r := if o.kind == 1 then o.root else ((o.block b).1 + j) / o.n
            ((Tab.get o.data [] (64 * b + r))[j]?).getD (0, false)
          collStep n slot (s.writeBlock o b merged)
      | none =>
        if o.pushed.isEmpty && (o.allKnown || !o.missing.isEmpty) && decide (o.blocks ≤ o.written.length + o.missing.length) then
          s.collFinish o (if o.missing.isEmpty then 0 else 5)
        else s

def State.collGo (s : State) (slot : Nat) : State :=
  match s.collOps.find? fun o => o.slot == slot with
  | some o => collStep (o.blocks + 2) slot s
  | none => s

/-! ### COLL -/

def Tile.freeColl (t : Tile) : Option (Fin 4) := ([0, 1, 2, 3] : List (Fin 4)).find? fun i => !t.coll[i].busy

/-- The word that COLL writes: R228 with PCYC 0 and COLL 1. -/
def collWord (tag : Nat) (gen : BitVec 5) : Word := BitVec.ofNat 64 (2 ^ 52 * tag + 2 ^ 55 * gen.toNat + 2 ^ 60 + 2 ^ 63)

/-- A free operation slot of an engine: one of which no index is still with a gateway (R286), or else any. -/
def State.freeOpSlot (s : State) (e : Nat) : Option Nat :=
  let free (n : Nat) : Bool := !(s.collOps.any fun o => o.slot == 1024 * e + n)
  ((upto 1024).find? fun n => free n && !(s.lateIdx.any fun l => l.2.1 == 1024 * e + n)).orElse fun _ => (upto 1024).find? free

/-- Bytes of EDGE space that an operation's own source has (15 R381): none at a member of a BCST other than its root (R240). -/
def CollOp.sourceCharge (o : CollOp) : Nat :=
  if o.kind == 1 && o.own != o.root then 0 else 32 * (sectors o.srcBase o.srcLen).length

/-- COLL (R238-R240); the checks are made, it waits as a release, for its slots and for the hawser (07 R181), and retires. -/
def State.collPost (s : State) (kind : Nat) (d a : SReg) (x : Option Xsc) : Out :=
  s.unpaired
    (if !s.core.ready [d, a] || s.core.acquiring then s.stall
    else
      let p := s.S a
      (s.blockAt p p 64 64).run s fun b =>
        let c := collDesc b
        let g := s.myCtx.groups.find? fun g => g.agreed && g.num == c.group
        (s.collChk p c kind g).run s fun _ =>
          let rel := match x with | some y => y.ord == .rel || y.ord == .ar | none => true
          if s.hawser || rel && !s.releaseReady (match x with | some y => y.scope | none => .wafer) then s.stall
          else
            let e := s.myEngine
            let mine := s.collOps.filter fun o => o.slot / 1024 == e
            let quota := Tab.get (s.partOf s.tile.part).quotas 16 6
            match s.tile.freeColl, s.freeOpSlot e, g with
            | some i, some n, some g =>
              if quota ≤ (mine.filter fun o => o.part == s.tile.part).length then s.stall
              else
                let old := s.tile.coll[i]
                let k : CollSlot := { gen := if old.used then old.gen + 1 else old.gen, used := true, busy := true, core := s.sel }
                let o : CollOp :=
                  { slot := 1024 * e + n, hnd := s.tile.hnd, ttag := s.tile.ttag, launch := s.launchOf s.tile.ctx s.tile.ttag, core := s.sel, tslot := i.val, gen := k.gen, ctx := s.tile.ctx, part := s.tile.part
                    kind := kind, group := c.group, srcBase := capBase c.se, srcLen := c.srcBytes kind, dstBase := capBase c.de
                    dstLen := c.dstBytes kind g.members.length, report := ptrOfs c.report, n := c.n, blklog := c.blklog, type := c.type
                    root := c.root, timeout := if c.timeout == 0 then 64 else c.timeout, m := g.members.length, own := g.own }
                let o := (upto o.blocks).foldl (fun o b => s.ownPart o b) o
                let s := s.modTile fun t => { t with coll := vput t.coll i k }
                let s := ({ s with collOps := s.collOps ++ [o] }.setS d (collWord i.val k.gen)).retire
                .next ((s.charge 1 o.sourceCharge).collGo o.slot)
            | _, _, _ => s.stall)

/-- R238 COLL.red. -/
def execCollRed (d a : SReg) (x : Option Xsc) (s : State) : Out := s.staging (s.collPost 0 d a x)
/-- R238 COLL.bcst. -/
def execCollBcst (d a : SReg) (x : Option Xsc) (s : State) : Out := s.staging (s.collPost 1 d a x)
/-- R238 COLL.agth. -/
def execCollAgth (d a : SReg) (x : Option Xsc) (s : State) : Out := s.staging (s.collPost 2 d a x)

/-! ### What reaches the engine -/

/-- R242, R243 COLL_CONTRIBUTION_ARRIVAL: a member whose parameters disagree ends the operation with MISMATCH; the poison of a
contribution's halves goes with their bytes (R241). -/
def execCollContributionArrival (slot : Nat) (c : CollContribution) (s : State) : Out :=
  match s.collOps.find? fun o => o.slot == slot with
  | none => .next s
  | some o =>
    if c.n != o.n || c.type != o.type || c.blklog != o.blklog || c.root != o.root then .next ((if o.pushed.isEmpty then s else s.closeWindow o).collFinish o 6)
    else
    let o := if c.member < o.m && c.member != o.own then { o with known := addTo o.known c.member } else o
    if !(o.needs c.block).contains c.member || c.member == o.own || decide (o.blocks ≤ c.block) || o.written.contains c.block ||
        o.missing.contains c.block || (Tab.get o.bitmap [] c.block).contains c.member then .next ((s.putOp o).collGo slot)
    else
      let bytes := (upto (o.blockBytes c.block)).map fun j => ((c.bytes[j]?).getD 0, c.bad.contains (j / 32))
      let o := { o with
        bitmap := Tab.put o.bitmap c.block (addTo (Tab.get o.bitmap [] c.block) c.member)
        data := Tab.put o.data (64 * c.block + c.member) bytes }
      .next ((s.putOp o).collGo slot)

/-- The blocks whose bitmap is not full never come, nor any where a member's parameters have not. -/
def CollOp.giveUp (o : CollOp) : CollOp :=
  { o with missing := (upto o.blocks).filter fun b => o.missing.contains b || (!(o.full b && o.allKnown) && !o.written.contains b) }

/-- An operation that waits no longer for contributions goes on with the blocks it has. -/
def State.collGive (s : State) (o : CollOp) : State := if o.blocks == 0 then s.collFinish o 5 else (s.putOp o.giveUp).collGo o.slot

/-- R243 COLL_TIMEOUT. -/
def execCollTimeout (slot : Nat) (s : State) : Out :=
  match s.collOps.find? fun o => o.slot == slot with
  | none => .next s
  | some o => .next (s.collGive o)

/-- R243 COLL_PEER_LOST. -/
def execCollPeerLost (slot member : Nat) (s : State) : Out :=
  match s.collOps.find? fun o => o.slot == slot with
  | none => .next s
  | some o => if decide (member < o.m) && member != o.own then .next (s.collGive o) else .next s

/-- A block comes back rejected, or not at all in time: it is missing, and the operation ends after the blocks that are complete. -/
def State.blockLost (s : State) (o : CollOp) (b : Nat) : State :=
  let o := { o with pushed := o.pushed.filter (· != b) }
  ((s.closeWindow o).putOp { o.giveUp with missing := addTo o.giveUp.missing b }).collGo o.slot

/-- The result that a gateway wrote into the window; with STAT 2 the sectors of poisoned contributions are marked. -/
def State.gateResult (s : State) (o : CollOp) (b stat : Nat) : List PByte :=
  let w := windowAt (o.slot % 1024)
  let x := s.ctx (gateCtx (o.slot / 1024))
  (upto (o.blockBytes b)).map fun j =>
    let y := x.farByte none true (w + 2 ^ 27 + j)
    let hot := (upto o.m).any fun r => (x.farByte none true (w + 2 ^ 21 * r + j)).2
    (y.1, y.2 || (stat == 2 && hot))

/-- The index that was given up and that gateway g now returns: the one that g had, where its block is in progress again; otherwise that of
any gateway of the engine. Log entry 16 (DESIGN CHOICE). -/
def State.lateReturn (s : State) (g slot b : Nat) : Option (Nat × Nat × Nat) :=
  if s.lateIdx.contains (g, slot, b) then some (g, slot, b)
  else if s.collOps.any fun o => o.slot == slot && o.pushed.contains b then none
  else s.lateIdx.find? fun l => l.2 == (slot, b)

/-- R287 GATEWAY_INDEX_RETURN: the engine takes the next entry that the gateway core in focus has returned, whichever of its gateways had
the index (R242); one whose index was given up is discarded, also where its slot is in use again. -/
def execGatewayIndexReturn (s : State) : Out :=
  match s.tile.id, s.core.q.q3out with
  | .gateway g, w :: rest =>
    let s := { s with core := { s.core with q := { s.core.q with q3out := rest } } }
    let slot := 1024 * (g / 16) + w.toNat / 2 ^ 20 % 1024
    let b := w.toNat % 2 ^ 20
    let stat := w.toNat / 2 ^ 44 % 256
    match s.lateReturn g slot b with
    | some l => .next (State.modTile { s with lateIdx := s.lateIdx.erase l } fun t => { t with discarded := t.discarded + 1 })
    | none =>
    match s.collOps.find? fun o => o.slot == slot && o.pushed.contains b with
    | none => .next (s.modTile fun t => { t with discarded := t.discarded + 1 })
    | some o =>
      if !w.getLsbD 63 then .next (s.modTile fun t => { t with discarded := t.discarded + 1 })
      else if stat == 0 || stat == 2 then
        let bs := s.gateResult o b stat
        let o := { o with pushed := o.pushed.filter (· != b) }
        .next (((s.closeWindow o).writeBlock o b bs).collGo slot)
      else .next (s.blockLost o b)
  | _, _ => .next s

/-- R287 GATEWAY_INDEX_TIMEOUT: an index that did not return in time is treated as STAT 1. -/
def execGatewayIndexTimeout (slot block : Nat) (s : State) : Out :=
  match s.collOps.find? fun o => o.slot == slot && o.pushed.contains block with
  | none => .next s
  | some o => .next (State.blockLost { s with lateIdx := s.lateIdx ++ [(o.pushedTo, slot, block)] } o block)

/-- The engine of the gateway in focus pushes what found every q3 full before (R286). -/
def State.collAgain (s : State) : State :=
  match s.tile.id with
  | .gateway g => (s.collOps.filter fun o => o.slot / 1024 == g / 16 && o.kind == 0 && o.pushed.isEmpty).foldl (fun s o => s.collGo o.slot) s
  | .grid _ _ => s

end Sys2Proof.Machine
end

