-- ==== Sys2Proof/Machine/Control.lean ====
section
/-! DEFINITION. Control and activation instructions (04_control R86-R108, 02_words R57). -/

namespace Sys2Proof.Machine

/-! ### Branches (R86-R89) -/

/-- target := BPC + 2 * offset (R49). -/
def State.target (s : State) (imm : Int) : Word := s.core.pc + BitVec.ofInt 64 (2 * imm)

/-- A conditional branch that waits for the scalars it reads (R83, R86). -/
def State.branch (s : State) (reads : List SReg) (taken : Bool) (imm : Int) : Out :=
  if s.core.ready reads then .next (if taken then s.goto (s.target imm) else s.retire) else s.stall

/-- R86 B. -/
def execBra (imm : Int) (s : State) : Out := s.branch [] true imm
/-- R86 BZ. -/
def execBz (d : SReg) (imm : Int) (s : State) : Out := s.branch [d] (s.S d == 0) imm
/-- R86 BNZ. -/
def execBnz (d : SReg) (imm : Int) (s : State) : Out := s.branch [d] (s.S d != 0) imm
/-- R86 BCC.eq. -/
def execBccEq (a b : SReg) (imm : Int) (s : State) : Out := s.branch [a, b] (s.S a == s.S b) imm
/-- R86 BCC.ne. -/
def execBccNe (a b : SReg) (imm : Int) (s : State) : Out := s.branch [a, b] (s.S a != s.S b) imm
/-- R86 BCC.lt. -/
def execBccLt (a b : SReg) (imm : Int) (s : State) : Out := s.branch [a, b] ((s.S a).slt (s.S b)) imm
/-- R86 BCC.ge. -/
def execBccGe (a b : SReg) (imm : Int) (s : State) : Out := s.branch [a, b] (!(s.S a).slt (s.S b)) imm
/-- R86 BCCU.ltu. -/
def execBccuLtu (a b : SReg) (imm : Int) (s : State) : Out := s.branch [a, b] ((s.S a).ult (s.S b)) imm
/-- R86 BCCU.geu. -/
def execBccuGeu (a b : SReg) (imm : Int) (s : State) : Out := s.branch [a, b] (!(s.S a).ult (s.S b)) imm

/-- R88 LOOP: d = s0 raises ILL, charged to the base word. Log entry 77 (DESIGN CHOICE). -/
def execLoop (d : SReg) (imm : Int) (s : State) : Out :=
  if d == 0 then s.trapB .ill s.baseWord
  else if !s.core.ready [d] then s.stall
  else
    let v := s.S d - 1
    let s := s.setS d v
    .next (if v != 0 then s.goto (s.target imm) else s.retire)

/-- R89 JR: an odd target raises ILL at the jumping bundle, with TVA its first word. Log entry 77 (DESIGN CHOICE). -/
def execJr (a : SReg) (s : State) : Out :=
  if !s.core.ready [a] then s.stall
  else if (s.S a).getLsbD 0 then s.trapB .ill s.core.pc
  else .next (s.goto (s.S a))

/-! ### Calls and returns (R57, R91) -/

/-- The scalars that a kill mask names; bit 0 is ignored (R57). -/
def maskRegs (m : BitVec 16) : List SReg :=
  ([1, 2, 3, 4, 5, 6, 7, 8, 9, 10, 11, 12, 13, 14, 15] : List SReg).filter fun r => m.getLsbD r.val

def State.callMask (s : State) : BitVec 16 := s.core.sr.conv.truncate 16
def State.retMask (s : State) : BitVec 16 := (s.core.sr.conv >>> 16).truncate 16

/-- Kills CONV[15:0], links NPC into s15 and branches (R91). -/
def State.callTo (s : State) (target : Word) : State :=
  State.goto { s with core := (s.core.kill s.callMask).setS 15 s.core.npc } target

/-- R91 CALL. -/
def execCall (imm : Int) (s : State) : Out :=
  if s.core.ready (15 :: maskRegs s.callMask) then .next (s.callTo (s.target imm)) else s.stall

/-- R91 CALLR: the target is read before anything is killed. -/
def execCallr (a : SReg) (s : State) : Out :=
  if !s.core.ready (a :: 15 :: maskRegs s.callMask) then s.stall
  else if (s.S a).getLsbD 0 then s.trapB .ill s.core.pc
  else .next (s.callTo (s.S a))

/-- R91 RET. -/
def execRet (s : State) : Out :=
  if !s.core.ready (15 :: maskRegs s.retMask) then s.stall
  else if (s.S 15).getLsbD 0 then s.trapB .ill s.core.pc
  else .next (State.goto { s with core := s.core.kill s.retMask } (s.S 15))

/-! ### MISC (R99-R102) -/

/-- R99 NOP. -/
def execNop (s : State) : Out := .next s.retire

/-- R102 BRK. -/
def execBrk (s : State) : Out := s.trapB .brk s.core.pc

def allBerths : List (Fin 16) := [0, 1, 2, 3, 4, 5, 6, 7, 8, 9, 10, 11, 12, 13, 14, 15]

/-- Messages waiting in the berths of a stage of a core. -/
def Core.stageCount (c : Core) (g : Nat) : Nat :=
  (allBerths.filter fun i => c.berths[i].stage.toNat == g).foldl (fun n i => n + c.berths[i].inbox.length) 0

/-- The stage that the balancer of a flex tile chooses with the present counts over both cores: that with more messages, the later one
on a tie (R28, R106). -/
def State.stageNow (s : State) : Option Nat :=
  s.tile.flex.map fun (a, b) =>
    let count (g : Nat) : Nat := s.core.stageCount g + s.peer.stageCount g
    if count (Nat.max a b) < count (Nat.min a b) then Nat.min a b else Nat.max a b

/-- Whether nothing of the activation is in flight (R100). -/
def Core.idleUnits (c : Core) : Bool := c.rq.toList.all (fun e => !e.v) && c.unit.ops.isEmpty

/-- The end of an activation (R100): frames discarded, the activating message removed, every register dead; on a flex tile the balancer
decides for this core (R106). -/
def State.endActivation (s : State) : State :=
  let s := s.traceRec 1 0
  let c := s.core.killAll
  let n : Fin 16 := Fin.ofNat 16 (s.core.sr.brth.toNat)
  let b := c.berths[n]
  let s := { s with core := { c with
      active := false, frames := [], ucause := 0, uopc := 0, issued := true,
      berths := vput c.berths n { b with inbox := b.inbox.drop 1 } } }
  { s with core := { s.core with stagePick := s.stageNow } }

/-- R100 END. -/
def execEndAct (s : State) : Out :=
  if s.core.tr.level.val != 0 then s.trapB .ill s.core.pc
  else if s.core.idleUnits then .next s.endActivation
  else s.stall

/-- R101 ENDT: END, then the team-end notice to the quay; the core takes no further activation of the team. -/
def execEndTeam (s : State) : Out :=
  if s.core.tr.level.val != 0 then s.trapB .ill s.core.pc
  else if s.core.idleUnits then
    let s := s.endActivation
    let s := { s with core := { s.core with ended := true } }
    .next { s with teams := s.teams.map fun t => if t.ctx == s.tile.ctx && t.tag == s.tile.ttag then { t with endt := true } else t }
  else s.stall

/-! ### Choosing and starting an activation (R105-R107) -/

/-- A berth that is VALID and has a message. -/
def Berth.ready (b : Berth) : Bool := b.valid && !b.inbox.isEmpty

/-- The candidates after the stage balancer's choice on a flex tile; berths of no stage stay (R105, R106, R109). -/
def balance (flex : Option (Nat × Nat)) (pick : Option Nat) (c : Core) (cand : List (Fin 16)) : List (Fin 16) :=
  match flex, pick with
  | some (a, b), some g =>
    let has (n : Nat) : Bool := cand.any fun i => c.berths[i].stage.toNat == n
    let out := if g == a then b else a
    if has a && has b then cand.filter fun i => c.berths[i].stage.toNat != out else cand
  | _, _ => cand

def oldest (b : Berth) : Nat := match b.inbox with | m :: _ => m.order | [] => 0

/-- The berth of the pool with the least PRIO, then the oldest entry, then the lowest number. -/
def bestBerth (c : Core) : List (Fin 16) → Option (Fin 16)
  | [] => none
  | i :: r =>
    match bestBerth c r with
    | none => some i
    | some j =>
      let p := c.berths[i].prio.toNat
      let q := c.berths[j].prio.toNat
      if p < q || (p == q && decide (oldest c.berths[i] ≤ oldest c.berths[j])) then some i else some j

/-- The choice of the next activation (R105): the berth and the guard counter after it. Before a core's first activation has ended, the
stage of a flex tile is chosen by the counts at its start. Log entry 78 (DEDUCED). -/
def State.chooseBerth (s : State) : Option (Fin 16 × Nat) :=
  let c := s.core
  let cand := balance s.tile.flex (c.stagePick.orElse fun _ => s.stageNow) c (allBerths.filter fun i => c.berths[i].ready)
  let lower := cand.filter fun i => decide (c.lastPrio < c.berths[i].prio.toNat)
  let guard := decide (64 ≤ c.guard) && !lower.isEmpty
  let pool := if guard then lower else cand
  match bestBerth c pool with
  | none => none
  | some b =>
    let p := c.berths[b].prio.toNat
    some (b, if !guard && cand.any (fun i => decide (p < c.berths[i].prio.toNat)) then c.guard + 1 else 0)

/-- The state that an activation of berth b loads (R107, R63). -/
def Core.startAct (c : Core) (b : Fin 16) (guard : Nat) : Core :=
  let t := c.berths[b]
  let c := c.killAll
  let c := { c with
    sr := { c.sr with
      conv := t.conv.zeroExtend 64, mctl := 0, tola := 0, tolr := 0, fmta := 0, fmtb := 0, scla := 0, sclb := 0, gtb := 0, kmd := 0,
      krho := 0, ffl := 0, fctl := 0, brth := BitVec.ofNat 64 b.val,
      msgh := (match t.inbox with | m :: _ => m.h0 | [] => 0) }
    tr := { c.tr with level := 0, sstep := false }
    frames := [], ucause := 0, uopc := 0, pc := t.entry.zeroExtend 64, active := true, guard := guard, lastPrio := t.prio.toNat,
    q := { c.q with q0pos := 0 }, issued := false }
  if t.stk == 0 then c else c.setS 14 (t.stk.zeroExtend 64)

/-- Whether a byte of the slice lies in a keep region, in code or in a ring (R24). -/
def Tile.kept (t : Tile) (o : Nat) : Bool :=
  t.keeps.any (fun k => decide (k.1 ≤ o) && decide (o < k.1 + k.2)) ||
    t.rings.toList.any fun r => r.nslot != 0 && decide (1024 * r.base.toNat ≤ o) &&
      decide (o < 1024 * (r.base.toNat + r.nslot.toNat))

/-- Rebuilds a memory from address n - 1 down: kept bytes stay, the others take free values. `old` is the memory in falling order. -/
def scramble (kept : Nat → Bool) (fresh : Nat) : Nat → Memory → Memory → Memory
  | 0, _, acc => acc
  | n + 1, old, acc =>
    match old with
    | (a, v) :: rest =>
      if a == n then
        let v := if kept n then v else Config.freeByte (fresh + n)
        scramble kept fresh n rest (if v == 0 then acc else (n, v) :: acc)
      else
        let v := if kept n then 0 else Config.freeByte (fresh + n)
        scramble kept fresh n old (if v == 0 then acc else (n, v) :: acc)
    | [] =>
      let v := if kept n then 0 else Config.freeByte (fresh + n)
      scramble kept fresh n [] (if v == 0 then acc else (n, v) :: acc)

/-- The bytes outside keep regions, code and rings take free values (R24). Log entry 42 (DEDUCED). -/
def Tile.scrambled (t : Tile) (fresh : Nat) : Tile :=
  { t with slice := scramble t.kept fresh 0x80000 (t.slice.filter fun c => decide (c.1 < 0x80000)).reverse [] }

/-- The slice at an activation start: a free value decides whether the bytes that R24 and R103 leave undefined keep what they held (R23)
or take free values. Log entry 42 (DEDUCED). -/
def Tile.atStart (t : Tile) (fresh : Nat) : Tile :=
  { t with slice := if Config.startClobbers fresh then (t.scrambled (fresh + 1)).slice else t.slice }

/-- R105-R107 ACTIVATION_START: the core in focus, with no activation running, starts the one that it chooses. -/
def execActivationStart (s : State) : Out :=
  if s.core.active || s.core.ended || s.core.stopped || !s.tile.owned then .next s
  else
    match s.chooseBerth with
    | none => .next s
    | some (b, g) =>
      .next (State.traceRec { s with core := s.core.startAct b g, tile := s.tile.atStart s.fresh, fresh := s.fresh + 0x80001 } 0 0)

end Sys2Proof.Machine
end

