-- ==== Sys2Proof/Machine/Sync.lean ====
section
/-! DEFINITION. Atomics, phasers and barriers as instructions, and what the home of a sector or a phaser does (08_sync R189-R220). -/

namespace Sys2Proof.Machine

/-! ### The step of an atomic (R191) -/

/-- The new value of n bytes, or none where nothing is written. -/
def atomNew (op : AtomOp) (n : Nat) (old x e : Nat) : Option Nat :=
  let m := 2 ^ (8 * n)
  let o := old % m
  let v := x % m
  let signed (k : Nat) : Int := if k < m / 2 then (k : Int) else (k : Int) - (m : Int)
  match op with
  | .add => some ((o + v) % m)
  | .and => some (Nat.land o v)
  | .or => some (Nat.lor o v)
  | .xor => some (Nat.xor o v)
  | .min => some (if signed o < signed v then o else v)
  | .max => some (if signed o < signed v then v else o)
  | .minu => some (if o < v then o else v)
  | .maxu => some (if o < v then v else o)
  | .swap => some v
  | .cas => if o == e % m then some v else none

/-- What an atomic did: the old value, whether the sector was poisoned, whether it wrote. -/
structure AtomRes where
  old : Word
  bad : Bool
  wrote : Bool

/-- The result as d takes it: W is sign-extended. -/
def atomOld (w : Bool) (v : Nat) : Word := if w then sextTo 32 v else BitVec.ofNat 64 v

/-- One step on bytes of the own slice. -/
def Tile.atomic (t : Tile) (fresh : Nat) (op : AtomOp) (w : Bool) (o : Nat) (x e : Word) : AtomRes × Tile :=
  let n := if w then 4 else 8
  let t := t.ecc fresh o n
  if t.poison.contains (o / 32) then ({ old := 0, bad := true, wrote := false }, t)
  else
    let old := leNat (t.slice.readMany o n)
    match atomNew op n old x.toNat e.toNat with
    | some v => ({ old := atomOld w old, bad := false, wrote := true }, t.store fresh o (plain (leBytes n v)))
    | none => ({ old := atomOld w old, bad := false, wrote := false }, t)

/-- One step on the copy of a sector in the lease store (R197). -/
def Lease.atomic (l : Lease) (op : AtomOp) (w : Bool) (o : Nat) (x e : Word) : AtomRes × Lease :=
  let n := if w then 4 else 8
  if l.bad then ({ old := 0, bad := true, wrote := false }, l)
  else
    let k := o % 32
    let old := leNat ((l.bytes.drop k).take n)
    match atomNew op n old x.toNat e.toNat with
    | some v => ({ old := atomOld w old, bad := false, wrote := true }, { l with bytes := l.bytes.take k ++ leBytes n v ++ l.bytes.drop (k + n) })
    | none => ({ old := atomOld w old, bad := false, wrote := false }, l)

/-! ### Atomic instructions (R189-R201) -/

/-- The checks of the pointer of an atomic (R191). -/
def State.atomPtr (s : State) (x : Word) (n : Nat) : Chk (Word × Target × State) :=
  (eaChk x 0).bind fun p =>
    if ptrSpace p == 3 && !s.privileged then .trap .priv p
    else if 2 < ptrSpace p then .trap .bnd p
    else if ptrOfs p % n != 0 then .trap .bnd p
    else (s.resolve p n true).bind fun (t, s) => .ok (p, t, s)

/-- An atomic that was executed here at its issue: its entry of KIND 3 holds the result until it retires (R192). -/
def State.atomHeld (s : State) (i : Instr) (n : Fin 8) (p x e : Word) (acq : Bool) (r : AtomRes) : State :=
  let en := { s.newEntry i 3 p x with st := 1, w3 := r.old, buf := if r.bad then [(0, true)] else [], acq := acq, cap := e }
  (s.putEntry n en).retire

/-- An atomic leaves for the place that executes it; it holds an entry of KIND 3. A recalled lease on its sector goes back before it. -/
def State.atomSend (s : State) (i : Instr) (p x e : Word) (op : AtomOp) (w : Bool) (ep : Endpoint) (o : Nat) (leasable acq : Bool)
    (back : List Lease) (folded : List Word) : Out :=
  s.withEntry fun n =>
    s.send (back.map writeBackOf ++ [{ dst := ep, vc := 1, ent := n.val, body := .atomic op w leasable o x e }]) fun s =>
      let en := { s.newEntry i 3 p x with fabric := true, req := s.core.link.req, acq := acq, cap := e }
      let s := (s.dropLeases back).fold folded
      let s := match ep with | .tile _ _ => s | _ => s.charge 1 32
      .next (State.retire { s with core := bumpReq (s.core.setEntry n en) })

/-- An atomic (R191, R195): its m and c are folded with its pointer and operands once it issues (R349). Under a lease it is executed once the
core's earlier writes to that home are acknowledged, since it counts there as a write on VC1 (R199, 06 R143). -/
def State.atomicOp (s : State) (i : Instr) (d a b : SReg) (w : Bool) (x : Option Xsc) (op : AtomOp) (m c : Nat) : Out :=
  if !s.core.ready [d, a, b] then s.stall
  else
    let n := if w then 4 else 8
    (s.atomPtr (s.S a) n).run s fun (p, t, s) =>
      if !s.orderReady x then s.stall
      else
        let vx := s.S b
        let ve := s.S d
        let acq := Xsc.isAcq x
        let folded := [p, vx, ve, Config.atomCode m c]
        match t with
        | .slice o =>
          if s.tile.heldWrite o (plain (leBytes n 0)) || s.slotPending (targetParts 0 n t) then s.stall
          else match s.tile.leasedOut o n with
            | some l => (s.recall l).stall
            | none => s.withEntry fun k =>
              let r := s.tile.atomic s.fresh op w o vx ve
              .next (({ s with tile := r.2, fresh := s.fresh + 1 }.fold folded).atomHeld i k p vx ve acq r.1)
        | .tile tx ty o =>
          let ep : Endpoint := .tile tx ty
          match s.tile.leases.find? fun l => l.x == tx && l.y == ty && l.sector == o / 32 with
          | some l =>
            if l.recalled then s.atomSend i p vx ve op w ep o false acq [l] folded
            else if s.core.link.retry.any fun r => r.pkt.vc == 1 && r.pkt.dst == ep then s.stall
            else s.withEntry fun k =>
              let r := l.atomic op w o vx ve
              .next (({ s with tile := { s.tile with leases := r.2 :: s.tile.leases.filter (· != l) } }.fold folded).atomHeld i k p vx ve acq r.1)
          | none =>
            let sec := o / 32
            if s.core.mayLease ep sec || s.peer.mayLease ep sec then s.stall
            else
              let able := decide (s.tile.leases.length < 8) && !s.core.uses ep sec && !s.peer.uses ep sec
              s.atomSend i p vx ve op w ep o able acq [] folded
        | .far _ segs =>
          match segs with
          | (ep, o, _) :: _ => s.atomSend i p vx ve op w ep o false acq [] folded
          | [] => s.stall
        | .quay _ => s.trapB .bnd p

/-- The XRG field c of an atomic (R190). -/
def atomC (w u : Bool) : Nat := (if w then 1 else 0) + if u then 2 else 0

/-- R191 AMOA.add. -/
def execAmoaAdd (d a b : SReg) (w : Bool) (x : Option Xsc) (s : State) : Out :=
  s.atomicOp (.amoaAdd d a b w x) d a b w x .add 0 (atomC w false)
/-- R191 AMOA.and. -/
def execAmoaAnd (d a b : SReg) (w : Bool) (x : Option Xsc) (s : State) : Out :=
  s.atomicOp (.amoaAnd d a b w x) d a b w x .and 1 (atomC w false)
/-- R191 AMOA.or. -/
def execAmoaOr (d a b : SReg) (w : Bool) (x : Option Xsc) (s : State) : Out :=
  s.atomicOp (.amoaOr d a b w x) d a b w x .or 2 (atomC w false)
/-- R191 AMOA.xor. -/
def execAmoaXor (d a b : SReg) (w : Bool) (x : Option Xsc) (s : State) : Out :=
  s.atomicOp (.amoaXor d a b w x) d a b w x .xor 3 (atomC w false)
/-- R191 AMOB.min. -/
def execAmobMin (d a b : SReg) (w : Bool) (x : Option Xsc) (s : State) : Out :=
  s.atomicOp (.amobMin d a b w x) d a b w x .min 0 (atomC w false)
/-- R191 AMOB.max. -/
def execAmobMax (d a b : SReg) (w : Bool) (x : Option Xsc) (s : State) : Out :=
  s.atomicOp (.amobMax d a b w x) d a b w x .max 1 (atomC w false)
/-- R191 AMOB.minu. -/
def execAmobMinu (d a b : SReg) (w : Bool) (x : Option Xsc) (s : State) : Out :=
  s.atomicOp (.amobMinu d a b w x) d a b w x .minu 0 (atomC w true)
/-- R191 AMOB.maxu. -/
def execAmobMaxu (d a b : SReg) (w : Bool) (x : Option Xsc) (s : State) : Out :=
  s.atomicOp (.amobMaxu d a b w x) d a b w x .maxu 1 (atomC w true)
/-- R191 AMOB.swap. -/
def execAmobSwap (d a b : SReg) (w : Bool) (x : Option Xsc) (s : State) : Out :=
  s.atomicOp (.amobSwap d a b w x) d a b w x .swap 2 (atomC w false)
/-- R191 CAS.w. -/
def execCasW (d a b : SReg) (x : Option Xsc) (s : State) : Out := s.atomicOp (.casW d a b x) d a b true x .cas 0 0
/-- R191 CAS.d. -/
def execCasD (d a b : SReg) (x : Option Xsc) (s : State) : Out := s.atomicOp (.casD d a b x) d a b false x .cas 1 0

/-! ### Phaser identifiers (R202) -/

def phHome (id : Word) : W32 := id.truncate 32
def phSlot (id : Word) : Nat := (id.extractLsb' 32 3).toNat
def phEslot (id : Word) : Nat := (id.extractLsb' 35 10).toNat
def phRegion (id : Word) : Nat := (id.extractLsb' 45 6).toNat
def phEng (id : Word) : Bool := id.getLsbD 51
def phScope (id : Word) : Scope := scopeOf (id.extractLsb' 52 3).toNat
def phGen (id : Word) : Nat := (id.extractLsb' 55 8).toNat
def phValid (id : Word) : Bool := id.getLsbD 63

def phaserId (home : W32) (slot eslot region : Nat) (eng : Bool) (sc : Scope) (gen : BitVec 8) : Word :=
  BitVec.ofNat 64 (home.toNat + 2 ^ 32 * slot + 2 ^ 35 * eslot + 2 ^ 45 * region + (if eng then 2 ^ 51 else 0) +
    2 ^ 52 * scopeCode sc + 2 ^ 55 * gen.toNat + 2 ^ 63)

/-! ### The home of a phaser (R205) -/

/-- p - q modulo 2^16. -/
def phDist (p q : BitVec 16) : Nat := (p - q).toNat

def PhMember.signals (m : PhMember) : Bool := m.mode != .w

/-- Whether a member signals in phase p: registered for it, and not gone before it. -/
def PhMember.countsFor (m : PhMember) (p : BitVec 16) : Bool :=
  m.signals && decide (phDist p m.start < 32768) && (match m.left with | some q => decide (phDist q p < 32768) | none => true)

def Phaser.nsig (h : Phaser) (p : BitVec 16) : Nat := (h.members.filter fun m => m.countsFor p).length
def Phaser.narr (h : Phaser) (p : BitVec 16) : Nat := (h.members.filter fun m => m.countsFor p && m.arrived.contains p).length

/-- Whether the current phase completes (rules 1 and 2). -/
def Phaser.completes (h : Phaser) : Bool :=
  if h.nsig h.phase == 0 then h.waiters.any fun w => w.phase == h.phase else h.narr h.phase == h.nsig h.phase

def phSame (m : PhMember) (r : PhReq) : Bool := m.x == r.mx && m.y == r.my && m.core == r.mcore

/-- Notes an arrival of a member at a phase, once (rule 6), and its leaving after it (rule 4). -/
def Phaser.note (h : Phaser) (r : PhReq) : Phaser :=
  { h with members := h.members.map fun m =>
      if phSame m r then
        { m with arrived := if m.arrived.contains r.phase then m.arrived else m.arrived ++ [r.phase],
                 left := if r.leave then some r.phase else m.left }
      else m }

/-- A slot whose last member has left is free (R209). -/
def Phaser.sweep (h : Phaser) : Phaser := if h.members.isEmpty then { h with inUse := false, waiters := [], pend := [] } else h

/-- Completes the current phase: its waiters are released, members that left after it go, and early arrivals that an engine held are
counted when they become due; whoever stays counts from the next phase on. -/
def Phaser.advance (h : Phaser) : Phaser × List PhReq :=
  let p := h.phase
  let out := h.waiters.filter fun (w : PhReq) => w.phase == p
  let stay := (h.members.filter fun (m : PhMember) => m.left != some p).map fun (m : PhMember) =>
    { m with arrived := m.arrived.filter (· != p) }
  let due := h.pend.filter fun (r : PhReq) => r.phase == p + 1
  let h := { h with
    phase := p + 1
    waiters := h.waiters.filter fun (w : PhReq) => w.phase != p
    pend := h.pend.filter fun (r : PhReq) => r.phase != p + 1
    members := stay.map fun (m : PhMember) => { m with start := p + 1 } }
  ((due.foldl Phaser.note h).sweep, out)

/-- Completes phases while they complete. -/
def Phaser.settle : Nat → Phaser → Phaser × List PhReq
  | 0, h => (h, [])
  | n + 1, h =>
    if h.inUse && h.completes then
      let r := h.advance
      let q := Phaser.settle n r.1
      (q.1, r.2 ++ q.2)
    else (h, [])

/-- How many phases one request can complete: the early arrivals and the waits that are recorded, and its own. -/
def Phaser.fuel (h : Phaser) : Nat := h.pend.length + h.waiters.length + 4

/-- What the home answers. -/
inductive PhAns where
  | ack | retry
  | value (v : Word)
  | later
  deriving DecidableEq, Repr, Inhabited

/-- Whether a request names the phaser that stands in the slot (R202). -/
def Phaser.live (h : Phaser) (r : PhReq) (ctx ttag : Nat) : Bool :=
  h.inUse && h.gen.toNat == r.gen && h.ctx == ctx && h.ttag == ttag

/-- An arrival (rule 5); a W member that drops leaves at once (R209). -/
def Phaser.arrive (h : Phaser) (r : PhReq) (ctx ttag : Nat) : PhAns × Phaser × List PhReq :=
  if !h.live r ctx ttag then (.ack, h, [])
  else if r.mode == .w then
    let h := { h with members := h.members.filter fun m => !(phSame m r) }.sweep
    let q := Phaser.settle h.fuel h
    (.ack, q.1, q.2)
  else
    let k := phDist r.phase h.phase
    if k ≤ 1 then
      let h := h.note r
      let q := Phaser.settle h.fuel h
      (.ack, q.1, q.2)
    else if k < 32768 then
      if r.engine then (.ack, { h with pend := if h.pend.contains r then h.pend else h.pend ++ [r] }, []) else (.retry, h, [])
    else (.ack, h, [])

/-- A wait: recorded once; a phase that has completed answers at once (R205, R211). -/
def Phaser.wait (h : Phaser) (r : PhReq) (ctx ttag : Nat) : PhAns × Phaser × List PhReq :=
  if !h.live r ctx ttag then (.ack, h, [])
  else
    let k := phDist r.phase h.phase
    if 32768 ≤ k then (.ack, h, [r])
    else
      let h := { h with waiters := if h.waiters.contains r then h.waiters else h.waiters ++ [r] }
      let q := Phaser.settle h.fuel h
      (.ack, q.1, q.2)

/-- Whether a tile lies in the scope instance of the phaser's creator (R203). -/
def Phaser.admits (h : Phaser) (r : PhReq) : Bool :=
  match h.scope with
  | .tile => r.mx == h.cx && r.my == h.cy
  | .quad => r.mx / 2 == h.cx / 2 && r.my / 2 == h.cy / 2
  | .region => regionOf r.mx r.my == regionOf h.cx h.cy
  | _ => true

/-- Every bit set: the answer of a registration that is refused (R208). -/
def allOnes : Word := 0xFFFFFFFFFFFFFFFF

/-- A registration (rule 3, R203, R208). A core that has dropped and whose last arrival's phase has not completed is still a member: log
entry 98 (DESIGN CHOICE). -/
def Phaser.register (h : Phaser) (r : PhReq) (ctx ttag : Nat) : PhAns × Phaser :=
  let limit := if r.engine then 65535 else 255
  if !h.live r ctx ttag || !h.admits r || decide (limit ≤ h.members.length) || h.members.any (phSame · r) then (.value allOnes, h)
  else
    let p0 := if h.narr h.phase == 0 then h.phase else h.phase + 1
    (.value (p0.zeroExtend 64),
      { h with members := h.members ++ [{ x := r.mx, y := r.my, core := r.mcore, mode := r.mode, start := p0 }] })

/-- PHQRY's word (R210). -/
def Phaser.status (h : Phaser) (r : PhReq) (ctx ttag : Nat) : Word :=
  if h.live r ctx ttag then
    BitVec.ofNat 64 (h.phase.toNat + 2 ^ 16 * h.nsig h.phase + 2 ^ 32 * h.narr h.phase + 2 ^ 48 * scopeCode h.scope +
      (if r.engine then 2 ^ 51 else 0) + 2 ^ 63)
  else 0

/-! ### Phaser instructions (R206-R213) -/

/-- The membership of an identifier. -/
def Core.member (c : Core) (id : Word) : Option Member := c.members.find? fun m => m.id == id

def Core.setMember (c : Core) (m : Member) : Core := { c with members := c.members.map fun k => if k.id == m.id then m else k }

/-- A request to the home of phaser `id` by the core in focus. -/
def State.phReq (s : State) (id : Word) (mode : PhMode) (phase : BitVec 16) (rel leave : Bool) (ent : Nat) : PhReq :=
  { engine := phEng id, region := phRegion id, slot := if phEng id then phEslot id else phSlot id, gen := phGen id,
    mx := s.tile.id.xy.1, my := s.tile.id.xy.2, mcore := s.sel, ent := ent, mode := mode, phase := phase, rel := rel, leave := leave }

/-- Where the home of a phaser is: a tile of the team, or the quay of a region; none where no tile of the team has the handle. -/
def State.phPlace (s : State) (id : Word) : Option Endpoint :=
  if phEng id then some (.quay (phRegion id))
  else (rankOf (phHome id) s.tile.placement 0).map fun p => .tile p.2.x p.2.y

/-- Sends phaser requests: on VC1 to a tile, on VC0 to a quay (R212). Those that no entry waits for take a request number of their own. -/
def State.phSend (s : State) (ep : Endpoint) (bs : List Body) (ent : Nat) (k : State → Out) : Out :=
  let vc : Fin 8 := match ep with | .quay _ => 0 | _ => 1
  let own (b : Body) : Nat := match b with | .phArrive _ => 8 | _ => ent
  s.send (bs.map fun b => { dst := ep, vc := vc, ent := own b, body := b }) fun s =>
    k (if ent == 8 then { s with core := bumpReq s.core } else s)

/-- Entry and request in one number, by which a later completion finds the entry. -/
def State.entReq (s : State) (n : Nat) : Nat := n + 8 * s.core.link.req

/-- The mode that a code names: 1 S, 2 W, 3 SW. -/
def phModeOf (n : Nat) : PhMode := if n == 1 then .s else if n == 2 then .w else .sw

/-- The first free phaser slot of the tile. -/
def Tile.freePhaser (t : Tile) : Option (Fin 8) :=
  ([0, 1, 2, 3, 4, 5, 6, 7] : List (Fin 8)).find? fun i => !t.phasers[i].inUse

/-- A new phaser at phase 0 in a slot, its creator registered by rule 3 of R205 where `mode` is not 0. -/
def newPhaser (old : Phaser) (s : State) (sc : Scope) (mode : Nat) : Phaser :=
  { inUse := true, gen := old.gen + 1, scope := sc, phase := 0, ctx := s.tile.ctx, ttag := s.tile.ttag, cx := s.tile.id.xy.1,
    cy := s.tile.id.xy.2,
    members := if mode == 0 then [] else [{ x := s.tile.id.xy.1, y := s.tile.id.xy.2, core := s.sel, mode := phModeOf mode, start := 0 }] }

/-- The core's entry for a phaser it has registered in. -/
def Core.join (c : Core) (id : Word) (mode : PhMode) (p : BitVec 16) : Core :=
  { c with members := c.members ++ [{ id := id, mode := mode, ap := p, wp := p }] }

/-- Registrations of the core that are on their way: each may still add a membership (R204). -/
def Core.registering (c : Core) : Nat :=
  (c.rq.toList.filter fun e => e.v && e.fabric && (match e.op with
    | some (.phreg _ _ _) => true
    | some (.phnew _ _) => e.w1.toNat / 16 % 4 != 0
    | _ => false)).length

/-- Whether the membership table may be full once the registrations on their way are answered: a further one waits for them. Log entry
85 (DESIGN CHOICE). -/
def Core.tableWaits (c : Core) : Bool := decide (c.members.length < 8) && decide (8 ≤ c.members.length + c.registering)

/-- R207 PHNEW. -/
def execPhnew (d a : SReg) (s : State) : Out :=
  if !s.core.ready [d, a] then s.stall
  else if s.core.acquiring then s.stall
  else
    let c := s.S a
    let sc := c.toNat % 8
    let eng := c.getLsbD 3
    let mode := c.toNat / 16 % 4
    if 4 < sc || c.extractLsb' 6 58 != (0 : BitVec 58) || (!eng && decide (2 < sc)) then s.trapB .bnd c
    else if mode != 0 && s.core.tableWaits then s.stall
    else if eng then
      if mode != 0 && decide (8 ≤ s.core.members.length) then .next (s.setS d 0).retire
      else s.askQuay (.phnew d a) 10 c 0
    else
      match s.tile.freePhaser with
      | none => .next (s.setS d 0).retire
      | some i =>
        if mode != 0 && decide (8 ≤ s.core.members.length) then .next (s.setS d 0).retire
        else
          let h := newPhaser s.tile.phasers[i] s (scopeOf sc) mode
          let id := phaserId s.tile.hnd i.val 0 0 false (scopeOf sc) h.gen
          let core := if mode == 0 then s.core else s.core.join id (phModeOf mode) 0
          .next (State.setS { s with tile := { s.tile with phasers := vput s.tile.phasers i h }, core := core } d id).retire

/-- R208 PHREG. -/
def execPhreg (d a b : SReg) (s : State) : Out :=
  if !s.core.ready [d, a, b] then s.stall
  else if s.core.acquiring then s.stall
  else
    let id := s.S a
    let m := s.S b
    if m.extractLsb' 2 62 != (0 : BitVec 62) || m == 0 then s.trapB .bnd m
    else
      let refuse : Out := .next (s.setS d allOnes).retire
      if (s.core.member id).isSome || decide (8 ≤ s.core.members.length) || !phValid id then refuse
      else if s.core.tableWaits then s.stall
      else match s.phPlace id with
        | none => refuse
        | some ep =>
          s.withEntry fun n =>
            s.phSend ep [.phReg (s.phReq id (phModeOf m.toNat) 0 false false (s.entReq n.val))] n.val fun s =>
              let e := { s.newEntry (.phreg d a b) 7 id m with fabric := true, req := s.core.link.req }
              .next ({ s with core := bumpReq (s.core.setEntry n e) } : State).retire

/-- R210 PHQRY. -/
def execPhqry (d a : SReg) (s : State) : Out :=
  if !s.core.ready [d, a] then s.stall
  else if s.core.acquiring then s.stall
  else
    let id := s.S a
    match (if phValid id then s.phPlace id else none) with
    | none => .next (s.setS d 0).retire
    | some ep =>
      s.withEntry fun n =>
        s.phSend ep [.phQry (s.phReq id .w 0 false false (s.entReq n.val))] n.val fun s =>
          let e := { s.newEntry (.phqry d a) 7 id 0 with fabric := true, req := s.core.link.req }
          .next ({ s with core := bumpReq (s.core.setEntry n e) } : State).retire

/-- R209 PHDROP. -/
def execPhdrop (d a : SReg) (s : State) : Out :=
  if !s.core.ready [d, a] then s.stall
  else
    let id := s.S a
    match s.core.member id with
    | none => s.trapB .bnd id
    | some m =>
      let sig := m.mode != .w
      if s.core.acquiring || (sig && !s.releaseReady (phScope id)) then s.stall
      else
        match s.phPlace id with
        | none => s.trapB .bnd id
        | some ep =>
          s.phSend ep [.phArrive (s.phReq id m.mode m.ap sig true 8)] 8 fun s =>
            let c := { s.core with members := s.core.members.filter fun k => k.id != id }
            .next (State.setS { s with core := c } d ((if sig then m.ap else m.wp).zeroExtend 64)).retire

/-- R211 PHARR. -/
def execPharr (d a : SReg) (o : Option Order) (s : State) : Out :=
  if !s.core.ready [d, a] then s.stall
  else
    let id := s.S a
    let rel := o.getD .rel != .rlx
    match s.core.member id with
    | none => s.trapB .bnd id
    | some m =>
      if m.mode == .w then s.trapB .bnd id
      else if s.core.acquiring || (rel && !s.releaseReady (phScope id)) then s.stall
      else
        match s.phPlace id with
        | none => s.trapB .bnd id
        | some ep =>
          s.phSend ep [.phArrive (s.phReq id m.mode m.ap rel false 8)] 8 fun s =>
            let s := { s with core := s.core.setMember { m with ap := m.ap + 1 } }
            .next (s.setS d (m.ap.zeroExtend 64)).retire

/-- The wait of PHWAIT and PHAW: an entry of KIND 6 until the phase completes (R211, R212). -/
def State.phWaitEntry (s : State) (i : Instr) (id : Word) (q : BitVec 16) (acq : Bool) (n : Fin 8) : State :=
  let e := { s.newEntry i 6 id (q.zeroExtend 64) with fabric := true, req := s.core.link.req, acq := acq }
  { s with core := bumpReq (s.core.setEntry n e) }

/-- R211 PHWAIT. -/
def execPhwait (d a : SReg) (o : Option Order) (s : State) : Out :=
  if !s.core.ready [d, a] then s.stall
  else
    let id := s.S a
    match s.core.member id with
    | none => s.trapB .bnd id
    | some m =>
      if m.mode == .s || (m.mode == .sw && m.wp == m.ap) then s.trapB .bnd id
      else if s.core.acquiring then s.stall
      else
        match s.phPlace id with
        | none => s.trapB .bnd id
        | some ep =>
          s.withEntry fun n =>
            s.phSend ep [.phWait (s.phReq id m.mode m.wp false false (s.entReq n.val))] n.val fun s =>
              let s := { s with core := s.core.setMember { m with wp := m.wp + 1 } }
              .next (s.phWaitEntry (.phwait d a o) id m.wp (o.getD .acq != .rlx) n).retire

/-- R211 PHAW. -/
def execPhaw (d a : SReg) (o : Option Order) (s : State) : Out :=
  if !s.core.ready [d, a] then s.stall
  else
    let id := s.S a
    let ord := o.getD .ar
    let rel := ord == .rel || ord == .ar
    match s.core.member id with
    | none => s.trapB .bnd id
    | some m =>
      if m.mode != .sw then s.trapB .bnd id
      else if s.core.acquiring || (rel && !s.releaseReady (phScope id)) then s.stall
      else
        match s.phPlace id with
        | none => s.trapB .bnd id
        | some ep =>
          s.withEntry fun n =>
            s.phSend ep [.phArrive (s.phReq id m.mode m.ap rel false 8),
                .phWait (s.phReq id m.mode m.ap false false (s.entReq n.val))] n.val fun s =>
              let s := { s with core := s.core.setMember { m with ap := m.ap + 1, wp := m.ap + 1 } }
              .next (s.phWaitEntry (.phaw d a o) id m.ap (ord == .acq || ord == .ar) n).retire

/-! ### Barriers (R215-R217) -/

def psetHas (ps : PhaserSet) (k : CoreSel) : Bool :=
  match ps, k with
  | .cmp, .comp => true
  | .stg, .stage => true
  | .all, _ => true
  | _, _ => false

/-- The scope instance of coordinates (R145, R20). -/
def scopeInst (sc : Scope) (x y : Nat) : Nat :=
  match sc with
  | .tile => x + 256 * y
  | .quad => x / 2 + 128 * (y / 2)
  | .region => regionOf x y
  | _ => 0

def barIndex (sc : Scope) (ps : PhaserSet) : Fin 15 := Fin.ofNat 15 (3 * scopeCode sc + psetCode ps)

def Episode.is (b : Episode) (ctx ttag : Nat) (sc : Scope) (ps : PhaserSet) (inst : Nat) (ep : BitVec 16) : Bool :=
  b.ctx == ctx && b.ttag == ttag && b.scope == sc && b.set == ps && b.inst == inst && b.ep == ep

def State.myInst (s : State) (sc : Scope) : Nat := scopeInst sc s.tile.id.xy.1 s.tile.id.xy.2

/-- The episode of a barrier of the team in focus. -/
def State.episode (s : State) (sc : Scope) (ps : PhaserSet) (ep : BitVec 16) : Option Episode :=
  s.barriers.find? fun b => b.is s.tile.ctx s.tile.ttag sc ps (s.myInst sc) ep

/-- The cores that take part in an instance (R215). -/
def State.participants (s : State) (sc : Scope) (ps : PhaserSet) (inst : Nat) : List (Nat × Nat × CoreSel) :=
  ((s.tile.placement.filter fun p => scopeInst sc p.x p.y == inst).map fun p =>
    (if psetHas ps .stage then [(p.x, p.y, CoreSel.stage)] else []) ++ (if psetHas ps .comp then [(p.x, p.y, CoreSel.comp)] else [])).flatten

/-- Whether every participating core has arrived (R216). -/
def State.allArrived (s : State) (b : Episode) : Bool := (s.participants b.scope b.set b.inst).all b.arrived.contains

/-- Whether an episode at which the core in focus has arrived is complete; one that is forgotten is. -/
def State.episodeDone (s : State) (sc : Scope) (ps : PhaserSet) (ep : BitVec 16) : Bool :=
  match s.episode sc ps ep with
  | some b => b.done || s.allArrived b
  | none => true

/-- The core in focus arrives at an episode; complete ones before the last are forgotten, so that a number can come again. -/
def State.barArrive (s : State) (sc : Scope) (ps : PhaserSet) (ep : BitVec 16) : State :=
  let me := (s.tile.id.xy.1, s.tile.id.xy.2, s.sel)
  let inst := s.myInst sc
  let old (b : Episode) : Bool :=
    b.ep != ep && b.ep != ep - 1 && b.is s.tile.ctx s.tile.ttag sc ps inst b.ep && (b.done || s.allArrived b)
  let s := { s with barriers := s.barriers.filter fun b => !old b }
  match s.episode sc ps ep with
  | some _ =>
    { s with barriers := s.barriers.map fun b =>
        if b.is s.tile.ctx s.tile.ttag sc ps inst ep then { b with arrived := b.arrived ++ [me] } else b }
  | none =>
    { s with barriers := s.barriers ++
        [{ ctx := s.tile.ctx, ttag := s.tile.ttag, scope := sc, set := ps, inst := inst, ep := ep, arrived := [me] }] }

def Core.setBar (c : Core) (sc : Scope) (ps : PhaserSet) (b : BarState) : Core := { c with bars := vput c.bars (barIndex sc ps) b }

/-- The arrival of BARA and BAR: it waits at issue for an outstanding episode, then arrives with release (R216). -/
def State.barGo (s : State) (sc : Scope) (ps : PhaserSet) (k : State → BarState → Out) : Out :=
  let b := s.core.bars[barIndex sc ps]
  if b.out && !s.episodeDone sc ps (b.ep - 1) then s.stall
  else if s.core.acquiring || !s.releaseReady sc then s.stall
  else
    let b' : BarState := { ep := b.ep + 1, out := true }
    k { (s.barArrive sc ps b.ep) with core := s.core.setBar sc ps b' } b'

/-- R216 BARA. -/
def execBara (d : SReg) (sc : Scope) (ps : PhaserSet) (s : State) : Out :=
  if !psetHas ps s.sel then s.trapB .ill s.baseWord
  else if !s.core.ready [d] then s.stall
  else s.barGo sc ps fun s b => .next (s.setS d ((b.ep - 1).zeroExtend 64)).retire

/-- The wait of BARW and BAR for the outstanding episode: an entry of KIND 6. -/
def State.barWaitEntry (s : State) (i : Instr) (sc : Scope) (ps : PhaserSet) (b : BarState) (n : Fin 8) : State :=
  let e := { s.newEntry i 6 (BitVec.ofNat 64 (scopeCode sc + 8 * psetCode ps)) ((b.ep - 1).zeroExtend 64) with fabric := true, acq := true }
  { s with core := (s.core.setEntry n e).setBar sc ps { b with out := false } }

/-- R216 BARW. -/
def execBarw (d : SReg) (sc : Scope) (ps : PhaserSet) (s : State) : Out :=
  if !psetHas ps s.sel then s.trapB .ill s.baseWord
  else if !s.core.ready [d] || s.core.acquiring then s.stall
  else
    let b := s.core.bars[barIndex sc ps]
    if b.out then s.withEntry fun n => .next (s.barWaitEntry (.barw d sc ps) sc ps b n).retire
    else .next (s.setS d ((b.ep - 1).zeroExtend 64)).retire

/-- R216 BAR. -/
def execBar (d : SReg) (sc : Scope) (ps : PhaserSet) (s : State) : Out :=
  if !psetHas ps s.sel then s.trapB .ill s.baseWord
  else if !s.core.ready [d] then s.stall
  else s.withEntry fun n => s.barGo sc ps fun s b => .next (s.barWaitEntry (.bar d sc ps) sc ps b n).retire

/-- R216 BARRIER_EPISODE_COMPLETE: every participating core of the instance has arrived. -/
def execBarrierEpisodeComplete (sc : Scope) (ps : PhaserSet) (ep : BitVec 16) (s : State) : Out :=
  match s.episode sc ps ep with
  | some b =>
    if s.allArrived b then
      .next { s with barriers := s.barriers.map fun c => if c == b then { b with done := true } else c }
    else .next s
  | none => .next s

/-- The barrier that an entry waits for. -/
def barOf (i : Option Instr) : Option (Scope × PhaserSet) :=
  match i with
  | some (.bar _ sc ps) => some (sc, ps)
  | some (.barw _ sc ps) => some (sc, ps)
  | _ => none

/-- R216 BARRIER_RELEASE: the wait of entry e ends when its episode is complete. -/
def execBarrierRelease (e : Fin 8) (s : State) : Out :=
  let x := s.core.rq[e]
  match barOf x.op with
  | some (sc, ps) =>
    if x.v && x.fabric && s.episodeDone sc ps (x.w2.truncate 16) then .next (s.settleWord e x.w2) else .next s
  | none => .next s

/-- R211, R214 PHASER_RELEASE: the completion of a phase reaches the wait of entry e. -/
def execPhaserRelease (e : Fin 8) (phase : BitVec 16) (s : State) : Out :=
  let x := s.core.rq[e]
  let waits := match x.op with
    | some (.phwait _ _ _) => true
    | some (.phaw _ _ _) => true
    | _ => false
  if x.v && x.fabric && waits && x.w2 == phase.zeroExtend 64 then .next (s.settleWord e x.w2) else .next s

end Sys2Proof.Machine
end

