-- ==== Sys2Proof/Machine/Fabric.lean ====
section
/-! DEFINITION. The delivery of packets: sequence windows, acceptance at a tile, at a module and at an engine, replies, retries, leases,
the homes of atomics and phasers, the region firewall (04_control R104, 05_memory R137, 07_messages R160, R175-R188, 08_sync
R196-R200, R205, R212). -/

namespace Sys2Proof.Machine

/-! ### The outcome of an arrival -/

/-- A packet that is performed (with the reply that the window caches, R178), that waits at its destination, or that is answered with
retry. -/
inductive Took where
  | done (s : State) (r : Option Body)
  | wait (s : State)
  | again (s : State)

/-- Discarded and counted at the tile in focus, with a delivery-error report (R104, R160, R178). -/
def State.misdelivered (s : State) (p : Packet) : State :=
  State.report { s with tile := s.tile.drp } s.myRegion repDelivery s.tile.hnd s.mySite s.tile.drp.discarded (pktWord0 p) (pktWord1 p)

/-- Performed and acknowledged. -/
def State.acked (s : State) (p : Packet) : Took := .done (s.reply p (.ack false)) none

/-! ### Messages (04 R104, 07 R160) -/

/-- R104, after the check of the tags, for core k of the tile in focus. -/
def State.acceptMsg (s : State) (p : Packet) (k : CoreSel) (b : Fin 16) (bs : List Byte) (pm : BitVec 32) : Took :=
  let t := (s.ownCore k).berths[b]
  if !t.valid || t.vc.toNat + 3 != p.vc.val then (s.misdelivered p).acked p
  else if t.quota.toNat ≤ t.inbox.length then .wait s
  else
    let m : Msg := { h0 := (pktWord0 p), h1 := (pktWord1 p), h2 := (pktWord2 p), h3 := (pktWord3 p), payload := bs, pmask := pm, order := s.now }
    let s := { s with tile := { s.tile with arrivals := s.tile.arrivals + 1 } }
    (s.modOwn k fun c => { c with berths := vput c.berths b { t with inbox := t.inbox ++ [m] } }).acked p

/-- The payload of a tile-to-ring message with the poison of its halves. -/
def pmBytes (bs : List Byte) (pm : BitVec 32) : List PByte :=
  (upto bs.length).map fun j => ((bs[j]?).getD 0, pm.getLsbD (j / 32))

/-- R160, after the check of the tags. An RPSH that has not advanced TAIL leaves its slot unfilled for it (12 R293). Log entry 36
(DEDUCED). -/
def State.acceptRing (s : State) (p : Packet) (h : Ring) (bs : List Byte) (pm : BitVec 32) : Took :=
  let r := s.tile.ring h
  if r.nslot == 0 then (s.misdelivered p).acked p
  else if r.free == 0 then .wait s
  else
    let o := r.slotAt r.tail.toNat
    match s.tile.leasedOut o 1024 with
    | some d => .wait (s.recall d)
    | none =>
      let t := s.tile.store s.fresh o ((pmBytes bs pm).map some)
      let s := { s with tile := t.setRing h ((t.ring h).push 1), fresh := s.fresh + 1 }
      s.acked p

/-! ### Atomics at home (08 R196-R198) -/

/-- Steps 1 to 3 of R196: the predictor after a request by a handle, the least recently used of 16 entries making room. -/
def Tile.predict (t : Tile) (sec : Nat) (h : W32) (leased : Bool) : Tile :=
  let e := (t.predictor.find? fun e => e.sector == sec).getD { sector := sec, last := h, count := 0 }
  let known := t.predictor.any fun e => e.sector == sec
  let bump (c : BitVec 2) : BitVec 2 := if c == 3 then 3 else c + 1
  let c := if !known then e.count else if e.last != h then bump e.count else if e.count == 0 then 0 else e.count - 1
  let c := if leased then bump c else c
  { t with predictor := ({ sector := sec, last := h, count := c } :: t.predictor.filter fun e => e.sector != sec).take 16 }

def Tile.counterOf (t : Tile) (sec : Nat) : Nat :=
  match t.predictor.find? fun e => e.sector == sec with | some e => e.count.toNat | none => 0

/-- Whether step 5 of R196 grants a lease. -/
def Tile.grants (t : Tile) (sec : Nat) (leasable wrote : Bool) : Bool :=
  decide (t.counterOf sec ≤ 1) && leasable && decide (t.leaseDir.length < 16) && wrote

/-- A remote atomic at the home in focus; `seen` says that the predictor has been updated for it. -/
def State.atomAtHome (s : State) (p : Packet) (seen : Bool) (op : AtomOp) (w leasable : Bool) (o : Nat) (x e : Word) : Took :=
  let n := if w then 4 else 8
  let sec := o / 32
  let out := s.tile.leasedOut o n
  let s := if seen then s else s.modTile fun t => t.predict sec p.shnd out.isSome
  match out with
  | some d => .wait (s.recall d)
  | none =>
    if s.tile.heldWrite o (plain (leBytes n 0)) then .wait s
    else
      let r := s.tile.atomic s.fresh op w o x e
      let t := r.2
      let grant := t.grants sec leasable r.1.wrote
      let t := if grant then t.ecc s.fresh (32 * sec) 32 else t
      let b : Body := .old r.1.old r.1.bad (if grant then some (sec, t.slice.readMany (32 * sec) 32, t.poison.contains sec) else none)
      let at' := routerOf p.src
      let t := if grant then { t with leaseDir := t.leaseDir ++ [{ sector := sec, x := at'.1, y := at'.2 }] } else t
      .done (State.reply { s with tile := t, fresh := s.fresh + 1 } p b) (some b)

/-! ### Phasers at home (08 R205, R211, R212) -/

/-- The completion of a wait: a response on VC2 to the entry of the waiter. -/
def phDone (src : Endpoint) (hnd : W32) (ctx ttag part : Nat) (gen : BitVec 16) (r : PhReq) : Packet :=
  { vc := 2, dst := .tile r.mx r.my, dcore := r.mcore, src := src, score := .stage, shnd := 0, ctx := ctx, ttag := ttag, part := part,
    seq := 0, opn := false, age := 0, gen := gen, ent := r.ent % 8, req := r.ent / 8, avc := 0, body := .completed (r.phase.zeroExtend 64),
    rhnd := hnd }

/-- The answer of a home to a request: what it answers, the phaser and the waits that end. -/
def Phaser.serve (h : Phaser) (b : Body) (ctx ttag : Nat) : PhAns × Phaser × List PhReq :=
  match b with
  | .phArrive r => h.arrive r ctx ttag
  | .phWait r => h.wait r ctx ttag
  | .phReg r =>
    let x := h.register r ctx ttag
    (x.1, x.2, [])
  | .phQry r => (.value (h.status r ctx ttag), h, [])
  | _ => (.ack, h, [])

def phReqOf : Body → Option PhReq
  | .phArrive r | .phWait r | .phReg r | .phQry r => some r
  | _ => none

/-- A request at the home tile in focus. -/
def State.phAtHome (s : State) (p : Packet) (r : PhReq) : Took :=
  let k : Fin 8 := Fin.ofNat 8 r.slot
  let a := s.tile.phasers[k].serve p.body p.ctx p.ttag
  let s := s.modTile fun t => { t with phasers := vput t.phasers k a.2.1 }
  let s := { s with net := s.net ++ a.2.2.map (phDone s.tile.id.endpoint s.tile.hnd p.ctx p.ttag p.part s.routeGen) }
  match a.1 with
  | .ack => .done (s.reply p (.ack false)) (some (.ack false))
  | .retry => if spilled p then .wait s else .again (s.reply p .retry)
  | .value v => .done (s.reply p (.value v)) (some (.value v))
  | .later => .wait s

/-! ### Performing a packet at a tile -/

/-- The sector that a lease returns is written, and its directory entry is freed (R198). Log entry 39 (DEDUCED). -/
def State.giveBack (s : State) (p : Packet) (sec : Nat) (bs : List Byte) (bad : Bool) : State :=
  let t := s.tile.store s.fresh (32 * sec) (bs.map fun b => some (b, bad))
  let at' := routerOf p.src
  let t := { t with leaseDir := t.leaseDir.filter fun d => !(d.sector == sec && d.x == at'.1 && d.y == at'.2) }
  { s with tile := t, fresh := s.fresh + 1 }

/-- Performs a packet at the tile in focus (R104, R137, R160, R178, R196, R198, R205). -/
def State.performTile (s : State) (p : Packet) (seen : Bool) : Took :=
  match p.body with
  | .msg .tileToRing _ h _ _ _ bs pm => s.acceptRing p h bs pm
  | .msg _ b _ k _ _ bs pm => s.acceptMsg p k b bs pm
  | .read pos o n =>
    match s.tile.leasedOut o n with
    | some d => .wait (s.recall d)
    | none =>
      let t := s.tile.ecc s.fresh o n
      .done (State.reply { s with tile := t, fresh := s.fresh + 1 } p (.data pos (t.bytes o n))) none
  | .write o bs =>
    match s.tile.leasedOut o bs.length with
    | some d => .wait (s.recall d)
    | none =>
      if s.tile.heldWrite o bs then .wait s
      else State.acked { s with tile := s.tile.store s.fresh o bs, fresh := s.fresh + 1 } p
  | .atomic op w l o x e => s.atomAtHome p seen op w l o x e
  | .writeBack sec bs bad =>
    if seen || decide (2 ≤ p.taken.val) then s.acked p
    else if s.tile.heldWrite (32 * sec) (plain bs) then .wait s
    else (s.giveBack p sec bs bad).acked p
  | b =>
    match phReqOf b with
    | some r => s.phAtHome p r
    | none => s.acked p

/-! ### Sequence windows (R178) -/

def SeqWindow.is (w : SeqWindow) (p : Packet) : Bool := w.hnd == p.shnd && w.core == p.score && w.vc == p.vc && w.tag == p.stag

def findWindow (ws : List SeqWindow) (p : Packet) : Option SeqWindow := ws.find? fun w => w.is p

/-- What the window says of an arriving packet. -/
inductive Seq where
  | absent | next | early | known | repeated | outside
  deriving DecidableEq, Repr, Inhabited

def seqOf (ws : List SeqWindow) (p : Packet) : Seq :=
  match findWindow ws p with
  | none => .absent
  | some w =>
    let k := (p.seq - w.e).toNat
    if k == 0 then .next
    else if k ≤ 63 then (if w.held.any (fun q => q.seq == p.seq) then .known else .early)
    else if 65472 ≤ k then .repeated
    else .outside

def modWindow (ws : List SeqWindow) (p : Packet) (f : SeqWindow → SeqWindow) : List SeqWindow :=
  ws.map fun w => if w.is p then f w else w

/-- Entry E is done; a result is cached among the last 64. Log entry 35 (DEDUCED). -/
def SeqWindow.advance (w : SeqWindow) (p : Packet) (r : Option Body) : SeqWindow :=
  let c := match r with | some b => w.cache ++ [(p.seq, b)] | none => w.cache
  { w with e := w.e + 1, cache := if 64 < c.length then c.drop 1 else c, held := w.held.filter fun q => q.seq != p.seq }

/-- A packet that was performed: the window goes on, and a close frees it (R179). -/
def windowDone (ws : List SeqWindow) (p : Packet) (r : Option Body) : List SeqWindow :=
  if p.body == .close then ws.filter fun w => !(w.is p) else modWindow ws p fun w => w.advance p r

/-- Bytes of the hold pool that windows use. -/
def heldBytes (ws : List SeqWindow) : Nat := ws.foldl (fun n w => w.held.foldl (fun n q => n + pktBytes q.body) n) 0

/-- The early packet that is now the window's next. -/
def nextHeld (ws : List SeqWindow) (p : Packet) : Option Packet :=
  match findWindow ws p with
  | some w => w.held.find? fun q => q.seq == w.e
  | none => none

/-- A packet already performed: a read is performed again, an atomic is answered from the cache, others as duplicates. -/
def repeatReply (ws : List SeqWindow) (p : Packet) : Body :=
  match findWindow ws p with
  | some w => (match w.cache.find? fun c => c.1 == p.seq with | some c => c.2 | none => .ack true)
  | none => .ack true

def isAtomicBody : Body → Bool
  | .atomic _ _ _ _ _ _ => true
  | _ => false

/-- Whether a wait is at the slice port (VC1) or at the local port (VC3-VC6). -/
def State.putWait (s : State) (p : Packet) (seen : Bool) : State :=
  if p.vc == 1 then { s with tile := { s.tile with heldWrites := s.tile.heldWrites ++ [(p, seen)] } }
  else { s with tile := { s.tile with portWait := s.tile.portWait ++ [p] } }

/-- The core that a packet is for. -/
def pktCore (p : Packet) : CoreSel :=
  match p.body with
  | .msg .tileToRing _ _ _ _ _ _ _ => .stage
  | .msg _ _ _ c _ _ _ _ => c
  | _ => p.dcore

/-- The packets of the window that follow are performed while they are held. -/
def windowDrain : Nat → Packet → State → State
  | 0, _, s => s
  | n + 1, p, s =>
    match nextHeld s.tile.windows p with
    | none => s
    | some q =>
      match s.performTile q false with
      | .done s r => windowDrain n p { s with tile := { s.tile with windows := windowDone s.tile.windows q r } }
      | .again s => { s with tile := { s.tile with windows := modWindow s.tile.windows q fun w => { w with held := w.held.filter fun h => h.seq != q.seq } } }
      | .wait s =>
        State.putWait { s with tile := { s.tile with
          windows := modWindow s.tile.windows q fun w => { w with held := w.held.filter fun h => h.seq != q.seq } } } q (isAtomicBody q.body)

/-- The expected packet: performed, with those held behind it; or it waits, the state saying what was asked for meanwhile. -/
def State.windowNext (s : State) (p : Packet) (seen : Bool) : Bool × State :=
  match s.performTile p seen with
  | .done s r => (false, windowDrain 64 p { s with tile := { s.tile with windows := windowDone s.tile.windows p r } })
  | .again s => (false, s)
  | .wait s => (true, s)

/-- The packet of a returned lease that is written already: only its number is still to be taken. -/
def markReturned (p : Packet) (seen : Bool) : Packet :=
  match seen, p.body with
  | true, .writeBack _ _ _ => { p with taken := if spilled p then 2 else 3 }
  | _, _ => p

/-- A packet at the window of the tile in focus; true where it waits. One from the spill queue, acknowledged already, is not put off for
lack of a window or of room: log entry 37 (DESIGN CHOICE). -/
def State.tileWindow (s : State) (p : Packet) (seen : Bool) : Bool × State :=
  match seqOf s.tile.windows p with
  | .absent =>
    if !p.opn then (false, s)
    else if 128 ≤ s.tile.windows.length && !spilled p then (false, s.reply p .retry)
    else
      State.windowNext { s with tile := { s.tile with
        windows := s.tile.windows ++ [{ hnd := p.shnd, core := p.score, vc := p.vc, tag := p.stag, part := p.part }] } } p seen
  | .next => s.windowNext p seen
  | .known => (false, { s with tile := { s.tile with dups := s.tile.dups + 1 } })
  | .early =>
    if 16384 < heldBytes s.tile.windows + pktBytes p.body && !spilled p then (false, s.reply p .retry)
    else (false, { s with tile := { s.tile with windows := modWindow s.tile.windows p fun w => { w with held := w.held ++ [markReturned p seen] } } })
  | .repeated =>
    let s := { s with tile := { s.tile with dups := s.tile.dups + 1 } }
    match p.body with
    | .read pos o n =>
      match s.tile.leasedOut o n with
      | some d => (true, s.recall d)
      | none =>
        let t := s.tile.ecc s.fresh o n
        (false, State.reply { s with tile := t, fresh := s.fresh + 1 } p (.data pos (t.bytes o n)))
    | _ => (false, s.reply p (repeatReply s.tile.windows p))
  | .outside => (false, s.misdelivered p)

/-- Whether an earlier packet waits before this one: on the same VC for the same core (R104), or in the same stream (R137). -/
def waitsBehind (p q : Packet) : Bool :=
  p.vc == q.vc && (if p.vc == 1 then p.shnd == q.shnd && p.score == q.score else pktCore p == pktCore q)

/-- Whether a packet that waits at the slice port waits for a lease to come back. -/
def Tile.awaitsLease (t : Tile) (p : Packet) : Bool :=
  (match p.body with
    | .read _ o n => t.leasedOut o n
    | .write o bs => t.leasedOut o bs.length
    | .atomic _ w _ o _ _ => t.leasedOut o (if w then 4 else 8)
    | _ => none).isSome

/-- A returned lease that waits behind an access of its own stream which waits for a lease: it is written at once, so that the access can go
on (R198); the packet itself keeps its place. Behind an access that waits for a held slot it waits, as R137 has it. -/
def State.bypass (s : State) (p : Packet) : State :=
  let ahead := s.tile.heldWrites.find? fun w => waitsBehind p w.1 && w.1 != p
  let again := s.tile.heldWrites.any fun w => w.1.seq == p.seq && w.1 != p && waitsBehind p w.1
  let new := match seqOf s.tile.windows p with | .next | .early => true | _ => false
  match ahead, p.body with
  | some w, .writeBack sec bs bad =>
    if s.tile.awaitsLease w.1 && new && !again && !s.tile.heldWrite (32 * sec) (plain bs) then
      let s := s.giveBack p sec bs bad
      { s with tile := { s.tile with heldWrites := s.tile.heldWrites.map fun w => if w.1 == p then (p, true) else w } }
    else s
  | _, _ => s

/-- The returned leases among the packets that wait. -/
def State.bypassAll (s : State) : State :=
  (s.tile.heldWrites.filter fun w => !w.2).foldl (fun s w => s.bypass w.1) s

/-- A request or message reaches the tile in focus, whose team it is for. -/
def State.arriveTile (s : State) (p : Packet) : State :=
  if s.tile.portWait.any (waitsBehind p) || s.tile.heldWrites.any (fun w => waitsBehind p w.1) then (s.putWait p false).bypassAll
  else
    let r := s.tileWindow p false
    if r.1 then r.2.putWait p (isAtomicBody p.body) else r.2

/-- A request or message reaches the tile id, whose team it is for. -/
def State.arriveAtTile (s : State) (id : TileId) (p : Packet) : State := s.atCore id .stage fun s => s.arriveTile p

/-- The packets that wait with none before them. -/
def fronts : List (Packet × Bool) → List Packet → List (Packet × Bool)
  | [], _ => []
  | p :: r, seen => if seen.any (waitsBehind p.1) then fronts r seen else p :: fronts r (p.1 :: seen)

/-- Takes a packet from those that wait. -/
def Tile.unwait (t : Tile) (p : Packet) : Tile :=
  { t with portWait := t.portWait.erase p, heldWrites := t.heldWrites.filter fun w => w.1 != p }

/-- The first of the packets that can now be performed is performed. -/
def tryWaiting : List (Packet × Bool) → State → State
  | [], s => s
  | p :: r, s =>
    let x := s.tileWindow p.1 p.2
    let y := x.2
    if x.1 then
      tryWaiting r { y with tile := { y.tile with
        heldWrites := y.tile.heldWrites.map fun w => if w.1 == p.1 && isAtomicBody p.1.body then (w.1, true) else w } }
    else { y with tile := y.tile.unwait p.1 }

end Sys2Proof.Machine
end

