-- ==== Sys2Proof/Machine/Reliability.lean ====
section
/-! DEFINITION. Reliability instructions and events: containment, the check point, signatures, test injection, lockstep, the scrubber
(05_memory R125, 14_reliability R338-R357). -/

namespace Sys2Proof.Machine

/-! ### Containment regions (R340-R345) -/

def scalars : List SReg := [1, 2, 3, 4, 5, 6, 7, 8, 9, 10, 11, 12, 13, 14, 15]

/-- R342 CRO. -/
def execCro (imm : Int) (s : State) : Out :=
  let target := s.target imm
  if s.core.tr.level.val != 0 then s.trapB .ill s.core.pc
  else if 4 ≤ s.core.frames.length || decide (0x80000 ≤ target.toNat) then s.trapB .bnd target
  else if !s.core.ready scalars then s.stall
  else
    let f : ContFrame := { handler := target.truncate 19, regs := s.core.regs, live := s.core.live }
    .next (State.retire { s with core := { s.core with frames := f :: s.core.frames } })

/-- Whether a unit operation belongs to the current trap level. -/
def Core.atLevel (c : Core) (u : UnitOp) : Bool := if h : u.ent < 8 then c.rq[u.ent].lvl == c.tr.level else true

/-- Whether every entry and unit operation of the current level has retired (R340, R343). -/
def Core.quiet (c : Core) : Bool := c.claims.isEmpty && !c.unit.ops.any c.atLevel

/-- R343 CRC. -/
def execCrc (s : State) : Out :=
  if s.core.tr.level.val != 0 || s.core.frames.isEmpty then s.trapB .ill s.core.pc
  else s.when s.core.quiet (.next (State.retire { s with core := { s.core with frames := s.core.frames.drop 1 } }))

/-- R340 CHKE. -/
def execChke (d a : SReg) (s : State) : Out :=
  if !s.core.ready [d, a] then s.stall
  else s.when s.core.quiet
    (let v := s.tile.cki
     let m : Word := ~~~(s.S a &&& 0x3F)
     .next (State.setS { s with tile := { s.tile with cki := v &&& m } } d v).retire)

/-- R345 CONTAINMENT_UNWIND: an event of R344 at the core in focus, in an open region. -/
def execContainmentUnwind (u : UCause) (s : State) : Out := .next (if s.core.inRegion then s.unwind u s.core.bofs else s)

/-- R311, R319, R367 DEFERRED_EVENT: it is taken at the bundle boundary, before any fault of the next bundle. -/
def execDeferredEvent (s : State) : Out :=
  match s.core.tr.deferred with
  | none => .next s
  | some d =>
    let s := { s with core := { s.core with tr := { s.core.tr with deferred := none } } }
    .next (s.fault d.cause d.va s.core.pc true (d.va.truncate 19))

/-! ### Signatures (R347, R348) -/

/-- Folds into the signature of the core. -/
def State.signed (s : State) (ws : List Word) : Out := .next (State.retire { s with core := s.core.fold ws })

/-- R348 SIG.s. -/
def execSigS (a : SReg) (s : State) : Out := if s.core.ready [a] then s.signed [s.S a] else s.stall

/-- R348 SIG.r: a poisoned half folds as zero bytes. -/
def execSigR (a : RCode) (base : Fin 16) (bank : Bool) (s : State) : Out :=
  let r := match rowSel s.sel a base bank 0 with | .bc => RowSel.ill | x => x
  if !s.core.rowFree r then s.stall
  else (s.rowChk [r]).run s fun _ => s.signed (foldBytes (s.core.rowVal r 8 0).bytes)

/-- R348 SIG.t: the staging core has t0-t3. -/
def execSigT (t : TReg) (s : State) : Out :=
  if s.sel == .stage && decide (3 < t.val) then s.trapB .ill s.baseWord
  else if s.core.busyT t.val then s.stall
  else s.signed (foldBytes (s.core.T t.val).bytes)

/-- R348 SIG.rd. -/
def execSigRd (d : SReg) (s : State) : Out := s.alu d [] s.core.sig

/-! ### Test injection (R356) -/

/-- The bits of S(a) that a kind uses. -/
def injMask (k : Nat) : Word := match k with | 0 => 0xFF1F | 1 => 0x7FFFB | 2 => 0x1F | _ => 0x7

/-- Whether S(b) is a value of the kind. -/
def injArg (k : Nat) (y : Word) : Bool :=
  match k with | 0 => decide (y.toNat < 32) | 1 => decide (y.toNat < 72) | _ => y == 0

/-- The stored bit b of word w flips; flipped twice it is as it was. -/
def flipOnce (fs : List (Nat × Nat)) (w b : Nat) : List (Nat × Nat) :=
  if fs.contains (w, b) then fs.filter (· != (w, b)) else fs ++ [(w, b)]

/-- The link of the router of the tile in focus at a port. -/
def State.linkOf (s : State) (p : Fin 6) : Link := { x := s.tile.id.xy.1, y := s.rowOf s.tile.id.xy.1 s.tile.id.xy.2, port := p }

/-- A kind-0 INJ joins the matrix unit without an entry. -/
def State.injUnit (s : State) (a b : SReg) (x y : Word) : Out :=
  if s.sel != .comp then s.trapB .ill s.core.pc
  else if s.core.unit.ops.any fun u => !u.started then s.stall
  else
    let u : UnitOp :=
      { ent := 8, op := .inj a b, fmta := 0, fmtb := 0, kmd := 0, krho := 0, scla := 0, sclb := 0, gtb := 0,
        scalar := BitVec.ofNat 64 (x.toNat % 2 ^ 32 + 2 ^ 32 * y.toNat), na := 0, nb := 0, since := s.cyc }
    .next (State.retire { s with core := { s.core with unit := { s.core.unit with ops := s.core.unit.ops ++ [u] } } })

/-- R356 INJ. -/
def execInj (a b : SReg) (s : State) : Out :=
  if !(s.privileged || s.tile.modes.testInj) then s.trapB .priv s.core.pc
  else if !s.core.ready [a, b] then s.stall
  else
    let x := s.S a
    let y := s.S b
    let k := x.toNat % 4
    if x &&& ~~~(injMask k) != 0 || (k == 2 && decide (5 < x.toNat / 4)) then s.trapB .bnd x
    else if !injArg k y then s.trapB .bnd y
    else match k with
      | 0 => s.injUnit a b x y
      | 1 => .next (s.modTile fun t => { t with flips := flipOnce t.flips (x.toNat / 8) y.toNat }).retire
      | 2 => .next (s.failLink (s.linkOf (Fin.ofNat 6 (x.toNat / 4)))).retire
      | _ =>
        if x.getLsbD 2 then .next (State.retire { s with core := { s.core with injMat := true } })
        else .next (State.retire { s with core := { s.core with injRow := true } })

/-! ### The scrubber (R125) -/

/-- R125 SCRUB_TICK: the scrubber of the tile in focus reads its next word; the quay reports what it finds (`State.watchErrors`). -/
def execScrubTick (s : State) : Out :=
  let t := s.tile.readWordEcc s.fresh s.tile.scrubPos.toNat
  .next { s with tile := { t with scrubPos := s.tile.scrubPos + 1 }, fresh := s.fresh + 1 }

/-- R125: the own ECC of an edge memory module finds an uncorrectable error, and the port controller keeps the sector poisoned. The table has
no event of its own for it, so it is a form of R125's event. Log entry 67 (DESIGN CHOICE). -/
def execScrubModule (found : ModuleError) (s : State) : Out :=
  .next (s.putCtx found.ctx ((s.ctx found.ctx).poisonFar found.copy found.ofs))

/-! ### Lockstep (R350-R353) -/

/-- R352, R353 LOCKSTEP_MISMATCH: an error upsets one of the copies of the core in focus, so that their next comparison (`State.compared`)
disagrees, and after `again` that of the re-execution too. Log entry 44 (DESIGN CHOICE). -/
def execLockstepMismatch (again : Bool) (s : State) : Out :=
  .next (if s.tile.modes.lockstep then { s with core := { s.core with upset := if again then 2 else 1 } } else s)

end Sys2Proof.Machine
end

