-- ==== Sys2Proof/Machine/Image.lean ====
section
/-! DEFINITION. The image of a core and CTXSV and CTXLD (15_system R379, R380). -/

namespace Sys2Proof.Machine

/-! ### Writing an image (R379) -/

def clean (bs : List Byte) : List PByte := bs.map fun b => (b, false)

def dword (n : Nat) : List PByte := clean (leBytes 8 n)

/-- The poison mask of rows with w bits each: bit w*i + h for half (quarter) h of row i. -/
def maskOfRows (w : Nat) (bad : List Nat) : Nat := (bad.foldl (fun (a : Nat × Nat) b => (a.1 + b * 2 ^ (w * a.2), a.2 + 1)) (0, 0)).1

/-- The tile registers that a core has. -/
def tilesOf (k : CoreSel) : List (Fin 16) :=
  match k with
  | .stage => [0, 1, 2, 3]
  | .comp => [0, 1, 2, 3, 4, 5, 6, 7, 8, 9, 10, 11, 12, 13, 14, 15]

def fin8s (k : CoreSel) : List (Fin 8) := match k with | .stage => [] | .comp => [0, 1, 2, 3, 4, 5, 6, 7]
def fin4s (k : CoreSel) : List (Fin 4) := match k with | .stage => [] | .comp => [0, 1, 2, 3]

/-- The bytes of a moment row with the poison of its quarters. -/
def KRowVal.bytes (v : KRowVal) : List PByte := (upto 128).map fun j => (v.bits.extractLsb' (8 * j) 8, v.bad.getLsbD (j / 32))

/-- The two places of VALID and INT. Log entry 25 (DESIGN CHOICE). -/
def validPlace : Nat := Config.validBit.val
def intPlace : Nat := (validPlace + 1 + Config.intBit.val) % 64

def Acc.image (a : Acc) : List PByte :=
  (a.rows.toList.map RowVal.bytes).flatten ++ dword (maskOfRows 2 (a.rows.toList.map fun r => r.bad.toNat)) ++
    clean ((a.kc.toList.map fun x => leBytes 4 x.toNat).flatten) ++ clean ((a.kr.toList.map fun x => leBytes 4 x.toNat).flatten) ++
    dword ((if a.valid then 2 ^ validPlace else 0) + if a.int then 2 ^ intPlace else 0)

def TileReg.image (t : TileReg) : List PByte :=
  (t.rows.toList.map RowVal.bytes).flatten ++ dword (maskOfRows 2 (t.rows.toList.map fun r => r.bad.toNat))

def MomentReg.image (k : MomentReg) : List PByte :=
  (k.rows.toList.map KRowVal.bytes).flatten ++ dword (maskOfRows 4 (k.rows.toList.map fun r => r.bad.toNat))

/-- The live masks of header word 1. -/
def Core.liveMasks (c : Core) (k : CoreSel) : Nat :=
  c.live.toNat / 2 * 2 + (tilesOf k).foldl (fun n i => if c.rf.t[i].live then n + 2 ^ (16 + i.val) else n) 0 +
    (fin4s k).foldl (fun n i => if c.rf.o[i].live then n + 2 ^ (32 + i.val) else n) 0 +
    (if k == .comp && c.rf.l.live then 2 ^ 36 else 0) +
    (fin8s k).foldl (fun n i => if c.rf.c[i].live then n + 2 ^ (40 + i.val) else n) 0 +
    (fin8s k).foldl (fun n i => if c.rf.k[i].live then n + 2 ^ (48 + i.val) else n) 0

/-- The poison halves of header word 2. -/
def Core.rowMasks (c : Core) (k : CoreSel) : Nat :=
  (fin4s k).foldl (fun n i => if c.rf.o[i].live then n + 4 ^ i.val * c.rf.o[i].val.bad.toNat else n) 0 +
    if k == .comp && c.rf.l.live then 2 ^ 8 * c.rf.l.val.bad.toNat else 0

/-- The state section: the registers that the staging core lacks are 0 there. -/
def Core.stateSection (c : Core) (k : CoreSel) : List Word :=
  let r := c.sr
  let only (w : Word) : Word := if k == .comp then w else 0
  [r.conv, only r.ffl, only r.fctl, only r.mctl, only r.tola, only r.tolr, only r.fmta, only r.fmtb, only r.scla, only r.sclb, only r.gtb,
    only r.kmd, only r.krho, c.sig, 0, 0]

/-- The sections after the header. -/
def Core.sections (c : Core) (k : CoreSel) : List PByte :=
  ((scalars.filter fun r => c.live.getLsbD r.val).map fun r => dword c.regs[r].toNat).flatten ++
    ((tilesOf k).map fun i => if c.rf.t[i].live then c.rf.t[i].image else []).flatten ++
    ((fin4s k).map fun i => if c.rf.o[i].live then c.rf.o[i].val.bytes else []).flatten ++
    (if k == .comp && c.rf.l.live then c.rf.l.val.bytes else []) ++
    ((fin8s k).map fun i => if c.rf.c[i].live then c.rf.c[i].image else []).flatten ++
    ((fin8s k).map fun i => if c.rf.k[i].live then c.rf.k[i].image else []).flatten ++
    ((c.stateSection k).map fun w => dword w.toNat).flatten

/-- The image. -/
def Core.image (c : Core) (k : CoreSel) : List PByte :=
  let body := c.sections k
  dword (1 + (if k == .comp then 65536 else 0) + 2 ^ 32 * (body.length + 64)) ++ dword (c.liveMasks k) ++ dword (c.rowMasks k) ++
    clean (List.replicate 40 0) ++ body

/-! ### Reading an image -/

/-- Value of n bytes at o; a poisoned byte reads 0, and one past the end. -/
def imageNat (bs : List PByte) (o n : Nat) : Nat :=
  leNat ((upto n).map fun j => match bs[o + j]? with | some b => if b.2 then 0 else b.1 | none => 0)

/-- n bytes at o. -/
def imageBytes (bs : List PByte) (o n : Nat) : List PByte := (upto n).map fun j => (bs[o + j]?).getD (0, false)

/-- Sixteen rows at o with the mask that follows them. -/
def imageRows (bs : List PByte) (o : Nat) : Vector RowVal 16 :=
  Vector.ofFn fun i =>
    let v := RowVal.ofBytes (imageBytes bs (o + 64 * i.val) 64)
    { v with bad := v.bad ||| BitVec.ofNat 2 (imageNat bs (o + 1024) 8 / 4 ^ i.val % 4) }

def imageAcc (bs : List PByte) (o : Nat) : Acc :=
  let f := imageNat bs (o + 1160) 8
  { live := true, rows := imageRows bs o
    kc := Vector.ofFn fun i => BitVec.ofNat 32 (imageNat bs (o + 1032 + 4 * i.val) 4)
    kr := Vector.ofFn fun i => BitVec.ofNat 32 (imageNat bs (o + 1096 + 4 * i.val) 4)
    valid := f.testBit validPlace, int := f.testBit intPlace }

def imageMoment (bs : List PByte) (o : Nat) : MomentReg :=
  { live := true
    rows := Vector.ofFn fun i =>
      let r := imageBytes bs (o + 128 * i.val) 128
      let q (n : Nat) : Nat := if ((r.drop (32 * n)).take 32).any (·.2) then 2 ^ n else 0
      { bits := BitVec.ofNat 1024 (leNat (r.map fun b => if b.2 then 0 else b.1))
        bad := BitVec.ofNat 4 (Nat.lor (q 0 + q 1 + q 2 + q 3) (imageNat bs (o + 2048) 8 / 16 ^ i.val % 16)) } }

/-- Reads the sections of one kind, each of n bytes for a live register, from offset o; answers the offset after them. -/
def readSection {α : Type} (live : Nat) (bit : α → Nat) (n : Nat) (put : Core → α → Nat → Core) : List α → Core × Nat → Core × Nat
  | [], s => s
  | x :: xs, (c, o) => readSection live bit n put xs (if live.testBit (bit x) then (put c x o, o + n) else (c, o))

/-- The state section at o. -/
def Core.loadState (c : Core) (k : CoreSel) (bs : List PByte) (o : Nat) : Core :=
  let w (j m : Nat) : Word := BitVec.ofNat 64 (imageNat bs (o + 8 * j) 8 % 2 ^ m)
  let c := { c with sr := { c.sr with conv := w 0 32 }, sig := w 13 64 }
  if k == .stage then c
  else
    { c with sr := { c.sr with
        ffl := w 1 5, fctl := w 2 2, mctl := w 3 32 &&& 0xFFFFFF03, tola := w 4 32, tolr := w 5 32, fmta := w 6 3, fmtb := w 7 3,
        scla := w 8 19, sclb := w 9 19, gtb := w 10 19, kmd := w 11 3, krho := w 12 32 } }

/-- The registers that an image holds; every other register is dead. -/
def Core.loadImage (c : Core) (k : CoreSel) (bs : List PByte) : Core :=
  let live := imageNat bs 8 8
  let halves := imageNat bs 16 4
  let row (o n : Nat) : ORow :=
    let v := RowVal.ofBytes (imageBytes bs o 64)
    { live := true, val := { v with bad := v.bad ||| BitVec.ofNat 2 (halves / 4 ^ n % 4) } }
  let s := (c.killAll, 64)
  let s := readSection live (fun (r : SReg) => r.val) 8 (fun c r o => c.setS r (BitVec.ofNat 64 (imageNat bs o 8))) scalars s
  let s := readSection live (fun (i : Fin 16) => 16 + i.val) 1032
    (fun c i o => { c with rf := { c.rf with t := vput c.rf.t i { live := true, rows := imageRows bs o } } }) (tilesOf k) s
  let s := readSection live (fun (i : Fin 4) => 32 + i.val) 64
    (fun c i o => { c with rf := { c.rf with o := vput c.rf.o i (row o i.val) } }) (fin4s k) s
  let s := readSection live (fun (_ : Unit) => 36) 64 (fun c _ o => { c with rf := { c.rf with l := row o 4 } })
    (match k with | .stage => [] | .comp => [()]) s
  let s := readSection live (fun (i : Fin 8) => 40 + i.val) 1168
    (fun c i o => { c with rf := { c.rf with c := vput c.rf.c i (imageAcc bs o) } }) (fin8s k) s
  let s := readSection live (fun (i : Fin 8) => 48 + i.val) 2056
    (fun c i o => { c with rf := { c.rf with k := vput c.rf.k i (imageMoment bs o) } }) (fin8s k) s
  s.1.loadState k bs s.2

/-! ### CTXSV and CTXLD (R380) -/

/-- The effective pointer: LOCAL, TILE or EDGE, a multiple of 32. -/
def imagePtr (x : Word) : Chk Word :=
  (eaChk x 0).bind fun p => if 2 < ptrSpace p || ptrOfs p % 32 != 0 then .trap .bnd p else .ok p

/-- Privilege, the level and the open regions. -/
def State.ctxChk (s : State) (k : Out) : Out :=
  if !s.privileged then s.trapB .priv s.core.pc
  else if s.core.tr.level.val != 0 || !s.core.frames.isEmpty then s.trapB .ill s.core.pc
  else k

/-- Whether every replay-queue entry and unit operation of the core has retired. -/
def Core.settled (c : Core) : Bool := c.rq.toList.all (fun e => !e.v) && c.unit.ops.isEmpty && c.rpsh.isEmpty

/-- R380 CTXSV: the image is stored in one step, once the core's earlier stores are acknowledged. Log entry 24 (DESIGN CHOICE). -/
def execCtxsv (d a : SReg) (s : State) : Out :=
  s.ctxChk
    (if !s.core.ready [d, a] then s.stall
    else
      (imagePtr (s.S a)).run s fun p =>
        let bs := s.core.image s.sel
        (State.placeAll true [(0, p, bs.length)] s).run s fun (ps, s) =>
          if !s.core.settled || s.core.acquiring || !s.core.link.retry.isEmpty || s.partsHeld (bs.map some) ps then s.stall
          else match s.partsLeased ps with
            | some (id, l) => (s.recallAt id l).stall
            | none => .next (((s.writeParts (bs.map some) ps).chargeParts ps).setS d (BitVec.ofNat 64 bs.length)).retire)

/-- The greatest length of an image. Log entry 24 (DESIGN CHOICE). -/
def imageMax (k : CoreSel) : Nat := match k with | .stage => 4440 | .comp => 42936

/-- The header: FORM 1, the own core, LEN in range (the state section and the header are always there). -/
def headerOk (k : CoreSel) (w : Nat) : Bool :=
  w % 65536 == 1 && (w / 65536 % 2 == 1) == (k == .comp) && decide (192 ≤ w / 2 ^ 32) && decide (w / 2 ^ 32 ≤ imageMax k)

/-- R380 CTXLD. -/
def execCtxld (a : SReg) (s : State) : Out :=
  s.ctxChk
    (if !s.core.ready [a] then s.stall
    else
      (imagePtr (s.S a)).run s fun p =>
        (State.placeAll false [(0, p, 64)] s).run s fun (hs, s) =>
          if !s.core.settled || s.core.acquiring || !s.core.link.retry.isEmpty then s.stall
          else match s.partsLeased hs with
            | some (id, l) => (s.recallAt id l).stall
            | none =>
              let h := s.readParts hs
              let w := imageNat (gather 64 h.1) 0 8
              if !headerOk s.sel w then h.2.trapB .bnd p
              else
                let n := w / 2 ^ 32
                (State.placeAll false [(0, p, n)] h.2).run h.2 fun (ps, s) =>
                  match s.partsLeased ps with
                  | some (id, l) => (s.recallAt id l).stall
                  | none =>
                    let y := s.readParts ps
                    let bs := gather n y.1
                    let s := y.2.chargeParts ps
                    .next (s.consume (bs.any (·.2)) s.core.bofs fun s => State.retire { s with core := s.core.loadImage s.sel bs }))

end Sys2Proof.Machine
end

