-- ==== Sys2Proof/Machine/Trap.lean ====
section
/-! DEFINITION. Traps, the replay queue in a trap frame, TRET and re-injection, forwarding, breakpoints and single step
(15_system R362-R374, R387, R388). -/

namespace Sys2Proof.Machine

/-- R363 TRAP: SWT with TPC = NPC. -/
def execTrap (code : Nat) (s : State) : Out :=
  .next (s.fault .swt (BitVec.ofNat 64 code) s.core.npc false s.core.bofs)

/-- R366 TRAP_TAKE. -/
def execTrapTake (cause : Cause) (va tpc : Word) (dfr : Bool) (s : State) : Out := .next (s.takeTrap cause va tpc dfr)

/-! ### The replay-queue instructions (R371) -/

/-- Whether an entry belongs to a trap frame. -/
def Core.inFrame (c : Core) (e : Entry) : Bool := e.v && decide (e.lvl.val < c.tr.level.val)

def selEntry (j : Word) : Fin 8 := Fin.ofNat 8 (j.toNat % 8)
def selWord (j : Word) : Nat := j.toNat / 8 % 4

/-- R371 RPQRD. -/
def execRpqrd (d a : SReg) (s : State) : Out :=
  if s.core.tr.level.val == 0 then s.trapB .ill s.core.pc
  else
    let j := s.S a
    s.alu d [a] ((s.core.rq[(selEntry j)].words[(selWord j)]?).getD 0)

/-- An entry that leaves the queue for good: its words stay, nothing else does; its operations give up their binding. Log entry 30 (DEDUCED). -/
def State.vacate (s : State) (n : Fin 8) : State :=
  let e := s.core.rq[n]
  let e' : Entry :=
    { lvl := e.lvl, st := e.st, kind := e.kind, bofs := e.bofs, next := e.next, count := e.count, w1 := e.w1, w2 := e.w2, w3 := e.w3 }
  let c := s.core.setEntry n e'
  State.reheld { s with core := { c with unit := { ops := c.unit.ops.filter (·.ent != n.val), kept := c.unit.kept.filter (·.ent != n.val) } } }

/-- An invalid entry that a write of word 0 makes valid: it holds no request, and what the words do not give is a free value. Log entry 9 (DESIGN CHOICE). -/
def State.revive (s : State) (n : Fin 8) (e : Entry) : State :=
  let e := { e with
    v := true, lvl := Fin.ofNat 3 (s.core.tr.level.val - 1), op := none, fabric := false, parts := [], acq := false, issuing := false,
    resume := false, cap := Config.freeWord s.fresh, buf := (upto 2048).map fun k => (Config.freeByte (s.fresh + 1 + k), false) }
  { s with core := s.core.setEntry n e, fresh := s.fresh + 2049 }

/-- The fields that software writes of word 0. -/
def Entry.setWord0 (e : Entry) (v : Word) : Entry :=
  { e with bofs := v.truncate 19, st := v.extractLsb' 22 2, kind := v.extractLsb' 24 4, next := v.extractLsb' 32 16, count := v.extractLsb' 48 16 }

/-- Writes word w of entry n (R371). -/
def State.writeEntry (s : State) (n : Fin 8) (w : Nat) (v : Word) : State :=
  let e := s.core.rq[n]
  match w with
  | 0 =>
    let s' := s.putEntry n (e.setWord0 v)
    if v.getLsbD 19 then (if e.v then s' else s.revive n (e.setWord0 v)) else if e.v then s'.vacate n else s'
  | 1 => s.putEntry n { e with w1 := v }
  | 2 => s.putEntry n { e with w2 := v }
  | _ => s.putEntry n { e with w3 := v }

/-- Whether an entry may not be written: valid and of the current level. -/
def Core.ownEntry (c : Core) (n : Fin 8) : Bool := c.rq[n].v && decide (c.tr.level.val ≤ c.rq[n].lvl.val)

/-- R371 RPQWR. -/
def execRpqwr (a b : SReg) (s : State) : Out :=
  if s.core.tr.level.val == 0 then s.trapB .ill s.core.pc
  else if !s.core.ready [a, b] then s.stall
  else
    let j := s.S a
    if s.core.ownEntry (selEntry j) then s.trapB .ill s.core.pc
    else .next (s.writeEntry (selEntry j) (selWord j) (s.S b)).retire

/-- R371 RPQDRP. -/
def execRpqdrp (a : SReg) (s : State) : Out :=
  if s.core.tr.level.val == 0 then s.trapB .ill s.core.pc
  else if !s.core.ready [a] then s.stall
  else
    let n := selEntry (s.S a)
    if s.core.ownEntry n then s.trapB .ill s.core.pc
    else if s.core.rq[n].v then .next (s.vacate n).retire
    else .next s.retire

def allEntries : List (Fin 8) := [0, 1, 2, 3, 4, 5, 6, 7]

/-- R371 RPQLEN: the number of frame entries and their mask. Log entry 7 (DEDUCED). -/
def execRpqlen (d : SReg) (s : State) : Out :=
  if s.core.tr.level.val == 0 then s.trapB .ill s.core.pc
  else
    let f := allEntries.filter fun n => s.core.inFrame s.core.rq[n]
    s.alu d [] (BitVec.ofNat 64 (f.length + 256 * f.foldl (fun m n => m + 2 ^ n.val) 0))

/-! ### TRET (R372) -/

/-- The kinds of a bundle's entry (R369). -/
def kindsOf (i : Instr) : List Nat :=
  match i with
  | .div _ _ _ | .rem _ _ _ | .divu _ _ _ | .remu _ _ _ | .divw _ _ _ | .remw _ _ _ | .divuw _ _ _ | .remuw _ _ _ => [1]
  | .ldw _ _ _ _ | .ldd _ _ _ _ | .ldx _ _ _ _ _ | .ldxs _ _ _ _ _ | .cld _ _ _ _ _ | .ldt _ _ _ _ | .rtak _ _ _ _ => [2]
  | .ldr _ _ _ _ _ | .lds _ _ _ _ _ => [2, 5]
  | .amoaAdd _ _ _ _ _ | .amoaAnd _ _ _ _ _ | .amoaOr _ _ _ _ _ | .amoaXor _ _ _ _ _ | .amobMin _ _ _ _ _ | .amobMax _ _ _ _ _
  | .amobMinu _ _ _ _ _ | .amobMaxu _ _ _ _ _ | .amobSwap _ _ _ _ _ | .casW _ _ _ _ | .casD _ _ _ _ => [3]
  | .mmaAcc _ _ _ _ | .mmaOvw _ _ _ _ | .mmaKeepb _ _ _ _ | .mmaKeepa _ _ _ _ | .mmq _ _ _ _ _ | .mmg _ _ _ _ | .chkv _ _ | .cfix _ _
  | .csrd _ _ _ | .macz _ | .macrdF32 _ _ | .macrdBf16 _ _ _ | .macrdT8 _ _ _ _ | .macwr _ _ | .mtr _ _ | .kadd _ _ _ | .ksub _ _ _
  | .kmul _ _ _ | .kfma _ _ _ | .kaddd _ _ _ | .kscl _ _ _ | .kmuld _ _ _ | .kvsub _ _ _ | .knlRelu _ _ | .knlExp _ _ | .knlSig _ _
  | .knlSq _ _ | .knlRcp _ _ | .kmk _ _ _ _ | .kcolMean _ _ | .kcolVar _ _ | .kcolSdev _ _ | .kcolDraw _ _ _ _ _ _ | .kmmaDwAcc _ _ _ _ _
  | .kmmaMwAcc _ _ _ _ _ | .kmmaDwOvw _ _ _ _ _ | .kmmaMwOvw _ _ _ _ _ | .kacrd _ _ | .kred _ _ | .kmov _ _ | .kmovTr _ _ => [4]
  | .str _ _ _ _ _ | .sts _ _ _ _ _ | .sendS _ _ _ _ | .sendR _ _ _ _ _ | .sendT _ _ _ _ | .sendH _ _ _ | .rpsh _ _ _
  | .vadd _ _ _ _ _ | .vsub _ _ _ _ _ | .vmul _ _ _ _ _ | .vfma _ _ _ _ _ | .vmin _ _ _ _ _ | .vmax _ _ _ _ _ | .vand _ _ _ _ _
  | .vor _ _ _ _ _ | .vxor _ _ _ _ _ | .vshl _ _ _ _ _ | .vshr _ _ _ _ _ | .vceq _ _ _ _ _ | .vclt _ _ _ _ _ | .vcle _ _ _ _ _
  | .vsel _ _ _ _ _ | .vunaAbs _ _ _ _ | .vunaNeg _ _ _ _ | .vunaExp _ _ _ _ | .vunaLog2 _ _ _ _ | .vunaRcp _ _ _ _
  | .vunaRsq _ _ _ _ | .vunaTanh _ _ _ _ | .vunaSig _ _ _ _ | .vredSum _ _ _ _ | .vredMax _ _ _ _ | .vredMin _ _ _ _
  | .vredSsq _ _ _ _ | .vcvt _ _ _ _ _ | .vbc _ _ _ _ _ | .vmov _ _ _ | .vshuf _ _ _ _ _ | .vscan _ _ _ _ | .viota _ _ _ _
  | .vrot _ _ _ _ _ | .qnt _ _ _ _ _ _ | .dqn _ _ _ _ _ _ | .baq _ _ _ _ _ _ => [5]
  | .phwait _ _ _ | .phaw _ _ _ | .bar _ _ _ | .barw _ _ _ => [6]
  | .plq _ _ | .alloc _ _ _ | .phnew _ _ | .phreg _ _ _ | .phqry _ _ | .qsvcPing | .qsvcMap | .qsvcUnmap | .qsvcGroup | .qsvcYield
  | .qsvcReport | .qsvcDebug | .qsvcUnknown => [7]
  | .kldMp32 _ _ | .kldMb16 _ _ => [8]
  | _ => []

/-- The bundle at a slice offset, with its length in words; none where it does not decode (R40), or where the offset is odd, at which no
bundle starts (02 R38). -/
def State.bundleAt (s : State) (o : BitVec 19) : Option (Instr × Nat) × State :=
  if o.getLsbD 0 then (none, s) else
  let r := fetchWords 5 (o.zeroExtend 64) s
  match decode r.1.words with
  | .instr i n => (some (i, n), r.2)
  | _ => (none, r.2)

/-- The operation that an entry names, or none where TRET takes ILL on it. -/
def State.entryOp (s : State) (n : Fin 8) : Option (Instr × Nat) × State :=
  let e := s.core.rq[n]
  match s.bundleAt e.bofs with
  | (some (i, k), s) =>
    if !(kindsOf i).contains e.kind.toNat || (e.kind == 3 && e.st == 0 && !e.fabric) then (none, s) else (some (i, k), s)
  | (none, s) => (none, s)

/-- The operations of the valid entries of a level; the first entry without one stops with its BOFS. -/
def State.entryOps (lvl : Fin 3) : List (Fin 8) → State → Except (BitVec 19) (List (Fin 8 × Instr × Nat)) × State
  | [], s => (.ok [], s)
  | n :: r, s =>
    if s.core.rq[n].v && s.core.rq[n].lvl == lvl then
      match s.entryOp n with
      | (none, s) => (.error s.core.rq[n].bofs, s)
      | (some (i, k), s) =>
        match State.entryOps lvl r s with
        | (.ok xs, s) => (.ok ((n, i, k) :: xs), s)
        | (.error e, s) => (.error e, s)
    else State.entryOps lvl r s

/-- Whether the unit holds an operation of entry n. -/
def Core.inUnit (c : Core) (n : Fin 8) : Bool := c.unit.ops.any fun u => u.ent == n.val

/-- Re-injection of one entry of the level that is current again (R372): retired, its result written, or resumed. A REP bundle that
still issues iterations goes on when the pc comes to it, and one that the pc has left is issued again from the entry. Log entry 10 (DEDUCED). -/
def State.reinject (s : State) (x : Fin 8 × Instr × Nat) : State :=
  let n := x.1
  let e := s.core.rq[n]
  if !e.v || e.lvl != s.core.tr.level then s
  else
    let here := s.core.pc == e.bofs.zeroExtend 64
    let under := here && (e.issuing || (e.op.isNone && decide (1 < e.count.toNat)))
    let e := { e with op := some x.2.1, issuing := false, resume := false }
    let s := s.putEntry n e
    if s.core.inUnit n then s.putEntry n { e with st := 0, issuing := under && decide (e.next.toNat < e.count.toNat), resume := !under && decide (e.next.toNat < e.count.toNat) && decide (1 < e.count.toNat) }
    else if e.count.toNat ≤ e.next.toNat then
      let s := { s with core := s.core.dropEntry n }
      if here && (under || e.kind == 5) then { s with core := { s.core with pc := s.core.pc + BitVec.ofNat 64 (2 * x.2.2) } } else s
    else if e.st == 1 && e.kind != 4 && e.kind != 5 then
      let s := s.retireEntry n
      let x := s.core.rq[n]
      if x.v && decide (1 < x.count.toNat) then s.putEntry n { x with issuing := under, resume := !under } else s
    else if e.kind == 1 || e.fabric then s.putEntry n { e with st := 0, issuing := under }
    else if under || (e.kind == 5 && here) then s.putEntry n { e with st := 0, issuing := true }
    else s.putEntry n { e with st := 0, resume := true }

/-- R372 TRET. -/
def execTret (s : State) : Out :=
  let t := s.core.tr
  if t.level.val == 0 then s.trapB .ill s.core.pc
  else if !s.core.claims.isEmpty then s.stall
  else
    let tpc := if t.level.val == 1 then t.tpc1 else t.tpc2
    if tpc.getLsbD 0 then s.trapB .ill s.core.pc
    else
      let lvl : Fin 3 := Fin.ofNat 3 (t.level.val - 1)
      match State.entryOps lvl allEntries s with
      | (.error o, s) => s.trapB .ill (o.zeroExtend 64)
      | (.ok xs, s) =>
        let s := { s with core := { s.core with
          pc := tpc, issued := false, iabSkip := true
          tr := { s.core.tr with level := lvl, sstep := lvl.val == 0 && t.tca1.getLsbD 8 } } }
        .next (xs.foldl State.reinject s)

/-! ### Resuming an entry whose request must leave again (R372) -/

/-- The pointer parts of a load from its entry's words, and the bytes in all. -/
def loadParts (i : Instr) (w1 w2 : Word) : List (Nat × Word × Nat) × Nat :=
  match i with
  | .ldw _ _ _ _ => ([(0, w1, 4)], 4)
  | .ldd _ _ _ _ => ([(0, w1, 8)], 8)
  | .ldx z _ _ _ _ | .ldxs z _ _ _ _ | .cld z _ _ _ _ => ([(0, w1, sizeBytes z)], sizeBytes z)
  | .lds _ _ _ _ _ => (maskParts w2 w1, 64)
  | .ldt _ _ _ _ | .kldMb16 _ _ => ([(0, w1, 1024)], 1024)
  | .kldMp32 _ _ => ([(0, w1, 2048)], 2048)
  | _ => ([(0, w1, 64)], 64)

/-- A trap that a resumed entry raises: TPC is the bundle that issues next, and the entry stays. -/
def Chk.runAt {α : Type} (c : Chk α) (s : State) (o : BitVec 19) (k : α → Out) : Out :=
  match c with
  | .ok a => k a
  | .trap c va => .next (s.fault c va s.core.pc false o)
  | .wait s => s.stall

/-- The request to the quay that an operation makes. -/
def askKind (i : Instr) : Option (Fin 13) :=
  match i with
  | .plq _ _ => some 8
  | .alloc _ _ _ => some 9
  | .phnew _ _ => some 10
  | .qsvcPing => some 0
  | .qsvcMap => some 1
  | .qsvcUnmap => some 2
  | .qsvcGroup => some 3
  | .qsvcYield => some 4
  | .qsvcReport => some 5
  | .qsvcDebug => some 6
  | .qsvcUnknown => some 7
  | _ => none

/-- Sends the request of a resumed entry again: loads by word 1, waits and registrations of a phaser, services of the quay. -/
def State.resend (s : State) (n : Fin 8) : Out :=
  let e := { s.core.rq[n] with resume := false }
  let dest (id : Word) (b : PhReq → Body) (r : PhReq) : Out :=
    match s.phPlace id with
    | none => .next (s.putEntry n e)
    | some ep => s.phSend ep [b r] n.val fun s =>
        .next { s with core := bumpReq (s.core.setEntry n { e with fabric := true, req := s.core.link.req }) }
  match e.op with
  | some (.phwait _ _ _) => dest e.w1 .phWait (s.phReq e.w1 .w (e.w2.truncate 16) false false (s.entReq n.val))
  | some (.phaw _ _ _) => dest e.w1 .phWait (s.phReq e.w1 .sw (e.w2.truncate 16) false false (s.entReq n.val))
  | some (.phreg _ _ _) => dest e.w1 .phReg (s.phReq e.w1 (phModeOf e.w2.toNat) 0 false false (s.entReq n.val))
  | some (.phqry _ _) => dest e.w1 .phQry (s.phReq e.w1 .w 0 false false (s.entReq n.val))
  | some i =>
    if e.kind == 2 || e.kind == 8 then
      let p := loadParts i e.w1 e.w2
      (State.placeAll false p.1 s).runAt s e.bofs fun (ps, s) => s.loadInto n e p.2 ps id
    else
      match askKind i with
      | some k =>
        if s.hawser then s.stall
        else
          let s := s.askPacket (.quay s.myRegion) n.val (.ask k e.w1 e.w2)
          .next { s with core := bumpReq (s.core.setEntry n { e with fabric := true, req := s.core.link.req }) }
      | none => .next (s.putEntry n { e with fabric := true })
  | none => .next (s.putEntry n e)

/-! ### Forwarded traps (R373, R374) -/

/-- The doubleword at an offset of the core's forwarding slot. -/
def State.slotWord (s : State) (o : Nat) : Word := (Tab.get s.myCtx.fslots [] s.slotNo).readWord o

/-- An entry from its four doublewords; what the words do not hold stays where the entry was not replaced by another. A result captured
during the wait stands against the words that the core saved while the request was pending (R370). -/
def State.loadEntry (s : State) (n : Fin 8) : State :=
  let o := 0x80 + 32 * n.val
  let w0 := s.slotWord o
  let e := s.core.rq[n]
  if w0.getLsbD 19 then
    let s := if e.v then s else s.revive n e
    let e := s.core.rq[n]
    let l : Fin 3 := Fin.ofNat 3 (w0.toNat / 2 ^ 20 % 4)
    let x : Entry := { (e.setWord0 w0) with lvl := l, w1 := s.slotWord (o + 8), w2 := s.slotWord (o + 16), w3 := s.slotWord (o + 24) }
    let captured := e.st == 1 && x.st == 0 && x.bofs == e.bofs && x.kind == e.kind && x.next == e.next
    s.putEntry n (if captured then { x with st := 1, w3 := e.w3, w2 := if (e.op.bind askKind).isSome then e.w2 else x.w2 } else x)
  else s.vacate n

/-- The scalars, their liveness, the entries and the banked fields from the slot. Log entry 26 (DEDUCED). -/
def State.loadSlot (s : State) : State :=
  let live : BitVec 16 := ((s.slotWord 0).truncate 16) &&& 0xFFFE
  let c := scalars.foldl (fun c r => { c with regs := vput c.regs r (s.slotWord (8 * r.val)) }) { s.core with live := live }
  let w (k : Nat) : Word := s.slotWord (0x180 + 8 * k)
  let rw (k : Nat) (m : Word) : Word := w k &&& m
  let comp := s.sel == .comp
  let c := { c with
    sr := { c.sr with
      conv := rw 6 0xFFFFFFFF
      ffl := if comp then rw 8 0x1F else c.sr.ffl
      fctl := if comp then rw 9 0x3 else c.sr.fctl
      tvec := if s.tile.modes.hostTraps then rw 11 0xFF800 ||| (c.sr.tvec &&& 0x1FFFE00000000) else rw 11 0x1FFFE000FF800 }
    tr := { c.tr with
      tca1 := rw 0 0x13F, tpc1 := w 1, tva1 := w 2, tca2 := rw 3 0x3F, tpc2 := w 4, tva2 := w 5, fwd := none } }
  allEntries.foldl State.loadEntry { s with core := c }

/-- The quay has the notice of the core's forwarded trap. -/
def State.noticeSeen (s : State) : State :=
  let is (p : Packet) : Bool := match p.body with | .ask 12 _ _ => true | _ => false
  let l := s.core.link
  { s with
    core := { s.core with link := { l with vc0 := l.vc0.filter fun p => !is p } }
    net := s.net.filter fun p => !(is p && p.shnd == s.tile.hnd && p.score == s.sel && p.src == s.tile.id.endpoint) }

/-- The forwarded trap that the quay may serve: a stop that arrived during the wait leaves it for the time after the swap-in (R374). -/
def State.served (s : State) : Option Forwarded := if s.core.stopped then none else s.core.tr.fwd

/-- R374 FORWARD_RESUME: the core reloads its slot, re-injects the entries of its level and goes on at FPC. -/
def execForwardResume (s : State) : Out :=
  match s.served with
  | none => .next s
  | some _ =>
    let fpc := s.slotWord 0x1F0
    let s := s.noticeSeen.loadSlot
    if fpc.getLsbD 0 then s.trapB .ill s.core.pc
    else
      let s := { s with core := { s.core with pc := fpc, issued := false } }
      match State.entryOps s.core.tr.level allEntries s with
      | (.error o, s) => s.trapB .ill (o.zeroExtend 64)
      | (.ok xs, s) => .next (xs.foldl State.reinject s)

/-- R374 FORWARD_DELIVER: the trap is taken as if FWD were 0. -/
def execForwardDeliver (s : State) : Out :=
  match s.served with
  | none => .next s
  | some f =>
    let s := s.noticeSeen
    .next (State.enterTrap { s with core := { s.core with tr := { s.core.tr with fwd := none } } } f.cause f.va f.pc f.dfr)

/-- R374 FORWARD_KILL: the context is killed; R368 lists no reason for it, and the reason is a free value. Log entry 11 (DESIGN CHOICE). -/
def execForwardKill (s : State) : Out :=
  match s.served with
  | none => .next s
  | some f => .next ((s.killContext true s.tile.ctx ((Config.freeWord s.fresh).toNat % 16) f.cause f.pc f.va).draw)

/-! ### Breakpoints and single step (R387, R388) -/

/-- Whether an enabled breakpoint stands at the pc, before its bundle issues; the bundle that a TRET issues does not hit. -/
def Core.atBreak (c : Core) : Bool :=
  c.tr.level.val == 0 && c.issuing.isNone && !(c.iabSkip && !c.issued) &&
    ([c.sr.iab0, c.sr.iab1].any fun w => w.getLsbD 19 && c.pc == BitVec.ofNat 64 (w.toNat % 2 ^ 19))

/-- R387 IAB_HIT. -/
def execIabHit (s : State) : Out :=
  if s.core.atBreak then .next (s.fault .brk s.core.pc s.core.pc false s.core.bofs) else .next s

/-- R388 SINGLE_STEP: one bundle, or one iteration, has issued at level 0. -/
def execSingleStep (s : State) : Out :=
  if s.core.tr.sstep && s.core.issued && s.core.tr.level.val == 0 then
    .next (State.fault { s with core := { s.core with tr := { s.core.tr with sstep := false } } } .brk s.core.pc s.core.pc true s.core.bofs)
  else .next s

/-- Whether a deferred event, a single step or a breakpoint is due at the core's next bundle boundary; a stop comes after it (R367). -/
def State.trapDue (s : State) : Bool :=
  s.core.active && !s.core.dead && s.core.tr.fwd.isNone &&
    (s.core.tr.deferred.isSome || (s.core.tr.sstep && s.core.issued && s.core.tr.level.val == 0) || s.core.atBreak)

end Sys2Proof.Machine
end

