-- ==== Sys2Proof/Machine/System.lean ====
section
/-! DEFINITION. State registers, the stop advisory, metering, quay services, IDLE and q4 (15_system R358-R361, R377, R381-R386, 09_async
R239, 05_memory R117). -/

namespace Sys2Proof.Machine

/-! ### State registers (02 R63, R359, R361) -/

/-- The level of a token bucket as TKT, TKB and TKE read it (R382). -/
def State.token (s : State) (k : Fin 3) : Word :=
  if s.myCtx.quota[k] == 0 then allOnes else BitVec.ofNat 64 s.myCtx.level[k]

/-- The value of a state register. -/
def State.srValue (s : State) (n : Nat) : Word :=
  let r := s.core.sr
  let t := s.core.tr
  match n with
  | 0 => s.cyc
  | 1 => r.conv
  | 2 => s.tile.cki
  | 3 => r.mctl
  | 4 => r.tola
  | 5 => r.tolr
  | 6 => r.fmta
  | 7 => r.fmtb
  | 8 => r.scla
  | 9 => r.sclb
  | 10 => r.gtb
  | 11 => r.kmd
  | 12 => r.krho
  | 13 => r.ffl
  | 14 => r.fctl
  | 16 => s.tvecValue
  | 17 => t.tlv
  | 18 => t.tca1
  | 19 => t.tpc1
  | 20 => t.tva1
  | 21 => t.tca2
  | 22 => t.tpc2
  | 23 => t.tva2
  | 24 => s.core.crb
  | 32 => BitVec.ofNat 64 s.tile.ctx
  | 33 => BitVec.ofNat 64 s.tile.part
  | 34 => s.tile.hnd.zeroExtend 64
  | 35 => r.brth
  | 36 => r.msgh
  | 40 => s.token 0
  | 41 => s.token 1
  | 42 => s.token 2
  | 64 => BitVec.ofNat 64 (1 + if s.tile.id.isGateway then 2 else 0)
  | 65 => r.iab0
  | 66 => r.iab1
  | 67 => r.trctl
  | 68 => s.myCtx.dock
  | 69 => s.myCtx.ctlb
  | _ => 0

/-- Registers 3-14, which only the compute core has. -/
def matrixSr (n : Nat) : Bool := decide (3 ≤ n) && decide (n ≤ 14)

def privSr (n : Nat) : Bool := decide (64 ≤ n) && decide (n ≤ 127)

/-- The checks of an access to state register n: PRIV, and ILL where the core lacks it; TVA names the base word, as for a number without a
register: log entry 98 (DESIGN CHOICE). -/
def State.srChk (s : State) (n : Nat) (k : Out) : Out :=
  if privSr n && !s.privileged then s.trapB .priv s.core.pc
  else if matrixSr n && s.sel == .stage then s.trapB .ill s.baseWord
  else k

/-- R361 SRD. -/
def execSrd (d : SReg) (n : Fin 256) (s : State) : Out :=
  s.srChk n.val (if n.val == 3 && s.unitPending none then s.stall else s.alu d [] (s.srValue n.val))

/-- Registers that SWR may name: RW or RO (R63, R359). -/
def namedSr (n : Nat) : Bool :=
  decide (n ≤ 14) || (decide (16 ≤ n) && decide (n ≤ 24)) || (decide (32 ≤ n) && decide (n ≤ 36)) || (decide (40 ≤ n) && decide (n ≤ 42)) ||
    (decide (64 ≤ n) && decide (n ≤ 69))

/-- The registers after a write; a field that is reserved or read only keeps its value (R6). -/
def Core.setSr (c : Core) (n : Nat) (v : Word) : Core :=
  let r := c.sr
  let t := c.tr
  match n with
  | 1 => { c with sr := { r with conv := v &&& 0xFFFFFFFF } }
  | 4 => { c with sr := { r with tola := v &&& 0xFFFFFFFF } }
  | 5 => { c with sr := { r with tolr := v &&& 0xFFFFFFFF } }
  | 6 => { c with sr := { r with fmta := v &&& 0x7 } }
  | 7 => { c with sr := { r with fmtb := v &&& 0x7 } }
  | 8 => { c with sr := { r with scla := v &&& 0x7FFFF } }
  | 9 => { c with sr := { r with sclb := v &&& 0x7FFFF } }
  | 10 => { c with sr := { r with gtb := v &&& 0x7FFFF } }
  | 14 => { c with sr := { r with fctl := v &&& 0x3 } }
  | 18 => { c with tr := { t with tca1 := v &&& 0x13F } }
  | 19 => { c with tr := { t with tpc1 := v } }
  | 20 => { c with tr := { t with tva1 := v } }
  | 21 => { c with tr := { t with tca2 := v &&& 0x3F } }
  | 22 => { c with tr := { t with tpc2 := v } }
  | 23 => { c with tr := { t with tva2 := v } }
  | 65 => { c with sr := { r with iab0 := v &&& 0xFFFFE } }
  | 66 => { c with sr := { r with iab1 := v &&& 0xFFFFE } }
  | 67 => { c with sr := { r with trctl := v &&& 0x1 } }
  | _ => c

/-- R361 SWR of a register without a row of its own. -/
def execSwr (n : Fin 256) (d : SReg) (s : State) : Out :=
  if !namedSr n.val then s.trapB .ill s.baseWord
  else s.srChk n.val
    (if !s.core.ready [d] then s.stall
    else .next (State.retire { s with core := s.core.setSr n.val (s.S d) }))

/-- R339 SWR CKI: written ones clear bits [5:0]. -/
def execSwrCki (d : SReg) (s : State) : Out :=
  if !s.core.ready [d] then s.stall
  else
    let m : Word := ~~~(s.S d &&& 0x3F)
    .next (s.modTile fun t => { t with cki := t.cki &&& m }).retire

/-- R306 SWR MCTL: after every unit operation. -/
def execSwrMctl (d : SReg) (s : State) : Out :=
  s.srChk 3
    (if !s.core.ready [d] || s.unitPending none then s.stall
    else .next (State.retire { s with core := { s.core with sr := { s.core.sr with mctl := s.S d &&& 0xFFFFFF03 } } }))

/-- R252 SWR FFL. -/
def execSwrFfl (d : SReg) (s : State) : Out :=
  s.srChk 13
    (if !s.core.ready [d] then s.stall
    else .next (State.retire { s with core := { s.core with sr := { s.core.sr with ffl := s.S d &&& 0x1F } } }))

/-- R361, R364 SWR TVEC: with host-assisted trap handling a write leaves FWD. -/
def execSwrTvec (d : SReg) (s : State) : Out :=
  if !s.core.ready [d] then s.stall
  else
    let v := s.S d &&& 0x1FFFE000FF800
    let v := if s.tile.modes.hostTraps then (v &&& 0xFF800) ||| (s.core.sr.tvec &&& 0x1FFFE00000000) else v
    .next (State.retire { s with core := { s.core with sr := { s.core.sr with tvec := v } } })

/-! ### The stop advisory, metering (R377, R383) -/

/-- PACK's word: a swap and a retirement announced, and the levels below 1/16 of their quotas. Log entry 72 (DEDUCED). -/
def State.packWord (s : State) : Word :=
  let x := s.myCtx
  let low (k : Fin 3) : Nat := if x.quota[k] != 0 && decide (16 * x.level[k] < x.quota[k]) then 1 else 0
  BitVec.ofNat 64 ((if s.core.advisory.getLsbD 0 then 1 else 0) + 2 * low 0 + 4 * low 1 + 8 * low 2 +
    if s.core.advisory.getLsbD 4 then 16 else 0)

/-- R377 PACK. -/
def execPack (d : SReg) (s : State) : Out := s.alu d [] s.packWord

/-- The region of the quay that launched the team of the tile in focus. -/
def State.launchQuay (s : State) : Nat :=
  match s.team? s.tile.ctx s.tile.ttag with
  | some t => t.quay
  | none => s.myRegion

/-- Cycles until the next refill, 2^21 after the last one (01 R33). Log entry 28 (DEDUCED). -/
def State.toRefill (s : State) : Word :=
  let r := s.region s.launchQuay
  r.lastRefill + 2097152 - r.cyc

/-- R383 METR. -/
def execMetr (d a : SReg) (s : State) : Out :=
  if !s.core.ready [d, a] then s.stall
  else
    let k := s.S a
    let put (v : Word) : Out := .next (s.setS d v).retire
    match k.toNat with
    | 0 => put (BitVec.ofNat 64 s.tile.charged[0])
    | 1 => put (BitVec.ofNat 64 s.tile.charged[1])
    | 2 => put (BitVec.ofNat 64 s.tile.charged[2])
    | 3 => put (BitVec.ofNat 64 s.tile.refills)
    | 4 => put s.toRefill
    | _ => s.trapB .bnd k

/-! ### Quay services (R384, R416, 09 R239) -/

def svcOk : Nat := 0
def svcDenied : Nat := 1
def svcNomem : Nat := 2
def svcBadarg : Nat := 3
def svcUnknown : Nat := 4
def svcBusy : Nat := 5

/-- What a service answers: status, result and the state; `wait` where the quay answers later. -/
inductive Svc where
  | done (status : Nat) (result : Word) (s : State)
  | wait

/-- MAP: the page that holds an EDGE pointer, from the reserve. -/
def State.svcMap (s : State) (p : Word) (w : Bool) : Svc :=
  if ptrSpace p != 2 then .done svcBadarg 0 s
  else
    match s.myCtx.mapPage s.tile.ctx (ptrOfs p) w with
    | none => .done svcNomem 0 s
    | some x => .done svcOk 0 (s.putCtx s.tile.ctx x)

/-- UNMAP: the micro-TLBs drop the page, and the quay waits for the accesses that used it (R119). -/
def State.svcUnmap (s : State) (p : Word) : Svc :=
  if ptrSpace p != 2 then .done svcBadarg 0 s
  else
    match s.myCtx.page false (ptrOfs p) with
    | none => .done svcOk 0 s
    | some g =>
      if s.pageInFlight s.tile.ctx g then .wait
      else .done svcOk 0 ((s.shootDown s.tile.ctx (· == g)).putCtx s.tile.ctx (s.myCtx.unmapPage (ptrOfs p)))

/-- A doubleword of a member list, or none where the list does not lie in the slice or a sector of it is poisoned; a poisoned list answers
BADARG: log entry 98 (DESIGN CHOICE). -/
def State.listWord (s : State) (o : Nat) : Option Nat :=
  if o + 8 ≤ 0x80000 && !((sectors o 8).any s.tile.poison.contains) then some (leNat (s.tile.slice.readMany o 8)) else none

def State.listWords (s : State) (o : Nat) : Nat → Option (List Nat)
  | 0 => some []
  | n + 1 => (s.listWord o).bind fun w => (State.listWords s (o + 8) n).map fun ws => w :: ws

/-- The reads of a member list (05 R125): word 0, and as many words after it as it names. -/
def State.readList (s : State) (p : Word) : State :=
  let o := ptrOfs p
  if ptrSpace p != 0 || decide (0x80000 < o + 8) then s
  else
    let t := s.tile.ecc s.fresh o 8
    let m := leNat (t.slice.readMany o 2) % 128
    { s with tile := if o + 8 + 8 * m ≤ 0x80000 then t.ecc s.fresh (o + 8) (8 * m) else t, fresh := s.fresh + 1 }

/-- The lease that is out on a sector of a member list, which comes back before the quay reads the list (08 R198). -/
def State.listLeased (s : State) (p : Word) : Option LeaseDir :=
  let o := ptrOfs p
  if ptrSpace p != 0 || o % 8 != 0 || decide (0x80000 < o + 8) then none
  else
    (s.tile.leasedOut o 8).orElse fun _ =>
      let m := leNat (s.tile.slice.readMany o 2) % 128
      if m == 0 || decide (0x80000 < o + 8 + 8 * m) then none else s.tile.leasedOut (o + 8) (8 * m)

/-- The quay's read of a member list recalls the lease that it waits for. -/
def State.recallList (s : State) (code : Nat) (p : Word) : State :=
  match (if code == 3 then s.listLeased p else none) with
  | some d => s.recall d
  | none => s

/-- A member list (09 R239): own rank and the members as launch identifier and peer; none where it is malformed. Bit 7 of word 0, which the
table does not list, is ignored: log entry 98 (DESIGN CHOICE). -/
def State.memberList (s : State) (p : Word) : Option (Nat × List (Nat × Nat)) :=
  if ptrSpace p != 0 || ptrOfs p % 8 != 0 then none
  else
    (s.listWord (ptrOfs p)).bind fun w =>
      let m := w % 128
      let own := w / 256 % 64
      if m < 2 || decide (64 < m) || decide (m ≤ own) || decide (2 ^ 14 ≤ w) then none
      else
        (s.listWords (ptrOfs p + 8) m).bind fun ws =>
          let ms := ws.map fun w => (w % 2 ^ 32, w / 2 ^ 32 % 65536)
          let peers := (s.partOf s.tile.part).peers
          let okPeer (r k : Nat) : Bool :=
            if r == own then k == 0xFFFF else decide (k < 16) || (decide (256 ≤ k) && decide (k < 256 + peers) && decide (k < 512))
          if ws.any (fun w => decide (2 ^ 48 ≤ w)) || !((ms.zip (upto m)).all fun x => okPeer x.2 x.1.2) then none else some (own, ms)

/-- The lowest group number of the context that is not in use. Log entry 14 (DESIGN CHOICE). -/
def freeGroup (gs : List Group) : Nat := ((upto 64).find? fun n => !(gs.any fun g => g.num == n)).getD 64

/-- GROUP: BUSY until every member's list has come, which other modules decide: a free value. Log entry 14 (DESIGN CHOICE). -/
def State.svcGroup (s : State) (p : Word) : Svc :=
  if (s.listLeased p).isSome then .wait
  else
  let s := s.readList p
  match s.memberList p with
  | none => .done svcBadarg 0 s
  | some (own, ms) =>
    let x := s.myCtx
    let same (g : Group) : Bool := g.team == s.tile.ttag && g.own == own && g.members == ms
    match x.groups.find? fun g => same g && g.agreed with
    | some g => .done svcOk (BitVec.ofNat 64 g.num) s
    | none =>
      let known := x.groups.any same
      if !known && decide (64 ≤ x.groups.length) then .done svcNomem 0 s
      else
        let ready := (Config.freeWord s.fresh).getLsbD 0
        let n := freeGroup x.groups
        let gs := if known then x.groups else x.groups ++ [{ num := n, own := own, members := ms, team := s.tile.ttag }]
        let gs := if ready then gs.map fun g => if same g then { g with agreed := true } else g else gs
        let num := ((gs.find? same).map (·.num)).getD 0
        let s := (s.putCtx s.tile.ctx { x with groups := gs }).draw
        if ready then .done svcOk (BitVec.ofNat 64 num) s else .done svcBusy 0 s

/-- REPORT: two user words into the region's error log and trace. Log entry 15 (DEDUCED). -/
def State.svcReport (s : State) (x y : Word) : Svc :=
  let s := s.report s.myRegion 8 s.tile.hnd s.mySite 0 x y
  let r := s.region s.myRegion
  let e : TraceRecord := { hnd := s.tile.hnd, site := s.mySite, cyc := x, w3 := y, part := s.tile.part }
  .done svcOk 0
    (s.putRegion s.myRegion { r with traced := r.traced + 1, trace := if r.trace.length < 1024 then r.trace ++ [e] else r.trace.drop 1 ++ [e] })

/-- DEBUG: the breakpoints of a core of the caller's partition; BADARG for an operation above 2, and DENIED for a handle whose team is
docked: log entry 92 (DESIGN CHOICE). -/
def State.svcDebug (s : State) (h y : Word) : Svc :=
  match (if h.toNat < 2 ^ 32 then s.tileOf (h.truncate 32) else none) with
  | none => .done svcDenied 0 s
  | some t =>
    let k := if y.getLsbD 23 then CoreSel.comp else .stage
    let v : Word := (y >>> 4) &&& 0x7FFFE ||| 0x80000
    let set (f : Srs → Srs) : Svc :=
      .done svcOk 0 (s.atCore t.tile.id k fun s => { s with core := { s.core with sr := f s.core.sr } })
    match y.toNat % 16 with
    | 0 => set fun r => { r with iab0 := v }
    | 1 => set fun r => { r with iab1 := v }
    | 2 => set fun r => { r with iab0 := 0, iab1 := 0 }
    | _ => .done svcBadarg 0 s

/-- YIELD: the team of the tile asks to be swapped at the next refill. -/
def State.svcYield (s : State) : Svc :=
  .done svcOk 0 (match s.team? s.tile.ctx s.tile.ttag with | some t => s.putTeam { t with yield := true } | none => s)

/-- The service of a code, with the values of s2 and s3. -/
def State.service (s : State) (code : Nat) (x y : Word) : Svc :=
  match code with
  | 0 => .done svcOk (BitVec.ofNat 64 s.myRegion) s
  | 1 => s.svcMap x (y.getLsbD 0)
  | 2 => s.svcUnmap x
  | 3 => s.svcGroup x
  | 4 => s.svcYield
  | 5 => s.svcReport x y
  | 6 => s.svcDebug x y
  | _ => .done svcUnknown 0 s

/-- The code of a QSVC; the codes without a service are all one. -/
def qsvcCode (i : Instr) : Option Nat :=
  match i with
  | .qsvcPing => some 0
  | .qsvcMap => some 1
  | .qsvcUnmap => some 2
  | .qsvcGroup => some 3
  | .qsvcYield => some 4
  | .qsvcReport => some 5
  | .qsvcDebug => some 6
  | .qsvcUnknown => some 7
  | _ => none

/-- QSVC at issue (R384): a request with s2 and s3. -/
def State.qsvc (s : State) (i : Instr) : Out :=
  if !s.core.ready [1, 2, 3] then s.stall
  else s.askQuay i (Fin.ofNat 13 ((qsvcCode i).getD 7)) (s.S 2) (s.S 3)

/-- R384 QSVC 0. -/
def execQsvcPing (s : State) : Out := s.qsvc .qsvcPing
/-- R384, R416 QSVC 1. -/
def execQsvcMap (s : State) : Out := s.qsvc .qsvcMap
/-- R384 QSVC 2. -/
def execQsvcUnmap (s : State) : Out := s.qsvc .qsvcUnmap
/-- R384 QSVC 3. -/
def execQsvcGroup (s : State) : Out := s.qsvc .qsvcGroup
/-- R384 QSVC 4. -/
def execQsvcYield (s : State) : Out := s.qsvc .qsvcYield
/-- R384 QSVC 5. -/
def execQsvcReport (s : State) : Out := s.qsvc .qsvcReport
/-- R384 QSVC 6. -/
def execQsvcDebug (s : State) : Out := s.qsvc .qsvcDebug
/-- R384 QSVC of any other code. -/
def execQsvcUnknown (s : State) : Out := s.qsvc .qsvcUnknown

/-- The quotas of R219 in the order of its table, 0 to 5, and 6 the collective operation slots of an engine (09 R240). -/
def Part.quota (p : Part) (k d : Nat) : Nat := Tab.get p.quotas d k

/-- Members and pending arrivals of a partition in the engine of a region. -/
def State.engLoad (s : State) (reg part : Nat) : Nat :=
  ((s.region reg).eng.filter fun e => e.2.inUse && (s.ctx e.2.ctx).part == part).foldl
    (fun n e => n + e.2.members.length + e.2.pend.length) 0

/-- An engine phaser in the first free slot of the region's engine under the partition's quotas of slots and, where its creator registers,
of members (08 R207, R219); none while the request waits for one. -/
def State.newEngine (s : State) (c : Word) : Option (List Word × State) :=
  let reg := s.myRegion
  let r := s.region reg
  let used := (r.eng.filter fun p => p.2.inUse && (s.ctx p.2.ctx).part == s.tile.part).length
  let pt := s.partOf s.tile.part
  if pt.quota 0 16 ≤ used || (c.toNat / 16 % 4 != 0 && decide (pt.quota 1 1024 ≤ s.engLoad reg s.tile.part)) then none
  else
    ((upto 1024).find? fun n => !(Tab.get r.eng {} n).inUse).map fun n =>
      let sc := scopeOf (c.toNat % 8)
      let h := newPhaser (Tab.get r.eng {} n) s sc (c.toNat / 16 % 4)
      ([phaserId 0 0 n reg true sc h.gen], s.putRegion reg { r with eng := Tab.put r.eng n h })

/-- An entry of the context's tables as the quay returns it (05 R117). -/
def Page.words (g : Page) : List Word :=
  [BitVec.ofNat 64 g.ctx, BitVec.ofNat 64 g.base, BitVec.ofNat 64 g.log, BitVec.ofNat 64 g.target, BitVec.ofNat 64 g.frame,
    BitVec.ofNat 64 ((if g.net then 1 else 0) + (if g.r then 2 else 0) + (if g.w then 4 else 0) + if g.bad then 8 else 0)]

def pageOf (ws : List Word) : Option Page :=
  match ws with
  | [c, b, l, t, f, x] =>
    some { ctx := c.toNat, base := b.toNat, log := l.toNat, net := x.getLsbD 0, target := t.toNat, frame := f.toNat, r := x.getLsbD 1,
           w := x.getLsbD 2, bad := x.getLsbD 3 }
  | _ => none

/-- What the walk of the tables finds for a pointer: the entry's words, or none. Quay software, where the context selects host-assisted
translation service, may map the page on demand (05 R117, 16 R407): a free value says whether it does. Log entry 91 (DESIGN CHOICE). -/
def State.walk (s : State) (p : Word) (write : Bool) : List Word × State :=
  let net := ptrSpace p == 4
  match s.myCtx.page net (ptrOfs p) with
  | some g => (g.words, s)
  | none =>
    if s.tile.modes.hostXlat && ptrSpace p == 2 && s.myCtx.reserve != 0 && (Config.freeWord s.fresh).getLsbD 0 then
      match s.myCtx.mapPage s.tile.ctx (ptrOfs p) write with
      | some x => (((x.page false (ptrOfs p)).map Page.words).getD [], s.draw.putCtx s.tile.ctx x)
      | none => ([], s)
    else ([], s.draw)

/-- What the quay of the region answers to a request of the core in focus; none while it does not answer yet. A translation that its
tables do not have is answered with no words. -/
def State.askAnswer (s : State) (k : Fin 13) (w1 w2 : Word) (base : Option Nat) : Option (List Word × State) :=
  if k.val < 8 then
    match s.service k.val w1 w2 with
    | .wait => none
    | .done st v s => some ([BitVec.ofNat 64 st, v], s)
  else
    match k.val with
    | 8 => some ([s.siteOfHandle (w1.truncate 32)], s)
    | 9 => some (s.allocAnswer w1 w2 base)
    | 10 => s.newEngine w1
    | 11 => some (s.walk w1 (w2.getLsbD 0))
    | _ => some ([], s)

/-- The answer that the quay has given to a request (07 R180). -/
def State.answerTo (s : State) (p : Packet) : Option Answer :=
  s.answers.find? fun a => a.hnd == p.shnd && a.tag == p.stag && a.core == p.score && a.req == p.req

def answerOf (p : Packet) (ws : List Word) : Answer := { hnd := p.shnd, tag := p.stag, core := p.score, req := p.req, words := ws }

/-- The quay serves a request on VC0 (07 R165, R180): of the team that has the handle, on the core that asked, once; a request that comes
again is answered as before, and one that cannot be answered yet, for which `held` says what happens meanwhile, or whose team is not
resident, stays or is sent again. Log entry 32 (DESIGN CHOICE). -/
def State.serveBy (s : State) (p : Packet) (held : State → State) (answer : State → Option (List Word × State)) : State :=
  match s.answerTo p with
  | some a => s.reply p (.told a.words)
  | none =>
    match s.allTiles.find? fun t => t.tile.owned && t.tile.hnd == p.shnd && t.tile.ctx == p.ctx && t.tile.ttag == p.stag with
    | none => s
    | some t =>
      s.atCore t.tile.id p.score fun s =>
        match answer s with
        | none => held { s with net := s.net ++ [p] }
        | some (ws, s) => State.reply { s with answers := s.answers ++ [answerOf p ws] } p (.told ws)

def State.serveAsk (s : State) (p : Packet) (k : Fin 13) (w1 w2 : Word) (base : Option Nat) : State :=
  s.serveBy p (fun s => s.recallList k.val w1) fun s => s.askAnswer k w1 w2 base

/-- The answer of the quay reaches entry n (R384, 05 R132, 08 R207). -/
def State.toldEntry (s : State) (n : Fin 8) (ws : List Word) : State :=
  let e := s.core.rq[n]
  let w (k : Nat) : Word := (ws[k]?).getD 0
  match e.op with
  | some (.plq _ _) => s.settleWord n (w 0)
  | some (.phnew _ _) =>
    let mode := e.w1.toNat / 16 % 4
    s.modCore (fun c => if mode == 0 || decide (8 ≤ c.members.length) then c else c.join (w 0) (phModeOf mode) 0) |>.settleWord n (w 0)
  | some (.alloc _ _ _) => State.settle (s.putEntry n { e with w3 := w 0, cap := w 1 }) n
  | some i => if (qsvcCode i).isSome then State.settle (s.putEntry n { e with w2 := w 0, w3 := w 1 }) n else s
  | none => s

/-- The answer to the translation that the core in focus waits for (05 R117, R118, R126): the entry is installed among 16, XLAT is
raised, or DUE where the tables read poisoned. A deferred event that is pending comes before the fault (R367): the bundle asks again after
it. -/
def State.pageArrived (s : State) (ws : List Word) : State :=
  match s.core.xlatReq with
  | none => s
  | some q =>
    let s := { s with core := { s.core with xlatReq := none } }
    match pageOf ws with
    | none => if s.core.tr.deferred.isSome then s else s.fault .xlat q.va s.core.pc false s.core.bofs
    | some g =>
      if g.bad then if s.core.tr.deferred.isSome then s else s.fault .due q.va s.core.pc false s.core.bofs
      else { s with tile := { s.tile with tlb := (g :: s.tile.tlb.filter (· != g)).take 16 } }

/-! ### q4 (R385) -/

/-- The words of a complete request at the front of q4: header and arguments. -/
def q4Front (ws : List Word) : Option (Word × List Word × List Word) :=
  match ws with
  | [] => none
  | h :: r => if h.toNat / 65536 % 4 ≤ r.length then some (h, r.take (h.toNat / 65536 % 4), r.drop (h.toNat / 65536 % 4)) else none

/-- The two words of an answer. -/
def q4Answer (h : Word) (status : Nat) (v : Word) : List Word :=
  [BitVec.ofNat 64 (h.toNat % 65536 + 65536 * status + 2 ^ 24 * (h.toNat / 2 ^ 18 % 2 ^ 14) + 2 ^ 63), v]

/-- What the quay answers to a request of q4 of the core in focus, once its service is done. An argument that the request does not have is 0:
log entry 92 (DESIGN CHOICE). -/
def State.q4Serve (s : State) (h : Word) (args : List Word) : Option (List Word × State) :=
  if h.toNat / 65536 % 4 == 3 || decide (2 ^ 32 ≤ h.toNat) then some (q4Answer h svcBadarg 0, s)
  else
    match s.service (h.toNat % 65536) ((args[0]?).getD 0) ((args[1]?).getD 0) with
    | .wait => none
    | .done st v s => some (q4Answer h st v, s)

/-- The complete request at the front of q4 goes to the quay on VC0 (07 R165), one at a time, where the response side has room for its
answer. -/
def State.q4Send (s : State) : State :=
  match s.core.q.q4sent, q4Front s.core.q.q4req with
  | none, some (h, args, rest) =>
    if decide (2 < s.core.q.q4resp.length) || s.hawser || s.core.stopped then s
    else
      let n := s.core.link.req
      let s := s.askPacket (.quay s.myRegion) 8 (.q4 h args)
      { s with core := { bumpReq s.core with q := { s.core.q with q4req := rest, q4sent := some n } } }
  | _, _ => s

/-- The answer to the request of q4 that is under way. -/
def State.q4Told (s : State) (ws : List Word) : State :=
  { s with core := { s.core with q := { s.core.q with q4resp := s.core.q.q4resp ++ ws, q4sent := none } } }

/-! ### IDLE (R386) -/

/-- What wakes a sleeping core, as counts: its queues and inboxes, then configuration, pops and pushes of each ring. Log entry 27 (DEDUCED). -/
def State.wakeCounts (s : State) : List Nat :=
  let q := s.core.q
  [q.cq.length, q.q2.length, q.q4resp.length, q.q5.length] ++ (s.core.berths.toList.map fun b => b.inbox.length) ++
    (s.tile.rings.toList.map fun r => [r.epoch, r.pops, r.pops + r.fill.toNat]).flatten

/-- Whether a ring was advanced: by triples. -/
def ringsMoved : List Nat → List Nat → Bool
  | e :: p :: t :: r, e' :: p' :: t' :: r' => (if e == e' then p != p' || t != t' else p' != 0 || t' != 0) || ringsMoved r r'
  | _, _ => false

def wokenBy (old new : List Nat) : Bool := old.take 20 != new.take 20 || ringsMoved (old.drop 20) (new.drop 20)

/-- Whether the sleep of a core ends. -/
def State.wakes (s : State) (limit : Word) (old : List Nat) : Bool :=
  (limit != 0 && decide (limit.toNat ≤ s.cyc.toNat)) || wokenBy old s.wakeCounts

/-- R386 IDLE: the core holds at the bundle until it wakes. -/
def execIdle (a : SReg) (s : State) : Out :=
  if !s.core.ready [a] then s.stall
  else
    match s.core.asleep with
    | none =>
      if s.wakes (s.S a) s.wakeCounts then .next s.retire
      else .next { s with core := { s.core with asleep := some (s.S a, s.wakeCounts) } }
    | some (l, old) => if s.wakes l old then .next (State.retire { s with core := { s.core with asleep := none } }) else s.stall

/-- R386 IDLE_WAKE. -/
def execIdleWake (s : State) : Out :=
  match s.core.asleep with
  | none => .next s
  | some (l, old) => if s.wakes l old then .next (State.retire { s with core := { s.core with asleep := none } }) else .next s

end Sys2Proof.Machine
end

