-- ==== Sys2Proof/Machine/Deliver.lean ====
section
/-! DEFINITION. What happens to a packet that leaves the fabric: at a tile, a rim endpoint or a quay, and at its source again
(04_control R104, 07_messages R165, R175-R188, 08_sync R196-R200, R205, R212, R219). -/

namespace Sys2Proof.Machine

/-! ### Modules and engines (R178, R219) -/

/-- The windows of a module (false) or an engine (true). -/
def State.farWins (s : State) (eng : Bool) (n : Nat) : List SeqWindow := Tab.get (if eng then s.engWins else s.modWins) [] n

def State.putFarWins (s : State) (eng : Bool) (n : Nat) (ws : List SeqWindow) : State :=
  if eng then { s with engWins := Tab.put s.engWins n ws } else { s with modWins := Tab.put s.modWins n ws }

/-- A duplicate of a launch's streams at a module or, from number 64 on, at an engine (18 R413). -/
def State.farDup (s : State) (eng : Bool) (n : Nat) (p : Packet) : State :=
  let k := 128 * s.launchOf p.ctx p.stag + if eng then 64 + n else n
  { s with modDups := Tab.put s.modDups k (Tab.get s.modDups 0 k + 1) }

/-- One atomic step on edge memory, at the port controller (R191, R195). -/
def Ctx.atomic (x : Ctx) (sh : Option Nat) (net : Bool) (op : AtomOp) (w : Bool) (o : Nat) (v e : Word) : AtomRes × Ctx :=
  let n := if w then 4 else 8
  let bs := x.farBytes sh net o n
  if bs.any (·.2) then ({ old := 0, bad := true, wrote := false }, x)
  else
    let old := leNat (bs.map (·.1))
    match atomNew op n old v.toNat e.toNat with
    | some y => ({ old := atomOld w old, bad := false, wrote := true }, x.farStore sh net o (plain (leBytes n y)))
    | none => ({ old := atomOld w old, bad := false, wrote := false }, x)

/-- Performs a packet at a rim endpoint; the reply that its window caches comes with it. -/
def State.performFar (s : State) (eng : Bool) (p : Packet) : State × Option Body :=
  match p.body with
  | .read pos o n => (s.reply p (.data pos (s.farRead p.ctx p.stag eng o n)), none)
  | .write o bs => ((s.farWrite p.ctx p.stag eng o bs).reply p (.ack false), none)
  | .atomic op w _ o x e =>
    let r := (s.ctx p.ctx).atomic (s.shadowOf p.ctx p.stag) eng op w o x e
    let b : Body := .old r.1.old r.1.bad none
    ((s.putCtx p.ctx r.2).reply p b, some b)
  | _ => (s.reply p (.ack false), none)

/-- The packets held behind the one just performed. -/
def farDrain (eng : Bool) (k : Nat) : Nat → Packet → State → State
  | 0, _, s => s
  | n + 1, p, s =>
    match nextHeld (s.farWins eng k) p with
    | none => s
    | some q =>
      let r := s.performFar eng q
      farDrain eng k n p (r.1.putFarWins eng k (windowDone (r.1.farWins eng k) q r.2))

def State.farNext (s : State) (eng : Bool) (k : Nat) (p : Packet) : State :=
  let r := s.performFar eng p
  farDrain eng k 64 p (r.1.putFarWins eng k (windowDone (r.1.farWins eng k) p r.2))

/-- A packet at the window of a module or an engine, within the quotas of its partition. Log entry 40 (DEDUCED). -/
def State.arriveFar (s : State) (eng : Bool) (k : Nat) (p : Packet) : State :=
  let ws := s.farWins eng k
  let mine := ws.filter fun w => w.part == p.part
  let pt := s.partOf p.part
  match seqOf ws p with
  | .absent =>
    if !p.opn then s
    else if (if eng then pt.quota 4 16 else pt.quota 2 64) ≤ mine.length then s.reply p .retry
    else (s.putFarWins eng k (ws ++ [{ hnd := p.shnd, core := p.score, vc := p.vc, tag := p.stag, part := p.part }])).farNext eng k p
  | .next => s.farNext eng k p
  | .known => s.farDup eng k p
  | .early =>
    if (if eng then pt.quota 5 256 else pt.quota 3 256) < heldBytes mine + pktBytes p.body then s.reply p .retry
    else s.putFarWins eng k (modWindow ws p fun w => { w with held := w.held ++ [p] })
  | .repeated =>
    let s := s.farDup eng k p
    match p.body with
    | .read pos o n => s.reply p (.data pos (s.farRead p.ctx p.stag eng o n))
    | _ => s.reply p (repeatReply ws p)
  | .outside =>
    let r := routerOf p.dst
    let n := if eng then 64 + k else k
    let c := Tab.get s.modDrops 0 n + 1
    State.report { s with modDrops := Tab.put s.modDrops n c } (regionOf r.1 r.2) repDelivery 0 (s.siteWord r.1 r.2) c (pktWord0 p) (pktWord1 p)

/-! ### Phaser engines (08 R202, R205, R212, R219) -/

/-- A request at the phaser engine of a region. Over the partition's quota a registration waits, and an early arrival is answered with
retry (R219). A registration that comes again is answered as before (R180). -/
def State.phAtEngine (s : State) (reg : Nat) (p : Packet) (r : PhReq) : State :=
  let rg := s.region reg
  let h := Tab.get rg.eng {} r.slot
  let full := decide ((s.partOf p.part).quota 1 1024 ≤ s.engLoad reg p.part) && h.live r p.ctx p.stag
  let early := decide (2 ≤ phDist r.phase h.phase) && decide (phDist r.phase h.phase < 32768)
  let known := s.answerTo p
  let serve : State :=
    let a := h.serve p.body p.ctx p.stag
    let s := s.putRegion reg { rg with eng := Tab.put rg.eng r.slot a.2.1 }
    let s := { s with net := s.net ++ a.2.2.map (phDone (.quay reg) 0 p.ctx p.stag p.part s.routeGen) }
    match a.1, p.body with
    | .value v, .phReg _ => State.reply { s with answers := s.answers ++ [answerOf p [v]] } p (.value v)
    | .value v, _ => s.reply p (.value v)
    | _, .phArrive _ => s.reply p (.ack false)
    | _, _ => s
  match p.body, known with
  | .phReg _, some a => s.reply p (.value ((a.words.head?).getD 0))
  | .phReg _, none => if full then { s with net := s.net ++ [p] } else serve
  | .phArrive _, _ => if full && early && r.mode != .w then s.reply p .retry else serve
  | _, _ => serve

/-! ### The quay (R165, R180, R360) -/

/-- A request on VC0 at the quay of a region: a service, an access to its windows, or its phaser engine's. -/
def State.atQuay (s : State) (reg : Nat) (p : Packet) : State :=
  match p.body with
  | .ask k w1 w2 => s.serveAsk p k w1 w2 none
  | .q4 h args => s.serveBy p (fun s => s.recallList (h.toNat % 65536) ((args[0]?).getD 0)) fun s => s.q4Serve h args
  | .read pos o n => s.reply p (.data pos ((upto n).map fun j => (s.quayByte (s.askerOf reg p) (o + j), false)))
  | .write o bs =>
    let a := s.askerOf reg p
    ((bs.zip (upto bs.length)).foldl (fun s b => match b.1 with | some v => s.quayPut a (o + b.2) v.1 | none => s) s).reply p (.ack false)
  | .failed l router n => s.reportSite (if router then repRouter else repLink) l.x l.y n
  | b => match phReqOf b with | some r => s.phAtEngine reg p r | none => s

/-! ### At the source again (R177, R180, R198, R200); the core in focus is the one that sent -/

/-- The entry that a response answers. -/
def Core.entryFor (c : Core) (p : Packet) : Option (Fin 8) :=
  if h : p.ent < 8 then
    let e := c.rq[p.ent]
    if e.v && e.fabric && e.req == p.req then some ⟨p.ent, h⟩ else none
  else none

/-- A value from a phaser's home: a start phase, a status, or the phase whose completion was waited for. -/
def State.valueArrived (s : State) (n : Fin 8) (v : Word) : State :=
  let e := s.core.rq[n]
  match e.op with
  | some (.phreg _ _ _) =>
    if v == allOnes || decide (8 ≤ s.core.members.length) then s.settleWord n allOnes
    else State.settleWord { s with core := s.core.join e.w1 (phModeOf e.w2.toNat) (v.truncate 16) } n v
  | some (.phqry _ _) => s.settleWord n v
  | some (.phwait _ _ _) => if e.w2 == v then s.settleWord n v else s
  | some (.phaw _ _ _) => if e.w2 == v then s.settleWord n v else s
  | _ => s

/-- The lease store takes a lease; the least recently used one makes room by its return. Log entry 39 (DEDUCED). -/
def State.installLease (s : State) (l : Lease) : State :=
  let ls := s.tile.leases
  let s := match (if 8 ≤ ls.length then ls.getLast? else none) with
    | some old => (s.inject (writeBackOf old)).dropLeases [old]
    | none => s
  { s with tile := { s.tile with leases := l :: s.tile.leases } }

/-- The result of a remote atomic, with the lease that it may grant; `first` says that it is the first response to its request, the only one
whose lease is installed (R180, R200). -/
def State.oldArrived (s : State) (p : Packet) (first : Bool) (v : Word) (bad : Bool) (g : Option (Nat × List Byte × Bool)) : State :=
  let h := routerOf p.src
  let s := match first, g with
    | true, some (sec, bs, b) => s.installLease { x := h.1, y := h.2, sector := sec, bytes := bs, bad := b }
    | _, _ => s
  match s.core.entryFor p with
  | some n =>
    let e := s.core.rq[n]
    State.settleWord { s with core := s.core.setEntry n { e with buf := if bad then [(0, true)] else [] } } n v
  | none => s

/-- What an answer does at the source. The retry entry of a request that was spilled has been freed by then (R185): its answer finds the
replay-queue entry. -/
def State.answered (s : State) (p : Packet) (r : Option RetryEntry) : State :=
  match p.body with
  | .data pos bs =>
    (match s.core.entryFor p with
    | some n => if s.core.rq[n].parts.any fun x => x.1 == pos then s.dataArrived n pos bs else s
    | none => s)
  | .old v bad g => s.oldArrived p (r.isSome || (s.core.entryFor p).isSome) v bad g
  | .value v => (match s.core.entryFor p with | some n => s.valueArrived n v | none => s)
  | .reject =>
    (match r with
    | some r =>
      (s.report s.myRegion repFirewall s.tile.hnd s.mySite 0 (pktWord0 r.pkt) (pktWord1 r.pkt)).killContext true s.tile.ctx 4 .none 0 0
    | none => s)
  | _ => s

/-- The request on VC0 that a reply answers: of its number, and for the completion of a phase the wait of its entry. -/
def LinkState.asked (l : LinkState) (p : Packet) : Option Packet :=
  l.vc0.find? fun q => q.dst == p.src && q.req == p.req &&
    (match p.body with
    | .completed _ => q.ent == p.ent && (match q.body with | .phWait _ => true | _ => false)
    | _ => q.seq == p.seq)

/-- The quay forgets an answer that has arrived, where no copy of its request is left in the fabric (R180). -/
def State.forgetAnswer (s : State) (p : Packet) : State :=
  let copy := s.net.any fun q => q.vc == 0 && q.shnd == p.shnd && q.stag == p.stag && q.score == p.dcore && q.req == p.req
  if copy then s
  else { s with answers := s.answers.filter fun a => !(a.hnd == p.shnd && a.tag == p.stag && a.core == p.dcore && a.req == p.req) }

/-- The answer to a request on VC0, or the completion of a wait: the first one counts (R180). After retry the request is sent again. -/
def State.vc0Response (s : State) (p : Packet) : State :=
  let q := s.core.link.asked p
  let s := match q with
    | some q => { s with core := { s.core with link := { s.core.link with vc0 := s.core.link.vc0.erase q } } }
    | none => s
  let first := q.isSome
  match p.body with
  | .completed v => match s.core.entryFor p with | some n => s.valueArrived n v | none => s
  | .value v => State.forgetAnswer (match first, s.core.entryFor p with | true, some n => s.valueArrived n v | _, _ => s) p
  | .data pos bs =>
    (match first, s.core.entryFor p with
    | true, some n => if s.core.rq[n].parts.any fun x => x.1 == pos then s.dataArrived n pos bs else s
    | _, _ => s)
  | .told ws =>
    let mine := match s.core.xlatReq with | some x => x.req == some p.req | none => false
    let s := if first && p.ent == 8 && mine then s.pageArrived ws
      else if first && p.ent == 8 && s.core.q.q4sent == some p.req then s.q4Told ws else
      match first, s.core.entryFor p with | true, some n => s.toldEntry n ws | _, _ => s
    s.forgetAnswer p
  | _ => s

/-- A packet on VC2 at the core in focus. -/
def State.response (s : State) (p : Packet) : State :=
  match p.body with
  | .retry =>
    let upd (r : RetryEntry) : RetryEntry :=
      if r.pkt.dst == p.src && r.pkt.vc == p.avc && r.pkt.seq == p.seq then { r with wait := true } else r
    { s with core := { s.core with link := { s.core.link with retry := s.core.link.retry.map upd } } }
  | b =>
    if b == .reject && (p.avc == 0 || p.avc == 2 || p.avc == 7) then s.killContext true s.tile.ctx 4 .none 0 0
    else if p.avc == 0 then s.vc0Response p
    else
      let x := s.core.link.free p
      State.answered { s with core := { s.core with link := x.1 } } p x.2

/-- The recalled leases of the tile in focus go back, as far as the retry buffer has room. -/
def State.returnRecalled (s : State) : State :=
  (s.tile.leases.filter (·.recalled)).foldl (fun s l => if s.canSend [writeBackOf l] then (s.inject (writeBackOf l)).dropLeases [l] else s) s

/-- A recall at the tile in focus (R198): the lease goes back; while its grant may be on its way, the recall stays; otherwise the lease
has been returned. -/
def State.recallArrived (s : State) (p : Packet) (sec : Nat) : State :=
  let h := routerOf p.src
  let mine (l : Lease) : Bool := l.x == h.1 && l.y == h.2 && l.sector == sec
  if s.tile.leases.any mine then
    State.returnRecalled { s with tile := { s.tile with leases := s.tile.leases.map fun l => if mine l then { l with recalled := true } else l } }
  else
    let granted (q : Packet) : Bool := q.dst == p.dst && q.src == p.src && (match q.body with | .old _ _ (some g) => g.1 == sec | _ => false)
    if s.core.mayLease p.src sec || s.peer.mayLease p.src sec || s.net.any granted then { s with net := s.net ++ [p] } else s

/-! ### Diversion (04 R104, 07 R184, 01 R31, R34) -/

/-- Whether a message arrives for a team that ends (R31). -/
def State.endingFor (s : State) (p : Packet) : Bool :=
  p.vc != 1 && (match s.team? p.ctx p.ttag with | some t => t.phase == .stopping | none => false)

/-- Whether a tile takes packets for the team of p. -/
def takesTeam (t : Tile) (p : Packet) : Bool := t.owned && t.ctx == p.ctx && t.ttag == p.ttag && !t.swapping

/-- Bytes of the requests and messages in a spill queue. Log entry 37 (DESIGN CHOICE). -/
def spillBytes (t : Team) : Nat := t.spill.foldl (fun n p => if p.vc == 2 then n else n + pktBytes p.body) 0

/-- A packet for a team that is not resident where it arrives: appended to the spill queue of the team and acknowledged; a completion
is taken without either; at a team that ends, or that is gone, it is discarded (R31). -/
def State.divert (s : State) (p : Packet) : State :=
  match s.team? p.ctx p.ttag with
  | none => if p.vc == 2 then s else s.reply p (.ack false)
  | some t =>
    if p.vc == 2 then s.putTeam { t with spill := t.spill ++ [p] }
    else if t.phase == .stopping then (s.putTeam { t with discarded := t.discarded + 1 }).reply p (.ack false)
    else if (s.ctx p.ctx).spillQuota < spillBytes t + pktBytes p.body then s.reply p .retry
    else State.reply (s.putTeam { t with spill := t.spill ++ [{ p with taken := if p.taken == 0 then 1 else if p.taken == 3 then 2 else p.taken }] }) { p with taken := 0 } (.ack false)

/-- A packet that the region firewall turned away: discarded, counted, answered with reject (R188): a reply, to the tile that sent it. -/
def State.turnAway (s : State) (p : Packet) : State :=
  (s.countReject p).reply (if p.vc == 2 then { p with shnd := p.rhnd, stag := p.ttag } else p) .reject

/-! ### Delivery -/

/-- The tile that a response goes to: a gateway's comes to its engine. -/
def State.responseTile (s : State) (p : Packet) : Option TileId :=
  match p.dst with
  | .tile x y => some (.grid x y)
  | .engine k => ((upto 16).map fun g => TileId.gateway (16 * k + g)).find? fun t => (s.tileAt t).tile.hnd == p.shnd
  | _ => none

/-- Whether the tile is of the team that a response or completion is for. -/
def responseFor (t : Tile) (p : Packet) : Bool :=
  if p.avc == 0 then t.owned && t.ctx == p.ctx && t.ttag == p.ttag else t.hnd == p.shnd && t.ttag == p.ttag

/-- From the stop of its cores, a tile that is swapped out takes no completion of a wait (R184). -/
def closedTo (u : FullTile) (p : Packet) : Bool := p.avc == 0 && u.tile.swapping && u.stage.stopped && u.comp.stopped

/-- A packet reaches its destination. -/
def State.deliver (s : State) (p : Packet) : State :=
  if p.vc == 2 then
    match s.responseTile p with
    | none => if p.body == .reject then s.killContext false p.ctx 4 .none 0 0 else s
    | some id =>
      let u := s.tileAt id
      if responseFor u.tile p && !closedTo u p then s.atCore id p.dcore fun s => s.response p
      else if p.avc == 0 then s.divert p
      else s
  else if p.vc == 7 then
    match s.responseTile p, p.body with
    | some id, .recall sec => s.atCore id .stage fun s => s.recallArrived p sec
    | some id, .resend gen => (s.atCore id .stage fun s => s.resendFrom gen).atCore id .comp fun s => s.resendFrom gen
    | _, .entry w => s.entryLanded w
    | some id, .stop => s.atCore id p.dcore fun s => if s.tile.owned then { s with core := { s.core with stopAsked := true } } else s
    | _, _ => s
  else if p.vc == 0 then
    match p.dst with
    | .quay r => s.atQuay r p
    | _ => s
  else
    match p.dst with
    | .tile x y =>
      if s.endingFor p then s.divert p
      else if takesTeam (s.tileAt (.grid x y)).tile p then s.arriveAtTile (.grid x y) p
      else s.divert p
    | .module k => s.arriveFar false k p
    | .engine k => s.arriveFar true k p
    | _ => s

/-- A packet ends its leg: a packet that its quay has to hand on stays in the fabric there (R188); any other is delivered. -/
def State.endLeg (s : State) (p : Packet) : State := if relays p then { s with net := s.net ++ [handedOn p] } else s.deliver (landed p)

/-- A packet of the fabric moves to the end of its leg in one go, where nothing stands in its way: it is lost with a failed link (R175,
R180), turned away by the firewall (R188), or arrives. -/
def State.carry (s : State) (p : Packet) : State :=
  match s.journeyOf p with
  | .blocked => s
  | .lost => s.lose [p]
  | .arrives =>
    let out : State := { s with net := s.net.erase p }
    if s.entersRegion p && !s.firewall p then out.turnAway (landed p) else out.endLeg p

/-! ### The movement of flits (R158, R165, R166, R186, R187) -/

/-- Flits that follow through the buffers behind the one at the front of the list, which holds m: one from each to the next where it has
a credit. With them, the moves: the buffer that a flit has left and the one it is in now. -/
def State.follow (s : State) (vc : Fin 8) (a : Spot) (m : Nat) : List (Spot × Nat) → List (Spot × Nat) × List (Spot × Spot)
  | [] => ([(a, m)], [])
  | (b, n) :: r =>
    let go := n != 0 && decide (m + s.creditsOut a vc < spotSize a) && s.clocked a && s.clocked b
    let x := State.follow s vc b (if go then n - 1 else n) r
    ((a, if go then m + 1 else m) :: x.1, (if go then [(b, a)] else []) ++ x.2)

/-- The buffers without the empty ones at the end of the list. -/
def trimTrail (t : List (Spot × Nat)) : List (Spot × Nat) := (t.reverse.dropWhile (·.2 == 0)).reverse

/-- The source puts one more flit into the last buffer of the list. -/
def enterTrail : List (Spot × Nat) → List (Spot × Nat)
  | [] => []
  | [(a, n)] => [(a, n + 1)]
  | x :: r => x :: enterTrail r

/-- The packet after a flit-cycle whose head has moved into the buffers `lead`, leaving m flits in the buffer a before the rest. -/
def State.advancePacket (s : State) (p : Packet) (lead : List (Spot × Nat)) (esc : Bool) (a : Spot) (m : Nat) (rest : List (Spot × Nat))
    (left : List (Spot × Spot)) : Packet × List (Spot × Spot) :=
  let x := s.follow p.vc a m rest
  let t := lead ++ x.1
  let tail := (t.getLast?).getD (a, m)
  let more := decide (p.sent < Packet.flits p) && decide (tail.2 + s.creditsOut tail.1 p.vc < spotSize tail.1) && s.clocked tail.1
  let t := if more then enterTrail t else t
  let sent := if more then p.sent + 1 else p.sent
  ({ p with trail := if sent == Packet.flits p then trimTrail t else t, sent := sent, esc := esc }, left ++ x.2)

/-- A link that a flit has crossed without an error begins its replays anew. -/
def State.crossed (s : State) (m : Spot × Spot) : State :=
  if m.1.fifo || s.replays.isEmpty then s
  else { s with replays := s.replays.filter fun r => !(r.1.x == m.1.x && r.1.y == m.1.g && r.1.port.val == arrPort m.2.arr) }

/-- The packet after a flit-cycle, with the moves of its flits: the FIFOs that they have left return their credits. -/
def State.putPacket (s : State) (p : Packet) (q : Packet × List (Spot × Spot)) : State :=
  let s := { s with net := s.net.replace p q.1, credits := s.credits ++ (q.2.filter (·.1.fifo)).map fun m => (m.1, p.vc) }
  q.2.foldl State.crossed s

/-- One flit-cycle of a packet. -/
def State.stepPacket (s : State) (p : Packet) : State :=
  match p.trail with
  | [] =>
    match s.startSpot (legSrc p) with
    | none => s.lose [p]
    | some sp => if s.roomFor p sp then s.putPacket p ({ p with trail := [(sp, 1)], sent := 1 }, []) else s
  | (h, n) :: r =>
    match s.hop p p.esc h with
    | .lost => s.lose [p]
    | .arrive =>
      let q := s.advancePacket p [] p.esc h (n - 1) r []
      if q.1.trail.isEmpty && q.1.sent == Packet.flits p then State.endLeg { s with net := s.net.erase p } p else s.putPacket p q
    | .to sp esc =>
      if n != 0 && s.clocked h && s.roomFor p sp then
        if h.fifo && !s.firewall p then State.turnAway { s with net := s.net.erase p } (landed p)
        else s.putPacket p (s.advancePacket p [(sp, 1)] esc h (n - 1) r [(h, sp)])
      else s.putPacket p (s.advancePacket p [] p.esc h n r [])

/-- One cycle of the mesh: credits return over the boundaries whose clocks run, and every packet moves. Nothing moves under the hawser
(R181). -/
def State.flow (s : State) : State :=
  if s.hawser then s
  else
    let s := if s.credits.isEmpty then s else { s with credits := s.credits.filter fun c => !s.clocked c.1 }
    s.net.foldl (fun s p => if s.net.contains p then s.stepPacket p else s) s

/-- The event of a packet: nothing moves under the hawser (R181), and only a packet that is in the fabric moves; its quay hands it on. -/
def State.packetEvent (s : State) (p : Packet) (is : Bool) : Out :=
  if is && !s.hawser && s.net.contains p then
    let t := s.carry p
    .next (if relays p && t.net.contains (handedOn p) then t.carry (handedOn p) else t)
  else .next s

/-! ### The events -/

/-- R178 SEQ_WINDOW_ARRIVAL. -/
def execSeqWindowArrival (p : Packet) (s : State) : Out := s.packetEvent p (p.vc == 1 || decide (3 ≤ p.vc.val ∧ p.vc.val ≤ 6))

/-- R104 MESSAGE_DELIVERY: a scalar, row or header message reaches its core. -/
def execMessageDelivery (p : Packet) (s : State) : Out :=
  s.packetEvent p (match p.body with | .msg .tileToRing _ _ _ _ _ _ _ => false | .msg _ _ _ _ _ _ _ _ => true | _ => false)

/-- R160 RING_MESSAGE_DELIVERY. -/
def execRingMessageDelivery (p : Packet) (s : State) : Out :=
  s.packetEvent p (match p.body with | .msg .tileToRing _ _ _ _ _ _ _ => true | _ => false)

def isRingMsg (p : Packet) : Bool := match p.body with | .msg .tileToRing _ _ _ _ _ _ _ => true | _ => false

/-- The messages at the front of the local port of the tile in focus, of one kind. -/
def State.portFronts (s : State) (ring : Bool) : List (Packet × Bool) :=
  (fronts (s.tile.portWait.map fun p => (p, false)) []).filter fun p => isRingMsg p.1 == ring

/-- R104 INBOX_APPEND_AFTER_WAIT at the tile in focus. -/
def execInboxAppendAfterWait (s : State) : Out := .next (tryWaiting (s.portFronts false) s)

/-- R160 RING_MESSAGE_AFTER_WAIT at the tile in focus. -/
def execRingMessageAfterWait (s : State) : Out := .next (tryWaiting (s.portFronts true) s)

/-- R137 HELD_SLOT_WRITE_PERFORM at the tile in focus. -/
def execHeldSlotWritePerform (s : State) : Out := .next (tryWaiting (fronts s.tile.heldWrites []) s)

/-- R180 REMOTE_RESPONSE: data, an old value, a phaser's or a quay's answer. -/
def execRemoteResponse (p : Packet) (s : State) : Out :=
  s.packetEvent p (match p.body with | .data _ _ => true | .old _ _ _ => true | .value _ => true | .told _ => true | .completed _ => true | _ => false)

/-- R177 ACK_RECEIVED. -/
def execAckReceived (p : Packet) (s : State) : Out := s.packetEvent p (match p.body with | .ack _ => true | _ => false)

/-- R177 RETRY_RECEIVED. -/
def execRetryReceived (p : Packet) (s : State) : Out := s.packetEvent p (p.body == .retry)

/-- R177 REJECT_RECEIVED. -/
def execRejectReceived (p : Packet) (s : State) : Out := s.packetEvent p (p.body == .reject)

/-- R177 RETRY_WAIT_EXPIRY: entry k of the retry buffer of the core in focus is injected again. -/
def execRetryWaitExpiry (k : Nat) (s : State) : Out :=
  match s.core.link.retry[k]? with
  | none => .next s
  | some r =>
    if !r.wait || s.hawser then .next s
    else
      let l := s.core.link
      let l := { l with
        retry := l.retry.mapIdx fun i x => if i == k then { x with wait := false } else x
        rtx := if l.rtx == 0xFFFF then l.rtx else l.rtx + 1 }
      .next { s with core := noteReinject (Nat.max 1 s.cyc.toNat) [r.pkt] { s.core with link := l }, net := s.net ++ [r.pkt] }

/-- R177 UNACKED_TIMEOUT: a report to the own quay; the entry keeps waiting. -/
def execUnackedTimeout (k : Nat) (s : State) : Out :=
  match s.core.link.retry[k]? with
  | none => .next s
  | some r => .next (s.report s.myRegion repDelivery s.tile.hnd s.mySite 0 (pktWord0 r.pkt) (pktWord1 r.pkt))

/-- R180 VC0_REQUEST_RETRY: the requests of entry e of the core in focus, and those without an entry, that have no reply are sent
again. -/
def execVc0RequestRetry (e : Fin 8) (s : State) : Out :=
  if s.hawser then .next s
  else .next { s with net := s.net ++ s.core.link.vc0.filter fun p => p.ent == e.val || p.ent == 8 }

/-- R179 PACKET_AGE_TICK for packet k of the fabric: AGE rises by 1; past 127 the packet is discarded and reported. Time under the
hawser is not counted. -/
def execPacketAgeTick (k : Nat) (s : State) : Out :=
  match s.net[k]? with
  | none => .next s
  | some p =>
    if s.hawser then .next s
    else if p.age < 127 then .next { s with net := s.net.mapIdx fun i q => if i == k then { q with age := q.age + 1 } else q }
    else
      let r := routerOf p.src
      .next (State.report (s.lose [p]) (regionOf r.1 r.2) repDelivery (senderHandle p) (s.siteWord r.1 r.2) 0
        (pktWord0 p) (pktWord1 p))

/-- R188 REGION_FIREWALL_CHECK: a packet that enters `region` from another one is checked. -/
def execRegionFirewallCheck (p : Packet) (region : Nat) (s : State) : Out :=
  if !s.hawser && s.net.contains p && s.entersRegion p && regionOfEnd (legSrc p) != region && !s.firewall p then
    .next (State.turnAway { s with net := s.net.erase p } (landed p))
  else .next s

/-- R196 REMOTE_ATOMIC_AT_HOME. -/
def execRemoteAtomicAtHome (p : Packet) (s : State) : Out := s.packetEvent p (isAtomicBody p.body)

/-- R198 LEASE_WRITE_BACK. -/
def execLeaseWriteBack (p : Packet) (s : State) : Out :=
  s.packetEvent p (match p.body with | .writeBack _ _ _ => true | _ => false)

/-- R198 LEASE_RECALL: the recall from home (hx, hy) reaches the tile in focus. -/
def execLeaseRecall (hx hy sector : Nat) (s : State) : Out :=
  match s.net.find? fun p => p.vc == 7 && p.src == .tile hx hy && p.dst == s.tile.id.endpoint && p.body == .recall sector with
  | some p => s.packetEvent p true
  | none => .next s.returnRecalled

/-- The packet of the fabric that carries a phaser request. -/
def State.phPacket (s : State) (b : Body) : Out :=
  match s.net.find? fun p => p.body == b with
  | some p => s.packetEvent p true
  | none => .next s

/-- R205 PHASER_ARRIVAL_AT_HOME. -/
def execPhaserArrivalAtHome (r : PhReq) (s : State) : Out := s.phPacket (.phArrive r)

/-- R212 PHASER_WAIT_AT_HOME. -/
def execPhaserWaitAtHome (r : PhReq) (s : State) : Out := s.phPacket (.phWait r)

/-- R208 PHASER_REGISTER_AT_HOME. -/
def execPhaserRegisterAtHome (r : PhReq) (s : State) : Out := s.phPacket (.phReg r)

/-! ### Requests to the quay as events (R384, R132, R117) -/

/-- The request that the core in focus has in the fabric for an entry (8 for none), and the reply to it. -/
def State.askOf (s : State) (ent req : Nat) : Option Packet :=
  s.net.find? fun p => p.vc == 0 && p.src == s.tile.id.endpoint && p.shnd == s.tile.hnd && p.score == s.sel && p.ent == ent && p.req == req

def State.toldTo (s : State) (ent req : Nat) : Option Packet :=
  s.net.find? fun p => p.vc == 2 && p.avc == 0 && p.dst == s.tile.id.endpoint && p.shnd == s.tile.hnd && p.dcore == s.sel && p.ent == ent &&
    p.req == req

/-- The request goes to the quay, which for an ALLOC is given a base, and the reply comes back, as far as the mesh leads. -/
def State.askRound (s : State) (ent req : Nat) (base : Option Nat) : State :=
  if s.hawser then s
  else
    let s := match s.askOf ent req with
      | none => s
      | some p =>
        match s.journeyOf p, p.body with
        | .arrives, .ask k w1 w2 => State.serveAsk { s with net := s.net.erase p } (landed p) k w1 w2 base
        | _, _ => s.carry p
    match s.toldTo ent req with
    | none => s
    | some p => s.carry p

/-- R384 QUAY_RESPONSE: the request of entry e is answered by the quay. -/
def execQuayResponse (e : Fin 8) (s : State) : Out :=
  let x := s.core.rq[e]
  if x.v && x.fabric && x.kind == 7 then .next (s.askRound e.val x.req none) else .next s

/-- R385 Q4_REQUEST_SERVICE: the request at the front of q4 goes to the quay, and its answer comes back, as far as the mesh leads. -/
def execQ4RequestService (s : State) : Out :=
  let s := s.q4Send
  match s.core.q.q4sent with
  | some r => .next (s.askRound 8 r none)
  | none => .next s

/-- R132 ALLOC_RESPONSE: the quay answers the ALLOC of entry e with a base of its choice. -/
def execAllocResponse (e : Fin 8) (base : Option Nat) (s : State) : Out :=
  let x := s.core.rq[e]
  let is := match x.op with | some (.alloc _ _ _) => true | _ => false
  if is && x.v && x.fabric then .next (s.askRound e.val x.req base) else .next s

/-- R117, R118 TRANSLATION_RESPONSE: the translation that the core in focus waits for. -/
def execTranslationResponse (s : State) : Out :=
  match s.core.xlatReq with
  | some q => (match q.req with | some r => .next (s.askRound 8 r none) | none => .next s)
  | none => .next s

end Sys2Proof.Machine
end

