-- ==== Sys2Proof/Machine/Moment.lean ====
section
/-! DEFINITION. The moment instructions (13_moment R315-R335): at issue; their results are in `unitOut`. -/

namespace Sys2Proof.Machine

/-- A unit operation on moment registers that reads tile registers. -/
def State.kIssue (s : State) (i : Instr) (ts : List Nat) : Out :=
  s.unitIssue i .one (ts.all fun t => !s.core.busyT t) 0 [] noBind

/-! ### Element-wise forms (R321-R324) -/

/-- R321 KADD. -/
def execKadd (d a b : KReg) (s : State) : Out := s.kIssue (.kadd d a b) []
/-- R321 KSUB. -/
def execKsub (d a b : KReg) (s : State) : Out := s.kIssue (.ksub d a b) []
/-- R321 KMUL. -/
def execKmul (d a b : KReg) (s : State) : Out := s.kIssue (.kmul d a b) []
/-- R321 KFMA. -/
def execKfma (d a b : KReg) (s : State) : Out := s.kIssue (.kfma d a b) []
/-- R321 KADDD. -/
def execKaddd (d a : KReg) (t : TReg) (s : State) : Out := s.kIssue (.kaddd d a t) [t.val]
/-- R321 KSCL: bits [31:0] of S(b), captured at issue. -/
def execKscl (d a : KReg) (b : SReg) (s : State) : Out := s.unitIssue (.kscl d a b) .one (s.core.ready [b]) (s.S b) [] noBind
/-- R321 KMULD. -/
def execKmuld (d a : KReg) (t : TReg) (s : State) : Out := s.kIssue (.kmuld d a t) [t.val]
/-- R322 KVSUB. -/
def execKvsub (d a b : KReg) (s : State) : Out := s.kIssue (.kvsub d a b) []
/-- R323 KNL.relu. -/
def execKnlRelu (d a : KReg) (s : State) : Out := s.kIssue (.knlRelu d a) []
/-- R323 KNL.exp. -/
def execKnlExp (d a : KReg) (s : State) : Out := s.kIssue (.knlExp d a) []
/-- R323 KNL.sig. -/
def execKnlSig (d a : KReg) (s : State) : Out := s.kIssue (.knlSig d a) []
/-- R323 KNL.sq. -/
def execKnlSq (d a : KReg) (s : State) : Out := s.kIssue (.knlSq d a) []
/-- R323 KNL.rcp. -/
def execKnlRcp (d a : KReg) (s : State) : Out := s.kIssue (.knlRcp d a) []

/-! ### Making, collapsing, moving (R325, R326, R334) -/

/-- R325 KMK: b is a tile register, or z. -/
def execKmk (d : KReg) (a : Fin 8) (b : Option (Fin 8)) (bank : Bool) (s : State) : Out :=
  s.kIssue (.kmk d a b bank) (tileNo a.val bank :: match b with | some b => [tileNo b.val bank] | none => [])

/-- KCOL waits for its destination tile register (R296, R328). -/
def State.kcol (s : State) (i : Instr) (t : Nat) : Out := s.unitIssue i .one (s.core.tileOpen t) 0 [] noBind

/-- R326 KCOL.mean. -/
def execKcolMean (t : TReg) (a : KReg) (s : State) : Out := s.kcol (.kcolMean t a) t.val
/-- R326 KCOL.var. -/
def execKcolVar (t : TReg) (a : KReg) (s : State) : Out := s.kcol (.kcolVar t a) t.val
/-- R326 KCOL.sdev. -/
def execKcolSdev (t : TReg) (a : KReg) (s : State) : Out := s.kcol (.kcolSdev t a) t.val

/-- R326 KCOL.draw: the row z is read at issue; code 14 broadcasts s[c]. -/
def execKcolDraw (t : Fin 8) (a : KReg) (b : RCode) (base : Fin 16) (bank : Bool) (c : SReg) (s : State) : Out :=
  s.computing
    (let r := rowSel s.sel b base bank 0
     let ok := s.core.tileOpen (tileNo t.val bank) && s.core.rowFree r && (b != 14 || s.core.ready [c])
     if !ok then s.stall
     else
       (s.rowChk [r]).run s fun _ =>
         s.unitIssue (.kcolDraw t a b base bank c) .one true 0 (s.core.rowVal r 4 c).bytes noBind)

/-- R334 KACRD. -/
def execKacrd (d : KReg) (a : AccR) (s : State) : Out := s.kIssue (.kacrd d a) []
/-- R334 KRED. -/
def execKred (d a : KReg) (s : State) : Out := s.kIssue (.kred d a) []
/-- R334 KMOV. -/
def execKmov (d a : KReg) (s : State) : Out := s.kIssue (.kmov d a) []
/-- R334 KMOV.tr. -/
def execKmovTr (d a : KReg) (s : State) : Out := s.kIssue (.kmovTr d a) []

/-! ### KMODE (R316) -/

/-- The magnitude of an FP32 value is at most 1, and it is no NaN. -/
def withinOne (r : Nat) : Bool := decide (r % 2 ^ 31 ≤ 0x3F800000)

/-- R316 KMODE: it executes at issue; a bad ρ raises NVF precisely. -/
def execKmode (a b : SReg) (s : State) : Out :=
  s.computing
    (if !s.core.ready [a, b] then s.stall
    else
      let w := s.S a
      let r := (s.S b).toNat % 2 ^ 32
      if 8 ≤ w.toNat then s.trapB .bnd w
      else if w.toNat % 4 == 3 && !withinOne r then s.trapB .nvf (BitVec.ofNat 64 (s.core.bofs.toNat + 2 ^ 34))
      else
        let rho : Nat := match w.toNat % 4 with
          | 0 => 0
          | 1 => 0x3F800000
          | 2 => 0xBF800000
          | _ => if r == 2 ^ 31 then 0 else r
        .next (State.retire { s with core := { s.core with sr := { s.core.sr with kmd := w, krho := BitVec.ofNat 64 rho } } }))

/-! ### KLD and KST (R327, R328) -/

/-- Whether an operation of the unit that has not retired touches k(n): reads or writes it, or writes it. -/
def State.kPending (s : State) (touch : Instr → List Nat) (n : Nat) : Bool :=
  (s.core.unit.ops.any fun u => (touch u.op).contains n) ||
    s.core.claims.any fun e => e.kind == 4 && (match e.op with | some i => (touch i).contains n | none => false)

/-- The pointer of a KLD or KST: a multiple of 32. -/
def kPtr (x : Word) : Chk Word := (eaChk x 0).bind fun p => alignChk p 32

/-- A KLD (R327): a long operation in every space, with an entry of KIND 8. -/
def State.kld (s : State) (i : Instr) (d : KReg) (a : SReg) (n : Nat) : Out :=
  s.computing
    (if !s.core.ready [a] || s.kPending kTouched d.val || s.core.kldPending [d.val] || !s.orderReady none then s.stall
    else
      (kPtr (s.S a)).run s fun p =>
        (State.placeAll false [(0, p, n)] s).run s fun (ps, s) =>
          s.withEntry fun e =>
            let x := s.newEntry i 8 p 0
            if ps.any Part1.isFar then s.sendLoad e x n ps State.retire
            else
              match s.leaseHere ps with
              | some l => (s.recall l).stall
              | none =>
                let y := State.readHere ps s
                let s := (y.2.putEntry e { x with buf := gather n y.1 }).retire
                .next (s.retireEntry e))

/-- R327 KLD.mp32. -/
def execKldMp32 (d : KReg) (a : SReg) (s : State) : Out := s.kld (.kldMp32 d a) d a 2048
/-- R327 KLD.mb16. -/
def execKldMb16 (d : KReg) (a : SReg) (s : State) : Out := s.kld (.kldMb16 d a) d a 1024

/-- The bytes of k(d) in MP32. -/
def MomentReg.mp32 (k : MomentReg) : List PByte :=
  ((upto 16).map fun i => ((upto 16).map fun j =>
    let e := k.raw i j
    (leBytes 4 e.m ++ leBytes 4 e.v).map fun b => (b, e.bad)).flatten).flatten

/-- The bytes of k(d) in MB16: means rounded to nearest, variances upward. -/
def MomentReg.mb16 (k : MomentReg) : List PByte :=
  let plane (f : KPair → Nat) : List PByte :=
    ((upto 16).map fun i => ((upto 16).map fun j =>
      let e := k.raw i j
      (leBytes 2 (f e)).map fun b => (b, e.bad)).flatten).flatten
  plane (fun e => (Fmt.convert f32 bf16 .rne e.m).bits) ++ plane (fun e => (Fmt.convert f32 bf16 .rup e.v).bits)

/-- A KST (R327): a store of k(d) as it stands at issue. -/
def State.kst (s : State) (d : KReg) (a : SReg) (bytes : MomentReg → List PByte) : Out :=
  s.computing
    (if !s.core.ready [a] || s.kPending kWritten d.val || s.core.kldPending [d.val] then s.stall
    else
      (kPtr (s.S a)).run s fun p =>
        let bs := bytes (s.core.K d)
        s.storeTo none [(0, p, bs.length)] (bs.map some) (p :: foldBytes bs) fun s => .next s.retire)

/-- R327 KST.mp32. -/
def execKstMp32 (d : KReg) (a : SReg) (s : State) : Out := s.kst d a MomentReg.mp32
/-- R327 KST.mb16. -/
def execKstMb16 (d : KReg) (a : SReg) (s : State) : Out := s.kst d a MomentReg.mb16

/-! ### KMMA (R329-R333) -/

/-- A KMMA: the ring rules of MMA, and no format. -/
def State.kmma (s : State) (i : Instr) (a b : Ring) (m : MatX) : Out :=
  s.computing (s.twoRings a b (s.unitIssue i m.rep true 0 [] fun s u => bindPair s u a b m.wa.val m.wb.val))

/-- R329 KMMA.dw.acc. -/
def execKmmaDwAcc (d : AccR) (a b : Ring) (keep : Keep) (m : MatX) (s : State) : Out := s.kmma (.kmmaDwAcc d a b keep m) a b m
/-- R329 KMMA.mw.acc. -/
def execKmmaMwAcc (d : AccR) (a b : Ring) (keep : Keep) (m : MatX) (s : State) : Out := s.kmma (.kmmaMwAcc d a b keep m) a b m
/-- R329 KMMA.dw.ovw. -/
def execKmmaDwOvw (d : AccR) (a b : Ring) (keep : Keep) (m : MatX) (s : State) : Out := s.kmma (.kmmaDwOvw d a b keep m) a b m
/-- R329 KMMA.mw.ovw. -/
def execKmmaMwOvw (d : AccR) (a b : Ring) (keep : Keep) (m : MatX) (s : State) : Out := s.kmma (.kmmaMwOvw d a b keep m) a b m

end Sys2Proof.Machine
end

