-- ==== Sys2Proof/Machine/Ordering.lean ====
section
/-! DEFINITION. FENCE (06_ordering R147, R149). -/

namespace Sys2Proof.Machine

/-- A FENCE that holds issue until its conditions hold; an acquire that has not retired holds it too (R147). -/
def State.fence (s : State) (loads : Bool) (writes : Option Scope) : Out :=
  s.when (!s.core.acquiring && !(loads && s.core.readsPending) && (match writes with | some sc => !s.unacked sc | none => true))
    (.next s.retire)

/-- R149 FENCE.rw at scope tile. -/
def execFenceRwTile (s : State) : Out := s.fence true (some .tile)
/-- R149 FENCE.rw at scope quad. -/
def execFenceRwQuad (s : State) : Out := s.fence true (some .quad)
/-- R149 FENCE.rw at scope region. -/
def execFenceRwRegion (s : State) : Out := s.fence true (some .region)
/-- R149 FENCE.rw at scope wafer. -/
def execFenceRwWafer (s : State) : Out := s.fence true (some .wafer)
/-- R149 FENCE.rw at scope pod. -/
def execFenceRwPod (s : State) : Out := s.fence true (some .pod)
/-- R149 FENCE.r: its scope plays no part in its wait. -/
def execFenceR (s : State) : Out := s.fence true none
/-- R149 FENCE.w at scope tile. -/
def execFenceWTile (s : State) : Out := s.fence false (some .tile)
/-- R149 FENCE.w at scope quad. -/
def execFenceWQuad (s : State) : Out := s.fence false (some .quad)
/-- R149 FENCE.w at scope region. -/
def execFenceWRegion (s : State) : Out := s.fence false (some .region)
/-- R149 FENCE.w at scope wafer. -/
def execFenceWWafer (s : State) : Out := s.fence false (some .wafer)
/-- R149 FENCE.w at scope pod. -/
def execFenceWPod (s : State) : Out := s.fence false (some .pod)
/-- R149, R43 FENCE.i: earlier stores of the core performed in its slice; local stores are, once they issue, but for those of RPSH. -/
def execFenceI (s : State) : Out := s.when (!s.core.acquiring && !s.core.slotStores) (.next s.retire)

end Sys2Proof.Machine
end

