-- ==== Sys2Proof/Machine/Team.lean ====
section
/-! DEFINITION. Teams: launch queues, placement, start, end, stops, swaps, token buckets, meters, the metering journal (01_machine
R26-R34, 14_reliability R350-R355, 15_system R375-R383, 16_platform R403, 17_programs_matrix R410, R411). -/

namespace Sys2Proof.Machine

/-! ### The metering journal (R403) -/

/-- The checkpoint that the metering key signs: quay, number, chain value, serial number, route generation. -/
def State.checkpoint (s : State) (quay : Nat) : List Byte :=
  let j := s.journalOf quay
  leBytes 8 quay ++ leBytes 8 j.count ++ j.chain ++ Config.serial ++ leBytes 2 s.routeGen.toNat

/-- R403 JOURNAL_CHECKPOINT: every 65,536th record is signed, unless signing is host-assisted. -/
def execJournalCheckpoint (quay : Nat) (s : State) : Out :=
  let j := s.journalOf quay
  if !s.hostSigning && j.count != 0 && j.count % 65536 == 0 then
    let c := s.checkpoint quay
    .next { s with journals := Tab.put s.journals quay { j with signed := c ++ Config.meterSign c } }
  else .next s

/-- R403 JOURNAL_GAP_RECORD: past 4,096 records beyond a full journal, one GAP record takes the totals of all later charges. -/
def execJournalGapRecord (quay : Nat) (s : State) : Out :=
  let j := s.journalOf quay
  if 2 ^ 24 + 4096 ≤ j.records.length && !j.gap then .next { s with journals := Tab.put s.journals quay { j with gap := true } } else .next s

/-! ### Rectangles (R10, R411) -/

/-- Whether tiles may be placed in a quarter: it is neither withdrawn nor in a region that is not ON. -/
def State.usable (s : State) (q : Nat) : Bool := !s.withdrawn.contains q && (s.region (q / 4)).reg == .on

/-- Quarter columns (or rows) that n coordinates from x on touch. -/
def spans (x n : Nat) : List Nat := (upto ((x + n - 1) / 16 + 1 - x / 16)).map (· + x / 16)

/-- Whether a tile lies in a rectangle. -/
def inRect (w h x y : Nat) (p : Nat × Nat) : Bool := decide (x ≤ p.1) && decide (p.1 < x + w) && decide (y ≤ p.2) && decide (p.2 < y + h)

/-- Whether the rectangle w × h at (x, y) lies on the wafer, on even coordinates, in usable quarters of a partition, and holds no tile
that was withdrawn (07 R183). -/
def State.fits (s : State) (quarters : List Nat) (w h x y : Nat) : Bool :=
  x % 2 == 0 && y % 2 == 0 && decide (x + w ≤ 256) && decide (y + h ≤ 256) && !(s.withdrawnTiles.any (inRect w h x y)) &&
    (spans y h).all fun b => (spans x w).all fun a =>
      let q := quarterOf (16 * a) (16 * b)
      quarters.contains q && s.usable q

/-- The quads of a rectangle, by their origins, row by row (R11). -/
def quadsOf (w h : Nat) (o : Nat × Nat) : List (Nat × Nat) :=
  (upto (h / 2)).flatMap fun j => (upto (w / 2)).map fun i => (o.1 + 2 * i, o.2 + 2 * j)

/-- Whether the tiles of a rectangle are free: of no team, and no partner's (14 R350). -/
def State.vacant (s : State) (w h x y : Nat) : Bool :=
  !(s.allTiles.any fun t => t.tile.owned && (match t.tile.id with
    | .grid a b => inRect w h x y (a, b)
    | .gateway _ => false)) &&
  !(s.teams.any fun t => t.partners.any fun p => (quadsOf 2 2 p).any (inRect w h x y))

/-- The quads of a quarter beside a rectangle that may hold partner quads, vacant ones only where `free` says so. -/
def State.spareQuads (s : State) (free : Bool) (w h x y q : Nat) : List (Nat × Nat) :=
  let o : Nat × Nat := (32 * (q / 4 % 8) + 16 * (q % 2), 32 * (q / 32) + 16 * (q / 2 % 2))
  (quadsOf 16 16 o).filter fun p => !inRect w h x y p && !(s.withdrawnTiles.any (inRect 2 2 p.1 p.2)) && (!free || s.vacant 2 2 p.1 p.2)

/-- Whether the quarters of a rectangle have a partner quad for each of its quads (14 R350). -/
def State.partnerRoom (s : State) (free : Bool) (w h x y : Nat) : Bool :=
  let qs := (quadsOf w h (x, y)).map fun p => quarterOf p.1 p.2
  qs.eraseDups.all fun q => decide (qs.count q ≤ (s.spareQuads free w h x y q).length)

/-- Whether the partner quads that the quay chooses are such quads, one for each quad, in its quarter (14 R350). -/
def State.partnersOk (s : State) (w h : Nat) (o : Nat × Nat) (ps : List (Nat × Nat)) : Bool :=
  ps.length == (quadsOf w h o).length && ps.eraseDups.length == ps.length &&
    ((quadsOf w h o).zip ps).all fun x =>
      x.2.1 % 2 == 0 && x.2.2 % 2 == 0 && (s.spareQuads true w h o.1 o.2 (quarterOf x.1.1 x.1.2)).contains x.2

/-- The even positions. -/
def evens : List Nat := (upto 128).map (2 * ·)

/-- Whether some rectangle of the shape fits, or fits and is vacant, with its partner quads under lockstep. -/
def State.hasRoom (s : State) (quarters : List Nat) (lock : Bool) (w h : Nat) (free : Bool) : Bool :=
  evens.any fun y => evens.any fun x =>
    s.fits quarters w h x y && (!free || s.vacant w h x y) && (!lock || s.partnerRoom free w h x y)

/-- The coordinates of rank n in a rectangle at o (R411). -/
def rankXy (o : Nat × Nat) (w n : Nat) : Nat × Nat := (o.1 + n % w, o.2 + n / w)

/-- The regions of a rectangle. -/
def regionsOfRect (w h : Nat) (o : Nat × Nat) : List Nat :=
  ((spans o.2 h).map fun b => (spans o.1 w).map fun a => regionOf (16 * a) (16 * b)).flatten

/-! ### Building a team (R29, R103, R410) -/

/-- A berth as its declaration gives it; bit 0 of the entry is 0 (04 R103). -/
def BerthOf (d : BerthDecl) : Berth :=
  { entry := d.entry &&& 0x7FFFE, valid := true, vc := BitVec.ofNat 2 d.vc.val, prio := BitVec.ofNat 2 d.prio.val,
    stage := BitVec.ofNat 4 d.stage.val, quota := d.quota, conv := d.conv, stk := d.stk }

/-- The core of a rank: its berth table and the registers that a team start loads. -/
def newCore (im : ModuleImage) (rank : Nat) (k : CoreSel) (tvec : Word) : Core :=
  let c : Core := { sr := { tvec := tvec } }
  im.berths.foldl (fun c d => if d.1 == rank && d.2.core == k then { c with berths := vput c.berths d.2.n (BerthOf d.2) } else c) c

/-- A ring of a module: base and number of slots. -/
def newRing (v : BitVec 16) : RingState := { base := v.truncate 9, nslot := (v >>> 9).truncate 7, epoch := 1 }

/-- The shadow-trap bit of the control block, as the quay or software wrote it last (14 R346). -/
def Ctx.shadowTrap (x : Ctx) : Bool :=
  match Tab.find x.ctl Config.shadowTrapAt.1.val with
  | some b => b.getLsbD Config.shadowTrapAt.2.val
  | none => x.modes.shadowTrap

/-- Whether a module places a tile: it names the rank, or has berths or bytes for it (17 R411, R412). -/
def placesRank (im : ModuleImage) (rank : Nat) : Bool :=
  im.placed.contains rank || im.berths.any (·.1 == rank) || im.bytes.any (·.1 == rank)

/-- The tile of a rank, with the engine nearest to it at launch (09 R234); rings and keep regions are those of placed tiles (17 R412). -/
def newTile (s : State) (x : Ctx) (ctx part tag : Nat) (im : ModuleImage) (place : List Placed) (rank : Nat) : FullTile :=
  let p := (place[rank]?).getD default
  let mine := im.bytes.filter fun b => b.1 == rank
  let t : Tile :=
    { id := .grid p.x p.y, owned := true, hnd := p.hnd, ctx := ctx, part := part, ttag := tag, rank := rank,
      modes := { x.modes with shadowTrap := x.shadowTrap },
      engine := s.nearEngine (p.x, p.y)
      placement := place
      slice := mine.foldl (fun m b => m.writeMany b.2.1 (b.2.2.map some)) []
      rings := if placesRank im rank then im.rings.foldl (fun v r => vput v r.1 (newRing r.2)) (Vector.replicate 8 {}) else Vector.replicate 8 {}
      keeps := (if placesRank im rank then im.keeps else []) ++ mine.map fun b => (b.2.1, b.2.2.length)
      flex := (im.flex.find? fun f => f.1 == rank).map (·.2) }
  { tile := t, stage := newCore im rank .stage x.tvec, comp := newCore im rank .comp x.tvec }

def placedAt (o : Nat × Nat) (w : Nat) (hs : List W32) : List Placed :=
  (hs.zip (upto hs.length)).map fun h => { hnd := h.1, x := (rankXy o w h.2).1, y := (rankXy o w h.2).2 }

/-- A team's tile on the site of another: the scrubber runs on, the corrected errors go on counting, and what no image of the team was
written over keeps its flips and its poison (05 R125, 16 R406). Log entry 42 (DEDUCED). -/
def Tile.onSite (t site : Tile) : Tile :=
  { t with
    scrubPos := site.scrubPos, errCount := site.errCount, errSeen := site.errSeen, errTimes := site.errTimes
    badCount := site.badCount, badSeen := site.badSeen
    flips := site.flips.filter fun f => !t.kept (8 * f.1)
    poison := (site.poison.filter fun k => !t.kept (32 * k)).foldl addTo t.poison }

/-- Puts the tiles of a team on their sites. -/
def State.occupy (s : State) : List FullTile → State
  | [] => s
  | u :: us =>
    let t := (u.tile.onSite (s.tileAt u.tile.id).tile).scrambled s.fresh
    State.occupy { (s.putTile { u with tile := t }) with fresh := s.fresh + 0x80000 } us

/-- The start message of a core (R410). -/
def startMsg (s : State) (t : Team) (u : Tile) (k : CoreSel) (b : Berth) : Msg :=
  let p : Packet :=
    { vc := Fin.ofNat 8 (3 + b.vc.toNat), dst := u.id.endpoint, dcore := k, src := .quay t.quay, score := .stage, shnd := 0, ctx := t.ctx,
      ttag := t.tag, part := u.part, seq := 0, opn := false, age := 0, gen := s.routeGen, ent := 8, req := 0, avc := 0,
      body := .msg .header 0 0 k u.hnd none [] 0 }
  { h0 := pktWord0 p, h1 := pktWord1 p, h2 := pktWord2 p, h3 := pktWord3 p, payload := [], pmask := 0, order := s.now }

def startCore (s : State) (t : Team) (u : Tile) (k : CoreSel) (c : Core) : Core :=
  let b := c.berths[(0 : Fin 16)]
  if b.valid then { c with berths := vput c.berths 0 { b with inbox := b.inbox ++ [startMsg s t u k b] } } else c

/-- Step 5 of R29: the start messages, placed directly into the inboxes of berth 0. -/
def State.startTeam (s : State) (t : Team) : State :=
  let s' := s.mapTiles (fun u => u.owned && u.ctx == t.ctx && u.ttag == t.tag) fun u =>
    { tile := { u.tile with arrivals := u.tile.arrivals + 1 }, stage := startCore s t u.tile .stage u.stage, comp := startCore s t u.tile .comp u.comp }
  s'.putTeam { t with started := true }

/-! ### The launch queue (R29, R30) -/

inductive PredState where
  | ended | waits | failed
  deriving DecidableEq, Repr, Inhabited

/-- Where a named predecessor stands. -/
def State.predState (s : State) (part id : Nat) : PredState :=
  match (s.partOf part).finals.find? fun f => f.1 == id with
  | some f => if f.2 == stDone || f.2 == stRerun then .ended else .failed
  | none =>
    if s.regions.any (fun r => r.2.queue.any fun q => q.id == id && q.part == part) ||
        s.teams.any (fun t => t.launch == id && (s.ctx t.ctx).part == part) then .waits
    else .failed

def State.predsState (s : State) (q : Queued) : PredState :=
  let ps := q.pkt.preds.map fun id => s.predState q.part id
  if ps.contains .failed then .failed else if ps.contains .waits then .waits else .ended

/-- Launches of a queue in the order in which the quay takes them. -/
def inOrder (qs : List Queued) : List Queued := ([0, 1, 2, 3] : List Nat).flatMap fun p => qs.filter fun q => q.pkt.prio == p

def State.dequeue (s : State) (reg : Nat) (q : Queued) : State :=
  let r := s.region reg
  s.putRegion reg { r with queue := r.queue.filter fun x => x.id != q.id }

/-- The copies of a launch that have ended: index, then signature and words. -/
def State.copiesOf (s : State) (launch : Nat) : List (Nat × List Word) := (s.teams.filter fun t => t.launch == launch).flatMap (·.copies)

/-- The copy of a launch that is placed next (14 R354, R355): 0; 1 where copy 0 stands; 2 where both have ended. -/
def State.nextCopy (s : State) (q : Queued) : Nat :=
  if !(s.teams.any fun t => t.launch == q.id) then 0 else if (s.copiesOf q.id).length == 2 then 2 else 1

/-- Handles that the quay may give out: as many as tiles, each once, none in use, none 0, none of a gateway. The copies of a paired
team have the same handles, which resolve within each copy (14 R354). -/
def State.handlesOk (s : State) (launch : Nat) (hs : List W32) (n : Nat) : Bool :=
  hs.length == n && hs.all (fun h => h != 0 && decide (h.toNat < 0xFFFFFF00)) && hs.eraseDups.length == n &&
    s.teams.all fun t => if t.launch == launch then t.handles == hs else !(t.handles.any hs.contains)

/-- The objects in edge memory that a module declares are mapped from the reserve (02 R67). Log entry 61 (DEDUCED). -/
def mapEdges (n : Nat) (x : Ctx) (es : List (Nat × Nat)) : Ctx :=
  es.foldl (fun x e => (chunks e.1 e.2).foldl (fun x c => ((x.mapPage n c.1 true).getD x)) x) x

/-- The team of a launch, placed at o, or docked. -/
def State.makeTeam (s : State) (q : Queued) (reg : Nat) (c : PlaceChoice) (copy : Nat) : Team :=
  { ctx := q.pkt.ctx, tag := c.tag, launch := q.id, reqid := q.reqid, prio := q.pkt.prio, w := q.pkt.w, h := q.pkt.h, origin := c.origin.getD (0, 0),
    handles := c.handles, phase := if c.origin.isSome then .resident else .docked, copy := copy, partners := c.partners, image := some q.pkt.image, quay := reg,
    readyOrder := (s.region reg).cyc.toNat }

/-- Steps 2 to 5 of R29. -/
def State.place (s : State) (q : Queued) (reg : Nat) (c : PlaceChoice) : State :=
  let copy := s.nextCopy q
  let t := s.makeTeam q reg c copy
  let pl := placedAt t.origin t.w t.handles
  let x := mapEdges t.ctx (s.ctx t.ctx) q.pkt.image.edges
  let us := (upto (t.w * t.h)).map fun n => newTile s x t.ctx x.part t.tag q.pkt.image pl n
  let s := s.putCtx t.ctx x
  let s := if x.modes.paired && copy == 0 then s else s.dequeue reg q
  if c.origin.isSome then State.startTeam (State.occupy { s with teams := s.teams ++ [t] } us) t
  else { s with teams := s.teams ++ [{ t with dockTiles := us }] }

/-- Whether the quay's choice is one it may make: a vacant rectangle in the partition's quarters, apart from the region of another copy;
docked only where there is none. Log entry 49 (DESIGN CHOICE). -/
def State.choiceOk (s : State) (q : Queued) (c : PlaceChoice) : Bool :=
  let quarters := (s.partOf q.part).quarters
  let w := q.pkt.w
  let h := q.pkt.h
  let lock := (s.ctx q.pkt.ctx).modes.lockstep
  s.handlesOk q.id c.handles (w * h) && decide (c.tag < 4096) && !(s.teams.any fun t => t.ctx == q.pkt.ctx && t.tag == c.tag) &&
    (match c.origin with
    | some o => s.fits quarters w h o.1 o.2 && s.vacant w h o.1 o.2 &&
        (if lock then s.partnersOk w h o c.partners else c.partners.isEmpty) &&
        !(s.teams.any fun t => t.launch == q.id && t.phase != .ended && (regionsOfRect w h t.origin).any (regionsOfRect w h o).contains)
    | none => c.partners.isEmpty && !s.hasRoom quarters lock w h true)

/-- Whether no rectangle of a launch's shape fits within its partition's quarters, whatever occupies them (R30). -/
def State.tooLarge (s : State) (part : Nat) (p : LaunchPacket) : Bool :=
  !s.hasRoom (s.partOf part).quarters (s.ctx p.ctx).modes.lockstep p.w p.h false

/-- Whether the quay takes a launch now: it is too large, or no predecessor of it runs and its context may have one more team (R26,
R29, R30). -/
def State.takes (s : State) (q : Queued) : Bool :=
  s.tooLarge q.part q.pkt || match s.predsState q with
  | .waits => false
  | .failed => true
  | .ended => decide ((s.teams.filter fun t => t.ctx == q.pkt.ctx).length < 4096)

/-- R29 LAUNCH_QUEUE_TAKE at the quay of a region. -/
def execLaunchQueueTake (region : Nat) (c : PlaceChoice) (s : State) : Out :=
  match (inOrder (s.region region).queue).find? s.takes with
  | none => .next s
  | some q =>
    if s.tooLarge q.part q.pkt then .next ((s.dequeue region q).complete q.part q.id q.reqid stTooLarge [])
    else if s.predsState q == .failed then .next ((s.dequeue region q).complete q.part q.id q.reqid stAbandoned [])
    else if 2 ^ 24 ≤ (s.journalOf region).records.length then .next s
    else if s.choiceOk q c then .next (s.place q region c)
    else .next s

/-! ### Stops (15 R375, R376) -/

/-- The leases of the tile in focus go back (08 R198). -/
def State.returnLeases (s : State) : State :=
  State.returnRecalled { s with tile := { s.tile with leases := s.tile.leases.map fun l => { l with recalled := true } } }

/-- The core in focus stops at a bundle boundary: a joint operation of its quad ends its step (12 R302), the operations of the unit that
have not started are withdrawn, RPSH slots are filled, the leases go back, and it takes no more bundles. -/
def State.stopCore (s : State) : State :=
  let s := rpshFillAll s.core.rpsh.length s
  let s := if s.sel == .comp && (match s.core.mmqHead with | some u => u.started | none => false) then s.mmqHalt else s
  let s := s.withdraw.returnLeases
  { s with core := { s.core with stopped := true, stopAsked := false, asleep := none, xlatReq := none, plReq := none, iabSkip := false } }

/-- Whether the team of the tile in focus is being stopped. -/
def State.stopping (s : State) : Bool :=
  match s.team? s.tile.ctx s.tile.ttag with
  | some t => t.phase == .stopping || t.phase == .swappingOut
  | none => false

/-- Whether a retirement waits for the core in focus to stop (07 R182). -/
def State.retiringCore (s : State) : Bool :=
  match s.retiring with
  | some q => q.cores.contains (s.tile.id, s.sel)
  | none => false

/-- R376 STOP_REQUEST at the core in focus: the collector's stop has arrived, and the core stops and acknowledges, after a trap that is due
at the same boundary (R367). -/
def execStopRequest (s : State) : Out :=
  if s.tile.owned && s.core.stopAsked && (s.stopping || s.retiringCore) && !s.core.stopped && !s.trapDue then
    match s.team? s.tile.ctx s.tile.ttag with
    | some t => .next (s.stopCore.putTeam { t with acks := t.acks ++ [(s.tile.id.xy.1, s.tile.id.xy.2, s.sel)] })
    | none => .next s
  else .next s

/-- Whether the engines of a tile have stopped (R375): no unit operation runs, and no packet of the kinds that are awaited is
unacknowledged. -/
def coreQuiet (all : Bool) (c : Core) : Bool :=
  c.stopped && !(c.unit.ops.any (·.started)) && !c.slotStores &&
    !(c.link.retry.any fun r => all || r.pkt.vc == 1)

/-- The same of a tile; an RPSH that has still to advance TAIL does so first, where its ring has room. -/
def tileQuiet (all : Bool) (u : FullTile) : Bool :=
  coreQuiet all u.stage && coreQuiet all u.comp && u.tile.leases.isEmpty && u.stage.rpsh.all fun p => (u.tile.ring p.ring).free == 0

/-! ### The end of a team (01 R31, 14 R355) -/

/-- A response to an RPC frame, which the engine keeps: the status, with REPLACE while it is set, and the payload (01 R36, 16 R396, R397). -/
def State.answerRpc (s : State) (cmd part : Nat) (adm : Bool) (reqid : BitVec 64) (status : Nat) (bs : List Byte) : State :=
  let fr : RpcFrame := { words := s.rpcWords cmd part adm true reqid bs.length status, payload := bs }
  let p := s.partOf part
  let cache := p.cache ++ [(reqid, fr)]
  { s with responses := s.responses ++ [fr], frames := s.frames + 1 }.putPart part { p with cache := if cache.length ≤ 4096 then cache else cache.drop 1 }

/-- Answers the STOPs whose stop is complete (16 R398). -/
def State.settleStops (s : State) : State :=
  let done (h : HeldStop) : Bool := !(s.teams.any fun t => t.ctx == h.ctx && !t.rep.isEmpty && (match h.launch with
    | some n => t.launch == n
    | none => true))
  (s.stops.filter done).foldl (fun s h => s.answerRpc 6 h.part h.adm h.reqid 0 []) { s with stops := s.stops.filter (!done ·) }

/-- The queued claims of contexts whose release waits for their last team (16 R399). -/
def State.releaseCtx (s : State) (n : Nat) : State :=
  let s := (s.ctx n).releasing.foldl (fun s r => s.answerRpc 5 r.2.1 r.2.2 r.1 0 []) s
  { s with ctxs := s.ctxs.filter fun c => c.1 != n }

/-- What waits for the end of teams: the answers of STOPs, and the releases of contexts. -/
def State.settleReleases (s : State) : State :=
  let s := s.settleStops
  (s.ctxs.filter fun c => !c.2.releasing.isEmpty && !(s.teams.any fun t => t.ctx == c.1)).foldl (fun s c => s.releaseCtx c.1) s

/-- A team that is not paired ends: its completion carries CKI and signatures. -/
def State.endPlain (s : State) (t : Team) (us : List FullTile) (status : Nat) (words : List Word) (flags : Nat) : State :=
  let s := s.putCtx t.ctx { s.ctx t.ctx with counters := s.replayCounters t us }
  ((s.dropGroups t).journalCtx t.quay t.ctx flags).finishTeam t status words

/-- The last copy of a launch ends it: the pages of copy k, or none, are committed. -/
def State.endPaired (s : State) (t : Team) (us : List FullTile) (commit : Option Nat) (status : Nat) (words : List Word) : State :=
  let x := s.ctx t.ctx
  let x := match commit with | some k => x.commit (shadowKey t.launch k) | none => x
  let x := ([0, 1, 2] : List Nat).foldl (fun x k => x.dropShadow (shadowKey t.launch k)) x
  let s := (s.putCtx t.ctx x).settleStorage t.launch [0, 1, 2] commit
  let others := s.teams.filter fun u => u.launch == t.launch && !(u.ctx == t.ctx && u.tag == t.tag)
  (others.foldl State.removeTeam s).endPlain t us status words (if status == stUnresolved then flUnresolved else 0)

/-- A copy of a paired team has stopped: with both signatures there the quay decides (R355); a third copy is queued where they differ. The
completion carries the words of the committed copy, and those of C where it ran (R357). Log entry 45 (DESIGN CHOICE). -/
def State.copyEnd (s : State) (t : Team) (us : List FullTile) : State :=
  let mine := (t.copy, copySig us :: endWords t us)
  let all := s.copiesOf t.launch ++ [mine]
  let sigOf (k : Nat) : Option Word := (all.find? fun c => c.1 == k).bind fun c => c.2.head?
  let wordsOf' (k : Nat) : List Word := ((all.find? fun c => c.1 == k).map fun c => c.2.drop 1).getD []
  let s := s.releaseTiles t.ctx t.tag
  let s := s.putTeam { t with copies := [mine], phase := .ended, partners := [] }
  match sigOf 0, sigOf 1, sigOf 2 with
  | some a, some b, none =>
    if a == b then s.endPaired t us (some 0) stDone (wordsOf' 0)
    else
      let pkt : LaunchPacket :=
        { quay := t.quay, prio := t.prio, ctx := t.ctx, w := t.w, h := t.h, preds := [], image := t.image.getD default }
      let q : Queued := { id := t.launch, reqid := t.reqid, part := (s.ctx t.ctx).part, pkt := pkt }
      let r := s.region t.quay
      s.putRegion t.quay { r with queue := q :: r.queue }
  | some a, some b, some c =>
    if c == a then s.endPaired t us (some 0) stRerun (wordsOf' 0 ++ wordsOf' 2)
    else if c == b then s.endPaired t us (some 1) stRerun (wordsOf' 1 ++ wordsOf' 2)
    else s.endPaired t us none stUnresolved (wordsOf' 2)
  | _, _, _ => s

/-- R31 TEAM_END: the quay acts on the first ENDT notice, and sends the stops. A team whose ENDT retires while it is being swapped out is
docked first, and ends once it is resident again: log entry 94 (DESIGN CHOICE). -/
def execTeamEnd (ctx tag : Nat) (s : State) : Out :=
  match s.team? ctx tag with
  | some t => if t.endt && t.phase == .resident then .next ((s.putTeam { t with phase := .stopping, why := 1 }).sendStops t.quay (bothCores (s.tilesOf t)))
    else .next s
  | none => .next s

/-! ### Swaps (01 R32, 07 R184, R185, 15 R378) -/

/-- The packets that have come to a tile and are not performed: held early in its windows, or waiting at its ports; of a returned lease
that is written already, only the number is still to be taken. -/
def Tile.arrived (t : Tile) : List Packet :=
  t.windows.flatMap (·.held) ++ t.heldWrites.map (fun w =>
    match w.2, w.1.body with
    | true, .writeBack _ _ _ => { w.1 with taken := if spilled w.1 then 2 else 3 }
    | _, _ => w.1) ++ t.portWait

/-- The team's tiles turn away packets from now on, those that wait there with them, and its cores get their stops (07 R184). -/
def State.beginSwap (s : State) (t : Team) (why : Nat) : State :=
  let ps := (s.tilesOf t).flatMap fun u => u.tile.arrived
  let s := (s.mapTiles (fun u => u.owned && u.ctx == t.ctx && u.ttag == t.tag) fun u =>
    { u with tile := { u.tile with
        swapping := true, heldWrites := [], portWait := [], windows := u.tile.windows.map fun w => { w with held := [] } } }).putTeam
    { t with phase := .swappingOut, why := why }
  (ps.foldl State.divert s).sendStops t.quay (bothCores (s.tilesOf t))

/-- R184 TEAM_SWAP_OUT. -/
def execTeamSwapOut (ctx tag : Nat) (s : State) : Out :=
  match s.team? ctx tag with
  | some t => if t.phase == .resident && !t.endt then .next (s.beginSwap t 2) else .next s
  | none => .next s

/-- What the dock keeps of a tile (R378): the slice bytes of code, keep regions and rings; no caches. -/
def FullTile.docked (u : FullTile) : FullTile :=
  { u with tile := { u.tile with
      slice := u.tile.slice.filter fun c => u.tile.kept c.1
      poison := u.tile.poison.filter fun k => u.tile.kept (32 * k)
      plCache := [], tlb := [], ckCache := [], predictor := [], swapping := false } }

/-- Whether no bucket of the context is empty, so that its docked teams may come back (R33). -/
def Ctx.solvent (x : Ctx) : Bool := ([0, 1, 2] : List (Fin 3)).all fun k => x.quota[k] == 0 || x.level[k] != 0

/-- Whether the dock of a context stands in a module that has failed (R368). -/
def State.dockLost (s : State) (ctx : Nat) : Bool :=
  let o := ptrOfs (s.ctx ctx).dock
  let m := match (s.ctx ctx).page false o with | some g => g.target | none => (Config.homeModule ctx (o / 65536)).val
  s.failedParts.contains (false, m)

/-- A dock that cannot be read or written: the context is killed with reason 7 (R368). -/
def State.dockKill (s : State) (ctx : Nat) : State := (s.killContext false ctx 7 .none 0 0).settleReleases

/-- The dock is written, and the tiles are free. A team is ready from now on, unless a bucket of its context is still empty (R33). -/
def State.dock (s : State) (t : Team) : State :=
  let us := byRank (s.tilesOf t)
  let s := s.journalCtx t.quay t.ctx 0
  let s := s.releaseTiles t.ctx t.tag
  s.putTeam { t with
    phase := .docked, acks := [], partners := [], dockTiles := us.map FullTile.docked, readyOrder := (s.region t.quay).cyc.toNat
    why := if t.why == 3 && (s.ctx t.ctx).solvent then 2 else t.why }

/-- Applies a move of coordinates from one rectangle to another. Log entry 43 (DESIGN CHOICE). -/
def moveXy (t : Team) (o : Nat × Nat) (x y : Nat) : Nat × Nat :=
  if t.origin.1 ≤ x && x < t.origin.1 + t.w && t.origin.2 ≤ y && y < t.origin.2 + t.h then (x - t.origin.1 + o.1, y - t.origin.2 + o.2)
  else (x, y)

def moveEnd (t : Team) (o : Nat × Nat) (e : Endpoint) : Endpoint :=
  match e with
  | .tile x y => let p := moveXy t o x y; .tile p.1 p.2
  | e => e

def moveReq (t : Team) (o : Nat × Nat) (r : PhReq) : PhReq := let p := moveXy t o r.mx r.my; { r with mx := p.1, my := p.2 }

def movePhaser (t : Team) (o : Nat × Nat) (h : Phaser) : Phaser :=
  let c := moveXy t o h.cx h.cy
  { h with
    cx := c.1, cy := c.2
    members := h.members.map fun (m : PhMember) => let p := moveXy t o m.x m.y; { m with x := p.1, y := p.2 }
    waiters := h.waiters.map (moveReq t o)
    pend := h.pend.map (moveReq t o) }

def moveBody (t : Team) (o : Nat × Nat) (b : Body) : Body :=
  match b with
  | .phArrive r => .phArrive (moveReq t o r)
  | .phWait r => .phWait (moveReq t o r)
  | .phReg r => .phReg (moveReq t o r)
  | .phQry r => .phQry (moveReq t o r)
  | b => b

def movePacket (t : Team) (o : Nat × Nat) (p : Packet) : Packet :=
  if p.ctx == t.ctx && (p.ttag == t.tag || p.stag == t.tag) then
    { p with dst := moveEnd t o p.dst, src := moveEnd t o p.src, body := moveBody t o p.body }
  else p

def moveCore (t : Team) (o : Nat × Nat) (c : Core) : Core :=
  { c with link := { c.link with
      streams := c.link.streams.map fun (m : Stream) => { m with dst := moveEnd t o m.dst }
      vc0 := c.link.vc0.map (movePacket t o) } }

/-- A docked tile at its new place; the shadow-trap bit is sampled again (14 R346). -/
def moveTile (x : Ctx) (t : Team) (o : Nat × Nat) (u : FullTile) : FullTile :=
  let p := moveXy t o u.tile.id.xy.1 u.tile.id.xy.2
  { tile := { u.tile with
      id := .grid p.1 p.2
      modes := { u.tile.modes with shadowTrap := x.shadowTrap }
      placement := placedAt o t.w t.handles
      phasers := u.tile.phasers.map (movePhaser t o) }
    stage := moveCore t o u.stage, comp := moveCore t o u.comp }

def moveBarrier (t : Team) (o : Nat × Nat) (b : Episode) : Episode :=
  if b.ctx == t.ctx && b.ttag == t.tag then
    let a := b.arrived.map fun (x : Nat × Nat × CoreSel) => let p := moveXy t o x.1 x.2.1; (p.1, p.2, x.2.2)
    { b with arrived := a, inst := (match a with | x :: _ => scopeInst b.scope x.1 x.2.1 | [] => b.inst) }
  else b

/-- Entries whose results were captured while the core stood still retire, and the promises of pending copies are revised. -/
def retireHeld : List (Fin 8) → State → State
  | [], s => s
  | n :: r, s =>
    let e := s.core.rq[n]
    if e.v && e.st == 1 && !s.core.frozen e then retireHeld r (s.retireEntry n) else retireHeld r s

def State.resumeCore (s : State) : State :=
  retireHeld [0, 1, 2, 3, 4, 5, 6, 7] { s with core := { s.core with stopped := false, stopAsked := false, guard := 0, advisory := 0 } }

def State.revisePromises (s : State) : State :=
  s.modTile fun t => { t with copy := { t.copy with entries := t.copy.entries.map fun x => if x.busy then { x with promise := s.revised x } else x } }

/-- A tile resumes after a swap. -/
def State.resumeTile (s : State) (id : TileId) : State :=
  let s := s.atCore id .stage fun s => s.revisePromises.resumeCore
  s.atCore id .comp State.resumeCore

/-- The spill queue is replayed in order (R185): requests and messages through the windows, completions to their entries. -/
def State.replay (s : State) (p : Packet) : State :=
  match p.dst with
  | .tile x y =>
    if p.vc == 2 then s.atCore (.grid x y) p.dcore fun s => s.response p
    else s.arriveAtTile (.grid x y) p
  | _ => s

/-- The tiles of a docked team at its new place, with everything that names their old coordinates. -/
def State.undock (s : State) (t : Team) (o : Nat × Nat) : State :=
  let us := t.dockTiles.map (moveTile (s.ctx t.ctx) t o)
  let s : State := { s with
    net := s.net.map (movePacket t o)
    barriers := s.barriers.map (moveBarrier t o)
    regions := s.regions.map fun (n, r) => (n, { r with eng := r.eng.map fun (k, h) =>
      (k, if h.ctx == t.ctx && h.ttag == t.tag then movePhaser t o h else h) }) }
  s.occupy us

/-- Whether a docked team is the next of its quay and launch priority: none that became ready before it could come back now (R32). Log entry 76 (DEDUCED). -/
def State.swapTurn (s : State) (t : Team) : Bool :=
  !(s.teams.any fun u => u.phase == .docked && u.quay == t.quay && u.prio == t.prio && decide (u.readyOrder < t.readyOrder) &&
    (s.ctx u.ctx).solvent && !(s.teams.any fun v => v.launch == u.launch && v.tag != u.tag) &&
    s.hasRoom (s.partOf (s.ctx u.ctx).part).quarters (s.ctx u.ctx).modes.lockstep u.w u.h true)

/-- R185 TEAM_SWAP_IN: the spill queue is replayed before the cores resume, so that completions are HELD. -/
def execTeamSwapIn (ctx tag : Nat) (c : PlaceChoice) (s : State) : Out :=
  match s.team? ctx tag, c.origin with
  | some t, some o =>
    let x := s.ctx ctx
    let quarters := (s.partOf x.part).quarters
    let apart := !(s.teams.any fun u => u.launch == t.launch && u.tag != t.tag && u.phase != .docked && u.phase != .ended &&
      (regionsOfRect t.w t.h u.origin).any (regionsOfRect t.w t.h o).contains)
    let room := s.fits quarters t.w t.h o.1 o.2 && s.vacant t.w t.h o.1 o.2 &&
      if x.modes.lockstep then s.partnersOk t.w t.h o c.partners else c.partners.isEmpty
    if !(t.phase == .docked && x.solvent && s.swapTurn t && room && apart) then .next s
    else if s.dockLost ctx then .next (s.dockKill ctx)
    else
      let spill := t.spill.map (movePacket t o)
      let t' := { t with phase := .resident, origin := o, partners := c.partners, dockTiles := [], spill := [], acks := [] }
      let s := (s.undock t o).putTeam t'
      let s := if t.started then s else s.startTeam t'
      let s := spill.foldl State.replay s
      .next ((placedAt o t.w t.handles).foldl (fun s p => s.resumeTile (.grid p.x p.y)) s)
  | _, _ => .next s

/-- R377 SWAP_ANNOUNCEMENT: PACK.SWP on every core of the team. -/
def execSwapAnnouncement (ctx tag : Nat) (s : State) : Out :=
  .next (s.mapTiles (fun u => u.owned && u.ctx == ctx && u.ttag == tag) fun u =>
    { u with stage := { u.stage with advisory := u.stage.advisory ||| 1 }, comp := { u.comp with advisory := u.comp.advisory ||| 1 } })

/-- R184 SPILL_DIVERT: a packet for a team that is swapping out or docked, where it would arrive. -/
def execSpillDivert (p : Packet) (s : State) : Out :=
  let here := match p.dst with
    | .tile x y => !takesTeam (s.tileAt (.grid x y)).tile p
    | _ => false
  let docked := match s.team? p.ctx p.ttag with
    | some t => t.phase == .swappingOut || t.phase == .docked
    | none => false
  if here && docked && (p.vc == 1 || decide (3 ≤ p.vc.val ∧ p.vc.val ≤ 6)) && s.net.contains p && !s.hawser then
    .next (State.divert { s with net := s.net.erase p } p)
  else .next s

/-! ### Quiescence (R376) -/

/-- R376 COLLECTOR_QUIESCENT: after the acknowledgements the end, the kill or the swap proceeds. -/
def execCollectorQuiescent (ctx tag : Nat) (s : State) : Out :=
  match s.team? ctx tag with
  | none => .next s
  | some t =>
    let us := s.tilesOf t
    match t.phase with
    | .stopping =>
      if us.all (tileQuiet false) then
        if !t.rep.isEmpty then .next ((s.finishKilled t).settleKill ctx).settleReleases
        else .next ((if (s.ctx ctx).modes.paired then s.copyEnd t us else s.endPlain t us stDone (endWords t us) 0).settleReleases)
      else .next s
    | .swappingOut =>
      if us.all (tileQuiet true) then .next (if s.dockLost ctx then s.dockKill ctx else s.dock t) else .next s
    | _ => .next s

/-! ### Token buckets and the meter (01 R33, 15 R381, R382) -/

/-- A refill that a tile counts (15 R383). -/
def FullTile.refilled (u : FullTile) : FullTile := { u with tile := { u.tile with refills := u.tile.refills + 1 } }

/-- R33 TOKEN_BUCKET_REFILL of a context: its levels are the quotas again; teams descheduled for an empty bucket become ready; a
journal record is made; a team that asked to yield is swapped if another waits (15 R384), unless the host orders the swaps (16 R407). -/
def execTokenBucketRefill (ctx : Nat) (s : State) : Out :=
  let x := s.ctx ctx
  if !x.exist then .next s
  else
    let s := s.putCtx ctx { x with level := x.quota }
    let quays := (s.quayOf ctx :: (s.teams.filter fun t => t.ctx == ctx).map (·.quay)).eraseDups
    let s := quays.foldl (fun s q => s.putRegion q { (s.region q) with lastRefill := (s.region q).cyc }) s
    let s := s.journalCtx (s.quayOf ctx) ctx 0
    let s := s.mapTiles (fun u => u.owned && u.ctx == ctx) FullTile.refilled
    let s : State := { s with teams := s.teams.map fun t =>
      if t.ctx == ctx then
        let t := { t with dockTiles := t.dockTiles.map FullTile.refilled }
        if t.phase == .docked && t.why == 3 then { t with why := 2, readyOrder := (s.region t.quay).cyc.toNat } else t
      else t }
    let waits := s.teams.any fun t => t.phase == .docked && (s.ctx t.ctx).solvent
    let ys := s.teams.filter fun t => t.ctx == ctx && t.yield
    let s : State := { s with teams := s.teams.map fun t => if t.ctx == ctx then { t with yield := false } else t }
    .next (if waits && !x.modes.hostSwap then (ys.filter fun t => t.phase == .resident && !t.endt).foldl (fun (s : State) (t : Team) => s.beginSwap { t with yield := false } 2) s else s)

/-- R382 TOKEN_BUCKET_EMPTY: the teams of the context are descheduled; where the context selects host-assisted swapping, the host orders
it (16 R407). Log entry 95 (DEDUCED). -/
def execTokenBucketEmpty (ctx : Nat) (s : State) : Out :=
  if (s.ctx ctx).solvent || (s.ctx ctx).modes.hostSwap then .next s
  else .next ((s.teams.filter fun t => t.ctx == ctx && t.phase == .resident && !t.endt).foldl (fun s t => s.beginSwap t 3) s)

/-- The activity of the resident tiles in a metering period: a free value each. Log entry 56 (DESIGN CHOICE). -/
def activities (fresh : Nat) : List FullTile → List (FullTile × Nat)
  | [] => []
  | u :: r => (u, (Config.freeWord (fresh + r.length)).toNat) :: activities fresh r

/-- The activity of some tiles. -/
def activityOf (xs : List (FullTile × Nat)) : Nat := xs.foldl (fun n x => n + x.2) 0

/-- Charges a team its share of an energy, in whole microjoules rounded down, and notes at its tiles what they have of it (R381, R383). -/
def State.chargeShare (s : State) (energy total : Nat) (xs : List (FullTile × Nat)) (t : Team) : State :=
  let mine := xs.filter fun x => x.1.tile.ctx == t.ctx && x.1.tile.ttag == t.tag
  let s := s.chargeCtx t.quay t.ctx 2 (energy * activityOf mine / total)
  mine.foldl (fun s x => s.mapTiles (fun u => u.id == x.1.tile.id) fun u => { u with tile := u.tile.addCharge 2 (energy * x.2 / total) }) s

/-- R381 ENERGY_METER_PERIOD: the energy of a period is divided among the resident teams with tiles in the region; the rest is carried. -/
def execEnergyMeterPeriod (region microjoules : Nat) (s : State) : Out :=
  let r := s.region region
  let us := s.allTiles.filter fun u => u.tile.owned && u.tile.id.region == region && !u.tile.id.isGateway
  let xs := activities s.fresh us
  let total := activityOf xs
  let energy := microjoules + r.energyRest
  let ts := if total == 0 then [] else s.teams.filter fun t => xs.any fun x => x.1.tile.ctx == t.ctx && x.1.tile.ttag == t.tag
  let used := ts.foldl (fun n t => n + energy * activityOf (xs.filter fun x => x.1.tile.ctx == t.ctx && x.1.tile.ttag == t.tag) / total) 0
  let s := (s.putRegion region { r with energyRest := energy - used, draw := microjoules }).draw us.length
  .next (ts.foldl (fun s t => s.chargeShare energy total xs t) s)

end Sys2Proof.Machine
end

