-- ==== Sys2Proof/Machine/Region.lean ====
section
/-! DEFINITION. Regions: clocks, the power governor, regulators, boot, failures of links, tiles and rim parts (07_messages R171-R183,
16_platform R391-R395, R404, R406-R409). -/

namespace Sys2Proof.Machine

def State.modRegion (s : State) (n : Nat) (f : Region → Region) : State := s.putRegion n (f (s.region n))

/-! ### Clocks and power (R391-R393) -/

/-- One step up or down, under S5's limit of power; the clock is gated until the PLL has relocked. A change asked for while the hawser
is asserted waits until it is released (R392). -/
def State.stepClock (s : State) (region : Nat) (up : Bool) : State :=
  let r := s.region region
  let ok := r.reg == .on && !r.gated && (if up then decide (r.clk < 5) && (r.clk != 4 || decide (s.power < 30000000)) else r.clk != 0)
  if !ok then s
  else if s.hawser then s.putRegion region { r with stepAsked := some up }
  else s.putRegion region { r with clk := if up then r.clk + 1 else r.clk - 1, gated := true }

/-- R392 CLOCK_STEP_CHANGE. -/
def execClockStepChange (region : Nat) (up : Bool) (s : State) : Out := .next (s.stepClock region up)

/-- The step changes that waited for the hawser. -/
def State.askedSteps (s : State) : State :=
  (s.regions.filterMap fun r => r.2.stepAsked.map fun up => (r.1, up)).foldl (fun s a =>
    State.stepClock (s.modRegion a.1 fun r => { r with stepAsked := none }) a.1 a.2) s

/-- R392 PLL_RELOCK_DONE: the clock restarts. -/
def execPllRelockDone (region : Nat) (s : State) : Out := .next (s.modRegion region fun r => { r with gated := false })

/-- The ON region with the greatest draw whose step can fall. -/
def State.hottest (s : State) : Option Nat :=
  s.regions.foldl (fun (best : Option Nat) (n, r) =>
    if r.reg == .on && !r.gated && r.clk != 0 then
      (match best with
      | some b => if (s.region b).draw < r.draw then some n else some b
      | none => some n)
    else best) none

/-- R393 GOVERNOR_TICK with the 1 ms average: above 33 kW, until below 32 kW, the region of the greatest draw steps down. -/
def execGovernorTick (milliwatts : Nat) (s : State) : Out :=
  let lowering := decide (33000000 < milliwatts) || (s.throttle && decide (32000000 ≤ milliwatts))
  let s := { s with power := milliwatts, throttle := lowering }
  if lowering then
    match s.hottest with
    | some n => .next (s.stepClock n false)
    | none => .next s
  else .next s

/-- R393 DROOP_STRETCH: single periods are stretched by up to 50 %; CYC counts delivered edges. -/
def execDroopStretch (region : Nat) (percent : Nat) (s : State) : Out :=
  .next (s.modRegion region fun r => { r with stretch := Nat.min 50 percent })

/-! ### Regulators (R394, R395) -/

/-- The links that cross the boundary of a region, as its own routers name them, the skip links among them. -/
def edgeLinks (n : Nat) : List Link :=
  let x := 32 * (n % 8)
  let g := 34 * (n / 8)
  (upto 32).flatMap (fun k =>
    [{ x := x + k, y := g, port := 0 }, { x := x + k, y := g + 33, port := 1 }, { x := x + k, y := g, port := 4 },
      { x := x + k, y := g + 1, port := 4 }, { x := x + k, y := g + 32, port := 5 }, { x := x + k, y := g + 33, port := 5 }]) ++
    (upto 34).flatMap fun k => [{ x := x + 31, y := g + k, port := 2 }, { x := x, y := g + k, port := 3 }]

/-- Both ends of the boundary links of a region. -/
def boundary (n : Nat) : List Link × List Link :=
  let own := (edgeLinks n).filter fun l => (otherEnd l).isSome
  (own, own.filterMap otherEnd)

/-- The contexts with a tile in a region. -/
def State.ctxsIn (s : State) (n : Nat) : List Nat :=
  ((s.allTiles.filter fun u => u.tile.owned && u.tile.id.region == n && !u.tile.id.isGateway).map fun u => u.tile.ctx).eraseDups

/-- A region leaves ON (R395): its tiles, routers and quay lose their state, its contexts are killed, its links fail, and its launches go to
quay (0,0), or (1,0). What boot found of its columns, and the sites that were retired, stay. Log entry 53 (DEDUCED). -/
def State.leaveOn (s : State) (n : Nat) (r' : Region → Region) : State :=
  let ctxs := if n == 0 then s.ctxs.map (·.1) else s.ctxsIn n
  let s := s.mapTiles (fun t => t.id.region == n && !t.id.isGateway) fun u => { tile := { id := u.tile.id } }
  let s := ctxs.foldl (fun s c => s.killContext false c 7 .none 0 0) s
  let r := s.region n
  let heir := if n == 0 then 1 else 0
  let s := s.modRegion heir fun h => { h with queue := h.queue ++ r.queue }
  let s := s.putRegion n (r' { reg := r.reg, tries := r.tries, defects := r.defects, lost := r.lost, clk := r.clk })
  let s := s.lose (s.net.filter fun p => p.trail.any fun t => siteRegion t.1.x t.1.g == n)
  let s := { s with exceptions := s.exceptions.filter fun e => siteRegion (e.1 % 256) (e.1 / 256) != n }
  let b := boundary n
  let s := { s with linkFail := s.linkFail ++ b.1.filter fun l => !s.linkFail.contains l }
  let s := b.2.foldl State.endFail s
  let s := s.report heir repRegulator 0 (s.siteWord (32 * (n % 8)) (32 * (n / 8))) (r.tries + 1) 0 0
  (if n == 0 then { s with booted := false } else s).settleReleases

/-- A trip: the output is cut, TRIES rises, and the region cools (R394). Log entry 52 (DEDUCED). -/
def tripped (r : Region) : Region := { r with reg := .cool, tries := r.tries + 1 }

/-- Adds an entry at the first free place of the router at a physical site that is not dead; one that stands there already stays. -/
def State.addException (s : State) (x g : Nat) (e : BitVec 64) : State :=
  let es := (s.exceptions.find (x + 256 * g)).getD (Vector.replicate 16 0)
  if es.contains e then s
  else
    match (upto 16).find? fun k => !((es[k]?).getD 1).getLsbD 0 with
    | some k => if s.deadSite x g then s else s.writeException { x := x, y := g, idx := Fin.ofNat 16 k, entry := e }
    | none => s

/-- The detours around a dead site (R172): south past it; on the last row of the wafer, which has no south, north: log entry 90 (DESIGN
CHOICE). -/
def detourEntries (x g : Nat) : List (Nat × Nat × BitVec 64) :=
  let port := if g == 271 then 0 else 1
  (if x == 0 then [] else [(x - 1, g, mkEntry port x 255 0 255)]) ++ if 255 ≤ x then [] else [(x + 1, g, mkEntry port 0 x 0 255)]

/-- Writes detours, as far as the escape lane stays free of cycles (R170). Log entry 54 (DEDUCED). -/
def State.addDetours (s : State) (es : List (Nat × Nat × BitVec 64)) : State :=
  es.foldl (fun s e => let t := s.addException e.1 e.2.1 e.2.2; if t.acyclic then t else s) s

def State.detourSite (s : State) (x g : Nat) : State := s.addDetours (detourEntries x g)

/-- The dead sites of the wafer: those that the mapping skips, and those marked dead (R171, R183). -/
def State.deadSites (s : State) : List (Nat × Nat) :=
  s.regions.flatMap fun (n, r) => (r.defects ++ r.lost).map fun d => (32 * (n % 8) + d.1, 34 * (n / 8) + d.2)

/-- Every router of some regions gets its exception entries for the dead sites (R172, R404). -/
def State.giveDetours (s : State) (here : Nat → Bool) : State :=
  s.addDetours ((s.deadSites.flatMap fun d => detourEntries d.1 d.2).filter fun e => here (siteRegion e.1 e.2.1))

/-- The quarters that contain a column of a region. -/
def columnQuarters (region col : Nat) : List Nat := [4 * region + col / 16, 4 * region + 2 + col / 16]

/-- The quarters withdrawn for the defects of a region (R171): a column with two, or a defect in the quay strip. -/
def lostQuarters (region : Nat) (ds : List (Nat × Nat)) : List Nat :=
  (upto 32).flatMap fun c =>
    if 2 ≤ (ds.filter (·.1 == c)).length || ds.contains (c, 16) then columnQuarters region c else []

/-- REPLACE as the capacity withdrawn sets it (R409). -/
def State.noteReplace (s : State) : State :=
  if 16 < s.wdrqCount || 32 ≤ s.spareGone then { s with replace := true } else s

/-- Steps 3 to 5 of R404: the results of BIST, the mapping and the detours, the quarters that fail; RPC opens. What an earlier boot or a
retirement withdrew stays withdrawn (R408). -/
def State.openRpc (s : State) (b : BootFacts) : State :=
  let found (n : Nat) : List (Nat × Nat) := (b.defects.filter fun d => d.1 == n).map (·.2)
  let s := (upto 64).foldl (fun (s : State) n =>
    s.modRegion n fun r => { r with defects := r.defects ++ (found n).filter fun d => !(r.defects ++ r.lost).contains d }) s
  let s := { s with
    withdrawn := (s.withdrawn ++ b.failedQuarters ++ (upto 64).flatMap fun n => lostQuarters n (s.region n).defects).eraseDups
    routeGen := 0, booted := true, booting := none, degraded := false }
  (s.giveDetours fun _ => true).noteReplace

/-- The next step of a boot in progress (R404): quay (0,0) once it is ON verifies the firmware, a failure of which ends the boot; then the
other regions ramp one at a time, in number order, those that are ON or FENCED already being passed; then RPC opens. -/
def State.bootStep (s : State) : State :=
  match s.booting with
  | none => s
  | some b =>
    if (s.region 0).reg != .on then s
    else if !b.firmwareOk then { s with booting := none, degraded := true }
    else if s.regions.any fun r => r.2.reg == .ramp || r.2.reg == .cool then s
    else
      match (upto 64).find? fun n => (s.region n).reg == .off with
      | some n => s.modRegion n fun r => { r with reg := .ramp }
      | none => s.openRpc b

/-- R394 RAMP_IN_TOLERANCE: ON at S1; its routers have their detours, and its links to regions that are ON are used again; a boot goes on
(R404). -/
def execRampInTolerance (region : Nat) (s : State) : Out :=
  if (s.region region).reg != .ramp then .next s
  else
    let b := boundary region
    let back (l : Link) : Bool := b.1.contains l || b.2.contains l
    let s := s.modRegion region fun r => { r with reg := .on, clk := 1, gated := false }
    let on (x g : Nat) : Bool := (s.region (siteRegion x g)).reg == .on
    let up (l : Link) : Bool := on l.x l.y && (match otherEnd l with | some o => on o.x o.y | none => false)
    let s := { s with linkFail := s.linkFail.filter fun l => !(back l && up l) }
    .next ((if s.booting.isSome then s else s.giveDetours (· == region)).bootStep)

/-- R394 RAMP_TIMEOUT: not in tolerance at 1 ms. -/
def execRampTimeout (region : Nat) (s : State) : Out :=
  if (s.region region).reg == .ramp then .next (s.modRegion region tripped) else .next s

/-- R394 REGULATOR_FAULT. -/
def execRegulatorFault (region : Nat) (s : State) : Out :=
  if (s.region region).reg == .on then .next (s.leaveOn region tripped) else .next s

/-- R394 COOL_DONE: RESTART goes on to RAMP, or to FENCED above three tries, which sets REPLACE (R409). -/
def execCoolDone (region : Nat) (s : State) : Out :=
  let r := s.region region
  if r.reg != .cool then .next s
  else if r.tries ≤ 3 then .next (s.putRegion region { r with reg := .ramp })
  else .next (State.bootStep { s.putRegion region { r with reg := .fenced } with replace := true })

/-- R394 TRIES_RESET: one second in ON without a trip. -/
def execTriesReset (region : Nat) (s : State) : Out :=
  let r := s.region region
  if r.reg == .on then .next (s.putRegion region { r with tries := 0 }) else .next s

/-- R394 MODULE_POWER_CYCLE: every part is as at reset; what the outside still has to do stays. -/
def execModulePowerCycle (s : State) : Out := .next { State.reset with agenda := s.agenda, turn := s.turn, fresh := s.fresh }

/-! ### Boot (R404) -/

/-- R404 MODULE_BOOT: at power-on the regulator of region (0,0) ramps; once region (0,0) is ON again after it left that state, the module
reboots (R395). TRIES is 0 at boot; a region that is FENCED stays so (R394). Log entry 96 (DEDUCED). -/
def execModuleBoot (b : BootFacts) (s : State) : Out :=
  let r := (s.region 0).reg
  if s.booted || s.booting.isSome || !(r == .off || r == .on) then .next s
  else
    let rs := s.regions.map fun r => (r.1, { r.2 with tries := 0 })
    let s := { s with booting := some b, degraded := false, regions := rs }
    .next (if r == .off then s.modRegion 0 fun r => { r with reg := .ramp } else s.bootStep)

/-! ### Retirement (R182, R183, R406) -/

/-- The logical row that stands on a physical row of a column. -/
def State.rowAt (s : State) (region col prow : Nat) : Option Nat :=
  (s.logicalAt (32 * (region % 8) + col) (34 * (region / 8) + prow)).map (· % 32)

/-- The tile whose lockstep partner stands at logical coordinates (14 R350, R353). -/
def State.primaryOf (s : State) (x y : Nat) : Option TileId :=
  s.teams.findSome? fun t => (t.partners.findIdx? fun p => inRect 2 2 p.1 p.2 (x, y)).bind fun k =>
    match (quadsOf t.w t.h t.origin)[k]?, t.partners[k]? with
    | some o, some p => some (.grid (o.1 + (x - p.1)) (o.2 + (y - p.2)))
    | _, _ => none

/-- The cores on the sites of a column from logical row n down that run, and those whose partners stand there, which move with them (14
R353). -/
def State.coresBelow (s : State) (region col : Nat) (row : Option Nat) : List (TileId × CoreSel) :=
  let ids := ((upto 32).filter fun k => match row with | some n => decide (n ≤ k) | none => false).map fun k =>
    TileId.grid (32 * (region % 8) + col) (32 * (region / 8) + k)
  let primaries := ids.flatMap fun id => match id with
    | .grid x y => (s.primaryOf x y).toList
    | .gateway _ => []
  ((ids ++ primaries).eraseDups.flatMap fun id => [(id, CoreSel.stage), (id, CoreSel.comp)]).filter fun c =>
    (s.tileAt c.1).tile.owned && !((s.tileAt c.1).core c.2).stopped

/-- The resident teams that hold a tile, or its partner's site (14 R353). -/
def State.holders (s : State) (x y : Nat) : List Team :=
  s.teams.filter fun t => t.phase == .resident &&
    ((s.tilesOf t).any (fun u => u.tile.id == .grid x y) || t.partners.any fun p => inRect 2 2 p.1 p.2 (x, y))

/-- The quay begins the retirement of a site. With a spare in its column the cores of the column from it on stop; without one the teams
that hold it are swapped out (R182 steps 1 and 2, R183). While another retirement is under way it waits. Log entry 54 (DEDUCED). -/
def State.retireStart (s : State) (region col prow : Nat) (spare : Bool) (ws : List RouterWrite) : State :=
  let r := s.region region
  if r.defects.contains (col, prow) || r.lost.contains (col, prow) then s
  else if s.retiring.isSome then
    if s.retireNext.contains (region, col, prow) then s else { s with retireNext := s.retireNext ++ [(region, col, prow)] }
  else
    let row := s.rowAt region col prow
    let x := 32 * (region % 8) + col
    let y := 32 * (region / 8) + row.getD 0
    let u := s.tileAt (.grid x y)
    let s := if row.isSome then s.report region repRetirement u.tile.hnd (s.siteWord x y) u.tile.errCount 0 0 else s
    let q : Retiring := { region := region, col := col, prow := prow, spare := spare && !r.spareUsed col, writes := ws }
    let pending (s : State) : State := s.mapTiles (fun t => row.isSome && t.id == .grid x y) fun u =>
        { u with stage := { u.stage with advisory := u.stage.advisory ||| 16 }, comp := { u.comp with advisory := u.comp.advisory ||| 16 } }
    if q.spare then
      let cs := s.coresBelow region col row
      pending ({ s with retiring := some { q with cores := cs } }.sendStops region cs)
    else if row.isNone then { s with retiring := some q }
    else
      let s := (s.holders x y).foldl (fun s t => s.beginSwap t 4) s
      pending { s with retiring := some q }

/-- Whether the cores of a retirement have stopped, or its teams are gone. -/
def State.retireReady (s : State) (q : Retiring) : Bool :=
  if q.spare then q.cores.all fun c =>
    !(s.tileAt c.1).tile.owned || (((s.tileAt c.1).core c.2).stopped && !(((s.tileAt c.1).core c.2).unit.ops.any (·.started)))
  else
    match s.rowAt q.region q.col q.prow with
    | none => true
    | some n =>
      let x := 32 * (q.region % 8) + q.col
      let y := 32 * (q.region / 8) + n
      !(s.tileAt (.grid x y)).tile.owned && !(s.teams.any fun t => t.partners.any fun p => inRect 2 2 p.1 p.2 (x, y))

/-- The mapping, the dead-site mark, the exception entries and the route generation are rewritten, and the flits held in the retiring
router are discarded (R182 step 4). The entries are those given, where they keep R170, or else the detours of R172. -/
def State.retireSite (s : State) (q : Retiring) : State :=
  let x := 32 * (q.region % 8) + q.col
  let g := 34 * (q.region / 8) + q.prow
  let row := s.rowAt q.region q.col q.prow
  let s := s.lose (s.net.filter fun p => p.trail.any fun t => t.1.x == x && t.1.g == g)
  let s :=
    if q.spare then s.modRegion q.region fun r => { r with defects := r.defects ++ [(q.col, q.prow)] }
    else
      let s := s.modRegion q.region fun r => { r with lost := r.lost ++ [(q.col, q.prow)] }
      match row with
      | some n => { s with withdrawnTiles := s.withdrawnTiles ++ [(x, 32 * (q.region / 8) + n)] }
      | none => s
  let given := q.writes.foldl State.writeException s
  let s := if !q.writes.isEmpty && given.acyclic then given else s.detourSite x g
  { s with routeGen := s.routeGen + 1 }

/-- The sources have sent again; the stopped cores resume, but for those of a team that is being stopped (R182 step 7), and the next site
that is to be retired has its turn. -/
def State.retireEnd (s : State) (q : Retiring) : State :=
  let s := { s with retiring := none }
  let s := q.cores.foldl (fun s c => s.atCore c.1 c.2 fun s =>
    if s.stopping || !s.core.stopped then s
    else
      let r := s.resumeCore
      { r with core := { r.core with guard := s.core.guard, advisory := s.core.advisory &&& 15 } }) s
  let s := s.noteReplace
  match s.retireNext with
  | [] => s
  | n :: r => State.retireStart { s with retireNext := r } n.1 n.2.1 n.2.2 true []

/-- The next step of a retirement (R182, R183). -/
def State.retireStep (s : State) : State :=
  match s.retiring with
  | none => s
  | some q =>
    match q.step with
    | 0 => if s.retireReady q then { s with hawser := true, retiring := some { q with step := 1 } } else s
    | 1 => { s.retireSite q with retiring := some { q with step := 2 } }
    | 2 => State.askedSteps (State.notices { s with hawser := false, retiring := some { q with step := 3 } })
    | _ => if s.net.any fun p => p.body == .resend s.routeGen then s else s.retireEnd q

/-- R182, R183 TILE_RETIREMENT of a site: also that for an uncorrectable error in its router or its registers (R406), of which no other event
tells. Log entry 54 (DEDUCED). -/
def execTileRetirement (region : Nat) (col prow : Nat) (spare : Bool) (rewrites : List RouterWrite) (s : State) : Out :=
  .next (s.retireStart region col prow spare rewrites)

/-- The quay reports the uncorrectable errors of the tile in focus (R406). -/
def State.reportBad (s : State) : State :=
  let t := s.tile
  if t.badCount == t.badSeen then s
  else State.reportTile { s with tile := { t with badSeen := t.badCount } } repUncorrectable t.id.xy.1 t.id.xy.2 t.badCount 0 0

/-- The quay's watch over the errors of the tile in focus: 256 corrected ones within 2^30 cycles are reported, and retire it (R406). -/
def State.watchErrors (s : State) : State :=
  let s := s.reportBad
  let t := s.tile
  if t.errCount == t.errSeen then s
  else
    let now := s.cyc.toNat
    let ts := (t.errTimes.filter fun c => decide (now < c + 2 ^ 30)) ++ List.replicate (t.errCount - t.errSeen) now
    let due := decide (256 ≤ ts.length)
    let s := { s with tile := { t with errSeen := t.errCount, errTimes := if due then [] else ts } }
    match t.id with
    | .grid x y => if due then (s.reportTile repCorrected x y 256 0 0).retireStart t.id.region (x % 32) (s.rowOf x y % 34) true [] else s
    | .gateway _ => s

/-- Whether a tile has not acknowledged a stop: that of its team, or that of a retirement (R376). -/
def State.silent (s : State) (t : Team) (u : FullTile) : Bool :=
  if t.phase == .stopping || t.phase == .swappingOut then !tileQuiet (t.phase == .swappingOut) u
  else match s.retiring with
    | some q => q.cores.any fun c => c.1 == u.tile.id && !(u.core c.2).stopped
    | none => false

/-- The tile in focus is given up: nothing of it is awaited any more. -/
def State.giveUp (s : State) : State :=
  { s with core := s.core.discard, peer := s.peer.discard, tile := { s.tile with leases := [] } }

/-- R376 STOP_ACK_TIMEOUT: a tile of the team has not acknowledged; the context is killed with reason 7, and the tile is retired. -/
def execStopAckTimeout (ctx tag : Nat) (s : State) : Out :=
  match s.team? ctx tag with
  | some t =>
    match (s.tilesOf t).find? (s.silent t) with
    | some u =>
      let s := (s.atCore u.tile.id (if u.stage.stopped then .comp else .stage) fun s =>
        (s.killContext true ctx 7 .none 0 0).atCore u.tile.id .stage State.giveUp).settleReleases
      .next (match u.tile.id with | .grid x y => s.retireStart u.tile.id.region (x % 32) (s.rowOf x y % 34) true [] | .gateway _ => s)
    | none => .next s
  | none => .next s

/-! ### Failures (R175, R176, R409) -/

/-- The contexts with two resident tiles that no route joins, apart from those on dead routers, which are retired. Log entry 55 (DEDUCED). -/
def State.cutCtxs (s : State) : List Nat :=
  let dead (u : FullTile) : Bool := s.deadRouters.contains (u.tile.id.xy.1, s.rowOf u.tile.id.xy.1 u.tile.id.xy.2)
  let us := s.allTiles.filter fun u => u.tile.owned && !u.tile.id.isGateway && !dead u
  ((us.filter fun u => us.any fun v => v.tile.ctx == u.tile.ctx && !s.routed 1 u.tile.id.endpoint v.tile.id.endpoint).map fun u =>
    u.tile.ctx).eraseDups

/-- Without a detour the contexts that the cut divides are killed with reason 5, and the dead tile is retired (R176). -/
def State.noDetour (s : State) (l : Link) : State :=
  let s := (s.cutCtxs.foldl (fun s c => s.killContext false c 5 .none 0 0) s).settleReleases
  let ends := (l.x, l.y) :: match otherEnd l with | some o => [(o.x, o.y)] | none => []
  match ends.find? s.deadRouters.contains with
  | some d => s.retireStart (siteRegion d.1 d.2) (d.1 % 32) (d.2 % 34) true []
  | none => s

/-- R176 FAILURE_REPORT: the quay installs its detour, where that keeps R170, raises the generation and sends the resend notices;
otherwise there is no detour. Where the host's duty split gives the computation to software, the traffic waits until it answers (16 R407):
log entry 55 (DEDUCED). -/
def execFailureReport (l : Link) (detour : Option (List RouterWrite)) (s : State) : Out :=
  if !s.linkFail.contains l then .next s
  else
    match detour with
    | some ws =>
      if (ws.foldl State.writeException s).acyclic then .next (ws.foldl State.sendEntry s).installed else .next (s.noDetour l)
    | none => .next (if s.hostDetour then s else s.noDetour l)

/-- R409 EDGE_MEMORY_MODULE_FAILURE: REPLACE until the power cycle. -/
def execEdgeMemoryModuleFailure (engine : Bool) (number : Nat) (s : State) : Out :=
  .next { s with failedParts := if s.failedParts.contains (engine, number) then s.failedParts else s.failedParts ++ [(engine, number)], replace := true }

end Sys2Proof.Machine
end

