-- ==== Sys2Proof/Machine/Rpc.lean ====
section
/-! DEFINITION. The host's RPC commands and RDMA (15_system R390, 16_platform R396-R406). -/

namespace Sys2Proof.Machine

/-! ### Frames (R396, R397) -/

def rcOk : Nat := 0
def rcBadcmd : Nat := 1
def rcAuth : Nat := 2
def rcNopart : Nat := 3
def rcRange : Nat := 4
def rcBusy : Nat := 5
def rcDegraded : Nat := 6

/-- The response to a frame of a command (R396). Log entry 58 (DESIGN CHOICE). -/
def State.respond (s : State) (f : Frame) (cmd status : Nat) (bs : List Byte) : State := s.answerRpc cmd f.part f.adm f.reqid status bs

/-- Whether the nonce counter of a frame does not exceed the last one accepted from its sender. -/
def State.stale (s : State) (f : Frame) : Bool :=
  match s.nonces.find f.sender.toNat with
  | some n => decide (f.counter ≤ n)
  | none => false

/-- Whether a frame is a request of this protocol (R396): MAGIC, VER, RSP 0 and LEN at most 1 MiB. Another has no effect: log entry 58
(DESIGN CHOICE). -/
def frameOk (f : Frame) : Bool := f.magic == 0x53594E31 && f.ver == 1 && !f.rsp && decide (f.len ≤ 1048576)

/-- Whether the tag of a frame is right under the key that its header calls for: the administration key with ADM, else the partition's RPC
key in the direction of the device (R397). -/
def authentic (f : Frame) : Bool := f.tagOk && f.key == if f.adm then .admin else .rpc f.part true

/-- Whether the answer to the request is being held: that of a release, or of a STOP (R398, R399). -/
def State.holding (s : State) (f : Frame) : Bool :=
  (s.ctxs.any fun c => c.2.releasing.any fun r => r.1 == f.reqid && r.2.1 == f.part) || s.stops.any fun h => h.reqid == f.reqid && h.part == f.part

/-- An RPC frame: dropped and counted where its tag or nonce fails; a repeated REQID gets the cached response; a part that is fenced at
(0,0), or whose firmware failed, answers DEGRADED; AUTH where the administration key is needed; else the command, which answers a
status and a payload or holds its answer. -/
def State.rpc (s : State) (f : Frame) (cmd : Nat) (adm attest : Bool) (k : State → Option (Nat × List Byte) × State) : Out :=
  let fenced := (s.region 0).reg == .fenced
  if !(s.booted || fenced || (s.degraded && attest)) || !frameOk f then .next s
  else if !authentic f || s.stale f then
    let p := s.partOf f.part
    .next (s.putPart f.part { p with dropped := p.dropped + 1 })
  else
    let p := s.partOf f.part
    let s := { s with nonces := Tab.put s.nonces f.sender.toNat f.counter }
    match p.cache.find? fun c => c.1 == f.reqid with
    | some c => .next { s with responses := s.responses ++ [c.2] }
    | none =>
      if s.holding f then .next s
      else if !s.booted then .next (s.respond f cmd rcDegraded [])
      else if adm && !f.adm then .next (s.respond f cmd rcAuth [])
      else
        match k s with
        | (some (st, bs), s) => .next (s.respond f cmd st bs)
        | (none, s) => .next s

/-- An answer that changes nothing. -/
def deny (st : Nat) (s : State) : Option (Nat × List Byte) × State := (some (st, []), s)

/-- Whether a context exists and belongs to a partition. -/
def State.owns (s : State) (part n : Nat) : Bool := (s.ctx n).exist && (s.ctx n).part == part

/-! ### LAUNCH (R398, R399) -/

/-- Whether the quay can load a module image for n tiles. -/
def ModuleImageOk (im : ModuleImage) (n : Nat) : Bool :=
  im.loadable && im.placed.all (fun n' => decide (n' < n)) && im.berths.all (fun b => decide (b.1 < n)) && im.flex.all (fun f => decide (f.1 < n)) &&
    im.bytes.all (fun b => decide (b.1 < n) && decide (b.2.1 + b.2.2.length ≤ 0x80000)) &&
    im.keeps.all (fun k => decide (k.1 + k.2 ≤ 0x80000)) &&
    im.rings.all fun r => decide (1024 * (r.2.toNat % 512 + r.2.toNat / 512) ≤ 0x80000) && decide (r.2.toNat / 512 ≤ 64)

/-- An identifier that no launch of the module has, and no final status that is kept: among one more than those the search ends. -/
def State.freshLaunch (s : State) : Nat :=
  let used := 0 :: s.teams.map (·.launch) ++ s.regions.flatMap (fun r => r.2.queue.map (·.id)) ++ s.parts.flatMap fun p => p.2.finals.map (·.1)
  ((upto (used.length + 1)).map fun k => (s.nextLaunch + k) % 2 ^ 32).find? (!used.contains ·) |>.getD s.nextLaunch

/-- R398 LAUNCH; one that is too large, or whose predecessor has failed, completes at once (01 R30), and one for a context whose kill is
in progress completes KILLED with the report (15 R368). -/
def execLaunch (f : Frame) (pkt : LaunchPacket) (s : State) : Out :=
  s.rpc f 1 false false fun s =>
    if !s.owns f.part pkt.ctx then deny rcNopart s
    else if 63 < pkt.quay || (s.region pkt.quay).reg != .on then deny rcRange s
    else if !(pkt.w % 2 == 0 && pkt.h % 2 == 0 && pkt.w != 0 && pkt.h != 0 && decide (pkt.preds.length ≤ 8) &&
        ModuleImageOk pkt.image (pkt.w * pkt.h)) then deny rcBadcmd s
    else if !(s.ctx pkt.ctx).releasing.isEmpty then deny rcBusy s
    else
      let id := s.freshLaunch
      let q : Queued := { id := id, reqid := f.reqid, part := f.part, pkt := pkt }
      let large := s.tooLarge f.part pkt
      let s := { s with nextLaunch := (id + 1) % 2 ^ 32 }
      (some (rcOk, leBytes 4 id),
        if large then s.complete f.part id f.reqid stTooLarge []
        else if (s.ctx pkt.ctx).killing then s.complete f.part id f.reqid stKilled (s.ctx pkt.ctx).killReport
        else if s.predsState q == .failed then s.complete f.part id f.reqid stAbandoned []
        else s.modRegion pkt.quay fun r => { r with queue := r.queue ++ [q] })

/-! ### WRITE and READ (R399) -/

/-- The pages of a range that the context has not mapped. -/
def Ctx.missing (x : Ctx) (o n : Nat) : List Nat := if n == 0 then [] else (chunks o n).filterMap fun c => if (x.page false c.1).isSome then none else some c.1

/-- R399 WRITE. -/
def execWrite (f : Frame) (ctx off : Nat) (data : List (BitVec 8)) (s : State) : Out :=
  s.rpc f 2 false false fun s =>
    let x := s.ctx ctx
    if !s.owns f.part ctx then deny rcNopart s
    else if 1048576 < data.length || 2 ^ 56 < off + data.length || x.reserve < (x.missing off data.length).length then deny rcRange s
    else
      let x := (x.missing off data.length).foldl (fun x o => (x.mapPage ctx o true).getD x) x
      (some (rcOk, []), s.putCtx ctx (x.farStore none false off (plain data)))

/-- The bits of a poison map, packed into bytes. -/
def packBits (bs : List Bool) : List Byte :=
  (upto ((bs.length + 7) / 8)).map fun k =>
    BitVec.ofNat 8 ((upto 8).foldl (fun n j => if ((bs[8 * k + j]?).getD false) then n + 2 ^ j else n) 0)

/-- R399 READ: the bytes, a poisoned sector as zeros, then the poison map. -/
def execRead (f : Frame) (ctx off len : Nat) (s : State) : Out :=
  s.rpc f 3 false false fun s =>
    let x := s.ctx ctx
    if !s.owns f.part ctx then deny rcNopart s
    else if 1048576 < len || 2 ^ 56 < off + len || !(x.missing off len).isEmpty then deny rcRange s
    else
      let bs := (x.farBytes none false off len).map fun b => if b.2 then 0 else b.1
      (some (rcOk, bs ++ packBits ((sectors off len).map x.edgePoison.contains)), s)

/-! ### QUERY (R398, R400, R406, R389, R390, R413) -/

def wordBytes (ws : List Word) : List Byte := ws.flatMap fun w => leBytes 8 w.toNat

/-- R400 QUERY 0. -/
def execQueryResidency (f : Frame) (s : State) : Out := s.rpc f 4 false false fun s => (some (rcOk, wordBytes (s.residency f.part)), s)

/-- R413 QUERY 1: of the resident team of the context, or of its last ended team. -/
def execQueryCounters (f : Frame) (ctx : Nat) (s : State) : Out :=
  s.rpc f 4 false false fun s =>
    if !s.owns f.part ctx then deny rcNopart s
    else
      match s.teams.find? fun t => t.ctx == ctx && t.phase != .docked && t.phase != .ended with
      | some t => (some (rcOk, wordBytes (s.replayCounters t (s.tilesOf t))), s)
      | none => (some (rcOk, wordBytes (s.ctx ctx).counters), s)

/-- Log entry 59 (DESIGN CHOICE). -/
def ErrRecord.bytes (e : ErrRecord) : List Byte :=
  Config.errRecord [e.kind, e.hnd.toNat, e.site.toNat, e.gen.toNat, e.cyc.toNat, e.count, e.h0.toNat, e.h1.toNat]

/-- R406 QUERY 2: the records of other partitions, and those of sites that no team of the caller's partition owns, read as zero (R390). -/
def execQueryErrorLog (f : Frame) (region : Nat) (s : State) : Out :=
  s.rpc f 4 false false fun s =>
    (some (rcOk, (s.region region).errLog.flatMap fun e =>
      let bs := e.bytes
      if e.part == f.part then bs else bs.map fun _ => 0), s)

/-- R389, R390 QUERY 3: the trace buffer of a region. -/
def execQueryTrace (f : Frame) (region : Nat) (s : State) : Out :=
  s.rpc f 4 false false fun s =>
    (some (rcOk, (s.region region).trace.flatMap fun t => if t.part == f.part then t.bytes else List.replicate 32 0), s)

/-! ### ALLOCATE (R399, R219) -/

/-- The capacities of the tables of R219, in the order of `Part.quota`, and their default quotas. -/
def quotaTable : List (Nat × Nat) := [(1024, 16), (65536, 1024), (4096, 64), (16384, 256), (1024, 16), (16384, 256)]

/-- Whether the quotas of every partition together stay within the tables. -/
def State.quotasFit (s : State) : Bool :=
  (quotaTable.zip (upto 6)).all fun q =>
    decide (s.parts.foldl (fun n p => if p.2.quarters.isEmpty then n else n + p.2.quota q.2 q.1.2) 0 ≤ q.1.1)

/-- The quarters of other partitions. -/
def State.heldByOther (s : State) (part q : Nat) : Bool := s.parts.any fun p => p.1 != part && p.2.quarters.contains q

/-- The windows of a grant, after the n that the partition has: engine, NET offset, bytes (R401). Log entry 47 (DESIGN CHOICE). -/
def newWindows (part n : Nat) : List (Nat × Nat) → List (Nat × Nat × Nat)
  | [] => []
  | (e, b) :: r => (e, (2 ^ 26 * ((Config.netBase part).val + n)), b) :: newWindows part (n + 1) r

/-- The pages by which context n reaches a window. -/
def windowPages (n : Nat) (w : Nat × Nat × Nat) : List Page :=
  (upto ((w.2.2 + 65535) / 65536)).map fun k =>
    { ctx := n, base := w.2.1 + 65536 * k, log := 16, net := true, target := w.1, r := true, w := true }

/-- R399 ALLOCATE operation 0. Log entry 50 (DEDUCED). -/
def execAllocateQuarters (f : Frame) (q : QuarterGrant) (s : State) : Out :=
  s.rpc f 5 true false fun s =>
    let p := s.partOf q.partition
    let free := s.freeQuarters.filter s.usable
    let bad :=
      if q.byCount then decide (free.length < q.count)
      else q.quarters.any fun k => decide (256 ≤ k) || s.heldByOther q.partition k || !s.usable k
    let badWin := decide (16 < p.windows.length + q.windows.length) ||
      q.windows.any fun w => decide (16 ≤ w.1) || decide (w.2 < 65536) || decide (67108864 < w.2)
    let mine := if q.byCount then free.filter q.quarters.contains else q.quarters
    let ws := newWindows q.partition p.windows.length q.windows
    let p' := { p with
      quarters := (p.quarters ++ mine).eraseDups
      quotas := q.quotas.foldl (fun t k => Tab.put t k.1 k.2) p.quotas
      windows := p.windows ++ ws, peers := p.peers + q.peers }
    let s' := { (s.putPart q.partition p') with
      hostDetour := q.hostDetour, hostSigning := q.hostSigning
      ctxs := s.ctxs.map fun (n, x) => (n, if n < 4096 && x.part == q.partition then { x with pages := x.pages ++ ws.flatMap (windowPages n) } else x) }
    if bad || badWin || decide (256 < p.peers + q.peers) || decide (64 ≤ q.partition) || !s'.quotasFit then deny rcRange s
    else if q.byCount && mine.length != q.count then (none, s)
    else (some (rcOk, mine.map fun k => BitVec.ofNat 8 k), s')

/-- The pages of the capability heap. Log entry 31 (DESIGN CHOICE). -/
def heapPages (n base size : Nat) : List Page :=
  (chunks base size).map fun c =>
    { ctx := n, base := c.1 / 65536 * 65536, log := 16, net := false, target := (Config.homeModule n (c.1 / 65536)).val,
      frame := Config.homeFrame n (c.1 / 65536), r := true, w := true }

/-- A new context of a partition; its trap vector has the bits that TVEC has (15 R364). -/
def newCtx (pt : Part) (part : Nat) (c : CtxRequest) : Ctx :=
  { exist := true, part := part, modes := c.modes, quota := #v[c.quotas.1, c.quotas.2.1, c.quotas.2.2],
    level := #v[c.quotas.1, c.quotas.2.1, c.quotas.2.2], tvec := c.tvec &&& 0x1FFFE000FF800, reserve := c.reserve,
    pages := heapPages c.number c.heapBase c.heapSize ++ pt.windows.flatMap (windowPages c.number), net := pt.net, netPoison := pt.netPoison,
    heapFree := [(c.heapBase, c.heapSize)], dock := Config.dockPtr c.number, ctlb := Config.ctlPtr c.number, dockSize := c.dockSize, spillQuota := c.spillQuota }

/-- R399 ALLOCATE operation 1: `number` is the quay's choice among the contexts that do not exist. Log entry 73 (DESIGN CHOICE). -/
def execAllocateCreateContext (f : Frame) (c : CtxRequest) (s : State) : Out :=
  s.rpc f 5 false false fun s =>
    if c.modes.sys && !f.adm then deny rcAuth s
    else if (upto 4096).all fun n => (s.ctx n).exist then deny rcBusy s
    else if decide (4096 ≤ c.number) || (s.ctx c.number).exist then (none, s)
    else (some (rcOk, leBytes 2 c.number), s.putCtx c.number (newCtx (s.partOf f.part) f.part c))

/-- R399 ALLOCATE operation 2: held until every team of the context has ended. -/
def execAllocateReleaseContext (f : Frame) (ctx : Nat) (s : State) : Out :=
  s.rpc f 5 false false fun s =>
    if !s.owns f.part ctx then deny rcNopart s
    else
      let s := s.flushQueues ctx stAbandoned []
      if s.teams.any fun t => t.ctx == ctx then
        let x := s.ctx ctx
        (none, s.putCtx ctx { x with releasing := x.releasing ++ [(f.reqid, f.part, f.adm)] })
      else (some (rcOk, []), { s with ctxs := s.ctxs.filter fun c => c.1 != ctx })

/-! ### STOP (R368, R398) -/

/-- Whether a STOP may name a context: its own partition's, or any with the administration key (R397). -/
def State.stopAuth (s : State) (f : Frame) (ctx : Nat) : Nat :=
  if !(s.ctx ctx).exist then rcNopart else if (s.ctx ctx).part != f.part && !f.adm then rcAuth else rcOk

/-- R368, R398 STOP of a context: it is killed with reason 6, and the answer comes once the stop is complete. -/
def execStopContext (f : Frame) (ctx : Nat) (s : State) : Out :=
  s.rpc f 6 false false fun s =>
    if s.stopAuth f ctx != rcOk then deny (s.stopAuth f ctx) s
    else
      let s := s.killContext false ctx 6 .none 0 0
      (none, State.settleReleases { s with stops := s.stops ++ [{ ctx := ctx, part := f.part, adm := f.adm, reqid := f.reqid }] })

/-- R368 STOP of a team: its launch completes KILLED, and the context runs on. -/
def execStopTeam (f : Frame) (ctx tag : Nat) (s : State) : Out :=
  s.rpc f 6 false false fun s =>
    if s.stopAuth f ctx != rcOk then deny (s.stopAuth f ctx) s
    else
      match s.team? ctx tag with
      | none => deny rcRange s
      | some t =>
        let rep := s.killReport false ctx 6 .none 0 0
        let s := (s.teams.filter fun u => u.launch == t.launch).foldl (fun s u => if u.rep.isEmpty then s.killTeam rep u else s) s
        (none, State.settleReleases { s with
          stops := s.stops ++ [{ ctx := ctx, launch := some t.launch, part := f.part, adm := f.adm, reqid := f.reqid }] })

/-! ### ATTEST and JOURNAL (R403, R405) -/

/-- The order code and the stepping of the identity block. Log entry 60 (DESIGN CHOICE). -/
def identity : List Byte := ([65, 80, 45, 83, 89, 78, 45, 54, 52, 66, 49] : List Nat).map fun n => BitVec.ofNat 8 n

/-- The attestation report (R405). -/
def State.attestation (s : State) (nonce : List Byte) : List Byte :=
  identity ++ Config.firmwareRelease ++ Config.serial ++ Config.measurements ++ nonce ++ leBytes 2 s.routeGen.toNat ++
    leBytes 8 s.summary.toNat ++ Config.attestPublicKey

/-- R405 ATTEST. -/
def execAttest (f : Frame) (nonce : List (BitVec 8)) (s : State) : Out :=
  s.rpc f 7 true true fun s =>
    let r := s.attestation nonce
    (some (rcOk, r ++ Config.attestSign r), s)

/-- The journal with the GAP record of the charges that found no room, if there are any, as its last record. -/
def Journal.closeGap (j : Journal) : Journal :=
  if j.gap || j.gapTotals != (0, 0, 0) then
    { j.add [0, 0, 0, j.gapTotals.1, j.gapTotals.2.1, j.gapTotals.2.2, 0, flGap] with gap := false, gapTotals := (0, 0, 0) }
  else j

/-- One quay's part of a JOURNAL: the signed checkpoint and the records that have not been returned, which frees their space. -/
def State.journalOne (s : State) (q : Nat) : List Byte × State :=
  let s : State := { s with journals := Tab.put s.journals q (s.journalOf q).closeGap }
  let c := s.checkpoint q
  let signed := c ++ Config.meterSign c
  let j := s.journalOf q
  (signed ++ j.records.flatten, { s with journals := Tab.put s.journals q { j with records := [], signed := signed } })

/-- R403 JOURNAL of a quay, or of all with number 64. -/
def execJournal (f : Frame) (quay : Nat) (s : State) : Out :=
  s.rpc f 8 true false fun s =>
    let r := (if quay == 64 then upto 64 else [quay]).foldl (fun (r : List Byte × State) q =>
      let x := r.2.journalOne q
      (r.1 ++ x.1, x.2)) ([], s)
    (some (rcOk, r.1), r.2)

/-! ### RDMA (R401) -/

/-- R401 HOST_RDMA_OPERATION on a window of a partition: a write, or a read whose bytes go out without a REQID. Log entry 57 (DESIGN CHOICE). -/
def execHostRdmaOperation (part window off : Nat) (write : Option (List (BitVec 8))) (len : Nat) (s : State) : Out :=
  let p := s.partOf part
  match p.windows[window]? with
  | none => .next s
  | some (_, base, n) =>
    match write with
    | some bs =>
      if n < off + bs.length then .next s
      else
        let o := base + off
        let s := s.putPart part { p with net := p.net.writeMany o (bs.map some), netPoison := poisonAfter p.netPoison o (plain bs) }
        .next { s with ctxs := s.ctxs.map fun (k, x) => (k, if k < 4096 && x.part == part then x.farStore none true o (plain bs) else x) }
    | none =>
      if n < off + len then .next s
      else .next { s with responses := s.responses ++ [{ words := [], payload := p.net.readMany (base + off) len }] }

end Sys2Proof.Machine
end

