-- ==== Sys2Proof/Machine/Scalar.lean ====
section
/-! DEFINITION. Scalar and address instructions (03_scalar R68-R85). -/

namespace Sys2Proof.Machine

/-- 1 or 0 (R70). -/
def bit01 (b : Bool) : Word := if b then 1 else 0

/-- R70 ADD. -/
def execAdd (d a b : SReg) (s : State) : Out := s.alu d [a, b] (s.S a + s.S b)
/-- R70 SUB. -/
def execSub (d a b : SReg) (s : State) : Out := s.alu d [a, b] (s.S a - s.S b)
/-- R70 AND. -/
def execAnd (d a b : SReg) (s : State) : Out := s.alu d [a, b] (s.S a &&& s.S b)
/-- R70 OR. -/
def execOr (d a b : SReg) (s : State) : Out := s.alu d [a, b] (s.S a ||| s.S b)
/-- R70 XOR. -/
def execXor (d a b : SReg) (s : State) : Out := s.alu d [a, b] (s.S a ^^^ s.S b)
/-- R70 SHL: the count is bits [5:0]. -/
def execShl (d a b : SReg) (s : State) : Out := s.alu d [a, b] (s.S a <<< ((s.S b).toNat % 64))
/-- R70 SHR. -/
def execShr (d a b : SReg) (s : State) : Out := s.alu d [a, b] (s.S a >>> ((s.S b).toNat % 64))
/-- R70 SHA. -/
def execSha (d a b : SReg) (s : State) : Out := s.alu d [a, b] ((s.S a).sshiftRight ((s.S b).toNat % 64))
/-- R70 MUL. -/
def execMul (d a b : SReg) (s : State) : Out := s.alu d [a, b] (s.S a * s.S b)

/-- The high half of the signed product. -/
def mulHigh (x y : Word) : Word := BitVec.ofInt 64 (x.toInt * y.toInt / 2 ^ 64)
/-- The high half of the unsigned product. -/
def mulHighU (x y : Word) : Word := BitVec.ofNat 64 (x.toNat * y.toNat / 2 ^ 64)

/-- R70 MULH. -/
def execMulh (d a b : SReg) (s : State) : Out := s.alu d [a, b] (mulHigh (s.S a) (s.S b))
/-- R70 MULHU. -/
def execMulhu (d a b : SReg) (s : State) : Out := s.alu d [a, b] (mulHighU (s.S a) (s.S b))
/-- R70 SEQ. -/
def execSeq (d a b : SReg) (s : State) : Out := s.alu d [a, b] (bit01 (s.S a == s.S b))
/-- R70 SLT. -/
def execSlt (d a b : SReg) (s : State) : Out := s.alu d [a, b] (bit01 ((s.S a).slt (s.S b)))
/-- R70 SLTU. -/
def execSltu (d a b : SReg) (s : State) : Out := s.alu d [a, b] (bit01 ((s.S a).ult (s.S b)))
/-- R70, R71 SEL. -/
def execSel (d a b : SReg) (s : State) : Out := s.alu d [a, b] (if s.S d != 0 then s.S a else s.S b)
/-- R70 MIN. -/
def execMin (d a b : SReg) (s : State) : Out := s.alu d [a, b] (if (s.S a).slt (s.S b) then s.S a else s.S b)
/-- R70 MAX. -/
def execMax (d a b : SReg) (s : State) : Out := s.alu d [a, b] (if (s.S a).slt (s.S b) then s.S b else s.S a)
/-- R70 MINU. -/
def execMinu (d a b : SReg) (s : State) : Out := s.alu d [a, b] (if (s.S a).ult (s.S b) then s.S a else s.S b)
/-- R70 MAXU. -/
def execMaxu (d a b : SReg) (s : State) : Out := s.alu d [a, b] (if (s.S a).ult (s.S b) then s.S b else s.S a)

/-- sext64(bits(v, 31, 0)). -/
def sextW (v : Word) : Word := (v.truncate 32).signExtend 64

/-- R70 ADDW. -/
def execAddw (d a b : SReg) (s : State) : Out := s.alu d [a, b] (sextW (s.S a + s.S b))
/-- R70 SUBW. -/
def execSubw (d a b : SReg) (s : State) : Out := s.alu d [a, b] (sextW (s.S a - s.S b))
/-- R70 MULW. -/
def execMulw (d a b : SReg) (s : State) : Out := s.alu d [a, b] (sextW (s.S a * s.S b))

/-! ### Immediates (R74) and MOV (02 R61) -/

/-- R74 ADDI. -/
def execAddi (d a : SReg) (imm : Int) (s : State) : Out := s.alu d [a] (s.S a + BitVec.ofInt 64 imm)
/-- R74 LI. -/
def execLi (d : SReg) (imm : Int) (s : State) : Out := s.alu d [] (BitVec.ofInt 64 imm)
/-- R74 ANDI. -/
def execAndi (d a : SReg) (imm : Int) (s : State) : Out := s.alu d [a] (s.S a &&& BitVec.ofInt 64 imm)
/-- R74 SHLI. -/
def execShli (d a : SReg) (n : Fin 64) (s : State) : Out := s.alu d [a] (s.S a <<< n.val)
/-- R74 SHRI. -/
def execShri (d a : SReg) (n : Fin 64) (s : State) : Out := s.alu d [a] (s.S a >>> n.val)
/-- R74 SHAI. -/
def execShai (d a : SReg) (n : Fin 64) (s : State) : Out := s.alu d [a] ((s.S a).sshiftRight n.val)
/-- R61 MOV. -/
def execMov (d a : SReg) (s : State) : Out := s.alu d [a] (s.S a)

/-! ### Bit fields (R76, R77) -/

def clz (x : Word) : Nat := ((upto 64).takeWhile fun j => !x.getLsbD (63 - j)).length
def ctz (x : Word) : Nat := ((upto 64).takeWhile fun j => !x.getLsbD j).length
def popc (x : Word) : Nat := ((upto 64).filter fun j => x.getLsbD j).length

/-- R76 CLZ. -/
def execClz (d a : SReg) (s : State) : Out := s.alu d [a] (BitVec.ofNat 64 (clz (s.S a)))
/-- R76 CTZ. -/
def execCtz (d a : SReg) (s : State) : Out := s.alu d [a] (BitVec.ofNat 64 (ctz (s.S a)))
/-- R76 POPC. -/
def execPopc (d a : SReg) (s : State) : Out := s.alu d [a] (BitVec.ofNat 64 (popc (s.S a)))
/-- R76 BREV. -/
def execBrev (d a : SReg) (s : State) : Out := s.alu d [a] (s.S a).reverse
/-- R76 SEXT.b. -/
def execSextB (d a : SReg) (s : State) : Out := s.alu d [a] (((s.S a).truncate 8).signExtend 64)
/-- R76 SEXT.h. -/
def execSextH (d a : SReg) (s : State) : Out := s.alu d [a] (((s.S a).truncate 16).signExtend 64)
/-- R76 SEXT.w. -/
def execSextW (d a : SReg) (s : State) : Out := s.alu d [a] (sextW (s.S a))
/-- R76 ZEXT.w. -/
def execZextW (d a : SReg) (s : State) : Out := s.alu d [a] (((s.S a).truncate 32).zeroExtend 64)

/-- Position and length of a field (R77). -/
def fieldOf (y : Word) : Nat × Nat := (y.toNat % 64, Nat.min (y.toNat / 256 % 128) 64)

/-- The low n bits set. -/
def lowMask (n : Nat) : Word := BitVec.ofNat 64 (2 ^ n - 1)

/-- The field of x that y names (R77). -/
def bitExtract (x y : Word) : Word := (x >>> (fieldOf y).1) &&& lowMask (fieldOf y).2

/-- old with the low bits of x put into the field that y names (R77). -/
def bitInsert (old x y : Word) : Word :=
  let m := lowMask (fieldOf y).2 <<< (fieldOf y).1
  (old &&& ~~~m) ||| ((x <<< (fieldOf y).1) &&& m)

/-- R77 BEXT. -/
def execBext (d a b : SReg) (s : State) : Out := s.alu d [a, b] (bitExtract (s.S a) (s.S b))
/-- R77 BINS. -/
def execBins (d a b : SReg) (s : State) : Out := s.alu d [a, b] (bitInsert (s.S d) (s.S a) (s.S b))

/-! ### Division (R72, R73, R84, R85) -/

/-- Quotient and remainder of n-bit operands; a zero divisor, which only a patched entry has, gives all ones and the dividend
(R72, R85). -/
def divideBits (signed : Bool) (n : Nat) (x y : BitVec n) : BitVec n × BitVec n :=
  if y == 0 then (BitVec.allOnes n, x)
  else if signed then (BitVec.ofInt n (Int.tdiv x.toInt y.toInt), BitVec.ofInt n (Int.tmod x.toInt y.toInt))
  else (BitVec.ofNat n (x.toNat / y.toNat), BitVec.ofNat n (x.toNat % y.toNat))

def divide64 (signed rem : Bool) (x y : Word) : Word :=
  let r := divideBits signed 64 x y
  if rem then r.2 else r.1

def divide32 (signed rem : Bool) (x y : Word) : Word :=
  let r := divideBits signed 32 (x.truncate 32) (y.truncate 32)
  (if rem then r.2 else r.1).signExtend 64

/-- What a divide writes, from its captured operands. -/
def divideResult (i : Instr) (x y : Word) : Word :=
  match i with
  | .div _ _ _ => divide64 true false x y
  | .rem _ _ _ => divide64 true true x y
  | .divu _ _ _ => divide64 false false x y
  | .remu _ _ _ => divide64 false true x y
  | .divw _ _ _ => divide32 true false x y
  | .remw _ _ _ => divide32 true true x y
  | .divuw _ _ _ => divide32 false false x y
  | .remuw _ _ _ => divide32 false true x y
  | _ => 0

/-- A divide at issue: ZDIV before any wait for the divider or an entry (R73, R414), then an entry of KIND 1 (R84). -/
def State.divide (s : State) (i : Instr) (d a b : SReg) (w : Bool) : Out :=
  if !s.core.ready [d, a, b] then s.stall
  else if (if w then (s.S b).truncate 32 == (0 : W32) else s.S b == 0) then s.trapB .zdiv s.core.pc
  else if s.core.claims.any fun e => e.kind == 1 then s.stall
  else s.withEntry fun n => .next (s.putEntry n (s.newEntry i 1 (s.S a) (s.S b))).retire

/-- R72 DIV. -/
def execDiv (d a b : SReg) (s : State) : Out := s.divide (.div d a b) d a b false
/-- R72 REM. -/
def execRem (d a b : SReg) (s : State) : Out := s.divide (.rem d a b) d a b false
/-- R72 DIVU. -/
def execDivu (d a b : SReg) (s : State) : Out := s.divide (.divu d a b) d a b false
/-- R72 REMU. -/
def execRemu (d a b : SReg) (s : State) : Out := s.divide (.remu d a b) d a b false
/-- R72 DIVW. -/
def execDivw (d a b : SReg) (s : State) : Out := s.divide (.divw d a b) d a b true
/-- R72 REMW. -/
def execRemw (d a b : SReg) (s : State) : Out := s.divide (.remw d a b) d a b true
/-- R72 DIVUW. -/
def execDivuw (d a b : SReg) (s : State) : Out := s.divide (.divuw d a b) d a b true
/-- R72 REMUW. -/
def execRemuw (d a b : SReg) (s : State) : Out := s.divide (.remuw d a b) d a b true

/-- R84, R85, R370 DIVIDE_COMPLETE: the divide of entry e writes its destination from its captured operands and leaves the queue; a
frozen divide has stopped. -/
def execDivideComplete (e : Fin 8) (s : State) : Out :=
  let x := s.core.rq[e]
  match x.op with
  | some i =>
    if x.v && x.kind == 1 && x.st == 0 && !s.core.frozen x then .next (s.settleWord e (divideResult i x.w1 x.w2)) else .next s
  | none => .next s

/-! ### Tagged pointers (R78-R81) -/

/-- What PMK builds from an offset and a space and rank, or none for BND (R80). -/
def makePtr (x y : Word) : Option Word :=
  let sp := y.toNat % 16
  if 5 ≤ sp then none
  else if spaceLimit sp < x.toNat then none
  else some (BitVec.ofNat 64 (sp * 2 ^ 60 + (if sp == 1 then y.toNat / 16 % 2 ^ 20 * 2 ^ 40 else 0)) ||| x)

/-- R80 PMK. -/
def execPmk (d a b : SReg) (s : State) : Out :=
  if !s.core.ready [d, a, b] then s.stall
  else match makePtr (s.S a) (s.S b) with
    | some p => .next (s.setS d p).retire
    | none => s.trapB .bnd (s.S a)
/-- R80 PSPC. -/
def execPspc (d a : SReg) (s : State) : Out := s.alu d [a] (BitVec.ofNat 64 (ptrSpace (s.S a)))
/-- R80 PRNK. -/
def execPrnk (d a : SReg) (s : State) : Out := s.alu d [a] (BitVec.ofNat 64 (ptrRank (s.S a)))
/-- R80, R81 POFF. -/
def execPoff (d a : SReg) (s : State) : Out := s.alu d [a] (BitVec.ofNat 64 (ptrOfs (s.S a)))
/-- R80 PADD. -/
def execPadd (d a b : SReg) (s : State) : Out :=
  if !s.core.ready [d, a, b] then s.stall
  else match ea (s.S a) (s.S b).toInt with
    | some p => .next (s.setS d p).retire
    | none => s.trapB .bnd (s.S a)

end Sys2Proof.Machine
end

