-- ==== Sys2Proof/Machine/Dispatch.lean ====
section
/-! DEFINITION. The meaning of every instruction and event: one arm per constructor of Instr. -/

namespace Sys2Proof.Machine

/-- Runs an instruction of the core in focus, or an event. -/
def exec (i : Instr) (s : State) : Host.Outcome State Fault Refusal :=
  match i with
  | .nop => Sys2Proof.Machine.execNop s
  | .endAct => Sys2Proof.Machine.execEndAct s
  | .ret => Sys2Proof.Machine.execRet s
  | .brk => Sys2Proof.Machine.execBrk s
  | .endTeam => Sys2Proof.Machine.execEndTeam s
  | .add d a b => Sys2Proof.Machine.execAdd d a b s
  | .sub d a b => Sys2Proof.Machine.execSub d a b s
  | .and d a b => Sys2Proof.Machine.execAnd d a b s
  | .or d a b => Sys2Proof.Machine.execOr d a b s
  | .xor d a b => Sys2Proof.Machine.execXor d a b s
  | .shl d a b => Sys2Proof.Machine.execShl d a b s
  | .shr d a b => Sys2Proof.Machine.execShr d a b s
  | .sha d a b => Sys2Proof.Machine.execSha d a b s
  | .mul d a b => Sys2Proof.Machine.execMul d a b s
  | .mulh d a b => Sys2Proof.Machine.execMulh d a b s
  | .div d a b => Sys2Proof.Machine.execDiv d a b s
  | .rem d a b => Sys2Proof.Machine.execRem d a b s
  | .seq d a b => Sys2Proof.Machine.execSeq d a b s
  | .slt d a b => Sys2Proof.Machine.execSlt d a b s
  | .sltu d a b => Sys2Proof.Machine.execSltu d a b s
  | .sel d a b => Sys2Proof.Machine.execSel d a b s
  | .min d a b => Sys2Proof.Machine.execMin d a b s
  | .max d a b => Sys2Proof.Machine.execMax d a b s
  | .minu d a b => Sys2Proof.Machine.execMinu d a b s
  | .maxu d a b => Sys2Proof.Machine.execMaxu d a b s
  | .addi d a imm => Sys2Proof.Machine.execAddi d a imm s
  | .li d imm => Sys2Proof.Machine.execLi d imm s
  | .andi d a imm => Sys2Proof.Machine.execAndi d a imm s
  | .shli d a n => Sys2Proof.Machine.execShli d a n s
  | .shri d a n => Sys2Proof.Machine.execShri d a n s
  | .shai d a n => Sys2Proof.Machine.execShai d a n s
  | .mov d a => Sys2Proof.Machine.execMov d a s
  | .qrd d q => Sys2Proof.Machine.execQrd d q s
  | .qwr q a => Sys2Proof.Machine.execQwr q a s
  | .ldw d a imm x => Sys2Proof.Machine.execLdw d a imm x s
  | .ldd d a imm x => Sys2Proof.Machine.execLdd d a imm x s
  | .stw d a imm x => Sys2Proof.Machine.execStw d a imm x s
  | .std d a imm x => Sys2Proof.Machine.execStd d a imm x s
  | .ldr d a imm p x => Sys2Proof.Machine.execLdr d a imm p x s
  | .str d a imm p x => Sys2Proof.Machine.execStr d a imm p x s
  | .bra imm => Sys2Proof.Machine.execBra imm s
  | .call imm => Sys2Proof.Machine.execCall imm s
  | .bz d imm => Sys2Proof.Machine.execBz d imm s
  | .bnz d imm => Sys2Proof.Machine.execBnz d imm s
  | .loop d imm => Sys2Proof.Machine.execLoop d imm s
  | .sendS a b rep x => Sys2Proof.Machine.execSendS a b rep x s
  | .sendR d a c p x => Sys2Proof.Machine.execSendR d a c p x s
  | .sendT t a rep x => Sys2Proof.Machine.execSendT t a rep x s
  | .sendH a rep x => Sys2Proof.Machine.execSendH a rep x s
  | .inpop d => Sys2Proof.Machine.execInpop d s
  | .inrd d a => Sys2Proof.Machine.execInrd d a s
  | .inrdR d base bank => Sys2Proof.Machine.execInrdR d base bank s
  | .insk d => Sys2Proof.Machine.execInsk d s
  | .rwaitFull h n => Sys2Proof.Machine.execRwaitFull h n s
  | .rwaitFree h n => Sys2Proof.Machine.execRwaitFree h n s
  | .radvHead h n => Sys2Proof.Machine.execRadvHead h n s
  | .radvTail h n => Sys2Proof.Machine.execRadvTail h n s
  | .jr a => Sys2Proof.Machine.execJr a s
  | .callr a => Sys2Proof.Machine.execCallr a s
  | .mulhu d a b => Sys2Proof.Machine.execMulhu d a b s
  | .divu d a b => Sys2Proof.Machine.execDivu d a b s
  | .remu d a b => Sys2Proof.Machine.execRemu d a b s
  | .clz d a => Sys2Proof.Machine.execClz d a s
  | .ctz d a => Sys2Proof.Machine.execCtz d a s
  | .popc d a => Sys2Proof.Machine.execPopc d a s
  | .brev d a => Sys2Proof.Machine.execBrev d a s
  | .bext d a b => Sys2Proof.Machine.execBext d a b s
  | .bins d a b => Sys2Proof.Machine.execBins d a b s
  | .sextB d a => Sys2Proof.Machine.execSextB d a s
  | .sextH d a => Sys2Proof.Machine.execSextH d a s
  | .sextW d a => Sys2Proof.Machine.execSextW d a s
  | .zextW d a => Sys2Proof.Machine.execZextW d a s
  | .addw d a b => Sys2Proof.Machine.execAddw d a b s
  | .subw d a b => Sys2Proof.Machine.execSubw d a b s
  | .mulw d a b => Sys2Proof.Machine.execMulw d a b s
  | .divw d a b => Sys2Proof.Machine.execDivw d a b s
  | .remw d a b => Sys2Proof.Machine.execRemw d a b s
  | .divuw d a b => Sys2Proof.Machine.execDivuw d a b s
  | .remuw d a b => Sys2Proof.Machine.execRemuw d a b s
  | .padd d a b => Sys2Proof.Machine.execPadd d a b s
  | .pmk d a b => Sys2Proof.Machine.execPmk d a b s
  | .pspc d a => Sys2Proof.Machine.execPspc d a s
  | .prnk d a => Sys2Proof.Machine.execPrnk d a s
  | .poff d a => Sys2Proof.Machine.execPoff d a s
  | .bccEq a b imm => Sys2Proof.Machine.execBccEq a b imm s
  | .bccNe a b imm => Sys2Proof.Machine.execBccNe a b imm s
  | .bccLt a b imm => Sys2Proof.Machine.execBccLt a b imm s
  | .bccGe a b imm => Sys2Proof.Machine.execBccGe a b imm s
  | .bccuLtu a b imm => Sys2Proof.Machine.execBccuLtu a b imm s
  | .bccuGeu a b imm => Sys2Proof.Machine.execBccuGeu a b imm s
  | .ldx z d a b x => Sys2Proof.Machine.execLdx z d a b x s
  | .ldxs z d a b x => Sys2Proof.Machine.execLdxs z d a b x s
  | .stx z d a b x => Sys2Proof.Machine.execStx z d a b x s
  | .ldt t a imm x => Sys2Proof.Machine.execLdt t a imm x s
  | .stt t a imm x => Sys2Proof.Machine.execStt t a imm x s
  | .lds d a b p x => Sys2Proof.Machine.execLds d a b p x s
  | .sts d a b p x => Sys2Proof.Machine.execSts d a b p x s
  | .cld z d a b x => Sys2Proof.Machine.execCld z d a b x s
  | .cst z d a b x => Sys2Proof.Machine.execCst z d a b x s
  | .cbnd d a b => Sys2Proof.Machine.execCbnd d a b s
  | .cnar d a b c => Sys2Proof.Machine.execCnar d a b c s
  | .cchk d a b => Sys2Proof.Machine.execCchk d a b s
  | .alloc d a b => Sys2Proof.Machine.execAlloc d a b s
  | .free a => Sys2Proof.Machine.execFree a s
  | .fenceRwTile => Sys2Proof.Machine.execFenceRwTile s
  | .fenceRwQuad => Sys2Proof.Machine.execFenceRwQuad s
  | .fenceRwRegion => Sys2Proof.Machine.execFenceRwRegion s
  | .fenceRwWafer => Sys2Proof.Machine.execFenceRwWafer s
  | .fenceRwPod => Sys2Proof.Machine.execFenceRwPod s
  | .fenceR => Sys2Proof.Machine.execFenceR s
  | .fenceWTile => Sys2Proof.Machine.execFenceWTile s
  | .fenceWQuad => Sys2Proof.Machine.execFenceWQuad s
  | .fenceWRegion => Sys2Proof.Machine.execFenceWRegion s
  | .fenceWWafer => Sys2Proof.Machine.execFenceWWafer s
  | .fenceWPod => Sys2Proof.Machine.execFenceWPod s
  | .fenceI => Sys2Proof.Machine.execFenceI s
  | .amoaAdd d a b w x => Sys2Proof.Machine.execAmoaAdd d a b w x s
  | .amoaAnd d a b w x => Sys2Proof.Machine.execAmoaAnd d a b w x s
  | .amoaOr d a b w x => Sys2Proof.Machine.execAmoaOr d a b w x s
  | .amoaXor d a b w x => Sys2Proof.Machine.execAmoaXor d a b w x s
  | .amobMin d a b w x => Sys2Proof.Machine.execAmobMin d a b w x s
  | .amobMax d a b w x => Sys2Proof.Machine.execAmobMax d a b w x s
  | .amobMinu d a b w x => Sys2Proof.Machine.execAmobMinu d a b w x s
  | .amobMaxu d a b w x => Sys2Proof.Machine.execAmobMaxu d a b w x s
  | .amobSwap d a b w x => Sys2Proof.Machine.execAmobSwap d a b w x s
  | .casW d a b x => Sys2Proof.Machine.execCasW d a b x s
  | .casD d a b x => Sys2Proof.Machine.execCasD d a b x s
  | .phnew d a => Sys2Proof.Machine.execPhnew d a s
  | .phreg d a b => Sys2Proof.Machine.execPhreg d a b s
  | .phdrop d a => Sys2Proof.Machine.execPhdrop d a s
  | .phqry d a => Sys2Proof.Machine.execPhqry d a s
  | .pharr d a o => Sys2Proof.Machine.execPharr d a o s
  | .phwait d a o => Sys2Proof.Machine.execPhwait d a o s
  | .phaw d a o => Sys2Proof.Machine.execPhaw d a o s
  | .bar d sc ps => Sys2Proof.Machine.execBar d sc ps s
  | .bara d sc ps => Sys2Proof.Machine.execBara d sc ps s
  | .barw d sc ps => Sys2Proof.Machine.execBarw d sc ps s
  | .cpy d a x => Sys2Proof.Machine.execCpy d a x s
  | .cpy2d d a x => Sys2Proof.Machine.execCpy2d d a x s
  | .cpyGth d a x => Sys2Proof.Machine.execCpyGth d a x s
  | .cpyRing d a x => Sys2Proof.Machine.execCpyRing d a x s
  | .waitp d a => Sys2Proof.Machine.execWaitp d a s
  | .kvget d a b => Sys2Proof.Machine.execKvget d a b s
  | .kvset d a b => Sys2Proof.Machine.execKvset d a b s
  | .kvdel d b => Sys2Proof.Machine.execKvdel d b s
  | .kvlst d a b => Sys2Proof.Machine.execKvlst d a b s
  | .collRed d a x => Sys2Proof.Machine.execCollRed d a x s
  | .collBcst d a x => Sys2Proof.Machine.execCollBcst d a x s
  | .collAgth d a x => Sys2Proof.Machine.execCollAgth d a x s
  | .plh d a => Sys2Proof.Machine.execPlh d a s
  | .plq d a => Sys2Proof.Machine.execPlq d a s
  | .vadd ty d a b x => Sys2Proof.Machine.execVadd ty d a b x s
  | .vsub ty d a b x => Sys2Proof.Machine.execVsub ty d a b x s
  | .vmul ty d a b x => Sys2Proof.Machine.execVmul ty d a b x s
  | .vfma ty d a b x => Sys2Proof.Machine.execVfma ty d a b x s
  | .vmin ty d a b x => Sys2Proof.Machine.execVmin ty d a b x s
  | .vmax ty d a b x => Sys2Proof.Machine.execVmax ty d a b x s
  | .vand ty d a b x => Sys2Proof.Machine.execVand ty d a b x s
  | .vor ty d a b x => Sys2Proof.Machine.execVor ty d a b x s
  | .vxor ty d a b x => Sys2Proof.Machine.execVxor ty d a b x s
  | .vshl ty d a b x => Sys2Proof.Machine.execVshl ty d a b x s
  | .vshr ty d a b x => Sys2Proof.Machine.execVshr ty d a b x s
  | .vceq ty d a b x => Sys2Proof.Machine.execVceq ty d a b x s
  | .vclt ty d a b x => Sys2Proof.Machine.execVclt ty d a b x s
  | .vcle ty d a b x => Sys2Proof.Machine.execVcle ty d a b x s
  | .vsel ty d a b x => Sys2Proof.Machine.execVsel ty d a b x s
  | .vunaAbs ty d a x => Sys2Proof.Machine.execVunaAbs ty d a x s
  | .vunaNeg ty d a x => Sys2Proof.Machine.execVunaNeg ty d a x s
  | .vunaExp ty d a x => Sys2Proof.Machine.execVunaExp ty d a x s
  | .vunaLog2 ty d a x => Sys2Proof.Machine.execVunaLog2 ty d a x s
  | .vunaRcp ty d a x => Sys2Proof.Machine.execVunaRcp ty d a x s
  | .vunaRsq ty d a x => Sys2Proof.Machine.execVunaRsq ty d a x s
  | .vunaTanh ty d a x => Sys2Proof.Machine.execVunaTanh ty d a x s
  | .vunaSig ty d a x => Sys2Proof.Machine.execVunaSig ty d a x s
  | .vredSum ty d a x => Sys2Proof.Machine.execVredSum ty d a x s
  | .vredMax ty d a x => Sys2Proof.Machine.execVredMax ty d a x s
  | .vredMin ty d a x => Sys2Proof.Machine.execVredMin ty d a x s
  | .vredSsq ty d a x => Sys2Proof.Machine.execVredSsq ty d a x s
  | .vcvt ty src d a x => Sys2Proof.Machine.execVcvt ty src d a x s
  | .vbc ty d a b x => Sys2Proof.Machine.execVbc ty d a b x s
  | .vmov d a x => Sys2Proof.Machine.execVmov d a x s
  | .vshuf ty d a b x => Sys2Proof.Machine.execVshuf ty d a b x s
  | .vscan ty d a x => Sys2Proof.Machine.execVscan ty d a x s
  | .viota ty d a x => Sys2Proof.Machine.execViota ty d a x s
  | .vrot ty d a b x => Sys2Proof.Machine.execVrot ty d a b x s
  | .mmaAcc d a b m => Sys2Proof.Machine.execMmaAcc d a b m s
  | .mmaOvw d a b m => Sys2Proof.Machine.execMmaOvw d a b m s
  | .mmaKeepb d a b m => Sys2Proof.Machine.execMmaKeepb d a b m s
  | .mmaKeepa d a b m => Sys2Proof.Machine.execMmaKeepa d a b m s
  | .mmq d a b wa wb => Sys2Proof.Machine.execMmq d a b wa wb s
  | .mmg d a b m => Sys2Proof.Machine.execMmg d a b m s
  | .chkv d a => Sys2Proof.Machine.execChkv d a s
  | .cfix d a => Sys2Proof.Machine.execCfix d a s
  | .csrd d a b => Sys2Proof.Machine.execCsrd d a b s
  | .macz d => Sys2Proof.Machine.execMacz d s
  | .macrdF32 t a => Sys2Proof.Machine.execMacrdF32 t a s
  | .macrdBf16 t half a => Sys2Proof.Machine.execMacrdBf16 t half a s
  | .macrdT8 t quarter a c => Sys2Proof.Machine.execMacrdT8 t quarter a c s
  | .macwr d t => Sys2Proof.Machine.execMacwr d t s
  | .mwait0 => Sys2Proof.Machine.execMwait0 s
  | .mwait1 => Sys2Proof.Machine.execMwait1 s
  | .mwait2 => Sys2Proof.Machine.execMwait2 s
  | .mwait3 => Sys2Proof.Machine.execMwait3 s
  | .mwait4 => Sys2Proof.Machine.execMwait4 s
  | .mwait5 => Sys2Proof.Machine.execMwait5 s
  | .mwait6 => Sys2Proof.Machine.execMwait6 s
  | .mwait7 => Sys2Proof.Machine.execMwait7 s
  | .mwaitAll => Sys2Proof.Machine.execMwaitAll s
  | .mtr d a => Sys2Proof.Machine.execMtr d a s
  | .rcfg h a => Sys2Proof.Machine.execRcfg h a s
  | .rqry d h => Sys2Proof.Machine.execRqry d h s
  | .rpsh t h rep => Sys2Proof.Machine.execRpsh t h rep s
  | .rtak t h rep w => Sys2Proof.Machine.execRtak t h rep w s
  | .kadd d a b => Sys2Proof.Machine.execKadd d a b s
  | .ksub d a b => Sys2Proof.Machine.execKsub d a b s
  | .kmul d a b => Sys2Proof.Machine.execKmul d a b s
  | .kfma d a b => Sys2Proof.Machine.execKfma d a b s
  | .kaddd d a t => Sys2Proof.Machine.execKaddd d a t s
  | .kscl d a b => Sys2Proof.Machine.execKscl d a b s
  | .kmuld d a t => Sys2Proof.Machine.execKmuld d a t s
  | .kvsub d a b => Sys2Proof.Machine.execKvsub d a b s
  | .knlRelu d a => Sys2Proof.Machine.execKnlRelu d a s
  | .knlExp d a => Sys2Proof.Machine.execKnlExp d a s
  | .knlSig d a => Sys2Proof.Machine.execKnlSig d a s
  | .knlSq d a => Sys2Proof.Machine.execKnlSq d a s
  | .knlRcp d a => Sys2Proof.Machine.execKnlRcp d a s
  | .kmk d a b bank => Sys2Proof.Machine.execKmk d a b bank s
  | .kcolMean t a => Sys2Proof.Machine.execKcolMean t a s
  | .kcolVar t a => Sys2Proof.Machine.execKcolVar t a s
  | .kcolSdev t a => Sys2Proof.Machine.execKcolSdev t a s
  | .kcolDraw t a b base bank c => Sys2Proof.Machine.execKcolDraw t a b base bank c s
  | .kldMp32 d a => Sys2Proof.Machine.execKldMp32 d a s
  | .kldMb16 d a => Sys2Proof.Machine.execKldMb16 d a s
  | .kstMp32 d a => Sys2Proof.Machine.execKstMp32 d a s
  | .kstMb16 d a => Sys2Proof.Machine.execKstMb16 d a s
  | .kmmaDwAcc d a b keep m => Sys2Proof.Machine.execKmmaDwAcc d a b keep m s
  | .kmmaMwAcc d a b keep m => Sys2Proof.Machine.execKmmaMwAcc d a b keep m s
  | .kmmaDwOvw d a b keep m => Sys2Proof.Machine.execKmmaDwOvw d a b keep m s
  | .kmmaMwOvw d a b keep m => Sys2Proof.Machine.execKmmaMwOvw d a b keep m s
  | .kacrd d a => Sys2Proof.Machine.execKacrd d a s
  | .kred d a => Sys2Proof.Machine.execKred d a s
  | .kmode a b => Sys2Proof.Machine.execKmode a b s
  | .kmov d a => Sys2Proof.Machine.execKmov d a s
  | .kmovTr d a => Sys2Proof.Machine.execKmovTr d a s
  | .qnt f d a base bank c => Sys2Proof.Machine.execQnt f d a base bank c s
  | .dqn f d a base bank c => Sys2Proof.Machine.execDqn f d a base bank c s
  | .baq d a b base bank c => Sys2Proof.Machine.execBaq d a b base bank c s
  | .trap code => Sys2Proof.Machine.execTrap code s
  | .tret => Sys2Proof.Machine.execTret s
  | .rpqrd d a => Sys2Proof.Machine.execRpqrd d a s
  | .rpqwr a b => Sys2Proof.Machine.execRpqwr a b s
  | .rpqdrp a => Sys2Proof.Machine.execRpqdrp a s
  | .rpqlen d => Sys2Proof.Machine.execRpqlen d s
  | .srd d n => Sys2Proof.Machine.execSrd d n s
  | .swr n d => Sys2Proof.Machine.execSwr n d s
  | .swrCki d => Sys2Proof.Machine.execSwrCki d s
  | .swrMctl d => Sys2Proof.Machine.execSwrMctl d s
  | .swrFfl d => Sys2Proof.Machine.execSwrFfl d s
  | .swrTvec d => Sys2Proof.Machine.execSwrTvec d s
  | .cro imm => Sys2Proof.Machine.execCro imm s
  | .crc => Sys2Proof.Machine.execCrc s
  | .chke d a => Sys2Proof.Machine.execChke d a s
  | .sigS a => Sys2Proof.Machine.execSigS a s
  | .sigR a base bank => Sys2Proof.Machine.execSigR a base bank s
  | .sigT t => Sys2Proof.Machine.execSigT t s
  | .sigRd d => Sys2Proof.Machine.execSigRd d s
  | .inj a b => Sys2Proof.Machine.execInj a b s
  | .ctxsv d a => Sys2Proof.Machine.execCtxsv d a s
  | .ctxld a => Sys2Proof.Machine.execCtxld a s
  | .pack d => Sys2Proof.Machine.execPack d s
  | .qsvcPing => Sys2Proof.Machine.execQsvcPing s
  | .qsvcMap => Sys2Proof.Machine.execQsvcMap s
  | .qsvcUnmap => Sys2Proof.Machine.execQsvcUnmap s
  | .qsvcGroup => Sys2Proof.Machine.execQsvcGroup s
  | .qsvcYield => Sys2Proof.Machine.execQsvcYield s
  | .qsvcReport => Sys2Proof.Machine.execQsvcReport s
  | .qsvcDebug => Sys2Proof.Machine.execQsvcDebug s
  | .qsvcUnknown => Sys2Proof.Machine.execQsvcUnknown s
  | .idle a => Sys2Proof.Machine.execIdle a s
  | .metr d a => Sys2Proof.Machine.execMetr d a s
  | .divideComplete e => Sys2Proof.Machine.execDivideComplete e s
  | .allocResponse e base => Sys2Proof.Machine.execAllocResponse e base s
  | .quayResponse e => Sys2Proof.Machine.execQuayResponse e s
  | .remoteResponse p => Sys2Proof.Machine.execRemoteResponse p s
  | .translationResponse => Sys2Proof.Machine.execTranslationResponse s
  | .scrubTick => Sys2Proof.Machine.execScrubTick s
  | .scrubModule found => Sys2Proof.Machine.execScrubModule found s
  | .heldSlotWritePerform => Sys2Proof.Machine.execHeldSlotWritePerform s
  | .messageDelivery p => Sys2Proof.Machine.execMessageDelivery p s
  | .inboxAppendAfterWait => Sys2Proof.Machine.execInboxAppendAfterWait s
  | .ringMessageDelivery p => Sys2Proof.Machine.execRingMessageDelivery p s
  | .ringMessageAfterWait => Sys2Proof.Machine.execRingMessageAfterWait s
  | .activationStart => Sys2Proof.Machine.execActivationStart s
  | .seqWindowArrival p => Sys2Proof.Machine.execSeqWindowArrival p s
  | .ackReceived p => Sys2Proof.Machine.execAckReceived p s
  | .retryReceived p => Sys2Proof.Machine.execRetryReceived p s
  | .retryWaitExpiry k => Sys2Proof.Machine.execRetryWaitExpiry k s
  | .rejectReceived p => Sys2Proof.Machine.execRejectReceived p s
  | .resendNotice gen => Sys2Proof.Machine.execResendNotice gen s
  | .unackedTimeout k => Sys2Proof.Machine.execUnackedTimeout k s
  | .vc0RequestRetry e => Sys2Proof.Machine.execVc0RequestRetry e s
  | .packetAgeTick k => Sys2Proof.Machine.execPacketAgeTick k s
  | .flitCrcError l => Sys2Proof.Machine.execFlitCrcError l s
  | .linkCrcThreshold l => Sys2Proof.Machine.execLinkCrcThreshold l s
  | .linkCreditTimeout l => Sys2Proof.Machine.execLinkCreditTimeout l s
  | .failureReport l detour => Sys2Proof.Machine.execFailureReport l detour s
  | .regionFirewallCheck p region => Sys2Proof.Machine.execRegionFirewallCheck p region s
  | .tileRetirement region col prow spare rewrites => Sys2Proof.Machine.execTileRetirement region col prow spare rewrites s
  | .remoteAtomicAtHome p => Sys2Proof.Machine.execRemoteAtomicAtHome p s
  | .leaseRecall hx hy sector => Sys2Proof.Machine.execLeaseRecall hx hy sector s
  | .leaseWriteBack p => Sys2Proof.Machine.execLeaseWriteBack p s
  | .phaserArrivalAtHome r => Sys2Proof.Machine.execPhaserArrivalAtHome r s
  | .phaserWaitAtHome r => Sys2Proof.Machine.execPhaserWaitAtHome r s
  | .phaserRelease e phase => Sys2Proof.Machine.execPhaserRelease e phase s
  | .phaserRegisterAtHome r => Sys2Proof.Machine.execPhaserRegisterAtHome r s
  | .barrierEpisodeComplete sc ps ep => Sys2Proof.Machine.execBarrierEpisodeComplete sc ps ep s
  | .barrierRelease e => Sys2Proof.Machine.execBarrierRelease e s
  | .copyOperationStart => Sys2Proof.Machine.execCopyOperationStart s
  | .copyRingRoom => Sys2Proof.Machine.execCopyRingRoom s
  | .copyChunkTransfer => Sys2Proof.Machine.execCopyChunkTransfer s
  | .copyOperationEnd => Sys2Proof.Machine.execCopyOperationEnd s
  | .completionPlaceDeferred => Sys2Proof.Machine.execCompletionPlaceDeferred s
  | .storageCommandComplete tag ans => Sys2Proof.Machine.execStorageCommandComplete tag ans s
  | .collContributionArrival slot c => Sys2Proof.Machine.execCollContributionArrival slot c s
  | .gatewayIndexReturn => Sys2Proof.Machine.execGatewayIndexReturn s
  | .gatewayIndexTimeout slot block => Sys2Proof.Machine.execGatewayIndexTimeout slot block s
  | .collTimeout slot => Sys2Proof.Machine.execCollTimeout slot s
  | .collPeerLost slot member => Sys2Proof.Machine.execCollPeerLost slot member s
  | .unitOperationStart => Sys2Proof.Machine.execUnitOperationStart s
  | .unitOperationRetire => Sys2Proof.Machine.execUnitOperationRetire s
  | .rpshSlotFilled => Sys2Proof.Machine.execRpshSlotFilled s
  | .mmqRendezvous => Sys2Proof.Machine.execMmqRendezvous s
  | .mmqRetireSignal => Sys2Proof.Machine.execMmqRetireSignal s
  | .mmqTimeout => Sys2Proof.Machine.execMmqTimeout s
  | .trapTake cause va tpc dfr => Sys2Proof.Machine.execTrapTake cause va tpc dfr s
  | .forwardResume => Sys2Proof.Machine.execForwardResume s
  | .forwardDeliver => Sys2Proof.Machine.execForwardDeliver s
  | .forwardKill => Sys2Proof.Machine.execForwardKill s
  | .containmentUnwind u => Sys2Proof.Machine.execContainmentUnwind u s
  | .deferredEvent => Sys2Proof.Machine.execDeferredEvent s
  | .iabHit => Sys2Proof.Machine.execIabHit s
  | .singleStep => Sys2Proof.Machine.execSingleStep s
  | .lockstepMismatch again => Sys2Proof.Machine.execLockstepMismatch again s
  | .stopRequest => Sys2Proof.Machine.execStopRequest s
  | .collectorQuiescent ctx tag => Sys2Proof.Machine.execCollectorQuiescent ctx tag s
  | .stopAckTimeout ctx tag => Sys2Proof.Machine.execStopAckTimeout ctx tag s
  | .launchQueueTake region c => Sys2Proof.Machine.execLaunchQueueTake region c s
  | .teamEnd ctx tag => Sys2Proof.Machine.execTeamEnd ctx tag s
  | .teamSwapOut ctx tag => Sys2Proof.Machine.execTeamSwapOut ctx tag s
  | .spillDivert p => Sys2Proof.Machine.execSpillDivert p s
  | .teamSwapIn ctx tag c => Sys2Proof.Machine.execTeamSwapIn ctx tag c s
  | .tokenBucketRefill ctx => Sys2Proof.Machine.execTokenBucketRefill ctx s
  | .tokenBucketEmpty ctx => Sys2Proof.Machine.execTokenBucketEmpty ctx s
  | .energyMeterPeriod region microjoules => Sys2Proof.Machine.execEnergyMeterPeriod region microjoules s
  | .journalCheckpoint quay => Sys2Proof.Machine.execJournalCheckpoint quay s
  | .journalGapRecord quay => Sys2Proof.Machine.execJournalGapRecord quay s
  | .idleWake => Sys2Proof.Machine.execIdleWake s
  | .q4RequestService => Sys2Proof.Machine.execQ4RequestService s
  | .clockStepChange region up => Sys2Proof.Machine.execClockStepChange region up s
  | .pllRelockDone region => Sys2Proof.Machine.execPllRelockDone region s
  | .governorTick milliwatts => Sys2Proof.Machine.execGovernorTick milliwatts s
  | .droopStretch region percent => Sys2Proof.Machine.execDroopStretch region percent s
  | .rampInTolerance region => Sys2Proof.Machine.execRampInTolerance region s
  | .rampTimeout region => Sys2Proof.Machine.execRampTimeout region s
  | .regulatorFault region => Sys2Proof.Machine.execRegulatorFault region s
  | .coolDone region => Sys2Proof.Machine.execCoolDone region s
  | .triesReset region => Sys2Proof.Machine.execTriesReset region s
  | .modulePowerCycle => Sys2Proof.Machine.execModulePowerCycle s
  | .moduleBoot b => Sys2Proof.Machine.execModuleBoot b s
  | .launch f pkt => Sys2Proof.Machine.execLaunch f pkt s
  | .write f ctx off data => Sys2Proof.Machine.execWrite f ctx off data s
  | .read f ctx off len => Sys2Proof.Machine.execRead f ctx off len s
  | .queryResidency f => Sys2Proof.Machine.execQueryResidency f s
  | .queryCounters f ctx => Sys2Proof.Machine.execQueryCounters f ctx s
  | .queryErrorLog f region => Sys2Proof.Machine.execQueryErrorLog f region s
  | .queryTrace f region => Sys2Proof.Machine.execQueryTrace f region s
  | .allocateQuarters f q => Sys2Proof.Machine.execAllocateQuarters f q s
  | .allocateCreateContext f c => Sys2Proof.Machine.execAllocateCreateContext f c s
  | .allocateReleaseContext f ctx => Sys2Proof.Machine.execAllocateReleaseContext f ctx s
  | .stopContext f ctx => Sys2Proof.Machine.execStopContext f ctx s
  | .stopTeam f ctx tag => Sys2Proof.Machine.execStopTeam f ctx tag s
  | .attest f nonce => Sys2Proof.Machine.execAttest f nonce s
  | .journal f quay => Sys2Proof.Machine.execJournal f quay s
  | .promiseDeadline tag => Sys2Proof.Machine.execPromiseDeadline tag s
  | .placementCacheFill => Sys2Proof.Machine.execPlacementCacheFill s
  | .swapAnnouncement ctx tag => Sys2Proof.Machine.execSwapAnnouncement ctx tag s
  | .edgeMemoryModuleFailure engine number => Sys2Proof.Machine.execEdgeMemoryModuleFailure engine number s
  | .hostRdmaOperation part window off write len => Sys2Proof.Machine.execHostRdmaOperation part window off write len s

end Sys2Proof.Machine
end

