-- ==== Sys2Proof/Machine/Sched.lean ====
section
/-! DEFINITION. What a step of the machine does: whose turn it is, the order of what can happen at a bundle boundary, the resumption of
entries after TRET, and the actions of the engines, the fabric and the quays between two bundles (log entry 3; 02_words R40, 04_control
R97, 12_matrix R311, 15_system R366-R388). -/

namespace Sys2Proof.Machine

/-! ### Resumed entries (15 R372) -/

/-- The lowest entry of the current level that has to be issued again. -/
def Core.resumed (c : Core) : Option (Fin 8) := allEntries.find? fun n => c.rq[n].v && c.rq[n].resume && c.rq[n].lvl == c.tr.level

/-- Whether an entry goes on by issuing its bundle's next iteration, rather than by sending its request again. Log entry 8 (DEDUCED). -/
def Entry.reissues (e : Entry) : Bool :=
  e.kind == 4 || e.kind == 5 || decide (1 < e.count.toNat) || (match e.op with | some (.rtak _ _ _ _) => true | _ => false)

/-- The state in which an iteration of entry n issues: the pc is at its bundle, and the next pc is the bundle that follows. -/
def State.resumeAt (s : State) (n : Fin 8) : State :=
  let e := s.core.rq[n]
  { s with core := { (s.core.setEntry n { e with issuing := true, op := none, resume := false }) with
      pc := e.bofs.zeroExtend 64, npc := s.core.pc } }

/-- A trap that a resumed iteration took: TPC is the bundle that was to issue next. Log entry 8 (DEDUCED). -/
def Core.patchTpc (c : Core) (old : Word) : Core :=
  let t := c.tr
  match t.fwd with
  | some f => { c with tr := { t with fwd := some { f with pc := old } } }
  | none => { c with tr := if t.level.val == 1 then { t with tpc1 := old } else { t with tpc2 := old } }

/-- The state after an iteration of entry n: the entry names its operation again and goes on while it has iterations; the pc is where it
was, unless a trap or an unwind moved it. -/
def State.resumeBack (s t : State) (n : Fin 8) : State :=
  let e := s.core.rq[n]
  let x := t.core.rq[n]
  let t := if x.v && x.bofs == e.bofs then t.putEntry n { x with op := e.op, issuing := false, resume := x.issuing } else t
  let took := t.core.tr.level != s.core.tr.level || t.core.tr.fwd.isSome
  if took then { t with core := t.core.patchTpc s.core.pc }
  else if t.core.pc == e.bofs.zeroExtend 64 then { t with core := { t.core with pc := s.core.pc } }
  else t

/-- The comparison of a bundle or iteration that has issued, under lockstep (14 R351). -/
def State.compare (s t : State) : State :=
  if s.tile.modes.lockstep && t.core.issued && t.tile.id == s.tile.id && t.tile.owned then s.compared t s.core.bofs else t

/-- A resumed entry at its core's turn; it is not the bundle that a TRET or a single step issues (15 R387, R388). -/
def State.resumeTurn (s : State) (n : Fin 8) : Out :=
  let e := s.core.rq[n]
  match e.op with
  | none => .next (s.putEntry n { e with resume := false })
  | some i =>
    if e.reissues then
      match exec i (s.resumeAt n) with
      | .next t =>
        let t := s.resumeBack ((s.resumeAt n).compare t) n
        .next { t with core := { t.core with issued := s.core.issued } }
      | .fault f => .fault f
      | .refused r => .refused r
    else s.resend n

/-! ### The turn of a core -/

/-- Whether the core in focus issues bundles: it runs an activation, is not stopped, waits for no forwarded trap, and its clock runs. -/
def State.issues (s : State) : Bool :=
  s.core.active && !s.core.stopped && !s.core.dead && s.core.tr.fwd.isNone && !(s.region s.myRegion).gated

/-- Whether a breakpoint hit, a single step or a deferred event comes before the next bundle, or an entry is resumed. -/
def State.clear (s : State) : Bool :=
  s.core.tr.deferred.isNone && !(s.core.tr.sstep && s.core.issued && s.core.tr.level.val == 0) && !s.core.atBreak && s.core.resumed.isNone

/-- Issues the bundle at the pc. -/
def State.issueBundle (s : State) : Out :=
  match s.fetch with
  | (.run i n, s) =>
    match exec i (s.begin n) with
    | .next t => .next ((s.begin n).compare t)
    | .fault f => .fault f
    | .refused r => .refused r
  | (.trap c va, s) => s.trapB c va

/-- The turn of the core in focus: a deferred event, a single step, a breakpoint, a resumed entry, or its next bundle. -/
def State.turnOf (s : State) : Out :=
  if s.core.tr.deferred.isSome then execDeferredEvent s
  else if s.core.tr.sstep && s.core.issued && s.core.tr.level.val == 0 then execSingleStep s
  else if s.core.atBreak then execIabHit s
  else
    match s.core.resumed with
    | some n => s.resumeTurn n
    | none => s.issueBundle

/-! ### Between two bundles -/

/-- Actions one after the other. -/
def runAll : List (State → Out) → State → Out
  | [], s => .next s
  | f :: fs, s =>
    match f s with
    | .next s => runAll fs s
    | .fault x => .fault x
    | .refused x => .refused x

/-- The first entry of the retry buffer that waits. Log entry 38 (DEDUCED). -/
def State.retryOne (s : State) : Out :=
  match s.core.link.retry.findIdx? (·.wait) with
  | some k => execRetryWaitExpiry k s
  | none => .next s

/-- An atomic that was performed in the own slice or under a lease retires (08 R192, R198). -/
def State.atomicDone (n : Fin 8) (s : State) : State :=
  let e := s.core.rq[n]
  if e.v && e.kind == 3 && e.st == 1 && !s.core.frozen e then s.retireEntry n else s

/-- What is done for the entries of the core in focus. -/
def entryActions (n : Fin 8) : List (State → Out) :=
  [fun s => .next (s.atomicDone n), execDivideComplete n, execQuayResponse n, execAllocResponse n none, execBarrierRelease n]

/-- What the units and engines of the tile in focus do. -/
def tileActions : List (State → Out) :=
  [execTranslationResponse, execPlacementCacheFill, execUnitOperationRetire, execUnitOperationStart, execMmqRendezvous, execMmqRetireSignal,
    execRpshSlotFilled, execCopyOperationEnd, execCopyOperationStart, execCopyRingRoom, execCopyChunkTransfer, execCompletionPlaceDeferred,
    execHeldSlotWritePerform, execInboxAppendAfterWait, execRingMessageAfterWait, State.retryOne, execQ4RequestService,
    execGatewayIndexReturn, fun s => .next s.returnRecalled, fun s => .next s.collAgain, fun s => .next s.watchErrors,
    fun s => .next s.retireStep, fun s => .next (if s.hawser then s else s.entriesAgain)]

/-- What the quay does for the team of the tile in focus. -/
def State.quayActions (s : State) : List (State → Out) :=
  if s.tile.owned then
    [execTeamEnd s.tile.ctx s.tile.ttag, execStopRequest, execCollectorQuiescent s.tile.ctx s.tile.ttag, execTokenBucketEmpty s.tile.ctx]
  else []

/-- The focus moves to the next core. -/
def State.rotate (s : State) : State :=
  match s.sel with
  | .stage => { s with sel := .comp, core := s.peer, peer := s.core }
  | .comp =>
    match s.tiles with
    | [] => { s with sel := .stage, core := s.peer, peer := s.core }
    | t :: r => { s with tiles := r ++ [s.curTile] }.withFull t .stage

/-- Charges a cycle of the launching quay's clock to a resident team (15 R381). -/
def State.chargeCycle (s : State) (t : Team) : State :=
  let m := if (s.ctx t.ctx).modes.lockstep then 2 else 1
  let s := s.chargeCtx t.quay t.ctx 0 (m * t.w * t.h)
  s.mapTiles (fun u => u.owned && u.ctx == t.ctx && u.ttag == t.tag) fun u => { u with tile := u.tile.addCharge 0 m }

/-- An edge of every region's clock: CYC counts it (00 R5, 16 R392). Log entry 68 (DESIGN CHOICE). -/
def State.tick (s : State) : State :=
  let runs (n : Nat) : Bool := (s.region n).reg == .on && !(s.region n).gated
  let ts := s.teams.filter fun t => t.started && runs t.quay && (t.phase == .resident || t.phase == .stopping || t.phase == .swappingOut)
  let s := { s with now := s.now + 1, regions := s.regions.map fun (n, r) => (n, if r.reg == .on && !r.gated then { r with cyc := r.cyc + 1 } else r) }
  ts.foldl State.chargeCycle s

/-- What the core, the tile and its quay do between two turns. -/
def State.workActions (s : State) : List (State → Out) :=
  allEntries.flatMap entryActions ++ tileActions ++ s.quayActions ++ [execActivationStart]

/-- Everything between the turn of one core and the turn of the next; a region whose clock is gated does nothing (16 R392). Log entry 3
(DESIGN CHOICE). -/
def State.between (s : State) : Out :=
  runAll ([fun s => .next s.flow] ++ (if (s.region s.myRegion).gated then [] else s.workActions) ++
    [fun s => .next { s.rotate.tick with turn := false }]) s

/-! ### Moves of the environment -/

/-- The focus of a move. -/
def State.toPlace (s : State) (p : Option (TileId × CoreSel)) : State :=
  match p with
  | some (id, k) => s.focusOn id k
  | none => s

/-- The next step: what the environment asked for first, where that is an event of the part; then, in turn, the core in focus and what lies between two turns. Log entry 3 (DESIGN CHOICE). -/
def State.advance (s : State) : Out :=
  match s.agenda with
  | m :: rest =>
    if m.ev.isEvent && m.ev.wf then exec m.ev (State.toPlace { s with agenda := rest } m.place) else .next { s with agenda := rest }
  | [] => if !s.turn && s.issues then State.turnOf { s with turn := true } else s.between

end Sys2Proof.Machine
end

