-- ==== Sys2Proof/Safety.lean ====
section
/-! DEFINITION. The terms in which the statements are made: states in which nothing is in flight, the state after an instruction that
writes one scalar, and the invariants of the machine. -/

namespace Sys2Proof.Machine

/-- Nothing of the core is in flight: no entry of its replay queue is valid, its unit holds no operation and keeps no slot bound, no RPSH
waits for its slot, everything that it sent is acknowledged or answered, and the next lockstep comparison agrees. -/
def Core.still (c : Core) : Bool :=
  c.rq.toList.all (fun e => !e.v) && c.unit.ops.isEmpty && c.unit.kept.isEmpty && c.rpsh.isEmpty && c.link.retry.isEmpty && c.link.vc0.isEmpty && c.upset == 0

/-- The kill of a context has begun: the teams of it that are left are stopping, and each carries the report with which its launch completes; as
long as there is one the kill is in progress (15 R368, R376). -/
def State.killed (t : State) (ctx : Nat) : Prop :=
  ∀ u ∈ t.teams, u.ctx = ctx → (t.ctx ctx).killing = true ∧ u.phase = .stopping ∧ u.rep ≠ []

/-- The state after a bundle whose whole effect is to write v to the scalar d (02 R52, R64). -/
def State.result (s : State) (d : SReg) (v : Word) : State := (s.setS d v).retire

/-- A divide that takes entry n at issue and, when it completes, writes v to d and frees the entry; nothing else that a program reads
changes (03 R84, R85). -/
def State.divideDoes (s : State) (i : Instr) (n : Fin 8) (d : SReg) (v : Word) : Prop :=
  ∃ t u, exec i s = .next t ∧ exec (.divideComplete n) t = .next u ∧
    t.core.pc = s.core.npc ∧ t.core.rq[n].v = true ∧ (∀ r, t.S r = s.S r) ∧ t.tile = s.tile ∧
    u.core.pc = s.core.npc ∧ u.core.rq[n].v = false ∧ u.S d = (if d = 0 then 0 else v) ∧ (∀ r, r ≠ d → u.S r = s.S r) ∧ u.tile = s.tile

/-- What a call leaves of the registers (02 R57, 04 R91): NPC in s15, the scalars of CONV[15:0] dead, the others as before. -/
def State.linked (s t : State) : Prop :=
  t.S 15 = s.core.npc ∧ (∀ r, r ≠ 15 → t.S r = if r ≠ 0 ∧ s.core.sr.conv.getLsbD r.val = true then 0 else s.S r) ∧ t.tile = s.tile

/-- t is s with the activation of its core ended (04 R100). -/
def State.activationOver (t s : State) : Prop :=
  t.core.active = false ∧ t.core.rf = {} ∧ (∀ r, t.S r = 0) ∧ t.core.frames = [] ∧ t.core.ucause = 0 ∧
    (t.core.berths[(Fin.ofNat 16 s.core.sr.brth.toNat)]).inbox = (s.core.berths[(Fin.ofNat 16 s.core.sr.brth.toNat)]).inbox.drop 1 ∧
    t.tile = s.tile ∧ t.core.sr = s.core.sr

/-- An access of n bytes at p reads the own slice with nothing in its way: it lies within the slice, no sector is leased out, no bit is
flipped, no RPSH slot is pending and no sector of it is poisoned (05 R111-R126, 08 R198). -/
def State.readsHere (s : State) (p : Word) (n : Nat) : Prop :=
  ptrSpace p = 0 ∧ ptrOfs p + n ≤ 0x80000 ∧ s.tile.flips = [] ∧ s.tile.leaseDir = [] ∧ s.core.rpsh = [] ∧
    ∀ j < n, s.tile.poison.contains ((ptrOfs p + j) / 32) = false

/-- An access of n bytes at p writes the own slice with nothing in its way: it lies within the slice, no sector is leased out, no bit is
flipped, no RPSH slot is pending and no slot is held (05 R137). -/
def State.writesHere (s : State) (p : Word) (n : Nat) : Prop :=
  ptrSpace p = 0 ∧ ptrOfs p + n ≤ 0x80000 ∧ s.tile.flips = [] ∧ s.tile.leaseDir = [] ∧ s.core.rpsh = [] ∧ s.tile.heldExt = [] ∧
    ∀ h : Ring, s.tile.rings[h].held = 0

/-- The little-endian value of the n bytes of the slice that p names. -/
def State.sliceNat (s : State) (p : Word) (n : Nat) : Nat := leNat (s.tile.slice.readMany (ptrOfs p) n)

/-- u is s after a store to the n bytes at p of the own slice, byte j becoming f j where f gives one; every other byte of memory, every
register and everything outside the tile is as in s, and the pc is NPC. -/
def State.onlyStored (s u : State) (p : Word) (n : Nat) (f : Nat → Option Byte) : Prop :=
  (∀ a, u.tile.slice.read a =
    if ptrOfs p ≤ a ∧ a < ptrOfs p + n then (f (a - ptrOfs p)).getD (s.tile.slice.read a) else s.tile.slice.read a) ∧
  u.core.pc = s.core.npc ∧ (∀ r, u.S r = s.S r) ∧ u.core.rf = s.core.rf ∧ u.core.sr = s.core.sr ∧ u.core.tr = s.core.tr ∧
  u.core.rq = s.core.rq ∧ u.core.q = s.core.q ∧ u.tile.rings = s.tile.rings ∧ u.peer = s.peer ∧ u.tiles = s.tiles ∧
  u.ctxs = s.ctxs ∧ u.parts = s.parts ∧ u.net = s.net

/-- u is s after an instruction that writes the row r of the core in focus: every other row, the scalars, the state registers, the traps and
the tile with its memory are as in s, and the pc is NPC. -/
def State.onlyRow (s u : State) (r : RowSel) : Prop :=
  u.core.pc = s.core.npc ∧ (∀ q, u.S q = s.S q) ∧ (∀ q, q ≠ r → u.core.rowVal q 8 0 = s.core.rowVal q 8 0) ∧
  u.core.rf.c = s.core.rf.c ∧ u.core.rf.k = s.core.rf.k ∧ u.core.sr = s.core.sr ∧ u.core.tr = s.core.tr ∧ u.tile = s.tile ∧
  u.peer = s.peer ∧ u.tiles = s.tiles ∧ u.ctxs = s.ctxs ∧ u.net = s.net

/-- The core in focus can inject: its retry buffer is empty, its stream table is empty and the hawser is not asserted (07 R158, R181). -/
def State.linkFree (s : State) : Prop := s.core.link.retry = [] ∧ s.core.link.streams = [] ∧ s.hawser = false

/-- t is s after a SEND of one message of the kind to the tile k, on the VC, berth or ring and core that the routing scalar rt names, with its
order's release scope; poison in it sets CKI.POI, and nothing else of CKI changes (07 R157, R158, 14 R344). -/
def State.injected (s t : State) (k : Placed) (rt : Word) (x : Option Xsc) (kind : MsgKind) (bs : List PByte) : Prop :=
  (∀ r, t.S r = s.S r) ∧ t.core.rf = s.core.rf ∧ t.tile.slice = s.tile.slice ∧
    (∀ j < 64, t.tile.cki.getLsbD j = (s.tile.cki.getLsbD j || (decide (j = 0) && bs.any (·.2)))) ∧
    ∃ p, t.net = s.net ++ [p] ∧ t.core.link.retry = [{ pkt := p, gen := s.routeGen }] ∧ p.dst = .tile k.x k.y ∧ p.shnd = s.tile.hnd ∧
    p.vc.val = 3 + (rt >>> 36).toNat % 4 ∧
    p.body = .msg kind (Fin.ofNat 16 ((rt >>> 32).toNat % 16)) (Fin.ofNat 8 ((rt >>> 38).toNat % 8))
      (if (rt >>> 41).toNat % 2 = 1 then .comp else .stage) (rt.truncate 32)
      (match x with | some y => if y.ord = .rel ∨ y.ord = .ar then some y.scope else none | none => none) (bs.map (·.1)) (pmaskOf bs)

/-- A SEND by i injects one message and retires (07 R158). -/
def State.sends (s : State) (i : Instr) (k : Placed) (rt : Word) (x : Option Xsc) (kind : MsgKind) (bs : List PByte) : Prop :=
  ∃ t, exec i s = .next t ∧ t.core.pc = s.core.npc ∧ s.injected t k rt x kind bs

/-- Nothing in the mesh stands in the way of any packet: no failed link, exception entry, dead site, gated clock, or flit under way. -/
def State.meshClear (s : State) : Prop := s.calm = true

/-- p is a packet in a clear mesh, within its region, for the tile in focus and its team, the next of a stream that the tile has a window for,
with nothing held behind it and nothing waiting at the tile. -/
def State.arrives (s : State) (p : Packet) : Prop :=
  s.sel = .stage ∧ (∃ x y, s.tile.id = .grid x y ∧ p.dst = .tile x y) ∧ p ∈ s.net ∧ s.hawser = false ∧ s.meshClear ∧
    landed p = p ∧ p.hop = none ∧ p.taken = 0 ∧ regionOfEnd p.src = regionOfEnd p.dst ∧ s.endingFor p = false ∧ takesTeam s.tile p = true ∧ s.tile.portWait = [] ∧
    s.tile.heldWrites = [] ∧ ∃ w, findWindow s.tile.windows p = some w ∧ w.e = p.seq ∧ w.held = []

/-- p is an answer on VC2, in a clear mesh and within its region, to the core in focus. -/
def State.answerComes (s : State) (p : Packet) : Prop :=
  (∃ x y, s.tile.id = .grid x y ∧ p.dst = .tile x y) ∧ p ∈ s.net ∧ s.hawser = false ∧ s.meshClear ∧
    landed p = p ∧ p.hop = none ∧ regionOfEnd p.src = regionOfEnd p.dst ∧ p.vc = 2 ∧ p.avc ≠ 0 ∧ p.dcore = s.sel ∧ s.tile.hnd = p.shnd ∧
    s.tile.ttag = p.ttag

/-- The reply of the tile in focus to a packet (07 R156). -/
def State.replyHere (s : State) (p : Packet) (b : Body) : Packet := { replyTo p s.routeGen b with rhnd := s.tile.hnd }

/-- The core in focus, of a team's tile, can ask the quay of its region and be answered: nothing else is in a clear fabric, and it is not
stopped and waits for no forwarded trap (07 R165, R180). -/
def State.quayNear (s : State) : Prop :=
  s.linkFree ∧ s.meshClear ∧ s.net = [] ∧ s.answers = [] ∧ s.tile.owned = true ∧ s.tile.swapping = false ∧ s.core.stopped = false ∧
    s.core.tr.fwd = none ∧ ∃ x y, s.tile.id = .grid x y ∧ x < 256 ∧ y < 256

/-- i takes entry 0, of KIND 7 with words w1 and w2, for a request to the quay of the region on VC0, and the core goes on (07 R165, 15
R384). -/
def State.asks (s t : State) (i : Instr) (k : Fin 13) (w1 w2 : Word) : Prop :=
  exec i s = .next t ∧ t.core.pc = s.core.npc ∧ t.core.rq[(0 : Fin 8)].v = true ∧ t.core.rq[(0 : Fin 8)].kind = 7 ∧
    t.core.rq[(0 : Fin 8)].w1 = w1 ∧ t.core.rq[(0 : Fin 8)].w2 = w2 ∧ (∀ r, t.S r = s.S r) ∧ t.core.rf = s.core.rf ∧ t.tile = s.tile ∧
    ∃ p, t.net = s.net ++ [p] ∧ t.core.link.vc0 = s.core.link.vc0 ++ [p] ∧ p.vc = 0 ∧ p.dst = .quay s.myRegion ∧ p.body = .ask k w1 w2

/-- An atomic i on the 4 or 8 bytes at p of the own slice: the bytes become v as it issues, with entry 0 of KIND 3; at the entry's retirement
d gets the old value, W sign-extended. Nothing else that a program reads changes (08 R191, R192). -/
def State.atoms (s : State) (i : Instr) (d : SReg) (w : Bool) (p : Word) (v : Nat) : Prop :=
  let n := if w then 4 else 8
  let old := s.sliceNat p n
  ∃ t, exec i s = .next t ∧ t.core.pc = s.core.npc ∧ t.core.rq[(0 : Fin 8)].v = true ∧ t.core.rq[(0 : Fin 8)].kind = 3 ∧
    (∀ r, t.S r = s.S r) ∧
    (∀ a, t.tile.slice.read a =
      if ptrOfs p ≤ a ∧ a < ptrOfs p + n then BitVec.ofNat 8 (v / 2 ^ (8 * (a - ptrOfs p))) else s.tile.slice.read a) ∧
    (let u := t.atomicDone 0
     u.core.pc = s.core.npc ∧ (∀ e : Fin 8, u.core.rq[e].v = false) ∧ u.tile.slice = t.tile.slice ∧
      u.S d = (if d = 0 then 0 else if w then (BitVec.ofNat 32 old).signExtend 64 else BitVec.ofNat 64 old) ∧
      (∀ r, r ≠ d → u.S r = s.S r) ∧ u.core.rf = s.core.rf ∧ u.core.sr = s.core.sr ∧ u.core.tr = s.core.tr ∧
      u.tile.rings = s.tile.rings ∧ u.tiles = s.tiles ∧ u.ctxs = s.ctxs ∧ u.net = s.net)

/-- A sealed pair of the context in focus gives software's access to n bytes, with the permission, and its slot is neither poisoned nor
revoked (05 R128, R131, 09 R240). -/
def State.grants (s : State) (e o : Word) (perm : Bool) (n : Nat) : Prop :=
  isSealed s.tile.ctx e o = true ∧ capPS e = true ∧ perm = true ∧ n ≤ capLen o ∧ s.slotPoisoned (capSlot o) = false ∧
    s.slotRevoked (capSlot o) = false

/-- The storage command i is posted: the command k of the operation op, for the buffer of len bytes at base, with the key of the request block
blk, under the core's next tag, which d gets (09 R234, R235). -/
def State.kvPosted (s : State) (i : Instr) (d : SReg) (blk : List Nat) (op base len keys : Nat) : Prop :=
  ∃ t k, exec i s = .next t ∧ t.core.pc = s.core.npc ∧ t.S d = (if d = 0 then 0 else s.core.kvTag.zeroExtend 64) ∧
    (∀ r, r ≠ d → t.S r = s.S r) ∧ t.core.kvTag = s.core.kvTag + 1 ∧ t.core.kvOut = s.core.kvOut + 1 ∧ t.tile.slice = s.tile.slice ∧
    t.storage = s.storage ++ [k] ∧ k.hnd = s.tile.hnd ∧ k.core = s.sel ∧ k.tag = s.core.kvTag ∧ k.ctx = s.tile.ctx ∧ k.ttag = s.tile.ttag ∧
    k.op = op ∧ k.base = base ∧ k.len = len ∧ k.maxKeys = keys ∧ k.key = (blk.take ((blk[16]?).getD 0)).map (BitVec.ofNat 8) ∧
    k.nsi = (blk[17]?).getD 0 ∧ k.opts = (blk[18]?).getD 0

/-- The collective i of kind 0 RED, 1 BCST or 2 AGTH is posted in slot n of the tile, whose word d gets (09 R228, R238, R240). -/
def State.collPosted (s : State) (i : Instr) (d : SReg) (kind : Nat) (n : Fin 4) (g : Group) (c : CollDesc) : Prop :=
  ∃ t, exec i s = .next t ∧ t.core.pc = s.core.npc ∧ (t.tile.coll[n]).used = true ∧
    t.S d = (if d = 0 then 0 else BitVec.ofNat 64 (2 ^ 52 * n.val + 2 ^ 55 * (t.tile.coll[n]).gen.toNat + 2 ^ 60 + 2 ^ 63)) ∧
    (∀ r, r ≠ d → t.S r = s.S r) ∧ t.tile.slice = s.tile.slice ∧
    (2 ≤ g.members.length → (t.tile.coll[n]).busy = true ∧ ∃ o, t.collOps = [o] ∧ o.kind = kind ∧
      o.tslot = n.val ∧ o.hnd = s.tile.hnd ∧ o.core = s.sel ∧ o.n = c.n ∧ o.m = g.members.length ∧ o.own = g.own ∧
      o.dstBase = capBase c.de ∧ o.written = [])

/-- What a COLL of a kind asks of its descriptor, its group and its buffers (09 R239, R240). -/
def State.collFits (s : State) (kind : Nat) (g : Group) (c : CollDesc) : Prop :=
  let m := g.members.length
  let uses := ¬ (kind = 1 ∧ g.own ≠ c.root)
  c.ok kind m = true ∧ s.grants c.de c.do' (capPW c.de) (c.dstBytes kind m) ∧
    (uses → s.grants c.se c.so (capPR c.se) (c.srcBytes kind) ∧
      (capBase c.de + c.dstBytes kind m ≤ capBase c.se ∨ capBase c.se + c.srcBytes kind ≤ capBase c.de))

/-- A CPY by i at descriptor pointer q posts an operation of the mode in the free entry n and writes its promise word to d (09 R222, R228, R229):
the promise lies copyTime after CYC + 2 or after the promise of the last operation that has not ended. -/
def State.copyPosted (s : State) (i : Instr) (d : SReg) (q : Word) (n : Fin 8) (mode : Nat) : Prop :=
  let desc := (List.range (if mode = 0 ∨ mode = 3 then 4 else 8)).map fun k => s.tile.slice.readWord (ptrOfs q + 8 * k)
  let p := Nat.max (s.cyc.toNat + 2) (s.tile.copy.ahead) + s.copyTime mode desc 0 0
  ∃ t, exec i s = .next t ∧ t.core.pc = s.core.npc ∧ (t.tile.copy.entries[n]).busy = true ∧ (t.tile.copy.entries[n]).started = false ∧
    (t.tile.copy.entries[n]).mode = mode ∧ (t.tile.copy.entries[n]).desc = desc ∧ (t.tile.copy.entries[n]).core = s.sel ∧
    (t.tile.copy.entries[n]).promise = BitVec.ofNat 64 p ∧
    t.S d = (if d = 0 then 0 else promiseWord (BitVec.ofNat 64 p) n.val (t.tile.copy.entries[n]).gen) ∧ (∀ r, r ≠ d → t.S r = s.S r) ∧
    t.tile.slice = s.tile.slice ∧ t.tile.rings = s.tile.rings ∧ t.net = s.net

/-- Field j of n bits of a row. -/
def bitField (n : Nat) (v : Row) (j : Nat) : Nat := v.toNat / 2 ^ (n * j) % 2 ^ n

/-- The row that code k of a page-4 bundle names in its first iteration (02 R54, 04 R96). -/
def State.rowNamed (s : State) (x : RowX) (k : RCode) : RowSel := rowSel s.sel k x.base x.bank 0

/-- A source of a page-4 bundle that can be read and is not poisoned (10 R254). -/
def State.rowIn (s : State) (ty : RType) (x : RowX) (k : RCode) : Prop :=
  s.rowNamed x k ≠ .ill ∧ s.rowNamed x k ≠ .rgf ∧ (s.core.rowVal (s.rowNamed x k) (RType.bytes ty) x.c).bad = 0

/-- Lane j of a source (10 R247, R254). -/
def State.laneIn (s : State) (ty : RType) (x : RowX) (k : RCode) (j : Nat) : Nat :=
  bitField (RType.width ty) (s.core.rowVal (s.rowNamed x k) (RType.bytes ty) x.c).bits j

/-- The compute core has nothing in flight and injects no divergence, and the bundle with XRG x and destination d carries no REP. -/
def State.rowFirst (s : State) (x : RowX) (d : RCode) : Prop :=
  s.sel = .comp ∧ s.core.still = true ∧ s.core.injRow = false ∧ x.rep = .one ∧
    s.rowNamed x d ≠ .ill ∧ s.rowNamed x d ≠ .rgf ∧ s.rowNamed x d ≠ .bc

/-- A page-4 bundle i writes lane values v to the destination d and to l, ORs the flags fl (where they are given) into FFL, and changes
nothing else (10 R252, R253). -/
def State.lanesGive (s : State) (i : Instr) (ty : RType) (x : RowX) (d : RCode) (v : Nat → Nat) (fl : Option (Nat → Bool)) : Prop :=
  let r := s.rowNamed x d
  ∃ t, exec i s = .next t ∧ t.core.pc = s.core.npc ∧
    (∀ q, q = r ∨ q = .l → q ≠ .z → ∀ j < RType.lanes ty, bitField (RType.width ty) (t.core.rowVal q 8 0).bits j = v j % 2 ^ RType.width ty) ∧
    (∀ f, fl = some f → ∀ k < 64, t.core.sr.ffl.getLsbD k = (s.core.sr.ffl.getLsbD k || (decide (k < 5) && f k))) ∧
    (∀ q, q ≠ r → q ≠ .l → t.core.rowVal q 8 0 = s.core.rowVal q 8 0) ∧ (∀ q, t.S q = s.S q) ∧
    { t.core.sr with ffl := s.core.sr.ffl } = s.core.sr ∧ t.core.rf.c = s.core.rf.c ∧ t.core.rf.k = s.core.rf.k ∧
    t.core.tr = s.core.tr ∧ t.core.rq = s.core.rq ∧ t.tile = s.tile ∧ t.peer = s.peer ∧ t.tiles = s.tiles ∧ t.ctxs = s.ctxs ∧ t.net = s.net

/-- The bundle computes each lane as f says, with its flags. -/
def State.lanesAre (s : State) (i : Instr) (ty : RType) (x : RowX) (d : RCode) (f : Nat → Res) : Prop :=
  s.lanesGive i ty x d (fun j => (f j).bits) (some fun k => (List.range (RType.lanes ty)).any fun j => (f j).fl.getLsbD k)

/-- A finite number as a value. -/
def Fp.ofDy (x : Dy) : Fp := .num (decide (x.m < 0)) x.m.natAbs x.e

/-- sc is the scale of a block of n values: the exponent of the greatest magnitude among those that are finite and not zero, held from -127 to
127, and 0 where there is none (11 R282, R284). -/
def scalesBlock (sc : Int) (n : Nat) (v : Nat → Fp) : Prop :=
  let counts (j : Nat) : Prop := (v j).isNan = false ∧ (v j).isInf = false ∧ (v j).isZero = false
  ((∀ j < n, ¬ counts j) ∧ sc = 0) ∨
    ∃ j < n, counts j ∧ sc = max (-127) (min 127 (v j).dy.top) ∧ ∀ i < n, counts i → (v i).dy.top ≤ (v j).dy.top

/-- The compute core has nothing in flight, no deferred event waits and no divergence is injected (12 R295). -/
def State.unitFree (s : State) : Prop :=
  s.sel = .comp ∧ s.core.still = true ∧ s.core.tr.deferred = none ∧ s.core.injMat = false ∧ s.core.stopped = false ∧
    s.core.tr.fwd = none

/-- A unit operation i issues with entry 0 of KIND 4, starts and retires, and the state is then v; it changes no scalar but those of ss, no
tile register but those of ts, no accumulator but those of cs, no moment register but those of ks, and no byte of memory (12 R295). -/
def State.unitRuns (s v : State) (i : Instr) (ss : List SReg) (ts cs ks : List Nat) : Prop :=
  ∃ t u, exec i s = .next t ∧ exec .unitOperationStart t = .next u ∧ exec .unitOperationRetire u = .next v ∧
    t.core.pc = s.core.npc ∧ t.core.rq[(0 : Fin 8)].v = true ∧ t.core.rq[(0 : Fin 8)].kind = 4 ∧ t.core.rf = s.core.rf ∧
    (∀ r, t.S r = s.S r) ∧ t.tile.slice = s.tile.slice ∧ v.core.pc = s.core.npc ∧ v.core.rq[(0 : Fin 8)].v = false ∧
    v.core.unit.ops = [] ∧ (∀ r, r ∉ ss → v.S r = s.S r) ∧ (∀ n, n ∉ ts → v.core.T n = s.core.T n) ∧
    (∀ n, n ∉ cs → v.core.acc n = s.core.acc n) ∧ (∀ n : KReg, n.val ∉ ks → v.core.K n = s.core.K n) ∧
    v.core.rf.o = s.core.rf.o ∧ v.core.rf.l = s.core.rf.l ∧ v.core.tr = s.core.tr ∧ v.core.frames = s.core.frames ∧
    v.tile.slice = s.tile.slice ∧ v.net = s.net ∧ v.ctxs = s.ctxs

/-- Nothing of the core is in flight but the REP bundle at its pc, of which entry 0 issues iterations (04 R97). -/
def State.midRep (s : State) : Prop :=
  s.core.issuing = some 0 ∧ (∀ n : Fin 8, n ≠ 0 → s.core.rq[n].v = false) ∧ s.core.unit.ops = [] ∧ s.core.unit.kept = [] ∧
    s.core.link.retry = [] ∧ s.core.link.vc0 = []

/-- The count of a bundle's REP (02 R48). -/
def State.repeats (s : State) (rep : Rep) : Nat := match rep with | .one => 1 | .imm n => n.val | .reg r => (s.S r).toNat

/-- The bundle i with a REP, whose entry is of the kind with words w1 and w2 (02 R48, 04 R94-R97): count 0 retires at once, a count above 65,535 takes RGF, and otherwise each step is one iteration: where pre holds, iteration k has its effect, from the words that the
entry holds. The pc stays until the last one, which frees the entry. -/
def State.iterates (s : State) (i : Instr) (rep : Rep) (kind : Nat) (w1 w2 : Word) (pre : Nat → Word → Word → Prop)
    (eff : State → Nat → Word → Word → Prop) : Prop :=
  (s.core.still = true →
    (s.repeats rep = 0 → exec i s = .next s.retire) ∧
    (65535 < s.repeats rep → exec i s = .next (s.takeTrap .rgf s.core.pc s.core.pc false)) ∧
    (2 ≤ s.repeats rep → s.repeats rep ≤ 65535 → pre 0 w1 w2 → ∃ t, exec i s = .next t ∧ eff t 0 w1 w2 ∧ t.core.pc = s.core.pc ∧
      let e := t.core.rq[(0 : Fin 8)]
      e.v = true ∧ e.kind.toNat = kind ∧ e.next = 1 ∧ e.count.toNat = s.repeats rep ∧ e.w1 = w1 ∧ e.w2 = w2 ∧
        e.bofs = s.core.pc.truncate 19)) ∧
  (let e := s.core.rq[(0 : Fin 8)]
   s.midRep → e.kind.toNat = kind → e.next.toNat < e.count.toNat → pre e.next.toNat e.w1 e.w2 →
    ∃ t, exec i s = .next t ∧ eff t e.next.toNat e.w1 e.w2 ∧
      (e.next.toNat + 1 < e.count.toNat →
        t.core.pc = s.core.pc ∧ t.core.rq[(0 : Fin 8)].v = true ∧ t.core.rq[(0 : Fin 8)].next = e.next + 1) ∧
      (e.next.toNat + 1 = e.count.toNat → t.core.pc = s.core.npc ∧ t.core.rq[(0 : Fin 8)].v = false))

/-- The instructions and events, one after the other, lead from a state to another. -/
def leads (s : State) : List Instr → State → Prop
  | [], t => t = s
  | i :: r, t => ∃ u, exec i s = .next u ∧ leads u r t

/-- The unit bundle i of an instruction with a REP count of c issues its first two iterations: after the first the pc stays, once that has
started the second joins it behind, and the one entry, of KIND 4, counts them (12 R288, R295). -/
def State.unitRepeats (s : State) (i : Instr) (c : Nat) (binds : UnitOp → UnitOp → Prop) : Prop :=
  ∃ t v x y, exec i s = .next t ∧ leads t [.unitOperationStart, i] v ∧ t.core.pc = s.core.pc ∧ v.core.unit.ops = [x, y] ∧ x.op = i ∧
    y.op = i ∧ x.started = true ∧ y.started = false ∧ binds x y ∧ v.core.pc = (if c = 2 then s.core.npc else s.core.pc) ∧
    v.core.rf = s.core.rf ∧ v.tile.slice = s.tile.slice ∧
    let e := v.core.rq[(0 : Fin 8)]
    e.v = true ∧ e.kind = 4 ∧ e.next = 2 ∧ e.count.toNat = c ∧ e.bofs = s.core.pc.truncate 19

/-- The head of ring h has moved past n slots, and as many fewer are filled (02 R58). -/
def State.popped (v s : State) (h : Ring) (n : Nat) : Prop :=
  (v.tile.rings[h]).head = BitVec.ofNat 6 (((s.tile.rings[h]).head.toNat + n) % (s.tile.rings[h]).nslot.toNat) ∧
  (v.tile.rings[h]).fill.toNat = (s.tile.rings[h]).fill.toNat - n ∧ (v.tile.rings[h]).nslot = (s.tile.rings[h]).nslot ∧
  (v.tile.rings[h]).base = (s.tile.rings[h]).base ∧ (v.tile.rings[h]).tail = (s.tile.rings[h]).tail

/-- The quays hear a frame: the module has booted, the header, the tag and the nonce are good, and its REQID has neither an answer nor one to
come (16 R396, R397). -/
def State.hears (s : State) (f : Frame) : Prop :=
  s.booted = true ∧ frameOk f = true ∧ authentic f = true ∧ s.stale f = false ∧ (∀ c ∈ (s.partOf f.part).cache, c.1 ≠ f.reqid) ∧ s.holding f = false

/-- i, a frame f of command cmd, is answered with a status and a payload, in the state t, in a frame with the next nonce (16 R396). -/
def State.tells (s t : State) (i : Instr) (f : Frame) (cmd status : Nat) (bs : List Byte) : Prop :=
  exec i s = .next t ∧
    t.responses.getLast? = some { words := rpcHead cmd f.part f.adm true f.reqid bs.length status s.replace ++ rpcNonce t.frames, payload := bs }

/-- Canonical memories of a context: its edge memory, its NET windows, its shadow pages and its forwarding slots. -/
def Ctx.canon (x : Ctx) : Prop :=
  x.edge.wf = true ∧ x.net.wf = true ∧ (∀ h ∈ x.shadows, h.2.mem.wf = true) ∧ ∀ f ∈ x.fslots, f.2.wf = true

/-- Every memory of the machine has its canonical form: the slice of each tile, in focus, elsewhere or in a dock, the memories of every
context and of every partition. -/
def State.canon (s : State) : Prop :=
  s.tile.slice.wf = true ∧ (∀ t ∈ s.tiles, t.tile.slice.wf = true) ∧ (∀ c ∈ s.ctxs, c.2.canon) ∧
    (∀ p ∈ s.parts, p.2.net.wf = true) ∧ ∀ t ∈ s.teams, ∀ u ∈ t.dockTiles, u.tile.slice.wf = true

/-- Every move that waits is a well-formed event. -/
def State.orderly (s : State) : Bool := s.agenda.all fun m => m.ev.isEvent && m.ev.wf

/-- A run is safe while every step answers a next state: the machine has no state of its own in which it stops (15 R362, 14 R338). -/
def State.goesOn (s : State) : Prop := ∃ t, step s = .next t

end Sys2Proof.Machine
end

