-- ==== Sys2Proof/Certificates/Slice0/Obligations.lean ====
section
/-! DEFINITION. The statements for the provers, chapter by chapter of the spec. -/

open Sys2Proof Sys2Proof.Machine

/-! ### Scalars (03_scalar) -/

/-- R70, R71, R74, R61, R76: the value that each three-register, immediate and two-register form writes to d, where no write to its scalars is
pending (R83). The products of MULH and MULHU are exact integers, of which the high 64 bits are taken; an immediate is the sign-extended value
of its field. -/
def Obligations.ScalarFormsWriteTheirResult : Prop :=
  (∀ (s : State) (d a b : SReg), s.core.ready [d, a, b] = true →
     exec (.add d a b) s = .next (s.result d (s.S a + s.S b)) ∧
     exec (.sub d a b) s = .next (s.result d (s.S a - s.S b)) ∧
     exec (.and d a b) s = .next (s.result d (s.S a &&& s.S b)) ∧
     exec (.or d a b) s = .next (s.result d (s.S a ||| s.S b)) ∧
     exec (.xor d a b) s = .next (s.result d (s.S a ^^^ s.S b)) ∧
     exec (.shl d a b) s = .next (s.result d (s.S a <<< ((s.S b).extractLsb' 0 6).toNat)) ∧
     exec (.shr d a b) s = .next (s.result d (s.S a >>> ((s.S b).extractLsb' 0 6).toNat)) ∧
     exec (.sha d a b) s = .next (s.result d ((s.S a).sshiftRight ((s.S b).extractLsb' 0 6).toNat)) ∧
     exec (.mul d a b) s = .next (s.result d (BitVec.ofInt 64 ((s.S a).toInt * (s.S b).toInt))) ∧
     exec (.mulh d a b) s = .next (s.result d (BitVec.ofInt 64 ((s.S a).toInt * (s.S b).toInt / 2 ^ 64))) ∧
     exec (.mulhu d a b) s = .next (s.result d (BitVec.ofNat 64 ((s.S a).toNat * (s.S b).toNat / 2 ^ 64))) ∧
     exec (.seq d a b) s = .next (s.result d (if s.S a = s.S b then 1 else 0)) ∧
     exec (.slt d a b) s = .next (s.result d (if (s.S a).toInt < (s.S b).toInt then 1 else 0)) ∧
     exec (.sltu d a b) s = .next (s.result d (if (s.S a).toNat < (s.S b).toNat then 1 else 0)) ∧
     exec (.sel d a b) s = .next (s.result d (if s.S d ≠ 0 then s.S a else s.S b)) ∧
     exec (.min d a b) s = .next (s.result d (if (s.S a).toInt < (s.S b).toInt then s.S a else s.S b)) ∧
     exec (.max d a b) s = .next (s.result d (if (s.S a).toInt < (s.S b).toInt then s.S b else s.S a)) ∧
     exec (.minu d a b) s = .next (s.result d (if (s.S a).toNat < (s.S b).toNat then s.S a else s.S b)) ∧
     exec (.maxu d a b) s = .next (s.result d (if (s.S a).toNat < (s.S b).toNat then s.S b else s.S a)) ∧
     exec (.addw d a b) s = .next (s.result d (((s.S a + s.S b).truncate 32).signExtend 64)) ∧
     exec (.subw d a b) s = .next (s.result d (((s.S a - s.S b).truncate 32).signExtend 64)) ∧
     exec (.mulw d a b) s = .next (s.result d (((s.S a * s.S b).truncate 32).signExtend 64))) ∧
  (∀ (s : State) (d a : SReg) (imm : Int) (n : Fin 64), s.core.ready [d, a] = true →
     exec (.addi d a imm) s = .next (s.result d (s.S a + BitVec.ofInt 64 imm)) ∧
     exec (.li d imm) s = .next (s.result d (BitVec.ofInt 64 imm)) ∧
     exec (.andi d a imm) s = .next (s.result d (s.S a &&& BitVec.ofInt 64 imm)) ∧
     exec (.shli d a n) s = .next (s.result d (s.S a <<< n.val)) ∧
     exec (.shri d a n) s = .next (s.result d (s.S a >>> n.val)) ∧
     exec (.shai d a n) s = .next (s.result d ((s.S a).sshiftRight n.val)) ∧
     exec (.mov d a) s = .next (s.result d (s.S a)) ∧
     exec (.brev d a) s = .next (s.result d (s.S a).reverse) ∧
     exec (.sextB d a) s = .next (s.result d (((s.S a).truncate 8).signExtend 64)) ∧
     exec (.sextH d a) s = .next (s.result d (((s.S a).truncate 16).signExtend 64)) ∧
     exec (.sextW d a) s = .next (s.result d (((s.S a).truncate 32).signExtend 64)) ∧
     exec (.zextW d a) s = .next (s.result d (((s.S a).truncate 32).zeroExtend 64)))



/-- R76, R77: CLZ, CTZ and POPC write a count: the zeros above the highest set bit, the zeros below the lowest, the set bits. BEXT writes the
field of a that bits [5:0] and [14:8] of b name, zero-extended; BINS replaces that field of d and keeps the other bits; a length above 64 acts
as 64. -/
def Obligations.BitsAreCountedTakenAndPut : Prop :=
  (∀ (s : State) (d a : SReg), s.core.ready [d, a] = true →
     (∃ n ≤ 64, exec (.clz d a) s = .next (s.result d (BitVec.ofNat 64 n)) ∧
       (∀ j < n, (s.S a).getLsbD (63 - j) = false) ∧ (n < 64 → (s.S a).getLsbD (63 - n) = true)) ∧
     (∃ n ≤ 64, exec (.ctz d a) s = .next (s.result d (BitVec.ofNat 64 n)) ∧
       (∀ j < n, (s.S a).getLsbD j = false) ∧ (n < 64 → (s.S a).getLsbD n = true)) ∧
     exec (.popc d a) s = .next (s.result d (BitVec.ofNat 64 ((List.range 64).countP fun j => (s.S a).getLsbD j)))) ∧
  (∀ (s : State) (d a b : SReg), s.core.ready [d, a, b] = true →
     let pos := (s.S b).toNat % 64
     let len := Nat.min ((s.S b).toNat / 256 % 128) 64
     (∃ v : Word, exec (.bext d a b) s = .next (s.result d v) ∧
       ∀ j, v.getLsbD j = (decide (j < len) && (s.S a).getLsbD (pos + j))) ∧
     ∃ v : Word, exec (.bins d a b) s = .next (s.result d v) ∧
       ∀ j < 64, v.getLsbD j = if pos ≤ j ∧ j < pos + len then (s.S a).getLsbD (j - pos) else (s.S d).getLsbD j)



/-- R52, R56, R64: what writing a scalar result leaves: the destination holds the value (s0 still reads 0), every other scalar reads as
before, the pc is NPC; the rows, the state registers, the traps, the queues, the other core, the tile with all its memory, and everything
outside the tile are as before. -/
def Obligations.ScalarResultFrame : Prop :=
  ∀ (s : State) (d : SReg) (v : Word),
    let t := s.result d v
    t.S d = (if d = 0 then 0 else v) ∧ (∀ r, r ≠ d → t.S r = s.S r) ∧ t.core.pc = s.core.npc ∧
    t.core.rf = s.core.rf ∧ t.core.sr = s.core.sr ∧ t.core.tr = s.core.tr ∧ t.core.q = s.core.q ∧ t.core.rq = s.core.rq ∧
    t.core.frames = s.core.frames ∧ t.core.sig = s.core.sig ∧ t.core.unit = s.core.unit ∧ t.core.link = s.core.link ∧
    t.tile = s.tile ∧ t.peer = s.peer ∧ t.tiles = s.tiles ∧ t.net = s.net ∧ t.ctxs = s.ctxs ∧ t.parts = s.parts ∧
    t.regions = s.regions ∧ t.teams = s.teams ∧ t.fresh = s.fresh ∧
    (∀ a, t.tile.slice.read a = s.tile.slice.read a)

/-- R72, R73, R84, R85, R414: a divide whose divisor is zero (its low 32 bits in the W forms) takes ZDIV, with TPC and TVA the address of the
bundle's first word, whatever its waits for the divider and for an entry would be. One whose divisor is not zero takes the free entry n at
issue, and its completion writes d: the quotient rounded toward zero or the remainder with the dividend's sign, over 64 bits, or over the low
32 bits and sign-extended. The smallest number divided by -1 wraps to itself, with remainder 0. -/
def Obligations.DividesCompleteOrTrap : Prop :=
  (∀ (s : State) (d a b : SReg), s.core.ready [d, a, b] = true →
     (s.S b = 0 →
       exec (.div d a b) s = .next (s.takeTrap .zdiv s.core.pc s.core.pc false) ∧
       exec (.rem d a b) s = .next (s.takeTrap .zdiv s.core.pc s.core.pc false) ∧
       exec (.divu d a b) s = .next (s.takeTrap .zdiv s.core.pc s.core.pc false) ∧
       exec (.remu d a b) s = .next (s.takeTrap .zdiv s.core.pc s.core.pc false)) ∧
     ((s.S b).truncate 32 = (0 : W32) →
       exec (.divw d a b) s = .next (s.takeTrap .zdiv s.core.pc s.core.pc false) ∧
       exec (.remw d a b) s = .next (s.takeTrap .zdiv s.core.pc s.core.pc false) ∧
       exec (.divuw d a b) s = .next (s.takeTrap .zdiv s.core.pc s.core.pc false) ∧
       exec (.remuw d a b) s = .next (s.takeTrap .zdiv s.core.pc s.core.pc false))) ∧
  (∀ (s : State) (d a b : SReg) (n : Fin 8), s.core.ready [d, a, b] = true → (∀ e ∈ s.core.claims, e.kind ≠ 1) →
     s.core.freeEntry = some n → s.core.stopped = false → s.core.tr.fwd = none → s.core.upset = 0 →
     let x := s.S a
     let y := s.S b
     let xw := x.truncate 32
     let yw := y.truncate 32
     (y ≠ 0 →
       s.divideDoes (.div d a b) n d (BitVec.ofInt 64 (Int.tdiv x.toInt y.toInt)) ∧
       s.divideDoes (.rem d a b) n d (BitVec.ofInt 64 (Int.tmod x.toInt y.toInt)) ∧
       s.divideDoes (.divu d a b) n d (BitVec.ofNat 64 (x.toNat / y.toNat)) ∧
       s.divideDoes (.remu d a b) n d (BitVec.ofNat 64 (x.toNat % y.toNat))) ∧
     (yw ≠ (0 : W32) →
       s.divideDoes (.divw d a b) n d ((BitVec.ofInt 32 (Int.tdiv xw.toInt yw.toInt)).signExtend 64) ∧
       s.divideDoes (.remw d a b) n d ((BitVec.ofInt 32 (Int.tmod xw.toInt yw.toInt)).signExtend 64) ∧
       s.divideDoes (.divuw d a b) n d ((BitVec.ofNat 32 (xw.toNat / yw.toNat)).signExtend 64) ∧
       s.divideDoes (.remuw d a b) n d ((BitVec.ofNat 32 (xw.toNat % yw.toNat)).signExtend 64)))



/-- R78-R81, R112: the pointer instructions. PSPC, PRNK and POFF write a pointer's space, its rank (0 outside TEAM space) and its offset
field; PMK builds a pointer and PADD moves one where the space exists and the offset stays within the space's limit, and both take BND
with TVA = S(a) and write nothing where it does not. -/
def Obligations.PointersAreMadeMovedAndRead : Prop :=
  ∀ (s : State) (d a b : SReg), s.core.ready [d, a, b] = true →
    let x := s.S a
    let y := s.S b
    exec (.pspc d a) s = .next (s.result d (x >>> 60)) ∧
    exec (.prnk d a) s = .next (s.result d (if x >>> 60 = 1 then (x >>> 40) &&& 0xFFFFF else 0)) ∧
    exec (.poff d a) s = .next (s.result d (if (x >>> 60).toNat ≤ 1 then x &&& 0xFFFFFFFFFF else x &&& 0xFFFFFFFFFFFFFF)) ∧
    (y.toNat % 16 < 5 ∧ x.toNat ≤ spaceLimit (y.toNat % 16) →
      exec (.pmk d a b) s = .next (s.result d (((y &&& 0xF) <<< 60) |||
        (if y.toNat % 16 = 1 then ((y >>> 4) &&& 0xFFFFF) <<< 40 else 0) ||| x))) ∧
    (¬ (y.toNat % 16 < 5 ∧ x.toNat ≤ spaceLimit (y.toNat % 16)) →
      exec (.pmk d a b) s = .next (s.takeTrap .bnd x s.core.pc false)) ∧
    (∀ p, ea x y.toInt = some p → exec (.padd d a b) s = .next (s.result d p)) ∧
    (ea x y.toInt = none → exec (.padd d a b) s = .next (s.takeTrap .bnd x s.core.pc false)) ∧
    (∀ p, ea x y.toInt = some p →
      ptrSpace p = ptrSpace x ∧ ptrRank p = ptrRank x ∧ (ptrOfs p : Int) = ptrOfs x + y.toInt ∧ ptrOfs p ≤ spaceLimit (ptrSpace x)) ∧
    (ea x y.toInt = none ↔ 5 ≤ ptrSpace x ∨ (ptrOfs x : Int) + y.toInt < 0 ∨ (spaceLimit (ptrSpace x) : Int) < ptrOfs x + y.toInt)
/-! ### Control (04_control) -/

/-- R86, R49, R89, R91, R57: a branch goes to BPC + 2 * offset where its condition holds and to NPC where it does not, and changes no register.
JR, CALLR and RET go to the address in a scalar, CALL to a target; a call links NPC into s15 and kills the scalars of CONV[15:0], a return
kills those of CONV[31:16]; an odd address takes ILL at the jumping bundle, and then nothing is killed or linked. The TVA of these ILL, BPC, and
that of R88's ILL for LOOP with s0, the base word, are the model's choice.
The model's choices in it: log entry 77. -/
def Obligations.BranchesJumpsAndCallsGo : Prop :=
  (∀ (s : State) (a b : SReg) (imm : Int),
     let target := s.core.pc + BitVec.ofInt 64 (2 * imm)
     exec (.bra imm) s = .next (s.goto target) ∧
     (s.core.ready [a] = true →
       exec (.bz a imm) s = .next (if s.S a = 0 then s.goto target else s.retire) ∧
       exec (.bnz a imm) s = .next (if s.S a ≠ 0 then s.goto target else s.retire)) ∧
     (s.core.ready [a, b] = true →
       exec (.bccEq a b imm) s = .next (if s.S a = s.S b then s.goto target else s.retire) ∧
       exec (.bccNe a b imm) s = .next (if s.S a ≠ s.S b then s.goto target else s.retire) ∧
       exec (.bccLt a b imm) s = .next (if (s.S a).toInt < (s.S b).toInt then s.goto target else s.retire) ∧
       exec (.bccGe a b imm) s = .next (if (s.S b).toInt ≤ (s.S a).toInt then s.goto target else s.retire) ∧
       exec (.bccuLtu a b imm) s = .next (if (s.S a).toNat < (s.S b).toNat then s.goto target else s.retire) ∧
       exec (.bccuGeu a b imm) s = .next (if (s.S b).toNat ≤ (s.S a).toNat then s.goto target else s.retire)) ∧
     (s.goto target).core.pc = target ∧ s.retire.core.pc = s.core.npc ∧
     (∀ r, (s.goto target).S r = s.S r ∧ s.retire.S r = s.S r) ∧ (s.goto target).tile = s.tile ∧ s.retire.tile = s.tile) ∧
  (∀ (s : State) (a : SReg) (imm : Int),
     (s.core.ready [a] = true → (s.S a).getLsbD 0 = false → exec (.jr a) s = .next (s.goto (s.S a))) ∧
     (s.core.ready [a] = true → (s.S a).getLsbD 0 = true → exec (.jr a) s = .next (s.takeTrap .ill s.core.pc s.core.pc false)) ∧
     (s.core.ready (15 :: maskRegs (s.core.sr.conv.truncate 16)) = true →
       ∃ t, exec (.call imm) s = .next t ∧ t.core.pc = s.core.pc + BitVec.ofInt 64 (2 * imm) ∧ s.linked t) ∧
     (s.core.ready (a :: 15 :: maskRegs (s.core.sr.conv.truncate 16)) = true → (s.S a).getLsbD 0 = false →
       ∃ t, exec (.callr a) s = .next t ∧ t.core.pc = s.S a ∧ s.linked t) ∧
     (s.core.ready (a :: 15 :: maskRegs (s.core.sr.conv.truncate 16)) = true → (s.S a).getLsbD 0 = true →
       exec (.callr a) s = .next (s.takeTrap .ill s.core.pc s.core.pc false)) ∧
     (s.core.ready (15 :: maskRegs ((s.core.sr.conv >>> 16).truncate 16)) = true → (s.S 15).getLsbD 0 = false →
       ∃ t, exec .ret s = .next t ∧ t.core.pc = s.S 15 ∧ t.tile = s.tile ∧
         ∀ r, t.S r = if r ≠ 0 ∧ s.core.sr.conv.getLsbD (16 + r.val) = true then 0 else s.S r) ∧
     (s.core.ready (15 :: maskRegs ((s.core.sr.conv >>> 16).truncate 16)) = true → (s.S 15).getLsbD 0 = true →
       exec .ret s = .next (s.takeTrap .ill s.core.pc s.core.pc false)) ∧
     exec (.loop 0 imm) s = .next (s.takeTrap .ill (s.core.npc - 2) s.core.pc false))


/-- R88: LOOP counts its register down and branches while it is not zero; with d = s0 it takes ILL, at some TVA. -/
def Obligations.LoopCountsDown : Prop :=
  ∀ (s : State) (d : SReg) (imm : Int),
    (d ≠ 0 → s.core.ready [d] = true →
      ∃ t, exec (.loop d imm) s = .next t ∧ t.S d = s.S d - 1 ∧ (∀ r, r ≠ d → t.S r = s.S r) ∧ t.tile = s.tile ∧
        t.core.pc = (if s.S d - 1 = 0 then s.core.npc else s.core.pc + BitVec.ofInt 64 (2 * imm))) ∧
    ∃ va, exec (.loop 0 imm) s = .next (s.takeTrap .ill va s.core.pc false)


/-- R99-R102: NOP only advances the pc; BRK takes the trap BRK; END and ENDT at trap level 0, once nothing of the activation is in flight,
end the activation: the core runs none, every register is dead, the frames are gone and the activating message leaves its berth; ENDT also
tells the quay and takes no further activation; at a trap level above 0 both take ILL. R105-R107, R63, R23: an activation starts on an owned
core that runs none, in the berth that R105 chooses: the pc is the berth's entry, every register is dead but s14 where the berth gives a stack,
CONV comes from the berth, MSGH from the first header word, BRTH is the berth's number, the trap level is 0, the q0 cursor is at the first
header word, and the message stays until END. Rings, phasers and keep regions, with code and ring slots, survive (R23); the rest of the
slice is undefined (R24).
The model's choices in it: log entries 7 and 42. -/
def Obligations.ActivationsStartAndEnd : Prop :=
  (∀ s : State,
     exec .nop s = .next s.retire ∧
     exec .brk s = .next (s.takeTrap .brk s.core.pc s.core.pc false) ∧
     (s.core.tr.level.val = 0 → s.core.idleUnits = true →
       (∃ t, exec .endAct s = .next t ∧ t.activationOver s ∧ t.core.ended = s.core.ended ∧ t.teams = s.teams) ∧
       ∃ t, exec .endTeam s = .next t ∧ t.activationOver s ∧ t.core.ended = true ∧
         t.teams = s.teams.map fun u => if u.ctx == s.tile.ctx && u.tag == s.tile.ttag then { u with endt := true } else u) ∧
     (s.core.tr.level.val ≠ 0 →
       exec .endAct s = .next (s.takeTrap .ill s.core.pc s.core.pc false) ∧
       exec .endTeam s = .next (s.takeTrap .ill s.core.pc s.core.pc false))) ∧
  (∀ (s : State) (b : Fin 16) (g : Nat), s.core.active = false → s.core.ended = false → s.core.stopped = false → s.tile.owned = true →
     s.chooseBerth = some (b, g) →
     ∃ t, exec .activationStart s = .next t ∧ t.core.active = true ∧ t.core.pc = (s.core.berths[b]).entry.zeroExtend 64 ∧
       t.core.rf = {} ∧
       (∀ r, t.S r = if r = 14 ∧ (s.core.berths[b]).stk ≠ 0 then (s.core.berths[b]).stk.zeroExtend 64 else 0) ∧
       t.core.sr.conv = (s.core.berths[b]).conv.zeroExtend 64 ∧ t.core.sr.brth = BitVec.ofNat 64 b.val ∧
       (∀ m ∈ (s.core.berths[b]).inbox.head?, t.core.sr.msgh = m.h0) ∧
       t.core.sr.mctl = 0 ∧ t.core.sr.fmta = 0 ∧ t.core.sr.fmtb = 0 ∧ t.core.sr.tvec = s.core.sr.tvec ∧
       t.core.tr.level = 0 ∧ t.core.frames = [] ∧ t.core.q.q0pos = 0 ∧ t.core.berths = s.core.berths ∧
       { t.tile with slice := s.tile.slice } = s.tile ∧
       (s.tile.slice.wf = true → ∀ a < 0x80000, s.tile.kept a = true → t.tile.slice.read a = s.tile.slice.read a))

/-! ### Memory (05_memory, 06_ordering) -/

/-- R120, R112: the scalar loads and stores of the own slice. LDW sign-extends 4 bytes, LDD takes 8; LDX zero-extends and LDXS sign-extends
their 1, 2, 4 or 8 bytes at S(a) plus S(b) times the size. STW stores the low 4 bytes of d, STD 8, STX its size. Bytes are little-endian. A load
changes nothing but d; after a store every other byte of the slice, every register and everything outside the tile stays.
The model's choices in it: log entry 89. -/
def Obligations.LocalLoadsAndStoresReachTheSlice : Prop :=
  (∀ (s : State) (d a b : SReg) (imm : Int) (z : Size) (x : Option Xsc) (p : Word),
     s.core.ready [d, a, b] = true → s.orderReady x = true →
     (ea (s.S a) imm = some p → s.readsHere p 4 →
       exec (.ldw d a imm x) s = .next (s.result d ((BitVec.ofNat 32 (s.sliceNat p 4)).signExtend 64))) ∧
     (ea (s.S a) imm = some p → s.readsHere p 8 →
       exec (.ldd d a imm x) s = .next (s.result d (BitVec.ofNat 64 (s.sliceNat p 8)))) ∧
     (s.sel = .stage → ea (s.S a) ((s.S b).toInt * sizeBytes z) = some p → s.readsHere p (sizeBytes z) →
       exec (.ldx z d a b x) s = .next (s.result d (BitVec.ofNat 64 (s.sliceNat p (sizeBytes z)))) ∧
       exec (.ldxs z d a b x) s =
         .next (s.result d ((BitVec.ofNat (8 * sizeBytes z) (s.sliceNat p (sizeBytes z))).signExtend 64)))) ∧
  (∀ (s : State) (d a b : SReg) (imm : Int) (z : Size) (x : Option Xsc) (p : Word),
     s.core.ready [d, a, b] = true → s.orderReady x = true → s.tile.slice.wf = true →
     (ea (s.S a) imm = some p → s.writesHere p 4 →
       ∃ u, exec (.stw d a imm x) s = .next u ∧ s.onlyStored u p 4 fun j => some ((s.S d).extractLsb' (8 * j) 8)) ∧
     (ea (s.S a) imm = some p → s.writesHere p 8 →
       ∃ u, exec (.std d a imm x) s = .next u ∧ s.onlyStored u p 8 fun j => some ((s.S d).extractLsb' (8 * j) 8)) ∧
     (s.sel = .stage → ea (s.S a) ((s.S b).toInt * sizeBytes z) = some p → s.writesHere p (sizeBytes z) →
       ∃ u, exec (.stx z d a b x) s = .next u ∧ s.onlyStored u p (sizeBytes z) fun j => some ((s.S d).extractLsb' (8 * j) 8)))



/-- R121-R123, R54: loads and stores of rows and tile registers at the own slice, without REP: LDR writes the 64 bytes, LDS those whose mask
bits are set, LDT the 16 rows; row code 13 takes the access and discards the data; no other row and no scalar changes, and memory stays. STR
stores the 64 bytes of a row, STS those whose mask bits are set, STT the 16 rows of a tile register; a dead register stores zeros, and so does
code 13; every other byte, every register and everything outside the tile stays. -/
def Obligations.RowAndTileAccessesReachTheSlice : Prop :=
  (∀ (s : State) (c : RCode) (t : Fin 4) (a b : SReg) (imm : Int) (base : Fin 16) (bank : Bool) (x : Option Xsc) (p : Word),
     s.core.still = true →
     let pos : RowPos := { rep := .one, base := base, bank := bank }
     let r := s.memRow c pos 0
     (r ≠ .ill → r ≠ .rgf → ea (s.S a) imm = some p → s.readsHere p 64 →
       ∃ u, exec (.ldr c a imm pos x) s = .next u ∧ s.onlyRow u r ∧ (r ≠ .z → (u.core.rowVal r 8 0).bad = 0) ∧
         (r ≠ .z → ∀ j < 64, Row.byte (u.core.rowVal r 8 0).bits j = s.tile.slice.read (ptrOfs p + j))) ∧
     (s.sel = .stage → r ≠ .ill → r ≠ .rgf → ea (s.S a) 0 = some p → ptrOfs p % 32 = 0 → s.readsHere p 64 →
       ∃ u, exec (.lds c a b pos x) s = .next u ∧ s.onlyRow u r ∧
         (r ≠ .z → ∀ j < 64, Row.byte (u.core.rowVal r 8 0).bits j =
           if (s.S b).getLsbD j then s.tile.slice.read (ptrOfs p + j) else Row.byte (s.core.rowVal r 8 0).bits j)) ∧
     (s.sel = .stage → ea (s.S a) imm = some p → s.readsHere p 1024 →
       ∃ u, exec (.ldt t a imm x) s = .next u ∧ u.core.pc = s.core.npc ∧ (∀ q, u.S q = s.S q) ∧ u.tile = s.tile ∧
         (∀ n, n ≠ t.val → u.core.T n = s.core.T n) ∧
         ∀ (i : Fin 16) (j : Nat), j < 64 → Row.byte ((u.core.T t.val).row i).bits j = s.tile.slice.read (ptrOfs p + 64 * i.val + j))) ∧
  (∀ (s : State) (c : RCode) (t : Fin 4) (a b : SReg) (imm : Int) (base : Fin 16) (bank : Bool) (x : Option Xsc) (p : Word),
     s.core.still = true → s.tile.slice.wf = true →
     let pos : RowPos := { rep := .one, base := base, bank := bank }
     let r := s.memRow c pos 0
     (r ≠ .ill → r ≠ .rgf → ea (s.S a) imm = some p → s.writesHere p 64 →
       ∃ u, exec (.str c a imm pos x) s = .next u ∧ s.onlyStored u p 64 fun j => some (Row.byte (s.core.rowVal r 8 0).bits j)) ∧
     (s.sel = .stage → r ≠ .ill → r ≠ .rgf → ea (s.S a) 0 = some p → ptrOfs p % 32 = 0 → s.writesHere p 64 →
       ∃ u, exec (.sts c a b pos x) s = .next u ∧
         s.onlyStored u p 64 fun j => if (s.S b).getLsbD j then some (Row.byte (s.core.rowVal r 8 0).bits j) else none) ∧
     (s.sel = .stage → ea (s.S a) imm = some p → s.writesHere p 1024 →
       ∃ u, exec (.stt t a imm x) s = .next u ∧
         s.onlyStored u p 1024 fun j => some (Row.byte ((s.core.T t.val).row (Fin.ofNat 16 (j / 64))).bits (j % 64))))



/-- R111-R113, R79, R14: the checks of an access, in their order, each before any byte moves. A pointer that leaves its space takes BND with
TVA = S(a); QUAY space without privilege takes PRIV, an access past the limit BND, a rank that the team does not have BND, each with TVA the
pointer; a load that only the staging core has takes ILL on the compute core. -/
def Obligations.AccessChecksTrapInOrder : Prop :=
  ∀ (s : State) (d a b : SReg) (imm : Int) (z : Size) (x : Option Xsc) (p : Word), s.core.ready [d, a, b] = true →
    (ea (s.S a) imm = none →
      exec (.ldd d a imm x) s = .next (s.takeTrap .bnd (s.S a) s.core.pc false) ∧
      exec (.std d a imm x) s = .next (s.takeTrap .bnd (s.S a) s.core.pc false)) ∧
    (ea (s.S a) imm = some p → s.orderReady x = true →
      (ptrSpace p = 3 → s.privileged = false →
        exec (.ldd d a imm x) s = .next (s.takeTrap .priv p s.core.pc false) ∧
        exec (.std d a imm x) s = .next (s.takeTrap .priv p s.core.pc false)) ∧
      ((ptrSpace p = 3 → s.privileged = true) → spaceLimit (ptrSpace p) < ptrOfs p + 8 →
        exec (.ldd d a imm x) s = .next (s.takeTrap .bnd p s.core.pc false) ∧
        exec (.std d a imm x) s = .next (s.takeTrap .bnd p s.core.pc false)) ∧
      (ptrSpace p = 1 → ptrOfs p + 8 ≤ 0x80000 → s.tile.placement.length ≤ ptrRank p →
        exec (.ldd d a imm x) s = .next (s.takeTrap .bnd p s.core.pc false) ∧
        exec (.std d a imm x) s = .next (s.takeTrap .bnd p s.core.pc false))) ∧
    (s.sel = .comp →
      exec (.ldx z d a b x) s = .next (s.takeTrap .ill s.core.pc s.core.pc false) ∧
      exec (.stx z d a b x) s = .next (s.takeTrap .ill s.core.pc s.core.pc false))
/-- R127-R131: capabilities on the staging core. CBND writes the EDGE pointer of base plus offset where the pair is sealed and the offset is
within the length; CNAR writes the pair narrowed in base, length and permissions, sealed again; CCHK writes 1, 2, 3 or 0 by the first check
that fails. CBND and CNAR take CAPV with TVA = S(b) where their check fails. A capability that the quay seals carries its base, permissions,
length and slot, and is sealed wherever its slot is not 0; the seal is part of the even word, so that a pair of another base, permission,
length or slot needs a seal of its own.
The model's choices in it: log entry 84. -/
def Obligations.CapabilitiesAreBoundedNarrowedChecked : Prop :=
  (∀ (s : State) (d a b c : SReg), s.sel = .stage → s.core.ready [d, d + 1, a, a + 1, b, c] = true →
     let e := s.S a
     let o := s.S (a + 1)
     let len := (o.extractLsb' 0 40).toNat
     let off := ((s.S b).extractLsb' 0 40).toNat
     let nl := (s.S c).toNat
     (isSealed s.tile.ctx e o = true → (s.S b).toNat ≤ len →
       exec (.cbnd d a b) s = .next (s.result d (BitVec.ofNat 64 (2 ^ 61 + (capBase e + (s.S b).toNat) % 2 ^ 56)))) ∧
     (¬ (isSealed s.tile.ctx e o = true ∧ (s.S b).toNat ≤ len) →
       exec (.cbnd d a b) s = .next (s.takeTrap .capv (s.S b) s.core.pc false)) ∧
     (isSealed s.tile.ctx e o = true → nl < 2 ^ 40 → off + nl ≤ len →
       ∃ o' : Word, o'.toNat = nl + capSlot o * 2 ^ 40 ∧
         exec (.cnar d a b c) s = .next (((s.setS d
           (mkCap s.tile.ctx (capBase e + off) (e.extractLsb' 48 3 &&& (s.S b).extractLsb' 40 3) o')).setS (d + 1) o').retire)) ∧
     (¬ (isSealed s.tile.ctx e o = true ∧ nl < 2 ^ 40 ∧ off + nl ≤ len) →
       exec (.cnar d a b c) s = .next (s.takeTrap .capv (s.S b) s.core.pc false)) ∧
     ∃ t, exec (.cchk d a b) s = .next t ∧ t.core.pc = s.core.npc ∧
       (d ≠ 0 → t.S d = if isSealed s.tile.ctx e o = false then 1 else if len ≤ (s.S b).toNat then 2
         else if s.slotRevoked (capSlot o) then 3 else 0) ∧
       (∀ r, r ≠ d → t.S r = s.S r) ∧ t.tile.slice = s.tile.slice ∧ t.core.tr = s.core.tr) ∧
  (∀ (ctx base : Nat) (perms : BitVec 3) (o : Word), base < 2 ^ 48 →
     capBase (mkCap ctx base perms o) = base ∧ (mkCap ctx base perms o).extractLsb' 48 3 = perms ∧
     (isSealed ctx (mkCap ctx base perms o) o = true ↔ capSlot o ≠ 0) ∧
     ∀ e, isSealed ctx e o = true → e.extractLsb' 0 51 = (mkCap ctx base perms o).extractLsb' 0 51 → e = mkCap ctx base perms o)



/-- R129, R131, R126: CLD and CST on the staging core check their pair before any access: an unsealed pair, a missing permission or an access past
the length takes CAPV, a poisoned read of the revocation bitmap DUE, a revoked slot REVK, each with TVA the EDGE pointer of the access; none of these moves a byte. With a sealed pair that
permits it, and its page in the micro-TLB with the permission, CLD takes entry 0 for its request and CST sends its bytes. -/
def Obligations.CapabilityAccessesAreChecked : Prop :=
  ∀ (s : State) (z : Size) (d a b : SReg) (x : Option Xsc) (g : Page), s.sel = .stage → s.core.still = true →
    let e := s.S a
    let o := s.S (a + 1)
    let q := edgePtr (capBase e + (s.S b).toNat)
    let room := (s.S b).toNat + sizeBytes z ≤ capLen o
    (isSealed s.tile.ctx e o = false ∨ capPR e = false ∨ ¬ room →
      exec (.cld z d a b x) s = .next (s.takeTrap .capv q s.core.pc false)) ∧
    (isSealed s.tile.ctx e o = false ∨ capPW e = false ∨ ¬ room →
      exec (.cst z d a b x) s = .next (s.takeTrap .capv q s.core.pc false)) ∧
    (isSealed s.tile.ctx e o = true → room → s.slotPoisoned (capSlot o) = true →
      (capPR e = true → exec (.cld z d a b x) s = .next (s.takeTrap .due q s.core.pc false)) ∧
      (capPW e = true → exec (.cst z d a b x) s = .next (s.takeTrap .due q s.core.pc false))) ∧
    (isSealed s.tile.ctx e o = true → room → s.slotPoisoned (capSlot o) = false → s.slotRevoked (capSlot o) = true →
      (capPR e = true → exec (.cld z d a b x) s = .next (s.takeTrap .revk q s.core.pc false)) ∧
      (capPW e = true → exec (.cst z d a b x) s = .next (s.takeTrap .revk q s.core.pc false))) ∧
    (isSealed s.tile.ctx e o = true → room → s.slotPoisoned (capSlot o) = false → s.slotRevoked (capSlot o) = false →
      s.tile.tlb.find? (fun h => h.covers false (ptrOfs q)) = some g → ptrOfs q % 65536 + sizeBytes z ≤ 65536 → s.linkFree →
      (capPR e = true → g.r = true → ∃ t, exec (.cld z d a b x) s = .next t ∧ t.core.pc = s.core.npc ∧
        t.core.rq[(0 : Fin 8)].v = true ∧ t.core.rq[(0 : Fin 8)].kind = 2 ∧ t.core.rq[(0 : Fin 8)].w1 = q ∧
        (∀ r, t.S r = s.S r) ∧ t.tile.slice = s.tile.slice ∧
        ∃ p, t.net = s.net ++ [p] ∧ p.vc = 1 ∧ p.dst = g.endpoint ∧ p.body = .read 0 (ptrOfs q) (sizeBytes z)) ∧
      (capPW e = true → g.w = true → ∃ t, exec (.cst z d a b x) s = .next t ∧ t.core.pc = s.core.npc ∧
        (∀ r, t.S r = s.S r) ∧ t.tile.slice = s.tile.slice ∧
        ∃ p, t.net = s.net ++ [p] ∧ p.vc = 1 ∧ p.dst = g.endpoint ∧
          p.body = .write (ptrOfs q) ((List.range (sizeBytes z)).map fun j => some ((s.S d).extractLsb' (8 * j) 8, false))))

/-- R132, R133: ALLOC takes an entry of KIND 7 for a request to the quay, whose answer writes the sealed pair of a base it chose and the next slot, or 0 where
the length is 0 or the heap has no room. FREE of a sealed pair sets the slot's revocation bit, drops the slot from the check cache and returns
the bytes to the heap once no access is in flight; an unsealed pair takes CAPV.
The model's choices in it: log entries 31, 32 and 79. -/
def Obligations.HeapAllocatesAndFrees : Prop :=
  ∀ (s : State) (d a b : SReg) (base : Option Nat), s.sel = .stage → s.core.still = true →
    (s.linkFree → ∃ t, s.asks t (.alloc d a b) 9 (s.S a) (s.S b) ∧
      (s.quayNear → d ≠ 0 → d.val % 2 = 0 →
        ∃ u, exec (.allocResponse 0 base) t = .next u ∧ u.core.rq[(0 : Fin 8)].v = false ∧
          (∀ r, r ≠ d → r ≠ d + 1 → u.S r = s.S r) ∧
          (s.myCtx.allocate (s.S a).toNat base = none → u.S d = 0 ∧ u.S (d + 1) = 0) ∧
          ∀ k, s.myCtx.allocate (s.S a).toNat base = some k →
            u.S (d + 1) = BitVec.ofNat 64 ((s.S a).toNat + k.2.1 * 2 ^ 40) ∧
            u.S d = mkCap s.tile.ctx k.1 ((s.S b).truncate 3) (u.S (d + 1)) ∧ u.myCtx = k.2.2)) ∧
    (isSealed s.tile.ctx (s.S a) (s.S (a + 1)) = false →
      exec (.free a) s = .next (s.takeTrap .capv (edgePtr (capBase (s.S a))) s.core.pc false)) ∧
    (isSealed s.tile.ctx (s.S a) (s.S (a + 1)) = true → s.tiles = [] → s.peer.still = true → s.net = [] → s.modWins = [] →
      ∃ t, exec (.free a) s = .next t ∧ t.core.pc = s.core.npc ∧ (∀ r, t.S r = s.S r) ∧ t.tile.slice = s.tile.slice ∧
        capSlot (s.S (a + 1)) ∈ t.myCtx.revoked ∧ (s.tile.owned = true → capSlot (s.S (a + 1)) ∉ t.tile.ckCache) ∧
        ∀ k ∈ t.myCtx.allocs, k.1 ≠ capSlot (s.S (a + 1)))

/-- R147, R149, R43: a FENCE changes nothing but the pc and retires when its conditions hold: FENCE.rw and FENCE.r after the loads and atomics, FENCE.rw
and FENCE.w after the writes, atomics and messages to the scope's instance are acknowledged, FENCE.i after the local stores, those of RPSH among them, are performed.
Until then it holds issue and changes nothing at all.
The model's choices in it: log entry 3. -/
def Obligations.FencesWaitForTheirAccesses : Prop :=
  ∀ s : State, s.core.acquiring = false →
    (∀ (i : Instr) (sc : Scope), (i, sc) ∈ ([(.fenceRwTile, .tile), (.fenceRwQuad, .quad), (.fenceRwRegion, .region),
        (.fenceRwWafer, .wafer), (.fenceRwPod, .pod)] : List (Instr × Scope)) →
      exec i s = .next (if s.core.readsPending = false ∧ s.unacked sc = false then s.retire else s)) ∧
    (∀ (i : Instr) (sc : Scope), (i, sc) ∈ ([(.fenceWTile, .tile), (.fenceWQuad, .quad), (.fenceWRegion, .region),
        (.fenceWWafer, .wafer), (.fenceWPod, .pod)] : List (Instr × Scope)) →
      exec i s = .next (if s.unacked sc = false then s.retire else s)) ∧
    exec .fenceR s = .next (if s.core.readsPending = false then s.retire else s) ∧
    exec .fenceI s = .next (if s.core.slotStores = false then s.retire else s)

/-- R111, R136, R180, R195, R197, R198, R381: accesses that leave the tile. An LDD from the slice of another tile of the team, or from an EDGE
or NET page in the micro-TLB, takes entry 0, sends a read on VC1 to the tile, module or engine and lets the core go on; the data, when they
arrive, are written to d, and the entry is free again. An STD is posted: it sends its bytes and retires. An atomic takes entry 0 of KIND 3
and sends one request, which on TILE space may be leased and on EDGE space may not; a lease that comes with its old value is installed. Each
sector of EDGE or NET space is charged 32 edge bytes. An atomic on a sector that the lease store holds is executed there without a packet;
a load and a store of such a sector first give the lease back, in the same stream.
The model's choices in it: log entries 39, 62 and 89. -/
def Obligations.RemoteAccessesTravel : Prop :=
  ∀ (s : State) (d a b : SReg) (imm : Int) (x : Option Xsc) (p : Word) (k : Placed) (bs : List PByte),
    s.core.still = true → s.linkFree → s.peer.link.retry = [] → s.core.stopped = false → s.core.tr.fwd = none →
    ea (s.S a) imm = some p →
    let dataBack (t : State) (q : Packet) : Prop := bs.length = 8 → (∀ b ∈ bs, b.2 = false) →
      let u := t.response (replyTo q s.routeGen (.data 0 bs))
      u.core.rq[(0 : Fin 8)].v = false ∧ u.S d = (if d = 0 then 0 else BitVec.ofNat 64 (leNat (bs.map (·.1)))) ∧
        (∀ r, r ≠ d → u.S r = s.S r) ∧ u.core.link.retry = []
    let stored : Body := .write (ptrOfs p) ((List.range 8).map fun j => some ((s.S d).extractLsb' (8 * j) 8, false))
    let far (t : State) (q : Packet) (e : Endpoint) : Prop := t.core.pc = s.core.npc ∧ (∀ r, t.S r = s.S r) ∧
      t.tile.slice = s.tile.slice ∧ t.tile.rings = s.tile.rings ∧ t.net = s.net ++ [q] ∧ q.vc = 1 ∧ q.dst = e
    let entry (t : State) (kind : BitVec 4) : Prop := t.core.rq[(0 : Fin 8)].v = true ∧ t.core.rq[(0 : Fin 8)].kind = kind ∧
      t.core.rq[(0 : Fin 8)].w1 = p
    (ptrSpace p = 1 → ptrRank p ≠ s.tile.rank → ptrOfs p + 8 ≤ 0x80000 → s.tile.placement[ptrRank p]? = some k →
      (s.tile.leases = [] →
        (∃ t q, exec (.ldd d a imm x) s = .next t ∧ far t q (.tile k.x k.y) ∧ t.tile = s.tile ∧ entry t 2 ∧
          q.body = .read 0 (ptrOfs p) 8 ∧ dataBack t q) ∧
        (∃ t q, exec (.std d a imm x) s = .next t ∧ far t q (.tile k.x k.y) ∧ t.tile = s.tile ∧ t.core.rq = s.core.rq ∧ q.body = stored) ∧
        (imm = 0 → ptrOfs p % 8 = 0 → ∃ t q, exec (.amoaAdd d a b false x) s = .next t ∧ far t q (.tile k.x k.y) ∧ t.tile = s.tile ∧
          entry t 3 ∧ q.body = .atomic .add false true (ptrOfs p) (s.S b) (s.S d) ∧
          ∀ (v : Word) (sec : Nat) (sb : List Byte),
            let u := t.response (replyTo q s.routeGen (.old v false (some (sec, sb, false))))
            u.core.rq[(0 : Fin 8)].v = false ∧ u.S d = (if d = 0 then 0 else v) ∧ (∀ r, r ≠ d → u.S r = s.S r) ∧ u.core.link.retry = [] ∧
              u.tile.leases = [{ x := k.x, y := k.y, sector := sec, bytes := sb, bad := false }])) ∧
      ∀ l : Lease, s.tile.leases = [l] → l.x = k.x → l.y = k.y → l.sector = ptrOfs p / 32 → l.bytes.length = 32 → l.bad = false →
        l.recalled = false → imm = 0 → ptrOfs p % 8 = 0 →
        (let o := ptrOfs p % 32
         let old := leNat ((l.bytes.drop o).take 8)
         ∃ t m, exec (.amoaAdd d a b false x) s = .next t ∧ t.core.pc = s.core.npc ∧ t.net = s.net ∧ t.core.link = s.core.link ∧ entry t 3 ∧
          t.tile.slice = s.tile.slice ∧ t.tile.leases = [m] ∧ m.sector = l.sector ∧ m.x = l.x ∧ m.y = l.y ∧ m.bad = false ∧
          (∀ j < 32, m.bytes[j]? =
            if o ≤ j ∧ j < o + 8 then some ((BitVec.ofNat 64 old + s.S b).extractLsb' (8 * (j - o)) 8) else l.bytes[j]?) ∧
          (t.atomicDone 0).S d = (if d = 0 then 0 else BitVec.ofNat 64 old)) ∧
        (∀ i body, (i, body) ∈ [(Instr.std d a imm x, stored), (.ldd d a imm x, .read 0 (ptrOfs p) 8)] →
          ∃ t q r, exec i s = .next t ∧ t.core.pc = s.core.npc ∧ t.tile.leases = [] ∧ t.tile.slice = s.tile.slice ∧ t.net = s.net ++ [q, r] ∧
            q.vc = 1 ∧ q.dst = .tile k.x k.y ∧ q.body = .writeBack l.sector l.bytes false ∧ r.vc = 1 ∧ r.dst = q.dst ∧ r.body = body ∧
            r.seq = q.seq + 1)) ∧
    ∀ (g : Page) (net : Bool), ptrSpace p = (if net then 4 else 2) → ptrOfs p + 8 ≤ spaceLimit (ptrSpace p) →
      s.tile.tlb.find? (fun h => h.covers net (ptrOfs p)) = some g → ptrOfs p % 32 + 8 ≤ 32 → g.r = true → g.w = true →
      (∃ t q, exec (.ldd d a imm x) s = .next t ∧ far t q g.endpoint ∧ entry t 2 ∧ q.body = .read 0 (ptrOfs p) 8 ∧
        t.tile.charged[(1 : Fin 3)] = s.tile.charged[(1 : Fin 3)] + 32 ∧ dataBack t q) ∧
      (net = false ∨ s.tile.modes.paired = false → ∃ t q, exec (.std d a imm x) s = .next t ∧ far t q g.endpoint ∧ t.core.rq = s.core.rq ∧
        q.body = stored ∧ t.tile.charged[(1 : Fin 3)] = s.tile.charged[(1 : Fin 3)] + 32) ∧
      (net = false → imm = 0 → ptrOfs p % 8 = 0 → ∃ t q, exec (.amobSwap d a b false x) s = .next t ∧ far t q g.endpoint ∧ entry t 3 ∧
        q.body = .atomic .swap false false (ptrOfs p) (s.S b) (s.S d) ∧ t.tile.charged[(1 : Fin 3)] = s.tile.charged[(1 : Fin 3)] + 32)
/-! ### Messages and the fabric (07_messages) -/

/-- R157-R159: the four SENDs of the staging core, without REP, to a handle of the team whose placement entry is cached: each injects one
message on the VC, berth or ring and core that its routing scalar names, with 8 bytes of a scalar, 64 of a row, 1,024 of a tile register or
none, and retires; poison that it copies sets CKI.POI (R344). A routing scalar with a reserved bit set for its form, or whose handle is none of
the team's, takes BND with TVA the routing scalar, and nothing is sent; on the compute core each of the four takes ILL. -/
def Obligations.SendsInjectTheirMessage : Prop :=
  (∀ (s : State) (a b : SReg) (c : RCode) (t : Fin 4) (base : Fin 16) (bank : Bool) (x : Option Xsc) (n : Nat) (k : Placed),
     s.sel = .stage → s.core.still = true → s.linkFree →
     rankOf ((s.S a).truncate 32) s.tile.placement 0 = some (n, k) → s.tile.plCache.contains n = true →
     let rt := s.S a
     let r := rowSel s.sel c base bank 0
     let v : RowVal := if r = .bc then { bits := broadcast 8 (s.S b) } else s.core.rowVal r 8 b
     let plain := rt >>> 42 = 0 ∧ (rt >>> 38) &&& 7 = 0
     (plain → s.sends (.sendS a b .one x) k rt x .scalar ((leBytes 8 (s.S b).toNat).map fun b => (b, false))) ∧
     (plain → s.sends (.sendH a .one x) k rt x .header []) ∧
     (plain → r ≠ .ill → r ≠ .rgf →
       s.sends (.sendR c a b { rep := .one, base := base, bank := bank } x) k rt x .row v.bytes) ∧
     (rt >>> 41 = 0 → (rt >>> 32) &&& 15 = 0 → s.sends (.sendT t a .one x) k rt x .tileToRing (s.core.T t.val).bytes)) ∧
  (∀ (s : State) (a b : SReg) (c : RCode) (t : Fin 4) (base : Fin 16) (bank : Bool) (x : Option Xsc), s.core.still = true →
     let rt := s.S a
     let pos : RowPos := { rep := .one, base := base, bank := bank }
     let r := rowSel s.sel c base bank 0
     let none' := rankOf (rt.truncate 32) s.tile.placement 0 = none
     (s.sel = .stage → rt >>> 42 ≠ 0 ∨ (rt >>> 38) &&& 7 ≠ 0 ∨ none' →
       exec (.sendS a b .one x) s = .next (s.takeTrap .bnd rt s.core.pc false) ∧
       exec (.sendH a .one x) s = .next (s.takeTrap .bnd rt s.core.pc false) ∧
       (r ≠ .ill → r ≠ .rgf → exec (.sendR c a b pos x) s = .next (s.takeTrap .bnd rt s.core.pc false))) ∧
     (s.sel = .stage → rt >>> 41 ≠ 0 ∨ (rt >>> 32) &&& 15 ≠ 0 ∨ none' →
       exec (.sendT t a .one x) s = .next (s.takeTrap .bnd rt s.core.pc false)) ∧
     (s.sel = .comp → ∀ i ∈ [Instr.sendS a b .one x, .sendH a .one x, .sendR c a b pos x, .sendT t a .one x],
       exec i s = .next (s.takeTrap .ill s.core.pc s.core.pc false)))



/-- R161, R162, R60-R62: reading the activating message and the queues. INPOP takes the completion queue's front and holds issue while it is
empty, INSK answers 0 instead; INRD takes doubleword S(a) mod 128 of the payload, 0 past its end, INRD.r its first 64 bytes; QRD pops a queue
and QWR to q4 appends to it; a queue that the core lacks takes ILL. R163, R164: PLH writes the handle at a rank, once its placement entry is
cached; a rank that the team lacks takes BND with TVA the rank; a miss asks for the entry, and its arrival puts the rank at the front of the
cache. PLQ takes entry 0 of KIND 7 for a request to the quay.
The model's choices in it: log entries 3 and 79. -/
def Obligations.InboxQueuesAndPlacementAreRead : Prop :=
  (∀ (s : State) (d a : SReg) (c : RCode) (base : Fin 16) (bank : Bool) (m : Msg) (w : Word) (rest : List Word), s.core.still = true →
     (s.core.q.cq = w :: rest → ∃ t, exec (.inpop d) s = .next t ∧ exec (.insk d) s = .next t ∧ t.core.q.cq = rest ∧
       t.S d = (if d = 0 then 0 else w) ∧ (∀ r, r ≠ d → t.S r = s.S r) ∧ t.core.pc = s.core.npc ∧ t.tile.slice = s.tile.slice) ∧
     (s.core.q.cq = [] → exec (.inpop d) s = .next s ∧ exec (.insk d) s = .next (s.result d 0)) ∧
     (s.core.myMsg = some m → m.pmask = 0 →
       (let k := (s.S a).toNat % 128
        exec (.inrd d a) s = .next (s.result d
          (if 8 * k + 8 ≤ m.payload.length then BitVec.ofNat 64 (leNat ((m.payload.drop (8 * k)).take 8)) else 0))) ∧
       (let r := rowSel s.sel c base bank 0
        r ≠ .ill → r ≠ .rgf → ∃ t, exec (.inrdR c base bank) s = .next t ∧ s.onlyRow t r ∧
          (r ≠ .z → r ≠ .bc → ∀ j < 64, Row.byte (t.core.rowVal r 8 0).bits j = (m.payload[j]?).getD 0))) ∧
     (∀ q : Queue, s.qReadable q = true → s.core.qHead q = some w → ∃ t, exec (.qrd d q) s = .next t ∧ t.core.q = s.core.q.pop q ∧
       t.S d = (if d = 0 then 0 else w) ∧ (∀ r, r ≠ d → t.S r = s.S r) ∧ t.core.pc = s.core.npc) ∧
     (∀ q : Queue, s.qReadable q = false → exec (.qrd d q) s = .next (s.takeTrap .ill s.core.pc s.core.pc false)) ∧
     (s.core.q.q4req.length < 4 → ∃ t, exec (.qwr 4 a) s = .next t ∧ t.core.q.q4req = s.core.q.q4req ++ [s.S a] ∧
       (∀ r, t.S r = s.S r) ∧ t.core.pc = s.core.npc ∧ t.tile = s.tile) ∧
     ∀ q : Queue, q ≠ 3 → q ≠ 4 → exec (.qwr q a) s = .next (s.takeTrap .ill s.core.pc s.core.pc false)) ∧
  (∀ (s : State) (d a : SReg), s.core.still = true →
     let n := (s.S a).toNat
     (∀ k, s.tile.placement[n]? = some k → s.tile.plCache.contains n = true →
       ∃ t, exec (.plh d a) s = .next t ∧ t.core.pc = s.core.npc ∧ t.S d = (if d = 0 then 0 else k.hnd.zeroExtend 64) ∧
         (∀ r, r ≠ d → t.S r = s.S r) ∧ t.tile.slice = s.tile.slice ∧ t.tile.plCache.head? = some n) ∧
     (s.tile.placement[n]? = none → exec (.plh d a) s = .next (s.takeTrap .bnd (s.S a) s.core.pc false)) ∧
     (∀ k, s.tile.placement[n]? = some k → s.tile.plCache.contains n = false →
       ∃ t u, exec (.plh d a) s = .next t ∧ t.core.pc = s.core.pc ∧ (∀ r, t.S r = s.S r) ∧
         exec .placementCacheFill t = .next u ∧ u.tile.plCache.head? = some n ∧ u.core.plReq = none) ∧
     (s.linkFree → ∃ t, s.asks t (.plq d a) 8 (s.S a) 0))



/-- R104, R160, R178: a message that is the next of its stream reaches the tile of its team. One to a valid berth of its VC with room is
appended to the inbox of its core; one to a configured ring with a free slot is written into the slot at TAIL and TAIL advances; each is
acknowledged, and the window expects the next number. One to a berth that is full waits at the port unacknowledged, and goes in when there is
room; a ring message waits while its ring is full.
The model's choices in it: log entry 36. -/
def Obligations.MessagesAreDelivered : Prop :=
  ∀ (s : State) (p : Packet) (kind : MsgKind) (b : Fin 16) (h : Ring) (k : CoreSel) (hd : W32) (rel : Option Scope)
    (bs : List Byte) (pm : BitVec 32),
    s.arrives p → p.body = .msg kind b h k hd rel bs pm → 3 ≤ p.vc.val → p.vc.val ≤ 6 →
    let berth := (s.ownCore k).berths[b]
    let ring := s.tile.rings[h]
    (kind ≠ .tileToRing → berth.valid = true → berth.vc.toNat + 3 = p.vc.val → berth.inbox.length < berth.quota.toNat →
      ∃ t m, exec (.messageDelivery p) s = .next t ∧ exec (.seqWindowArrival p) s = .next t ∧
        ((t.ownCore k).berths[b]).inbox = berth.inbox ++ [m] ∧ m.payload = bs ∧ m.pmask = pm ∧ m.order = s.now ∧
        t.net = s.net.erase p ++ [s.replyHere p (.ack false)] ∧ seqOf t.tile.windows p = .repeated ∧
        t.tile.slice = s.tile.slice) ∧
    (kind ≠ .tileToRing → berth.valid = true → berth.vc.toNat + 3 = p.vc.val → berth.quota.toNat ≤ berth.inbox.length →
      ∃ t, exec (.messageDelivery p) s = .next t ∧ t.tile.portWait = [p] ∧ t.net = s.net.erase p ∧
        ∀ t', t'.tile.portWait = [p] → t'.tile.windows = t.tile.windows → t'.sel = .stage → t'.routeGen = s.routeGen → kind ≠ .tileToRing →
          ((t'.ownCore k).berths[b]).valid = true → ((t'.ownCore k).berths[b]).vc = berth.vc →
          ((t'.ownCore k).berths[b]).inbox.length < ((t'.ownCore k).berths[b]).quota.toNat →
          ∃ u, exec .inboxAppendAfterWait t' = .next u ∧ u.tile.portWait = [] ∧
            ((u.ownCore k).berths[b]).inbox.length = ((t'.ownCore k).berths[b]).inbox.length + 1) ∧
    (kind = .tileToRing → bs.length = 1024 → ring.nslot ≠ 0 → ring.free ≠ 0 → s.tile.leaseDir = [] →
      s.tile.slice.wf = true → s.tile.flips = [] →
      ∃ t, exec (.ringMessageDelivery p) s = .next t ∧ t.tile.rings[h] = ring.push 1 ∧
        t.net = s.net.erase p ++ [s.replyHere p (.ack false)] ∧
        ∀ o, t.tile.slice.read o =
          if ring.slotAt ring.tail.toNat ≤ o ∧ o < ring.slotAt ring.tail.toNat + 1024 then (bs[o - ring.slotAt ring.tail.toNat]?).getD 0
          else s.tile.slice.read o) ∧
    (kind = .tileToRing → ring.nslot ≠ 0 → ring.free = 0 →
      ∃ t, exec (.ringMessageDelivery p) s = .next t ∧ t.tile.portWait = [p] ∧ t.tile.slice = s.tile.slice ∧
        exec .ringMessageAfterWait t = .next t ∧
        ∀ t', t'.tile.portWait = [p] → t'.tile.windows = t.tile.windows → (t'.tile.rings[h]).nslot ≠ 0 → (t'.tile.rings[h]).free ≠ 0 →
          t'.tile.leaseDir = [] →
          ∃ u, exec .ringMessageAfterWait t' = .next u ∧ u.tile.portWait = [] ∧ (u.tile.rings[h]) = (t'.tile.rings[h]).push 1)

/-- R136, R137, R165, R178: a read or a write from another tile that is the next of its stream is performed at the slice: the read answers
with the bytes, the write is made and acknowledged; a write into a held slot is not performed and not acknowledged, and waits; it is
performed once nothing is held. -/
def Obligations.RequestsArePerformedAtTheSlice : Prop :=
  ∀ (s : State) (p : Packet), s.arrives p → p.vc = 1 → s.tile.leaseDir = [] → s.tile.flips = [] → s.tile.slice.wf = true →
    (∀ pos o n, p.body = .read pos o n →
      ∃ t, exec (.seqWindowArrival p) s = .next t ∧ t.tile.slice = s.tile.slice ∧
        t.net = s.net.erase p ++ [s.replyHere p (.data pos (s.tile.bytes o n))]) ∧
    (∀ o bs, p.body = .write o bs →
      (s.tile.heldWrite o bs = false → ∃ t, exec (.seqWindowArrival p) s = .next t ∧
        t.net = s.net.erase p ++ [s.replyHere p (.ack false)] ∧
        ∀ a, t.tile.slice.read a = if o ≤ a then (((bs[a - o]?).join).map (·.1)).getD (s.tile.slice.read a) else s.tile.slice.read a) ∧
      (s.tile.heldWrite o bs = true → ∃ t, exec (.seqWindowArrival p) s = .next t ∧ t.tile.slice = s.tile.slice ∧
        t.net = s.net.erase p ∧ t.tile.heldWrites = [(p, false)] ∧
        ∀ t', t'.tile.heldWrites = [(p, false)] → t'.tile.windows = t.tile.windows → t'.tile.leaseDir = [] → t'.tile.flips = [] →
          t'.tile.heldWrite o bs = false →
          ∃ u, exec .heldSlotWritePerform t' = .next u ∧ u.tile.heldWrites = [] ∧ u.tile.slice = t'.tile.slice.writeMany o (bs.map fun b => b.map (·.1))))

/-- R177, R180: an answer frees the retry-buffer entry that it answers; retry marks the entry as waiting, and when its wait has passed its
packet is injected again and counted; reject kills the context with reason 4, no trap and the sender's handle in the report; a resend notice injects every older packet again; an
acknowledgement that does not come is reported and the entry stays.
The model's choices in it: log entries 38, 51 and 86. -/
def Obligations.AnswersReachTheRetryBuffer : Prop :=
  ∀ (s : State) (p : Packet) (r : RetryEntry), s.answerComes p → s.core.link.retry = [r] → r.pkt.dst = p.src →
    r.pkt.vc = p.avc → r.pkt.seq = p.seq → r.pkt.body ≠ .close →
    (∀ dup, p.body = .ack dup → ∃ t, exec (.ackReceived p) s = .next t ∧ t.core.link.retry = [] ∧ t.net = s.net.erase p ∧ t.tile = s.tile) ∧
    (p.body = .retry → ∃ t, exec (.retryReceived p) s = .next t ∧ t.core.link.retry = [{ r with wait := true }] ∧
      t.tile = s.tile ∧
      ∃ u, exec (.retryWaitExpiry 0) t = .next u ∧ u.core.link.retry = [{ r with wait := false }] ∧ u.net = t.net ++ [r.pkt] ∧
        (s.core.link.rtx ≠ 0xFFFF → u.core.link.rtx = s.core.link.rtx + 1)) ∧
    (p.body = .reject → s.teams = [] → (s.ctx s.tile.ctx).killing = false → ∃ t, exec (.rejectReceived p) s = .next t ∧
      t.core.dead = true ∧ (t.ctx s.tile.ctx).killReport.head? = some (BitVec.ofNat 64 (s.tile.ctx + 4096 * 4 + 2 ^ 32 * s.tile.hnd.toNat)) ∧
      (t.ctx s.tile.ctx).killReport[9]? = some 0) ∧
    (∀ gen : BitVec 16, r.wait = false → gen = r.gen + 1 → ∃ t, exec (.resendNotice gen) s = .next t ∧
      t.net = s.net ++ [{ r.pkt with gen := gen }] ∧ t.core.link.retry = [{ r with gen := gen, pkt := { r.pkt with gen := gen } }]) ∧
    (∃ t, exec (.unackedTimeout 0) s = .next t ∧ t.core = s.core ∧ t.net = s.net ∧
      ((s.region s.myRegion).errLog.length < 4096 →
        (t.region s.myRegion).errLog.length = (s.region s.myRegion).errLog.length + 1))
/-! ### Atomics, phasers and barriers (08_sync) -/

/-- R189-R195: the atomics on the own slice. Each takes the old value of 4 or 8 aligned bytes (W sign-extended) into d and stores the new one:
the sum modulo 2^n, the bitwise operations, the smaller or the greater as signed or unsigned numbers, or S(b) itself; CAS stores S(b) only where
the old value equals the old d. Every other byte of memory and every other scalar stays. The atomic is performed as it issues; d is written as
its entry of KIND 3 retires. -/
def Obligations.AtomicsUpdateTheSlice : Prop :=
  ∀ (s : State) (d a b : SReg) (w : Bool) (x : Option Xsc) (p : Word), s.core.still = true → s.core.stopped = false → s.core.tr.fwd = none →
    s.tile.slice.wf = true → ea (s.S a) 0 = some p →
    (let n := if w then 4 else 8
     let old := s.sliceNat p n
     let v := (s.S b).toNat % 2 ^ (8 * n)
     let low (k : Nat) : BitVec (8 * n) := BitVec.ofNat (8 * n) k
     s.writesHere p n → s.readsHere p n → ptrOfs p % n = 0 →
      s.atoms (.amoaAdd d a b w x) d w p ((old + v) % 2 ^ (8 * n)) ∧
      s.atoms (.amoaAnd d a b w x) d w p (old &&& v) ∧
      s.atoms (.amoaOr d a b w x) d w p (old ||| v) ∧
      s.atoms (.amoaXor d a b w x) d w p (old ^^^ v) ∧
      s.atoms (.amobMin d a b w x) d w p (if (low old).toInt < (low v).toInt then old else v) ∧
      s.atoms (.amobMax d a b w x) d w p (if (low old).toInt < (low v).toInt then v else old) ∧
      s.atoms (.amobMinu d a b w x) d w p (if old < v then old else v) ∧
      s.atoms (.amobMaxu d a b w x) d w p (if old < v then v else old) ∧
      s.atoms (.amobSwap d a b w x) d w p v ∧
      s.atoms (if w then .casW d a b x else .casD d a b x) d w p (if old = (s.S d).toNat % 2 ^ (8 * n) then v else old)) ∧
    (ptrSpace p ≤ 2 → ptrOfs p % 8 ≠ 0 →
      exec (.amoaAdd d a b false x) s = .next (s.takeTrap .bnd p s.core.pc false) ∧
      exec (.casD d a b x) s = .next (s.takeTrap .bnd p s.core.pc false)) ∧
    (ptrSpace p = 4 → exec (.amobSwap d a b w x) s = .next (s.takeTrap .bnd p s.core.pc false))

/-- R195-R198: a remote atomic that is the next of its stream is executed at its home: the new value stands in the slice and the old value
goes back; a request that may not be leased grants no lease; one that may be, for a sector that the predictor does not know, and which
writes, grants one: the answer carries the sector's bytes after it, and the directory names the tile. A load of the home and a read from another
tile that touch a leased sector send a recall on VC7 and wait. A lease that returns is written to its sector and leaves the directory; a recall
makes the tile that holds the lease send its copy back.
The model's choices in it: log entries 35 and 39. -/
def Obligations.AtomicsAndLeasesAtHome : Prop :=
  (∀ (s : State) (p : Packet), s.arrives p → p.vc = 1 → s.tile.flips = [] → s.tile.slice.wf = true →
    (∀ op w o x e, p.body = .atomic op w false o x e → s.tile.leaseDir = [] → s.tile.poison = [] →
      s.tile.heldWrite o (plain (leBytes (if w then 4 else 8) 0)) = false →
      let n := if w then 4 else 8
      let old := leNat (s.tile.slice.readMany o n)
      ∃ t, exec (.remoteAtomicAtHome p) s = .next t ∧
        t.net = s.net.erase p ++ [s.replyHere p (.old (atomOld w old) false none)] ∧
        t.tile.slice = (match atomNew op n old x.toNat e.toNat with
          | some v => s.tile.slice.writeMany o ((leBytes n v).map some)
          | none => s.tile.slice)) ∧
    (∀ op w o x e v, p.body = .atomic op w true o x e → s.tile.leaseDir = [] → s.tile.poison = [] → s.tile.predictor = [] →
      s.tile.heldWrite o (plain (leBytes (if w then 4 else 8) 0)) = false →
      let n := if w then 4 else 8
      let old := leNat (s.tile.slice.readMany o n)
      let sec := o / 32
      atomNew op n old x.toNat e.toNat = some v →
      ∃ t, exec (.remoteAtomicAtHome p) s = .next t ∧ t.tile.slice = s.tile.slice.writeMany o ((leBytes n v).map some) ∧
        t.net = s.net.erase p ++ [s.replyHere p (.old (atomOld w old) false (some (sec, t.tile.slice.readMany (32 * sec) 32, false)))] ∧
        t.tile.leaseDir = [{ sector := sec, x := (routerOf p.src).1, y := (routerOf p.src).2 }]) ∧
    (∀ pos o n l, p.body = .read pos o n → s.tile.leaseDir = [l] → l.recalled = false → (sectors o n).contains l.sector = true →
      ∃ t q, exec (.seqWindowArrival p) s = .next t ∧ t.tile.heldWrites = [(p, false)] ∧ t.tile.slice = s.tile.slice ∧
        t.net = s.net.erase p ++ [q] ∧ q.vc = 7 ∧ q.dst = .tile l.x l.y ∧ q.body = .recall l.sector) ∧
    (∀ sec bs, p.body = .writeBack sec bs false → bs.length = 32 → s.tile.heldWrite (32 * sec) (plain bs) = false →
      ∃ t, exec (.leaseWriteBack p) s = .next t ∧ t.tile.slice = s.tile.slice.writeMany (32 * sec) (bs.map some) ∧
        t.tile.leaseDir = s.tile.leaseDir.filter (fun d => !(d.sector == sec && (d.x, d.y) == routerOf p.src)) ∧
        t.net = s.net.erase p ++ [s.replyHere p (.ack false)])) ∧
  (∀ (s : State) (d a : SReg) (imm : Int) (p : Word) (l : LeaseDir), s.core.still = true → ea (s.S a) imm = some p → ptrSpace p = 0 →
    ptrOfs p + 8 ≤ 0x80000 → s.tile.leaseDir = [l] → l.recalled = false → (sectors (ptrOfs p) 8).contains l.sector = true →
    ∀ i ∈ [Instr.ldd d a imm none, .std d a imm none],
      (∀ h : Ring, (s.tile.rings[h]).held = 0) → s.tile.heldExt = [] →
      ∃ t q, exec i s = .next t ∧ t.core.pc = s.core.pc ∧ (∀ r, t.S r = s.S r) ∧ t.tile.slice = s.tile.slice ∧ t.net = s.net ++ [q] ∧
        q.vc = 7 ∧ q.dst = .tile l.x l.y ∧ q.body = .recall l.sector) ∧
  ∀ (s : State) (l : Lease) (q : Packet) (x y : Nat), s.sel = .stage → s.tile.id = .grid x y → s.meshClear → s.tile.leases = [l] →
    s.net = [q] → s.linkFree → q.vc = 7 → q.hop = none → q.src = .tile l.x l.y → q.dst = .tile x y → q.body = .recall l.sector →
    regionOfEnd q.src = regionOfEnd q.dst →
      ∃ t r, exec (.leaseRecall l.x l.y l.sector) s = .next t ∧ t.tile.leases = [] ∧ t.net = [r] ∧ r.dst = .tile l.x l.y ∧
        r.body = .writeBack l.sector l.bytes l.bad

/-- R202, R207-R213: PHNEW of a tile phaser with a free slot makes the phaser at phase 0 under the slot's next generation, with its creator
registered where the mode says so, and writes its identifier; with no free slot it writes 0; one of an engine takes an entry of KIND 7 and
asks the quay of the region. A control
word with a reserved bit takes BND with TVA the control word. The other phaser instructions of a core send their request to the home tile on VC1.
PHARR and PHDROP arrive at the core's arrival phase, which they write to d; PHARR goes on to the next phase and PHDROP leaves; PHWAIT and PHAW
take entry 0 of KIND 6 for the phase they wait for, PHREG and PHQRY one of KIND 7. Without a membership, arrivals and waits take BND with TVA the
identifier. -/
def Obligations.PhaserInstructionsActForTheirCore : Prop :=
  (∀ (s : State) (d a : SReg), s.core.still = true →
     let c := s.S a
     let sc := c.toNat % 8
     let mode := c.toNat / 16 % 4
     (c >>> 6 = 0 → c.getLsbD 3 = false → sc ≤ 2 → ∀ i, s.tile.freePhaser = some i → s.core.members.length < 8 →
       ∃ t, exec (.phnew d a) s = .next t ∧ t.core.pc = s.core.npc ∧ (t.tile.phasers[i]).inUse = true ∧
         (t.tile.phasers[i]).phase = 0 ∧ (t.tile.phasers[i]).gen = (s.tile.phasers[i]).gen + 1 ∧
         (t.tile.phasers[i]).members.length = (if mode = 0 then 0 else 1) ∧
         t.core.members.length = s.core.members.length + (if mode = 0 then 0 else 1) ∧
         (d ≠ 0 → phValid (t.S d) = true ∧ phSlot (t.S d) = i.val ∧ phEng (t.S d) = false ∧ phHome (t.S d) = s.tile.hnd ∧
           phGen (t.S d) = ((s.tile.phasers[i]).gen + 1).toNat) ∧
         (∀ r, r ≠ d → t.S r = s.S r) ∧ t.tile.slice = s.tile.slice) ∧
     (c >>> 6 = 0 → c.getLsbD 3 = false → sc ≤ 2 → s.tile.freePhaser = none → exec (.phnew d a) s = .next (s.result d 0)) ∧
     (c >>> 6 = 0 → c.getLsbD 3 = true → sc ≤ 4 → s.linkFree → s.core.members.length < 8 → ∃ t, s.asks t (.phnew d a) 10 c 0) ∧
     (c >>> 6 ≠ 0 → exec (.phnew d a) s = .next (s.takeTrap .bnd c s.core.pc false))) ∧
  (∀ (s : State) (d a b : SReg) (o : Option Order) (m : Member) (n : Nat) (k : Placed), s.core.still = true → s.linkFree →
     let id := s.S a
     phEng id = false → rankOf (phHome id) s.tile.placement 0 = some (n, k) →
     (s.core.members = [m] → m.id = id →
       (m.mode ≠ .w → ∃ t p r, exec (.pharr d a o) s = .next t ∧ t.net = s.net ++ [p] ∧ p.dst = .tile k.x k.y ∧ p.vc = 1 ∧
         p.body = .phArrive r ∧ r.phase = m.ap ∧ r.leave = false ∧ t.core.members = [{ m with ap := m.ap + 1 }] ∧
         t.S d = (if d = 0 then 0 else m.ap.zeroExtend 64) ∧ (∀ q, q ≠ d → t.S q = s.S q) ∧ t.core.pc = s.core.npc) ∧
       (∃ t p r, exec (.phdrop d a) s = .next t ∧ t.net = s.net ++ [p] ∧ p.dst = .tile k.x k.y ∧ p.body = .phArrive r ∧
         r.leave = true ∧ r.phase = m.ap ∧ t.core.members = [] ∧
         t.S d = (if d = 0 then 0 else (if m.mode = .w then m.wp else m.ap).zeroExtend 64) ∧ t.core.pc = s.core.npc) ∧
       (m.mode = .w ∨ (m.mode = .sw ∧ m.wp ≠ m.ap) → ∃ t p r, exec (.phwait d a o) s = .next t ∧ t.net = s.net ++ [p] ∧
         p.dst = .tile k.x k.y ∧ p.body = .phWait r ∧ r.phase = m.wp ∧ t.core.members = [{ m with wp := m.wp + 1 }] ∧
         t.core.rq[(0 : Fin 8)].v = true ∧ t.core.rq[(0 : Fin 8)].kind = 6 ∧ t.core.rq[(0 : Fin 8)].w1 = id ∧
         t.core.rq[(0 : Fin 8)].w2 = m.wp.zeroExtend 64 ∧ t.core.pc = s.core.npc ∧
         (s.core.stopped = false → s.core.tr.fwd = none → ∃ u, exec (.phaserRelease 0 m.wp) t = .next u ∧
           u.core.rq[(0 : Fin 8)].v = false ∧ u.S d = (if d = 0 then 0 else m.wp.zeroExtend 64))) ∧
       (m.mode = .sw → ∃ t p q r v, exec (.phaw d a o) s = .next t ∧ t.net = s.net ++ [p, q] ∧ p.body = .phArrive r ∧
         q.body = .phWait v ∧ r.phase = m.ap ∧ v.phase = m.ap ∧ t.core.members = [{ m with ap := m.ap + 1, wp := m.ap + 1 }] ∧
         t.core.rq[(0 : Fin 8)].kind = 6 ∧ t.core.rq[(0 : Fin 8)].w2 = m.ap.zeroExtend 64 ∧ t.core.pc = s.core.npc)) ∧
     (s.core.members = [] → phValid id = true → s.S b = 1 ∨ s.S b = 2 ∨ s.S b = 3 →
       ∃ t p r, exec (.phreg d a b) s = .next t ∧ t.net = s.net ++ [p] ∧ p.dst = .tile k.x k.y ∧ p.body = .phReg r ∧
         t.core.rq[(0 : Fin 8)].v = true ∧ t.core.rq[(0 : Fin 8)].kind = 7 ∧ t.core.pc = s.core.npc) ∧
     (phValid id = true → ∃ t p r, exec (.phqry d a) s = .next t ∧ t.net = s.net ++ [p] ∧ p.dst = .tile k.x k.y ∧ p.body = .phQry r ∧
       t.core.rq[(0 : Fin 8)].v = true ∧ t.core.rq[(0 : Fin 8)].kind = 7 ∧ t.core.pc = s.core.npc) ∧
     (s.core.members = [] →
       exec (.pharr d a o) s = .next (s.takeTrap .bnd id s.core.pc false) ∧
       exec (.phdrop d a) s = .next (s.takeTrap .bnd id s.core.pc false) ∧
       exec (.phwait d a o) s = .next (s.takeTrap .bnd id s.core.pc false) ∧
       exec (.phaw d a o) s = .next (s.takeTrap .bnd id s.core.pc false)))



/-- R205, R211, R212: requests at the home tile of a phaser. The arrival of its only signalling member completes the phase, and the wait that
is recorded for it is answered; a wait for a phase that is not complete is recorded; a registration adds a member and answers its start phase. -/
def Obligations.PhasersCompleteAtHome : Prop :=
  ∀ (s : State) (p : Packet) (r w : PhReq) (m : PhMember), s.arrives p → s.net = [p] → p.vc = 1 → r.engine = false → r.slot < 8 →
    let h := s.tile.phasers[(Fin.ofNat 8 r.slot)]
    h.live r p.ctx p.ttag = true → h.members = [m] → m.mode = .sw → m.start = h.phase → m.left = none → m.arrived = [] → h.pend = [] →
    r.phase = h.phase → phSame m r = true →
    (p.body = .phArrive r → r.mode = .sw → r.leave = false → h.waiters = [w] → w.phase = h.phase →
      ∃ t, exec (.phaserArrivalAtHome r) s = .next t ∧ (t.tile.phasers[(Fin.ofNat 8 r.slot)]).phase = h.phase + 1 ∧
        (t.tile.phasers[(Fin.ofNat 8 r.slot)]).waiters = [] ∧
        t.net = [phDone s.tile.id.endpoint s.tile.hnd p.ctx p.ttag p.part s.routeGen w, s.replyHere p (.ack false)]) ∧
    (p.body = .phWait r → h.waiters = [] →
      ∃ t, exec (.phaserWaitAtHome r) s = .next t ∧ (t.tile.phasers[(Fin.ofNat 8 r.slot)]).phase = h.phase ∧
        (t.tile.phasers[(Fin.ofNat 8 r.slot)]).waiters = [r] ∧ t.net = [s.replyHere p (.ack false)]) ∧
    (p.body = .phReg w → w.engine = false → w.slot = r.slot → h.live w p.ctx p.ttag = true → h.admits w = true → phSame m w = false →
      ∃ t, exec (.phaserRegisterAtHome w) s = .next t ∧ (t.tile.phasers[(Fin.ofNat 8 r.slot)]).members.length = 2 ∧
        t.net = [s.replyHere p (.value (h.phase.zeroExtend 64))])

/-- R215-R217: a barrier of a core that belongs to its set. BARA arrives at the core's episode, whose number it writes to d, and goes on;
BARW waits for the outstanding episode with an entry of KIND 6; BAR does both; once every participant has arrived the episode completes and
the entry's wait ends. A core outside the set takes ILL, with TVA the base word.
The model's choices in it: log entry 3. -/
def Obligations.BarriersMeet : Prop :=
  ∀ (s : State) (d : SReg) (sc : Scope) (ps : PhaserSet) (b : BarState), s.core.still = true →
    s.core.bars[barIndex sc ps] = b →
    (psetHas ps s.sel = true → b.out = false →
      (∃ t, exec (.bara d sc ps) s = .next t ∧ t.core.bars[barIndex sc ps] = { ep := b.ep + 1, out := true } ∧
        t.S d = (if d = 0 then 0 else b.ep.zeroExtend 64) ∧ t.barriers = (s.barArrive sc ps b.ep).barriers ∧ t.core.pc = s.core.npc) ∧
      exec (.barw d sc ps) s = .next (s.result d ((b.ep - 1).zeroExtend 64)) ∧
      ∃ t, exec (.bar d sc ps) s = .next t ∧ t.core.bars[barIndex sc ps] = { ep := b.ep + 1, out := false } ∧
        t.core.rq[(0 : Fin 8)].v = true ∧ t.core.rq[(0 : Fin 8)].kind = 6 ∧ t.core.rq[(0 : Fin 8)].w2 = b.ep.zeroExtend 64 ∧
        t.core.pc = s.core.npc ∧
        (s.core.stopped = false → s.core.tr.fwd = none → (s.barArrive sc ps b.ep).episodeDone sc ps b.ep = true →
          ∃ u, exec (.barrierRelease 0) t = .next u ∧ u.core.rq[(0 : Fin 8)].v = false ∧
            u.S d = (if d = 0 then 0 else b.ep.zeroExtend 64))) ∧
    (psetHas ps s.sel = true → b.out = true → ∃ t, exec (.barw d sc ps) s = .next t ∧ t.core.bars[barIndex sc ps] = { b with out := false } ∧
      t.core.rq[(0 : Fin 8)].v = true ∧ t.core.rq[(0 : Fin 8)].kind = 6 ∧ t.core.pc = s.core.npc) ∧
    (∀ ep e, s.episode sc ps ep = some e → s.allArrived e = true →
      ∃ t, exec (.barrierEpisodeComplete sc ps ep) s = .next t ∧ (t.barriers.any fun c => c == { e with done := true }) = true) ∧
    (psetHas ps s.sel = false →
      exec (.bara d sc ps) s = .next (s.takeTrap .ill (s.core.npc - 2) s.core.pc false) ∧
      exec (.barw d sc ps) s = .next (s.takeTrap .ill (s.core.npc - 2) s.core.pc false) ∧
      exec (.bar d sc ps) s = .next (s.takeTrap .ill (s.core.npc - 2) s.core.pc false))
/-! ### Copies, storage, collectives (09_async) -/

/-- R222-R224, R228, R229: CPY in its four modes with pointers into the own slice. With a descriptor at q whose fields are legal, its bytes
within the slice and an entry free, the operation is posted and d gets its promise word; the bytes move later. A descriptor that is not
LOCAL, not a multiple of 32 or past the slice takes BND with TVA its pointer, and a to-ring copy of more slots than its ring has takes BND
with TVA word 1 of the descriptor; on the compute core a CPY takes ILL (R14). -/
def Obligations.CopiesArePosted : Prop :=
  (∀ (s : State) (d a : SReg) (x : Option Xsc), s.sel = .comp →
    let ill := Host.Outcome.next (s.takeTrap .ill s.core.pc s.core.pc false)
    exec (.cpy d a x) s = ill ∧ exec (.cpy2d d a x) s = ill ∧ exec (.cpyGth d a x) s = ill ∧ exec (.cpyRing d a x) s = ill) ∧
  ∀ (s : State) (d a : SReg) (n : Fin 8), s.sel = .stage → s.core.still = true → s.tile.flips = [] → s.tile.poison = [] →
    let q := s.S a
    let w (k : Nat) : Word := s.tile.slice.readWord (ptrOfs q + 8 * k)
    let here (k : Nat) : Prop := ptrSpace (w k) = 0
    let at' (k : Nat) : Int := ptrOfs (w k)
    let v := (w 2).toNat
    (¬ (ptrSpace q = 0 ∧ ptrOfs q % 32 = 0 ∧ ptrOfs q + 32 ≤ 0x80000) →
      exec (.cpy d a none) s = .next (s.takeTrap .bnd q s.core.pc false) ∧
      exec (.cpyRing d a none) s = .next (s.takeTrap .bnd q s.core.pc false)) ∧
    (ptrSpace q = 0 → ptrOfs q % 32 = 0 → ptrOfs q + 64 ≤ 0x80000 → s.tile.leaseDir = [] → s.tile.copy.freeEntry = some n → (w 3).toNat < 2 → here 0 →
      (here 1 → v < 2 ^ 40 → at' 0 + v ≤ 0x80000 → at' 1 + v ≤ 0x80000 → s.copyPosted (.cpy d a none) d q n 0) ∧
      (here 1 → v < 2 ^ 40 → w 6 = 0 → w 7 = 0 →
        (let len : Int := ((v % 2 ^ 20 : Nat) : Int)
         (∀ k < v / 2 ^ 20, 0 ≤ at' 0 + (k : Int) * (w 4).toInt ∧ at' 0 + (k : Int) * (w 4).toInt + len ≤ 0x80000 ∧
           0 ≤ at' 1 + (k : Int) * (w 5).toInt ∧ at' 1 + (k : Int) * (w 5).toInt + len ≤ 0x80000) →
         s.copyPosted (.cpy2d d a none) d q n 1)) ∧
      (here 1 → v < 2 ^ 40 → w 6 = 0 → w 7 = 0 → v / 2 ^ 13 % 128 = 0 → (w 5).toNat < 2 ^ 32 → 0 < v % 2 ^ 13 → v % 2 ^ 13 ≤ 4096 →
        at' 0 + (v % 2 ^ 13 * (w 5).toNat : Nat) ≤ 0x80000 → at' 1 + (v % 2 ^ 13 * (v / 2 ^ 20) : Nat) ≤ 0x80000 →
        here 4 → ptrOfs (w 4) % 4 = 0 → at' 4 + (4 * (v / 2 ^ 20) : Nat) ≤ 0x80000 → s.copyPosted (.cpyGth d a none) d q n 2) ∧
      (∀ h : Ring, w 1 = BitVec.ofNat 64 h.val → 0 < v → v ≤ 64 → at' 0 + (1024 * v : Nat) ≤ 0x80000 → v ≤ (s.tile.rings[h]).nslot.toNat →
        s.copyPosted (.cpyRing d a none) d q n 3) ∧
      (∀ h : Ring, w 1 = BitVec.ofNat 64 h.val → v < 128 → at' 0 + (1024 * v : Nat) ≤ 0x80000 → (s.tile.rings[h]).nslot.toNat < v →
        exec (.cpyRing d a none) s = .next ((s.draw 1).takeTrap .bnd (w 1) s.core.pc false)))

/-- R231, R232, R14: WAITP writes the status word of an operation that has ended, a status word with STAT 4 where the entry's generation is
another, and sleeps while neither holds and CYC is before the promise; once CYC has reached it, the promise is revised to the time the rest
needs and MISSP is taken with TVA the new promise word; on the compute core it takes ILL (R14).
The model's choices in it: log entries 3 and 12. -/
def Obligations.PromisesAreAwaited : Prop :=
  (∀ (s : State) (d a : SReg), s.sel = .comp → exec (.waitp d a) s = .next (s.takeTrap .ill s.core.pc s.core.pc false)) ∧
  ∀ (s : State) (d a : SReg) (n : Fin 8), s.sel = .stage → s.core.ready [d, a] = true →
    let w := s.S a
    let x := s.tile.copy.entries[n]
    let p := s.revised x
    let missed := (s.setCopy n { x with promise := p }).takeTrap .missp (promiseWord p n.val x.gen) s.core.pc false
    (w.getLsbD 63 = false ∨ w.extractLsb' 60 3 ≠ 0 → exec (.waitp d a) s = .next (s.takeTrap .bnd w s.core.pc false)) ∧
    (w.getLsbD 63 = true → w.extractLsb' 60 3 = 0 → (w.extractLsb' 52 3).toNat = n.val →
      (x.gen ≠ w.extractLsb' 55 5 → exec (.waitp d a) s = .next (s.result d
        (BitVec.ofNat 64 (4 + 16 * n.val + 2 ^ 7 * (w.extractLsb' 55 5).toNat + 2 ^ 63)))) ∧
      (x.gen = w.extractLsb' 55 5 → x.ended = true → x.status.getLsbD 13 = false → exec (.waitp d a) s = .next (s.result d x.status)) ∧
      (x.gen = w.extractLsb' 55 5 → x.ended = false → s.cyc.toNat < x.promise.toNat → exec (.waitp d a) s = .next s) ∧
      (x.gen = w.extractLsb' 55 5 → x.ended = false → x.promise.toNat ≤ s.cyc.toNat → exec (.waitp d a) s = .next missed)) ∧
    (x.busy = true → x.ended = false → x.promise.toNat ≤ s.cyc.toNat → s.waitsOn n = true → exec (.promiseDeadline n) s = .next missed)

/-- R225-R227: the copy engine. The earliest posted operation starts when none runs; a to-ring operation waits for its slots and samples TAIL;
a chunk of a plain copy within the slice makes its destination bytes the source's, which are all read before the first is written, and every
other byte of memory stays; a finished operation ends with its status word, which goes to the completion queue of the core that posted it, and
a to-ring operation, once the ring has room, advances TAIL by its slots; a word that found its queue full goes in when there is room.
The model's choices in it: log entry 23. -/
def Obligations.CopiesRun : Prop :=
  ∀ (s : State) (n : Fin 8),
    let e := s.tile.copy
    let x := e.entries[n]
    let src := ptrOfs (descWord x.desc 0) + x.within
    let dst := ptrOfs (descWord x.desc 1) + x.within
    let len := (shapeOf 0 x.desc).len
    let m := Nat.min 4096 (len - x.within)
    let stat := statusWord 0 n.val x.gen 0 x.poi x.done
    (e.hold = none → e.running = none → e.first = some n → s.core.stopped = false →
      exec .copyOperationStart s = .next (s.setCopy n { x with started := true })) ∧
    (e.running = some n → x.mode = 3 → x.room = false → (shapeOf 3 x.desc).len ≤ 1024 * (s.tile.ring (ringOf x)).free →
      exec .copyRingRoom s = .next (s.setCopy n { x with room := true, tail := (s.tile.ring (ringOf x)).tail.toNat })) ∧
    (e.running = some n → x.mode = 0 → x.unit = 0 → x.within < len → s.core.stopped = false →
      s.core.rpsh = [] → s.peer.rpsh = [] → ptrSpace (descWord x.desc 0) = 0 →
      ptrSpace (descWord x.desc 1) = 0 → ptrOfs (descWord x.desc 0) + len ≤ 0x80000 → ptrOfs (descWord x.desc 1) + len ≤ 0x80000 →
      s.tile.flips = [] → s.tile.poison = [] → s.tile.leaseDir = [] → s.tile.heldExt = [] → (∀ h : Ring, s.tile.rings[h].held = 0) →
      s.tile.slice.wf = true →
      ∃ t, exec .copyChunkTransfer s = .next t ∧ t.core = s.core ∧ (t.tile.copy.entries[n]).done = x.done + m ∧
        (t.tile.copy.entries[n]).within = (if x.within + m < len then x.within + m else 0) ∧
        (t.tile.copy.entries[n]).unit = (if x.within + m < len then 0 else 1) ∧
        ∀ a, t.tile.slice.read a = if dst ≤ a ∧ a < dst + m then s.tile.slice.read (src + (a - dst)) else s.tile.slice.read a) ∧
    (e.running = some n → x.finished = true → x.core = s.sel → x.mode ≠ 3 → (descWord x.desc 3).getLsbD 0 = false →
      s.core.q.cq.length < 8 → ∃ t, exec .copyOperationEnd s = .next t ∧ t.core.q.cq = s.core.q.cq ++ [stat] ∧
        (t.tile.copy.entries[n]).ended = true ∧ (t.tile.copy.entries[n]).busy = false ∧ (t.tile.copy.entries[n]).status = stat ∧
        t.core.pc = s.core.pc ∧ (∀ r, t.S r = s.S r) ∧ t.tile.slice = s.tile.slice ∧ t.tile.rings = s.tile.rings) ∧
    (e.running = some n → x.finished = true → x.core = s.sel → x.mode = 3 →
      (shapeOf 3 x.desc).len / 1024 ≤ (s.tile.ring (ringOf x)).free → ∃ t, exec .copyOperationEnd s = .next t ∧
        (t.tile.copy.entries[n]).ended = true ∧
        t.tile.rings[ringOf x] = (s.tile.rings[ringOf x]).push ((shapeOf 3 x.desc).len / 1024) ∧ t.tile.slice = s.tile.slice) ∧
    (∀ w, e.hold = some (s.sel, false, w) → s.core.q.cq.length < 8 → ∃ t, exec .completionPlaceDeferred s = .next t ∧
      t.tile.copy.hold = none ∧ t.core.q.cq = s.core.q.cq ++ [w] ∧ t.core.pc = s.core.pc ∧ (∀ r, t.S r = s.S r))

/-- R234-R237: the storage commands. With a legal block of 32 bytes at S(b), and for a command with a buffer a sealed pair that allows it
and whose slot is not revoked, the command is posted with its key, namespace and options and with the core's next tag, which d gets; a block that is no multiple of 32 takes BND with
TVA its pointer. When a command ends, its word with the tag and the drive's status is appended to q2, and KVGET has written the first bytes of
the value into its buffer; one of a copy that was discarded writes nothing. On the compute core they take ILL (R14).
The model's choices in it: log entries 19, 22 and 45. -/
def Obligations.StorageCommandsArePostedAndComplete : Prop :=
  (∀ (s : State) (d a b : SReg), s.sel = .comp →
    let ill := Host.Outcome.next (s.takeTrap .ill s.core.pc s.core.pc false)
    exec (.kvget d a b) s = ill ∧ exec (.kvset d a b) s = ill ∧ exec (.kvlst d a b) s = ill ∧ exec (.kvdel d b) s = ill) ∧
  (∀ (s : State) (d a b : SReg), s.sel = .stage → s.core.still = true → s.core.kvOut < 8 → s.tile.modes.paired = false →
    let p := s.S b
    let e := s.S a
    let o := s.S (a + 1)
    let blk := (s.tile.slice.readMany (ptrOfs p) 32).map BitVec.toNat
    let spaces := (s.partOf s.tile.part).namespaces
    (¬ (ptrSpace p = 0 ∧ ptrOfs p % 32 = 0 ∧ ptrOfs p + 32 ≤ 0x80000) →
      exec (.kvdel d b) s = .next (s.takeTrap .bnd p s.core.pc false) ∧
      exec (.kvget d a b) s = .next (s.takeTrap .bnd p s.core.pc false)) ∧
    (ptrSpace p = 0 → ptrOfs p % 32 = 0 → ptrOfs p + 32 ≤ 0x80000 → s.tile.poison = [] → s.tile.leaseDir = [] → s.hawser = false →
      (kvBlockOk 2 spaces blk = true → s.kvPosted (.kvdel d b) d blk 2 0 0 0) ∧
      (s.grants e o (capPW e) 0 →
        (kvBlockOk 0 spaces blk = true → s.kvPosted (.kvget d a b) d blk 0 (capBase e) (capLen o) 0) ∧
        (kvBlockOk 3 spaces blk = true →
          s.kvPosted (.kvlst d a b) d blk 3 (capBase e) (capLen o) ((blk[24]?).getD 0 + 256 * (blk[25]?).getD 0))) ∧
      (s.grants e o (capPR e) 0 → kvBlockOk 1 spaces blk = true → capLen o ≤ 2097152 →
        s.kvPosted (.kvset d a b) d blk 1 (capBase e) (capLen o) 0) ∧
      (kvBlockOk 0 spaces blk = true → isSealed s.tile.ctx e o = false ∨ capPS e = false ∨ capPW e = false →
        exec (.kvget d a b) s = .next (s.takeTrap .capv (edgePtr (capBase e)) s.core.pc false)))) ∧
  ∀ (s : State) (k : KvOp) (y : KvAnswer), s.storage = [k] → k.hnd = s.tile.hnd → k.core = s.sel → k.ctx = s.tile.ctx → k.ttag = s.tile.ttag →
    s.launchOf k.ctx k.ttag = k.launch → s.tile.owned = true →
    s.myCtx.edge.wf = true →
    (k.op = 2 → ∃ t, exec (.storageCommandComplete k.tag y) s = .next t ∧ t.storage = [] ∧ (∀ r, t.S r = s.S r) ∧ t.core.pc = s.core.pc ∧
      t.tile.slice = s.tile.slice ∧ t.core.q.q2 = s.core.q.q2 ++ [kvWord k.tag y.stat.toNat y.sct.toNat y.sc.toNat y.poi 0]) ∧
    (k.op = 0 → y.stat = 0 → k.sh = none → s.myCtx.pagesOk k.base k.len true = true → ∃ t, exec (.storageCommandComplete k.tag y) s = .next t ∧
      t.storage = [] ∧ t.core.q.q2 = s.core.q.q2 ++
        [kvWord k.tag (if k.len < y.count.toNat then 3 else 0) y.sct.toNat y.sc.toNat y.poi y.count.toNat] ∧
      (k.void = true → t.myCtx.edge = s.myCtx.edge) ∧
      (k.void = false → ∀ j, t.myCtx.edge.read (k.base + j) = if j < k.len then (y.value[j]?).getD (s.myCtx.edge.read (k.base + j)) else s.myCtx.edge.read (k.base + j)))

/-- R238-R240: COLL with a legal descriptor of a group that has agreed, buffers that its sealed pairs grant and that do not overlap, and a slot
free in the tile and in its engine, is posted: it writes the word with its slot and generation and retires. One of two members or more waits
in the engine; one whose descriptor is no LOCAL multiple of 64 takes BND with TVA its pointer; on the compute core COLL takes ILL
(R14).
The model's choices in it: log entries 17 and 18. -/
def Obligations.CollectivesArePosted : Prop :=
  ∀ (s : State) (d a : SReg) (x : Option Xsc),
    (s.sel = .comp →
      let ill := Host.Outcome.next (s.takeTrap .ill s.core.pc s.core.pc false)
      exec (.collRed d a x) s = ill ∧ exec (.collBcst d a x) s = ill ∧ exec (.collAgth d a x) s = ill) ∧
    (s.sel = .stage → s.core.still = true → s.tile.modes.paired = false →
    let p := s.S a
    let c := collDesc ((s.tile.slice.readMany (ptrOfs p) 64).map BitVec.toNat)
    (¬ (ptrSpace p = 0 ∧ ptrOfs p % 64 = 0 ∧ ptrOfs p + 64 ≤ 0x80000) →
      let bnd := Host.Outcome.next (s.takeTrap .bnd p s.core.pc false)
      exec (.collRed d a x) s = bnd ∧ exec (.collBcst d a x) s = bnd ∧ exec (.collAgth d a x) s = bnd) ∧
    (ptrSpace p = 0 → ptrOfs p % 64 = 0 → ptrOfs p + 64 ≤ 0x80000 → s.tile.poison = [] → s.tile.leaseDir = [] → s.hawser = false → ∀ (g : Group) (n : Fin 4),
      s.myCtx.groups.find? (fun g => g.agreed && g.num == c.group) = some g → s.tile.freeColl = some n → s.collOps = [] →
      0 < Tab.get (s.partOf s.tile.part).quotas 16 6 → s.tile.owned = true → s.tiles = [] →
      (s.collFits 0 g c → s.collPosted (.collRed d a x) d 0 n g c) ∧
      (s.collFits 1 g c → s.collPosted (.collBcst d a x) d 1 n g c) ∧
      (s.collFits 2 g c → s.collPosted (.collAgth d a x) d 2 n g c)))

/-- R241-R245, R286, R287: an operation in its engine slot. A contribution that fits is kept and its member noted; one whose parameters
disagree ends the operation; a broadcast of one block ends when the root's data and every member's parameters have come; a timeout or a lost peer ends an operation of which
nothing is complete, with status INCOMPLETE in the completion queue of its core. An index that a gateway returns with STAT 0 makes its block
written, whichever of the engine's gateways had it; one that does not return in time makes it missing, and an index of no operation is discarded.
The model's choices in it: log entries 16 and 17. -/
def Obligations.CollectivesGoOn : Prop :=
  ∀ (s : State) (o : CollOp) (c : CollContribution), s.collOps = [o] → o.written = [] → o.missing = [] →
    let agrees := c.n = o.n ∧ c.type = o.type ∧ c.blklog = o.blklog ∧ c.root = o.root
    let fits := c.member ∈ o.needs c.block ∧ c.member ≠ o.own ∧ c.block < o.blocks ∧ c.member ∉ Tab.get o.bitmap [] c.block
    (¬ agrees → ∃ t, exec (.collContributionArrival o.slot c) s = .next t ∧ t.collOps = []) ∧
    (agrees → fits → o.pushed = [] →
      (o.kind = 0 → (∀ b < o.blocks, ∃ r ∈ o.needs b, r ∉ Tab.get o.bitmap [] b ∧ r ≠ c.member) →
        ∃ t u, exec (.collContributionArrival o.slot c) s = .next t ∧ t.collOps = [u] ∧ c.member ∈ Tab.get u.bitmap [] c.block ∧
          u.written = [] ∧ u.dstBase = o.dstBase ∧ t.tile = s.tile ∧ t.core = s.core) ∧
      (o.kind = 1 → o.blocks = 1 → (∀ r < o.m, r = o.own ∨ r = c.member ∨ r ∈ o.known) → ∃ t, exec (.collContributionArrival o.slot c) s = .next t ∧ t.collOps = [])) ∧
    (o.pushed = [] → (∀ b < o.blocks, o.full b = false) → s.tile.owned = true → s.tile.ctx = o.ctx → s.tile.hnd = o.hnd → o.core = s.sel →
      s.tile.ttag = o.ttag → s.launchOf o.ctx o.ttag = o.launch →
      s.tiles = [] → s.tile.collDone = [] → s.core.q.cq.length < 8 → 0 < o.blocks →
      let w := statusWord 5 o.tslot o.gen 1 o.poi 0
      (∃ t, exec (.collTimeout o.slot) s = .next t ∧ t.collOps = [] ∧ t.core.q.cq = s.core.q.cq ++ [w] ∧ (∀ r, t.S r = s.S r)) ∧
      ∀ m, m < o.m → m ≠ o.own → ∃ t, exec (.collPeerLost o.slot m) s = .next t ∧ t.collOps = [] ∧ t.core.q.cq = s.core.q.cq ++ [w]) ∧
    ∀ (g b : Nat) (w : Word) (rest : List Word), s.tile.id = .gateway g → s.core.q.q3out = w :: rest → o.slot = 1024 * (g / 16) + w.toNat / 2 ^ 20 % 1024 →
      b = w.toNat % 2 ^ 20 → s.lateIdx = [] → s.tile.owned = false → s.tiles = [] → (∀ b' < o.blocks, b' ≠ b → o.full b' = false) →
      (w.getLsbD 63 = false ∨ b ∉ o.pushed → ∃ t, exec .gatewayIndexReturn s = .next t ∧ t.core.q.q3out = rest ∧ t.collOps = [o] ∧
        t.tile.discarded = s.tile.discarded + 1) ∧
      (w.getLsbD 63 = true → o.pushed = [b] → b < o.blocks → 2 ≤ o.blocks → o.kind = 0 →
        (w.toNat / 2 ^ 44 % 256 = 0 → ∃ t u, exec .gatewayIndexReturn s = .next t ∧ t.core.q.q3out = rest ∧ t.collOps = [u] ∧ u.written = [b] ∧
          u.pushed = []) ∧
        (w.toNat / 2 ^ 44 % 256 = 1 → ∃ t, exec .gatewayIndexReturn s = .next t ∧ t.core.q.q3out = rest ∧ t.collOps = []) ∧
        ∃ t, exec (.gatewayIndexTimeout o.slot b) s = .next t ∧ t.collOps = [])

/-! ### Rows and floating point (10_row, 11_narrow) -/

/-- R247-R258: the two-source and three-source row instructions without REP on the compute core. Integer lanes: sums, differences and products
modulo 2^(8w), smaller and greater by signedness, bitwise operations, shifts by the unsigned count, all ones or 0 for comparisons. Float lanes:
the exact result rounded once under FCTL.RM, with the flags ORed into FFL. VFMA adds old d to the exact product and rounds once, with R255's
special cases written out; VSEL chooses by old d.
The model's choices in it: log entries 20 and 21. -/
def Obligations.RowLanesAreComputed : Prop :=
  ∀ (s : State) (ty : RType) (d a b : RCode) (x : RowX), s.rowFirst x d → s.rowIn ty x a → s.rowIn ty x b → s.rowIn ty x d →
    let w := Machine.RType.width ty
    let p := s.laneIn ty x a
    let q := s.laneIn ty x b
    let z := s.laneIn ty x d
    let pi (j : Nat) : Int := RType.int ty (p j)
    let qi (j : Nat) : Int := RType.int ty (q j)
    let rm := rmOf s.core.sr.fctl.toNat
    let low (v : Int) : Res := { bits := (v % ((2 ^ w : Nat) : Int)).toNat }
    let flag (c : Bool) : Nat := if c then 2 ^ w - 1 else 0
    let raw (v : Nat) : Res := { bits := v }
    (RType.fmt ty = none →
      s.lanesAre (.vadd ty d a b x) ty x d (fun j => low (pi j + qi j)) ∧
      s.lanesAre (.vsub ty d a b x) ty x d (fun j => low (pi j - qi j)) ∧
      s.lanesAre (.vmul ty d a b x) ty x d (fun j => low (pi j * qi j)) ∧
      s.lanesAre (.vfma ty d a b x) ty x d (fun j => low (pi j * qi j + RType.int ty (z j))) ∧
      s.lanesAre (.vmin ty d a b x) ty x d (fun j => raw (if qi j < pi j then q j else p j)) ∧
      s.lanesAre (.vmax ty d a b x) ty x d (fun j => raw (if pi j < qi j then q j else p j)) ∧
      s.lanesAre (.vand ty d a b x) ty x d (fun j => raw (p j &&& q j)) ∧
      s.lanesAre (.vor ty d a b x) ty x d (fun j => raw (p j ||| q j)) ∧
      s.lanesAre (.vxor ty d a b x) ty x d (fun j => raw (p j ^^^ q j)) ∧
      s.lanesAre (.vshl ty d a b x) ty x d (fun j => raw (if q j < w then p j <<< q j % 2 ^ w else 0)) ∧
      s.lanesAre (.vshr ty d a b x) ty x d (fun j => low (pi j / ((2 ^ Nat.min (q j) w : Nat) : Int))) ∧
      s.lanesAre (.vceq ty d a b x) ty x d (fun j => raw (flag (decide (pi j = qi j)))) ∧
      s.lanesAre (.vclt ty d a b x) ty x d (fun j => raw (flag (decide (pi j < qi j)))) ∧
      s.lanesAre (.vcle ty d a b x) ty x d (fun j => raw (flag (decide (pi j ≤ qi j))))) ∧
    (∀ m, RType.fmt ty = some m →
      s.lanesAre (.vadd ty d a b x) ty x d (fun j => m.add rm (p j) (q j)) ∧
      s.lanesAre (.vsub ty d a b x) ty x d (fun j => m.add rm (p j) (q j ^^^ m.signBit)) ∧
      s.lanesAre (.vmul ty d a b x) ty x d (fun j => m.mul rm (p j) (q j)) ∧
      s.lanesAre (.vfma ty d a b x) ty x d (fun j =>
        let u := m.decode (p j)
        let v := m.decode (q j)
        let y := m.decode (z j)
        let neg := u.neg != v.neg
        if u.isZero && v.isInf || u.isInf && v.isZero then { bits := m.qnan, fl := flagNV }
        else if u.isNan || v.isNan || y.isNan then { bits := m.qnan, fl := if u.isSig || v.isSig || y.isSig then flagNV else 0 }
        else if u.isInf || v.isInf then (if y.isInf && y.neg != neg then { bits := m.qnan, fl := flagNV } else { bits := m.inf neg })
        else if y.isInf then { bits := m.inf y.neg }
        else m.round rm ((u.dy.mul v.dy).add y.dy) (if y.neg = neg then neg else rm = .rdn)) ∧
      s.lanesAre (.vmin ty d a b x) ty x d (fun j => m.minmax false (p j) (q j)) ∧
      s.lanesAre (.vmax ty d a b x) ty x d (fun j => m.minmax true (p j) (q j)) ∧
      s.lanesAre (.vceq ty d a b x) ty x d (fun j => { bits := flag (m.cmp .eq (p j) (q j)).1, fl := (m.cmp .eq (p j) (q j)).2 }) ∧
      s.lanesAre (.vclt ty d a b x) ty x d (fun j => { bits := flag (m.cmp .lt (p j) (q j)).1, fl := (m.cmp .lt (p j) (q j)).2 }) ∧
      s.lanesAre (.vcle ty d a b x) ty x d (fun j => { bits := flag (m.cmp .le (p j) (q j)).1, fl := (m.cmp .le (p j) (q j)).2 })) ∧
    s.lanesAre (.vsel ty d a b x) ty x d (fun j => raw (if z j ≠ 0 then p j else q j))

/-- R259-R264: the row instructions of one source without REP. VUNA clears or flips the sign, or rounds the exact function to nearest, with the
special values and flags of R260's table written out (the others: ElementFunctionsMeetTheirFormulas); VRED
combines neighbours level by level into lane 0 and zeroes the rest; VSCAN keeps running sums; VCVT converts the lanes that its part names and
keeps the others of a narrower destination; VBC, VROT, VSHUF and VMOV copy lanes, VIOTA counts from S(a).
The model's choices in it: log entry 20. -/
def Obligations.RowUnaryFormsAreComputed : Prop :=
  ∀ (s : State) (ty : RType) (d a b : RCode) (n : SReg) (x : RowX), s.rowFirst x d →
    let w := Machine.RType.width ty
    let l := RType.lanes ty
    let p := s.laneIn ty x a
    let rm := rmOf s.core.sr.fctl.toNat
    let low (v : Int) : Nat := (v % ((2 ^ w : Nat) : Int)).toNat
    let quiet : Option (Nat → Bool) := some fun _ => false
    (s.rowIn ty x a →
      (RType.fmt ty = none →
        s.lanesGive (.vunaAbs ty d a x) ty x d (fun j => low ((RType.int ty (p j)).natAbs : Int)) quiet ∧
        s.lanesGive (.vunaNeg ty d a x) ty x d (fun j => low (-(RType.int ty (p j)))) quiet ∧
        (∀ v : Nat → Nat → Nat, (∀ j, v 0 j = p j) → (∀ k j, v (k + 1) j = low (RType.int ty (v k (2 * j)) + RType.int ty (v k (2 * j + 1)))) →
          s.lanesGive (.vredSum ty d a x) ty x d (fun j => if j = 0 then v (Nat.log2 l) 0 else 0) quiet) ∧
        (∀ v : Nat → Nat → Nat, (∀ j, v 0 j = low (RType.int ty (p j) * RType.int ty (p j))) →
          (∀ k j, v (k + 1) j = low (RType.int ty (v k (2 * j)) + RType.int ty (v k (2 * j + 1)))) →
          s.lanesGive (.vredSsq ty d a x) ty x d (fun j => if j = 0 then v (Nat.log2 l) 0 else 0) quiet) ∧
        (∀ g ∈ (List.range l).map p, (∀ j < l, RType.int ty (p j) ≤ RType.int ty g) →
          s.lanesGive (.vredMax ty d a x) ty x d (fun j => if j = 0 then g else 0) quiet) ∧
        (∀ g ∈ (List.range l).map p, (∀ j < l, RType.int ty g ≤ RType.int ty (p j)) →
          s.lanesGive (.vredMin ty d a x) ty x d (fun j => if j = 0 then g else 0) quiet) ∧
        (∀ v : Nat → Nat, v 0 = p 0 → (∀ j, v (j + 1) = low (RType.int ty (v j) + RType.int ty (p (j + 1)))) →
          s.lanesGive (.vscan ty d a x) ty x d v quiet)) ∧
      (∀ m, RType.fmt ty = some m →
        s.lanesGive (.vunaAbs ty d a x) ty x d (fun j => p j % m.signBit) quiet ∧
        s.lanesGive (.vunaNeg ty d a x) ty x d (fun j => p j ^^^ m.signBit) quiet ∧
        s.lanesAre (.vunaExp ty d a x) ty x d (fun j => m.fun1 .exp (p j)) ∧
        s.lanesAre (.vunaLog2 ty d a x) ty x d (fun j => m.fun1 .log2 (p j)) ∧
        s.lanesAre (.vunaRcp ty d a x) ty x d (fun j => m.fun1 .rcp (p j)) ∧
        s.lanesAre (.vunaRsq ty d a x) ty x d (fun j => m.fun1 .rsq (p j)) ∧
        s.lanesAre (.vunaTanh ty d a x) ty x d (fun j => m.fun1 .tanh (p j)) ∧
        s.lanesAre (.vunaSig ty d a x) ty x d (fun j => m.fun1 .sig (p j)) ∧
        (∀ v < 2 ^ m.width,
          let bad : Res := { bits := m.qnan, fl := flagNV }
          let one := m.bias * 2 ^ m.fw
          let neg := decide (m.signBit ≤ v)
          let mag := v % m.signBit
          (m.inf false < mag → ∀ g, m.fun1 g v = { bits := m.qnan, fl := if mag < m.qnan then flagNV else 0 }) ∧
          (mag = 0 → m.fun1 .exp v = { bits := one } ∧ m.fun1 .log2 v = { bits := m.inf true, fl := flagDZ } ∧
            m.fun1 .rcp v = { bits := m.inf neg, fl := flagDZ } ∧ m.fun1 .rsq v = { bits := m.inf neg, fl := flagDZ } ∧
            m.fun1 .tanh v = { bits := v } ∧ m.fun1 .sig v = { bits := one - 2 ^ m.fw }) ∧
          (mag = m.inf false → m.fun1 .exp v = { bits := if neg then 0 else m.inf false } ∧
            m.fun1 .log2 v = (if neg then bad else { bits := m.inf false }) ∧ m.fun1 .rcp v = { bits := if neg then m.signBit else 0 } ∧
            m.fun1 .rsq v = (if neg then bad else { bits := 0 }) ∧ m.fun1 .tanh v = { bits := if neg then one + m.signBit else one } ∧
            m.fun1 .sig v = { bits := if neg then 0 else one }) ∧
          (0 < mag → mag < m.inf false → neg = true → m.fun1 .log2 v = bad ∧ m.fun1 .rsq v = bad)) ∧
        (∀ v : Nat → Nat → Nat, (∀ j, v 0 j = p j) → (∀ k j, v (k + 1) j = (m.add rm (v k (2 * j)) (v k (2 * j + 1))).bits) →
          s.lanesGive (.vredSum ty d a x) ty x d (fun j => if j = 0 then v (Nat.log2 l) 0 else 0) none) ∧
        (∀ v : Nat → Nat → Nat, (∀ j, v 0 j = (m.mul rm (p j) (p j)).bits) →
          (∀ k j, v (k + 1) j = (m.add rm (v k (2 * j)) (v k (2 * j + 1))).bits) →
          s.lanesGive (.vredSsq ty d a x) ty x d (fun j => if j = 0 then v (Nat.log2 l) 0 else 0) none) ∧
        (∀ v : Nat → Nat → Nat, (∀ j, v 0 j = p j) → (∀ k j, v (k + 1) j = (m.minmax true (v k (2 * j)) (v k (2 * j + 1))).bits) →
          s.lanesGive (.vredMax ty d a x) ty x d (fun j => if j = 0 then v (Nat.log2 l) 0 else 0) none) ∧
        (∀ v : Nat → Nat → Nat, (∀ j, v 0 j = p j) → (∀ k j, v (k + 1) j = (m.minmax false (v k (2 * j)) (v k (2 * j + 1))).bits) →
          s.lanesGive (.vredMin ty d a x) ty x d (fun j => if j = 0 then v (Nat.log2 l) 0 else 0) none) ∧
        (ty = .f32 → ∀ v : Nat → Nat, v 0 = (m.quiet (p 0)).bits → (∀ j, v (j + 1) = (m.add rm (v j) (p (j + 1))).bits) →
          s.lanesGive (.vscan ty d a x) ty x d v none) ∧
        (ty ≠ .f32 → ∀ v u : Nat → Nat, v 0 = (m.quiet (p 0)).bits → u 0 = (m.convert f32 rm (v 0)).bits →
          (∀ j, u (j + 1) = (f32.add rm (u j) (m.convert f32 rm (p (j + 1))).bits).bits) → (∀ j, v (j + 1) = (f32.convert m rm (u (j + 1))).bits) →
          s.lanesGive (.vscan ty d a x) ty x d v none)) ∧
      s.lanesGive (.vbc ty d a n x) ty x d (fun _ => p ((s.S n).toNat % l)) quiet ∧
      s.lanesGive (.vrot ty d a n x) ty x d (fun j => p ((j + (s.S n).toNat) % l)) quiet ∧
      (ty = .f32 → s.lanesGive (.vmov d a x) ty x d p quiet) ∧
      (s.rowIn ty x b → s.lanesGive (.vshuf ty d a b x) ty x d (fun j => p (s.laneIn ty x b j % l)) quiet)) ∧
    s.lanesGive (.viota ty d n x) ty x d (fun j => (s.S n).toNat + j) quiet ∧
    ∀ src : RType, s.rowIn src x a → s.rowIn ty x d → a ≠ 14 → x.c.val < cvtParts src ty →
      let ls := RType.lanes src
      let f (k : Nat) : Nat := (convertLane src ty rm (s.laneIn src x a k)).bits
      s.lanesGive (.vcvt ty src d a x) ty x d (fun j =>
        if l ≤ ls then f (x.c.val * l + j) else if x.c.val * ls ≤ j ∧ j < x.c.val * ls + ls then f (j - x.c.val * ls) else s.laneIn ty x d j) none

/-- R249-R251, R255, R256, R258 over every bit pattern of f32, bf16 and f16: a NaN operand gives the default NaN, with NV exactly where one
signals; opposite infinities and 0 times infinity give it with NV; an exact cancellation gives +0, under RDN -0; the smaller and the greater
count -0 below +0, return the number beside a NaN, and two NaNs give the default NaN; any NaN makes a comparison false. Rounding a number that
the format has gives back its bit pattern, subnormals included, in every mode and without a flag. -/
def Obligations.FloatSpecialCases : Prop :=
  (∀ (m : Fmt), m = f32 ∨ m = bf16 ∨ m = f16 → ∀ (rm : Rm) (x y : Nat), x < 2 ^ m.width → y < 2 ^ m.width →
     let nan (v : Nat) : Prop := m.inf false < v % m.signBit
     let snan (v : Nat) : Prop := m.inf false < v % m.signBit ∧ v % m.signBit < m.qnan
     let zero (v : Nat) : Prop := v % m.signBit = 0
     (nan x ∨ nan y → (m.add rm x y).bits = m.qnan ∧ (m.mul rm x y).bits = m.qnan ∧
       (snan x ∨ snan y → (m.add rm x y).fl = flagNV ∧ (m.mul rm x y).fl = flagNV) ∧
       (¬ (snan x ∨ snan y) → (m.add rm x y).fl = 0 ∧ (m.mul rm x y).fl = 0) ∧
       (∀ r, (m.cmp r x y).1 = false) ∧ (m.cmp .lt x y).2 = flagNV ∧ (m.cmp .le x y).2 = flagNV) ∧
     m.add rm (m.inf true) (m.inf false) = { bits := m.qnan, fl := flagNV } ∧
     (zero x → m.mul rm x (m.inf false) = { bits := m.qnan, fl := flagNV } ∧ m.mul rm (m.inf true) x = { bits := m.qnan, fl := flagNV }) ∧
     (x % m.signBit < m.inf false → 0 < x % m.signBit → m.add rm x (x ^^^ m.signBit) = { bits := if rm = .rdn then m.signBit else 0 }) ∧
     (nan x → ¬ nan y → (m.minmax true x y).bits = y ∧ (m.minmax false y x).bits = y) ∧
     (nan x → nan y → (m.minmax true x y).bits = m.qnan) ∧
     (m.minmax true m.signBit 0).bits = 0 ∧ (m.minmax false 0 m.signBit).bits = m.signBit ∧ (m.cmp .eq m.signBit 0) = (true, 0)) ∧
  (∀ (m : Fmt), m = f32 ∨ m = bf16 ∨ m = f16 → ∀ (rm : Rm) (z : Bool) (b : Nat), b < 2 ^ m.width → 0 < b % m.signBit →
     b % m.signBit < m.inf false → m.round rm (m.decode b).dy z = { bits := b, fl := 0 })



/-- R259, R260, R317, R318, R321, R322, R324: what the element functions of rows and moments are, in exact numbers. For a finite input in its
domain the first enclosure of each approximated function of VUNA holds the real eˣ, log₂ x, 1/x, 1/√x, tanh x or 1/(1 + e⁻ˣ), and where both its
ends round alike to nearest, that rounding is the result. For finite pairs, KADD, KSUB, KMUL and KFMA with ρ = 0, the deterministic forms, KVSUB and
KNL.sq give the formula of R321 or R323, the mean rounded to nearest and the variance upward; KNL.relu at σ² = 0 and beyond eight deviations
gives R324's pair.
The model's choices in it: log entry 20. -/
def Obligations.ElementFunctionsMeetTheirFormulas : Prop :=
  (∀ (m : Fmt), m = f32 ∨ m = bf16 ∨ m = f16 → ∀ v < 2 ^ m.width, v % m.signBit < m.inf false →
     let x := (m.decode v).dy
     let real (d : Dy) : ℝ := (d.m : ℝ) * (2 : ℝ) ^ d.e
     let u : ℝ := real x
     let is (g : Fun1) (e : Iv) (y : ℝ) : Prop := e.ok = true ∧ real e.lo ≤ y ∧ y ≤ real e.hi ∧
       (m.round .rne e.lo false false = m.round .rne e.hi false false → (m.fun1 g v).bits = (m.round .rne e.lo false false).bits)
     (x.m ≠ 0 → is .exp (expIv 96 (Iv.pt x)) (Real.exp u) ∧ is .rcp (Iv.div 96 (Iv.int 1) (Iv.pt x)) (1 / u) ∧
       is .tanh (tanhIv 96 (Iv.pt x)) (Real.tanh u) ∧ is .sig (sigIv 96 (Iv.pt x)) (1 / (1 + Real.exp (-u)))) ∧
     (0 < x.m → is .log2 (log2Pt 96 x) (Real.logb 2 u) ∧ is .rsq (Iv.div 96 (Iv.int 1) (Iv.sqrt 96 (Iv.pt x))) (1 / Real.sqrt u))) ∧
  ∀ (rho w : Nat) (x y z : KPair),
    let finite (n : Nat) : Prop := n < 2 ^ 32 ∧ n % 2 ^ 31 < 0x7F800000
    let d (n : Nat) : Dy := (f32.decode n).dy
    let mean (a : Dy) : Nat := (f32.round .rne a).bits
    let up (a : Dy) : Nat := (f32.round .rup a).bits
    let sum (a b : Dy) : Dy := a.add b
    let mul (a b : Dy) : Dy := a.mul b
    let sq (a : Dy) : Dy := a.mul a
    let prodVar : Dy := sum (mul (d x.v) (d y.v)) (sum (mul (sq (d x.m)) (d y.v)) (mul (sq (d y.m)) (d x.v)))
    let gives (r : KRes) (a b : Dy) : Prop := r.m = mean a ∧ r.v = up b ∧ r.bad = false
    rho % 2 ^ 31 = 0 → rho < 2 ^ 32 → x.bad = false → y.bad = false → z.bad = false → finite w →
    finite x.m → finite x.v → finite y.m → finite y.v → finite z.m → finite z.v →
    gives (kAddSub false rho x y) (sum (d x.m) (d y.m)) (sum (d x.v) (d y.v)) ∧
    gives (kAddSub true rho x y) ((d x.m).sub (d y.m)) (sum (d x.v) (d y.v)) ∧
    gives (kMul rho x y) (mul (d x.m) (d y.m)) prodVar ∧
    gives (kFma rho x y z) (sum (d z.m) (mul (d x.m) (d y.m))) (sum (d z.v) prodVar) ∧
    gives (kAddD x w false) (sum (d x.m) (d w)) (d x.v) ∧
    gives (kMulD x w false) (mul (d x.m) (d w)) (mul (sq (d w)) (d x.v)) ∧
    ((kVsub x y).neg = true ↔ ((d x.v).sub (d y.v)).m < 0) ∧
    (0 ≤ ((d x.v).sub (d y.v)).m → gives (kVsub x y) ((d x.m).sub (d y.m)) ((d x.v).sub (d y.v))) ∧
    (((d x.v).sub (d y.v)).m < 0 → (kVsub x y).m = mean ((d x.m).sub (d y.m)) ∧ (kVsub x y).v = 0) ∧
    (x.v < 2 ^ 31 → gives (kNl .sq x) (sum (sq (d x.m)) (d x.v)) (sum ((sq (d x.v)).scale 1) ((mul (sq (d x.m)) (d x.v)).scale 2)) ∧
      (x.v = 0 → (kNl .relu x).m = (if 0 < (d x.m).m then x.m else 0) ∧ (kNl .relu x).v = 0) ∧
      (0 < x.v → (sq (d x.m)).lt ((d x.v).scale 6) = false → (kNl .relu x).m = (if 0 < (d x.m).m then x.m else 0) ∧
        (kNl .relu x).v = if 0 < (d x.m).m then x.v else 0))

/-- R94-R97, R254, R268: bundles with REP. Count 0 retires with no effect; with count n of 2 or more the first step performs the iteration of
the base operands, the pc stays and entry 0 goes on at index 1; each step performs one iteration, and the one at the last index retires the
bundle and frees the entry; a count above 65,535 takes RGF with TVA the address of the bundle. With VMOV of a row, a poisoned row is copied
with its poison, and CKI.POI records it. LDR, STR, LDS and STS step their row by one and their address by 64 bytes, here in the own slice; the
SENDs send one message each, SEND.r the next row; RPSH reserves and RTAK pops the next slot of its ring. MMA, MMG and KMMA issue
one unit operation each, which binds the slots after those that the earlier one pops; two iterations of MMA in i8 add up both products.
The model's choices in it: log entry 98. -/
def Obligations.RepeatedBundlesIterate : Prop :=
  (∀ (s : State) (d a : RCode) (x : RowX) (r : SReg), s.sel = .comp → s.core.injRow = false → d.val < 8 → a.val < 8 →
    let dst (j : Nat) : RowSel := rowSel s.sel d x.base x.bank j
    let src (j : Nat) : RowSel := rowSel s.sel a x.base x.bank j
    let row (t : State) (q : RowSel) : RowVal := t.core.rowVal q 4 x.c
    let moved (t : State) (j : Nat) : Prop := row t (dst j) = row s (src j) ∧ row t .l = row s (src j) ∧
      (∀ q, q ≠ dst j → q ≠ .l → t.core.rowVal q 8 0 = s.core.rowVal q 8 0) ∧ (∀ k, t.S k = s.S k) ∧
      t.tile = (if (row s (src j)).bad = 0 then s.tile else { s.tile with cki := s.tile.cki ||| 1 })
    (s.core.still = true → x.rep = .reg r →
      (s.S r = 0 → exec (.vmov d a x) s = .next s.retire) ∧
      (65535 < (s.S r).toNat → exec (.vmov d a x) s = .next (s.takeTrap .rgf s.core.pc s.core.pc false)) ∧
      (2 ≤ (s.S r).toNat → (s.S r).toNat ≤ 65535 → dst 0 ≠ .rgf → src 0 ≠ .rgf →
        ∃ t, exec (.vmov d a x) s = .next t ∧ moved t 0 ∧ t.core.pc = s.core.pc ∧
          let e := t.core.rq[(0 : Fin 8)]
          e.v = true ∧ e.kind = 5 ∧ e.next = 1 ∧ e.count.toNat = (s.S r).toNat ∧ e.bofs = s.core.pc.truncate 19)) ∧
    (let e := s.core.rq[(0 : Fin 8)]
     s.core.issuing = some 0 → s.core.claims.all (fun y => (dstOf (y.op.getD .nop) y.count.toNat).t.isEmpty) = true → s.core.unit.ops = [] →
      e.next.toNat + 1 = e.count.toNat → dst e.next.toNat ≠ .rgf → src e.next.toNat ≠ .rgf →
      ∃ t, exec (.vmov d a x) s = .next t ∧ moved t e.next.toNat ∧ t.core.pc = s.core.npc ∧ t.core.rq[(0 : Fin 8)].v = false)) ∧
  (∀ (s : State) (d : RCode) (a b : SReg) (rep : Rep) (imm : Int) (base : Fin 16) (bank : Bool) (x : Option Xsc),
     let pos : RowPos := { rep := rep, base := base, bank := bank }
     let row (k : Nat) : RowSel := s.memRow d pos k
     let ready (k : Nat) : Prop := row k ≠ .ill ∧ row k ≠ .rgf ∧ s.orderReady x = true ∧ s.tile.slice.wf = true
     let loads (disp : Int) (mask : Bool) (k : Nat) (w1 _w2 : Word) : Prop := ready k ∧ ∃ q, ea w1 (disp + (64 * k : Nat)) = some q ∧
       s.readsHere q 64 ∧ (mask = true → ptrOfs q % 32 = 0)
     let stores (disp : Int) (mask : Bool) (k : Nat) (w1 _w2 : Word) : Prop := ready k ∧ ∃ q, ea w1 (disp + (64 * k : Nat)) = some q ∧
       s.writesHere q 64 ∧ (mask = true → ptrOfs q % 32 = 0)
     let loaded (disp : Int) (bit : Word → Nat → Bool) (t : State) (k : Nat) (w1 w2 : Word) : Prop :=
       (∀ q, ea w1 (disp + (64 * k : Nat)) = some q → row k ≠ .z → ∀ j < 64, Row.byte (t.core.rowVal (row k) 8 0).bits j =
         if bit w2 j then s.tile.slice.read (ptrOfs q + j) else Row.byte (s.core.rowVal (row k) 8 0).bits j) ∧
       (∀ g, g ≠ row k → t.core.rowVal g 8 0 = s.core.rowVal g 8 0) ∧ (∀ g, t.S g = s.S g) ∧ t.tile = s.tile
     let stored (disp : Int) (bit : Word → Nat → Bool) (t : State) (k : Nat) (w1 w2 : Word) : Prop :=
       (∀ q, ea w1 (disp + (64 * k : Nat)) = some q → ∀ o, t.tile.slice.read o =
         if ptrOfs q ≤ o ∧ o < ptrOfs q + 64 ∧ bit w2 (o - ptrOfs q) = true then Row.byte (s.core.rowVal (row k) 8 0).bits (o - ptrOfs q)
         else s.tile.slice.read o) ∧
       (∀ g, t.S g = s.S g) ∧ t.core.rf = s.core.rf
     row 0 ≠ .ill →
     (s.isFarPtr (s.S a) = false →
       s.iterates (.ldr d a imm pos x) rep 5 (s.S a) 0 (loads imm false) (loaded imm fun _ _ => true)) ∧
     s.iterates (.str d a imm pos x) rep 5 (s.S a) 0 (stores imm false) (stored imm fun _ _ => true) ∧
     (s.sel = .stage →
       (s.isFarPtr (s.S a) = false →
         s.iterates (.lds d a b pos x) rep 5 (s.S a) (s.S b) (loads 0 true) (loaded 0 fun w j => w.getLsbD j)) ∧
       s.iterates (.sts d a b pos x) rep 5 (s.S a) (s.S b) (stores 0 true) (stored 0 fun w j => w.getLsbD j))) ∧
  (∀ (s : State) (d : RCode) (a b : SReg) (rep : Rep) (t : Fin 4) (base : Fin 16) (bank : Bool) (x : Option Xsc) (n : Nat) (h : Placed),
     let row (k : Nat) : RowSel := rowSel s.sel d base bank k
     let sent (ring : Bool) (w : Word) : Prop := s.orderReady x = true ∧ rankOf (w.truncate 32) s.tile.placement 0 = some (n, h) ∧
       if ring then w >>> 41 = 0 ∧ (w >>> 32) &&& 15 = 0 else w >>> 42 = 0 ∧ (w >>> 38) &&& 7 = 0
     s.sel = .stage → s.linkFree → s.tile.plCache.contains n = true → row 0 ≠ .ill →
     s.iterates (.sendS a b rep x) rep 5 (s.S a) (s.S b) (fun _ w _ => sent false w)
       (fun u _ w v => s.injected u h w x .scalar ((leBytes 8 v.toNat).map fun b => (b, false))) ∧
     s.iterates (.sendH a rep x) rep 5 (s.S a) 0 (fun _ w _ => sent false w) (fun u _ w _ => s.injected u h w x .header []) ∧
     s.iterates (.sendR d a b { rep := rep, base := base, bank := bank } x) rep 5 (s.S a) (s.S b)
       (fun k w _ => sent false w ∧ row k ≠ .ill ∧ row k ≠ .rgf)
       (fun u k w v => s.injected u h w x .row
         (if row k = .bc then ({ bits := broadcast 8 v } : RowVal) else s.core.rowVal (row k) 8 b).bytes) ∧
     s.iterates (.sendT t a rep x) rep 5 (s.S a) 0 (fun _ w _ => sent true w)
       (fun u _ w _ => s.injected u h w x .tileToRing (s.core.T t.val).bytes)) ∧
  (∀ (s : State) (h : Ring) (rep : Rep) (t : Option (Fin 4)) (q : TReg) (w : Fin 16), s.tile.flips = [] → s.tile.leaseDir = [] →
     let g := s.tile.rings[h]
     let same (u : State) : Prop := (∀ x, u.S x = s.S x) ∧ u.tile.slice = s.tile.slice ∧ ∀ x, x ≠ h → u.tile.rings[x] = s.tile.rings[x]
     (s.sel = .stage → s.iterates (.rpsh t h rep) rep 5 0 0
       (fun _ _ _ => s.core.acquiring = false ∧ (s.core.rpsh.filter (·.ring == h)).length < g.nslot.toNat - g.fill.toNat)
       (fun u _ _ _ => same u ∧ u.tile.rings[h] = g ∧ u.core.rf = s.core.rf ∧
         let bytes := match t with | some t => (s.core.T t.val).bytes | none => []
         u.core.rpsh = s.core.rpsh ++ [⟨h, (g.tail.toNat + (s.core.rpsh.filter (·.ring == h)).length) % g.nslot.toNat, bytes⟩])) ∧
     (s.sel = .comp → s.tile.poison = [] → s.iterates (.rtak (some q) h rep w) rep 2 (BitVec.ofNat 64 h.val) 0
       (fun _ _ _ => s.core.acquiring = false ∧ g.nslot ≠ 0 ∧ g.held = 0 ∧ Nat.max w.val 1 ≤ g.fill.toNat)
       (fun u _ _ _ => same u ∧ u.tile.rings[h] = g.pop 1 ∧ (∀ x, x ≠ q.val → u.core.T x = s.core.T x) ∧
         ∀ j < 1024, ((u.core.T q.val).bytes[j]?).map (·.1) = some (s.tile.slice.read (g.at 0 + j))))) ∧
  ∀ (s : State) (d : AccR) (a b : Ring) (rep : Rep) (wa wb : Fin 16), s.unitFree → s.tile.flips = [] → s.tile.poison = [] →
    s.tile.leaseDir = [] → a ≠ b →
    let m : MatX := { rep := rep, wa := wa, wb := wb }
    let ra := s.tile.rings[a]
    let rb := s.tile.rings[b]
    let old := s.core.acc d.val
    let c := s.repeats rep
    let has (g : RingState) (k n : Nat) : Prop := g.head.toNat < g.nslot.toNat ∧ k + Nat.max n 1 ≤ g.fill.toNat
    let at' (pa pb : Nat) (x y : UnitOp) : Prop := x.ua = 0 ∧ x.ub = 0 ∧ y.ua = pa ∧ y.ub = pb
    let prod (k l : Nat) (i j : Fin 16) : Int := ((List.range 64).map fun e =>
      (s.tile.slice.read (ra.at k + 64 * i.val + e)).toInt * (s.tile.slice.read (rb.at l + 64 * j.val + e)).toInt).sum
    let runs (i : Instr) (pa pb : Nat) (sum : Fin 16 → Fin 16 → Int) : Prop :=
      has ra pa wa.val → has rb pb wb.val → 2 ≤ c → c ≤ 65535 → s.unitRepeats i c (at' pa pb) ∧
        (c = 2 → (∀ i j : Fin 16, (old.elem i.val j.val).2 = false) →
          ∃ v, leads s [i, .unitOperationStart, i, .unitOperationRetire, .unitOperationStart, .unitOperationRetire] v ∧
            v.core.pc = s.core.npc ∧ v.core.rq[(0 : Fin 8)].v = false ∧ v.core.unit.ops = [] ∧ v.popped s a (2 * pa) ∧
            v.popped s b (2 * pb) ∧ (∀ q, v.S q = s.S q) ∧ v.tile.slice = s.tile.slice ∧
            ∀ i j : Fin 16, ((v.core.acc d.val).elem i.val j.val).1 = (sum i j % (2 ^ 32 : Int)).toNat)
    let base (i j : Fin 16) : Int := (old.elem i.val j.val).1
    (∀ i ∈ [Instr.mmaAcc d a b m, .mmaOvw d a b m, .mmaKeepb d a b m, .mmaKeepa d a b m, .mmg d a b m],
      (c = 0 → exec i s = .next s.retire) ∧ (65535 < c → exec i s = .next (s.takeTrap .rgf s.core.pc s.core.pc false))) ∧
    (s.core.sr.fmta = 3 → s.core.sr.fmtb = 3 →
      runs (.mmaAcc d a b m) 1 1 (fun i j => base i j + prod 0 0 i j + prod 1 1 i j) ∧
      runs (.mmaOvw d a b m) 1 1 (fun i j => prod 1 1 i j) ∧
      runs (.mmaKeepb d a b m) 1 0 (fun i j => base i j + prod 0 0 i j + prod 1 0 i j) ∧
      runs (.mmaKeepa d a b m) 0 1 (fun i j => base i j + prod 0 0 i j + prod 0 1 i j) ∧
      (let e (k : Nat) : Nat := s.core.sr.gtb.toNat + 32 * ra.slotNo k
       let g (k : Nat) : Nat := (s.tile.slice.read (e k + 16)).toNat
       s.core.sr.gtb.toNat % 32 = 0 → s.core.sr.gtb.toNat + 32 * ra.nslot.toNat ≤ 0x80000 →
        (∀ k < 2, groupOk (s.tile.slice.readMany (e k) 32) = true) → has ra 1 wa.val → rb.head.toNat < rb.nslot.toNat →
        Nat.max wb.val (g 0) ≤ rb.fill.toNat → g 0 + Nat.max wb.val (g 1) ≤ rb.fill.toNat → 2 ≤ c → c ≤ 65535 →
        s.unitRepeats (.mmg d a b m) c fun x y => at' 1 (g 0) x y ∧ x.nb = g 0 ∧ y.nb = g 1)) ∧
    ∀ keep : Keep, d.val % 2 = 0 →
      let pa := if keep = .both ∨ keep = .aOnly then 1 else 0
      let pb := if keep = .both ∨ keep = .bOnly then 1 else 0
      let neg (mw ovw : Bool) : Prop :=
        kmmaNegative mw ovw (s.core.acc d.val) (s.core.acc (d.val + 1)) (s.tile.bytes (ra.at 0) 1024) (s.tile.bytes (rb.at 0) 1024) = none
      ∀ x ∈ [(Instr.kmmaDwAcc d a b keep m, false, false), (.kmmaDwOvw d a b keep m, false, true), (.kmmaMwAcc d a b keep m, true, false),
          (.kmmaMwOvw d a b keep m, true, true)],
        (c = 0 → exec x.1 s = .next s.retire) ∧ (65535 < c → exec x.1 s = .next (s.takeTrap .rgf s.core.pc s.core.pc false)) ∧
        (neg x.2.1 x.2.2 → has ra pa wa.val → has rb pb wb.val → 2 ≤ c → c ≤ 65535 → s.unitRepeats x.1 c (at' pa pb))

/-- R254, R344: outside a containment region an addition that reads a poisoned half completes, its result half is poisoned and CKI.POI is set
and counted; inside one it unwinds instead, with UCAUSE 1 and UOPC the bundle, and control goes to the region's handler.
The model's choices in it: log entry 7. -/
def Obligations.PoisonIsConsumed : Prop :=
  ∀ (s : State) (d a b : RCode) (x : RowX) (h : Fin 2), s.rowFirst x d → s.rowIn .i32 x b → s.rowNamed x a ≠ .ill → s.rowNamed x a ≠ .rgf →
    (s.core.rowVal (s.rowNamed x a) 4 x.c).bad.getLsbD h.val = true →
    (s.core.frames = [] → ∃ t, exec (.vadd .i32 d a b x) s = .next t ∧ t.core.pc = s.core.npc ∧
      t.tile.cki.getLsbD 0 = true ∧ (t.core.rowVal .l 8 0).bad.getLsbD h.val = true ∧ t.tile.slice = s.tile.slice ∧
      (s.tile.cki.extractLsb' 16 16 ≠ (0xFFFF : BitVec 16) → t.tile.cki.extractLsb' 16 16 = s.tile.cki.extractLsb' 16 16 + 1)) ∧
    (∀ (f : ContFrame) (fs : List ContFrame), s.core.frames = f :: fs → s.core.tr.level = 0 → f.rings = [] →
      ∃ t, exec (.vadd .i32 d a b x) s = .next t ∧ t.core.pc = f.handler.zeroExtend 64 ∧ t.core.frames = fs ∧ t.core.ucause = 1 ∧
        t.core.uopc = s.core.pc.truncate 19 ∧ t.core.regs = f.regs ∧ t.core.live = f.live ∧ t.tile.slice = s.tile.slice ∧
        t.tile.cki.getLsbD 5 = true)

/-- R281-R285: QNT writes the row of codes and the scale word of part p of a tile register, DQN the wide elements of a row of codes, BAQ the
sum of two rows of blocks with its scale word; each on unpoisoned sources of the compute core. The scale of a block is the exponent of its
greatest finite magnitude, held from -127 to 127, and 0 for a block without one; a code is the element over its scale, rounded under R273, and
NaR for a NaN or an infinity; BAQ's elements are the exact sums, and a block with a scale of 0x80 is all NaR. A part outside the tile register takes RGF
with TVA the scale word. -/
def Obligations.NarrowFormsAreConverted : Prop :=
  ∀ (s : State) (f : NarrowSel) (k : RCode) (g : Fin 8) (a b : RCode) (base : Fin 16) (bank : Bool) (c : SReg), s.sel = .comp → s.core.still = true →
    let sel (q : RCode) : RowSel := rowSel s.sel q base bank 0
    let n := tileNo g.val bank
    let ty := NarrowSel.taper f
    let m := NarrowSel.wide f
    let p := (s.S c).toNat % 16
    let room := ty.count * (p + 1) * (m.width / 8) ≤ 1024
    let named (q : RCode) : Prop := sel q ≠ .ill ∧ sel q ≠ .rgf ∧ sel q ≠ .bc
    let q := qntResult f p (s.core.T n).bytes
    let e := dqnElems f (s.S c) (s.core.rowVal (sel k) 8 0)
    let y := baqResult (s.S c) (s.core.rowVal (sel a) 8 0) (s.core.rowVal (sel b) 8 0)
    (named k → ¬ room → exec (.qnt f k g base bank c) s = .next (s.takeTrap .rgf (s.S c) s.core.pc false) ∧
      exec (.dqn f g k base bank c) s = .next (s.takeTrap .rgf (s.S c) s.core.pc false)) ∧
    (named k → room → q.2.2.2 = false → ∃ t, exec (.qnt f k g base bank c) s = .next t ∧ t.core.pc = s.core.npc ∧
      (sel k ≠ .z → t.core.rowVal (sel k) 8 0 = q.1) ∧ t.S c = (if c = 0 then 0 else q.2.1) ∧ (∀ r, r ≠ c → t.S r = s.S r) ∧
      (∀ r, r ≠ sel k → t.core.rowVal r 8 0 = s.core.rowVal r 8 0) ∧ t.tile = s.tile) ∧
    (named k → room → e.all (fun r => !r.2) = true → ∃ t, exec (.dqn f g k base bank c) s = .next t ∧ t.core.pc = s.core.npc ∧
      (∀ j < ty.count, (tileElem (t.core.T n).bytes (m.width / 8) (ty.count * p + j)).1 = ((e[j]?).map fun r => r.1.bits % 2 ^ m.width).getD 0) ∧
      (∀ j, j < ty.count * p ∨ ty.count * (p + 1) ≤ j → j < 1024 / (m.width / 8) →
        (tileElem (t.core.T n).bytes (m.width / 8) j).1 = (tileElem (s.core.T n).bytes (m.width / 8) j).1) ∧
      (∀ r, t.S r = s.S r) ∧ t.tile = s.tile) ∧
    (∀ j < ty.count, ∀ z, ty.decode (bitField (ty.w + 1) (s.core.rowVal (sel k) 8 0).bits j) = z →
      (s.core.rowVal (sel k) 8 0).bad = 0 → scaleByte (s.S c) (j / ty.block) ≠ 0x80 → ∀ r, e[j]? = some r →
        r.1 = if z.isNan then { bits := m.qnan } else m.round .rne (z.dy.scale (scaleInt (scaleByte (s.S c) (j / ty.block))))) ∧
    (let el (j : Nat) : Fp := m.decode (tileElem (s.core.T n).bytes (m.width / 8) (ty.count * p + j)).1
     room → (∀ j < ty.count, (tileElem (s.core.T n).bytes (m.width / 8) (ty.count * p + j)).2 = false) →
      q.1.bad = 0 ∧ q.2.2.2 = false ∧ q.2.1.toNat % 256 = p ∧
      ∀ i < ty.count / ty.block, let sc := scaleInt (scaleByte q.2.1 i)
        scalesBlock sc ty.block (fun l => el (ty.block * i + l)) ∧
        ∀ l < ty.block, bitField (ty.w + 1) q.1.bits (ty.block * i + l) =
          if (el (ty.block * i + l)).isNan || (el (ty.block * i + l)).isInf then 2 ^ ty.w
          else (ty.round ((el (ty.block * i + l)).dy.scale (-sc))).bits) ∧
    (let row (r : RCode) : RowVal := s.core.rowVal (sel r) 8 0
     ∀ i < 2, let sa := scaleByte (s.S c) i
      let sb := scaleByte (s.S c) (i + 2)
      let u (l : Nat) : Fp := t8.decode (bitField 8 (row a).bits (32 * i + l))
      let v (l : Nat) : Fp := t8.decode (bitField 8 (row b).bits (32 * i + l))
      let total (l : Nat) : Fp := if (u l).isNan || (v l).isNan then .nan false else
        Fp.ofDy (((u l).dy.scale (scaleInt sa)).add ((v l).dy.scale (scaleInt sb)))
      let so := scaleByte y.2.1 i
      y.2.1.toNat % 256 = (s.S c).toNat % 256 ∧
      ((row a).bad = 0 → (row b).bad = 0 →
        (sa = 0x80 ∨ sb = 0x80 → so = 0x80 ∧ ∀ l < 32, bitField 8 y.1.bits (32 * i + l) = 0x80) ∧
        (sa ≠ 0x80 → sb ≠ 0x80 → scalesBlock (scaleInt so) 32 total ∧
          ∀ l < 32, bitField 8 y.1.bits (32 * i + l) =
            if (total l).isNan then 0x80 else (t8.round ((total l).dy.scale (-(scaleInt so)))).bits))) ∧
    (named k → named a → named b → y.2.2.2 = false → ∃ t, exec (.baq k a b base bank c) s = .next t ∧ t.core.pc = s.core.npc ∧
      (sel k ≠ .z → t.core.rowVal (sel k) 8 0 = y.1) ∧ t.S c = (if c = 0 then 0 else y.2.1) ∧ (∀ r, r ≠ c → t.S r = s.S r) ∧
      (∀ r, r ≠ sel k → t.core.rowVal r 8 0 = s.core.rowVal r 8 0) ∧ t.tile = s.tile)

/-! ### Rings and the matrix unit (12_matrix) -/

/-- R58, R291-R294: RCFG configures a free ring empty, and takes BND with TVA the word where a field is out of range; RQRY writes the handle
word; RWAIT goes on when the slots are there and nothing is held, else it waits; RADV.tail and RADV.head move TAIL and HEAD past filled or
free slots; RPSH reserves the slot at TAIL and its filling writes the tile register's bytes there; RTAK copies the slot at HEAD into a tile
register and pops it. A ring that is not configured takes BND with TVA its handle word.
The model's choices in it: log entries 3 and 36. -/
def Obligations.RingsMove : Prop :=
  ∀ (s : State) (h : Ring) (n : Fin 128) (d a : SReg) (q : Fin 4) (t : TReg) (w : Fin 16), s.core.still = true → s.tile.flips = [] →
    s.tile.slice.wf = true → s.tile.leaseDir = [] →
    let r := s.tile.rings[h]
    let c := s.S a
    let k := n.val
    let legal := c.toNat < 65536 ∧ 0 < c.toNat / 512 % 128 ∧ c.toNat / 512 % 128 ≤ 64 ∧ c.toNat % 512 + c.toNat / 512 % 128 ≤ 512
    let bnd := s.takeTrap .bnd r.word s.core.pc false
    let same (u : State) : Prop := u.core.pc = s.core.npc ∧ (∀ x, u.S x = s.S x) ∧ u.tile.slice = s.tile.slice ∧
      ∀ g, g ≠ h → u.tile.rings[g] = s.tile.rings[g]
    (¬ legal → exec (.rcfg h a) s = .next (s.takeTrap .bnd c s.core.pc false)) ∧
    (legal → r.held = 0 → s.tile.copy.ringBusy h = false → ∃ u, exec (.rcfg h a) s = .next u ∧ same u ∧
      (u.tile.rings[h]).base.toNat = c.toNat % 512 ∧ (u.tile.rings[h]).nslot.toNat = c.toNat / 512 % 128 ∧ (u.tile.rings[h]).head = 0 ∧
      (u.tile.rings[h]).tail = 0 ∧ (u.tile.rings[h]).fill = 0) ∧
    (r.nslot = 0 → exec (.rqry d h) s = .next bnd ∧ exec (.rwaitFull h n) s = .next bnd ∧ exec (.rwaitFree h n) s = .next bnd) ∧
    (r.nslot ≠ 0 → exec (.rqry d h) s = .next (s.result d r.word)) ∧
    (r.nslot ≠ 0 → r.nslot.toNat < k → exec (.rwaitFull h n) s = .next bnd ∧ exec (.rwaitFree h n) s = .next bnd) ∧
    (r.nslot ≠ 0 → k ≤ r.nslot.toNat →
      (r.held = 0 → k ≤ r.fill.toNat → exec (.rwaitFull h n) s = .next s.retire) ∧
      (r.held ≠ 0 ∨ r.fill.toNat < k → exec (.rwaitFull h n) s = .next s) ∧
      (k ≤ r.nslot.toNat - r.fill.toNat → exec (.rwaitFree h n) s = .next s.retire) ∧
      (r.nslot.toNat - r.fill.toNat < k → exec (.rwaitFree h n) s = .next s) ∧
      (s.sel = .stage → k ≤ r.nslot.toNat - r.fill.toNat → ∃ u, exec (.radvTail h n) s = .next u ∧ same u ∧ u.tile.rings[h] = r.push k) ∧
      (s.sel = .comp → k ≤ r.fill.toNat → (∀ g : Ring, (s.tile.rings[g]).held = 0) → r.head.toNat < r.nslot.toNat →
        ∃ u, exec (.radvHead h n) s = .next u ∧ same u ∧ u.popped s h k)) ∧
    (s.sel = .stage → r.nslot ≠ 0 → 0 < r.nslot.toNat - r.fill.toNat →
      ∃ u v, exec (.rpsh (some q) h .one) s = .next u ∧ same u ∧ u.tile.rings[h] = r ∧ u.core.rpsh.length = 1 ∧
        exec .rpshSlotFilled u = .next v ∧ v.core.rpsh = [] ∧ v.tile.rings[h] = r.push 1 ∧ v.core.pc = s.core.npc ∧
        ∀ o, v.tile.slice.read o =
          if r.slotAt (r.tail.toNat % r.nslot.toNat) ≤ o ∧ o < r.slotAt (r.tail.toNat % r.nslot.toNat) + 1024 then
            (((s.core.T q.val).bytes[o - r.slotAt (r.tail.toNat % r.nslot.toNat)]?).map (·.1)).getD 0
          else s.tile.slice.read o) ∧
    (s.sel = .stage → r.nslot ≠ 0 → 0 < r.nslot.toNat - r.fill.toNat → ∃ u v, exec (.rpsh none h .one) s = .next u ∧ same u ∧
      exec .rpshSlotFilled u = .next v ∧ v.tile.rings[h] = r.push 1 ∧ v.tile.slice = s.tile.slice) ∧
    (s.sel = .comp → r.nslot ≠ 0 → r.held = 0 → Nat.max w.val 1 ≤ r.fill.toNat → s.tile.poison = [] →
      (∃ u, exec (.rtak (some t) h .one w) s = .next u ∧ same u ∧ u.tile.rings[h] = r.pop 1 ∧ (∀ x, x ≠ t.val → u.core.T x = s.core.T x) ∧
        ∀ j < 1024, ((u.core.T t.val).bytes[j]?).map (·.1) = some (s.tile.slice.read (r.at 0 + j))) ∧
      ∃ u, exec (.rtak none h .one w) s = .next u ∧ same u ∧ u.tile.rings[h] = r.pop 1 ∧ u.core.rf = s.core.rf) ∧
    (s.sel = .comp → r.nslot ≠ 0 → r.fill.toNat < Nat.max w.val 1 → exec (.rtak (some t) h .one w) s = .next s)

/-- R276-R279, R298-R304, R311: with two configured rings that hold the slots and unpoisoned data, MMA makes each element of its accumulator the start
value (the old one, or 0 for OVW) plus the products of row i of A with row j of B, group by group in the format's order, with the scales of the
slots; in i8 that is the exact sum modulo 2^32. ACC and OVW pop both slots, KEEPB only A's, KEEPA only B's. MMG multiplies each row of A by the B
slot that the group entry names for it, keeps the rows without one, and pops G slots of B. MMQ into c0 or c4 of a core whose whole quad belongs to
its team issues like an MMA and waits for its quad. When each of the four members has one at the front, all four start; where counts or formats
disagree all four take QTO with MIS. When the bands are done, accumulator d + n of member m has gained the product of m's A slot with member n's
B slot, in every format, all four retire and pop their slots, and each core's joint-operation count goes up by 1. One that has
waited 2^16 cycles takes QTO; a core of another quad takes ILL. -/
def Obligations.MatricesMultiplyAloneAndInQuads : Prop :=
  (∀ (s : State) (d : AccR) (a b : Ring) (m : MatX), s.unitFree → s.tile.flips = [] → s.tile.poison = [] → s.tile.leaseDir = [] → m.rep = .one → a ≠ b →
     let ra := s.tile.rings[a]
     let rb := s.tile.rings[b]
     let fmt := s.core.sr.fmta
     let f := mfmtOf fmt.toNat
     let old := s.core.acc d.val
     let inside (w : Word) (r : RingState) : Prop := f.scaled = true → w.toNat % 128 = 0 ∧ w.toNat + 128 * r.nslot.toNat ≤ 0x80000
     let rowA (i : Nat) : MRow := f.row (s.tile.bytes (ra.at 0 + 64 * i) 64)
     let rowB (g j : Nat) : MRow := f.row (s.tile.bytes (rb.at g + 64 * j) 64)
     let scA (i : Nat) : List (Option Int) := f.scales (s.tile.bytes (s.core.sr.scla.toNat + 128 * ra.slotNo 0) 128) i
     let scB (g j : Nat) : List (Option Int) := f.scales (s.tile.bytes (s.core.sr.sclb.toNat + 128 * rb.slotNo g) 128) j
     let byteA (i k : Nat) : Int := (s.tile.slice.read (ra.at 0 + 64 * i + k)).toInt
     let byteB (j k : Nat) : Int := (s.tile.slice.read (rb.at 0 + 64 * j + k)).toInt
     let gives (v : State) (ovw : Bool) : Prop :=
       (∀ i j : Fin 16, (v.core.acc d.val).elem i.val j.val =
         ((mulElem f ovw (old.elem i.val j.val) (rowA i.val) (rowB 0 j.val) (scA i.val) (scB 0 j.val)).bits % 2 ^ 32, false)) ∧
       (fmt = 3 → ∀ i j : Fin 16, ((v.core.acc d.val).elem i.val j.val).1 =
         (((if ovw then 0 else ((old.elem i.val j.val).1 : Int)) + ((List.range 64).map fun k => byteA i.val k * byteB j.val k).sum) % (2 ^ 32 : Int)).toNat)
     (fmt ≠ s.core.sr.fmtb → s.core.sr.fmta.toNat < 8 → s.core.sr.fmtb.toNat < 8 →
       exec (.mmaAcc d a b m) s = .next (s.takeTrap .ill s.core.pc s.core.pc false)) ∧
     (fmt = s.core.sr.fmtb → fmt.toNat ≤ 3 → ra.head.toNat < ra.nslot.toNat → rb.head.toNat < rb.nslot.toNat → inside s.core.sr.scla ra → inside s.core.sr.sclb rb →
       (∀ i j : Fin 16, (old.elem i.val j.val).2 = false) → Nat.max m.wa.val 1 ≤ ra.fill.toNat → Nat.max m.wb.val 1 ≤ rb.fill.toNat →
       (∃ v, s.unitRuns v (.mmaAcc d a b m) [] [] [d.val] [] ∧ gives v false ∧ v.popped s a 1 ∧ v.popped s b 1) ∧
       (∃ v, s.unitRuns v (.mmaOvw d a b m) [] [] [d.val] [] ∧ gives v true ∧ v.popped s a 1 ∧ v.popped s b 1) ∧
       (∃ v, s.unitRuns v (.mmaKeepb d a b m) [] [] [d.val] [] ∧ gives v false ∧ v.popped s a 1 ∧ v.popped s b 0) ∧
       (∃ v, s.unitRuns v (.mmaKeepa d a b m) [] [] [d.val] [] ∧ gives v false ∧ v.popped s a 0 ∧ v.popped s b 1) ∧
       let e := s.core.sr.gtb.toNat + 32 * ra.slotNo 0
       let g := (s.tile.slice.read (e + 16)).toNat
       let gb (i : Nat) : Nat := (s.tile.slice.read (e + i)).toNat
       (s.core.sr.gtb.toNat % 32 = 0 → s.core.sr.gtb.toNat + 32 * ra.nslot.toNat ≤ 0x80000 → groupOk (s.tile.slice.readMany e 32) = true →
         Nat.max m.wb.val g ≤ rb.fill.toNat →
         ∃ v, s.unitRuns v (.mmg d a b m) [] [] [d.val] [] ∧ v.popped s a 1 ∧ v.popped s b g ∧
           ∀ i j : Fin 16, ((v.core.acc d.val).elem i.val j.val).1 =
             if gb i.val = 0xFF then (old.elem i.val j.val).1
             else (mulElem f false (old.elem i.val j.val) (rowA i.val) (rowB (gb i.val) j.val) (scA i.val) (scB (gb i.val) j.val)).bits % 2 ^ 32))) ∧
  (∀ (s : State) (d : AccR) (a b : Ring) (wa wb : Fin 16), s.sel = .comp →
     let ill := s.takeTrap .ill s.baseWord s.core.pc false
     (¬ ((d = 0 ∨ d = 4) ∧ s.wholeQuad = true ∧ a ≠ b) → exec (.mmq d a b wa wb) s = .next ill) ∧
     (d = 0 ∨ d = 4 → s.wholeQuad = true → a ≠ b → s.core.still = true → s.tile.flips = [] → s.tile.leaseDir = [] →
       s.core.sr.fmta = s.core.sr.fmtb → s.core.sr.fmta.toNat ≤ 3 →
       (s.core.sr.fmta = 1 ∨ s.core.sr.fmta = 2 → ∀ q ∈ [(s.core.sr.scla, a), (s.core.sr.sclb, b)],
         q.1.toNat % 128 = 0 ∧ q.1.toNat + 128 * (s.tile.rings[q.2]).nslot.toNat ≤ 0x80000) → (s.tile.rings[a]).nslot ≠ 0 → (s.tile.rings[b]).nslot ≠ 0 →
       Nat.max wa.val 1 ≤ (s.tile.rings[a]).fill.toNat → Nat.max wb.val 1 ≤ (s.tile.rings[b]).fill.toNat →
       ∃ t u, exec (.mmq d a b wa wb) s = .next t ∧ t.core.pc = s.core.npc ∧ t.core.rq[(0 : Fin 8)].kind = 4 ∧ t.core.unit.ops = [u] ∧
         u.op = .mmq d a b wa wb ∧ u.started = false ∧ u.since = s.cyc ∧ t.core.rf = s.core.rf ∧ t.tile.slice = s.tile.slice ∧
         (t.tile.rings[a]).held = 1 ∧ (t.tile.rings[b]).held = 1 ∧ exec .unitOperationStart t = .next t) ∧
     (∀ us f, s.mmqAll false = some us → (∀ m ∈ us, (s.tileAt m.1).tile.leaseDir = []) →
       us.all (fun m => (s.tileAt m.1).tile.mqn == s.tile.mqn && m.2.fmta == f && m.2.fmtb == f && m.2.step == 0) = true →
       exec .mmqRendezvous s = .next (us.foldl (fun s m => s.atCore m.1 .comp fun s =>
         { (capture s m.2).2 with core := { (capture s m.2).2.core with
             unit := (capture s m.2).2.core.unit.replaceHead { (capture s m.2).1 with started := true } } }) s)) ∧
     (∀ us, s.mmqAll false = some us → (∃ m ∈ us, ∃ m' ∈ us, (s.tileAt m.1).tile.mqn ≠ (s.tileAt m'.1).tile.mqn ∨ m.2.fmta ≠ m'.2.fmta) →
       exec .mmqRendezvous s = .next (us.foldl (fun s m => s.atCore m.1 .comp fun s =>
         s.deferUnit m.2 .qto (BitVec.ofNat 64 ((s.core.opc m.2).toNat + 2 ^ 32 + 2 ^ 63))) s)) ∧
     (∀ us, s.mmqAll true = some us → (∀ m ∈ us, m.2.step = 0) →
       (∀ m ∈ us, (s.compOf m.1).injMat = false) →
       exec .mmqRetireSignal s = .next (us.foldl (fun t m => t.atCore m.1 .comp fun t =>
         endUnit t m.2 (mmqOut (s.compOf m.1) m.2 (us.map (·.2)) 4) fun t dv =>
           let v := retireUnit t m.2 (mmqOut (s.compOf m.1) m.2 (us.map (·.2)) 4) dv
           { v with tile := { v.tile with mqn := v.tile.mqn + 1 } }) s)) ∧
     ∀ u : UnitOp, s.core.unit.ops = [u] → u.op = .mmq d a b wa wb → u.started = false → u.stuck = false → s.core.tr.deferred = none →
       u.since.toNat + 65536 ≤ s.cyc.toNat → ∃ t, exec .mmqTimeout s = .next t ∧ t.core.unit.ops = [{ u with stuck := true }] ∧
         t.core.tr.deferred = some { cause := .qto, va := BitVec.ofNat 64 ((s.core.opc u).toNat + 2 ^ 32) } ∧
         t.core.rf = s.core.rf ∧ t.core.pc = s.core.pc ∧ t.tile = s.tile) ∧
  ∀ (s : State) (x y : Nat) (d : Fin 4 → AccR) (a b : Fin 4 → Ring) (w : Fin 4 → Fin 16 × Fin 16) (u : Fin 4 → UnitOp) (fmt : Word) (c : BitVec 16),
    let id (m : Fin 4) : TileId := .grid (2 * x + m.val % 2) (2 * y + m.val / 2)
    let f := mfmtOf fmt.toNat
    let tile (m : Fin 4) : Tile := (s.tileAt (id m)).tile
    let core (m : Fin 4) : Core := (s.tileAt (id m)).comp
    let ra (m : Fin 4) : RingState := (tile m).rings[a m]
    let rb (m : Fin 4) : RingState := (tile m).rings[b m]
    (∃ m, s.tile.id = id m) → (s.allTiles.map (·.tile.id)).Nodup → fmt.toNat ≤ 3 →
    (∀ m, a m ≠ b m ∧ (d m = 0 ∨ d m = 4) ∧ (tile m).mqn = c ∧ (tile m).flips = [] ∧ (tile m).poison = [] ∧ (tile m).leaseDir = [] ∧
      (ra m).head.toNat < (ra m).nslot.toNat ∧ (rb m).head.toNat < (rb m).nslot.toNat ∧ (core m).tr.deferred = none ∧
      (core m).injMat = false ∧ (core m).upset = 0 ∧ (∀ n < 8, ∀ i j : Fin 16, (((core m).acc n).elem i.val j.val).2 = false)) →
    (∀ m, (core m).unit.ops = [u m] ∧ (u m).op = .mmq (d m) (a m) (b m) (w m).1 (w m).2 ∧ (u m).started = false ∧ (u m).stuck = false ∧
      (u m).forced = false ∧ (u m).step = 0 ∧ (u m).fmta = fmt ∧ (u m).fmtb = fmt ∧ (u m).ua = 0 ∧ (u m).ub = 0 ∧ (u m).na = 1 ∧ (u m).nb = 1 ∧
      (u m).a = [] ∧ (u m).b = [] ∧ (∀ e ∈ (u m).sca ++ (u m).scb, e.2 = false) ∧ (u m).ent = 0 ∧ ((core m).rq[(0 : Fin 8)]).issuing = false ∧
      ((core m).rq[(0 : Fin 8)]).resume = false) →
    ∃ t v, exec .mmqRendezvous s = .next t ∧ (∀ m, ((t.tileAt (id m)).comp.unit.ops.map fun o => (o.op, o.started)) = [((u m).op, true)]) ∧
      exec .mmqRetireSignal t = .next v ∧ ∀ m,
        let r := v.tileAt (id m)
        r.tile.mqn = c + 1 ∧ r.tile.slice = (tile m).slice ∧ r.comp.unit.ops = [] ∧ r.comp.rq[(0 : Fin 8)].v = false ∧ r.comp.regs = (core m).regs ∧
        (r.tile.rings[a m]).fill.toNat = (ra m).fill.toNat - 1 ∧ (r.tile.rings[b m]).fill.toNat = (rb m).fill.toNat - 1 ∧
        (r.tile.rings[a m]).head.toNat = ((ra m).head.toNat + 1) % (ra m).nslot.toNat ∧
        (r.tile.rings[b m]).head.toNat = ((rb m).head.toNat + 1) % (rb m).nslot.toNat ∧
        (∀ k < 8, (k < (d m).val ∨ (d m).val + 4 ≤ k) → r.comp.acc k = (core m).acc k) ∧
        ∀ (n : Fin 4) (i j : Fin 16),
          let old := ((core m).acc ((d m).val + n.val)).elem i.val j.val
          let new := (r.comp.acc ((d m).val + n.val)).elem i.val j.val
          new = ((mulElem f false old (f.row ((tile m).bytes ((ra m).at 0 + 64 * i.val) 64)) (f.row ((tile n).bytes ((rb n).at 0 + 64 * j.val) 64))
            (f.scales (u m).sca i.val) (f.scales (u n).scb j.val)).bits % 2 ^ 32, false) ∧
          (fmt = 3 → new.1 = (((old.1 : Int) + ((List.range 64).map fun k => ((tile m).slice.read ((ra m).at 0 + 64 * i.val + k)).toInt *
            ((tile n).slice.read ((rb n).at 0 + 64 * j.val + k)).toInt).sum) % (2 ^ 32 : Int)).toNat)


/-- R305, R308, R309, R346: MACZ zeroes an accumulator and its checksums; MACRD writes its elements to a tile register as they are, rounded to
bf16, or quantised to T8 with the scale word in c; MACWR loads one; MTR transposes one with KC and KR exchanged; CHKV and CFIX write the check
word, and CFIX corrects the element that it finds; CSRD writes one checksum with VALID and INT; MWAIT goes on when nothing is pending. -/
def Obligations.AccumulatorsAreReadWrittenChecked : Prop :=
  ∀ (s : State) (d a : AccR) (t : TReg) (c x : SReg) (h : Fin 2) (q : Fin 4), s.unitFree → s.tile.flips = [] →
    let old := s.core.acc a.val
    let cke := s.core.sr.mctl.getLsbD 0
    let k := old.check cke (s.core.sr.tola.toNat % 2 ^ 32) (s.core.sr.tolr.toNat % 2 ^ 32)
    let y := old.checks cke
    let n := (s.S x).toNat % 32
    let lane (v : State) (w r j : Nat) : Nat := bitField w ((((v.core.T t.val).rows[r]?).getD {}).bits) j
    (∃ v, s.unitRuns v (.macz d) [] [] [d.val] [] ∧ v.core.acc d.val = { live := true, valid := cke }) ∧
    ((∀ i j : Fin 16, (old.elem i.val j.val).2 = false) →
      (∃ v, s.unitRuns v (.macrdF32 t a) [] [t.val] [] [] ∧ ∀ i j : Fin 16, lane v 32 i.val j.val = (old.elem i.val j.val).1) ∧
      (∃ v, s.unitRuns v (.macrdBf16 t h a) [] [t.val] [] [] ∧
        (∀ i j : Fin 16, lane v 16 (8 * h.val + i.val / 2) (16 * (i.val % 2) + j.val) =
          (f32.convert bf16 .rne (old.elem i.val j.val).1).bits % 2 ^ 16) ∧
        ∀ r : Fin 16, r.val / 8 ≠ h.val → (v.core.T t.val).row r = (s.core.T t.val).row r) ∧
      (∃ v, s.unitRuns v (.macrdT8 t q a c) [c] [t.val] [] [] ∧
        (∀ (r : Fin 4) (j : Fin 64) l e, old.toT8.1[r.val]? = some l → l[j.val]? = some e → lane v 8 (4 * q.val + r.val) j.val = e.1.bits % 2 ^ 8) ∧
        (∀ r : Fin 16, r.val / 4 ≠ q.val → (v.core.T t.val).row r = (s.core.T t.val).row r) ∧
        (c ≠ 0 → ∀ j < 8, ∀ e, old.toT8.2.1[j]? = some e → (v.S c).toNat / 2 ^ (8 * j) % 256 = (e % 256).toNat))) ∧
    (∃ v, s.unitRuns v (.macwr d t) [] [] [d.val] [] ∧ (v.core.acc d.val).valid = false ∧
      (∀ i j : Fin 16, ((v.core.acc d.val).elem i.val j.val).1 = bitField 32 ((s.core.T t.val).row i).bits j.val)) ∧
    (∃ v, s.unitRuns v (.mtr d a) [] [] [d.val] [] ∧ (v.core.acc d.val).kc = y.kr ∧ (v.core.acc d.val).kr = y.kc ∧
      (v.core.acc d.val).valid = y.valid ∧ ∀ i j : Fin 16, ((v.core.acc d.val).elem i.val j.val).1 = (old.elem j.val i.val).1) ∧
    (k.poi = false →
      (∃ v, s.unitRuns v (.chkv c a) [c] [] [] [] ∧ v.S c = if c = 0 then 0 else k.word) ∧
      (∃ v, s.unitRuns v (.cfix c a) [c] [] [a.val] [] ∧ (v.S c = if c = 0 then 0 else k.word) ∧
        (k.fix = none → v.core.acc a.val = old) ∧
        ∀ i j b, k.fix = some (i, j, b) → i < 16 → j < 16 → ∀ i' j' : Fin 16, ((v.core.acc a.val).elem i'.val j'.val).1 =
          if i'.val = i ∧ j'.val = j then b % 2 ^ 32 else (old.elem i'.val j'.val).1)) ∧
    (∃ v, s.unitRuns v (.csrd c a x) [c] [] [] [] ∧ (c ≠ 0 →
      (v.S c).toNat % 2 ^ 32 = (if n < 16 then (y.kc[n]?).getD 0 else (y.kr[n - 16]?).getD 0).toNat ∧
      (v.S c).getLsbD 32 = y.valid ∧ (v.S c).getLsbD 33 = y.int)) ∧
    exec .mwait0 s = .next s.retire ∧ exec .mwait1 s = .next s.retire ∧ exec .mwait2 s = .next s.retire ∧
    exec .mwait3 s = .next s.retire ∧ exec .mwait4 s = .next s.retire ∧ exec .mwait5 s = .next s.retire ∧
    exec .mwait6 s = .next s.retire ∧ exec .mwait7 s = .next s.retire ∧ exec .mwaitAll s = .next s.retire


/-! ### The moment datapath (13_moment) -/

/-- R313-R336: the moment instructions on the compute core. The element-wise forms write the rounded pairs of their formulas over the 16 by 16
elements (ElementFunctionsMeetTheirFormulas says what an element's pair is); KVSUB with a variance below zero takes NVF unless KMODE allows it; KMK makes a register of two planes, KCOL collapses one, KACRD
reads an accumulator pair, KRED sums rows, KMOV copies or transposes; KMODE writes KMD and the correlation it selects; KMMA adds the weighted
moments of its slots to an accumulator pair, in one pass or two, and pops the slots it does not keep; a stop between the passes leaves the
first written, and the entry records pass 1.
The model's choices in it: log entries 20 and 64. -/
def Obligations.MomentsAreComputed : Prop :=
  ∀ (s : State) (d a b : KReg) (t w : TReg) (x y : SReg), s.unitFree → s.tile.flips = [] →
    let rho := s.core.sr.krho.toNat % 2 ^ 32
    let p (i j : Nat) : KPair := (s.core.K a).elem i j
    let q (i j : Nat) : KPair := (s.core.K b).elem i j
    let det (i j : Nat) : Nat × Bool := f32Elem (s.core.T t.val).bytes i j
    let clean (r : List (List KRes)) : Prop := (gridEvents r).poi = false
    let makes (i : Instr) (r : List (List KRes)) : Prop := clean r → ∃ v, s.unitRuns v i [] [] [] [d.val] ∧ v.core.K d = momentReg r
    makes (.kadd d a b) (gridOf fun i j => kAddSub false rho (p i j) (q i j)) ∧
    makes (.ksub d a b) (gridOf fun i j => kAddSub true rho (p i j) (q i j)) ∧
    makes (.kmul d a b) (gridOf fun i j => kMul rho (p i j) (q i j)) ∧
    makes (.kfma d a b) (gridOf fun i j => kFma rho (p i j) (q i j) ((s.core.K d).elem i j)) ∧
    makes (.kaddd d a t) (gridOf fun i j => kAddD (p i j) (det i j).1 (det i j).2) ∧
    makes (.kmuld d a t) (gridOf fun i j => kMulD (p i j) (det i j).1 (det i j).2) ∧
    makes (.kscl d a x) (gridOf fun i j => kMulD (p i j) ((s.S x).toNat % 2 ^ 32) false) ∧
    makes (.knlRelu d a) (gridOf fun i j => kNl .relu (p i j)) ∧
    makes (.knlExp d a) (gridOf fun i j => kNl .exp (p i j)) ∧
    makes (.knlSig d a) (gridOf fun i j => kNl .sig (p i j)) ∧
    makes (.knlSq d a) (gridOf fun i j => kNl .sq (p i j)) ∧
    makes (.knlRcp d a) (gridOf fun i j => kNl .rcp (p i j)) ∧
    makes (.kred d a) (gridOf fun i j =>
      if j == 0 then kRed rho ((upto 16).map fun l => p i l) else { m := 0, v := 0, free := false }) ∧
    (let r := gridOf fun i j => kVsub (p i j) (q i j)
     (firstNeg r = none ∨ s.core.sr.kmd.getLsbD 2 = true → makes (.kvsub d a b) r) ∧
     ∀ i j, firstNeg r = some (i, j) → s.core.sr.kmd.getLsbD 2 = false →
       ∃ t u v, exec (.kvsub d a b) s = .next t ∧ exec .unitOperationStart t = .next u ∧ exec .unitOperationRetire u = .next v ∧
         v.core.rf = s.core.rf ∧ v.core.tr.deferred = some { cause := .nvf, va := unitTva (s.core.pc.truncate 19) i j 0 false }) ∧
    ((∃ v, s.unitRuns v (.kmov d a) [] [] [] [d.val] ∧ ∀ i j : Fin 16, (v.core.K d).raw i.val j.val = (s.core.K a).raw i.val j.val) ∧
      ∃ v, s.unitRuns v (.kmovTr d a) [] [] [] [d.val] ∧ ∀ i j : Fin 16, ((v.core.K d).raw i.val j.val).m = ((s.core.K a).raw j.val i.val).m ∧
        ((v.core.K d).raw i.val j.val).v = ((s.core.K a).raw j.val i.val).v) ∧
    (∀ (g h : Fin 8) (bank : Bool), (∀ i j, (f32Elem (s.core.T (tileNo g.val bank)).bytes i j).2 = false) →
      (∀ i j, (f32Elem (s.core.T (tileNo h.val bank)).bytes i j).2 = false) →
      (∀ i j, negVar (f32Elem (s.core.T (tileNo h.val bank)).bytes i j).1 = false) →
      (∃ v, s.unitRuns v (.kmk d g none bank) [] [] [] [d.val] ∧ v.core.K d = momentReg (gridOf fun i j =>
        { makePair (f32Elem (s.core.T (tileNo g.val bank)).bytes i j).1 0 false true with neg := false })) ∧
      ∃ v, s.unitRuns v (.kmk d g (some h) bank) [] [] [] [d.val] ∧ v.core.K d = momentReg (gridOf fun i j =>
        makePair (f32Elem (s.core.T (tileNo g.val bank)).bytes i j).1 (f32Elem (s.core.T (tileNo h.val bank)).bytes i j).1 false true)) ∧
    (∀ c : AccR, c.val % 2 = 0 → (∀ i j : Fin 16, ((s.core.acc c.val).elem i.val j.val).2 = false ∧
        ((s.core.acc (c.val + 1)).elem i.val j.val).2 = false ∧ negVar ((s.core.acc (c.val + 1)).elem i.val j.val).1 = false) →
      ∃ v, s.unitRuns v (.kacrd d c) [] [] [] [d.val] ∧ v.core.K d = momentReg (gridOf fun i j =>
        makePair ((s.core.acc c.val).elem i j).1 ((s.core.acc (c.val + 1)).elem i j).1 false false)) ∧
    ((∀ i j, (p i j).bad = false) → ∀ (g : Fin 8) (r : RCode) (base : Fin 16) (bank : Bool), rowSel .comp r base bank 0 ≠ .ill →
      rowSel .comp r base bank 0 ≠ .rgf → (s.core.rowVal (rowSel .comp r base bank 0) 4 x).bad = 0 →
      let z (j : Nat) : Nat := bitField 32 (s.core.rowVal (rowSel .comp r base bank 0) 4 x).bits j
      let cols (i : Instr) (n : Nat) (f : Nat → Nat → MElem) : Prop := ∃ v, s.unitRuns v i [] [n] [] [] ∧
        ∀ i j : Fin 16, bitField 32 ((v.core.T n).row i).bits j.val = (f i.val j.val).bits % 2 ^ 32
      cols (.kcolMean t a) t.val (fun i j => kCol .mean (p i j) 0 false) ∧
      cols (.kcolVar t a) t.val (fun i j => kCol .var (p i j) 0 false) ∧
      cols (.kcolSdev t a) t.val (fun i j => kCol .sdev (p i j) 0 false) ∧
      cols (.kcolDraw g a r base bank x) (tileNo g.val bank) (fun i j => kCol .draw (p i j) (z j) false)) ∧
    (8 ≤ (s.S x).toNat → exec (.kmode x y) s = .next (s.takeTrap .bnd (s.S x) s.core.pc false)) ∧
    ((s.S x).toNat < 8 → (s.S x).toNat % 4 = 3 → 0x3F800000 < (s.S y).toNat % 2 ^ 31 → s.core.frames = [] →
      exec (.kmode x y) s = .next (s.takeTrap .nvf (BitVec.ofNat 64 (s.core.pc.toNat % 2 ^ 19 + 2 ^ 34)) s.core.pc false)) ∧
    ((s.S x).toNat < 8 → (s.S x).toNat % 4 = 3 → (s.S y).toNat % 2 ^ 31 ≤ 0x3F800000 → (s.S y).toNat % 2 ^ 32 ≠ 2 ^ 31 →
      ∃ u, exec (.kmode x y) s = .next u ∧ u.core.pc = s.core.npc ∧ u.core.sr.kmd = s.S x ∧
        u.core.sr.krho = BitVec.ofNat 64 ((s.S y).toNat % 2 ^ 32) ∧ (∀ r, u.S r = s.S r) ∧ u.tile = s.tile ∧ u.core.rf = s.core.rf) ∧
    ((s.S x).toNat < 8 → (s.S x).toNat % 4 < 3 → ∃ u, exec (.kmode x y) s = .next u ∧ u.core.pc = s.core.npc ∧ u.core.sr.kmd = s.S x ∧
      u.core.sr.krho = (if (s.S x).toNat % 4 = 0 then 0 else if (s.S x).toNat % 4 = 1 then 0x3F800000 else 0xBF800000) ∧
      (∀ r, u.S r = s.S r) ∧ u.tile = s.tile ∧ u.core.rf = s.core.rf) ∧
    ∀ (c : AccR) (f g : Ring) (keep : Keep) (m : MatX), c.val % 2 = 0 → f ≠ g → m.rep = .one → s.tile.poison = [] → s.tile.leaseDir = [] →
      (s.tile.rings[f]).head.toNat < (s.tile.rings[f]).nslot.toNat → (s.tile.rings[g]).head.toNat < (s.tile.rings[g]).nslot.toNat →
      Nat.max m.wa.val 1 ≤ (s.tile.rings[f]).fill.toNat → Nat.max m.wb.val 1 ≤ (s.tile.rings[g]).fill.toNat →
      let cm := s.core.acc c.val
      let cv := s.core.acc (c.val + 1)
      let sa := s.tile.bytes ((s.tile.rings[f]).at 0) 1024
      let sb := s.tile.bytes ((s.tile.rings[g]).at 0) 1024
      let gone (v : State) : Prop := v.popped s f (if keep = .both ∨ keep = .aOnly then 1 else 0) ∧
        v.popped s g (if keep = .both ∨ keep = .bOnly then 1 else 0)
      let pair (v : State) (r : List (List KRes)) : Prop := ∀ (i j : Fin 16) (l : List KRes) (e : KRes), r[i.val]? = some l → l[j.val]? = some e →
        ((v.core.acc c.val).elem i.val j.val).1 = e.m % 2 ^ 32 ∧ ((v.core.acc (c.val + 1)).elem i.val j.val).1 = e.v % 2 ^ 32
      (∀ i j : Fin 16, (cm.elem i.val j.val).2 = false ∧ (cv.elem i.val j.val).2 = false) →
      (kmmaNegative false true cm cv sa sb = none → ∃ v, s.unitRuns v (.kmmaDwOvw c f g keep m) [] [] [c.val, c.val + 1] [] ∧ gone v ∧
        pair v (kmmaGrid false true [0, 1] cm cv sa sb)) ∧
      (kmmaNegative false false cm cv sa sb = none → ∃ v, s.unitRuns v (.kmmaDwAcc c f g keep m) [] [] [c.val, c.val + 1] [] ∧ gone v ∧
        pair v (kmmaGrid false false [0, 1] cm cv sa sb)) ∧
      (∀ (ovw : Bool), kmmaNegative true ovw cm cv sa sb = none →
        let i : Instr := if ovw then .kmmaMwOvw c f g keep m else .kmmaMwAcc c f g keep m
        ∃ t u v w, exec i s = .next t ∧ exec .unitOperationStart t = .next u ∧ exec .unitOperationRetire u = .next v ∧
          exec .unitOperationRetire v = .next w ∧ pair v (kmmaGrid true ovw [0] cm cv sa sb) ∧ v.core.rq[(0 : Fin 8)].v = true ∧
          gone w ∧ w.core.rq[(0 : Fin 8)].v = false ∧ w.core.unit.ops = [] ∧ w.core.pc = s.core.npc ∧
          pair w (kmmaGrid true false [1] (v.core.acc c.val) (v.core.acc (c.val + 1)) sa sb) ∧
          ∃ y, exec .unitOperationRetire { u with core := { u.core with stopped := true } } = .next y ∧
            pair y (kmmaGrid true ovw [0] cm cv sa sb) ∧ y.core.unit.ops = [] ∧ y.core.rq[(0 : Fin 8)].v = true ∧
            y.core.rq[(0 : Fin 8)].st = 2 ∧ y.core.rq[(0 : Fin 8)].w3 = 1)

/-- R327, R328: KLD and KST within the own slice at a multiple of 32. KLD.MP32 reads 2,048 bytes, the pairs of row i in order, mean first;
KLD.MB16 1,024, the bf16 means and then the bf16 variances; KST writes the same layouts, MB16 with means rounded to nearest and variances
upward. A KLD that finds a negative variance writes nothing, and NVF waits for the next bundle boundary. -/
def Obligations.MomentRegistersAreLoadedAndStored : Prop :=
  ∀ (s : State) (d : KReg) (a : SReg) (p : Word), s.unitFree → s.core.frames = [] → s.tile.slice.wf = true →
    ea (s.S a) 0 = some p → ptrOfs p % 32 = 0 →
    let k := s.core.K d
    (s.readsHere p 2048 → kldFault true (s.tile.bytes (ptrOfs p) 2048) = none → ∃ t, exec (.kldMp32 d a) s = .next t ∧
      t.core.pc = s.core.npc ∧ (∀ q, q ≠ d → t.core.K q = s.core.K q) ∧ t.core.rq[(0 : Fin 8)].v = false ∧ t.tile.slice = s.tile.slice ∧
      (∀ r, t.S r = s.S r) ∧ ∀ i j : Fin 16, (t.core.K d).raw i.val j.val =
        { m := leNat (s.tile.slice.readMany (ptrOfs p + 128 * i.val + 8 * j.val) 4),
          v := leNat (s.tile.slice.readMany (ptrOfs p + 128 * i.val + 8 * j.val + 4) 4) }) ∧
    (s.readsHere p 1024 → kldFault false (s.tile.bytes (ptrOfs p) 1024) = none → ∃ t, exec (.kldMb16 d a) s = .next t ∧
      t.core.pc = s.core.npc ∧ (∀ q, q ≠ d → t.core.K q = s.core.K q) ∧ t.core.rq[(0 : Fin 8)].v = false ∧ t.tile.slice = s.tile.slice ∧
      ∀ i j : Fin 16, (t.core.K d).raw i.val j.val =
        { m := 65536 * leNat (s.tile.slice.readMany (ptrOfs p + 32 * i.val + 2 * j.val) 2),
          v := 65536 * leNat (s.tile.slice.readMany (ptrOfs p + 512 + 32 * i.val + 2 * j.val) 2) }) ∧
    (∀ i j, s.readsHere p 2048 → kldFault true (s.tile.bytes (ptrOfs p) 2048) = some (i, j) → ∃ t, exec (.kldMp32 d a) s = .next t ∧
      t.core.K d = k ∧ t.core.rq[(0 : Fin 8)].v = true ∧
      t.core.tr.deferred = some { cause := .nvf, va := BitVec.ofNat 64 (s.core.pc.toNat % 2 ^ 19 + 2 ^ 24 * i + 2 ^ 28 * j + 2 ^ 33) }) ∧
    ((∀ i j : Fin 16, (k.raw i.val j.val).bad = false) →
      (s.writesHere p 2048 → ∃ t, exec (.kstMp32 d a) s = .next t ∧ t.core.pc = s.core.npc ∧ t.core.rf = s.core.rf ∧ (∀ r, t.S r = s.S r) ∧
        (∀ i j : Fin 16, leNat (t.tile.slice.readMany (ptrOfs p + 128 * i.val + 8 * j.val) 4) = (k.raw i.val j.val).m ∧
          leNat (t.tile.slice.readMany (ptrOfs p + 128 * i.val + 8 * j.val + 4) 4) = (k.raw i.val j.val).v) ∧
        ∀ o, o < ptrOfs p ∨ ptrOfs p + 2048 ≤ o → t.tile.slice.read o = s.tile.slice.read o) ∧
      (s.writesHere p 1024 → ∃ t, exec (.kstMb16 d a) s = .next t ∧ t.core.pc = s.core.npc ∧ t.core.rf = s.core.rf ∧ (∀ r, t.S r = s.S r) ∧
        (∀ i j : Fin 16, leNat (t.tile.slice.readMany (ptrOfs p + 32 * i.val + 2 * j.val) 2) =
            (Fmt.convert f32 bf16 .rne (k.raw i.val j.val).m).bits % 2 ^ 16 ∧
          leNat (t.tile.slice.readMany (ptrOfs p + 512 + 32 * i.val + 2 * j.val) 2) =
            (Fmt.convert f32 bf16 .rup (k.raw i.val j.val).v).bits % 2 ^ 16) ∧
        ∀ o, o < ptrOfs p ∨ ptrOfs p + 1024 ≤ o → t.tile.slice.read o = s.tile.slice.read o))


/-! ### Traps, state registers, reliability, services (14_reliability, 15_system) -/

/-- R366, R364, R365, R362: a trap with cause c that TVEC does not forward is taken at level n (0 or 1), where TVEC[19] is set: LEVEL becomes
n + 1, the bank of the new level gets the cause (with bit 5 where it was deferred), TPC and TVA, the pc is 2048 * TVEC[18:11] + 1024 * n +
32 * c, SSTEP is cleared, and the scalars, the rows, the entries and the tile stay. At level 2, or with TVEC[19] clear, the context is killed
with reason 1 or 2: its report says which, the core issues nothing more, and the teams of the context stop, to complete with the report; a second
such trap while the kill is in progress stops its core alone. TRAP is the trap SWT with TVA its code and TPC the next bundle. TRET
with nothing of the level pending goes to TPC of its level, one level down, SSTEP from TCA1[8] on a return to level 0; an entry whose result was
captured meanwhile writes it; TRET at level 0 or with an odd TPC takes ILL. R367, R387, R388: a deferred event, a single step and a breakpoint
at level 0 trap at the bundle boundary, a deferred one with bit 5.
The model's choices in it: log entries 7, 8, 10 and 51. -/
def Obligations.TrapsAreTakenAndReturned : Prop :=
  ∀ (s : State), s.core.unit.ops = [] →
    (∀ (c : Cause) (va tpc : Word) (d : Bool), s.forwards c = false → s.core.sr.tvec.getLsbD 19 = true → s.core.tr.level.val < 2 →
      ∃ t, exec (.trapTake c va tpc d) s = .next t ∧ t.core.tr.level.val = s.core.tr.level.val + 1 ∧
        t.core.pc = BitVec.ofNat 64 (2048 * (s.core.sr.tvec.extractLsb' 11 8).toNat + 1024 * s.core.tr.level.val + 32 * causeCode c) ∧
        (s.core.tr.level.val = 0 →
          t.core.tr.tca1 = BitVec.ofNat 64 (causeCode c + if d then 32 else 0) ∧ t.core.tr.tpc1 = tpc ∧ t.core.tr.tva1 = va ∧
          t.core.tr.tca2 = s.core.tr.tca2 ∧ t.core.tr.tpc2 = s.core.tr.tpc2 ∧ t.core.tr.tva2 = s.core.tr.tva2) ∧
        (s.core.tr.level.val = 1 →
          t.core.tr.tca2 = BitVec.ofNat 64 (causeCode c + if d then 32 else 0) ∧ t.core.tr.tpc2 = tpc ∧ t.core.tr.tva2 = va ∧
          t.core.tr.tca1 = s.core.tr.tca1 ∧ t.core.tr.tpc1 = s.core.tr.tpc1 ∧ t.core.tr.tva1 = s.core.tr.tva1) ∧
        t.core.tr.sstep = false ∧ t.core.tr.fwd = s.core.tr.fwd ∧ (∀ r, t.S r = s.S r) ∧ t.core.rf = s.core.rf ∧ t.core.rq = s.core.rq ∧
        t.core.sr = s.core.sr ∧ t.core.frames = s.core.frames ∧ t.tile = s.tile ∧ t.net = s.net ∧ t.ctxs = s.ctxs) ∧
    (∀ (c : Cause) (va tpc : Word) (d : Bool), s.forwards c = false →
      s.core.tr.level.val = 2 ∨ s.core.sr.tvec.getLsbD 19 = false →
      ∃ t, exec (.trapTake c va tpc d) s = .next t ∧ t.core.dead = true ∧
       ((s.ctx s.tile.ctx).killing = true → t.teams = s.teams ∧ t.ctxs = s.ctxs) ∧
       ((s.ctx s.tile.ctx).killing = false → t.killed s.tile.ctx ∧
        (t.ctx s.tile.ctx).killReport.head? = some (BitVec.ofNat 64 (s.tile.ctx + 4096 * (if s.core.tr.level.val = 2 then 1 else 2) +
          65536 * causeCode c + 2 ^ 32 * s.tile.hnd.toNat)) ∧
        (t.ctx s.tile.ctx).killReport[9]? = some tpc ∧ (t.ctx s.tile.ctx).killReport[10]? = some va)) ∧
    (∀ code, exec (.trap code) s = .next (s.takeTrap .swt (BitVec.ofNat 64 code) s.core.npc false)) ∧
    (let tpc := if s.core.tr.level.val = 1 then s.core.tr.tpc1 else s.core.tr.tpc2
     (s.core.tr.level.val = 0 → exec .tret s = .next (s.takeTrap .ill s.core.pc s.core.pc false)) ∧
     (s.core.tr.level.val ≠ 0 → s.core.claims = [] → tpc.getLsbD 0 = true →
       exec .tret s = .next (s.takeTrap .ill s.core.pc s.core.pc false)) ∧
     (s.core.tr.level.val ≠ 0 → tpc.getLsbD 0 = false → (∀ n : Fin 8, s.core.rq[n].v = false) →
       ∃ t, exec .tret s = .next t ∧ t.core.pc = tpc ∧ t.core.tr.level.val = s.core.tr.level.val - 1 ∧
         t.core.tr.sstep = (s.core.tr.level.val == 1 && s.core.tr.tca1.getLsbD 8) ∧
         t.core.tr.tca1 = s.core.tr.tca1 ∧ t.core.tr.tpc1 = s.core.tr.tpc1 ∧ t.core.tr.tpc2 = s.core.tr.tpc2 ∧
         (∀ r, t.S r = s.S r) ∧ t.core.rf = s.core.rf ∧ t.core.sr = s.core.sr ∧ t.tile = s.tile) ∧
     (∀ (n : Fin 8) (d a b : SReg) (k : Nat), s.core.tr.level.val ≠ 0 → tpc.getLsbD 0 = false →
       (∀ m : Fin 8, m ≠ n → s.core.rq[m].v = false) → s.core.rq[n].v = true → s.core.rq[n].lvl.val + 1 = s.core.tr.level.val →
       s.core.rq[n].kind = 1 → s.core.rq[n].st = 1 → s.core.rq[n].next = 0 → s.core.rq[n].count = 1 → s.core.rq[n].buf = [] →
       s.tile.modes.lockstep = false → s.entryOp n = (some (.div d a b, k), s) →
       ∃ t, exec .tret s = .next t ∧ t.core.rq[n].v = false ∧ t.S d = (if d = 0 then 0 else s.core.rq[n].w3) ∧
         (∀ r, r ≠ d → t.S r = s.S r) ∧ t.core.pc = tpc ∧ t.tile = s.tile)) ∧
    (∀ x, s.core.tr.deferred = some x → s.core.frames = [] →
      exec .deferredEvent s =
        .next (State.takeTrap { s with core := { s.core with tr := { s.core.tr with deferred := none } } } x.cause x.va s.core.pc true)) ∧
    (s.core.tr.level.val = 0 →
      (s.core.tr.sstep = true → s.core.issued = true → exec .singleStep s = .next (State.takeTrap
        { s with core := { s.core with tr := { s.core.tr with sstep := false } } } .brk s.core.pc s.core.pc true)) ∧
      (s.core.issuing = none → s.core.iabSkip = false →
        (s.core.sr.iab0.getLsbD 19 = true ∧ s.core.pc.toNat = s.core.sr.iab0.toNat % 2 ^ 19) ∨
          (s.core.sr.iab1.getLsbD 19 = true ∧ s.core.pc.toNat = s.core.sr.iab1.toNat % 2 ^ 19) →
        exec .iabHit s = .next (s.takeTrap .brk s.core.pc s.core.pc false)))

/-- R374, R373: a trap that TVEC forwards puts the save area into the core's forwarding slot: the live scalars at 8 * r, the cause at 1E8H, TPC at
1F0H, TVA at 1F8H; the core keeps its pc and level, sends the quay a notice on VC0 and waits. FORWARD_DELIVER takes it as if it were not forwarded, FORWARD_KILL kills the
context, FORWARD_RESUME reloads the scalars and the banked registers from the slot and goes on at FPC. On a core that a stop reached meanwhile all
three wait. R371: at a trap level the entries of the
interrupted levels are read, counted, written and dropped by RPQRD, RPQLEN, RPQWR and RPQDRP; at level 0, and on a write of an entry of the own
level, they take ILL.
The model's choices in it: log entries 9, 11, 26, 29 and 51. -/
def Obligations.ForwardedTrapsAndReplayQueue : Prop :=
  (∀ (s : State) (c : Cause) (va tpc : Word) (d : Bool), s.core.unit.ops = [] → s.forwards c = true →
     ∃ t, exec (.trapTake c va tpc d) s = .next t ∧ t.core.tr.fwd = some { cause := c, pc := tpc, va := va, dfr := d } ∧
       t.core.pc = s.core.pc ∧ t.core.tr.level = s.core.tr.level ∧ (∀ r, t.S r = s.S r) ∧ t.tile = s.tile ∧
       t.slotWord 0x1E8 = BitVec.ofNat 64 (causeCode c) ∧ t.slotWord 0x1F0 = tpc ∧ t.slotWord 0x1F8 = va ∧ t.slotWord 0x1D8 = s.tvecValue ∧
       (∃ p, t.net = s.net ++ [p] ∧ p.vc = 0 ∧ p.dst = .quay s.myRegion ∧ p.body = .ask 12 (BitVec.ofNat 64 (causeCode c)) va) ∧
       (∀ r : SReg, r ≠ 0 → t.slotWord (8 * r.val) = s.S r ∧ (t.slotWord 0).getLsbD r.val = s.core.live.getLsbD r.val)) ∧
  (∀ (s : State) (f : Forwarded), s.core.tr.fwd = some f →
     (s.core.stopped = true →
       exec .forwardDeliver s = .next s ∧ exec .forwardKill s = .next s ∧ exec .forwardResume s = .next s) ∧
     (s.core.stopped = false →
     (s.core.tr.level.val < 2 → s.core.sr.tvec.getLsbD 19 = true →
       ∃ t, exec .forwardDeliver s = .next t ∧ t.core.tr.fwd = none ∧ t.core.tr.level.val = s.core.tr.level.val + 1 ∧
         t.core.pc = BitVec.ofNat 64 (2048 * (s.core.sr.tvec.extractLsb' 11 8).toNat + 1024 * s.core.tr.level.val + 32 * causeCode f.cause) ∧
         (s.core.tr.level.val = 0 →
           t.core.tr.tca1 = BitVec.ofNat 64 (causeCode f.cause + if f.dfr then 32 else 0) ∧ t.core.tr.tpc1 = f.pc ∧ t.core.tr.tva1 = f.va) ∧
         (∀ r, t.S r = s.S r) ∧ t.tile = s.tile) ∧
     ((s.ctx s.tile.ctx).killing = false → ∃ t, exec .forwardKill s = .next t ∧ t.core.dead = true ∧ t.killed s.tile.ctx ∧
       (t.ctx s.tile.ctx).killReport[9]? = some f.pc ∧ (t.ctx s.tile.ctx).killReport[10]? = some f.va) ∧
     ((∀ n : Fin 8, (s.slotWord (0x80 + 32 * n.val)).getLsbD 19 = false) → (s.slotWord 0x1F0).getLsbD 0 = false →
       ∃ t, exec .forwardResume s = .next t ∧ t.core.pc = s.slotWord 0x1F0 ∧ t.core.tr.fwd = none ∧ t.core.tr.level = s.core.tr.level ∧
         (∀ r, t.S r = if r ≠ 0 ∧ (s.slotWord 0).getLsbD r.val = true then s.slotWord (8 * r.val) else 0) ∧
         t.core.sr.conv = s.slotWord 0x1B0 &&& 0xFFFFFFFF ∧ t.core.tr.tpc1 = s.slotWord 0x188 ∧ t.core.tr.tva1 = s.slotWord 0x190 ∧
         t.core.rf = s.core.rf ∧ ∀ n : Fin 8, t.core.rq[n].v = false))) ∧
  (∀ (s : State) (d a b : SReg),
     (s.core.tr.level.val = 0 →
       exec (.rpqrd d a) s = .next (s.takeTrap .ill s.core.pc s.core.pc false) ∧
       exec (.rpqwr a b) s = .next (s.takeTrap .ill s.core.pc s.core.pc false) ∧
       exec (.rpqdrp a) s = .next (s.takeTrap .ill s.core.pc s.core.pc false) ∧
       exec (.rpqlen d) s = .next (s.takeTrap .ill s.core.pc s.core.pc false)) ∧
     (s.core.tr.level.val ≠ 0 → s.core.ready [d, a, b] = true →
       let n : Fin 8 := Fin.ofNat 8 (s.S a).toNat
       let w := (s.S a).toNat / 8 % 4
       let e := s.core.rq[n]
       exec (.rpqrd d a) s = .next (s.result d ((([e.word0, e.w1, e.w2, e.w3][w]?).getD 0) &&& if e.v then allOnes else 0)) ∧
       (∃ t, exec (.rpqlen d) s = .next t ∧ t.core.pc = s.core.npc ∧ (∀ r, r ≠ d → t.S r = s.S r) ∧
         (d ≠ 0 → ∀ k : Fin 8, (t.S d).getLsbD (8 + k.val) = (s.core.rq[k].v && decide (s.core.rq[k].lvl.val < s.core.tr.level.val)))) ∧
       (e.v = true → s.core.tr.level.val ≤ e.lvl.val →
         exec (.rpqwr a b) s = .next (s.takeTrap .ill s.core.pc s.core.pc false) ∧
         exec (.rpqdrp a) s = .next (s.takeTrap .ill s.core.pc s.core.pc false)) ∧
       (e.v = false ∨ e.lvl.val < s.core.tr.level.val →
         (∃ t, exec (.rpqdrp a) s = .next t ∧ t.core.rq[n].v = false ∧ t.core.pc = s.core.npc ∧ (∀ r, t.S r = s.S r) ∧
           t.tile.slice = s.tile.slice ∧ ∀ m : Fin 8, m ≠ n → t.core.rq[m] = s.core.rq[m]) ∧
         (∃ t, exec (.rpqwr a b) s = .next t ∧ t.core.pc = s.core.npc ∧ (∀ r, t.S r = s.S r) ∧ t.tile.slice = s.tile.slice ∧
           (∀ m : Fin 8, m ≠ n → t.core.rq[m] = s.core.rq[m]) ∧
           (w = 1 → t.core.rq[n] = { e with w1 := s.S b }) ∧ (w = 2 → t.core.rq[n] = { e with w2 := s.S b }) ∧
           (w = 3 → t.core.rq[n] = { e with w3 := s.S b }) ∧
           (w = 0 → t.core.rq[n].v = (s.S b).getLsbD 19 ∧ t.core.rq[n].bofs = (s.S b).truncate 19 ∧
             t.core.rq[n].kind = (s.S b).extractLsb' 24 4)))))

/-- R361, R63, R359: SRD reads a state register into a scalar; SWR replaces the writable bits of one and changes no other; a write of a register
that is only read has no effect, a write of an unassigned one takes ILL; registers 64-127 take PRIV without privilege, registers 3-14 take ILL
on the staging core, and an SWR of a number without a register takes ILL in every mode (R40 puts ILL before PRIV). CKI clears the bits that are written as ones (R339), MCTL waits for the matrix unit (R306), TVEC keeps its forwarding bits
where traps are assisted by the host (R364). -/
def Obligations.StateRegistersAreReadAndWritten : Prop :=
  ∀ (s : State) (d : SReg) (n : Fin 256),
    (64 ≤ n.val → n.val ≤ 127 → s.privileged = false →
      exec (.srd d n) s = .next (s.takeTrap .priv s.core.pc s.core.pc false) ∧
      (n.val ≤ 69 → exec (.swr n d) s = .next (s.takeTrap .priv s.core.pc s.core.pc false))) ∧
    (n.val = 15 ∨ (25 ≤ n.val ∧ n.val ≤ 31) ∨ (37 ≤ n.val ∧ n.val ≤ 39) ∨ (43 ≤ n.val ∧ n.val ≤ 63) ∨ 70 ≤ n.val →
      s.srValue n.val = 0 ∧ exec (.swr n d) s = .next (s.takeTrap .ill (s.core.npc - 2) s.core.pc false)) ∧
    (3 ≤ n.val → n.val ≤ 14 → s.sel = .stage →
      exec (.srd d n) s = .next (s.takeTrap .ill (s.core.npc - 2) s.core.pc false) ∧
      exec (.swr n d) s = .next (s.takeTrap .ill (s.core.npc - 2) s.core.pc false)) ∧
    (s.core.ready [d] = true → ¬ (64 ≤ n.val ∧ n.val ≤ 127 ∧ s.privileged = false) → ¬ (3 ≤ n.val ∧ n.val ≤ 14 ∧ s.sel = .stage) →
      (n.val = 3 → s.unitPending none = false) →
      exec (.srd d n) s = .next (s.result d (s.srValue n.val)) ∧
      (∀ m, (n.val, m) ∈ ([(1, 0xFFFFFFFF), (4, 0xFFFFFFFF), (5, 0xFFFFFFFF), (6, 0x7), (7, 0x7), (8, 0x7FFFF), (9, 0x7FFFF), (10, 0x7FFFF),
          (14, 0x3), (18, 0x13F), (19, allOnes), (20, allOnes), (21, 0x3F), (22, allOnes), (23, allOnes), (65, 0xFFFFE), (66, 0xFFFFE),
          (67, 0x1)] : List (Nat × Word)) →
        ∃ t, exec (.swr n d) s = .next t ∧ t.srValue n.val = s.S d &&& m ∧ (∀ k, k ≠ n.val → t.srValue k = s.srValue k) ∧
          t.core.pc = s.core.npc ∧ (∀ r, t.S r = s.S r) ∧ t.core.rf = s.core.rf ∧ t.tile = s.tile) ∧
      (n.val ∈ [0, 11, 12, 17, 24, 32, 33, 34, 35, 36, 40, 41, 42, 64, 68, 69] → exec (.swr n d) s = .next s.retire)) ∧
    (s.core.ready [d] = true →
      (∃ t, exec (.swrCki d) s = .next t ∧ t.srValue 2 = s.srValue 2 &&& ~~~(s.S d &&& 0x3F) ∧
        (∀ k, k ≠ 2 → t.srValue k = s.srValue k) ∧ t.core.pc = s.core.npc ∧ (∀ r, t.S r = s.S r) ∧ t.tile.slice = s.tile.slice) ∧
      (∃ t, exec (.swrTvec d) s = .next t ∧ (s.tile.modes.hostTraps = false → t.srValue 16 = s.S d &&& 0x1FFFE000FF800) ∧
        (s.tile.modes.hostTraps = true → t.core.sr.tvec &&& 0x1FFFE00000000 = s.core.sr.tvec &&& 0x1FFFE00000000 ∧
          t.core.sr.tvec &&& 0xFF800 = s.S d &&& 0xFF800) ∧
        (∀ k, k ≠ 16 → t.srValue k = s.srValue k) ∧ t.core.pc = s.core.npc ∧ (∀ r, t.S r = s.S r) ∧ t.tile = s.tile) ∧
      (s.sel = .comp → s.unitPending none = false →
        (∃ t, exec (.swrMctl d) s = .next t ∧ t.srValue 3 = s.S d &&& 0xFFFFFF03 ∧ (∀ k, k ≠ 3 → t.srValue k = s.srValue k) ∧
          t.core.pc = s.core.npc ∧ (∀ r, t.S r = s.S r) ∧ t.tile = s.tile) ∧
        ∃ t, exec (.swrFfl d) s = .next t ∧ t.srValue 13 = s.S d &&& 0x1F ∧ (∀ k, k ≠ 13 → t.srValue k = s.srValue k) ∧
          t.core.pc = s.core.npc ∧ (∀ r, t.S r = s.S r) ∧ t.tile = s.tile))

/-- R340-R345: CRO opens a containment region with a copy of the scalars, at most four deep, BND where its handler lies outside the slice and ILL
at a trap level; CRC closes the innermost; an event of R344 in a region restores the scalars, drops what is pending, sets UCAUSE and CKI.UNW
and goes to the handler; CHKE reads CKI and clears the bits given. R347, R348: SIG folds a scalar, a row or a tile register into the signature.
R356: INJ without privilege takes PRIV, with a wrong operand BND; it flips an accumulator's bit behind the unit, a stored bit, fails a link, or
makes the next row or matrix result diverge. R125: the scrubber corrects one flipped bit, poisons a sector with two, and goes on; an uncorrectable
error that an edge memory module finds poisons its sector. R351-R353: under
lockstep an error that upsets a copy makes the next comparison of a retirement's effects disagree: where the copies agree again the effects are
committed and CKI.LSM is set; where they do not, the open region unwinds or the kill of the context begins, with reason 3.
The model's choices in it: log entries 7, 44, 51, 67 and 87. -/
def Obligations.ErrorsAreContained : Prop :=
  (∀ (s : State) (imm : Int),
     let target := s.core.pc + BitVec.ofInt 64 (2 * imm)
     (s.core.tr.level.val ≠ 0 → exec (.cro imm) s = .next (s.takeTrap .ill s.core.pc s.core.pc false)) ∧
     (s.core.tr.level.val = 0 → 4 ≤ s.core.frames.length ∨ 0x80000 ≤ target.toNat →
       exec (.cro imm) s = .next (s.takeTrap .bnd target s.core.pc false)) ∧
     (s.core.tr.level.val = 0 → s.core.frames.length < 4 → target.toNat < 0x80000 → s.core.ready scalars = true →
       exec (.cro imm) s = .next (State.retire { s with core := { s.core with frames :=
         { handler := target.truncate 19, regs := s.core.regs, live := s.core.live } :: s.core.frames } })) ∧
     (s.core.tr.level.val ≠ 0 ∨ s.core.frames = [] → exec .crc s = .next (s.takeTrap .ill s.core.pc s.core.pc false)) ∧
     (s.core.tr.level.val = 0 → s.core.frames ≠ [] → s.core.claims = [] → s.core.unit.ops = [] →
       exec .crc s = .next (State.retire { s with core := { s.core with frames := s.core.frames.tail } }))) ∧
  (∀ (s : State) (u : UCause) (f : ContFrame) (fs : List ContFrame), s.core.tr.level.val = 0 → s.core.frames = f :: fs → s.core.rpsh = [] →
     ∃ t, exec (.containmentUnwind u) s = .next t ∧ t.core.pc = f.handler.zeroExtend 64 ∧ t.core.frames = fs ∧
       (∀ r, t.S r = if r ≠ 0 ∧ f.live.getLsbD r.val = true then f.regs[r] else 0) ∧ (∀ n : Fin 8, t.core.rq[n].v = false) ∧
       t.core.unit.ops = [] ∧ t.core.ucause.toNat = (match u with | .poison => 1 | .due => 2 | .nvf => 3 | .lsm => 4) ∧
       t.core.uopc = s.core.pc.truncate 19 ∧ t.tile.cki.getLsbD 5 = true ∧ t.tile.slice = s.tile.slice ∧ t.core.rf = s.core.rf) ∧
  (∀ (s : State) (d a : SReg),
     (s.core.ready [d, a] = true → s.core.claims = [] → s.core.unit.ops = [] →
       ∃ t, exec (.chke d a) s = .next t ∧ t.S d = (if d = 0 then 0 else s.tile.cki) ∧ t.tile.cki = s.tile.cki &&& ~~~(s.S a &&& 0x3F) ∧
         (∀ r, r ≠ d → t.S r = s.S r) ∧ t.core.pc = s.core.npc ∧ t.tile.slice = s.tile.slice) ∧
     (s.core.ready [a] = true →
       exec (.sigS a) s = .next (State.retire { s with core := { s.core with sig := foldSig s.core.sig (s.S a) } })) ∧
     (s.core.ready [d] = true → exec (.sigRd d) s = .next (s.result d s.core.sig)) ∧
     (∀ t : TReg, s.sel = .comp ∨ t.val ≤ 3 → s.core.busyT t.val = false →
       exec (.sigT t) s = .next (State.retire { s with core := { s.core with
         sig := (foldBytes (s.core.T t.val).bytes).foldl foldSig s.core.sig } })) ∧
     (∀ t : TReg, s.sel = .stage → 3 < t.val → exec (.sigT t) s = .next (s.takeTrap .ill (s.core.npc - 2) s.core.pc false)) ∧
     (∀ (k : RCode) (base : Fin 16) (bank : Bool) (q : RowSel), rowSel s.sel k base bank 0 = q → q ≠ .ill → q ≠ .rgf → q ≠ .bc →
       s.core.claims = [] →
       exec (.sigR k base bank) s = .next (State.retire { s with core := { s.core with
         sig := (foldBytes (s.core.rowVal q 8 0).bytes).foldl foldSig s.core.sig } }))) ∧
  (∀ (s : State) (a b : SReg), s.core.ready [a, b] = true →
     let x := (s.S a).toNat
     let y := (s.S b).toNat
     (s.privileged = false → s.tile.modes.testInj = false → exec (.inj a b) s = .next (s.takeTrap .priv s.core.pc s.core.pc false)) ∧
     (s.privileged = true ∨ s.tile.modes.testInj = true →
       (x % 4 = 1 → s.S a &&& 0x7FFFB = s.S a → 72 ≤ y → exec (.inj a b) s = .next (s.takeTrap .bnd (s.S b) s.core.pc false)) ∧
       (x % 4 = 1 → s.S a &&& 0x7FFFB = s.S a → y < 72 →
         ∃ t, exec (.inj a b) s = .next t ∧ t.core.pc = s.core.npc ∧ t.tile.slice = s.tile.slice ∧ (∀ r, t.S r = s.S r) ∧
           ∀ w k, t.tile.flips.contains (w, k) = (s.tile.flips.contains (w, k) != (w == x / 8 && k == y))) ∧
       (x % 4 = 2 → x < 24 → y = 0 →
         ∃ t, exec (.inj a b) s = .next t ∧ t.core.pc = s.core.npc ∧ t.tile.slice = s.tile.slice ∧ (∀ r, t.S r = s.S r) ∧
           s.linkOf (Fin.ofNat 6 (x / 4)) ∈ t.linkFail ∧ ∀ l ∈ s.linkFail, l ∈ t.linkFail) ∧
       (x % 4 = 3 → x < 8 → y = 0 →
         exec (.inj a b) s = .next (State.retire { s with core :=
           if 4 ≤ x then { s.core with injMat := true } else { s.core with injRow := true } })) ∧
       (x % 4 = 0 → s.S a &&& 0xFF1F = s.S a → y < 32 → s.unitFree →
         let d := x / 4 % 8
         let i := x / 256 % 16
         let j := x / 4096 % 16
         ∃ t u v, exec (.inj a b) s = .next t ∧ exec .unitOperationStart t = .next u ∧ exec .unitOperationRetire u = .next v ∧
           t.core.pc = s.core.npc ∧ v.core.unit.ops = [] ∧ (∀ r, v.S r = s.S r) ∧ (∀ n, n ≠ d → v.core.acc n = s.core.acc n) ∧
           ((v.core.acc d).elem i j).1 = Nat.xor ((s.core.acc d).elem i j).1 (2 ^ y) ∧ v.tile.slice = s.tile.slice))) ∧
  (∀ (s : State),
     let w := s.tile.scrubPos.toNat
     let fs := s.tile.flips.filter fun f => f.1 == w
     (fs = [] → exec .scrubTick s = .next { s with tile := { s.tile with scrubPos := s.tile.scrubPos + 1 }, fresh := s.fresh + 1 }) ∧
     (∀ f, fs = [f] →
       ∃ t, exec .scrubTick s = .next t ∧ t.tile.slice = s.tile.slice ∧ t.tile.poison = s.tile.poison ∧
         t.tile.flips = s.tile.flips.filter (fun f => f.1 != w) ∧ t.tile.cki.getLsbD 2 = true ∧ t.tile.scrubPos = s.tile.scrubPos + 1) ∧
     (∀ f g, fs = [f, g] →
       ∃ t, exec .scrubTick s = .next t ∧ t.tile.slice = s.tile.slice ∧ w / 4 ∈ t.tile.poison ∧
         t.tile.flips = s.tile.flips.filter (fun f => f.1 != w) ∧ t.tile.scrubPos = s.tile.scrubPos + 1) ∧
     (∀ (e : ModuleError) (g : Page), (s.ctx e.ctx).page false e.ofs = some g → e.copy = none →
       ∃ t, exec (.scrubModule e) s = .next t ∧ t.tile = s.tile ∧ (t.ctx e.ctx).edge = (s.ctx e.ctx).edge ∧
         ∀ q, q ∈ (t.ctx e.ctx).edgePoison ↔ q ∈ (s.ctx e.ctx).edgePoison ∨ q = e.ofs / 32) ∧
     (∀ b, exec (.lockstepMismatch b) s =
       .next (if s.tile.modes.lockstep then { s with core := { s.core with upset := if b then 2 else 1 } } else s)) ∧
     (s.tile.modes.lockstep = true → ∀ (t : State) (o : BitVec 19), ¬ t.core.frames.length < s.core.frames.length → s.onlyIssued t = false →
       let u := s.compared t o
       (s.core.upset = 0 → u = t) ∧
       (s.core.upset = 1 → u.core = { t.core with upset := 0 } ∧ u.tile.slice = t.tile.slice ∧ u.tile.cki.getLsbD 4 = true ∧ u.net = t.net) ∧
       (s.core.upset = 2 →
         (s.core.inRegion = false → (s.ctx s.tile.ctx).killing = false → u.core.dead = true ∧ u.killed s.tile.ctx ∧
           (u.ctx s.tile.ctx).killReport.head? =
             some (BitVec.ofNat 64 (s.tile.ctx + 4096 * 3 + 65536 * 14 + 2 ^ 32 * s.tile.hnd.toNat))) ∧
         ∀ f fs, s.core.tr.level.val = 0 → s.core.frames = f :: fs → s.core.rpsh = [] →
           u.core.pc = f.handler.zeroExtend 64 ∧ u.core.ucause = 4 ∧ u.core.frames = fs)))

/-- R377, R383: PACK reads what is announced (bit 0 a swap, bit 4 a retirement) and which levels are below a sixteenth of their quotas (bits 1-3);
METR reads what the tile has charged (0-2), the refills (3) and the cycles until the next one (4), and takes BND on a larger selector. R384: QSVC
takes an entry of KIND 7 with s2 and s3 for a request to the quay of the region; the quay's answer writes the status to s1 and the result to s2: OK and the region for a ping, UNKNOWN for
a code without a service, BADARG for a pointer that is not EDGE or a list that is none, DENIED for a core that is not the partition's. R416: MAP of
an unmapped page takes 64 KiB from the reserve, which then read zero, and NOMEM where there is none; UNMAP of a mapped page gives its frames back
and drops it from the micro-TLBs; GROUP answers the number of an agreed group; DEBUG sets or clears the breakpoints of a core. R163: PLQ is
answered with the site of a handle of the partition. R385, R165: a complete request of q4 goes to the quay on VC0, and its answer is two words. R117, R118: a miss asks the
quay of the region for the translation, which is installed among 16, or XLAT is raised. R386: IDLE holds at its bundle until its limit, or an arrival, and then retires.
The model's choices in it: log entries 14, 15, 27, 28, 32, 72, 83, 91 and 92. -/
def Obligations.ServicesAreAnswered : Prop :=
  (∀ (s : State) (d a : SReg), s.core.ready [d, a] = true →
     (∃ v, exec (.pack d) s = .next (s.result d v) ∧ v.toNat < 32 ∧ v.getLsbD 0 = s.core.advisory.getLsbD 0 ∧
       v.getLsbD 4 = s.core.advisory.getLsbD 4 ∧
       ∀ k : Fin 3, v.getLsbD (1 + k.val) = (decide (s.myCtx.quota[k] ≠ 0) && decide (16 * s.myCtx.level[k] < s.myCtx.quota[k]))) ∧
     (∀ k : Fin 3, s.S a = BitVec.ofNat 64 k.val → exec (.metr d a) s = .next (s.result d (BitVec.ofNat 64 s.tile.charged[k]))) ∧
     (s.S a = 3 → exec (.metr d a) s = .next (s.result d (BitVec.ofNat 64 s.tile.refills))) ∧
     (s.S a = 4 → exec (.metr d a) s =
       .next (s.result d ((s.region s.launchQuay).lastRefill + 2097152 - (s.region s.launchQuay).cyc))) ∧
     (4 < (s.S a).toNat → exec (.metr d a) s = .next (s.takeTrap .bnd (s.S a) s.core.pc false))) ∧
  (∀ (s : State) (i : Instr), i ∈ [.qsvcPing, .qsvcMap, .qsvcUnmap, .qsvcGroup, .qsvcYield, .qsvcReport, .qsvcDebug, .qsvcUnknown] →
     s.core.still = true → s.linkFree →
     ∃ t, s.asks t i (Fin.ofNat 13 ((qsvcCode i).getD 7)) (s.S 2) (s.S 3) ∧ t.core.rq[(0 : Fin 8)].op = some i) ∧
  (∀ (s : State) (i : Instr), s.core.still = true → s.quayNear →
     let x := s.S 2
     let y := s.S 3
     let c := s.tile.ctx
     let m := s.myCtx
     let does (st v : Word) (more : State → Prop) : Prop := ∃ t u, exec i s = .next t ∧ exec (.quayResponse 0) t = .next u ∧ u.S 1 = st ∧
       u.S 2 = v ∧ u.core.rq[(0 : Fin 8)].v = false ∧ (∀ r, r ≠ 1 → r ≠ 2 → u.S r = s.S r) ∧ u.core.pc = s.core.npc ∧
       u.tile.slice = s.tile.slice ∧ more u
     let gives (st v : Word) : Prop := does st v fun u => u.ctxs = s.ctxs ∧ u.core.sr = s.core.sr ∧ u.peer = s.peer
     (i = .qsvcPing → gives 0 (BitVec.ofNat 64 s.myRegion)) ∧ (i = .qsvcUnknown → gives 4 0) ∧
     (i = .qsvcMap ∨ i = .qsvcUnmap → ptrSpace x ≠ 2 → gives 3 0) ∧
     (i = .qsvcMap → ptrSpace x = 2 → (m.page false (ptrOfs x)).isSome = true →
       does 0 0 fun u => u.ctx c = m) ∧
     (i = .qsvcMap → ptrSpace x = 2 → s.myCtx.page false (ptrOfs x) = none → s.myCtx.reserve = 0 → gives 2 0) ∧
     (i = .qsvcMap → ptrSpace x = 2 → m.page false (ptrOfs x) = none → m.reserve ≠ 0 → m.edge.wf = true →
       let b := ptrOfs x / 65536 * 65536
       does 0 0 fun u =>
         let n := u.ctx c
         n.reserve + 1 = m.reserve ∧
         (∀ o, o / 65536 = ptrOfs x / 65536 → m.page false o = none →
           ∃ g, n.page false o = some g ∧ g.base = b ∧ g.size = 65536 ∧ g.r = true ∧ g.w = y.getLsbD 0 ∧ g.bad = false) ∧
         (∀ o k, o / 65536 ≠ ptrOfs x / 65536 → n.page k o = m.page k o) ∧
         ∀ a, n.edge.read a = if b ≤ a ∧ a < b + 65536 then 0 else m.edge.read a) ∧
     (i = .qsvcUnmap → ptrSpace x = 2 → s.myCtx.page false (ptrOfs x) = none → gives 0 0) ∧
     (∀ g, i = .qsvcUnmap → ptrSpace x = 2 → m.page false (ptrOfs x) = some g → s.pageInFlight c g = false → m.edge.wf = true →
       does 0 0 fun u =>
         let n := u.ctx c
         n.reserve = m.reserve + g.size / 65536 ∧ n.pages = m.pages.filter (· != g) ∧ g ∉ u.tile.tlb ∧
         (∀ v ∈ u.tiles, v.tile.owned = true → v.tile.ctx = c → g ∉ v.tile.tlb) ∧
         ∀ a, n.edge.read a = if g.base ≤ a ∧ a < g.base + g.size then 0 else m.edge.read a) ∧
     (i = .qsvcGroup → ptrSpace x ≠ 0 → gives 3 0) ∧ (i = .qsvcYield → gives 0 0) ∧ (i = .qsvcReport → gives 0 0) ∧
     (∀ g, i = .qsvcGroup → ptrSpace x = 0 → ptrOfs x % 8 = 0 → s.readsHere x (8 + 8 * g.members.length) →
       (m.groups.filter fun h => h.team == s.tile.ttag && h.agreed) = [g] → 2 ≤ g.members.length → g.members.length ≤ 64 →
       g.own < g.members.length → s.sliceNat x 8 = g.members.length + 256 * g.own →
       (∀ k, ∀ h : k < g.members.length, g.members[k].1 < 2 ^ 32 ∧ (g.members[k].2 < 16 ∨ k = g.own) ∧
         (k = g.own ↔ g.members[k].2 = 0xFFFF) ∧ s.sliceNat (x + BitVec.ofNat 64 (8 + 8 * k)) 8 = g.members[k].1 + 2 ^ 32 * g.members[k].2) →
       gives 0 (BitVec.ofNat 64 g.num)) ∧
     (i = .qsvcDebug → 2 ^ 32 ≤ x.toNat → gives 1 0) ∧
     (∀ h, i = .qsvcDebug → x.toNat < 2 ^ 32 → s.tileOf (x.truncate 32) = some h → s.tileAt h.tile.id = h →
       let k := if y.getLsbD 23 then CoreSel.comp else .stage
       let r := (h.core k).sr
       let set (z : Srs) : Prop := does 0 0 fun u => ((u.tileAt h.tile.id).core k).sr = z ∧ u.ctxs = s.ctxs
       let v : Word := BitVec.ofNat 64 (2 ^ 19 + 2 * ((y.toNat / 2 ^ 5) % 2 ^ 18))
       (y.toNat % 16 = 0 → set { r with iab0 := v }) ∧ (y.toNat % 16 = 1 → set { r with iab1 := v }) ∧
         (y.toNat % 16 = 2 → set { r with iab0 := 0, iab1 := 0 }) ∧ (2 < y.toNat % 16 → gives 3 0)) ∧
     ∀ d a, i = .plq d a →
       ∃ t u, exec i s = .next t ∧ exec (.quayResponse 0) t = .next u ∧
         u.S d = (if d = 0 then 0 else s.siteOfHandle ((s.S a).truncate 32)) ∧ (∀ r, r ≠ d → u.S r = s.S r) ∧
         u.core.rq[(0 : Fin 8)].v = false ∧ u.core.pc = s.core.npc ∧ u.tile.slice = s.tile.slice) ∧
  (∀ (s : State) (h : Word), s.core.still = true → s.quayNear → s.core.q.q4req = [h] → s.core.q.q4resp = [] → s.core.q.q4sent = none →
     h.toNat < 65536 →
     (∃ p, s.q4Send.net = [p] ∧ p.vc = 0 ∧ p.dst = .quay s.myRegion ∧ p.body = .q4 h [] ∧ s.q4Send.core.q.q4req = []) ∧
     (h = 0 → ∃ t, exec .q4RequestService s = .next t ∧ t.core.q.q4req = [] ∧ (∀ r, t.S r = s.S r) ∧ t.tile = s.tile ∧
       t.core.q.q4resp = [BitVec.ofNat 64 (2 ^ 63), BitVec.ofNat 64 s.myRegion]) ∧
     (6 < h.toNat → ∃ t, exec .q4RequestService s = .next t ∧ t.core.q.q4req = [] ∧ (∀ r, t.S r = s.S r) ∧ t.tile = s.tile ∧
       t.core.q.q4resp = [BitVec.ofNat 64 (h.toNat + 65536 * 4 + 2 ^ 63), 0])) ∧
  (∀ (s : State) (va : Word) (w : Bool), s.core.still = true → s.quayNear → s.core.xlatReq = none →
     let t := s.askPage va w
     let pg := s.myCtx.page (ptrSpace va == 4) (ptrOfs va)
     (∃ p, t.net = [p] ∧ p.vc = 0 ∧ p.dst = .quay s.myRegion ∧ p.body = .ask 11 va (if w then 1 else 0)) ∧
     (∀ g, pg = some g → g.bad = false → pageOf (Page.words g) = some g →
       ∃ u, exec .translationResponse t = .next u ∧ u.core.xlatReq = none ∧ u.tile.tlb = (g :: s.tile.tlb.filter (· != g)).take 16 ∧
         u.core.pc = s.core.pc ∧ (∀ r, u.S r = s.S r) ∧ u.tile.slice = s.tile.slice) ∧
     (pg = none → s.core.tr.deferred = none → (s.tile.modes.hostXlat = false ∨ ptrSpace va ≠ 2 ∨ s.myCtx.reserve = 0) → s.forwards .xlat = false → s.core.tr.level.val = 0 → s.core.sr.tvec.getLsbD 19 = true →
       ∃ u, exec .translationResponse t = .next u ∧ u.core.tr.level.val = 1 ∧ u.core.tr.tca1 = 4 ∧ u.core.tr.tpc1 = s.core.pc ∧
         u.core.tr.tva1 = va ∧ (∀ r, u.S r = s.S r) ∧ u.tile.slice = s.tile.slice)) ∧
  ∀ (s : State) (a : SReg), s.core.ready [a] = true →
    let due (l : Word) : Prop := l ≠ 0 ∧ l.toNat ≤ s.cyc.toNat
    (s.core.asleep = none → due (s.S a) → exec (.idle a) s = .next s.retire) ∧
    (s.core.asleep = none → ¬ due (s.S a) →
      exec (.idle a) s = .next { s with core := { s.core with asleep := some (s.S a, s.wakeCounts) } }) ∧
    ∀ l old, s.core.asleep = some (l, old) →
      (due l ∨ old.take 20 ≠ s.wakeCounts.take 20 →
        exec (.idle a) s = .next (State.retire { s with core := { s.core with asleep := none } }) ∧
        exec .idleWake s = .next (State.retire { s with core := { s.core with asleep := none } })) ∧
      (¬ due l → old = s.wakeCounts → exec (.idle a) s = .next s ∧ exec .idleWake s = .next s)

/-- R379, R380: CTXSV, in a privileged core at trap level 0 without open regions and with nothing in flight, stores the image of the core at a
LOCAL pointer that is a multiple of 32 and writes its length to d; every other byte of memory and every other register stays. CTXLD reads such an
image: the scalars that its live mask names come from its first section, and every other scalar is dead; a header of another form, core or length
takes BND. Without privilege both take PRIV, at a trap level or in a region ILL.
The model's choices in it: log entries 7, 24 and 25. -/
def Obligations.CoreImagesAreSavedAndLoaded : Prop :=
  ∀ (s : State) (d a : SReg) (p : Word),
    (s.privileged = false →
      exec (.ctxsv d a) s = .next (s.takeTrap .priv s.core.pc s.core.pc false) ∧
      exec (.ctxld a) s = .next (s.takeTrap .priv s.core.pc s.core.pc false)) ∧
    (s.privileged = true → s.core.tr.level.val ≠ 0 ∨ s.core.frames ≠ [] →
      exec (.ctxsv d a) s = .next (s.takeTrap .ill s.core.pc s.core.pc false) ∧
      exec (.ctxld a) s = .next (s.takeTrap .ill s.core.pc s.core.pc false)) ∧
    (s.privileged = true → s.core.tr.level.val = 0 → s.core.frames = [] → s.core.still = true → ea (s.S a) 0 = some p → ptrOfs p % 32 = 0 →
      (let bs := s.core.image s.sel
       s.writesHere p bs.length → s.tile.slice.wf = true →
       ∃ t, exec (.ctxsv d a) s = .next t ∧ t.core.pc = s.core.npc ∧ t.S d = (if d = 0 then 0 else BitVec.ofNat 64 bs.length) ∧
         (∀ r, r ≠ d → t.S r = s.S r) ∧ t.core.rf = s.core.rf ∧ t.core.sr = s.core.sr ∧ t.net = s.net ∧
         ∀ m, t.tile.slice.read m = if ptrOfs p ≤ m then ((bs[m - ptrOfs p]?).map (·.1)).getD (s.tile.slice.read m) else s.tile.slice.read m) ∧
      (s.readsHere p 64 →
       let w := s.sliceNat p 8
       let live := s.sliceNat (p + 8) 8
       let n := w / 2 ^ 32
       let good := w % 65536 = 1 ∧ w / 65536 % 2 = (if s.sel = .comp then 1 else 0) ∧ 192 ≤ n ∧ n ≤ (if s.sel = .comp then 42936 else 4440)
       (¬ good → exec (.ctxld a) s = .next (s.takeTrap .bnd p s.core.pc false)) ∧
       (good → s.readsHere p n →
         ∃ t, exec (.ctxld a) s = .next t ∧ t.core.pc = s.core.npc ∧ t.tile.slice = s.tile.slice ∧ t.net = s.net ∧
           ∀ r : SReg, t.S r = if r ≠ 0 ∧ live.testBit r.val = true then
             (let k := ((List.range r.val).filter fun q => q != 0 && live.testBit q).length
              if 72 + 8 * k ≤ n then s.tile.slice.readWord (ptrOfs p + 64 + 8 * k) else t.S r) else 0)))

/-! ### Failures of the fabric (07_messages) -/

/-- R166, R169, R170, R174-R180, R182-R184, R188: a data answer that reaches its core is taken there. A request on VC0 that has no answer yet is
sent again. A packet that ages past 127 is discarded and reported with its sender's handle, a younger one gets older. Fifteen CRC errors of a link within 4,096 cycles and
three replays of a flit are borne, the next error fails the link; a failed link is out of use at both ends and reported on VC0. The quay's detour,
where its escape dependencies form no cycle, goes to the routers on VC7; when the last entry is written the route generation rises, and a resend
notice goes to every tile of a team, whose core then sends its older packets again; without a detour the contexts that are cut are killed, unless the
host computes detours. A packet for a tile outside its partition's quarters is discarded at the firewall, counted, and answered with reject. The
retirement of a free site asserts the hawser, makes the site dead, or withdraws it where its column has no spare, raises the generation, releases the
hawser and ends when the notices have arrived; another waits for its end. A packet for a team that is swapped out goes to its spill queue and is
acknowledged.
The model's choices in it: log entries 33, 34, 37, 51, 54, 55, 79, 90 and 97. -/
def Obligations.FabricFailuresAreHandled : Prop :=
  (∀ (s : State) (p : Packet) (pos : Nat) (bs : List PByte), s.answerComes p → p.body = .data pos bs →
     exec (.remoteResponse p) s = .next (State.response { s with net := s.net.erase p } p)) ∧
  (∀ (s : State) (n : Fin 8),
     (s.hawser = true → exec (.vc0RequestRetry n) s = .next s) ∧
     (s.hawser = false → ∃ t, exec (.vc0RequestRetry n) s = .next t ∧ t.core = s.core ∧ t.tile = s.tile ∧ (∀ q ∈ s.net, q ∈ t.net) ∧
       ∀ q ∈ s.core.link.vc0, q.ent = n.val → q ∈ t.net)) ∧
  (∀ (s : State) (k : Nat) (p : Packet), s.net[k]? = some p →
     (s.hawser = true → exec (.packetAgeTick k) s = .next s) ∧
     (s.hawser = false → p.age < 127 →
       exec (.packetAgeTick k) s = .next { s with net := s.net.set k { p with age := p.age + 1 } }) ∧
     (s.hawser = false → 127 ≤ p.age →
       let reg := regionOf (routerOf p.src).1 (routerOf p.src).2
       ∃ t, exec (.packetAgeTick k) s = .next t ∧ t.net = s.net.erase p ∧ t.core = s.core ∧ t.tile.slice = s.tile.slice ∧
         ∃ e, (t.region reg).errLog.getLast? = some e ∧ e.kind = 6 ∧ e.hnd = if p.vc = 2 then p.rhnd else p.shnd)) ∧
  (∀ (s : State) (l : Link),
     (∃ t, exec (.flitCrcError l) s = .next t ∧ t.core = s.core ∧ t.tile.slice = s.tile.slice ∧ (∀ q ∈ s.net, q.trail = [] → q ∈ t.net) ∧
       (s.crcCount l < 15 → s.replaysOf l < 3 → t.linkFail = s.linkFail ∧ t.net = s.net ∧ t.tile = s.tile ∧ t.replaysOf l = s.replaysOf l + 1) ∧
       (15 ≤ s.crcCount l ∨ 3 ≤ s.replaysOf l → l ∈ t.linkFail)) ∧
     (∀ i ∈ [Instr.linkCrcThreshold l, Instr.linkCreditTimeout l],
       ∃ t, exec i s = .next t ∧ t.core = s.core ∧ t.tile.slice = s.tile.slice ∧ (∀ q ∈ s.net, q.trail = [] → q ∈ t.net) ∧ l ∈ t.linkFail ∧
         (∀ y, l ∉ s.linkFail → s.logicalAt l.x l.y = some y →
           ∃ q ∈ t.net, q.vc = 0 ∧ q.src = .tile l.x y ∧ q.dst = .quay (siteRegion l.x l.y) ∧ q.body = .failed l false (s.crcCount l)) ∧
         (∀ o, otherEnd l = some o → o ∈ t.linkFail) ∧ ∀ m ∈ t.linkFail, m ∈ s.linkFail ∨ m = l ∨ otherEnd l = some m) ∧
     (l ∉ s.linkFail → ∀ ws, exec (.failureReport l ws) s = .next s) ∧
     (l ∈ s.linkFail →
       (∀ w : RouterWrite, (s.writeException w).acyclic = true → s.installing = [] →
         let has (t : State) : Prop := t.routeGen = s.routeGen + 1 ∧
           (t.exceptions.find (w.x + 256 * w.y)).map (fun es => es[w.idx]) = some w.entry ∧ t.tile.slice = s.tile.slice ∧
           (∀ r, t.S r = s.S r) ∧ (∀ q ∈ s.net, q ∈ t.net) ∧ t.installing = [] ∧
           ∀ u ∈ s.allTiles, u.tile.owned = true →
             ∃ q ∈ t.net, q.vc = 7 ∧ q.dst = u.tile.id.endpoint ∧ q.body = .resend (s.routeGen + 1)
         ∃ t, exec (.failureReport l (some [w])) s = .next t ∧
           (s.logicalAt w.x w.y = none → has t) ∧
           ∀ y, s.logicalAt w.x w.y = some y →
             t.routeGen = s.routeGen ∧ t.exceptions = s.exceptions ∧ t.core = s.core ∧ t.tile = s.tile ∧ has (t.entryLanded w) ∧
             ∃ q, t.net = s.net ++ [q] ∧ q.vc = 7 ∧ q.src = .quay (siteRegion w.x w.y) ∧ q.dst = .tile w.x y ∧ q.body = .entry w) ∧
       (s.hostDetour = true → exec (.failureReport l none) s = .next s) ∧
       ∀ i, ((∃ ws : List RouterWrite, i = .failureReport l (some ws) ∧ (ws.foldl State.writeException s).acyclic = false) ∨
           (i = .failureReport l none ∧ s.hostDetour = false)) →
         ∃ t, exec i s = .next t ∧ t.routeGen = s.routeGen ∧ t.exceptions = s.exceptions ∧
           ∀ c ∈ s.cutCtxs, (s.ctx c).killing = false → t.killed c)) ∧
  (∀ (s : State) (gen : BitVec 16),
     ∃ t, exec (.resendNotice gen) s = .next t ∧ t.tile = s.tile ∧ (∀ r, t.S r = s.S r) ∧ t.core.rq = s.core.rq ∧ (∀ q ∈ s.net, q ∈ t.net) ∧
       ∀ r ∈ s.core.link.retry, r.wait = false → r.gen ≠ gen → (gen - r.gen).toNat < 32768 → { r.pkt with gen := gen } ∈ t.net) ∧
  (∀ (s : State) (p : Packet) (reg x y : Nat), p ∈ s.net → s.hawser = false → s.meshClear → p.hop = none → p.dst = .tile x y → regionOfEnd p.src ≠ regionOf x y → regionOfEnd p.src ≠ reg →
     1 ≤ p.vc.val → p.vc.val ≤ 6 →
     (quarterOf x y ∈ (s.partOf p.part).quarters → exec (.regionFirewallCheck p reg) s = .next s) ∧
     (quarterOf x y ∉ (s.partOf p.part).quarters →
       ∃ t, exec (.regionFirewallCheck p reg) s = .next t ∧ t.core = s.core ∧ t.tile = s.tile ∧
         (t.region (regionOf x y)).rejects = (s.region (regionOf x y)).rejects + 1 ∧
         ∃ q, t.net = s.net.erase p ++ [q] ∧ q.vc = 2 ∧ q.dst = p.src ∧ q.seq = p.seq ∧ q.avc = p.vc ∧ q.body = .reject)) ∧
  (∀ (s : State) (reg col prow : Nat) (spare : Bool) (ws : List RouterWrite),
     ((col, prow) ∈ (s.region reg).defects ∨ (col, prow) ∈ (s.region reg).lost →
       exec (.tileRetirement reg col prow spare ws) s = .next s) ∧
     (s.retiring ≠ none → (col, prow) ∉ (s.region reg).defects → (col, prow) ∉ (s.region reg).lost →
       exec (.tileRetirement reg col prow spare ws) s =
         .next (if (reg, col, prow) ∈ s.retireNext then s else { s with retireNext := s.retireNext ++ [(reg, col, prow)] })) ∧
     (s.retiring = none → (col, prow) ∉ (s.region reg).lost → (col, prow) ∉ (s.region reg).defects →
       (∀ e ∈ (s.region reg).defects, e.1 = col → e.2 = 16) → s.retireNext = [] → (∀ q ∈ s.net, q.body ≠ .resend (s.routeGen + 1)) →
       (∀ u ∈ s.allTiles, u.tile.owned = false) → s.teams = [] →
       ∃ t, exec (.tileRetirement reg col prow spare ws) s = .next t ∧ t.tile.slice = s.tile.slice ∧ (∀ q ∈ s.net, q ∈ t.net) ∧
         let u := t.retireStep
         let v := u.retireStep
         let w := v.retireStep
         t.hawser = s.hawser ∧ u.hawser = true ∧ v.hawser = true ∧ w.hawser = false ∧ w.retiring ≠ none ∧ w.retireStep.retiring = none ∧
         v.routeGen = s.routeGen + 1 ∧ w.tile.slice = s.tile.slice ∧
         (spare = true → (v.region reg).defects = (s.region reg).defects ++ [(col, prow)]) ∧
         (spare = false → (v.region reg).lost = (s.region reg).lost ++ [(col, prow)] ∧
           ∀ n, s.rowAt reg col prow = some n → (32 * (reg % 8) + col, 32 * (reg / 8) + n) ∈ v.withdrawnTiles))) ∧
  ∀ (s : State) (p : Packet) (x y : Nat) (t : Team), p ∈ s.net → s.hawser = false → p.dst = .tile x y → p.vc = 1 ∨ (3 ≤ p.vc.val ∧ p.vc.val ≤ 6) →
    takesTeam (s.tileAt (.grid x y)).tile p = false → s.team? p.ctx p.ttag = some t → t.phase = .docked ∨ t.phase = .swappingOut →
    (spillBytes t + pktBytes p.body ≤ (s.ctx p.ctx).spillQuota →
      ∃ u q, exec (.spillDivert p) s = .next u ∧
        (∃ t', u.team? p.ctx p.ttag = some t' ∧ t'.spill = t.spill ++ [{ p with taken := if p.taken = 0 then 1 else if p.taken = 3 then 2 else p.taken }] ∧ t'.phase = t.phase) ∧
        u.net = s.net.erase p ++ [q] ∧ q.vc = 2 ∧ q.dst = p.src ∧ q.seq = p.seq ∧ q.avc = p.vc ∧ q.body = .ack false ∧
        u.core = s.core ∧ u.tile = s.tile) ∧
    ((s.ctx p.ctx).spillQuota < spillBytes t + pktBytes p.body →
      ∃ u q, exec (.spillDivert p) s = .next u ∧ u.teams = s.teams ∧ u.net = s.net.erase p ++ [q] ∧ q.vc = 2 ∧ q.dst = p.src ∧ q.seq = p.seq ∧
        q.avc = p.vc ∧ q.body = .retry)

/-! ### Teams, regions and the host (01_machine, 15_system, 16_platform) -/

/-- R29, R30, R410, R31, R375, R376: the launch at the front of a quay's queue is taken: where no rectangle of its shape can ever fit it completes
TOO_LARGE, with a failed predecessor ABANDONED; while a predecessor runs it waits; otherwise a vacant rectangle that the quay chooses becomes its
team: each tile of a rank has its handle, its context and its bytes, and a valid berth 0 of each core holds one start message. The first ENDT lets
the quay send each core a stop on VC7; a core that has it stops at a bundle boundary, after a trap that is due there, with its registers and entries as they are; when all are quiet the launch
completes DONE with CKI and signature of each tile, and the tiles are free; the launch of a team that a kill has stopped completes KILLED, with the
kill report after these words. A team that does not stop in time is killed with its context.
The model's choices in it: log entries 41, 42, 49, 51 and 61. -/
def Obligations.TeamsAreLaunchedAndEnded : Prop :=
  (∀ (s : State) (reg : Nat) (c : PlaceChoice) (q : Queued), (s.region reg).queue = [q] → q.pkt.prio < 4 →
     (∀ f ∈ (s.partOf q.part).finals, f.1 ≠ q.id) →
     let large := s.tooLarge q.part q.pkt
     let completes (st : Nat) : Prop := ∃ t ws, exec (.launchQueueTake reg c) s = .next t ∧ (t.region reg).queue = [] ∧ t.teams = s.teams ∧
       t.completions = s.completions ++ [(s.rpcWords 9 q.part false false q.reqid (8 + 8 * ws.length) 0, st, ws)]
     (large = false → s.predsState q = .waits → exec (.launchQueueTake reg c) s = .next s) ∧
     (large = false → s.predsState q = .failed → completes 3) ∧
     (large = true → completes 4) ∧
     (∀ o, s.predsState q = .ended → large = false → c.origin = some o →
       s.choiceOk q c = true → (s.journalOf reg).records.length < 2 ^ 24 → (s.teams.filter fun t => t.ctx == q.pkt.ctx).length < 4096 →
       (s.ctx q.pkt.ctx).modes.paired = false →
       ∃ t u, exec (.launchQueueTake reg c) s = .next t ∧ (t.region reg).queue = [] ∧ t.teams = s.teams ++ [u] ∧ u.started = true ∧
         u.phase = .resident ∧ u.ctx = q.pkt.ctx ∧ u.tag = c.tag ∧ u.launch = q.id ∧ u.w = q.pkt.w ∧ u.h = q.pkt.h ∧ u.origin = o ∧
         u.handles = c.handles ∧ ∀ n < q.pkt.w * q.pkt.h,
           let v := t.tileAt (.grid (o.1 + n % q.pkt.w) (o.2 + n / q.pkt.w))
           v.tile.owned = true ∧ c.handles[n]? = some v.tile.hnd ∧ v.tile.ctx = q.pkt.ctx ∧ v.tile.ttag = c.tag ∧ v.tile.rank = n ∧
           v.stage.active = false ∧ v.comp.active = false ∧ (∀ r, v.stage.S r = 0 ∧ v.comp.S r = 0) ∧
           (∀ k, ((v.core k).berths[(0 : Fin 16)]).valid = true → ((v.core k).berths[(0 : Fin 16)]).inbox.length = 1) ∧
           ∀ b bs, (q.pkt.image.bytes.filter fun x => x.1 == n) = [(n, b, bs)] → b + bs.length ≤ 0x80000 →
             ∀ j (h : j < bs.length), v.tile.slice.read (b + j) = bs[j])) ∧
  (∀ (s : State) (ctx tag : Nat) (t : Team), s.team? ctx tag = some t →
     (t.endt = true → t.phase = .resident →
       ∃ u, exec (.teamEnd ctx tag) s = .next u ∧ (u.team? ctx tag).map (·.phase) = some .stopping ∧ u.core = s.core ∧ u.tile = s.tile ∧
         ∀ v ∈ s.tilesOf t, ∀ k, ∃ q ∈ u.net, q.vc = 7 ∧ q.dst = v.tile.id.endpoint ∧ q.dcore = k ∧ q.body = .stop) ∧
     (t.phase = .stopping → (∀ v ∈ s.tilesOf t, tileQuiet false v = true) → (∀ f ∈ (s.partOf (s.ctx ctx).part).finals, f.1 ≠ t.launch) →
       let ends (st : Nat) (words : List Word) : Prop := ∃ u ws, exec (.collectorQuiescent ctx tag) s = .next u ∧ u.team? ctx tag = none ∧
         u.completions = s.completions ++ [(s.rpcWords 9 (s.ctx ctx).part false false t.reqid (8 + 8 * (words ++ ws).length) 0, st, words ++ ws)] ∧
         ∀ v ∈ u.allTiles, ¬ (v.tile.owned = true ∧ v.tile.ctx = ctx ∧ v.tile.ttag = tag)
       (t.rep = [] → (s.ctx ctx).modes.paired = false → ends 0 (endWords t (s.tilesOf t))) ∧
       (t.rep ≠ [] → t.dockTiles = [] → (∀ v ∈ s.teams, v.launch = t.launch → v.ctx = ctx ∧ v.tag = tag) →
         ends 5 (endWords t (s.tilesOf t) ++ t.rep))) ∧
     (t.phase = .stopping ∨ t.phase = .swappingOut → (∃ v ∈ s.tilesOf t, v.stage.stopped = false ∨ v.comp.stopped = false) →
       (s.ctx ctx).killing = false → ∃ u, exec (.stopAckTimeout ctx tag) s = .next u ∧ u.killed ctx)) ∧
  ∀ (s : State) (t : Team), s.team? s.tile.ctx s.tile.ttag = some t → t.phase = .stopping ∨ t.phase = .swappingOut → s.tile.owned = true →
    s.core.stopped = false → s.core.rpsh = [] → s.core.unit.ops = [] → s.tile.leases = [] → s.trapDue = false →
    (s.core.stopAsked = false → exec .stopRequest s = .next s) ∧
    (s.core.stopAsked = true → ∃ u, exec .stopRequest s = .next u ∧ u.core.stopped = true ∧ u.core.pc = s.core.pc ∧ (∀ r, u.S r = s.S r) ∧ u.core.rf = s.core.rf ∧
      u.core.rq = s.core.rq ∧ u.tile = s.tile ∧
      (u.team? s.tile.ctx s.tile.ttag).map (·.acks) = some (t.acks ++ [(s.tile.id.xy.1, s.tile.id.xy.2, s.sel)]))

/-- R32, R33, R184, R185, R377, R378, R381-R383, R403: a resident team is swapped out: from then on its tiles turn packets away; when everything
of it is quiet the dock holds its tiles in the order of their ranks and they are free, or, where its dock is lost, the context is killed. Where no bucket of its
context is empty, it comes back to a vacant rectangle in its turn, which is the order in which the teams of a quay and a priority became ready: each core with its registers, and the bytes of the keep regions and rings. An announcement sets PACK's bit on its cores. A refill
gives a context its quotas again, which its tiles count, docked or not, and its quays note; an empty bucket swaps its teams out, unless the host
orders the swaps. The energy of a period is divided, and what cannot be is carried. Every
65,536th record of a journal is signed, and a journal that overflows gets one GAP record.
The model's choices in it: log entries 43, 49, 51, 56, 76 and 95. -/
def Obligations.TeamsAreSwappedAndMetered : Prop :=
  (∀ (s : State) (ctx tag : Nat) (t : Team), s.team? ctx tag = some t →
     (t.phase = .resident → t.endt = false →
       ∃ u, exec (.teamSwapOut ctx tag) s = .next u ∧ (u.team? ctx tag).map (·.phase) = some .swappingOut ∧ u.core = s.core ∧
         (s.tile.owned = true → s.tile.ctx = ctx → s.tile.ttag = tag → u.tile.swapping = true)) ∧
     (t.phase = .swappingOut → (∀ v ∈ s.tilesOf t, tileQuiet true v = true) → s.dockLost ctx = true →
       (s.ctx ctx).killing = false → ∃ u, exec (.collectorQuiescent ctx tag) s = .next u ∧ u.killed ctx) ∧
     (t.phase = .swappingOut → (∀ v ∈ s.tilesOf t, tileQuiet true v = true) → s.dockLost ctx = false →
       ∃ u, exec (.collectorQuiescent ctx tag) s = .next u ∧
         (∃ t', u.team? ctx tag = some t' ∧ t'.phase = .docked ∧ t'.dockTiles = (byRank (s.tilesOf t)).map FullTile.docked) ∧
         ∀ v ∈ u.allTiles, ¬ (v.tile.owned = true ∧ v.tile.ctx = ctx ∧ v.tile.ttag = tag)) ∧
     (∀ c, s.swapTurn t = false → exec (.teamSwapIn ctx tag c) s = .next s) ∧
     (∀ c o, c.origin = some o → t.phase = .docked → (s.ctx ctx).solvent = true → s.swapTurn t = true → s.dockLost ctx = false → t.spill = [] →
       (s.ctx ctx).modes.lockstep = false → c.partners = [] → t.handles.length = t.w * t.h →
       s.fits (s.partOf (s.ctx ctx).part).quarters t.w t.h o.1 o.2 = true → s.vacant t.w t.h o.1 o.2 = true →
       (∀ u ∈ s.teams, u.launch = t.launch → u.tag = tag) → (t.dockTiles.map (·.tile.id)).Nodup →
       ∃ u, exec (.teamSwapIn ctx tag c) s = .next u ∧
         (∃ t', u.team? ctx tag = some t' ∧ t'.phase = .resident ∧ t'.origin = o ∧ t'.dockTiles = []) ∧
         ∀ v ∈ t.dockTiles, ∀ i j, i < t.w → j < t.h → v.tile.id = .grid (t.origin.1 + i) (t.origin.2 + j) →
           (∀ w ∈ t.dockTiles, ∃ a b, a < t.w ∧ b < t.h ∧ w.tile.id = .grid (t.origin.1 + a) (t.origin.2 + b)) →
           (∀ n : Fin 8, v.stage.rq[n].v = false ∧ v.comp.rq[n].v = false) → v.tile.slice.wf = true →
           let v' := u.tileAt (.grid (o.1 + i) (o.2 + j))
           v'.tile.hnd = v.tile.hnd ∧ v'.stage.regs = v.stage.regs ∧ v'.comp.regs = v.comp.regs ∧ v'.comp.rf = v.comp.rf ∧
           v'.stage.pc = v.stage.pc ∧ v'.comp.pc = v.comp.pc ∧ v'.stage.stopped = false ∧ v'.comp.stopped = false ∧
           ∀ a < 0x80000, v.tile.kept a = true → v'.tile.slice.read a = v.tile.slice.read a)) ∧
  (∀ (s : State) (ctx tag : Nat),
     (∃ u, exec (.swapAnnouncement ctx tag) s = .next u ∧ u.tile = s.tile ∧ (∀ r, u.S r = s.S r) ∧
       (s.tile.owned = true → s.tile.ctx = ctx → s.tile.ttag = tag →
         u.core.advisory = s.core.advisory ||| 1 ∧ u.peer.advisory = s.peer.advisory ||| 1)) ∧
     ((s.ctx ctx).exist = true → (∀ t ∈ s.teams, t.ctx = ctx → t.yield = false) →
       ∃ u, exec (.tokenBucketRefill ctx) s = .next u ∧ (u.ctx ctx).level = (s.ctx ctx).quota ∧ (u.ctx ctx).quota = (s.ctx ctx).quota ∧
         u.teams = (s.teams.map fun t => if t.ctx == ctx then
           let ts := t.dockTiles.map fun v => { v with tile := { v.tile with refills := v.tile.refills + 1 } }
           if t.phase == .docked && t.why == 3 then { t with dockTiles := ts, why := 2, readyOrder := (s.region t.quay).cyc.toNat }
           else { t with dockTiles := ts } else t) ∧
         (∀ t ∈ s.teams, t.ctx = ctx → (u.region t.quay).lastRefill = (s.region t.quay).cyc) ∧ u.core = s.core ∧ u.tile.slice = s.tile.slice ∧
         u.tile.refills = s.tile.refills + (if s.tile.owned = true ∧ s.tile.ctx = ctx then 1 else 0)) ∧
     ((s.ctx ctx).solvent = true ∨ (s.ctx ctx).modes.hostSwap = true → exec (.tokenBucketEmpty ctx) s = .next s) ∧
     ((s.ctx ctx).solvent = false → (s.ctx ctx).modes.hostSwap = false →
       ∃ u, exec (.tokenBucketEmpty ctx) s = .next u ∧ u.core = s.core ∧ u.ctxs = s.ctxs ∧
         ∀ t ∈ u.teams, t.ctx = ctx → t.endt = false → t.phase ≠ .resident)) ∧
  (∀ (s : State) (reg uj : Nat),
     ∃ u, exec (.energyMeterPeriod reg uj) s = .next u ∧ (u.region reg).draw = uj ∧ u.core = s.core ∧ u.tile.slice = s.tile.slice ∧
       (u.region reg).energyRest ≤ uj + (s.region reg).energyRest ∧
       ((∀ v ∈ s.allTiles, v.tile.owned = false) → (u.region reg).energyRest = uj + (s.region reg).energyRest)) ∧
  ∀ (s : State) (quay : Nat),
    let j := s.journalOf quay
    (s.hostSigning = false → j.count ≠ 0 → j.count % 65536 = 0 →
      ∃ u, exec (.journalCheckpoint quay) s = .next u ∧ (u.journalOf quay).signed = s.checkpoint quay ++ Config.meterSign (s.checkpoint quay) ∧
        (u.journalOf quay).records = j.records) ∧
    (s.hostSigning = true ∨ j.count % 65536 ≠ 0 → exec (.journalCheckpoint quay) s = .next s) ∧
    (2 ^ 24 + 4096 ≤ j.records.length → j.gap = false →
      ∃ u, exec (.journalGapRecord quay) s = .next u ∧ (u.journalOf quay).gap = true ∧ (u.journalOf quay).records = j.records) ∧
    (j.records.length < 2 ^ 24 + 4096 → exec (.journalGapRecord quay) s = .next s)

/-- R392-R395, R404, R409: a clock changes by one step, gated until its PLL relocks, and not while the
hawser is asserted, when the change waits; above 33 kW the governor lowers the step of a region; a droop
stretches periods by at most half. A regulator that is in tolerance is ON at step 1, one that is not trips; a fault of an ON regulator trips it,
its contexts are killed and its tiles have no state; after cooling it ramps again, or is fenced above three tries; a second in ON clears the tries. A
power cycle leaves what reset leaves. Boot ramps region 0 first; once that is ON and the firmware is good the others ramp one at a time, and then
the mapping is made and RPC opens; without good firmware the module is degraded. A module that fails asks for replacement.
The model's choices in it: log entries 51, 52, 53 and 96. -/
def Obligations.RegionsArePoweredAndClocked : Prop :=
  (∀ (s : State) (n : Nat),
     let r := s.region n
     (r.reg = .on → r.gated = false → s.hawser = true → r.clk < 4 →
       ∃ t, exec (.clockStepChange n true) s = .next t ∧ (t.region n).clk = r.clk ∧ (t.region n).stepAsked = some true ∧ t.core = s.core) ∧
     (r.reg = .on → r.gated = false → s.hawser = false →
       (r.clk < 4 → ∃ t, exec (.clockStepChange n true) s = .next t ∧ (t.region n).clk = r.clk + 1 ∧ (t.region n).gated = true ∧ t.core = s.core) ∧
       (r.clk ≠ 0 → ∃ t, exec (.clockStepChange n false) s = .next t ∧ (t.region n).clk = r.clk - 1 ∧ (t.region n).gated = true ∧
         t.core = s.core) ∧
       (r.clk = 4 → 30000000 ≤ s.power → exec (.clockStepChange n true) s = .next s) ∧
       (5 ≤ r.clk → exec (.clockStepChange n true) s = .next s) ∧ (r.clk = 0 → exec (.clockStepChange n false) s = .next s)) ∧
     (∃ t, exec (.pllRelockDone n) s = .next t ∧ (t.region n).gated = false ∧ (t.region n).clk = r.clk ∧ t.core = s.core ∧ t.tile = s.tile) ∧
     (∀ p, ∃ t, exec (.droopStretch n p) s = .next t ∧ (t.region n).stretch = (if p ≤ 50 then p else 50) ∧ (t.region n).cyc = r.cyc ∧
       t.core = s.core ∧ t.tile = s.tile) ∧
     (r.reg = .ramp →
       (∃ t, exec (.rampInTolerance n) s = .next t ∧ (t.region n).reg = .on ∧ (t.region n).clk = 1 ∧ (t.region n).gated = false ∧
         t.core = s.core) ∧
       ∃ t, exec (.rampTimeout n) s = .next t ∧ (t.region n).reg = .cool ∧ (t.region n).tries = r.tries + 1) ∧
     (r.reg = .on →
       (∃ t, exec (.triesReset n) s = .next t ∧ (t.region n).tries = 0 ∧ (t.region n).reg = .on) ∧
       ∃ t, exec (.regulatorFault n) s = .next t ∧ (t.region n).reg = .cool ∧ (t.region n).tries = r.tries + 1 ∧
         (∀ c ∈ (if n = 0 then s.ctxs.map (·.1) else s.ctxsIn n), (s.ctx c).killing = false → t.killed c) ∧ ∀ v ∈ t.allTiles, v.tile.id.region = n → v.tile.id.isGateway = false → v.tile.owned = false) ∧
     (r.reg = .cool →
       ∃ t, exec (.coolDone n) s = .next t ∧ (t.region n).reg = (if r.tries ≤ 3 then .ramp else .fenced) ∧
         t.replace = (s.replace || decide (3 < r.tries)))) ∧
  (∀ (s : State) (mw : Nat),
     (mw < 32000000 ∨ (mw ≤ 33000000 ∧ s.throttle = false) → exec (.governorTick mw) s = .next { s with power := mw, throttle := false }) ∧
     (33000000 < mw → ∀ r, s.regions = [r] → r.2.reg = .on → r.2.gated = false → s.hawser = false → r.2.clk ≠ 0 →
       ∃ t, exec (.governorTick mw) s = .next t ∧ (t.region r.1).clk = r.2.clk - 1 ∧ (t.region r.1).gated = true ∧ t.throttle = true)) ∧
  (∀ s : State,
     exec .modulePowerCycle s = .next { State.reset with agenda := s.agenda, turn := s.turn, fresh := s.fresh } ∧
     (∀ b, (s.booted = true ∨ s.booting ≠ none ∨ ((s.region 0).reg ≠ .off ∧ (s.region 0).reg ≠ .on) → exec (.moduleBoot b) s = .next s) ∧
       (s.booted = false → s.booting = none → (s.region 0).reg = .off →
         ∃ t, exec (.moduleBoot b) s = .next t ∧ t.booted = false ∧ t.booting = some b ∧ (t.region 0).reg = .ramp ∧ t.core = s.core ∧
           (∀ n, (t.region n).defects = (s.region n).defects ∧ (n ≠ 0 → (t.region n).reg = (s.region n).reg)))) ∧
     ∀ b n, s.booting = some b → (s.region n).reg = .ramp → (s.regions.filter fun r => r.2.reg == .ramp || r.2.reg == .cool) = [(n, s.region n)] →
       n = 0 ∨ (s.region 0).reg = .on → ∃ t, exec (.rampInTolerance n) s = .next t ∧ t.core = s.core ∧
         (b.firmwareOk = false → t.degraded = true ∧ t.booting = none ∧ t.booted = s.booted) ∧
         (b.firmwareOk = true →
           (∀ m < 64, m ≠ n → (s.region m).reg = .off → (∀ k < m, (s.region k).reg ≠ .off) →
             (t.region m).reg = .ramp ∧ t.booting = some b ∧ t.booted = s.booted) ∧
           ((∀ m < 64, (s.region m).reg ≠ .off) → t.booted = true ∧ t.booting = none ∧ t.routeGen = 0 ∧
             (∀ d ∈ b.defects, d.1 < 64 → d.2 ∈ (t.region d.1).defects ∨ d.2 ∈ (t.region d.1).lost) ∧
             (∀ m, ∀ d ∈ (s.region m).defects, d ∈ (t.region m).defects) ∧ (∀ q ∈ s.withdrawn, q ∈ t.withdrawn) ∧
             ∀ q ∈ b.failedQuarters, q ∈ t.withdrawn))) ∧
  ∀ (s : State) (e : Bool) (k : Nat),
    ∃ t, exec (.edgeMemoryModuleFailure e k) s = .next t ∧ t.replace = true ∧ (e, k) ∈ t.failedParts ∧ t.core = s.core ∧ t.tile = s.tile

/-- R396-R401, R368, R403, R405, R406, R390, R413, R219: a frame that is none of this protocol has no effect, one with a bad tag or a stale nonce is
dropped and counted, and one that was answered is answered again; a command that needs the administration key answers AUTH without it; a context of another partition answers NOPART. LAUNCH queues
a launch under a new identifier, or completes at once one that is too large, has a failed predecessor, or comes while its context is being killed; WRITE and READ reach edge memory; the queries tell what the quays hold, with the records of other partitions as
zeros; ALLOCATE grants quarters, makes a context and releases one; STOP kills a context or a team, and is answered when none of its teams is
left; ATTEST and JOURNAL answer signed reports, and a journal's records are gone then, a GAP record of lost charges the last of them. RDMA reads and
writes a partition's window.
The model's choices in it: log entries 48, 50, 51, 57, 58, 59, 60 and 73. -/
def Obligations.HostCommandsAreAnswered : Prop :=
  (∀ (s : State) (f : Frame), frameOk f = false → exec (.queryResidency f) s = .next s) ∧
  (∀ (s : State) (f : Frame), s.booted = true → frameOk f = true → (authentic f = false ∨ s.stale f = true) →
     ∃ t, exec (.queryResidency f) s = .next t ∧ (t.partOf f.part).dropped = (s.partOf f.part).dropped + 1 ∧ t.responses = s.responses) ∧
  (∀ (s : State) (f : Frame) (c : BitVec 64 × RpcFrame), s.booted = true → frameOk f = true → authentic f = true → s.stale f = false →
     (s.partOf f.part).cache.find? (fun c => c.1 == f.reqid) = some c →
     ∃ t, exec (.queryResidency f) s = .next t ∧ t.responses = s.responses ++ [c.2]) ∧
  ∀ (s : State) (f : Frame), s.hears f →
    (∀ pkt : LaunchPacket,
      (s.owns f.part pkt.ctx = false → ∃ t, s.tells t (.launch f pkt) f 1 3 []) ∧
      (s.owns f.part pkt.ctx = true → 63 < pkt.quay ∨ (s.region pkt.quay).reg ≠ .on → ∃ t, s.tells t (.launch f pkt) f 1 4 []) ∧
      (s.owns f.part pkt.ctx = true → pkt.quay ≤ 63 → (s.region pkt.quay).reg = .on → pkt.w % 2 = 0 → pkt.h % 2 = 0 → pkt.w ≠ 0 → pkt.h ≠ 0 →
        pkt.preds.length ≤ 8 → ModuleImageOk pkt.image (pkt.w * pkt.h) = true → (s.ctx pkt.ctx).releasing = [] →
        let large := s.tooLarge f.part pkt
        let fails := s.predsState { id := 0, reqid := f.reqid, part := f.part, pkt := pkt } = .failed
        ∃ t id, s.tells t (.launch f pkt) f 1 0 (leBytes 4 id) ∧
          (large = false → ¬ fails → (s.ctx pkt.ctx).killing = false →
            (t.region pkt.quay).queue = (s.region pkt.quay).queue ++ [{ id := id, reqid := f.reqid, part := f.part, pkt := pkt }]) ∧
          (large = true ∨ fails ∨ (s.ctx pkt.ctx).killing = true → (∀ x ∈ (s.partOf f.part).finals, x.1 ≠ id) →
            ∃ ws, t.completions = s.completions ++ [(s.rpcWords 9 f.part false false f.reqid (8 + 8 * ws.length) 0,
              if large then 4 else if (s.ctx pkt.ctx).killing then 5 else 3, ws)] ∧
              (large = false → (s.ctx pkt.ctx).killing = true → (s.ctx pkt.ctx).killReport <+: ws)))) ∧
    (∀ (ctx off : Nat) (data : List (BitVec 8)), s.owns f.part ctx = true →
      data.length ≤ 1048576 → off + data.length ≤ 2 ^ 56 → ((s.ctx ctx).missing off data.length).length ≤ (s.ctx ctx).reserve →
      (s.ctx ctx).edge.wf = true →
      ∃ t, s.tells t (.write f ctx off data) f 2 0 [] ∧ ∀ j (h : j < data.length), (t.ctx ctx).edge.read (off + j) = data[j]) ∧
    (∀ ctx off len, s.owns f.part ctx = true → len ≤ 1048576 → off + len ≤ 2 ^ 56 → (s.ctx ctx).missing off len = [] →
      (s.ctx ctx).edgePoison = [] →
      ∃ t zs, s.tells t (.read f ctx off len) f 3 0 ((s.ctx ctx).edge.readMany off len ++ zs) ∧ (∀ z ∈ zs, z = 0) ∧ t.ctxs = s.ctxs) ∧
    (∃ t, s.tells t (.queryResidency f) f 4 0 (wordBytes (s.residency f.part)) ∧ t.teams = s.teams ∧ t.ctxs = s.ctxs) ∧
    (∀ ctx, s.owns f.part ctx = true → (∀ t ∈ s.teams, t.ctx ≠ ctx) →
      ∃ t, s.tells t (.queryCounters f ctx) f 4 0 (wordBytes (s.ctx ctx).counters)) ∧
    (∀ reg e, (s.region reg).errLog = [e] →
      ∃ t bs, s.tells t (.queryErrorLog f reg) f 4 0 bs ∧ (e.part = f.part → bs = e.bytes) ∧
        (e.part ≠ f.part → bs = List.replicate e.bytes.length 0)) ∧
    (∀ reg e, (s.region reg).trace = [e] →
      ∃ t bs, s.tells t (.queryTrace f reg) f 4 0 bs ∧ (e.part = f.part → bs = e.bytes) ∧ (e.part ≠ f.part → bs = List.replicate 32 0)) ∧
    (∀ q : QuarterGrant,
      (f.adm = false → ∃ t, s.tells t (.allocateQuarters f q) f 5 2 [] ∧ t.ctxs = s.ctxs) ∧
      (f.adm = true → q.byCount = false → q.windows = [] → q.quotas = [] → q.peers = 0 → q.partition < 64 → s.parts = [] →
        (∀ k ∈ q.quarters, k < 256 ∧ s.usable k = true) →
        ∃ t, s.tells t (.allocateQuarters f q) f 5 0 (q.quarters.map fun k => BitVec.ofNat 8 k) ∧
          (t.partOf q.partition).quarters = q.quarters.eraseDups)) ∧
    (∀ c : CtxRequest,
      (c.modes.sys = true → f.adm = false → ∃ t, s.tells t (.allocateCreateContext f c) f 5 2 [] ∧ t.ctxs = s.ctxs) ∧
      (c.modes.sys = false ∨ f.adm = true → c.number < 4096 → (s.ctx c.number).exist = false →
        ∃ t, s.tells t (.allocateCreateContext f c) f 5 0 (leBytes 2 c.number) ∧ (t.ctx c.number).exist = true ∧
          (t.ctx c.number).part = f.part ∧ (t.ctx c.number).modes = c.modes ∧ (t.ctx c.number).tvec = c.tvec &&& 0x1FFFE000FF800 ∧
          (t.ctx c.number).level = (t.ctx c.number).quota)) ∧
    (∀ ctx, s.owns f.part ctx = true →
      ((∀ t ∈ s.teams, t.ctx ≠ ctx) →
        (∃ t, s.tells t (.allocateReleaseContext f ctx) f 5 0 [] ∧ (t.ctx ctx).exist = false) ∧
        ((∀ c ∈ s.ctxs, c.2.releasing = []) → ∃ t, s.tells t (.stopContext f ctx) f 6 0 [])) ∧
      ((∃ t ∈ s.teams, t.ctx = ctx) →
        (∃ t, exec (.allocateReleaseContext f ctx) s = .next t ∧ t.responses = s.responses ∧ (f.reqid, f.part, f.adm) ∈ (t.ctx ctx).releasing) ∧
        ((∀ c ∈ s.ctxs, c.2.releasing = []) → (s.ctx ctx).killing = false →
          ∃ t, exec (.stopContext f ctx) s = .next t ∧ t.killed ctx ∧
            ((∀ u ∈ t.teams, u.ctx ≠ ctx) → s.tells t (.stopContext f ctx) f 6 0 []) ∧
            ((∃ u ∈ t.teams, u.ctx = ctx) → ({ ctx := ctx, part := f.part, adm := f.adm, reqid := f.reqid } : HeldStop) ∈ t.stops))) ∧
      ∀ tag,
        (s.team? ctx tag = none → ∃ t, s.tells t (.stopTeam f ctx tag) f 6 4 []) ∧
        ∀ u, s.team? ctx tag = some u → (∀ c ∈ s.ctxs, c.2.releasing = []) →
          ∃ t, exec (.stopTeam f ctx tag) s = .next t ∧ (∀ v ∈ t.teams, v.launch = u.launch → v.rep ≠ []) ∧
            (t.ctx ctx).killReport = (s.ctx ctx).killReport ∧ (t.ctx ctx).killing = (s.ctx ctx).killing ∧
            ((∀ v ∈ t.teams, v.ctx = ctx → v.launch ≠ u.launch) → s.tells t (.stopTeam f ctx tag) f 6 0 []) ∧
            ((∃ v ∈ t.teams, v.ctx = ctx ∧ v.launch = u.launch) →
              ({ ctx := ctx, launch := some u.launch, part := f.part, adm := f.adm, reqid := f.reqid } : HeldStop) ∈ t.stops)) ∧
    (f.adm = false → (∀ n, ∃ t, s.tells t (.attest f n) f 7 2 []) ∧ ∀ q, ∃ t, s.tells t (.journal f q) f 8 2 []) ∧
    (f.adm = true →
      (∀ n, ∃ t, s.tells t (.attest f n) f 7 0 (s.attestation n ++ Config.attestSign (s.attestation n))) ∧
      ∀ q, q < 64 →
        let j := s.journalOf q
        ((j.gap = false → j.gapTotals = (0, 0, 0) →
          ∃ t, s.tells t (.journal f q) f 8 0 (s.checkpoint q ++ Config.meterSign (s.checkpoint q) ++ j.records.flatten) ∧
            (t.journalOf q).records = [] ∧ (t.journalOf q).count = j.count) ∧
         (j.gap = true ∨ j.gapTotals ≠ (0, 0, 0) →
          let r := (Config.journalRecord [j.count, 0, 0, 0, j.gapTotals.1, j.gapTotals.2.1, j.gapTotals.2.2, 0, 4]).toList
          ∃ t c, s.tells t (.journal f q) f 8 0 (c ++ Config.meterSign c ++ j.records.flatten ++ r) ∧ (t.journalOf q).records = [] ∧
            (t.journalOf q).count = j.count + 1 ∧ (t.journalOf q).chain = sha256 (j.chain ++ r) ∧ (t.journalOf q).gap = false ∧
            (t.journalOf q).gapTotals = (0, 0, 0)))) ∧
    ∀ part win off eng base n, (s.partOf part).windows[win]? = some (eng, base, n) →
      (∀ bs : List (BitVec 8), off + bs.length ≤ n → (s.partOf part).net.wf = true →
        ∃ t, exec (.hostRdmaOperation part win off (some bs) 0) s = .next t ∧
          ∀ j (h : j < bs.length), (t.partOf part).net.read (base + off + j) = bs[j]) ∧
      ∀ len, off + len ≤ n → ∃ t, exec (.hostRdmaOperation part win off none len) s = .next t ∧
        t.responses = s.responses ++ [{ words := [], payload := (s.partOf part).net.readMany (base + off) len }]

/-! ### The machine -/

/-- Log entries 1 and 2 (DESIGN CHOICE): after reset the core in focus runs no activation, every scalar reads 0, nothing is in flight, the trap level
is 0 and no containment region is open; every region is OFF with its clock at step 1, and there is no context, partition, team or packet; every
byte of the slice reads as an unlisted one, 0; the memories have their canonical form and no move waits. -/
def Obligations.ResetIsQuiet : Prop :=
  let s := State.reset
  s.core.active = false ∧ (∀ r, s.S r = 0) ∧ s.core.still = true ∧ s.peer.still = true ∧ s.core.tr.level.val = 0 ∧ s.core.frames = [] ∧
    (∀ n, (s.region n).reg = .off ∧ (s.region n).clk = 1 ∧ (s.region n).cyc = 0) ∧ (∀ n, (s.ctx n).exist = false) ∧ s.teams = [] ∧
    s.net = [] ∧ s.booted = false ∧ s.srValue 1 = 0x00F000F0 ∧ s.srValue 16 = 0 ∧ s.core.sig = allOnes ∧
    (∀ a, s.tile.slice.read a = 0) ∧ s.canon ∧ s.orderly = true

/-- R37, R44-R46, R51: words written out from the formats, the prefixes and the opcode map decode to the instructions that they stand for, with as
many words; a register field that is not used and a reserved prefix kind are illegal. -/
def Obligations.SpecWordsDecode : Prop :=
  decode [0x0853] = .instr (.add 1 2 3) 1 ∧
  decode [0xF980, 0x0853] = .instr (.add 9 2 3) 2 ∧
  decode [0x3DFF] = .instr (.li 5 (-1)) 1 ∧
  decode [0xF001, 0x3D00] = .instr (.li 5 256) 2 ∧
  decode [0x6944] = .instr (.ldw 1 2 4 none) 1 ∧
  decode [0x9FFE] = .instr (.bra (-2)) 1 ∧
  decode [0xC013] = .instr (.sendS 2 3 .one none) 1 ∧
  decode [0xF801, 0x4853] = .instr (.bccEq 1 2 3) 2 ∧
  decode [0xF802, 0xFC0A, 0x0253] = .instr (.ldx .h 1 2 3 (some { ord := .acq, scope := .region })) 3 ∧
  decode [0xF802, 0x6600] = .instr .fenceI 2 ∧
  decode [0xF803, 0x1E50] = .instr (.phqry 1 2) 2 ∧
  decode [0xF804, 0x0053] = .instr (.vadd .f32 1 2 3 {}) 2 ∧
  decode [0xFA05, 0xF804, 0x0053] = .instr (.vadd .f32 1 2 3 { rep := .imm 5 }) 3 ∧
  decode [0xF805, 0x0053] = .instr (.mmaAcc 1 2 3 {}) 2 ∧
  decode [0xF806, 0x0053] = .instr (.kadd 1 2 3) 2 ∧
  decode [0xF807, 0x1B22] = .instr (.srd 3 34) 2 ∧
  decode [0xF807, 0x2805] = .instr (.cro 5) 2 ∧
  (∃ why, decode [0x0001] = .ill why 0) ∧ (∃ why, decode [0xFE00, 0x0853] = .ill why 0) ∧ decode [] = .short

/-- R37-R40, R64, R66: a core whose turn it is, with nothing to do before its next bundle, issues the bundle at its pc: where the words there decode to
an instruction i of n words, the step is exec of i with NPC at the word after it, and under lockstep the comparison of what it did (14 R351); a move that
waits is performed first.
The model's choices in it: log entries 3, 6, 75 and 77. -/
def Obligations.StepRunsTheDecodedInstruction : Prop :=
  (∀ (s : State) (i : Instr) (n : Nat), s.agenda = [] → s.turn = false → s.issues = true → s.clear = true → s.tile.flips = [] →
     s.core.pc.toNat + 10 ≤ 0x80000 →
     (∀ j < 10, s.tile.poison.contains ((s.core.pc.toNat + j) / 32) = false) →
     decode ((List.range 5).map fun k =>
       (s.tile.slice.read (s.core.pc.toNat + 2 * k)).toNat + 256 * (s.tile.slice.read (s.core.pc.toNat + 2 * k + 1)).toNat) = .instr i n →
     let b : State := { s with turn := true, core := { s.core with npc := s.core.pc + BitVec.ofNat 64 (2 * n), issued := false } }
     (s.tile.modes.lockstep = false → step s = exec i b) ∧ (∀ t, exec i b = .next t → step s = .next (b.compare t)) ∧
       (∀ x, exec i b = .fault x → step s = .fault x) ∧ ∀ x, exec i b = .refused x → step s = .refused x) ∧
  (∀ (s : State) (why : IllReason) (k : Nat), s.agenda = [] → s.turn = false → s.issues = true → s.clear = true → s.tile.flips = [] →
     s.core.pc.toNat + 10 ≤ 0x80000 →
     (∀ j < 10, s.tile.poison.contains ((s.core.pc.toNat + j) / 32) = false) →
     decode ((List.range 5).map fun k =>
       (s.tile.slice.read (s.core.pc.toNat + 2 * k)).toNat + 256 * (s.tile.slice.read (s.core.pc.toNat + 2 * k + 1)).toNat) = .ill why k →
     step s = .next (State.takeTrap { s with turn := true } .ill (s.core.pc + BitVec.ofNat 64 (2 * k)) s.core.pc false)) ∧
  ∀ (s : State) (m : Move) (rest : List Move), s.agenda = m :: rest → m.ev.isEvent = true → m.ev.wf = true →
    (∀ p, m.place = some p → step s = exec m.ev (State.focusOn { s with agenda := rest } p.1 p.2)) ∧
    (m.place = none → step s = exec m.ev { s with agenda := rest })

/-- Log entry 2: every step keeps every memory of the machine (the slices, the edge memory and NET windows of the contexts, the shadow pages, the
forwarding slots, the windows of the partitions and the docks) in its canonical form: addresses rising, and no listed byte equal to what an
unlisted one reads as. -/
def Obligations.EveryStepKeepsMemoriesCanonical : Prop :=
  ∀ s t : State, s.canon → step s = .next t → t.canon

/-- R37, R42, R44-R47, R51, R66: for every well-formed instruction, at every value of its operands, decoding its words gives it back, with their
number; what the decoder accepts is a well-formed instruction of at most five words and no event; and every well-formed instruction has a bundle. -/
def Obligations.DecodingAnEncodedInstructionGivesItBack : Prop :=
  (∀ (i : Instr) (ws : List Nat), i.wf = true → encode i = some ws → decode ws = .instr i ws.length) ∧
  (∀ (ws : List Nat) (i : Instr) (n : Nat), decode ws = .instr i n → i.wf = true ∧ i.isEvent = false ∧ 1 ≤ n ∧ n ≤ 5) ∧
  ∀ i : Instr, (i.isEvent = true → encode i = none) ∧ (i.isEvent = false → i.wf = true → i.bundle.isSome = true)
end

