-- ==== Sys2Proof/Laws/Memory.lean ====
section
/-! SUPPORT. Memory: reading after writing, and that every operation keeps the canonical form. -/

namespace Sys2Proof.Machine

/-! ### The canonical form, cell by cell -/

/-- Every cell of m lies above a. -/
def Memory.above (a : Nat) (m : Memory) : Prop := ∀ c ∈ m, a < c.1

theorem Memory.wf_cons (a : Nat) (v : Byte) (m : Memory) :
    Memory.wf ((a, v) :: m) = true ↔ v ≠ 0 ∧ Memory.above a m ∧ Memory.wf m = true := by
  induction m generalizing a v with
  | nil => simp [Memory.wf, Memory.above]
  | cons c m ih =>
    obtain ⟨b, w⟩ := c
    constructor
    · intro h
      simp only [Memory.wf, Bool.and_eq_true, bne_iff_ne, decide_eq_true_eq] at h
      obtain ⟨⟨hv, hab⟩, hm⟩ := h
      refine ⟨hv, ?_, hm⟩
      have := ((ih b w).1 hm).2.1
      intro c hc
      rcases List.mem_cons.1 hc with rfl | hc
      · exact hab
      · exact Nat.lt_trans hab (this c hc)
    · rintro ⟨hv, ha, hm⟩
      simp only [Memory.wf, Bool.and_eq_true, bne_iff_ne, decide_eq_true_eq]
      exact ⟨⟨hv, ha (b, w) (List.mem_cons_self ..)⟩, hm⟩

theorem Memory.wf_nil : Memory.wf [] = true := rfl

theorem Memory.above_write {m : Memory} {a b : Nat} {v : Byte} (h : Memory.above b m) (hb : b < a) :
    Memory.above b (m.write a v) := by
  induction m with
  | nil =>
    unfold Memory.write
    split
    · exact h
    · intro c hc; simp at hc; subst hc; exact hb
  | cons c m ih =>
    obtain ⟨d, w⟩ := c
    have hd := h (d, w) (List.mem_cons_self ..)
    have hm : Memory.above b m := fun c hc => h c (List.mem_cons_of_mem _ hc)
    unfold Memory.write
    repeat' split
    · exact h
    · intro c hc
      rcases List.mem_cons.1 hc with rfl | hc
      · exact hb
      · exact h c hc
    · exact hm
    · intro c hc
      rcases List.mem_cons.1 hc with rfl | hc
      · exact hb
      · exact hm c hc
    · intro c hc
      rcases List.mem_cons.1 hc with rfl | hc
      · exact hd
      · exact ih hm c hc

theorem Memory.wf_write (m : Memory) (a : Nat) (v : Byte) (h : m.wf = true) : (m.write a v).wf = true := by
  induction m with
  | nil =>
    unfold Memory.write
    split
    · rfl
    · rename_i hv; simp [Memory.wf]; simpa using hv
  | cons c m ih =>
    obtain ⟨d, w⟩ := c
    obtain ⟨hw, ha, hm⟩ := (Memory.wf_cons d w m).1 h
    unfold Memory.write
    split
    · rename_i hlt
      split
      · exact h
      · rename_i hv
        refine (Memory.wf_cons _ _ _).2 ⟨by simpa using hv, ?_, h⟩
        intro c hc
        rcases List.mem_cons.1 hc with rfl | hc
        · exact hlt
        · exact Nat.lt_trans hlt (ha c hc)
    · rename_i hlt
      split
      · rename_i heq
        have heq : a = d := by simpa using heq
        split
        · exact hm
        · rename_i hv
          exact (Memory.wf_cons _ _ _).2 ⟨by simpa using hv, heq ▸ ha, hm⟩
      · rename_i hne
        have hne : a ≠ d := by simpa using hne
        exact (Memory.wf_cons _ _ _).2 ⟨hw, Memory.above_write ha (by omega), ih hm⟩

/-! ### Reading after writing -/

theorem Memory.read_above {m : Memory} {a : Nat} (h : Memory.above a m) : m.read a = 0 := by
  cases m with
  | nil => rfl
  | cons c m =>
    obtain ⟨d, w⟩ := c
    have := h (d, w) (List.mem_cons_self ..)
    simp only at this
    simp only [Memory.read, beq_iff_eq]
    rw [if_neg (by omega), if_pos this]

theorem Memory.read_write (m : Memory) (a b : Nat) (v : Byte) (h : m.wf = true) :
    (m.write a v).read b = if b = a then v else m.read b := by
  induction m with
  | nil =>
    unfold Memory.write
    split
    · rename_i hv; have : v = 0 := by simpa using hv
      subst this; simp [Memory.read]
    · simp only [Memory.read, beq_iff_eq]
      split
      · rfl
      · split <;> rfl
  | cons c m ih =>
    obtain ⟨d, w⟩ := c
    obtain ⟨hw, ha, hm⟩ := (Memory.wf_cons d w m).1 h
    unfold Memory.write
    split
    · rename_i hlt
      split
      · rename_i hv; have : v = 0 := by simpa using hv
        subst this
        split
        · rename_i hb; subst hb; simp only [Memory.read, beq_iff_eq]; rw [if_neg (by omega), if_pos hlt]
        · rfl
      · by_cases hb : b = a
        · subst hb; simp [Memory.read]
        · rw [if_neg hb]
          simp only [Memory.read, beq_iff_eq]
          rw [if_neg hb]
          split
          · rw [if_neg (by omega), if_pos (by omega)]
          · rfl
    · rename_i hlt
      split
      · rename_i heq
        have heq : a = d := by simpa using heq
        subst heq
        split
        · rename_i hv; have : v = 0 := by simpa using hv
          subst this
          split
          · rename_i hb; subst hb; exact Memory.read_above ha
          · rename_i hb
            simp only [Memory.read, beq_iff_eq, if_neg hb]
            split
            · rename_i hlt2
              exact Memory.read_above (fun c hc => Nat.lt_trans hlt2 (ha c hc))
            · rfl
        · simp only [Memory.read, beq_iff_eq]
          split <;> rfl
      · rename_i hne
        have hne : a ≠ d := by simpa using hne
        simp only [Memory.read, beq_iff_eq, ih hm]
        by_cases hb : b = d
        · subst hb; simp [Ne.symm hne]
        · simp only [if_neg hb]
          split
          · rename_i hlt2
            rw [if_neg (by omega)]
          · rfl

theorem Memory.read_write_same (m : Memory) (a : Nat) (v : Byte) (h : m.wf = true) : (m.write a v).read a = v := by
  simp [Memory.read_write m a a v h]

theorem Memory.read_write_other (m : Memory) {a b : Nat} (v : Byte) (h : m.wf = true) (hb : b ≠ a) :
    (m.write a v).read b = m.read b := by
  simp [Memory.read_write m a b v h, hb]

/-! ### Writing a run of bytes -/

theorem Memory.wf_writeMany (bs : List (Option Byte)) (m : Memory) (a : Nat) (h : m.wf = true) : (m.writeMany a bs).wf = true := by
  induction bs generalizing m a with
  | nil => exact h
  | cons b bs ih =>
    cases b with
    | none => exact ih m (a + 1) h
    | some v => exact ih (m.write a v) (a + 1) (Memory.wf_write m a v h)

theorem Memory.read_writeMany (bs : List (Option Byte)) (m : Memory) (a b : Nat) (h : m.wf = true) :
    (m.writeMany a bs).read b = if a ≤ b then ((bs[b - a]?).join).getD (m.read b) else m.read b := by
  induction bs generalizing m a with
  | nil => simp [Memory.writeMany]
  | cons x bs ih =>
    have key : ∀ m' : Memory, m'.wf = true → (b ≠ a → m'.read b = m.read b) →
        (a ≤ b → b = a → m'.read b = x.getD (m.read b)) →
        (m'.writeMany (a + 1) bs).read b = if a ≤ b then (((x :: bs)[b - a]?).join).getD (m.read b) else m.read b := by
      intro m' hm' hne heq
      rw [ih m' (a + 1) hm']
      by_cases hb : b = a
      · subst hb
        have hlt : ¬ b + 1 ≤ b := by omega
        simp [heq, hlt]
      · rw [hne hb]
        by_cases hle : a ≤ b
        · have h1 : a + 1 ≤ b := by omega
          obtain ⟨k, hk⟩ : ∃ k, b - a = k + 1 := ⟨b - a - 1, by omega⟩
          have hk' : b - (a + 1) = k := by omega
          simp [hle, h1, hk, hk']
        · have h1 : ¬ a + 1 ≤ b := by omega
          simp [hle, h1]
    cases x with
    | none => exact key m h (fun _ => rfl) (fun _ hb => by simp)
    | some v =>
      refine key (m.write a v) (Memory.wf_write m a v h) (fun hb => Memory.read_write_other m v h hb) (fun _ hb => ?_)
      subst hb
      simp [Memory.read_write_same m b v h]

theorem Memory.wf_writeWord (m : Memory) (a : Nat) (w : Word) (h : m.wf = true) : (m.writeWord a w).wf = true :=
  Memory.wf_writeMany _ m a h

theorem wf_writeWords (ws : List Word) (m : Memory) (a : Nat) (h : m.wf = true) : (writeWords m a ws).wf = true := by
  induction ws generalizing m a with
  | nil => exact h
  | cons w ws ih => exact ih _ _ (Memory.wf_writeWord m a w h)

theorem wf_applyFlips (bs : List Nat) (m : Memory) (w : Nat) (h : m.wf = true) : (applyFlips m w bs).wf = true := by
  induction bs generalizing m with
  | nil => exact h
  | cons b bs ih =>
    simp only [applyFlips]
    split
    · exact ih _ (Memory.wf_write _ _ _ h)
    · exact ih _ h

/-! ### Ranges -/

theorem Memory.wf_filter (p : Host.Cell → Bool) (m : Memory) (h : m.wf = true) : Memory.wf (m.filter p) = true := by
  induction m with
  | nil => rfl
  | cons c m ih =>
    obtain ⟨d, w⟩ := c
    obtain ⟨hw, ha, hm⟩ := (Memory.wf_cons d w m).1 h
    simp only [List.filter]
    split
    · exact (Memory.wf_cons _ _ _).2 ⟨hw, fun c hc => ha c (List.mem_filter.1 hc).1, ih hm⟩
    · exact ih hm

theorem Memory.wf_append (m n : Memory) (k : Nat) (hm : m.wf = true) (hn : n.wf = true) (h1 : ∀ c ∈ m, c.1 < k)
    (h2 : ∀ c ∈ n, k ≤ c.1) : Memory.wf (m ++ n) = true := by
  induction m with
  | nil => exact hn
  | cons c m ih =>
    obtain ⟨d, w⟩ := c
    obtain ⟨hw, ha, hm⟩ := (Memory.wf_cons d w m).1 hm
    refine (Memory.wf_cons _ _ _).2 ⟨hw, ?_, ih hm fun c hc => h1 c (List.mem_cons_of_mem _ hc)⟩
    intro c hc
    rcases List.mem_append.1 hc with hc | hc
    · exact ha c hc
    · exact Nat.lt_of_lt_of_le (h1 (d, w) (List.mem_cons_self ..)) (h2 c hc)

theorem Memory.wf_copyRange (src dst : Memory) (lo n : Nat) (hs : src.wf = true) (hd : dst.wf = true) :
    (Memory.copyRange src lo n dst).wf = true := by
  unfold Memory.copyRange
  refine Memory.wf_append _ _ (lo + n) ?_ (Memory.wf_filter _ _ hd) ?_ ?_
  · refine Memory.wf_append _ _ lo (Memory.wf_filter _ _ hd) (Memory.wf_filter _ _ hs) ?_ ?_
    · intro c hc; simpa using (List.mem_filter.1 hc).2
    · intro c hc
      have := (List.mem_filter.1 hc).2
      simp only [Bool.and_eq_true, decide_eq_true_eq] at this
      exact this.1
  · intro c hc
    rcases List.mem_append.1 hc with hc | hc
    · have := (List.mem_filter.1 hc).2
      simp only [decide_eq_true_eq] at this
      omega
    · have := (List.mem_filter.1 hc).2
      simp only [Bool.and_eq_true, decide_eq_true_eq] at this
      exact this.2
  · intro c hc; simpa using (List.mem_filter.1 hc).2

/-- The rebuilt memory of a placed tile is canonical. -/
theorem wf_scramble (kept : Nat → Bool) (fresh n : Nat) (old acc : Memory) (h : acc.wf = true) (ha : ∀ c ∈ acc, n ≤ c.1) :
    (scramble kept fresh n old acc).wf = true := by
  induction n generalizing old acc with
  | zero => exact h
  | succ n ih =>
    have step : ∀ v : Byte, (if v == 0 then acc else (n, v) :: acc : Memory).wf = true ∧
        ∀ c ∈ (if v == 0 then acc else (n, v) :: acc : Memory), n ≤ c.1 := by
      intro v
      split
      · exact ⟨h, fun c hc => Nat.le_of_succ_le (ha c hc)⟩
      · rename_i hv
        refine ⟨(Memory.wf_cons _ _ _).2 ⟨by simpa using hv, fun c hc => ha c hc, h⟩, ?_⟩
        intro c hc
        rcases List.mem_cons.1 hc with rfl | hc
        · exact Nat.le_refl _
        · exact Nat.le_of_succ_le (ha c hc)
    simp only [scramble]
    split
    · split
      · exact ih _ _ (step _).1 (step _).2
      · exact ih _ _ (step _).1 (step _).2
    · exact ih _ _ (step _).1 (step _).2

/-! ### Slices -/

/-- What each step of a fold keeps, the fold keeps. -/
theorem foldl_keeps {α β : Type} (P : α → Prop) (f : α → β → α) (hf : ∀ a b, P a → P (f a b)) :
    ∀ (l : List β) (a : α), P a → P (l.foldl f a)
  | [], _, h => h
  | b :: l, a, h => foldl_keeps P f hf l (f a b) (hf a b h)

theorem Tile.wf_readWordEcc (t : Tile) (f w : Nat) (h : t.slice.wf = true) : (t.readWordEcc f w).slice.wf = true := by
  unfold Tile.readWordEcc
  dsimp only
  repeat' split
  all_goals first
    | exact h
    | exact wf_applyFlips _ _ _ h

theorem Tile.wf_ecc (t : Tile) (f o n : Nat) (h : t.slice.wf = true) : (t.ecc f o n).slice.wf = true := by
  unfold Tile.ecc
  split
  · exact h
  · exact foldl_keeps (fun t : Tile => t.slice.wf = true) _ (fun t w => Tile.wf_readWordEcc t f w) _ _ h

theorem Tile.wf_store (t : Tile) (f o : Nat) (bs : List (Option PByte)) (h : t.slice.wf = true) : (t.store f o bs).slice.wf = true := by
  unfold Tile.store
  refine Memory.wf_writeMany _ _ _ ?_
  split
  · exact h
  · refine foldl_keeps (fun t : Tile => t.slice.wf = true) _ (fun t w h => ?_) _ _ h
    dsimp only
    repeat' split
    · exact h
    · exact Tile.wf_readWordEcc t f w h
    · exact h

end Sys2Proof.Machine
end

