-- ==== Sys2Proof/Laws/Registers.lean ====
section
/-! SUPPORT. Scalars: reading after writing and after a kill, and when no write is pending. -/

namespace Sys2Proof.Machine

theorem bit_of_shift (d r : SReg) : (BitVec.shiftLeft (1 : BitVec 16) d.val).getLsbD r.val = decide (r = d) := by
  revert d r; decide

theorem vput_same {α : Type} {n : Nat} (v : Vector α n) (i : Fin n) (x : α) : (vput v i x)[i] = x := by
  simp [vput]

theorem vput_other {α : Type} {n : Nat} (v : Vector α n) (i j : Fin n) (x : α) (h : j ≠ i) : (vput v i x)[j] = v[j] := by
  have : i.val ≠ j.val := fun e => h (Fin.ext e.symm)
  simp [vput, this]

/-- R52, R56: writing scalar d and reading scalar r. -/
theorem Core.S_setS (c : Core) (d r : SReg) (v : Word) : (c.setS d v).S r = if r = d ∧ d ≠ 0 then v else c.S r := by
  unfold Core.setS
  by_cases hd : d = 0
  · subst hd; simp
  · simp only [beq_iff_eq, hd, if_false]
    unfold Core.S
    by_cases hr : r = 0
    · subst hr; simp [Ne.symm hd]
    · simp only [beq_iff_eq, hr, if_false, BitVec.getLsbD_or, bit_of_shift]
      by_cases hrd : r = d
      · subst hrd; simp [vput, hd]
      · simp [hrd, vput_other _ _ _ _ hrd]

theorem State.S_setS (s : State) (d r : SReg) (v : Word) : (s.setS d v).S r = if r = d ∧ d ≠ 0 then v else s.S r :=
  Core.S_setS s.core d r v

@[simp] theorem Core.S_zero (c : Core) : c.S 0 = 0 := by simp [Core.S]
@[simp] theorem State.S_zero (s : State) : s.S 0 = 0 := by simp [State.S]

theorem maskBit (m : BitVec 16) (r : SReg) : (~~~(m &&& 0xFFFE)).getLsbD r.val = !(m.getLsbD r.val && decide (r ≠ 0)) := by
  have : ∀ r : SReg, (0xFFFE : BitVec 16).getLsbD r.val = decide (r ≠ 0) := by decide
  have h := this r
  have hr : r.val < 16 := r.isLt
  simp only [BitVec.getLsbD_not, BitVec.getLsbD_and, h, hr, decide_true, Bool.true_and]

/-- R57: killed scalars read 0. -/
theorem Core.S_kill (c : Core) (m : BitVec 16) (r : SReg) : (c.kill m).S r = if r ≠ 0 ∧ m.getLsbD r.val = true then 0 else c.S r := by
  unfold Core.S Core.kill
  by_cases hr : r = 0
  · simp [hr]
  · simp only [beq_iff_eq, hr, if_false, BitVec.getLsbD_and, maskBit, not_false_eq_true, decide_true, Bool.and_true, ne_eq, true_and]
    by_cases hm : m.getLsbD r.val = true
    · simp only [hm, Bool.not_true, Bool.and_false, Bool.false_eq_true, if_false, if_true]
    · simp only [Bool.not_eq_true] at hm
      simp only [hm, Bool.not_false, Bool.and_true, Bool.false_eq_true, if_false]

/-- Fewer scalars to wait for. -/
theorem Core.ready_of_subset {c : Core} {l l' : List SReg} (h : c.ready l = true) (hs : ∀ r ∈ l', r ∈ l) : c.ready l' = true := by
  simp only [Core.ready, List.all_eq_true] at *
  exact fun r hr => h r (hs r hr)

/-! ### A core with nothing in flight -/

theorem Core.still_parts {c : Core} (h : c.still = true) : (∀ e ∈ c.rq.toList, e.v = false) ∧ c.unit.ops = [] ∧ c.unit.kept = [] ∧
    c.rpsh = [] ∧ c.link.retry = [] ∧ c.link.vc0 = [] ∧ c.upset = 0 := by
  simpa only [Core.still, Bool.and_eq_true, List.all_eq_true, List.isEmpty_iff, beq_iff_eq, Bool.not_eq_true', and_assoc] using h

theorem Core.still_entries {c : Core} (h : c.still = true) (n : Fin 8) : c.rq[n].v = false :=
  (Core.still_parts h).1 c.rq[n] (by simp)

theorem Core.still_claims {c : Core} (h : c.still = true) : c.claims = [] := by
  simp only [Core.claims, List.filter_eq_nil_iff]
  intro e he
  simp [(Core.still_parts h).1 e he]

theorem Core.still_ready {c : Core} (h : c.still = true) (l : List SReg) : c.ready l = true := by
  simp [Core.ready, Core.busyS, Core.pending, Core.still_claims h]

theorem Core.still_acquiring {c : Core} (h : c.still = true) : c.acquiring = false := by
  simp [Core.acquiring, Core.still_claims h]

theorem Core.still_loads {c : Core} (h : c.still = true) : c.loadsPending = false := by
  simp [Core.loadsPending, Core.still_claims h]

theorem Core.still_busyT {c : Core} (h : c.still = true) (n : Nat) : c.busyT n = false := by
  simp [Core.busyT, Core.pending, Core.still_claims h]

theorem Core.still_busyO {c : Core} (h : c.still = true) (n : Nat) : c.busyO n = false := by
  simp [Core.busyO, Core.pending, Core.still_claims h]

theorem Core.still_unit {c : Core} (h : c.still = true) : c.unit.ops = [] := (Core.still_parts h).2.1
theorem Core.still_kept {c : Core} (h : c.still = true) : c.unit.kept = [] := (Core.still_parts h).2.2.1
theorem Core.still_rpsh {c : Core} (h : c.still = true) : c.rpsh = [] := (Core.still_parts h).2.2.2.1
theorem Core.still_retry {c : Core} (h : c.still = true) : c.link.retry = [] := (Core.still_parts h).2.2.2.2.1
theorem Core.still_vc0 {c : Core} (h : c.still = true) : c.link.vc0 = [] := (Core.still_parts h).2.2.2.2.2.1
theorem Core.still_upset {c : Core} (h : c.still = true) : c.upset = 0 := (Core.still_parts h).2.2.2.2.2.2

theorem Core.still_slotStores {c : Core} (h : c.still = true) : c.slotStores = false := by simp [Core.slotStores, Core.still_rpsh h]

theorem Core.still_free {c : Core} (h : c.still = true) : c.freeEntry = some 0 := by
  have := Core.still_entries h 0
  simp only [Core.freeEntry, List.find?]
  rw [this]; rfl

theorem Core.still_issuing {c : Core} (h : c.still = true) : c.issuing = none := by
  simp only [Core.issuing, List.find?_eq_none]
  intro i _
  have hv := Core.still_entries h i
  rw [hv]
  simp

theorem Core.still_rowFree {c : Core} (h : c.still = true) (x : RowSel) : c.rowFree x = true := by
  cases x <;> simp [Core.rowFree, Core.still_busyT h, Core.still_busyO h]

theorem Core.still_rowOpen {c : Core} (h : c.still = true) (x : RowSel) : c.rowOpen x = true := by
  cases x <;> simp [Core.rowOpen, Core.still_rowFree h, Core.still_unit h]

theorem Core.still_tileOpen {c : Core} (h : c.still = true) (n : Nat) : c.tileOpen n = true := by
  simp [Core.tileOpen, Core.still_busyT h, Core.still_unit h]

theorem State.still_unacked {s : State} (h : s.core.still = true) (sc : Scope) : s.unacked sc = false := by
  simp [State.unacked, Core.still_retry h, Core.still_vc0 h, Core.still_slotStores h]

theorem State.still_orderReady {s : State} (h : s.core.still = true) (x : Option Xsc) : s.orderReady x = true := by
  simp [State.orderReady, Core.still_acquiring h, State.releaseReady, Core.still_loads h, State.still_unacked h]

end Sys2Proof.Machine
end

