-- ==== Sys2Proof/Laws/Operations.lean ====
section
/-! SUPPORT. What the shared operations do, said once: checks at issue, results of the arithmetic forms, tables, pointers, traps,
capabilities. -/

namespace Sys2Proof.Machine

/-! ### Checks at issue -/

@[simp] theorem Chk.run_ok {α : Type} (a : α) (s : State) (k : α → Out) : (Chk.ok a).run s k = k a := rfl
@[simp] theorem Chk.run_trap {α : Type} (c : Cause) (va : Word) (s : State) (k : α → Out) :
    (Chk.trap c va : Chk α).run s k = s.trapB c va := rfl
@[simp] theorem Chk.run_wait {α : Type} (u s : State) (k : α → Out) : (Chk.wait u : Chk α).run s k = .next u := rfl
@[simp] theorem Chk.bind_ok {α β : Type} (a : α) (k : α → Chk β) : (Chk.ok a).bind k = k a := rfl
@[simp] theorem Chk.bind_trap {α β : Type} (c : Cause) (va : Word) (k : α → Chk β) : (Chk.trap c va : Chk α).bind k = .trap c va := rfl
@[simp] theorem Chk.bind_wait {α β : Type} (u : State) (k : α → Chk β) : (Chk.wait u : Chk α).bind k = .wait u := rfl

/-- A check goes on, traps, or holds issue; it does nothing else. -/
theorem Chk.run_cases {α : Type} (c : Chk α) (s : State) (k : α → Out) :
    (∃ a, c = .ok a ∧ c.run s k = k a) ∨ (∃ e va, c = .trap e va ∧ c.run s k = s.trapB e va) ∨ ∃ u, c = .wait u ∧ c.run s k = .next u := by
  cases c with
  | ok a => exact .inl ⟨a, rfl, rfl⟩
  | trap e va => exact .inr (.inl ⟨e, va, rfl, rfl⟩)
  | wait u => exact .inr (.inr ⟨u, rfl, rfl⟩)

/-- An arithmetic form writes its result where no write to its scalars is pending, and holds issue otherwise. -/
theorem State.alu_cases (s : State) (d : SReg) (l : List SReg) (v : Word) :
    s.alu d l v = .next (if s.core.ready (d :: l) then s.result d v else s) := by
  unfold State.alu State.result State.stall; split <;> rfl

/-- A cause other than DUE and NVF is a trap with BPC, in a region too (14 R344). -/
theorem State.trapB_eq (s : State) (c : Cause) (va : Word) (h1 : c ≠ .due) (h2 : c ≠ .nvf) :
    s.trapB c va = .next (s.takeTrap c va s.core.pc false) := by
  simp [State.trapB, State.fault, h1, h2]

/-- Outside a region every cause is a trap. -/
theorem State.trapB_outside (s : State) (c : Cause) (va : Word) (h : s.core.frames = []) :
    s.trapB c va = .next (s.takeTrap c va s.core.pc false) := by
  simp [State.trapB, State.fault, Core.inRegion, h]

/-! ### Tables -/

@[simp] theorem Tab.find_put_same {α : Type} (t : Tab α) (n : Nat) (v : α) : (t.put n v).find n = some v := by
  induction t with
  | nil => simp [Tab.put, Tab.find]
  | cons x t ih => obtain ⟨k, w⟩ := x; by_cases h : n = k <;> simp [Tab.put, Tab.find, h] ; simpa [h] using ih

theorem Tab.find_put_other {α : Type} (t : Tab α) {n m : Nat} (v : α) (h : m ≠ n) : (t.put n v).find m = t.find m := by
  induction t with
  | nil => simp [Tab.put, Tab.find, h]
  | cons x t ih =>
    obtain ⟨k, w⟩ := x
    by_cases hn : n = k
    · subst hn; simp [Tab.put, Tab.find, h]
    · by_cases hm : m = k
      · subst hm; simp [Tab.put, Tab.find, hn]
      · simp [Tab.put, Tab.find, hn, hm, ih]

@[simp] theorem Tab.get_put_same {α : Type} (t : Tab α) (d v : α) (n : Nat) : Tab.get (t.put n v) d n = v := by simp [Tab.get]
theorem Tab.get_put_other {α : Type} (t : Tab α) (d : α) {n m : Nat} (v : α) (h : m ≠ n) : Tab.get (t.put n v) d m = Tab.get t d m := by
  simp [Tab.get, Tab.find_put_other t v h]

/-- The entries of a table after a put: the one put, and old ones. -/
theorem Tab.mem_put {α : Type} {t : Tab α} {n : Nat} {v : α} {p : Nat × α} (h : p ∈ t.put n v) : p.2 = v ∨ p ∈ t := by
  induction t with
  | nil => simp [Tab.put] at h; simp [h]
  | cons x t ih =>
    obtain ⟨k, w⟩ := x
    by_cases hn : n = k
    · simp only [Tab.put, hn, beq_self_eq_true, if_true, List.mem_cons] at h
      rcases h with h | h
      · exact .inl (by rw [h])
      · exact .inr (List.mem_cons_of_mem _ h)
    · simp only [Tab.put, beq_iff_eq, hn, if_false, List.mem_cons] at h
      rcases h with h | h
      · exact .inr (by simp [h])
      · rcases ih h with e | e
        · exact .inl e
        · exact .inr (List.mem_cons_of_mem _ e)

@[simp] theorem State.ctx_putCtx (s : State) (n : Nat) (x : Ctx) : (s.putCtx n x).ctx n = x := by simp [State.putCtx, State.ctx]
theorem State.ctx_putCtx_other (s : State) {n m : Nat} (x : Ctx) (h : m ≠ n) : (s.putCtx n x).ctx m = s.ctx m := by
  simp [State.putCtx, State.ctx, Tab.get_put_other _ _ _ h]
@[simp] theorem State.region_putRegion (s : State) (n : Nat) (r : Region) : (s.putRegion n r).region n = r := by
  simp [State.putRegion, State.region]
theorem State.region_putRegion_other (s : State) {n m : Nat} (r : Region) (h : m ≠ n) : (s.putRegion n r).region m = s.region m := by
  simp [State.putRegion, State.region, Tab.get_put_other _ _ _ h]
@[simp] theorem State.partOf_putPart (s : State) (n : Nat) (p : Part) : (s.putPart n p).partOf n = p := by
  simp [State.putPart, State.partOf]

theorem upto_eq_range (n : Nat) : upto n = List.range n := by
  induction n with
  | zero => rfl
  | succ n ih => simp [upto, ih, List.range_succ]

/-! ### Little-endian values (00 R3) -/

theorem leNat_lt (bs : List Byte) : leNat bs < 256 ^ bs.length := by
  induction bs with
  | nil => simp [leNat]
  | cons b bs ih => have := b.isLt; simp only [leNat, List.length_cons, Nat.pow_succ]; omega

@[simp] theorem length_leBytes (n v : Nat) : (leBytes n v).length = n := by
  induction n generalizing v with
  | zero => rfl
  | succ n ih => simp [leBytes, ih]

/-- The bytes of a value give its value back, modulo what they hold. -/
theorem leNat_leBytes (n v : Nat) : leNat (leBytes n v) = v % 256 ^ n := by
  induction n generalizing v with
  | zero => simp [leBytes, leNat, Nat.mod_one]
  | succ n ih =>
    rw [Nat.pow_succ, Nat.mul_comm (256 ^ n) 256, Nat.mod_mul]
    simp only [leBytes, leNat, ih, BitVec.toNat_ofNat]

@[simp] theorem length_readMany (m : Memory) (a n : Nat) : (m.readMany a n).length = n := by
  induction n generalizing a with
  | zero => rfl
  | succ n ih => simp [Memory.readMany, ih]

theorem getElem_readMany (m : Memory) (a n j : Nat) (h : j < n) : (m.readMany a n)[j]? = some (m.read (a + j)) := by
  induction n generalizing a j with
  | zero => omega
  | succ n ih =>
    cases j with
    | zero => simp [Memory.readMany]
    | succ j => simp only [Memory.readMany, List.getElem?_cons_succ]; rw [ih (a + 1) j (by omega)]; congr 2; omega

/-! ### Pointers (03 R78-R81, 05 R112) -/

/-- `ea` answers a pointer of a space that exists, whose offset was within the limit. -/
theorem ea_some {x : Word} {disp : Int} {p : Word} (h : ea x disp = some p) :
    ptrSpace x < 5 ∧ 0 ≤ Int.ofNat (ptrOfs x) + disp ∧ Int.ofNat (ptrOfs x) + disp ≤ Int.ofNat (spaceLimit (ptrSpace x)) ∧
      p = withOfs x (Int.ofNat (ptrOfs x) + disp).toNat := by
  unfold ea at h
  simp only at h
  split at h
  · cases h
  · split at h
    · cases h
    · cases h; refine ⟨by omega, by omega, by omega, rfl⟩

/-! ### Taking a trap (15 R366) -/

/-- What a trap leaves before it is forwarded or entered. -/
def State.preTrap (s : State) (c : Cause) : State :=
  State.traceRec (State.withdraw { s with core := { s.core with
    iabSkip := false, asleep := none, xlatReq := none, plReq := none } }) 2 (causeCode c)

/-- A trap is forwarded where TVEC says so, and entered otherwise. -/
theorem State.takeTrap_eq (s : State) (c : Cause) (va tpc : Word) (d : Bool) :
    s.takeTrap c va tpc d = if (s.preTrap c).forwards c then (s.preTrap c).forward c va tpc d else (s.preTrap c).enterTrap c va tpc d := rfl

/-- With no operation in the unit, a trap withdraws nothing. -/
theorem State.withdraw_none (s : State) (h : s.core.unit.ops = []) : s.withdraw = s := by
  simp [State.withdraw, h]

/-- The trace record of a trap changes the region's trace only. -/
theorem State.traceRec_core (s : State) (k c : Nat) : (s.traceRec k c).core = s.core ∧ (s.traceRec k c).tile = s.tile ∧
    (s.traceRec k c).ctxs = s.ctxs ∧ (s.traceRec k c).net = s.net ∧ (s.traceRec k c).teams = s.teams ∧ (s.traceRec k c).sel = s.sel ∧
    (s.traceRec k c).peer = s.peer ∧ (s.traceRec k c).tiles = s.tiles ∧ (s.traceRec k c).parts = s.parts := by
  unfold State.traceRec
  split
  · simp [State.putRegion]
  · simp

/-- A trap that is entered at level 0 or 1 (15 R366): the banks, the level and the pc; everything else stays. -/
theorem State.enterTrap_eq (s : State) (c : Cause) (va tpc : Word) (d : Bool) (h2 : s.core.tr.level.val ≠ 2)
    (ht : s.core.sr.tvec.getLsbD 19 = true) :
    s.enterTrap c va tpc d =
      let tca : Word := BitVec.ofNat 64 (causeCode c + if d then 32 else 0)
      let t := if s.core.tr.level.val == 0 then { s.core.tr with level := 1, sstep := false, tca1 := tca, tpc1 := tpc, tva1 := va }
        else { s.core.tr with level := 2, sstep := false, tca2 := tca, tpc2 := tpc, tva2 := va }
      { s with core := { s.core with tr := t, pc := vectorAddr s.core.sr.tvec t.level.val c } } := by
  have h : (s.core.tr.level.val == 2) = false := by simpa using h2
  simp only [State.enterTrap, h, ht, Bool.not_true, Bool.or_self, Bool.false_eq_true, if_false]

/-! ### Capabilities (05 R127) -/

theorem mkCap_low (ctx base : Nat) (perms : BitVec 3) (o : Word) :
    (mkCap ctx base perms o).extractLsb' 0 51 = BitVec.ofNat 51 (base % 2 ^ 48 + perms.toNat * 2 ^ 48) := by
  have hlt : base % 2 ^ 48 + perms.toNat * 2 ^ 48 < 2 ^ 51 := by have := perms.isLt; omega
  apply BitVec.eq_of_getLsbD_eq
  intro i hi
  simp only [mkCap, BitVec.getLsbD_extractLsb', BitVec.getLsbD_or, BitVec.getLsbD_shiftLeft, BitVec.getLsbD_ofNat, hi, decide_true,
    Bool.true_and, Nat.zero_add]
  simp [show i < 64 by omega]

theorem mkCap_high (ctx base : Nat) (perms : BitVec 3) (o : Word) :
    (mkCap ctx base perms o).extractLsb' 51 13 =
      sealOf ctx (BitVec.ofNat 64 (base % 2 ^ 48 + perms.toNat * 2 ^ 48)) o := by
  have hlt : base % 2 ^ 48 + perms.toNat * 2 ^ 48 < 2 ^ 51 := by have := perms.isLt; omega
  apply BitVec.eq_of_getLsbD_eq
  intro i hi
  have hz : (base % 2 ^ 48 + perms.toNat * 2 ^ 48).testBit (51 + i) = false :=
    Nat.testBit_lt_two_pow (Nat.lt_of_lt_of_le hlt (Nat.pow_le_pow_right (by decide) (by omega)))
  simp only [mkCap, BitVec.getLsbD_extractLsb', BitVec.getLsbD_or, BitVec.getLsbD_shiftLeft, BitVec.getLsbD_ofNat, hi, hz,
    BitVec.getLsbD_setWidth, decide_true, Bool.true_and, Bool.and_false, Bool.false_or]
  simp [show 51 + i < 64 by omega, show i < 64 by omega]

/-- A pair that the quay makes is sealed wherever its slot is not 0. -/
theorem isSealed_mkCap (ctx base : Nat) (perms : BitVec 3) (o : Word) (h : capSlot o ≠ 0) : isSealed ctx (mkCap ctx base perms o) o = true := by
  have hlow := mkCap_low ctx base perms o
  have hb : (BitVec.ofNat 64 (base % 2 ^ 48 + perms.toNat * 2 ^ 48)).extractLsb' 0 51 =
      BitVec.ofNat 51 (base % 2 ^ 48 + perms.toNat * 2 ^ 48) := by
    apply BitVec.eq_of_getLsbD_eq
    intro i hi
    simp only [BitVec.getLsbD_extractLsb', BitVec.getLsbD_ofNat, hi, decide_true, Bool.true_and, Nat.zero_add]
    simp [show i < 64 by omega]
  have hs : sealOf ctx (mkCap ctx base perms o) o = sealOf ctx (BitVec.ofNat 64 (base % 2 ^ 48 + perms.toNat * 2 ^ 48)) o := by
    simp only [sealOf, hlow, hb]
  simp [isSealed, h, hs, mkCap_high]

/-! ### Shadows of lanes and of cores (14 R346, R351) -/

/-- A result never diverges from itself. -/
@[simp] theorem LaneShadow.diverges_self (a : LaneShadow) : a.diverges a = false := by
  simp only [LaneShadow.diverges]
  split <;> simp [show ¬ a.ex + 1 < a.ex by omega, show ¬ a.pre + 1 < a.pre by omega]

/-- An upset result diverges from its shadow, in every lane. -/
@[simp] theorem LaneShadow.diverges_upset (a : LaneShadow) : a.diverges a.upset = true := by
  cases a with | mk sg ex pre nan => cases nan <;> cases sg <;> simp [LaneShadow.diverges, LaneShadow.upset]

theorem Fmt.laneDiverges_eq (f : Fmt) (inj : Bool) (x : Nat) : f.laneDiverges inj x = inj := by
  cases inj <;> simp [Fmt.laneDiverges]

/-- Outside lockstep nothing is compared. -/
theorem State.compared_plain (s t : State) (o : BitVec 19) (h : s.tile.modes.lockstep = false) : s.compared t o = t := by
  simp [State.compared, h]

/-- Copies that no error upset agree: the effects are committed as they are. -/
theorem State.compared_agrees (s t : State) (o : BitVec 19) (h : s.core.upset = 0) : s.compared t o = t := by
  simp only [State.compared, Core.digests, h]
  split <;> simp

end Sys2Proof.Machine
end

