-- ==== Sys2Proof/Laws/Canon.lean ====
section
/-! SUPPORT. The canonical form of the memories of the machine: what it depends on, and the small operations that keep it. -/

namespace Sys2Proof.Machine

/-- The canonical form depends on the slices, the contexts, the partitions and the docks only. -/
theorem State.canon_congr {s t : State} (h : s.canon) (h1 : t.tile.slice = s.tile.slice) (h2 : t.tiles = s.tiles) (h3 : t.ctxs = s.ctxs)
    (h4 : t.parts = s.parts) (h5 : t.teams = s.teams) : t.canon := by
  unfold State.canon at *; rw [h1, h2, h3, h4, h5]; exact h

theorem State.canon_setS {s : State} (h : s.canon) (d : SReg) (v : Word) : (s.setS d v).canon := State.canon_congr h rfl rfl rfl rfl rfl
theorem State.canon_retire {s : State} (h : s.canon) : s.retire.canon := State.canon_congr h rfl rfl rfl rfl rfl
theorem State.canon_goto {s : State} (h : s.canon) (p : Word) : (s.goto p).canon := State.canon_congr h rfl rfl rfl rfl rfl
theorem State.canon_core {s : State} (h : s.canon) (c : Core) : State.canon { s with core := c } := State.canon_congr h rfl rfl rfl rfl rfl
theorem State.canon_net {s : State} (h : s.canon) (n : List Packet) : State.canon { s with net := n } := State.canon_congr h rfl rfl rfl rfl rfl
theorem State.canon_putRegion {s : State} (h : s.canon) (n : Nat) (r : Region) : (s.putRegion n r).canon :=
  State.canon_congr h rfl rfl rfl rfl rfl
theorem State.canon_report {s : State} (h : s.canon) (reg kind : Nat) (hnd : W32) (site : Word) (count : Nat) (h0 h1 : Word) :
    (s.report reg kind hnd site count h0 h1).canon := State.canon_congr h rfl rfl rfl rfl rfl

/-- An arithmetic form keeps it, whether it writes or waits. -/
theorem State.canon_alu {s t : State} (h : s.canon) {d : SReg} {l : List SReg} {v : Word} (e : s.alu d l v = .next t) : t.canon := by
  rw [State.alu_cases] at e
  cases e
  split
  · exact State.canon_retire (State.canon_setS h d v)
  · exact h

/-- A new slice in canonical form keeps it. -/
theorem State.canon_tile {s : State} (h : s.canon) (u : Tile) (hu : u.slice.wf = true) : State.canon { s with tile := u } :=
  ⟨hu, h.2.1, h.2.2.1, h.2.2.2.1, h.2.2.2.2⟩

/-- A new context in canonical form keeps it. -/
theorem State.canon_putCtx {s : State} (h : s.canon) (n : Nat) (x : Ctx) (hx : x.canon) : (s.putCtx n x).canon := by
  refine ⟨h.1, h.2.1, ?_, h.2.2.2.1, h.2.2.2.2⟩
  intro c hc
  rcases Tab.mem_put hc with e | e
  · rw [e]; exact hx
  · exact h.2.2.1 c e

theorem State.canon_putPart {s : State} (h : s.canon) (n : Nat) (p : Part) (hp : p.net.wf = true) : (s.putPart n p).canon := by
  refine ⟨h.1, h.2.1, h.2.2.1, ?_, h.2.2.2.2⟩
  intro c hc
  rcases Tab.mem_put hc with e | e
  · rw [e]; exact hp
  · exact h.2.2.2.1 c e

/-- A context that is found, or the empty one, has it. -/
theorem Tab.find_mem {α : Type} {t : Tab α} {n : Nat} {v : α} (h : t.find n = some v) : (n, v) ∈ t := by
  induction t with
  | nil => simp [Tab.find] at h
  | cons x t ih =>
    obtain ⟨k, w⟩ := x
    by_cases hn : n = k
    · simp [Tab.find, hn] at h; simp [hn, h]
    · simp [Tab.find, hn] at h; exact List.mem_cons_of_mem _ (ih h)

theorem State.canon_ctx {s : State} (h : s.canon) (n : Nat) : (s.ctx n).canon := by
  unfold State.ctx Tab.get
  cases e : s.ctxs.find n with
  | none => exact ⟨rfl, rfl, (fun _ hx => nomatch hx), (fun _ hx => nomatch hx)⟩
  | some x => exact h.2.2.1 _ (Tab.find_mem e)

/-- The trace record of a trap keeps it. -/
theorem State.canon_traceRec {s : State} (h : s.canon) (k c : Nat) : (s.traceRec k c).canon := by
  unfold State.traceRec; split
  · exact State.canon_putRegion h _ _
  · exact h

/-- A trap that is entered at level 0 or 1 keeps it. -/
theorem State.canon_enterTrap {s : State} (h : s.canon) (c : Cause) (va tpc : Word) (d : Bool) (h2 : s.core.tr.level.val ≠ 2)
    (ht : s.core.sr.tvec.getLsbD 19 = true) : (s.enterTrap c va tpc d).canon := by
  rw [State.enterTrap_eq s c va tpc d h2 ht]; exact State.canon_core h _

/-- A store into the slice keeps it. -/
theorem State.canon_store {s : State} (h : s.canon) (f o : Nat) (bs : List (Option PByte)) : State.canon { s with tile := s.tile.store f o bs } :=
  State.canon_tile h _ (Tile.wf_store s.tile f o bs h.1)

/-- Log entry 2: reset has it. -/
theorem reset_canon : State.reset.canon :=
  ⟨rfl, (fun _ h => nomatch h), (fun _ h => nomatch h), (fun _ h => nomatch h), (fun _ h => nomatch h)⟩

end Sys2Proof.Machine
end

