-- ==== Sys2Proof/Laws/PerInstr.lean ====
section
/-! SUPPORT. A law of every constructor of Instr, made per instruction: what its bundle may hold. -/

namespace Sys2Proof.Laws.Opcode

/-- The base word of a bundle of i has a primary opcode below 30, which no prefix has, and stands on a page from 0 to 7 (02 R37, R46). -/
def Statement (i : Instr) : Prop := ∀ b, i.bundle = some b → b.op < 30 ∧ b.page < 8

theorem of_some (b : Bundle) (h : (b.op.blt 30 && b.page.blt 8) = true) : ∀ c, some b = some c → c.op < 30 ∧ c.page < 8 := by
  intro c e; cases e; simpa [Nat.blt_eq] using h

theorem of_map {α : Type} (o : Option α) (f : α → Bundle) (h : ∀ x, ((f x).op.blt 30 && (f x).page.blt 8) = true) :
    ∀ c, o.map f = some c → c.op < 30 ∧ c.page < 8 := by
  intro c e; cases o with
  | none => cases e
  | some x => cases e; simpa [Nat.blt_eq] using h x

theorem of_none : ∀ c, (none : Option Bundle) = some c → c.op < 30 ∧ c.page < 8 := by
  intro c e; cases e

theorem nop : Statement (.nop) := of_some _ rfl
theorem endAct : Statement (.endAct) := of_some _ rfl
theorem ret : Statement (.ret) := of_some _ rfl
theorem brk : Statement (.brk) := of_some _ rfl
theorem endTeam : Statement (.endTeam) := of_some _ rfl
theorem add (d a b : SReg) : Statement (.add d a b) := of_some _ rfl
theorem sub (d a b : SReg) : Statement (.sub d a b) := of_some _ rfl
theorem and (d a b : SReg) : Statement (.and d a b) := of_some _ rfl
theorem or (d a b : SReg) : Statement (.or d a b) := of_some _ rfl
theorem xor (d a b : SReg) : Statement (.xor d a b) := of_some _ rfl
theorem shl (d a b : SReg) : Statement (.shl d a b) := of_some _ rfl
theorem shr (d a b : SReg) : Statement (.shr d a b) := of_some _ rfl
theorem sha (d a b : SReg) : Statement (.sha d a b) := of_some _ rfl
theorem mul (d a b : SReg) : Statement (.mul d a b) := of_some _ rfl
theorem mulh (d a b : SReg) : Statement (.mulh d a b) := of_some _ rfl
theorem div (d a b : SReg) : Statement (.div d a b) := of_some _ rfl
theorem rem (d a b : SReg) : Statement (.rem d a b) := of_some _ rfl
theorem seq (d a b : SReg) : Statement (.seq d a b) := of_some _ rfl
theorem slt (d a b : SReg) : Statement (.slt d a b) := of_some _ rfl
theorem sltu (d a b : SReg) : Statement (.sltu d a b) := of_some _ rfl
theorem sel (d a b : SReg) : Statement (.sel d a b) := of_some _ rfl
theorem min (d a b : SReg) : Statement (.min d a b) := of_some _ rfl
theorem max (d a b : SReg) : Statement (.max d a b) := of_some _ rfl
theorem minu (d a b : SReg) : Statement (.minu d a b) := of_some _ rfl
theorem maxu (d a b : SReg) : Statement (.maxu d a b) := of_some _ rfl
theorem addi (d a : SReg) (imm : Int) : Statement (.addi d a imm) := of_map _ _ fun _ => rfl
theorem li (d : SReg) (imm : Int) : Statement (.li d imm) := of_map _ _ fun _ => rfl
theorem andi (d a : SReg) (imm : Int) : Statement (.andi d a imm) := of_map _ _ fun _ => rfl
theorem shli (d a : SReg) (n : Fin 64) : Statement (.shli d a n) := of_map _ _ fun _ => rfl
theorem shri (d a : SReg) (n : Fin 64) : Statement (.shri d a n) := of_map _ _ fun _ => rfl
theorem shai (d a : SReg) (n : Fin 64) : Statement (.shai d a n) := of_map _ _ fun _ => rfl
theorem mov (d a : SReg) : Statement (.mov d a) := of_some _ rfl
theorem qrd (d : SReg) (q : Queue) : Statement (.qrd d q) := of_some _ rfl
theorem qwr (q : Queue) (a : SReg) : Statement (.qwr q a) := of_some _ rfl
theorem ldw (d a : SReg) (imm : Int) (x : Option Xsc) : Statement (.ldw d a imm x) := of_map _ _ fun _ => rfl
theorem ldd (d a : SReg) (imm : Int) (x : Option Xsc) : Statement (.ldd d a imm x) := of_map _ _ fun _ => rfl
theorem stw (d a : SReg) (imm : Int) (x : Option Xsc) : Statement (.stw d a imm x) := of_map _ _ fun _ => rfl
theorem std (d a : SReg) (imm : Int) (x : Option Xsc) : Statement (.std d a imm x) := of_map _ _ fun _ => rfl
theorem ldr (d : RCode) (a : SReg) (imm : Int) (p : RowPos) (x : Option Xsc) : Statement (.ldr d a imm p x) := of_map _ _ fun _ => rfl
theorem str (d : RCode) (a : SReg) (imm : Int) (p : RowPos) (x : Option Xsc) : Statement (.str d a imm p x) := of_map _ _ fun _ => rfl
theorem bra (imm : Int) : Statement (.bra imm) := of_map _ _ fun _ => rfl
theorem call (imm : Int) : Statement (.call imm) := of_map _ _ fun _ => rfl
theorem bz (d : SReg) (imm : Int) : Statement (.bz d imm) := of_map _ _ fun _ => rfl
theorem bnz (d : SReg) (imm : Int) : Statement (.bnz d imm) := of_map _ _ fun _ => rfl
theorem loop (d : SReg) (imm : Int) : Statement (.loop d imm) := of_map _ _ fun _ => rfl
theorem sendS (a b : SReg) (rep : Rep) (x : Option Xsc) : Statement (.sendS a b rep x) := of_some _ rfl
theorem sendR (d : RCode) (a c : SReg) (p : RowPos) (x : Option Xsc) : Statement (.sendR d a c p x) := of_some _ rfl
theorem sendT (t : Fin 4) (a : SReg) (rep : Rep) (x : Option Xsc) : Statement (.sendT t a rep x) := of_some _ rfl
theorem sendH (a : SReg) (rep : Rep) (x : Option Xsc) : Statement (.sendH a rep x) := of_some _ rfl
theorem inpop (d : SReg) : Statement (.inpop d) := of_some _ rfl
theorem inrd (d a : SReg) : Statement (.inrd d a) := of_some _ rfl
theorem inrdR (d : RCode) (base : Fin 16) (bank : Bool) : Statement (.inrdR d base bank) := of_some _ rfl
theorem insk (d : SReg) : Statement (.insk d) := of_some _ rfl
theorem rwaitFull (h : Ring) (n : Fin 128) : Statement (.rwaitFull h n) := of_some _ rfl
theorem rwaitFree (h : Ring) (n : Fin 128) : Statement (.rwaitFree h n) := of_some _ rfl
theorem radvHead (h : Ring) (n : Fin 128) : Statement (.radvHead h n) := of_some _ rfl
theorem radvTail (h : Ring) (n : Fin 128) : Statement (.radvTail h n) := of_some _ rfl
theorem jr (a : SReg) : Statement (.jr a) := of_some _ rfl
theorem callr (a : SReg) : Statement (.callr a) := of_some _ rfl
theorem mulhu (d a b : SReg) : Statement (.mulhu d a b) := of_some _ rfl
theorem divu (d a b : SReg) : Statement (.divu d a b) := of_some _ rfl
theorem remu (d a b : SReg) : Statement (.remu d a b) := of_some _ rfl
theorem clz (d a : SReg) : Statement (.clz d a) := of_some _ rfl
theorem ctz (d a : SReg) : Statement (.ctz d a) := of_some _ rfl
theorem popc (d a : SReg) : Statement (.popc d a) := of_some _ rfl
theorem brev (d a : SReg) : Statement (.brev d a) := of_some _ rfl
theorem bext (d a b : SReg) : Statement (.bext d a b) := of_some _ rfl
theorem bins (d a b : SReg) : Statement (.bins d a b) := of_some _ rfl
theorem sextB (d a : SReg) : Statement (.sextB d a) := of_some _ rfl
theorem sextH (d a : SReg) : Statement (.sextH d a) := of_some _ rfl
theorem sextW (d a : SReg) : Statement (.sextW d a) := of_some _ rfl
theorem zextW (d a : SReg) : Statement (.zextW d a) := of_some _ rfl
theorem addw (d a b : SReg) : Statement (.addw d a b) := of_some _ rfl
theorem subw (d a b : SReg) : Statement (.subw d a b) := of_some _ rfl
theorem mulw (d a b : SReg) : Statement (.mulw d a b) := of_some _ rfl
theorem divw (d a b : SReg) : Statement (.divw d a b) := of_some _ rfl
theorem remw (d a b : SReg) : Statement (.remw d a b) := of_some _ rfl
theorem divuw (d a b : SReg) : Statement (.divuw d a b) := of_some _ rfl
theorem remuw (d a b : SReg) : Statement (.remuw d a b) := of_some _ rfl
theorem padd (d a b : SReg) : Statement (.padd d a b) := of_some _ rfl
theorem pmk (d a b : SReg) : Statement (.pmk d a b) := of_some _ rfl
theorem pspc (d a : SReg) : Statement (.pspc d a) := of_some _ rfl
theorem prnk (d a : SReg) : Statement (.prnk d a) := of_some _ rfl
theorem poff (d a : SReg) : Statement (.poff d a) := of_some _ rfl
theorem bccEq (a b : SReg) (imm : Int) : Statement (.bccEq a b imm) := of_map _ _ fun _ => rfl
theorem bccNe (a b : SReg) (imm : Int) : Statement (.bccNe a b imm) := of_map _ _ fun _ => rfl
theorem bccLt (a b : SReg) (imm : Int) : Statement (.bccLt a b imm) := of_map _ _ fun _ => rfl
theorem bccGe (a b : SReg) (imm : Int) : Statement (.bccGe a b imm) := of_map _ _ fun _ => rfl
theorem bccuLtu (a b : SReg) (imm : Int) : Statement (.bccuLtu a b imm) := of_map _ _ fun _ => rfl
theorem bccuGeu (a b : SReg) (imm : Int) : Statement (.bccuGeu a b imm) := of_map _ _ fun _ => rfl
theorem ldx (z : Size) (d a b : SReg) (x : Option Xsc) : Statement (.ldx z d a b x) := of_some _ rfl
theorem ldxs (z : Size) (d a b : SReg) (x : Option Xsc) : Statement (.ldxs z d a b x) := of_some _ rfl
theorem stx (z : Size) (d a b : SReg) (x : Option Xsc) : Statement (.stx z d a b x) := of_some _ rfl
theorem ldt (t : Fin 4) (a : SReg) (imm : Int) (x : Option Xsc) : Statement (.ldt t a imm x) := of_map _ _ fun _ => rfl
theorem stt (t : Fin 4) (a : SReg) (imm : Int) (x : Option Xsc) : Statement (.stt t a imm x) := of_map _ _ fun _ => rfl
theorem lds (d : RCode) (a b : SReg) (p : RowPos) (x : Option Xsc) : Statement (.lds d a b p x) := of_some _ rfl
theorem sts (d : RCode) (a b : SReg) (p : RowPos) (x : Option Xsc) : Statement (.sts d a b p x) := of_some _ rfl
theorem cld (z : Size) (d a b : SReg) (x : Option Xsc) : Statement (.cld z d a b x) := of_some _ rfl
theorem cst (z : Size) (d a b : SReg) (x : Option Xsc) : Statement (.cst z d a b x) := of_some _ rfl
theorem cbnd (d a b : SReg) : Statement (.cbnd d a b) := of_some _ rfl
theorem cnar (d a b c : SReg) : Statement (.cnar d a b c) := of_some _ rfl
theorem cchk (d a b : SReg) : Statement (.cchk d a b) := of_some _ rfl
theorem alloc (d a b : SReg) : Statement (.alloc d a b) := of_some _ rfl
theorem free (a : SReg) : Statement (.free a) := of_some _ rfl
theorem fenceRwTile : Statement (.fenceRwTile) := of_some _ rfl
theorem fenceRwQuad : Statement (.fenceRwQuad) := of_some _ rfl
theorem fenceRwRegion : Statement (.fenceRwRegion) := of_some _ rfl
theorem fenceRwWafer : Statement (.fenceRwWafer) := of_some _ rfl
theorem fenceRwPod : Statement (.fenceRwPod) := of_some _ rfl
theorem fenceR : Statement (.fenceR) := of_some _ rfl
theorem fenceWTile : Statement (.fenceWTile) := of_some _ rfl
theorem fenceWQuad : Statement (.fenceWQuad) := of_some _ rfl
theorem fenceWRegion : Statement (.fenceWRegion) := of_some _ rfl
theorem fenceWWafer : Statement (.fenceWWafer) := of_some _ rfl
theorem fenceWPod : Statement (.fenceWPod) := of_some _ rfl
theorem fenceI : Statement (.fenceI) := of_some _ rfl
theorem amoaAdd (d a b : SReg) (w : Bool) (x : Option Xsc) : Statement (.amoaAdd d a b w x) := of_some _ rfl
theorem amoaAnd (d a b : SReg) (w : Bool) (x : Option Xsc) : Statement (.amoaAnd d a b w x) := of_some _ rfl
theorem amoaOr (d a b : SReg) (w : Bool) (x : Option Xsc) : Statement (.amoaOr d a b w x) := of_some _ rfl
theorem amoaXor (d a b : SReg) (w : Bool) (x : Option Xsc) : Statement (.amoaXor d a b w x) := of_some _ rfl
theorem amobMin (d a b : SReg) (w : Bool) (x : Option Xsc) : Statement (.amobMin d a b w x) := of_some _ rfl
theorem amobMax (d a b : SReg) (w : Bool) (x : Option Xsc) : Statement (.amobMax d a b w x) := of_some _ rfl
theorem amobMinu (d a b : SReg) (w : Bool) (x : Option Xsc) : Statement (.amobMinu d a b w x) := of_some _ rfl
theorem amobMaxu (d a b : SReg) (w : Bool) (x : Option Xsc) : Statement (.amobMaxu d a b w x) := of_some _ rfl
theorem amobSwap (d a b : SReg) (w : Bool) (x : Option Xsc) : Statement (.amobSwap d a b w x) := of_some _ rfl
theorem casW (d a b : SReg) (x : Option Xsc) : Statement (.casW d a b x) := of_some _ rfl
theorem casD (d a b : SReg) (x : Option Xsc) : Statement (.casD d a b x) := of_some _ rfl
theorem phnew (d a : SReg) : Statement (.phnew d a) := of_some _ rfl
theorem phreg (d a b : SReg) : Statement (.phreg d a b) := of_some _ rfl
theorem phdrop (d a : SReg) : Statement (.phdrop d a) := of_some _ rfl
theorem phqry (d a : SReg) : Statement (.phqry d a) := of_some _ rfl
theorem pharr (d a : SReg) (o : Option Order) : Statement (.pharr d a o) := of_some _ rfl
theorem phwait (d a : SReg) (o : Option Order) : Statement (.phwait d a o) := of_some _ rfl
theorem phaw (d a : SReg) (o : Option Order) : Statement (.phaw d a o) := of_some _ rfl
theorem bar (d : SReg) (sc : Scope) (ps : PhaserSet) : Statement (.bar d sc ps) := of_some _ rfl
theorem bara (d : SReg) (sc : Scope) (ps : PhaserSet) : Statement (.bara d sc ps) := of_some _ rfl
theorem barw (d : SReg) (sc : Scope) (ps : PhaserSet) : Statement (.barw d sc ps) := of_some _ rfl
theorem cpy (d a : SReg) (x : Option Xsc) : Statement (.cpy d a x) := of_some _ rfl
theorem cpy2d (d a : SReg) (x : Option Xsc) : Statement (.cpy2d d a x) := of_some _ rfl
theorem cpyGth (d a : SReg) (x : Option Xsc) : Statement (.cpyGth d a x) := of_some _ rfl
theorem cpyRing (d a : SReg) (x : Option Xsc) : Statement (.cpyRing d a x) := of_some _ rfl
theorem waitp (d a : SReg) : Statement (.waitp d a) := of_some _ rfl
theorem kvget (d a b : SReg) : Statement (.kvget d a b) := of_some _ rfl
theorem kvset (d a b : SReg) : Statement (.kvset d a b) := of_some _ rfl
theorem kvdel (d b : SReg) : Statement (.kvdel d b) := of_some _ rfl
theorem kvlst (d a b : SReg) : Statement (.kvlst d a b) := of_some _ rfl
theorem collRed (d a : SReg) (x : Option Xsc) : Statement (.collRed d a x) := of_some _ rfl
theorem collBcst (d a : SReg) (x : Option Xsc) : Statement (.collBcst d a x) := of_some _ rfl
theorem collAgth (d a : SReg) (x : Option Xsc) : Statement (.collAgth d a x) := of_some _ rfl
theorem plh (d a : SReg) : Statement (.plh d a) := of_some _ rfl
theorem plq (d a : SReg) : Statement (.plq d a) := of_some _ rfl
theorem vadd (ty : RType) (d a b : RCode) (x : RowX) : Statement (.vadd ty d a b x) := of_some _ rfl
theorem vsub (ty : RType) (d a b : RCode) (x : RowX) : Statement (.vsub ty d a b x) := of_some _ rfl
theorem vmul (ty : RType) (d a b : RCode) (x : RowX) : Statement (.vmul ty d a b x) := of_some _ rfl
theorem vfma (ty : RType) (d a b : RCode) (x : RowX) : Statement (.vfma ty d a b x) := of_some _ rfl
theorem vmin (ty : RType) (d a b : RCode) (x : RowX) : Statement (.vmin ty d a b x) := of_some _ rfl
theorem vmax (ty : RType) (d a b : RCode) (x : RowX) : Statement (.vmax ty d a b x) := of_some _ rfl
theorem vand (ty : RType) (d a b : RCode) (x : RowX) : Statement (.vand ty d a b x) := of_some _ rfl
theorem vor (ty : RType) (d a b : RCode) (x : RowX) : Statement (.vor ty d a b x) := of_some _ rfl
theorem vxor (ty : RType) (d a b : RCode) (x : RowX) : Statement (.vxor ty d a b x) := of_some _ rfl
theorem vshl (ty : RType) (d a b : RCode) (x : RowX) : Statement (.vshl ty d a b x) := of_some _ rfl
theorem vshr (ty : RType) (d a b : RCode) (x : RowX) : Statement (.vshr ty d a b x) := of_some _ rfl
theorem vceq (ty : RType) (d a b : RCode) (x : RowX) : Statement (.vceq ty d a b x) := of_some _ rfl
theorem vclt (ty : RType) (d a b : RCode) (x : RowX) : Statement (.vclt ty d a b x) := of_some _ rfl
theorem vcle (ty : RType) (d a b : RCode) (x : RowX) : Statement (.vcle ty d a b x) := of_some _ rfl
theorem vsel (ty : RType) (d a b : RCode) (x : RowX) : Statement (.vsel ty d a b x) := of_some _ rfl
theorem vunaAbs (ty : RType) (d a : RCode) (x : RowX) : Statement (.vunaAbs ty d a x) := of_some _ rfl
theorem vunaNeg (ty : RType) (d a : RCode) (x : RowX) : Statement (.vunaNeg ty d a x) := of_some _ rfl
theorem vunaExp (ty : RType) (d a : RCode) (x : RowX) : Statement (.vunaExp ty d a x) := of_some _ rfl
theorem vunaLog2 (ty : RType) (d a : RCode) (x : RowX) : Statement (.vunaLog2 ty d a x) := of_some _ rfl
theorem vunaRcp (ty : RType) (d a : RCode) (x : RowX) : Statement (.vunaRcp ty d a x) := of_some _ rfl
theorem vunaRsq (ty : RType) (d a : RCode) (x : RowX) : Statement (.vunaRsq ty d a x) := of_some _ rfl
theorem vunaTanh (ty : RType) (d a : RCode) (x : RowX) : Statement (.vunaTanh ty d a x) := of_some _ rfl
theorem vunaSig (ty : RType) (d a : RCode) (x : RowX) : Statement (.vunaSig ty d a x) := of_some _ rfl
theorem vredSum (ty : RType) (d a : RCode) (x : RowX) : Statement (.vredSum ty d a x) := of_some _ rfl
theorem vredMax (ty : RType) (d a : RCode) (x : RowX) : Statement (.vredMax ty d a x) := of_some _ rfl
theorem vredMin (ty : RType) (d a : RCode) (x : RowX) : Statement (.vredMin ty d a x) := of_some _ rfl
theorem vredSsq (ty : RType) (d a : RCode) (x : RowX) : Statement (.vredSsq ty d a x) := of_some _ rfl
theorem vcvt (ty src : RType) (d a : RCode) (x : RowX) : Statement (.vcvt ty src d a x) := of_some _ rfl
theorem vbc (ty : RType) (d a : RCode) (b : SReg) (x : RowX) : Statement (.vbc ty d a b x) := of_some _ rfl
theorem vmov (d a : RCode) (x : RowX) : Statement (.vmov d a x) := of_some _ rfl
theorem vshuf (ty : RType) (d a b : RCode) (x : RowX) : Statement (.vshuf ty d a b x) := of_some _ rfl
theorem vscan (ty : RType) (d a : RCode) (x : RowX) : Statement (.vscan ty d a x) := of_some _ rfl
theorem viota (ty : RType) (d : RCode) (a : SReg) (x : RowX) : Statement (.viota ty d a x) := of_some _ rfl
theorem vrot (ty : RType) (d a : RCode) (b : SReg) (x : RowX) : Statement (.vrot ty d a b x) := of_some _ rfl
theorem mmaAcc (d : AccR) (a b : Ring) (m : MatX) : Statement (.mmaAcc d a b m) := of_some _ rfl
theorem mmaOvw (d : AccR) (a b : Ring) (m : MatX) : Statement (.mmaOvw d a b m) := of_some _ rfl
theorem mmaKeepb (d : AccR) (a b : Ring) (m : MatX) : Statement (.mmaKeepb d a b m) := of_some _ rfl
theorem mmaKeepa (d : AccR) (a b : Ring) (m : MatX) : Statement (.mmaKeepa d a b m) := of_some _ rfl
theorem mmq (d : AccR) (a b : Ring) (wa wb : Fin 16) : Statement (.mmq d a b wa wb) := of_some _ rfl
theorem mmg (d : AccR) (a b : Ring) (m : MatX) : Statement (.mmg d a b m) := of_some _ rfl
theorem chkv (d : SReg) (a : AccR) : Statement (.chkv d a) := of_some _ rfl
theorem cfix (d : SReg) (a : AccR) : Statement (.cfix d a) := of_some _ rfl
theorem csrd (d : SReg) (a : AccR) (b : SReg) : Statement (.csrd d a b) := of_some _ rfl
theorem macz (d : AccR) : Statement (.macz d) := of_some _ rfl
theorem macrdF32 (t : TReg) (a : AccR) : Statement (.macrdF32 t a) := of_some _ rfl
theorem macrdBf16 (t : TReg) (half : Fin 2) (a : AccR) : Statement (.macrdBf16 t half a) := of_some _ rfl
theorem macrdT8 (t : TReg) (quarter : Fin 4) (a : AccR) (c : SReg) : Statement (.macrdT8 t quarter a c) := of_some _ rfl
theorem macwr (d : AccR) (t : TReg) : Statement (.macwr d t) := of_some _ rfl
theorem mwait0 : Statement (.mwait0) := of_some _ rfl
theorem mwait1 : Statement (.mwait1) := of_some _ rfl
theorem mwait2 : Statement (.mwait2) := of_some _ rfl
theorem mwait3 : Statement (.mwait3) := of_some _ rfl
theorem mwait4 : Statement (.mwait4) := of_some _ rfl
theorem mwait5 : Statement (.mwait5) := of_some _ rfl
theorem mwait6 : Statement (.mwait6) := of_some _ rfl
theorem mwait7 : Statement (.mwait7) := of_some _ rfl
theorem mwaitAll : Statement (.mwaitAll) := of_some _ rfl
theorem mtr (d a : AccR) : Statement (.mtr d a) := of_some _ rfl
theorem rcfg (h : Ring) (a : SReg) : Statement (.rcfg h a) := of_some _ rfl
theorem rqry (d : SReg) (h : Ring) : Statement (.rqry d h) := of_some _ rfl
theorem rpsh (t : Option (Fin 4)) (h : Ring) (rep : Rep) : Statement (.rpsh t h rep) := of_some _ rfl
theorem rtak (t : Option TReg) (h : Ring) (rep : Rep) (w : Fin 16) : Statement (.rtak t h rep w) := of_some _ rfl
theorem kadd (d a b : KReg) : Statement (.kadd d a b) := of_some _ rfl
theorem ksub (d a b : KReg) : Statement (.ksub d a b) := of_some _ rfl
theorem kmul (d a b : KReg) : Statement (.kmul d a b) := of_some _ rfl
theorem kfma (d a b : KReg) : Statement (.kfma d a b) := of_some _ rfl
theorem kaddd (d a : KReg) (t : TReg) : Statement (.kaddd d a t) := of_some _ rfl
theorem kscl (d a : KReg) (b : SReg) : Statement (.kscl d a b) := of_some _ rfl
theorem kmuld (d a : KReg) (t : TReg) : Statement (.kmuld d a t) := of_some _ rfl
theorem kvsub (d a b : KReg) : Statement (.kvsub d a b) := of_some _ rfl
theorem knlRelu (d a : KReg) : Statement (.knlRelu d a) := of_some _ rfl
theorem knlExp (d a : KReg) : Statement (.knlExp d a) := of_some _ rfl
theorem knlSig (d a : KReg) : Statement (.knlSig d a) := of_some _ rfl
theorem knlSq (d a : KReg) : Statement (.knlSq d a) := of_some _ rfl
theorem knlRcp (d a : KReg) : Statement (.knlRcp d a) := of_some _ rfl
theorem kmk (d : KReg) (a : Fin 8) (b : Option (Fin 8)) (bank : Bool) : Statement (.kmk d a b bank) := of_some _ rfl
theorem kcolMean (t : TReg) (a : KReg) : Statement (.kcolMean t a) := of_some _ rfl
theorem kcolVar (t : TReg) (a : KReg) : Statement (.kcolVar t a) := of_some _ rfl
theorem kcolSdev (t : TReg) (a : KReg) : Statement (.kcolSdev t a) := of_some _ rfl
theorem kcolDraw (t : Fin 8) (a : KReg) (b : RCode) (base : Fin 16) (bank : Bool) (c : SReg) : Statement (.kcolDraw t a b base bank c) := of_some _ rfl
theorem kldMp32 (d : KReg) (a : SReg) : Statement (.kldMp32 d a) := of_some _ rfl
theorem kldMb16 (d : KReg) (a : SReg) : Statement (.kldMb16 d a) := of_some _ rfl
theorem kstMp32 (d : KReg) (a : SReg) : Statement (.kstMp32 d a) := of_some _ rfl
theorem kstMb16 (d : KReg) (a : SReg) : Statement (.kstMb16 d a) := of_some _ rfl
theorem kmmaDwAcc (d : AccR) (a b : Ring) (keep : Keep) (m : MatX) : Statement (.kmmaDwAcc d a b keep m) := of_some _ rfl
theorem kmmaMwAcc (d : AccR) (a b : Ring) (keep : Keep) (m : MatX) : Statement (.kmmaMwAcc d a b keep m) := of_some _ rfl
theorem kmmaDwOvw (d : AccR) (a b : Ring) (keep : Keep) (m : MatX) : Statement (.kmmaDwOvw d a b keep m) := of_some _ rfl
theorem kmmaMwOvw (d : AccR) (a b : Ring) (keep : Keep) (m : MatX) : Statement (.kmmaMwOvw d a b keep m) := of_some _ rfl
theorem kacrd (d : KReg) (a : AccR) : Statement (.kacrd d a) := of_some _ rfl
theorem kred (d a : KReg) : Statement (.kred d a) := of_some _ rfl
theorem kmode (a b : SReg) : Statement (.kmode a b) := of_some _ rfl
theorem kmov (d a : KReg) : Statement (.kmov d a) := of_some _ rfl
theorem kmovTr (d a : KReg) : Statement (.kmovTr d a) := of_some _ rfl
theorem qnt (f : NarrowSel) (d : RCode) (a : Fin 8) (base : Fin 16) (bank : Bool) (c : SReg) : Statement (.qnt f d a base bank c) := of_some _ rfl
theorem dqn (f : NarrowSel) (d : Fin 8) (a : RCode) (base : Fin 16) (bank : Bool) (c : SReg) : Statement (.dqn f d a base bank c) := of_some _ rfl
theorem baq (d a b : RCode) (base : Fin 16) (bank : Bool) (c : SReg) : Statement (.baq d a b base bank c) := of_some _ rfl
theorem trap (code : Nat) : Statement (.trap code) := of_map _ _ fun _ => rfl
theorem tret : Statement (.tret) := of_some _ rfl
theorem rpqrd (d a : SReg) : Statement (.rpqrd d a) := of_some _ rfl
theorem rpqwr (a b : SReg) : Statement (.rpqwr a b) := of_some _ rfl
theorem rpqdrp (a : SReg) : Statement (.rpqdrp a) := of_some _ rfl
theorem rpqlen (d : SReg) : Statement (.rpqlen d) := of_some _ rfl
theorem srd (d : SReg) (n : Fin 256) : Statement (.srd d n) := of_some _ rfl
theorem swr (n : Fin 256) (d : SReg) : Statement (.swr n d) := of_some _ rfl
theorem swrCki (d : SReg) : Statement (.swrCki d) := of_some _ rfl
theorem swrMctl (d : SReg) : Statement (.swrMctl d) := of_some _ rfl
theorem swrFfl (d : SReg) : Statement (.swrFfl d) := of_some _ rfl
theorem swrTvec (d : SReg) : Statement (.swrTvec d) := of_some _ rfl
theorem cro (imm : Int) : Statement (.cro imm) := of_map _ _ fun _ => rfl
theorem crc : Statement (.crc) := of_some _ rfl
theorem chke (d a : SReg) : Statement (.chke d a) := of_some _ rfl
theorem sigS (a : SReg) : Statement (.sigS a) := of_some _ rfl
theorem sigR (a : RCode) (base : Fin 16) (bank : Bool) : Statement (.sigR a base bank) := of_some _ rfl
theorem sigT (t : TReg) : Statement (.sigT t) := of_some _ rfl
theorem sigRd (d : SReg) : Statement (.sigRd d) := of_some _ rfl
theorem inj (a b : SReg) : Statement (.inj a b) := of_some _ rfl
theorem ctxsv (d a : SReg) : Statement (.ctxsv d a) := of_some _ rfl
theorem ctxld (a : SReg) : Statement (.ctxld a) := of_some _ rfl
theorem pack (d : SReg) : Statement (.pack d) := of_some _ rfl
theorem qsvcPing : Statement (.qsvcPing) := of_some _ rfl
theorem qsvcMap : Statement (.qsvcMap) := of_some _ rfl
theorem qsvcUnmap : Statement (.qsvcUnmap) := of_some _ rfl
theorem qsvcGroup : Statement (.qsvcGroup) := of_some _ rfl
theorem qsvcYield : Statement (.qsvcYield) := of_some _ rfl
theorem qsvcReport : Statement (.qsvcReport) := of_some _ rfl
theorem qsvcDebug : Statement (.qsvcDebug) := of_some _ rfl
theorem qsvcUnknown : Statement (.qsvcUnknown) := of_some _ rfl
theorem idle (a : SReg) : Statement (.idle a) := of_some _ rfl
theorem metr (d a : SReg) : Statement (.metr d a) := of_some _ rfl
theorem divideComplete (e : Fin 8) : Statement (.divideComplete e) := of_none
theorem allocResponse (e : Fin 8) (base : Option Nat) : Statement (.allocResponse e base) := of_none
theorem quayResponse (e : Fin 8) : Statement (.quayResponse e) := of_none
theorem remoteResponse (p : Packet) : Statement (.remoteResponse p) := of_none
theorem translationResponse : Statement (.translationResponse) := of_none
theorem scrubTick : Statement (.scrubTick) := of_none
theorem scrubModule (found : ModuleError) : Statement (.scrubModule found) := of_none
theorem heldSlotWritePerform : Statement (.heldSlotWritePerform) := of_none
theorem messageDelivery (p : Packet) : Statement (.messageDelivery p) := of_none
theorem inboxAppendAfterWait : Statement (.inboxAppendAfterWait) := of_none
theorem ringMessageDelivery (p : Packet) : Statement (.ringMessageDelivery p) := of_none
theorem ringMessageAfterWait : Statement (.ringMessageAfterWait) := of_none
theorem activationStart : Statement (.activationStart) := of_none
theorem seqWindowArrival (p : Packet) : Statement (.seqWindowArrival p) := of_none
theorem ackReceived (p : Packet) : Statement (.ackReceived p) := of_none
theorem retryReceived (p : Packet) : Statement (.retryReceived p) := of_none
theorem retryWaitExpiry (k : Nat) : Statement (.retryWaitExpiry k) := of_none
theorem rejectReceived (p : Packet) : Statement (.rejectReceived p) := of_none
theorem resendNotice (gen : BitVec 16) : Statement (.resendNotice gen) := of_none
theorem unackedTimeout (k : Nat) : Statement (.unackedTimeout k) := of_none
theorem vc0RequestRetry (e : Fin 8) : Statement (.vc0RequestRetry e) := of_none
theorem packetAgeTick (k : Nat) : Statement (.packetAgeTick k) := of_none
theorem flitCrcError (l : Link) : Statement (.flitCrcError l) := of_none
theorem linkCrcThreshold (l : Link) : Statement (.linkCrcThreshold l) := of_none
theorem linkCreditTimeout (l : Link) : Statement (.linkCreditTimeout l) := of_none
theorem failureReport (l : Link) (detour : Option (List RouterWrite)) : Statement (.failureReport l detour) := of_none
theorem regionFirewallCheck (p : Packet) (region : Nat) : Statement (.regionFirewallCheck p region) := of_none
theorem tileRetirement (region : Nat) (col prow : Nat) (spare : Bool) (rewrites : List RouterWrite) : Statement (.tileRetirement region col prow spare rewrites) := of_none
theorem remoteAtomicAtHome (p : Packet) : Statement (.remoteAtomicAtHome p) := of_none
theorem leaseRecall (hx hy sector : Nat) : Statement (.leaseRecall hx hy sector) := of_none
theorem leaseWriteBack (p : Packet) : Statement (.leaseWriteBack p) := of_none
theorem phaserArrivalAtHome (r : PhReq) : Statement (.phaserArrivalAtHome r) := of_none
theorem phaserWaitAtHome (r : PhReq) : Statement (.phaserWaitAtHome r) := of_none
theorem phaserRelease (e : Fin 8) (phase : BitVec 16) : Statement (.phaserRelease e phase) := of_none
theorem phaserRegisterAtHome (r : PhReq) : Statement (.phaserRegisterAtHome r) := of_none
theorem barrierEpisodeComplete (sc : Scope) (ps : PhaserSet) (ep : BitVec 16) : Statement (.barrierEpisodeComplete sc ps ep) := of_none
theorem barrierRelease (e : Fin 8) : Statement (.barrierRelease e) := of_none
theorem copyOperationStart : Statement (.copyOperationStart) := of_none
theorem copyRingRoom : Statement (.copyRingRoom) := of_none
theorem copyChunkTransfer : Statement (.copyChunkTransfer) := of_none
theorem copyOperationEnd : Statement (.copyOperationEnd) := of_none
theorem completionPlaceDeferred : Statement (.completionPlaceDeferred) := of_none
theorem storageCommandComplete (tag : BitVec 16) (ans : KvAnswer) : Statement (.storageCommandComplete tag ans) := of_none
theorem collContributionArrival (slot : Nat) (c : CollContribution) : Statement (.collContributionArrival slot c) := of_none
theorem gatewayIndexReturn : Statement (.gatewayIndexReturn) := of_none
theorem gatewayIndexTimeout (slot block : Nat) : Statement (.gatewayIndexTimeout slot block) := of_none
theorem collTimeout (slot : Nat) : Statement (.collTimeout slot) := of_none
theorem collPeerLost (slot member : Nat) : Statement (.collPeerLost slot member) := of_none
theorem unitOperationStart : Statement (.unitOperationStart) := of_none
theorem unitOperationRetire : Statement (.unitOperationRetire) := of_none
theorem rpshSlotFilled : Statement (.rpshSlotFilled) := of_none
theorem mmqRendezvous : Statement (.mmqRendezvous) := of_none
theorem mmqRetireSignal : Statement (.mmqRetireSignal) := of_none
theorem mmqTimeout : Statement (.mmqTimeout) := of_none
theorem trapTake (cause : Cause) (va tpc : BitVec 64) (dfr : Bool) : Statement (.trapTake cause va tpc dfr) := of_none
theorem forwardResume : Statement (.forwardResume) := of_none
theorem forwardDeliver : Statement (.forwardDeliver) := of_none
theorem forwardKill : Statement (.forwardKill) := of_none
theorem containmentUnwind (u : UCause) : Statement (.containmentUnwind u) := of_none
theorem deferredEvent : Statement (.deferredEvent) := of_none
theorem iabHit : Statement (.iabHit) := of_none
theorem singleStep : Statement (.singleStep) := of_none
theorem lockstepMismatch (again : Bool) : Statement (.lockstepMismatch again) := of_none
theorem stopRequest : Statement (.stopRequest) := of_none
theorem collectorQuiescent (ctx tag : Nat) : Statement (.collectorQuiescent ctx tag) := of_none
theorem stopAckTimeout (ctx tag : Nat) : Statement (.stopAckTimeout ctx tag) := of_none
theorem launchQueueTake (region : Nat) (c : PlaceChoice) : Statement (.launchQueueTake region c) := of_none
theorem teamEnd (ctx tag : Nat) : Statement (.teamEnd ctx tag) := of_none
theorem teamSwapOut (ctx tag : Nat) : Statement (.teamSwapOut ctx tag) := of_none
theorem spillDivert (p : Packet) : Statement (.spillDivert p) := of_none
theorem teamSwapIn (ctx tag : Nat) (c : PlaceChoice) : Statement (.teamSwapIn ctx tag c) := of_none
theorem tokenBucketRefill (ctx : Nat) : Statement (.tokenBucketRefill ctx) := of_none
theorem tokenBucketEmpty (ctx : Nat) : Statement (.tokenBucketEmpty ctx) := of_none
theorem energyMeterPeriod (region microjoules : Nat) : Statement (.energyMeterPeriod region microjoules) := of_none
theorem journalCheckpoint (quay : Nat) : Statement (.journalCheckpoint quay) := of_none
theorem journalGapRecord (quay : Nat) : Statement (.journalGapRecord quay) := of_none
theorem idleWake : Statement (.idleWake) := of_none
theorem q4RequestService : Statement (.q4RequestService) := of_none
theorem clockStepChange (region : Nat) (up : Bool) : Statement (.clockStepChange region up) := of_none
theorem pllRelockDone (region : Nat) : Statement (.pllRelockDone region) := of_none
theorem governorTick (milliwatts : Nat) : Statement (.governorTick milliwatts) := of_none
theorem droopStretch (region : Nat) (percent : Nat) : Statement (.droopStretch region percent) := of_none
theorem rampInTolerance (region : Nat) : Statement (.rampInTolerance region) := of_none
theorem rampTimeout (region : Nat) : Statement (.rampTimeout region) := of_none
theorem regulatorFault (region : Nat) : Statement (.regulatorFault region) := of_none
theorem coolDone (region : Nat) : Statement (.coolDone region) := of_none
theorem triesReset (region : Nat) : Statement (.triesReset region) := of_none
theorem modulePowerCycle : Statement (.modulePowerCycle) := of_none
theorem moduleBoot (b : BootFacts) : Statement (.moduleBoot b) := of_none
theorem launch (f : Frame) (pkt : LaunchPacket) : Statement (.launch f pkt) := of_none
theorem write (f : Frame) (ctx off : Nat) (data : List (BitVec 8)) : Statement (.write f ctx off data) := of_none
theorem read (f : Frame) (ctx off len : Nat) : Statement (.read f ctx off len) := of_none
theorem queryResidency (f : Frame) : Statement (.queryResidency f) := of_none
theorem queryCounters (f : Frame) (ctx : Nat) : Statement (.queryCounters f ctx) := of_none
theorem queryErrorLog (f : Frame) (region : Nat) : Statement (.queryErrorLog f region) := of_none
theorem queryTrace (f : Frame) (region : Nat) : Statement (.queryTrace f region) := of_none
theorem allocateQuarters (f : Frame) (q : QuarterGrant) : Statement (.allocateQuarters f q) := of_none
theorem allocateCreateContext (f : Frame) (c : CtxRequest) : Statement (.allocateCreateContext f c) := of_none
theorem allocateReleaseContext (f : Frame) (ctx : Nat) : Statement (.allocateReleaseContext f ctx) := of_none
theorem stopContext (f : Frame) (ctx : Nat) : Statement (.stopContext f ctx) := of_none
theorem stopTeam (f : Frame) (ctx tag : Nat) : Statement (.stopTeam f ctx tag) := of_none
theorem attest (f : Frame) (nonce : List (BitVec 8)) : Statement (.attest f nonce) := of_none
theorem journal (f : Frame) (quay : Nat) : Statement (.journal f quay) := of_none
theorem promiseDeadline (tag : Fin 8) : Statement (.promiseDeadline tag) := of_none
theorem placementCacheFill : Statement (.placementCacheFill) := of_none
theorem swapAnnouncement (ctx tag : Nat) : Statement (.swapAnnouncement ctx tag) := of_none
theorem edgeMemoryModuleFailure (engine : Bool) (number : Nat) : Statement (.edgeMemoryModuleFailure engine number) := of_none
theorem hostRdmaOperation (part window off : Nat) (write : Option (List (BitVec 8))) (len : Nat) : Statement (.hostRdmaOperation part window off write len) := of_none

end Sys2Proof.Laws.Opcode
end

