-- ==== Sys2Proof/Laws/State.lean ====
section
/-! SUPPORT. One lemma per field and update of a core and of the machine, each true by rfl, so that no proof unfolds a record update. -/

namespace Sys2Proof.Machine

/-! ### Core.retire -/

@[simp] theorem Core.retire_npc (c : Core) : (c.retire).npc = c.npc := rfl
@[simp] theorem Core.retire_active (c : Core) : (c.retire).active = c.active := rfl
@[simp] theorem Core.retire_regs (c : Core) : (c.retire).regs = c.regs := rfl
@[simp] theorem Core.retire_live (c : Core) : (c.retire).live = c.live := rfl
@[simp] theorem Core.retire_rf (c : Core) : (c.retire).rf = c.rf := rfl
@[simp] theorem Core.retire_sr (c : Core) : (c.retire).sr = c.sr := rfl
@[simp] theorem Core.retire_tr (c : Core) : (c.retire).tr = c.tr := rfl
@[simp] theorem Core.retire_frames (c : Core) : (c.retire).frames = c.frames := rfl
@[simp] theorem Core.retire_ucause (c : Core) : (c.retire).ucause = c.ucause := rfl
@[simp] theorem Core.retire_uopc (c : Core) : (c.retire).uopc = c.uopc := rfl
@[simp] theorem Core.retire_sig (c : Core) : (c.retire).sig = c.sig := rfl
@[simp] theorem Core.retire_rq (c : Core) : (c.retire).rq = c.rq := rfl
@[simp] theorem Core.retire_berths (c : Core) : (c.retire).berths = c.berths := rfl
@[simp] theorem Core.retire_guard (c : Core) : (c.retire).guard = c.guard := rfl
@[simp] theorem Core.retire_lastPrio (c : Core) : (c.retire).lastPrio = c.lastPrio := rfl
@[simp] theorem Core.retire_q (c : Core) : (c.retire).q = c.q := rfl
@[simp] theorem Core.retire_kvTag (c : Core) : (c.retire).kvTag = c.kvTag := rfl
@[simp] theorem Core.retire_kvOut (c : Core) : (c.retire).kvOut = c.kvOut := rfl
@[simp] theorem Core.retire_members (c : Core) : (c.retire).members = c.members := rfl
@[simp] theorem Core.retire_stagePick (c : Core) : (c.retire).stagePick = c.stagePick := rfl
@[simp] theorem Core.retire_upset (c : Core) : (c.retire).upset = c.upset := rfl
@[simp] theorem Core.retire_stopAsked (c : Core) : (c.retire).stopAsked = c.stopAsked := rfl
@[simp] theorem Core.retire_bars (c : Core) : (c.retire).bars = c.bars := rfl
@[simp] theorem Core.retire_link (c : Core) : (c.retire).link = c.link := rfl
@[simp] theorem Core.retire_unit (c : Core) : (c.retire).unit = c.unit := rfl
@[simp] theorem Core.retire_rpsh (c : Core) : (c.retire).rpsh = c.rpsh := rfl
@[simp] theorem Core.retire_xlatReq (c : Core) : (c.retire).xlatReq = c.xlatReq := rfl
@[simp] theorem Core.retire_plReq (c : Core) : (c.retire).plReq = c.plReq := rfl
@[simp] theorem Core.retire_advisory (c : Core) : (c.retire).advisory = c.advisory := rfl
@[simp] theorem Core.retire_injRow (c : Core) : (c.retire).injRow = c.injRow := rfl
@[simp] theorem Core.retire_injMat (c : Core) : (c.retire).injMat = c.injMat := rfl
@[simp] theorem Core.retire_stopped (c : Core) : (c.retire).stopped = c.stopped := rfl
@[simp] theorem Core.retire_dead (c : Core) : (c.retire).dead = c.dead := rfl
@[simp] theorem Core.retire_ended (c : Core) : (c.retire).ended = c.ended := rfl
@[simp] theorem Core.retire_asleep (c : Core) : (c.retire).asleep = c.asleep := rfl
@[simp] theorem Core.retire_iabSkip (c : Core) : (c.retire).iabSkip = c.iabSkip := rfl
@[simp] theorem Core.retire_pc (c : Core) : c.retire.pc = c.npc := rfl
@[simp] theorem Core.retire_issued (c : Core) : c.retire.issued = true := rfl

/-! ### Core.goto -/

@[simp] theorem Core.goto_npc (c : Core) (a : Word) : (c.goto a).npc = c.npc := rfl
@[simp] theorem Core.goto_active (c : Core) (a : Word) : (c.goto a).active = c.active := rfl
@[simp] theorem Core.goto_regs (c : Core) (a : Word) : (c.goto a).regs = c.regs := rfl
@[simp] theorem Core.goto_live (c : Core) (a : Word) : (c.goto a).live = c.live := rfl
@[simp] theorem Core.goto_rf (c : Core) (a : Word) : (c.goto a).rf = c.rf := rfl
@[simp] theorem Core.goto_sr (c : Core) (a : Word) : (c.goto a).sr = c.sr := rfl
@[simp] theorem Core.goto_tr (c : Core) (a : Word) : (c.goto a).tr = c.tr := rfl
@[simp] theorem Core.goto_frames (c : Core) (a : Word) : (c.goto a).frames = c.frames := rfl
@[simp] theorem Core.goto_ucause (c : Core) (a : Word) : (c.goto a).ucause = c.ucause := rfl
@[simp] theorem Core.goto_uopc (c : Core) (a : Word) : (c.goto a).uopc = c.uopc := rfl
@[simp] theorem Core.goto_sig (c : Core) (a : Word) : (c.goto a).sig = c.sig := rfl
@[simp] theorem Core.goto_rq (c : Core) (a : Word) : (c.goto a).rq = c.rq := rfl
@[simp] theorem Core.goto_berths (c : Core) (a : Word) : (c.goto a).berths = c.berths := rfl
@[simp] theorem Core.goto_guard (c : Core) (a : Word) : (c.goto a).guard = c.guard := rfl
@[simp] theorem Core.goto_lastPrio (c : Core) (a : Word) : (c.goto a).lastPrio = c.lastPrio := rfl
@[simp] theorem Core.goto_q (c : Core) (a : Word) : (c.goto a).q = c.q := rfl
@[simp] theorem Core.goto_kvTag (c : Core) (a : Word) : (c.goto a).kvTag = c.kvTag := rfl
@[simp] theorem Core.goto_kvOut (c : Core) (a : Word) : (c.goto a).kvOut = c.kvOut := rfl
@[simp] theorem Core.goto_members (c : Core) (a : Word) : (c.goto a).members = c.members := rfl
@[simp] theorem Core.goto_stagePick (c : Core) (a : Word) : (c.goto a).stagePick = c.stagePick := rfl
@[simp] theorem Core.goto_upset (c : Core) (a : Word) : (c.goto a).upset = c.upset := rfl
@[simp] theorem Core.goto_stopAsked (c : Core) (a : Word) : (c.goto a).stopAsked = c.stopAsked := rfl
@[simp] theorem Core.goto_bars (c : Core) (a : Word) : (c.goto a).bars = c.bars := rfl
@[simp] theorem Core.goto_link (c : Core) (a : Word) : (c.goto a).link = c.link := rfl
@[simp] theorem Core.goto_unit (c : Core) (a : Word) : (c.goto a).unit = c.unit := rfl
@[simp] theorem Core.goto_rpsh (c : Core) (a : Word) : (c.goto a).rpsh = c.rpsh := rfl
@[simp] theorem Core.goto_xlatReq (c : Core) (a : Word) : (c.goto a).xlatReq = c.xlatReq := rfl
@[simp] theorem Core.goto_plReq (c : Core) (a : Word) : (c.goto a).plReq = c.plReq := rfl
@[simp] theorem Core.goto_advisory (c : Core) (a : Word) : (c.goto a).advisory = c.advisory := rfl
@[simp] theorem Core.goto_injRow (c : Core) (a : Word) : (c.goto a).injRow = c.injRow := rfl
@[simp] theorem Core.goto_injMat (c : Core) (a : Word) : (c.goto a).injMat = c.injMat := rfl
@[simp] theorem Core.goto_stopped (c : Core) (a : Word) : (c.goto a).stopped = c.stopped := rfl
@[simp] theorem Core.goto_dead (c : Core) (a : Word) : (c.goto a).dead = c.dead := rfl
@[simp] theorem Core.goto_ended (c : Core) (a : Word) : (c.goto a).ended = c.ended := rfl
@[simp] theorem Core.goto_asleep (c : Core) (a : Word) : (c.goto a).asleep = c.asleep := rfl
@[simp] theorem Core.goto_iabSkip (c : Core) (a : Word) : (c.goto a).iabSkip = c.iabSkip := rfl
@[simp] theorem Core.goto_pc (c : Core) (a : Word) : (c.goto a).pc = a := rfl
@[simp] theorem Core.goto_issued (c : Core) (a : Word) : (c.goto a).issued = true := rfl

/-! ### Core.setEntry -/

@[simp] theorem Core.setEntry_pc (c : Core) (n : Fin 8) (e : Entry) : (c.setEntry n e).pc = c.pc := rfl
@[simp] theorem Core.setEntry_npc (c : Core) (n : Fin 8) (e : Entry) : (c.setEntry n e).npc = c.npc := rfl
@[simp] theorem Core.setEntry_active (c : Core) (n : Fin 8) (e : Entry) : (c.setEntry n e).active = c.active := rfl
@[simp] theorem Core.setEntry_regs (c : Core) (n : Fin 8) (e : Entry) : (c.setEntry n e).regs = c.regs := rfl
@[simp] theorem Core.setEntry_live (c : Core) (n : Fin 8) (e : Entry) : (c.setEntry n e).live = c.live := rfl
@[simp] theorem Core.setEntry_rf (c : Core) (n : Fin 8) (e : Entry) : (c.setEntry n e).rf = c.rf := rfl
@[simp] theorem Core.setEntry_sr (c : Core) (n : Fin 8) (e : Entry) : (c.setEntry n e).sr = c.sr := rfl
@[simp] theorem Core.setEntry_tr (c : Core) (n : Fin 8) (e : Entry) : (c.setEntry n e).tr = c.tr := rfl
@[simp] theorem Core.setEntry_frames (c : Core) (n : Fin 8) (e : Entry) : (c.setEntry n e).frames = c.frames := rfl
@[simp] theorem Core.setEntry_ucause (c : Core) (n : Fin 8) (e : Entry) : (c.setEntry n e).ucause = c.ucause := rfl
@[simp] theorem Core.setEntry_uopc (c : Core) (n : Fin 8) (e : Entry) : (c.setEntry n e).uopc = c.uopc := rfl
@[simp] theorem Core.setEntry_sig (c : Core) (n : Fin 8) (e : Entry) : (c.setEntry n e).sig = c.sig := rfl
@[simp] theorem Core.setEntry_berths (c : Core) (n : Fin 8) (e : Entry) : (c.setEntry n e).berths = c.berths := rfl
@[simp] theorem Core.setEntry_guard (c : Core) (n : Fin 8) (e : Entry) : (c.setEntry n e).guard = c.guard := rfl
@[simp] theorem Core.setEntry_lastPrio (c : Core) (n : Fin 8) (e : Entry) : (c.setEntry n e).lastPrio = c.lastPrio := rfl
@[simp] theorem Core.setEntry_q (c : Core) (n : Fin 8) (e : Entry) : (c.setEntry n e).q = c.q := rfl
@[simp] theorem Core.setEntry_kvTag (c : Core) (n : Fin 8) (e : Entry) : (c.setEntry n e).kvTag = c.kvTag := rfl
@[simp] theorem Core.setEntry_kvOut (c : Core) (n : Fin 8) (e : Entry) : (c.setEntry n e).kvOut = c.kvOut := rfl
@[simp] theorem Core.setEntry_members (c : Core) (n : Fin 8) (e : Entry) : (c.setEntry n e).members = c.members := rfl
@[simp] theorem Core.setEntry_stagePick (c : Core) (n : Fin 8) (e : Entry) : (c.setEntry n e).stagePick = c.stagePick := rfl
@[simp] theorem Core.setEntry_upset (c : Core) (n : Fin 8) (e : Entry) : (c.setEntry n e).upset = c.upset := rfl
@[simp] theorem Core.setEntry_stopAsked (c : Core) (n : Fin 8) (e : Entry) : (c.setEntry n e).stopAsked = c.stopAsked := rfl
@[simp] theorem Core.setEntry_bars (c : Core) (n : Fin 8) (e : Entry) : (c.setEntry n e).bars = c.bars := rfl
@[simp] theorem Core.setEntry_link (c : Core) (n : Fin 8) (e : Entry) : (c.setEntry n e).link = c.link := rfl
@[simp] theorem Core.setEntry_unit (c : Core) (n : Fin 8) (e : Entry) : (c.setEntry n e).unit = c.unit := rfl
@[simp] theorem Core.setEntry_rpsh (c : Core) (n : Fin 8) (e : Entry) : (c.setEntry n e).rpsh = c.rpsh := rfl
@[simp] theorem Core.setEntry_xlatReq (c : Core) (n : Fin 8) (e : Entry) : (c.setEntry n e).xlatReq = c.xlatReq := rfl
@[simp] theorem Core.setEntry_plReq (c : Core) (n : Fin 8) (e : Entry) : (c.setEntry n e).plReq = c.plReq := rfl
@[simp] theorem Core.setEntry_advisory (c : Core) (n : Fin 8) (e : Entry) : (c.setEntry n e).advisory = c.advisory := rfl
@[simp] theorem Core.setEntry_injRow (c : Core) (n : Fin 8) (e : Entry) : (c.setEntry n e).injRow = c.injRow := rfl
@[simp] theorem Core.setEntry_injMat (c : Core) (n : Fin 8) (e : Entry) : (c.setEntry n e).injMat = c.injMat := rfl
@[simp] theorem Core.setEntry_stopped (c : Core) (n : Fin 8) (e : Entry) : (c.setEntry n e).stopped = c.stopped := rfl
@[simp] theorem Core.setEntry_dead (c : Core) (n : Fin 8) (e : Entry) : (c.setEntry n e).dead = c.dead := rfl
@[simp] theorem Core.setEntry_ended (c : Core) (n : Fin 8) (e : Entry) : (c.setEntry n e).ended = c.ended := rfl
@[simp] theorem Core.setEntry_asleep (c : Core) (n : Fin 8) (e : Entry) : (c.setEntry n e).asleep = c.asleep := rfl
@[simp] theorem Core.setEntry_iabSkip (c : Core) (n : Fin 8) (e : Entry) : (c.setEntry n e).iabSkip = c.iabSkip := rfl
@[simp] theorem Core.setEntry_issued (c : Core) (n : Fin 8) (e : Entry) : (c.setEntry n e).issued = c.issued := rfl
@[simp] theorem Core.setEntry_rq (c : Core) (n : Fin 8) (e : Entry) : (c.setEntry n e).rq = vput c.rq n e := rfl

/-! ### Core.dropEntry -/

@[simp] theorem Core.dropEntry_pc (c : Core) (n : Fin 8) : (c.dropEntry n).pc = c.pc := rfl
@[simp] theorem Core.dropEntry_npc (c : Core) (n : Fin 8) : (c.dropEntry n).npc = c.npc := rfl
@[simp] theorem Core.dropEntry_active (c : Core) (n : Fin 8) : (c.dropEntry n).active = c.active := rfl
@[simp] theorem Core.dropEntry_regs (c : Core) (n : Fin 8) : (c.dropEntry n).regs = c.regs := rfl
@[simp] theorem Core.dropEntry_live (c : Core) (n : Fin 8) : (c.dropEntry n).live = c.live := rfl
@[simp] theorem Core.dropEntry_rf (c : Core) (n : Fin 8) : (c.dropEntry n).rf = c.rf := rfl
@[simp] theorem Core.dropEntry_sr (c : Core) (n : Fin 8) : (c.dropEntry n).sr = c.sr := rfl
@[simp] theorem Core.dropEntry_tr (c : Core) (n : Fin 8) : (c.dropEntry n).tr = c.tr := rfl
@[simp] theorem Core.dropEntry_frames (c : Core) (n : Fin 8) : (c.dropEntry n).frames = c.frames := rfl
@[simp] theorem Core.dropEntry_ucause (c : Core) (n : Fin 8) : (c.dropEntry n).ucause = c.ucause := rfl
@[simp] theorem Core.dropEntry_uopc (c : Core) (n : Fin 8) : (c.dropEntry n).uopc = c.uopc := rfl
@[simp] theorem Core.dropEntry_sig (c : Core) (n : Fin 8) : (c.dropEntry n).sig = c.sig := rfl
@[simp] theorem Core.dropEntry_berths (c : Core) (n : Fin 8) : (c.dropEntry n).berths = c.berths := rfl
@[simp] theorem Core.dropEntry_guard (c : Core) (n : Fin 8) : (c.dropEntry n).guard = c.guard := rfl
@[simp] theorem Core.dropEntry_lastPrio (c : Core) (n : Fin 8) : (c.dropEntry n).lastPrio = c.lastPrio := rfl
@[simp] theorem Core.dropEntry_q (c : Core) (n : Fin 8) : (c.dropEntry n).q = c.q := rfl
@[simp] theorem Core.dropEntry_kvTag (c : Core) (n : Fin 8) : (c.dropEntry n).kvTag = c.kvTag := rfl
@[simp] theorem Core.dropEntry_kvOut (c : Core) (n : Fin 8) : (c.dropEntry n).kvOut = c.kvOut := rfl
@[simp] theorem Core.dropEntry_members (c : Core) (n : Fin 8) : (c.dropEntry n).members = c.members := rfl
@[simp] theorem Core.dropEntry_stagePick (c : Core) (n : Fin 8) : (c.dropEntry n).stagePick = c.stagePick := rfl
@[simp] theorem Core.dropEntry_upset (c : Core) (n : Fin 8) : (c.dropEntry n).upset = c.upset := rfl
@[simp] theorem Core.dropEntry_stopAsked (c : Core) (n : Fin 8) : (c.dropEntry n).stopAsked = c.stopAsked := rfl
@[simp] theorem Core.dropEntry_bars (c : Core) (n : Fin 8) : (c.dropEntry n).bars = c.bars := rfl
@[simp] theorem Core.dropEntry_link (c : Core) (n : Fin 8) : (c.dropEntry n).link = c.link := rfl
@[simp] theorem Core.dropEntry_unit (c : Core) (n : Fin 8) : (c.dropEntry n).unit = c.unit := rfl
@[simp] theorem Core.dropEntry_rpsh (c : Core) (n : Fin 8) : (c.dropEntry n).rpsh = c.rpsh := rfl
@[simp] theorem Core.dropEntry_xlatReq (c : Core) (n : Fin 8) : (c.dropEntry n).xlatReq = c.xlatReq := rfl
@[simp] theorem Core.dropEntry_plReq (c : Core) (n : Fin 8) : (c.dropEntry n).plReq = c.plReq := rfl
@[simp] theorem Core.dropEntry_advisory (c : Core) (n : Fin 8) : (c.dropEntry n).advisory = c.advisory := rfl
@[simp] theorem Core.dropEntry_injRow (c : Core) (n : Fin 8) : (c.dropEntry n).injRow = c.injRow := rfl
@[simp] theorem Core.dropEntry_injMat (c : Core) (n : Fin 8) : (c.dropEntry n).injMat = c.injMat := rfl
@[simp] theorem Core.dropEntry_stopped (c : Core) (n : Fin 8) : (c.dropEntry n).stopped = c.stopped := rfl
@[simp] theorem Core.dropEntry_dead (c : Core) (n : Fin 8) : (c.dropEntry n).dead = c.dead := rfl
@[simp] theorem Core.dropEntry_ended (c : Core) (n : Fin 8) : (c.dropEntry n).ended = c.ended := rfl
@[simp] theorem Core.dropEntry_asleep (c : Core) (n : Fin 8) : (c.dropEntry n).asleep = c.asleep := rfl
@[simp] theorem Core.dropEntry_iabSkip (c : Core) (n : Fin 8) : (c.dropEntry n).iabSkip = c.iabSkip := rfl
@[simp] theorem Core.dropEntry_issued (c : Core) (n : Fin 8) : (c.dropEntry n).issued = c.issued := rfl
@[simp] theorem Core.dropEntry_rq (c : Core) (n : Fin 8) : (c.dropEntry n).rq = vput c.rq n {} := rfl

/-! ### Core.setS -/

@[simp] theorem Core.setS_pc (c : Core) (d : SReg) (v : Word) : (c.setS d v).pc = c.pc := by unfold Core.setS; split <;> rfl
@[simp] theorem Core.setS_npc (c : Core) (d : SReg) (v : Word) : (c.setS d v).npc = c.npc := by unfold Core.setS; split <;> rfl
@[simp] theorem Core.setS_active (c : Core) (d : SReg) (v : Word) : (c.setS d v).active = c.active := by unfold Core.setS; split <;> rfl
@[simp] theorem Core.setS_rf (c : Core) (d : SReg) (v : Word) : (c.setS d v).rf = c.rf := by unfold Core.setS; split <;> rfl
@[simp] theorem Core.setS_sr (c : Core) (d : SReg) (v : Word) : (c.setS d v).sr = c.sr := by unfold Core.setS; split <;> rfl
@[simp] theorem Core.setS_tr (c : Core) (d : SReg) (v : Word) : (c.setS d v).tr = c.tr := by unfold Core.setS; split <;> rfl
@[simp] theorem Core.setS_frames (c : Core) (d : SReg) (v : Word) : (c.setS d v).frames = c.frames := by unfold Core.setS; split <;> rfl
@[simp] theorem Core.setS_ucause (c : Core) (d : SReg) (v : Word) : (c.setS d v).ucause = c.ucause := by unfold Core.setS; split <;> rfl
@[simp] theorem Core.setS_uopc (c : Core) (d : SReg) (v : Word) : (c.setS d v).uopc = c.uopc := by unfold Core.setS; split <;> rfl
@[simp] theorem Core.setS_sig (c : Core) (d : SReg) (v : Word) : (c.setS d v).sig = c.sig := by unfold Core.setS; split <;> rfl
@[simp] theorem Core.setS_rq (c : Core) (d : SReg) (v : Word) : (c.setS d v).rq = c.rq := by unfold Core.setS; split <;> rfl
@[simp] theorem Core.setS_berths (c : Core) (d : SReg) (v : Word) : (c.setS d v).berths = c.berths := by unfold Core.setS; split <;> rfl
@[simp] theorem Core.setS_guard (c : Core) (d : SReg) (v : Word) : (c.setS d v).guard = c.guard := by unfold Core.setS; split <;> rfl
@[simp] theorem Core.setS_lastPrio (c : Core) (d : SReg) (v : Word) : (c.setS d v).lastPrio = c.lastPrio := by unfold Core.setS; split <;> rfl
@[simp] theorem Core.setS_q (c : Core) (d : SReg) (v : Word) : (c.setS d v).q = c.q := by unfold Core.setS; split <;> rfl
@[simp] theorem Core.setS_kvTag (c : Core) (d : SReg) (v : Word) : (c.setS d v).kvTag = c.kvTag := by unfold Core.setS; split <;> rfl
@[simp] theorem Core.setS_kvOut (c : Core) (d : SReg) (v : Word) : (c.setS d v).kvOut = c.kvOut := by unfold Core.setS; split <;> rfl
@[simp] theorem Core.setS_members (c : Core) (d : SReg) (v : Word) : (c.setS d v).members = c.members := by unfold Core.setS; split <;> rfl
@[simp] theorem Core.setS_stagePick (c : Core) (d : SReg) (v : Word) : (c.setS d v).stagePick = c.stagePick := by unfold Core.setS; split <;> rfl
@[simp] theorem Core.setS_upset (c : Core) (d : SReg) (v : Word) : (c.setS d v).upset = c.upset := by unfold Core.setS; split <;> rfl
@[simp] theorem Core.setS_stopAsked (c : Core) (d : SReg) (v : Word) : (c.setS d v).stopAsked = c.stopAsked := by unfold Core.setS; split <;> rfl
@[simp] theorem Core.setS_bars (c : Core) (d : SReg) (v : Word) : (c.setS d v).bars = c.bars := by unfold Core.setS; split <;> rfl
@[simp] theorem Core.setS_link (c : Core) (d : SReg) (v : Word) : (c.setS d v).link = c.link := by unfold Core.setS; split <;> rfl
@[simp] theorem Core.setS_unit (c : Core) (d : SReg) (v : Word) : (c.setS d v).unit = c.unit := by unfold Core.setS; split <;> rfl
@[simp] theorem Core.setS_rpsh (c : Core) (d : SReg) (v : Word) : (c.setS d v).rpsh = c.rpsh := by unfold Core.setS; split <;> rfl
@[simp] theorem Core.setS_xlatReq (c : Core) (d : SReg) (v : Word) : (c.setS d v).xlatReq = c.xlatReq := by unfold Core.setS; split <;> rfl
@[simp] theorem Core.setS_plReq (c : Core) (d : SReg) (v : Word) : (c.setS d v).plReq = c.plReq := by unfold Core.setS; split <;> rfl
@[simp] theorem Core.setS_advisory (c : Core) (d : SReg) (v : Word) : (c.setS d v).advisory = c.advisory := by unfold Core.setS; split <;> rfl
@[simp] theorem Core.setS_injRow (c : Core) (d : SReg) (v : Word) : (c.setS d v).injRow = c.injRow := by unfold Core.setS; split <;> rfl
@[simp] theorem Core.setS_injMat (c : Core) (d : SReg) (v : Word) : (c.setS d v).injMat = c.injMat := by unfold Core.setS; split <;> rfl
@[simp] theorem Core.setS_stopped (c : Core) (d : SReg) (v : Word) : (c.setS d v).stopped = c.stopped := by unfold Core.setS; split <;> rfl
@[simp] theorem Core.setS_dead (c : Core) (d : SReg) (v : Word) : (c.setS d v).dead = c.dead := by unfold Core.setS; split <;> rfl
@[simp] theorem Core.setS_ended (c : Core) (d : SReg) (v : Word) : (c.setS d v).ended = c.ended := by unfold Core.setS; split <;> rfl
@[simp] theorem Core.setS_asleep (c : Core) (d : SReg) (v : Word) : (c.setS d v).asleep = c.asleep := by unfold Core.setS; split <;> rfl
@[simp] theorem Core.setS_iabSkip (c : Core) (d : SReg) (v : Word) : (c.setS d v).iabSkip = c.iabSkip := by unfold Core.setS; split <;> rfl
@[simp] theorem Core.setS_issued (c : Core) (d : SReg) (v : Word) : (c.setS d v).issued = c.issued := by unfold Core.setS; split <;> rfl

/-! ### State.setS -/

@[simp] theorem State.setS_sel (s : State) (d : SReg) (v : Word) : (s.setS d v).sel = s.sel := rfl
@[simp] theorem State.setS_peer (s : State) (d : SReg) (v : Word) : (s.setS d v).peer = s.peer := rfl
@[simp] theorem State.setS_tile (s : State) (d : SReg) (v : Word) : (s.setS d v).tile = s.tile := rfl
@[simp] theorem State.setS_tiles (s : State) (d : SReg) (v : Word) : (s.setS d v).tiles = s.tiles := rfl
@[simp] theorem State.setS_regions (s : State) (d : SReg) (v : Word) : (s.setS d v).regions = s.regions := rfl
@[simp] theorem State.setS_ctxs (s : State) (d : SReg) (v : Word) : (s.setS d v).ctxs = s.ctxs := rfl
@[simp] theorem State.setS_parts (s : State) (d : SReg) (v : Word) : (s.setS d v).parts = s.parts := rfl
@[simp] theorem State.setS_teams (s : State) (d : SReg) (v : Word) : (s.setS d v).teams = s.teams := rfl
@[simp] theorem State.setS_net (s : State) (d : SReg) (v : Word) : (s.setS d v).net = s.net := rfl
@[simp] theorem State.setS_modWins (s : State) (d : SReg) (v : Word) : (s.setS d v).modWins = s.modWins := rfl
@[simp] theorem State.setS_engWins (s : State) (d : SReg) (v : Word) : (s.setS d v).engWins = s.engWins := rfl
@[simp] theorem State.setS_modDups (s : State) (d : SReg) (v : Word) : (s.setS d v).modDups = s.modDups := rfl
@[simp] theorem State.setS_barriers (s : State) (d : SReg) (v : Word) : (s.setS d v).barriers = s.barriers := rfl
@[simp] theorem State.setS_storage (s : State) (d : SReg) (v : Word) : (s.setS d v).storage = s.storage := rfl
@[simp] theorem State.setS_collOps (s : State) (d : SReg) (v : Word) : (s.setS d v).collOps = s.collOps := rfl
@[simp] theorem State.setS_gateNext (s : State) (d : SReg) (v : Word) : (s.setS d v).gateNext = s.gateNext := rfl
@[simp] theorem State.setS_routeGen (s : State) (d : SReg) (v : Word) : (s.setS d v).routeGen = s.routeGen := rfl
@[simp] theorem State.setS_hawser (s : State) (d : SReg) (v : Word) : (s.setS d v).hawser = s.hawser := rfl
@[simp] theorem State.setS_linkFail (s : State) (d : SReg) (v : Word) : (s.setS d v).linkFail = s.linkFail := rfl
@[simp] theorem State.setS_crcErrs (s : State) (d : SReg) (v : Word) : (s.setS d v).crcErrs = s.crcErrs := rfl
@[simp] theorem State.setS_retireNext (s : State) (d : SReg) (v : Word) : (s.setS d v).retireNext = s.retireNext := rfl
@[simp] theorem State.setS_stops (s : State) (d : SReg) (v : Word) : (s.setS d v).stops = s.stops := rfl
@[simp] theorem State.setS_nonces (s : State) (d : SReg) (v : Word) : (s.setS d v).nonces = s.nonces := rfl
@[simp] theorem State.setS_frames (s : State) (d : SReg) (v : Word) : (s.setS d v).frames = s.frames := rfl
@[simp] theorem State.setS_installing (s : State) (d : SReg) (v : Word) : (s.setS d v).installing = s.installing := rfl
@[simp] theorem State.setS_booting (s : State) (d : SReg) (v : Word) : (s.setS d v).booting = s.booting := rfl
@[simp] theorem State.setS_now (s : State) (d : SReg) (v : Word) : (s.setS d v).now = s.now := rfl
@[simp] theorem State.setS_deadRouters (s : State) (d : SReg) (v : Word) : (s.setS d v).deadRouters = s.deadRouters := rfl
@[simp] theorem State.setS_exceptions (s : State) (d : SReg) (v : Word) : (s.setS d v).exceptions = s.exceptions := rfl
@[simp] theorem State.setS_withdrawn (s : State) (d : SReg) (v : Word) : (s.setS d v).withdrawn = s.withdrawn := rfl
@[simp] theorem State.setS_replace (s : State) (d : SReg) (v : Word) : (s.setS d v).replace = s.replace := rfl
@[simp] theorem State.setS_failedParts (s : State) (d : SReg) (v : Word) : (s.setS d v).failedParts = s.failedParts := rfl
@[simp] theorem State.setS_power (s : State) (d : SReg) (v : Word) : (s.setS d v).power = s.power := rfl
@[simp] theorem State.setS_modDrops (s : State) (d : SReg) (v : Word) : (s.setS d v).modDrops = s.modDrops := rfl
@[simp] theorem State.setS_lateIdx (s : State) (d : SReg) (v : Word) : (s.setS d v).lateIdx = s.lateIdx := rfl
@[simp] theorem State.setS_retiring (s : State) (d : SReg) (v : Word) : (s.setS d v).retiring = s.retiring := rfl
@[simp] theorem State.setS_credits (s : State) (d : SReg) (v : Word) : (s.setS d v).credits = s.credits := rfl
@[simp] theorem State.setS_replays (s : State) (d : SReg) (v : Word) : (s.setS d v).replays = s.replays := rfl
@[simp] theorem State.setS_withdrawnTiles (s : State) (d : SReg) (v : Word) : (s.setS d v).withdrawnTiles = s.withdrawnTiles := rfl
@[simp] theorem State.setS_answers (s : State) (d : SReg) (v : Word) : (s.setS d v).answers = s.answers := rfl
@[simp] theorem State.setS_booted (s : State) (d : SReg) (v : Word) : (s.setS d v).booted = s.booted := rfl
@[simp] theorem State.setS_degraded (s : State) (d : SReg) (v : Word) : (s.setS d v).degraded = s.degraded := rfl
@[simp] theorem State.setS_hostDetour (s : State) (d : SReg) (v : Word) : (s.setS d v).hostDetour = s.hostDetour := rfl
@[simp] theorem State.setS_hostSigning (s : State) (d : SReg) (v : Word) : (s.setS d v).hostSigning = s.hostSigning := rfl
@[simp] theorem State.setS_throttle (s : State) (d : SReg) (v : Word) : (s.setS d v).throttle = s.throttle := rfl
@[simp] theorem State.setS_nextLaunch (s : State) (d : SReg) (v : Word) : (s.setS d v).nextLaunch = s.nextLaunch := rfl
@[simp] theorem State.setS_responses (s : State) (d : SReg) (v : Word) : (s.setS d v).responses = s.responses := rfl
@[simp] theorem State.setS_completions (s : State) (d : SReg) (v : Word) : (s.setS d v).completions = s.completions := rfl
@[simp] theorem State.setS_journals (s : State) (d : SReg) (v : Word) : (s.setS d v).journals = s.journals := rfl
@[simp] theorem State.setS_agenda (s : State) (d : SReg) (v : Word) : (s.setS d v).agenda = s.agenda := rfl
@[simp] theorem State.setS_turn (s : State) (d : SReg) (v : Word) : (s.setS d v).turn = s.turn := rfl
@[simp] theorem State.setS_fresh (s : State) (d : SReg) (v : Word) : (s.setS d v).fresh = s.fresh := rfl
@[simp] theorem State.setS_core (s : State) (d : SReg) (v : Word) : (s.setS d v).core = s.core.setS d v := rfl

/-! ### State.retire -/

@[simp] theorem State.retire_sel (s : State) : (s.retire).sel = s.sel := rfl
@[simp] theorem State.retire_peer (s : State) : (s.retire).peer = s.peer := rfl
@[simp] theorem State.retire_tile (s : State) : (s.retire).tile = s.tile := rfl
@[simp] theorem State.retire_tiles (s : State) : (s.retire).tiles = s.tiles := rfl
@[simp] theorem State.retire_regions (s : State) : (s.retire).regions = s.regions := rfl
@[simp] theorem State.retire_ctxs (s : State) : (s.retire).ctxs = s.ctxs := rfl
@[simp] theorem State.retire_parts (s : State) : (s.retire).parts = s.parts := rfl
@[simp] theorem State.retire_teams (s : State) : (s.retire).teams = s.teams := rfl
@[simp] theorem State.retire_net (s : State) : (s.retire).net = s.net := rfl
@[simp] theorem State.retire_modWins (s : State) : (s.retire).modWins = s.modWins := rfl
@[simp] theorem State.retire_engWins (s : State) : (s.retire).engWins = s.engWins := rfl
@[simp] theorem State.retire_modDups (s : State) : (s.retire).modDups = s.modDups := rfl
@[simp] theorem State.retire_barriers (s : State) : (s.retire).barriers = s.barriers := rfl
@[simp] theorem State.retire_storage (s : State) : (s.retire).storage = s.storage := rfl
@[simp] theorem State.retire_collOps (s : State) : (s.retire).collOps = s.collOps := rfl
@[simp] theorem State.retire_gateNext (s : State) : (s.retire).gateNext = s.gateNext := rfl
@[simp] theorem State.retire_routeGen (s : State) : (s.retire).routeGen = s.routeGen := rfl
@[simp] theorem State.retire_hawser (s : State) : (s.retire).hawser = s.hawser := rfl
@[simp] theorem State.retire_linkFail (s : State) : (s.retire).linkFail = s.linkFail := rfl
@[simp] theorem State.retire_crcErrs (s : State) : (s.retire).crcErrs = s.crcErrs := rfl
@[simp] theorem State.retire_retireNext (s : State) : (s.retire).retireNext = s.retireNext := rfl
@[simp] theorem State.retire_stops (s : State) : (s.retire).stops = s.stops := rfl
@[simp] theorem State.retire_nonces (s : State) : (s.retire).nonces = s.nonces := rfl
@[simp] theorem State.retire_frames (s : State) : (s.retire).frames = s.frames := rfl
@[simp] theorem State.retire_installing (s : State) : (s.retire).installing = s.installing := rfl
@[simp] theorem State.retire_booting (s : State) : (s.retire).booting = s.booting := rfl
@[simp] theorem State.retire_now (s : State) : (s.retire).now = s.now := rfl
@[simp] theorem State.retire_deadRouters (s : State) : (s.retire).deadRouters = s.deadRouters := rfl
@[simp] theorem State.retire_exceptions (s : State) : (s.retire).exceptions = s.exceptions := rfl
@[simp] theorem State.retire_withdrawn (s : State) : (s.retire).withdrawn = s.withdrawn := rfl
@[simp] theorem State.retire_replace (s : State) : (s.retire).replace = s.replace := rfl
@[simp] theorem State.retire_failedParts (s : State) : (s.retire).failedParts = s.failedParts := rfl
@[simp] theorem State.retire_power (s : State) : (s.retire).power = s.power := rfl
@[simp] theorem State.retire_modDrops (s : State) : (s.retire).modDrops = s.modDrops := rfl
@[simp] theorem State.retire_lateIdx (s : State) : (s.retire).lateIdx = s.lateIdx := rfl
@[simp] theorem State.retire_retiring (s : State) : (s.retire).retiring = s.retiring := rfl
@[simp] theorem State.retire_credits (s : State) : (s.retire).credits = s.credits := rfl
@[simp] theorem State.retire_replays (s : State) : (s.retire).replays = s.replays := rfl
@[simp] theorem State.retire_withdrawnTiles (s : State) : (s.retire).withdrawnTiles = s.withdrawnTiles := rfl
@[simp] theorem State.retire_answers (s : State) : (s.retire).answers = s.answers := rfl
@[simp] theorem State.retire_booted (s : State) : (s.retire).booted = s.booted := rfl
@[simp] theorem State.retire_degraded (s : State) : (s.retire).degraded = s.degraded := rfl
@[simp] theorem State.retire_hostDetour (s : State) : (s.retire).hostDetour = s.hostDetour := rfl
@[simp] theorem State.retire_hostSigning (s : State) : (s.retire).hostSigning = s.hostSigning := rfl
@[simp] theorem State.retire_throttle (s : State) : (s.retire).throttle = s.throttle := rfl
@[simp] theorem State.retire_nextLaunch (s : State) : (s.retire).nextLaunch = s.nextLaunch := rfl
@[simp] theorem State.retire_responses (s : State) : (s.retire).responses = s.responses := rfl
@[simp] theorem State.retire_completions (s : State) : (s.retire).completions = s.completions := rfl
@[simp] theorem State.retire_journals (s : State) : (s.retire).journals = s.journals := rfl
@[simp] theorem State.retire_agenda (s : State) : (s.retire).agenda = s.agenda := rfl
@[simp] theorem State.retire_turn (s : State) : (s.retire).turn = s.turn := rfl
@[simp] theorem State.retire_fresh (s : State) : (s.retire).fresh = s.fresh := rfl
@[simp] theorem State.retire_core (s : State) : (s.retire).core = s.core.retire := rfl

/-! ### State.goto -/

@[simp] theorem State.goto_sel (s : State) (a : Word) : (s.goto a).sel = s.sel := rfl
@[simp] theorem State.goto_peer (s : State) (a : Word) : (s.goto a).peer = s.peer := rfl
@[simp] theorem State.goto_tile (s : State) (a : Word) : (s.goto a).tile = s.tile := rfl
@[simp] theorem State.goto_tiles (s : State) (a : Word) : (s.goto a).tiles = s.tiles := rfl
@[simp] theorem State.goto_regions (s : State) (a : Word) : (s.goto a).regions = s.regions := rfl
@[simp] theorem State.goto_ctxs (s : State) (a : Word) : (s.goto a).ctxs = s.ctxs := rfl
@[simp] theorem State.goto_parts (s : State) (a : Word) : (s.goto a).parts = s.parts := rfl
@[simp] theorem State.goto_teams (s : State) (a : Word) : (s.goto a).teams = s.teams := rfl
@[simp] theorem State.goto_net (s : State) (a : Word) : (s.goto a).net = s.net := rfl
@[simp] theorem State.goto_modWins (s : State) (a : Word) : (s.goto a).modWins = s.modWins := rfl
@[simp] theorem State.goto_engWins (s : State) (a : Word) : (s.goto a).engWins = s.engWins := rfl
@[simp] theorem State.goto_modDups (s : State) (a : Word) : (s.goto a).modDups = s.modDups := rfl
@[simp] theorem State.goto_barriers (s : State) (a : Word) : (s.goto a).barriers = s.barriers := rfl
@[simp] theorem State.goto_storage (s : State) (a : Word) : (s.goto a).storage = s.storage := rfl
@[simp] theorem State.goto_collOps (s : State) (a : Word) : (s.goto a).collOps = s.collOps := rfl
@[simp] theorem State.goto_gateNext (s : State) (a : Word) : (s.goto a).gateNext = s.gateNext := rfl
@[simp] theorem State.goto_routeGen (s : State) (a : Word) : (s.goto a).routeGen = s.routeGen := rfl
@[simp] theorem State.goto_hawser (s : State) (a : Word) : (s.goto a).hawser = s.hawser := rfl
@[simp] theorem State.goto_linkFail (s : State) (a : Word) : (s.goto a).linkFail = s.linkFail := rfl
@[simp] theorem State.goto_crcErrs (s : State) (a : Word) : (s.goto a).crcErrs = s.crcErrs := rfl
@[simp] theorem State.goto_retireNext (s : State) (a : Word) : (s.goto a).retireNext = s.retireNext := rfl
@[simp] theorem State.goto_stops (s : State) (a : Word) : (s.goto a).stops = s.stops := rfl
@[simp] theorem State.goto_nonces (s : State) (a : Word) : (s.goto a).nonces = s.nonces := rfl
@[simp] theorem State.goto_frames (s : State) (a : Word) : (s.goto a).frames = s.frames := rfl
@[simp] theorem State.goto_installing (s : State) (a : Word) : (s.goto a).installing = s.installing := rfl
@[simp] theorem State.goto_booting (s : State) (a : Word) : (s.goto a).booting = s.booting := rfl
@[simp] theorem State.goto_now (s : State) (a : Word) : (s.goto a).now = s.now := rfl
@[simp] theorem State.goto_deadRouters (s : State) (a : Word) : (s.goto a).deadRouters = s.deadRouters := rfl
@[simp] theorem State.goto_exceptions (s : State) (a : Word) : (s.goto a).exceptions = s.exceptions := rfl
@[simp] theorem State.goto_withdrawn (s : State) (a : Word) : (s.goto a).withdrawn = s.withdrawn := rfl
@[simp] theorem State.goto_replace (s : State) (a : Word) : (s.goto a).replace = s.replace := rfl
@[simp] theorem State.goto_failedParts (s : State) (a : Word) : (s.goto a).failedParts = s.failedParts := rfl
@[simp] theorem State.goto_power (s : State) (a : Word) : (s.goto a).power = s.power := rfl
@[simp] theorem State.goto_modDrops (s : State) (a : Word) : (s.goto a).modDrops = s.modDrops := rfl
@[simp] theorem State.goto_lateIdx (s : State) (a : Word) : (s.goto a).lateIdx = s.lateIdx := rfl
@[simp] theorem State.goto_retiring (s : State) (a : Word) : (s.goto a).retiring = s.retiring := rfl
@[simp] theorem State.goto_credits (s : State) (a : Word) : (s.goto a).credits = s.credits := rfl
@[simp] theorem State.goto_replays (s : State) (a : Word) : (s.goto a).replays = s.replays := rfl
@[simp] theorem State.goto_withdrawnTiles (s : State) (a : Word) : (s.goto a).withdrawnTiles = s.withdrawnTiles := rfl
@[simp] theorem State.goto_answers (s : State) (a : Word) : (s.goto a).answers = s.answers := rfl
@[simp] theorem State.goto_booted (s : State) (a : Word) : (s.goto a).booted = s.booted := rfl
@[simp] theorem State.goto_degraded (s : State) (a : Word) : (s.goto a).degraded = s.degraded := rfl
@[simp] theorem State.goto_hostDetour (s : State) (a : Word) : (s.goto a).hostDetour = s.hostDetour := rfl
@[simp] theorem State.goto_hostSigning (s : State) (a : Word) : (s.goto a).hostSigning = s.hostSigning := rfl
@[simp] theorem State.goto_throttle (s : State) (a : Word) : (s.goto a).throttle = s.throttle := rfl
@[simp] theorem State.goto_nextLaunch (s : State) (a : Word) : (s.goto a).nextLaunch = s.nextLaunch := rfl
@[simp] theorem State.goto_responses (s : State) (a : Word) : (s.goto a).responses = s.responses := rfl
@[simp] theorem State.goto_completions (s : State) (a : Word) : (s.goto a).completions = s.completions := rfl
@[simp] theorem State.goto_journals (s : State) (a : Word) : (s.goto a).journals = s.journals := rfl
@[simp] theorem State.goto_agenda (s : State) (a : Word) : (s.goto a).agenda = s.agenda := rfl
@[simp] theorem State.goto_turn (s : State) (a : Word) : (s.goto a).turn = s.turn := rfl
@[simp] theorem State.goto_fresh (s : State) (a : Word) : (s.goto a).fresh = s.fresh := rfl
@[simp] theorem State.goto_core (s : State) (a : Word) : (s.goto a).core = s.core.goto a := rfl

/-! ### State.putEntry -/

@[simp] theorem State.putEntry_sel (s : State) (n : Fin 8) (e : Entry) : (s.putEntry n e).sel = s.sel := rfl
@[simp] theorem State.putEntry_peer (s : State) (n : Fin 8) (e : Entry) : (s.putEntry n e).peer = s.peer := rfl
@[simp] theorem State.putEntry_tile (s : State) (n : Fin 8) (e : Entry) : (s.putEntry n e).tile = s.tile := rfl
@[simp] theorem State.putEntry_tiles (s : State) (n : Fin 8) (e : Entry) : (s.putEntry n e).tiles = s.tiles := rfl
@[simp] theorem State.putEntry_regions (s : State) (n : Fin 8) (e : Entry) : (s.putEntry n e).regions = s.regions := rfl
@[simp] theorem State.putEntry_ctxs (s : State) (n : Fin 8) (e : Entry) : (s.putEntry n e).ctxs = s.ctxs := rfl
@[simp] theorem State.putEntry_parts (s : State) (n : Fin 8) (e : Entry) : (s.putEntry n e).parts = s.parts := rfl
@[simp] theorem State.putEntry_teams (s : State) (n : Fin 8) (e : Entry) : (s.putEntry n e).teams = s.teams := rfl
@[simp] theorem State.putEntry_net (s : State) (n : Fin 8) (e : Entry) : (s.putEntry n e).net = s.net := rfl
@[simp] theorem State.putEntry_modWins (s : State) (n : Fin 8) (e : Entry) : (s.putEntry n e).modWins = s.modWins := rfl
@[simp] theorem State.putEntry_engWins (s : State) (n : Fin 8) (e : Entry) : (s.putEntry n e).engWins = s.engWins := rfl
@[simp] theorem State.putEntry_modDups (s : State) (n : Fin 8) (e : Entry) : (s.putEntry n e).modDups = s.modDups := rfl
@[simp] theorem State.putEntry_barriers (s : State) (n : Fin 8) (e : Entry) : (s.putEntry n e).barriers = s.barriers := rfl
@[simp] theorem State.putEntry_storage (s : State) (n : Fin 8) (e : Entry) : (s.putEntry n e).storage = s.storage := rfl
@[simp] theorem State.putEntry_collOps (s : State) (n : Fin 8) (e : Entry) : (s.putEntry n e).collOps = s.collOps := rfl
@[simp] theorem State.putEntry_gateNext (s : State) (n : Fin 8) (e : Entry) : (s.putEntry n e).gateNext = s.gateNext := rfl
@[simp] theorem State.putEntry_routeGen (s : State) (n : Fin 8) (e : Entry) : (s.putEntry n e).routeGen = s.routeGen := rfl
@[simp] theorem State.putEntry_hawser (s : State) (n : Fin 8) (e : Entry) : (s.putEntry n e).hawser = s.hawser := rfl
@[simp] theorem State.putEntry_linkFail (s : State) (n : Fin 8) (e : Entry) : (s.putEntry n e).linkFail = s.linkFail := rfl
@[simp] theorem State.putEntry_crcErrs (s : State) (n : Fin 8) (e : Entry) : (s.putEntry n e).crcErrs = s.crcErrs := rfl
@[simp] theorem State.putEntry_retireNext (s : State) (n : Fin 8) (e : Entry) : (s.putEntry n e).retireNext = s.retireNext := rfl
@[simp] theorem State.putEntry_stops (s : State) (n : Fin 8) (e : Entry) : (s.putEntry n e).stops = s.stops := rfl
@[simp] theorem State.putEntry_nonces (s : State) (n : Fin 8) (e : Entry) : (s.putEntry n e).nonces = s.nonces := rfl
@[simp] theorem State.putEntry_frames (s : State) (n : Fin 8) (e : Entry) : (s.putEntry n e).frames = s.frames := rfl
@[simp] theorem State.putEntry_installing (s : State) (n : Fin 8) (e : Entry) : (s.putEntry n e).installing = s.installing := rfl
@[simp] theorem State.putEntry_booting (s : State) (n : Fin 8) (e : Entry) : (s.putEntry n e).booting = s.booting := rfl
@[simp] theorem State.putEntry_now (s : State) (n : Fin 8) (e : Entry) : (s.putEntry n e).now = s.now := rfl
@[simp] theorem State.putEntry_deadRouters (s : State) (n : Fin 8) (e : Entry) : (s.putEntry n e).deadRouters = s.deadRouters := rfl
@[simp] theorem State.putEntry_exceptions (s : State) (n : Fin 8) (e : Entry) : (s.putEntry n e).exceptions = s.exceptions := rfl
@[simp] theorem State.putEntry_withdrawn (s : State) (n : Fin 8) (e : Entry) : (s.putEntry n e).withdrawn = s.withdrawn := rfl
@[simp] theorem State.putEntry_replace (s : State) (n : Fin 8) (e : Entry) : (s.putEntry n e).replace = s.replace := rfl
@[simp] theorem State.putEntry_failedParts (s : State) (n : Fin 8) (e : Entry) : (s.putEntry n e).failedParts = s.failedParts := rfl
@[simp] theorem State.putEntry_power (s : State) (n : Fin 8) (e : Entry) : (s.putEntry n e).power = s.power := rfl
@[simp] theorem State.putEntry_modDrops (s : State) (n : Fin 8) (e : Entry) : (s.putEntry n e).modDrops = s.modDrops := rfl
@[simp] theorem State.putEntry_lateIdx (s : State) (n : Fin 8) (e : Entry) : (s.putEntry n e).lateIdx = s.lateIdx := rfl
@[simp] theorem State.putEntry_retiring (s : State) (n : Fin 8) (e : Entry) : (s.putEntry n e).retiring = s.retiring := rfl
@[simp] theorem State.putEntry_credits (s : State) (n : Fin 8) (e : Entry) : (s.putEntry n e).credits = s.credits := rfl
@[simp] theorem State.putEntry_replays (s : State) (n : Fin 8) (e : Entry) : (s.putEntry n e).replays = s.replays := rfl
@[simp] theorem State.putEntry_withdrawnTiles (s : State) (n : Fin 8) (e : Entry) : (s.putEntry n e).withdrawnTiles = s.withdrawnTiles := rfl
@[simp] theorem State.putEntry_answers (s : State) (n : Fin 8) (e : Entry) : (s.putEntry n e).answers = s.answers := rfl
@[simp] theorem State.putEntry_booted (s : State) (n : Fin 8) (e : Entry) : (s.putEntry n e).booted = s.booted := rfl
@[simp] theorem State.putEntry_degraded (s : State) (n : Fin 8) (e : Entry) : (s.putEntry n e).degraded = s.degraded := rfl
@[simp] theorem State.putEntry_hostDetour (s : State) (n : Fin 8) (e : Entry) : (s.putEntry n e).hostDetour = s.hostDetour := rfl
@[simp] theorem State.putEntry_hostSigning (s : State) (n : Fin 8) (e : Entry) : (s.putEntry n e).hostSigning = s.hostSigning := rfl
@[simp] theorem State.putEntry_throttle (s : State) (n : Fin 8) (e : Entry) : (s.putEntry n e).throttle = s.throttle := rfl
@[simp] theorem State.putEntry_nextLaunch (s : State) (n : Fin 8) (e : Entry) : (s.putEntry n e).nextLaunch = s.nextLaunch := rfl
@[simp] theorem State.putEntry_responses (s : State) (n : Fin 8) (e : Entry) : (s.putEntry n e).responses = s.responses := rfl
@[simp] theorem State.putEntry_completions (s : State) (n : Fin 8) (e : Entry) : (s.putEntry n e).completions = s.completions := rfl
@[simp] theorem State.putEntry_journals (s : State) (n : Fin 8) (e : Entry) : (s.putEntry n e).journals = s.journals := rfl
@[simp] theorem State.putEntry_agenda (s : State) (n : Fin 8) (e : Entry) : (s.putEntry n e).agenda = s.agenda := rfl
@[simp] theorem State.putEntry_turn (s : State) (n : Fin 8) (e : Entry) : (s.putEntry n e).turn = s.turn := rfl
@[simp] theorem State.putEntry_fresh (s : State) (n : Fin 8) (e : Entry) : (s.putEntry n e).fresh = s.fresh := rfl
@[simp] theorem State.putEntry_core (s : State) (n : Fin 8) (e : Entry) : (s.putEntry n e).core = s.core.setEntry n e := rfl

/-! ### State.modCore -/

@[simp] theorem State.modCore_sel (s : State) (f : Core → Core) : (s.modCore f).sel = s.sel := rfl
@[simp] theorem State.modCore_peer (s : State) (f : Core → Core) : (s.modCore f).peer = s.peer := rfl
@[simp] theorem State.modCore_tile (s : State) (f : Core → Core) : (s.modCore f).tile = s.tile := rfl
@[simp] theorem State.modCore_tiles (s : State) (f : Core → Core) : (s.modCore f).tiles = s.tiles := rfl
@[simp] theorem State.modCore_regions (s : State) (f : Core → Core) : (s.modCore f).regions = s.regions := rfl
@[simp] theorem State.modCore_ctxs (s : State) (f : Core → Core) : (s.modCore f).ctxs = s.ctxs := rfl
@[simp] theorem State.modCore_parts (s : State) (f : Core → Core) : (s.modCore f).parts = s.parts := rfl
@[simp] theorem State.modCore_teams (s : State) (f : Core → Core) : (s.modCore f).teams = s.teams := rfl
@[simp] theorem State.modCore_net (s : State) (f : Core → Core) : (s.modCore f).net = s.net := rfl
@[simp] theorem State.modCore_modWins (s : State) (f : Core → Core) : (s.modCore f).modWins = s.modWins := rfl
@[simp] theorem State.modCore_engWins (s : State) (f : Core → Core) : (s.modCore f).engWins = s.engWins := rfl
@[simp] theorem State.modCore_modDups (s : State) (f : Core → Core) : (s.modCore f).modDups = s.modDups := rfl
@[simp] theorem State.modCore_barriers (s : State) (f : Core → Core) : (s.modCore f).barriers = s.barriers := rfl
@[simp] theorem State.modCore_storage (s : State) (f : Core → Core) : (s.modCore f).storage = s.storage := rfl
@[simp] theorem State.modCore_collOps (s : State) (f : Core → Core) : (s.modCore f).collOps = s.collOps := rfl
@[simp] theorem State.modCore_gateNext (s : State) (f : Core → Core) : (s.modCore f).gateNext = s.gateNext := rfl
@[simp] theorem State.modCore_routeGen (s : State) (f : Core → Core) : (s.modCore f).routeGen = s.routeGen := rfl
@[simp] theorem State.modCore_hawser (s : State) (f : Core → Core) : (s.modCore f).hawser = s.hawser := rfl
@[simp] theorem State.modCore_linkFail (s : State) (f : Core → Core) : (s.modCore f).linkFail = s.linkFail := rfl
@[simp] theorem State.modCore_crcErrs (s : State) (f : Core → Core) : (s.modCore f).crcErrs = s.crcErrs := rfl
@[simp] theorem State.modCore_retireNext (s : State) (f : Core → Core) : (s.modCore f).retireNext = s.retireNext := rfl
@[simp] theorem State.modCore_stops (s : State) (f : Core → Core) : (s.modCore f).stops = s.stops := rfl
@[simp] theorem State.modCore_nonces (s : State) (f : Core → Core) : (s.modCore f).nonces = s.nonces := rfl
@[simp] theorem State.modCore_frames (s : State) (f : Core → Core) : (s.modCore f).frames = s.frames := rfl
@[simp] theorem State.modCore_installing (s : State) (f : Core → Core) : (s.modCore f).installing = s.installing := rfl
@[simp] theorem State.modCore_booting (s : State) (f : Core → Core) : (s.modCore f).booting = s.booting := rfl
@[simp] theorem State.modCore_now (s : State) (f : Core → Core) : (s.modCore f).now = s.now := rfl
@[simp] theorem State.modCore_deadRouters (s : State) (f : Core → Core) : (s.modCore f).deadRouters = s.deadRouters := rfl
@[simp] theorem State.modCore_exceptions (s : State) (f : Core → Core) : (s.modCore f).exceptions = s.exceptions := rfl
@[simp] theorem State.modCore_withdrawn (s : State) (f : Core → Core) : (s.modCore f).withdrawn = s.withdrawn := rfl
@[simp] theorem State.modCore_replace (s : State) (f : Core → Core) : (s.modCore f).replace = s.replace := rfl
@[simp] theorem State.modCore_failedParts (s : State) (f : Core → Core) : (s.modCore f).failedParts = s.failedParts := rfl
@[simp] theorem State.modCore_power (s : State) (f : Core → Core) : (s.modCore f).power = s.power := rfl
@[simp] theorem State.modCore_modDrops (s : State) (f : Core → Core) : (s.modCore f).modDrops = s.modDrops := rfl
@[simp] theorem State.modCore_lateIdx (s : State) (f : Core → Core) : (s.modCore f).lateIdx = s.lateIdx := rfl
@[simp] theorem State.modCore_retiring (s : State) (f : Core → Core) : (s.modCore f).retiring = s.retiring := rfl
@[simp] theorem State.modCore_credits (s : State) (f : Core → Core) : (s.modCore f).credits = s.credits := rfl
@[simp] theorem State.modCore_replays (s : State) (f : Core → Core) : (s.modCore f).replays = s.replays := rfl
@[simp] theorem State.modCore_withdrawnTiles (s : State) (f : Core → Core) : (s.modCore f).withdrawnTiles = s.withdrawnTiles := rfl
@[simp] theorem State.modCore_answers (s : State) (f : Core → Core) : (s.modCore f).answers = s.answers := rfl
@[simp] theorem State.modCore_booted (s : State) (f : Core → Core) : (s.modCore f).booted = s.booted := rfl
@[simp] theorem State.modCore_degraded (s : State) (f : Core → Core) : (s.modCore f).degraded = s.degraded := rfl
@[simp] theorem State.modCore_hostDetour (s : State) (f : Core → Core) : (s.modCore f).hostDetour = s.hostDetour := rfl
@[simp] theorem State.modCore_hostSigning (s : State) (f : Core → Core) : (s.modCore f).hostSigning = s.hostSigning := rfl
@[simp] theorem State.modCore_throttle (s : State) (f : Core → Core) : (s.modCore f).throttle = s.throttle := rfl
@[simp] theorem State.modCore_nextLaunch (s : State) (f : Core → Core) : (s.modCore f).nextLaunch = s.nextLaunch := rfl
@[simp] theorem State.modCore_responses (s : State) (f : Core → Core) : (s.modCore f).responses = s.responses := rfl
@[simp] theorem State.modCore_completions (s : State) (f : Core → Core) : (s.modCore f).completions = s.completions := rfl
@[simp] theorem State.modCore_journals (s : State) (f : Core → Core) : (s.modCore f).journals = s.journals := rfl
@[simp] theorem State.modCore_agenda (s : State) (f : Core → Core) : (s.modCore f).agenda = s.agenda := rfl
@[simp] theorem State.modCore_turn (s : State) (f : Core → Core) : (s.modCore f).turn = s.turn := rfl
@[simp] theorem State.modCore_fresh (s : State) (f : Core → Core) : (s.modCore f).fresh = s.fresh := rfl
@[simp] theorem State.modCore_core (s : State) (f : Core → Core) : (s.modCore f).core = f s.core := rfl

/-! ### State.modTile -/

@[simp] theorem State.modTile_sel (s : State) (f : Tile → Tile) : (s.modTile f).sel = s.sel := rfl
@[simp] theorem State.modTile_core (s : State) (f : Tile → Tile) : (s.modTile f).core = s.core := rfl
@[simp] theorem State.modTile_peer (s : State) (f : Tile → Tile) : (s.modTile f).peer = s.peer := rfl
@[simp] theorem State.modTile_tiles (s : State) (f : Tile → Tile) : (s.modTile f).tiles = s.tiles := rfl
@[simp] theorem State.modTile_regions (s : State) (f : Tile → Tile) : (s.modTile f).regions = s.regions := rfl
@[simp] theorem State.modTile_ctxs (s : State) (f : Tile → Tile) : (s.modTile f).ctxs = s.ctxs := rfl
@[simp] theorem State.modTile_parts (s : State) (f : Tile → Tile) : (s.modTile f).parts = s.parts := rfl
@[simp] theorem State.modTile_teams (s : State) (f : Tile → Tile) : (s.modTile f).teams = s.teams := rfl
@[simp] theorem State.modTile_net (s : State) (f : Tile → Tile) : (s.modTile f).net = s.net := rfl
@[simp] theorem State.modTile_modWins (s : State) (f : Tile → Tile) : (s.modTile f).modWins = s.modWins := rfl
@[simp] theorem State.modTile_engWins (s : State) (f : Tile → Tile) : (s.modTile f).engWins = s.engWins := rfl
@[simp] theorem State.modTile_modDups (s : State) (f : Tile → Tile) : (s.modTile f).modDups = s.modDups := rfl
@[simp] theorem State.modTile_barriers (s : State) (f : Tile → Tile) : (s.modTile f).barriers = s.barriers := rfl
@[simp] theorem State.modTile_storage (s : State) (f : Tile → Tile) : (s.modTile f).storage = s.storage := rfl
@[simp] theorem State.modTile_collOps (s : State) (f : Tile → Tile) : (s.modTile f).collOps = s.collOps := rfl
@[simp] theorem State.modTile_gateNext (s : State) (f : Tile → Tile) : (s.modTile f).gateNext = s.gateNext := rfl
@[simp] theorem State.modTile_routeGen (s : State) (f : Tile → Tile) : (s.modTile f).routeGen = s.routeGen := rfl
@[simp] theorem State.modTile_hawser (s : State) (f : Tile → Tile) : (s.modTile f).hawser = s.hawser := rfl
@[simp] theorem State.modTile_linkFail (s : State) (f : Tile → Tile) : (s.modTile f).linkFail = s.linkFail := rfl
@[simp] theorem State.modTile_crcErrs (s : State) (f : Tile → Tile) : (s.modTile f).crcErrs = s.crcErrs := rfl
@[simp] theorem State.modTile_retireNext (s : State) (f : Tile → Tile) : (s.modTile f).retireNext = s.retireNext := rfl
@[simp] theorem State.modTile_stops (s : State) (f : Tile → Tile) : (s.modTile f).stops = s.stops := rfl
@[simp] theorem State.modTile_nonces (s : State) (f : Tile → Tile) : (s.modTile f).nonces = s.nonces := rfl
@[simp] theorem State.modTile_frames (s : State) (f : Tile → Tile) : (s.modTile f).frames = s.frames := rfl
@[simp] theorem State.modTile_installing (s : State) (f : Tile → Tile) : (s.modTile f).installing = s.installing := rfl
@[simp] theorem State.modTile_booting (s : State) (f : Tile → Tile) : (s.modTile f).booting = s.booting := rfl
@[simp] theorem State.modTile_now (s : State) (f : Tile → Tile) : (s.modTile f).now = s.now := rfl
@[simp] theorem State.modTile_deadRouters (s : State) (f : Tile → Tile) : (s.modTile f).deadRouters = s.deadRouters := rfl
@[simp] theorem State.modTile_exceptions (s : State) (f : Tile → Tile) : (s.modTile f).exceptions = s.exceptions := rfl
@[simp] theorem State.modTile_withdrawn (s : State) (f : Tile → Tile) : (s.modTile f).withdrawn = s.withdrawn := rfl
@[simp] theorem State.modTile_replace (s : State) (f : Tile → Tile) : (s.modTile f).replace = s.replace := rfl
@[simp] theorem State.modTile_failedParts (s : State) (f : Tile → Tile) : (s.modTile f).failedParts = s.failedParts := rfl
@[simp] theorem State.modTile_power (s : State) (f : Tile → Tile) : (s.modTile f).power = s.power := rfl
@[simp] theorem State.modTile_modDrops (s : State) (f : Tile → Tile) : (s.modTile f).modDrops = s.modDrops := rfl
@[simp] theorem State.modTile_lateIdx (s : State) (f : Tile → Tile) : (s.modTile f).lateIdx = s.lateIdx := rfl
@[simp] theorem State.modTile_retiring (s : State) (f : Tile → Tile) : (s.modTile f).retiring = s.retiring := rfl
@[simp] theorem State.modTile_credits (s : State) (f : Tile → Tile) : (s.modTile f).credits = s.credits := rfl
@[simp] theorem State.modTile_replays (s : State) (f : Tile → Tile) : (s.modTile f).replays = s.replays := rfl
@[simp] theorem State.modTile_withdrawnTiles (s : State) (f : Tile → Tile) : (s.modTile f).withdrawnTiles = s.withdrawnTiles := rfl
@[simp] theorem State.modTile_answers (s : State) (f : Tile → Tile) : (s.modTile f).answers = s.answers := rfl
@[simp] theorem State.modTile_booted (s : State) (f : Tile → Tile) : (s.modTile f).booted = s.booted := rfl
@[simp] theorem State.modTile_degraded (s : State) (f : Tile → Tile) : (s.modTile f).degraded = s.degraded := rfl
@[simp] theorem State.modTile_hostDetour (s : State) (f : Tile → Tile) : (s.modTile f).hostDetour = s.hostDetour := rfl
@[simp] theorem State.modTile_hostSigning (s : State) (f : Tile → Tile) : (s.modTile f).hostSigning = s.hostSigning := rfl
@[simp] theorem State.modTile_throttle (s : State) (f : Tile → Tile) : (s.modTile f).throttle = s.throttle := rfl
@[simp] theorem State.modTile_nextLaunch (s : State) (f : Tile → Tile) : (s.modTile f).nextLaunch = s.nextLaunch := rfl
@[simp] theorem State.modTile_responses (s : State) (f : Tile → Tile) : (s.modTile f).responses = s.responses := rfl
@[simp] theorem State.modTile_completions (s : State) (f : Tile → Tile) : (s.modTile f).completions = s.completions := rfl
@[simp] theorem State.modTile_journals (s : State) (f : Tile → Tile) : (s.modTile f).journals = s.journals := rfl
@[simp] theorem State.modTile_agenda (s : State) (f : Tile → Tile) : (s.modTile f).agenda = s.agenda := rfl
@[simp] theorem State.modTile_turn (s : State) (f : Tile → Tile) : (s.modTile f).turn = s.turn := rfl
@[simp] theorem State.modTile_fresh (s : State) (f : Tile → Tile) : (s.modTile f).fresh = s.fresh := rfl
@[simp] theorem State.modTile_tile (s : State) (f : Tile → Tile) : (s.modTile f).tile = f s.tile := rfl

/-! ### State.putRegion -/

@[simp] theorem State.putRegion_sel (s : State) (n : Nat) (r : Region) : (s.putRegion n r).sel = s.sel := rfl
@[simp] theorem State.putRegion_core (s : State) (n : Nat) (r : Region) : (s.putRegion n r).core = s.core := rfl
@[simp] theorem State.putRegion_peer (s : State) (n : Nat) (r : Region) : (s.putRegion n r).peer = s.peer := rfl
@[simp] theorem State.putRegion_tile (s : State) (n : Nat) (r : Region) : (s.putRegion n r).tile = s.tile := rfl
@[simp] theorem State.putRegion_tiles (s : State) (n : Nat) (r : Region) : (s.putRegion n r).tiles = s.tiles := rfl
@[simp] theorem State.putRegion_ctxs (s : State) (n : Nat) (r : Region) : (s.putRegion n r).ctxs = s.ctxs := rfl
@[simp] theorem State.putRegion_parts (s : State) (n : Nat) (r : Region) : (s.putRegion n r).parts = s.parts := rfl
@[simp] theorem State.putRegion_teams (s : State) (n : Nat) (r : Region) : (s.putRegion n r).teams = s.teams := rfl
@[simp] theorem State.putRegion_net (s : State) (n : Nat) (r : Region) : (s.putRegion n r).net = s.net := rfl
@[simp] theorem State.putRegion_modWins (s : State) (n : Nat) (r : Region) : (s.putRegion n r).modWins = s.modWins := rfl
@[simp] theorem State.putRegion_engWins (s : State) (n : Nat) (r : Region) : (s.putRegion n r).engWins = s.engWins := rfl
@[simp] theorem State.putRegion_modDups (s : State) (n : Nat) (r : Region) : (s.putRegion n r).modDups = s.modDups := rfl
@[simp] theorem State.putRegion_barriers (s : State) (n : Nat) (r : Region) : (s.putRegion n r).barriers = s.barriers := rfl
@[simp] theorem State.putRegion_storage (s : State) (n : Nat) (r : Region) : (s.putRegion n r).storage = s.storage := rfl
@[simp] theorem State.putRegion_collOps (s : State) (n : Nat) (r : Region) : (s.putRegion n r).collOps = s.collOps := rfl
@[simp] theorem State.putRegion_gateNext (s : State) (n : Nat) (r : Region) : (s.putRegion n r).gateNext = s.gateNext := rfl
@[simp] theorem State.putRegion_routeGen (s : State) (n : Nat) (r : Region) : (s.putRegion n r).routeGen = s.routeGen := rfl
@[simp] theorem State.putRegion_hawser (s : State) (n : Nat) (r : Region) : (s.putRegion n r).hawser = s.hawser := rfl
@[simp] theorem State.putRegion_linkFail (s : State) (n : Nat) (r : Region) : (s.putRegion n r).linkFail = s.linkFail := rfl
@[simp] theorem State.putRegion_crcErrs (s : State) (n : Nat) (r : Region) : (s.putRegion n r).crcErrs = s.crcErrs := rfl
@[simp] theorem State.putRegion_retireNext (s : State) (n : Nat) (r : Region) : (s.putRegion n r).retireNext = s.retireNext := rfl
@[simp] theorem State.putRegion_stops (s : State) (n : Nat) (r : Region) : (s.putRegion n r).stops = s.stops := rfl
@[simp] theorem State.putRegion_nonces (s : State) (n : Nat) (r : Region) : (s.putRegion n r).nonces = s.nonces := rfl
@[simp] theorem State.putRegion_frames (s : State) (n : Nat) (r : Region) : (s.putRegion n r).frames = s.frames := rfl
@[simp] theorem State.putRegion_installing (s : State) (n : Nat) (r : Region) : (s.putRegion n r).installing = s.installing := rfl
@[simp] theorem State.putRegion_booting (s : State) (n : Nat) (r : Region) : (s.putRegion n r).booting = s.booting := rfl
@[simp] theorem State.putRegion_now (s : State) (n : Nat) (r : Region) : (s.putRegion n r).now = s.now := rfl
@[simp] theorem State.putRegion_deadRouters (s : State) (n : Nat) (r : Region) : (s.putRegion n r).deadRouters = s.deadRouters := rfl
@[simp] theorem State.putRegion_exceptions (s : State) (n : Nat) (r : Region) : (s.putRegion n r).exceptions = s.exceptions := rfl
@[simp] theorem State.putRegion_withdrawn (s : State) (n : Nat) (r : Region) : (s.putRegion n r).withdrawn = s.withdrawn := rfl
@[simp] theorem State.putRegion_replace (s : State) (n : Nat) (r : Region) : (s.putRegion n r).replace = s.replace := rfl
@[simp] theorem State.putRegion_failedParts (s : State) (n : Nat) (r : Region) : (s.putRegion n r).failedParts = s.failedParts := rfl
@[simp] theorem State.putRegion_power (s : State) (n : Nat) (r : Region) : (s.putRegion n r).power = s.power := rfl
@[simp] theorem State.putRegion_modDrops (s : State) (n : Nat) (r : Region) : (s.putRegion n r).modDrops = s.modDrops := rfl
@[simp] theorem State.putRegion_lateIdx (s : State) (n : Nat) (r : Region) : (s.putRegion n r).lateIdx = s.lateIdx := rfl
@[simp] theorem State.putRegion_retiring (s : State) (n : Nat) (r : Region) : (s.putRegion n r).retiring = s.retiring := rfl
@[simp] theorem State.putRegion_credits (s : State) (n : Nat) (r : Region) : (s.putRegion n r).credits = s.credits := rfl
@[simp] theorem State.putRegion_replays (s : State) (n : Nat) (r : Region) : (s.putRegion n r).replays = s.replays := rfl
@[simp] theorem State.putRegion_withdrawnTiles (s : State) (n : Nat) (r : Region) : (s.putRegion n r).withdrawnTiles = s.withdrawnTiles := rfl
@[simp] theorem State.putRegion_answers (s : State) (n : Nat) (r : Region) : (s.putRegion n r).answers = s.answers := rfl
@[simp] theorem State.putRegion_booted (s : State) (n : Nat) (r : Region) : (s.putRegion n r).booted = s.booted := rfl
@[simp] theorem State.putRegion_degraded (s : State) (n : Nat) (r : Region) : (s.putRegion n r).degraded = s.degraded := rfl
@[simp] theorem State.putRegion_hostDetour (s : State) (n : Nat) (r : Region) : (s.putRegion n r).hostDetour = s.hostDetour := rfl
@[simp] theorem State.putRegion_hostSigning (s : State) (n : Nat) (r : Region) : (s.putRegion n r).hostSigning = s.hostSigning := rfl
@[simp] theorem State.putRegion_throttle (s : State) (n : Nat) (r : Region) : (s.putRegion n r).throttle = s.throttle := rfl
@[simp] theorem State.putRegion_nextLaunch (s : State) (n : Nat) (r : Region) : (s.putRegion n r).nextLaunch = s.nextLaunch := rfl
@[simp] theorem State.putRegion_responses (s : State) (n : Nat) (r : Region) : (s.putRegion n r).responses = s.responses := rfl
@[simp] theorem State.putRegion_completions (s : State) (n : Nat) (r : Region) : (s.putRegion n r).completions = s.completions := rfl
@[simp] theorem State.putRegion_journals (s : State) (n : Nat) (r : Region) : (s.putRegion n r).journals = s.journals := rfl
@[simp] theorem State.putRegion_agenda (s : State) (n : Nat) (r : Region) : (s.putRegion n r).agenda = s.agenda := rfl
@[simp] theorem State.putRegion_turn (s : State) (n : Nat) (r : Region) : (s.putRegion n r).turn = s.turn := rfl
@[simp] theorem State.putRegion_fresh (s : State) (n : Nat) (r : Region) : (s.putRegion n r).fresh = s.fresh := rfl
@[simp] theorem State.putRegion_regions (s : State) (n : Nat) (r : Region) : (s.putRegion n r).regions = Tab.put s.regions n r := rfl

/-! ### State.putCtx -/

@[simp] theorem State.putCtx_sel (s : State) (n : Nat) (x : Ctx) : (s.putCtx n x).sel = s.sel := rfl
@[simp] theorem State.putCtx_core (s : State) (n : Nat) (x : Ctx) : (s.putCtx n x).core = s.core := rfl
@[simp] theorem State.putCtx_peer (s : State) (n : Nat) (x : Ctx) : (s.putCtx n x).peer = s.peer := rfl
@[simp] theorem State.putCtx_tile (s : State) (n : Nat) (x : Ctx) : (s.putCtx n x).tile = s.tile := rfl
@[simp] theorem State.putCtx_tiles (s : State) (n : Nat) (x : Ctx) : (s.putCtx n x).tiles = s.tiles := rfl
@[simp] theorem State.putCtx_regions (s : State) (n : Nat) (x : Ctx) : (s.putCtx n x).regions = s.regions := rfl
@[simp] theorem State.putCtx_parts (s : State) (n : Nat) (x : Ctx) : (s.putCtx n x).parts = s.parts := rfl
@[simp] theorem State.putCtx_teams (s : State) (n : Nat) (x : Ctx) : (s.putCtx n x).teams = s.teams := rfl
@[simp] theorem State.putCtx_net (s : State) (n : Nat) (x : Ctx) : (s.putCtx n x).net = s.net := rfl
@[simp] theorem State.putCtx_modWins (s : State) (n : Nat) (x : Ctx) : (s.putCtx n x).modWins = s.modWins := rfl
@[simp] theorem State.putCtx_engWins (s : State) (n : Nat) (x : Ctx) : (s.putCtx n x).engWins = s.engWins := rfl
@[simp] theorem State.putCtx_modDups (s : State) (n : Nat) (x : Ctx) : (s.putCtx n x).modDups = s.modDups := rfl
@[simp] theorem State.putCtx_barriers (s : State) (n : Nat) (x : Ctx) : (s.putCtx n x).barriers = s.barriers := rfl
@[simp] theorem State.putCtx_storage (s : State) (n : Nat) (x : Ctx) : (s.putCtx n x).storage = s.storage := rfl
@[simp] theorem State.putCtx_collOps (s : State) (n : Nat) (x : Ctx) : (s.putCtx n x).collOps = s.collOps := rfl
@[simp] theorem State.putCtx_gateNext (s : State) (n : Nat) (x : Ctx) : (s.putCtx n x).gateNext = s.gateNext := rfl
@[simp] theorem State.putCtx_routeGen (s : State) (n : Nat) (x : Ctx) : (s.putCtx n x).routeGen = s.routeGen := rfl
@[simp] theorem State.putCtx_hawser (s : State) (n : Nat) (x : Ctx) : (s.putCtx n x).hawser = s.hawser := rfl
@[simp] theorem State.putCtx_linkFail (s : State) (n : Nat) (x : Ctx) : (s.putCtx n x).linkFail = s.linkFail := rfl
@[simp] theorem State.putCtx_crcErrs (s : State) (n : Nat) (x : Ctx) : (s.putCtx n x).crcErrs = s.crcErrs := rfl
@[simp] theorem State.putCtx_retireNext (s : State) (n : Nat) (x : Ctx) : (s.putCtx n x).retireNext = s.retireNext := rfl
@[simp] theorem State.putCtx_stops (s : State) (n : Nat) (x : Ctx) : (s.putCtx n x).stops = s.stops := rfl
@[simp] theorem State.putCtx_nonces (s : State) (n : Nat) (x : Ctx) : (s.putCtx n x).nonces = s.nonces := rfl
@[simp] theorem State.putCtx_frames (s : State) (n : Nat) (x : Ctx) : (s.putCtx n x).frames = s.frames := rfl
@[simp] theorem State.putCtx_installing (s : State) (n : Nat) (x : Ctx) : (s.putCtx n x).installing = s.installing := rfl
@[simp] theorem State.putCtx_booting (s : State) (n : Nat) (x : Ctx) : (s.putCtx n x).booting = s.booting := rfl
@[simp] theorem State.putCtx_now (s : State) (n : Nat) (x : Ctx) : (s.putCtx n x).now = s.now := rfl
@[simp] theorem State.putCtx_deadRouters (s : State) (n : Nat) (x : Ctx) : (s.putCtx n x).deadRouters = s.deadRouters := rfl
@[simp] theorem State.putCtx_exceptions (s : State) (n : Nat) (x : Ctx) : (s.putCtx n x).exceptions = s.exceptions := rfl
@[simp] theorem State.putCtx_withdrawn (s : State) (n : Nat) (x : Ctx) : (s.putCtx n x).withdrawn = s.withdrawn := rfl
@[simp] theorem State.putCtx_replace (s : State) (n : Nat) (x : Ctx) : (s.putCtx n x).replace = s.replace := rfl
@[simp] theorem State.putCtx_failedParts (s : State) (n : Nat) (x : Ctx) : (s.putCtx n x).failedParts = s.failedParts := rfl
@[simp] theorem State.putCtx_power (s : State) (n : Nat) (x : Ctx) : (s.putCtx n x).power = s.power := rfl
@[simp] theorem State.putCtx_modDrops (s : State) (n : Nat) (x : Ctx) : (s.putCtx n x).modDrops = s.modDrops := rfl
@[simp] theorem State.putCtx_lateIdx (s : State) (n : Nat) (x : Ctx) : (s.putCtx n x).lateIdx = s.lateIdx := rfl
@[simp] theorem State.putCtx_retiring (s : State) (n : Nat) (x : Ctx) : (s.putCtx n x).retiring = s.retiring := rfl
@[simp] theorem State.putCtx_credits (s : State) (n : Nat) (x : Ctx) : (s.putCtx n x).credits = s.credits := rfl
@[simp] theorem State.putCtx_replays (s : State) (n : Nat) (x : Ctx) : (s.putCtx n x).replays = s.replays := rfl
@[simp] theorem State.putCtx_withdrawnTiles (s : State) (n : Nat) (x : Ctx) : (s.putCtx n x).withdrawnTiles = s.withdrawnTiles := rfl
@[simp] theorem State.putCtx_answers (s : State) (n : Nat) (x : Ctx) : (s.putCtx n x).answers = s.answers := rfl
@[simp] theorem State.putCtx_booted (s : State) (n : Nat) (x : Ctx) : (s.putCtx n x).booted = s.booted := rfl
@[simp] theorem State.putCtx_degraded (s : State) (n : Nat) (x : Ctx) : (s.putCtx n x).degraded = s.degraded := rfl
@[simp] theorem State.putCtx_hostDetour (s : State) (n : Nat) (x : Ctx) : (s.putCtx n x).hostDetour = s.hostDetour := rfl
@[simp] theorem State.putCtx_hostSigning (s : State) (n : Nat) (x : Ctx) : (s.putCtx n x).hostSigning = s.hostSigning := rfl
@[simp] theorem State.putCtx_throttle (s : State) (n : Nat) (x : Ctx) : (s.putCtx n x).throttle = s.throttle := rfl
@[simp] theorem State.putCtx_nextLaunch (s : State) (n : Nat) (x : Ctx) : (s.putCtx n x).nextLaunch = s.nextLaunch := rfl
@[simp] theorem State.putCtx_responses (s : State) (n : Nat) (x : Ctx) : (s.putCtx n x).responses = s.responses := rfl
@[simp] theorem State.putCtx_completions (s : State) (n : Nat) (x : Ctx) : (s.putCtx n x).completions = s.completions := rfl
@[simp] theorem State.putCtx_journals (s : State) (n : Nat) (x : Ctx) : (s.putCtx n x).journals = s.journals := rfl
@[simp] theorem State.putCtx_agenda (s : State) (n : Nat) (x : Ctx) : (s.putCtx n x).agenda = s.agenda := rfl
@[simp] theorem State.putCtx_turn (s : State) (n : Nat) (x : Ctx) : (s.putCtx n x).turn = s.turn := rfl
@[simp] theorem State.putCtx_fresh (s : State) (n : Nat) (x : Ctx) : (s.putCtx n x).fresh = s.fresh := rfl
@[simp] theorem State.putCtx_ctxs (s : State) (n : Nat) (x : Ctx) : (s.putCtx n x).ctxs = Tab.put s.ctxs n x := rfl

/-! ### State.putPart -/

@[simp] theorem State.putPart_sel (s : State) (n : Nat) (p : Part) : (s.putPart n p).sel = s.sel := rfl
@[simp] theorem State.putPart_core (s : State) (n : Nat) (p : Part) : (s.putPart n p).core = s.core := rfl
@[simp] theorem State.putPart_peer (s : State) (n : Nat) (p : Part) : (s.putPart n p).peer = s.peer := rfl
@[simp] theorem State.putPart_tile (s : State) (n : Nat) (p : Part) : (s.putPart n p).tile = s.tile := rfl
@[simp] theorem State.putPart_tiles (s : State) (n : Nat) (p : Part) : (s.putPart n p).tiles = s.tiles := rfl
@[simp] theorem State.putPart_regions (s : State) (n : Nat) (p : Part) : (s.putPart n p).regions = s.regions := rfl
@[simp] theorem State.putPart_ctxs (s : State) (n : Nat) (p : Part) : (s.putPart n p).ctxs = s.ctxs := rfl
@[simp] theorem State.putPart_teams (s : State) (n : Nat) (p : Part) : (s.putPart n p).teams = s.teams := rfl
@[simp] theorem State.putPart_net (s : State) (n : Nat) (p : Part) : (s.putPart n p).net = s.net := rfl
@[simp] theorem State.putPart_modWins (s : State) (n : Nat) (p : Part) : (s.putPart n p).modWins = s.modWins := rfl
@[simp] theorem State.putPart_engWins (s : State) (n : Nat) (p : Part) : (s.putPart n p).engWins = s.engWins := rfl
@[simp] theorem State.putPart_modDups (s : State) (n : Nat) (p : Part) : (s.putPart n p).modDups = s.modDups := rfl
@[simp] theorem State.putPart_barriers (s : State) (n : Nat) (p : Part) : (s.putPart n p).barriers = s.barriers := rfl
@[simp] theorem State.putPart_storage (s : State) (n : Nat) (p : Part) : (s.putPart n p).storage = s.storage := rfl
@[simp] theorem State.putPart_collOps (s : State) (n : Nat) (p : Part) : (s.putPart n p).collOps = s.collOps := rfl
@[simp] theorem State.putPart_gateNext (s : State) (n : Nat) (p : Part) : (s.putPart n p).gateNext = s.gateNext := rfl
@[simp] theorem State.putPart_routeGen (s : State) (n : Nat) (p : Part) : (s.putPart n p).routeGen = s.routeGen := rfl
@[simp] theorem State.putPart_hawser (s : State) (n : Nat) (p : Part) : (s.putPart n p).hawser = s.hawser := rfl
@[simp] theorem State.putPart_linkFail (s : State) (n : Nat) (p : Part) : (s.putPart n p).linkFail = s.linkFail := rfl
@[simp] theorem State.putPart_crcErrs (s : State) (n : Nat) (p : Part) : (s.putPart n p).crcErrs = s.crcErrs := rfl
@[simp] theorem State.putPart_retireNext (s : State) (n : Nat) (p : Part) : (s.putPart n p).retireNext = s.retireNext := rfl
@[simp] theorem State.putPart_stops (s : State) (n : Nat) (p : Part) : (s.putPart n p).stops = s.stops := rfl
@[simp] theorem State.putPart_nonces (s : State) (n : Nat) (p : Part) : (s.putPart n p).nonces = s.nonces := rfl
@[simp] theorem State.putPart_frames (s : State) (n : Nat) (p : Part) : (s.putPart n p).frames = s.frames := rfl
@[simp] theorem State.putPart_installing (s : State) (n : Nat) (p : Part) : (s.putPart n p).installing = s.installing := rfl
@[simp] theorem State.putPart_booting (s : State) (n : Nat) (p : Part) : (s.putPart n p).booting = s.booting := rfl
@[simp] theorem State.putPart_now (s : State) (n : Nat) (p : Part) : (s.putPart n p).now = s.now := rfl
@[simp] theorem State.putPart_deadRouters (s : State) (n : Nat) (p : Part) : (s.putPart n p).deadRouters = s.deadRouters := rfl
@[simp] theorem State.putPart_exceptions (s : State) (n : Nat) (p : Part) : (s.putPart n p).exceptions = s.exceptions := rfl
@[simp] theorem State.putPart_withdrawn (s : State) (n : Nat) (p : Part) : (s.putPart n p).withdrawn = s.withdrawn := rfl
@[simp] theorem State.putPart_replace (s : State) (n : Nat) (p : Part) : (s.putPart n p).replace = s.replace := rfl
@[simp] theorem State.putPart_failedParts (s : State) (n : Nat) (p : Part) : (s.putPart n p).failedParts = s.failedParts := rfl
@[simp] theorem State.putPart_power (s : State) (n : Nat) (p : Part) : (s.putPart n p).power = s.power := rfl
@[simp] theorem State.putPart_modDrops (s : State) (n : Nat) (p : Part) : (s.putPart n p).modDrops = s.modDrops := rfl
@[simp] theorem State.putPart_lateIdx (s : State) (n : Nat) (p : Part) : (s.putPart n p).lateIdx = s.lateIdx := rfl
@[simp] theorem State.putPart_retiring (s : State) (n : Nat) (p : Part) : (s.putPart n p).retiring = s.retiring := rfl
@[simp] theorem State.putPart_credits (s : State) (n : Nat) (p : Part) : (s.putPart n p).credits = s.credits := rfl
@[simp] theorem State.putPart_replays (s : State) (n : Nat) (p : Part) : (s.putPart n p).replays = s.replays := rfl
@[simp] theorem State.putPart_withdrawnTiles (s : State) (n : Nat) (p : Part) : (s.putPart n p).withdrawnTiles = s.withdrawnTiles := rfl
@[simp] theorem State.putPart_answers (s : State) (n : Nat) (p : Part) : (s.putPart n p).answers = s.answers := rfl
@[simp] theorem State.putPart_booted (s : State) (n : Nat) (p : Part) : (s.putPart n p).booted = s.booted := rfl
@[simp] theorem State.putPart_degraded (s : State) (n : Nat) (p : Part) : (s.putPart n p).degraded = s.degraded := rfl
@[simp] theorem State.putPart_hostDetour (s : State) (n : Nat) (p : Part) : (s.putPart n p).hostDetour = s.hostDetour := rfl
@[simp] theorem State.putPart_hostSigning (s : State) (n : Nat) (p : Part) : (s.putPart n p).hostSigning = s.hostSigning := rfl
@[simp] theorem State.putPart_throttle (s : State) (n : Nat) (p : Part) : (s.putPart n p).throttle = s.throttle := rfl
@[simp] theorem State.putPart_nextLaunch (s : State) (n : Nat) (p : Part) : (s.putPart n p).nextLaunch = s.nextLaunch := rfl
@[simp] theorem State.putPart_responses (s : State) (n : Nat) (p : Part) : (s.putPart n p).responses = s.responses := rfl
@[simp] theorem State.putPart_completions (s : State) (n : Nat) (p : Part) : (s.putPart n p).completions = s.completions := rfl
@[simp] theorem State.putPart_journals (s : State) (n : Nat) (p : Part) : (s.putPart n p).journals = s.journals := rfl
@[simp] theorem State.putPart_agenda (s : State) (n : Nat) (p : Part) : (s.putPart n p).agenda = s.agenda := rfl
@[simp] theorem State.putPart_turn (s : State) (n : Nat) (p : Part) : (s.putPart n p).turn = s.turn := rfl
@[simp] theorem State.putPart_fresh (s : State) (n : Nat) (p : Part) : (s.putPart n p).fresh = s.fresh := rfl
@[simp] theorem State.putPart_parts (s : State) (n : Nat) (p : Part) : (s.putPart n p).parts = Tab.put s.parts n p := rfl

/-! ### State.notice -/

@[simp] theorem State.notice_sel (s : State) (p : Packet) : (s.notice p).sel = s.sel := rfl
@[simp] theorem State.notice_core (s : State) (p : Packet) : (s.notice p).core = s.core := rfl
@[simp] theorem State.notice_peer (s : State) (p : Packet) : (s.notice p).peer = s.peer := rfl
@[simp] theorem State.notice_tile (s : State) (p : Packet) : (s.notice p).tile = s.tile := rfl
@[simp] theorem State.notice_tiles (s : State) (p : Packet) : (s.notice p).tiles = s.tiles := rfl
@[simp] theorem State.notice_regions (s : State) (p : Packet) : (s.notice p).regions = s.regions := rfl
@[simp] theorem State.notice_ctxs (s : State) (p : Packet) : (s.notice p).ctxs = s.ctxs := rfl
@[simp] theorem State.notice_parts (s : State) (p : Packet) : (s.notice p).parts = s.parts := rfl
@[simp] theorem State.notice_teams (s : State) (p : Packet) : (s.notice p).teams = s.teams := rfl
@[simp] theorem State.notice_modWins (s : State) (p : Packet) : (s.notice p).modWins = s.modWins := rfl
@[simp] theorem State.notice_engWins (s : State) (p : Packet) : (s.notice p).engWins = s.engWins := rfl
@[simp] theorem State.notice_modDups (s : State) (p : Packet) : (s.notice p).modDups = s.modDups := rfl
@[simp] theorem State.notice_barriers (s : State) (p : Packet) : (s.notice p).barriers = s.barriers := rfl
@[simp] theorem State.notice_storage (s : State) (p : Packet) : (s.notice p).storage = s.storage := rfl
@[simp] theorem State.notice_collOps (s : State) (p : Packet) : (s.notice p).collOps = s.collOps := rfl
@[simp] theorem State.notice_gateNext (s : State) (p : Packet) : (s.notice p).gateNext = s.gateNext := rfl
@[simp] theorem State.notice_routeGen (s : State) (p : Packet) : (s.notice p).routeGen = s.routeGen := rfl
@[simp] theorem State.notice_hawser (s : State) (p : Packet) : (s.notice p).hawser = s.hawser := rfl
@[simp] theorem State.notice_linkFail (s : State) (p : Packet) : (s.notice p).linkFail = s.linkFail := rfl
@[simp] theorem State.notice_crcErrs (s : State) (p : Packet) : (s.notice p).crcErrs = s.crcErrs := rfl
@[simp] theorem State.notice_retireNext (s : State) (p : Packet) : (s.notice p).retireNext = s.retireNext := rfl
@[simp] theorem State.notice_stops (s : State) (p : Packet) : (s.notice p).stops = s.stops := rfl
@[simp] theorem State.notice_nonces (s : State) (p : Packet) : (s.notice p).nonces = s.nonces := rfl
@[simp] theorem State.notice_frames (s : State) (p : Packet) : (s.notice p).frames = s.frames := rfl
@[simp] theorem State.notice_installing (s : State) (p : Packet) : (s.notice p).installing = s.installing := rfl
@[simp] theorem State.notice_booting (s : State) (p : Packet) : (s.notice p).booting = s.booting := rfl
@[simp] theorem State.notice_now (s : State) (p : Packet) : (s.notice p).now = s.now := rfl
@[simp] theorem State.notice_deadRouters (s : State) (p : Packet) : (s.notice p).deadRouters = s.deadRouters := rfl
@[simp] theorem State.notice_exceptions (s : State) (p : Packet) : (s.notice p).exceptions = s.exceptions := rfl
@[simp] theorem State.notice_withdrawn (s : State) (p : Packet) : (s.notice p).withdrawn = s.withdrawn := rfl
@[simp] theorem State.notice_replace (s : State) (p : Packet) : (s.notice p).replace = s.replace := rfl
@[simp] theorem State.notice_failedParts (s : State) (p : Packet) : (s.notice p).failedParts = s.failedParts := rfl
@[simp] theorem State.notice_power (s : State) (p : Packet) : (s.notice p).power = s.power := rfl
@[simp] theorem State.notice_modDrops (s : State) (p : Packet) : (s.notice p).modDrops = s.modDrops := rfl
@[simp] theorem State.notice_lateIdx (s : State) (p : Packet) : (s.notice p).lateIdx = s.lateIdx := rfl
@[simp] theorem State.notice_retiring (s : State) (p : Packet) : (s.notice p).retiring = s.retiring := rfl
@[simp] theorem State.notice_credits (s : State) (p : Packet) : (s.notice p).credits = s.credits := rfl
@[simp] theorem State.notice_replays (s : State) (p : Packet) : (s.notice p).replays = s.replays := rfl
@[simp] theorem State.notice_withdrawnTiles (s : State) (p : Packet) : (s.notice p).withdrawnTiles = s.withdrawnTiles := rfl
@[simp] theorem State.notice_answers (s : State) (p : Packet) : (s.notice p).answers = s.answers := rfl
@[simp] theorem State.notice_booted (s : State) (p : Packet) : (s.notice p).booted = s.booted := rfl
@[simp] theorem State.notice_degraded (s : State) (p : Packet) : (s.notice p).degraded = s.degraded := rfl
@[simp] theorem State.notice_hostDetour (s : State) (p : Packet) : (s.notice p).hostDetour = s.hostDetour := rfl
@[simp] theorem State.notice_hostSigning (s : State) (p : Packet) : (s.notice p).hostSigning = s.hostSigning := rfl
@[simp] theorem State.notice_throttle (s : State) (p : Packet) : (s.notice p).throttle = s.throttle := rfl
@[simp] theorem State.notice_nextLaunch (s : State) (p : Packet) : (s.notice p).nextLaunch = s.nextLaunch := rfl
@[simp] theorem State.notice_responses (s : State) (p : Packet) : (s.notice p).responses = s.responses := rfl
@[simp] theorem State.notice_completions (s : State) (p : Packet) : (s.notice p).completions = s.completions := rfl
@[simp] theorem State.notice_journals (s : State) (p : Packet) : (s.notice p).journals = s.journals := rfl
@[simp] theorem State.notice_agenda (s : State) (p : Packet) : (s.notice p).agenda = s.agenda := rfl
@[simp] theorem State.notice_turn (s : State) (p : Packet) : (s.notice p).turn = s.turn := rfl
@[simp] theorem State.notice_fresh (s : State) (p : Packet) : (s.notice p).fresh = s.fresh := rfl
@[simp] theorem State.notice_net (s : State) (p : Packet) : (s.notice p).net = s.net ++ [p] := rfl

/-! ### State.draw -/

@[simp] theorem State.draw_sel (s : State) (n : Nat) : (s.draw n).sel = s.sel := rfl
@[simp] theorem State.draw_core (s : State) (n : Nat) : (s.draw n).core = s.core := rfl
@[simp] theorem State.draw_peer (s : State) (n : Nat) : (s.draw n).peer = s.peer := rfl
@[simp] theorem State.draw_tile (s : State) (n : Nat) : (s.draw n).tile = s.tile := rfl
@[simp] theorem State.draw_tiles (s : State) (n : Nat) : (s.draw n).tiles = s.tiles := rfl
@[simp] theorem State.draw_regions (s : State) (n : Nat) : (s.draw n).regions = s.regions := rfl
@[simp] theorem State.draw_ctxs (s : State) (n : Nat) : (s.draw n).ctxs = s.ctxs := rfl
@[simp] theorem State.draw_parts (s : State) (n : Nat) : (s.draw n).parts = s.parts := rfl
@[simp] theorem State.draw_teams (s : State) (n : Nat) : (s.draw n).teams = s.teams := rfl
@[simp] theorem State.draw_net (s : State) (n : Nat) : (s.draw n).net = s.net := rfl
@[simp] theorem State.draw_modWins (s : State) (n : Nat) : (s.draw n).modWins = s.modWins := rfl
@[simp] theorem State.draw_engWins (s : State) (n : Nat) : (s.draw n).engWins = s.engWins := rfl
@[simp] theorem State.draw_modDups (s : State) (n : Nat) : (s.draw n).modDups = s.modDups := rfl
@[simp] theorem State.draw_barriers (s : State) (n : Nat) : (s.draw n).barriers = s.barriers := rfl
@[simp] theorem State.draw_storage (s : State) (n : Nat) : (s.draw n).storage = s.storage := rfl
@[simp] theorem State.draw_collOps (s : State) (n : Nat) : (s.draw n).collOps = s.collOps := rfl
@[simp] theorem State.draw_gateNext (s : State) (n : Nat) : (s.draw n).gateNext = s.gateNext := rfl
@[simp] theorem State.draw_routeGen (s : State) (n : Nat) : (s.draw n).routeGen = s.routeGen := rfl
@[simp] theorem State.draw_hawser (s : State) (n : Nat) : (s.draw n).hawser = s.hawser := rfl
@[simp] theorem State.draw_linkFail (s : State) (n : Nat) : (s.draw n).linkFail = s.linkFail := rfl
@[simp] theorem State.draw_crcErrs (s : State) (n : Nat) : (s.draw n).crcErrs = s.crcErrs := rfl
@[simp] theorem State.draw_retireNext (s : State) (n : Nat) : (s.draw n).retireNext = s.retireNext := rfl
@[simp] theorem State.draw_stops (s : State) (n : Nat) : (s.draw n).stops = s.stops := rfl
@[simp] theorem State.draw_nonces (s : State) (n : Nat) : (s.draw n).nonces = s.nonces := rfl
@[simp] theorem State.draw_frames (s : State) (n : Nat) : (s.draw n).frames = s.frames := rfl
@[simp] theorem State.draw_installing (s : State) (n : Nat) : (s.draw n).installing = s.installing := rfl
@[simp] theorem State.draw_booting (s : State) (n : Nat) : (s.draw n).booting = s.booting := rfl
@[simp] theorem State.draw_now (s : State) (n : Nat) : (s.draw n).now = s.now := rfl
@[simp] theorem State.draw_deadRouters (s : State) (n : Nat) : (s.draw n).deadRouters = s.deadRouters := rfl
@[simp] theorem State.draw_exceptions (s : State) (n : Nat) : (s.draw n).exceptions = s.exceptions := rfl
@[simp] theorem State.draw_withdrawn (s : State) (n : Nat) : (s.draw n).withdrawn = s.withdrawn := rfl
@[simp] theorem State.draw_replace (s : State) (n : Nat) : (s.draw n).replace = s.replace := rfl
@[simp] theorem State.draw_failedParts (s : State) (n : Nat) : (s.draw n).failedParts = s.failedParts := rfl
@[simp] theorem State.draw_power (s : State) (n : Nat) : (s.draw n).power = s.power := rfl
@[simp] theorem State.draw_modDrops (s : State) (n : Nat) : (s.draw n).modDrops = s.modDrops := rfl
@[simp] theorem State.draw_lateIdx (s : State) (n : Nat) : (s.draw n).lateIdx = s.lateIdx := rfl
@[simp] theorem State.draw_retiring (s : State) (n : Nat) : (s.draw n).retiring = s.retiring := rfl
@[simp] theorem State.draw_credits (s : State) (n : Nat) : (s.draw n).credits = s.credits := rfl
@[simp] theorem State.draw_replays (s : State) (n : Nat) : (s.draw n).replays = s.replays := rfl
@[simp] theorem State.draw_withdrawnTiles (s : State) (n : Nat) : (s.draw n).withdrawnTiles = s.withdrawnTiles := rfl
@[simp] theorem State.draw_answers (s : State) (n : Nat) : (s.draw n).answers = s.answers := rfl
@[simp] theorem State.draw_booted (s : State) (n : Nat) : (s.draw n).booted = s.booted := rfl
@[simp] theorem State.draw_degraded (s : State) (n : Nat) : (s.draw n).degraded = s.degraded := rfl
@[simp] theorem State.draw_hostDetour (s : State) (n : Nat) : (s.draw n).hostDetour = s.hostDetour := rfl
@[simp] theorem State.draw_hostSigning (s : State) (n : Nat) : (s.draw n).hostSigning = s.hostSigning := rfl
@[simp] theorem State.draw_throttle (s : State) (n : Nat) : (s.draw n).throttle = s.throttle := rfl
@[simp] theorem State.draw_nextLaunch (s : State) (n : Nat) : (s.draw n).nextLaunch = s.nextLaunch := rfl
@[simp] theorem State.draw_responses (s : State) (n : Nat) : (s.draw n).responses = s.responses := rfl
@[simp] theorem State.draw_completions (s : State) (n : Nat) : (s.draw n).completions = s.completions := rfl
@[simp] theorem State.draw_journals (s : State) (n : Nat) : (s.draw n).journals = s.journals := rfl
@[simp] theorem State.draw_agenda (s : State) (n : Nat) : (s.draw n).agenda = s.agenda := rfl
@[simp] theorem State.draw_turn (s : State) (n : Nat) : (s.draw n).turn = s.turn := rfl
@[simp] theorem State.draw_fresh (s : State) (n : Nat) : (s.draw n).fresh = s.fresh + n := rfl

end Sys2Proof.Machine
end

