-- ==== Sys2Proof/Tests/Slice0.lean ====
section
/-! SUPPORT. Tests: what the checks refuse, words written out from the spec's encodings, small steps with results taken from the spec, and
for each obligation a state and operands that meet its hypotheses. -/

set_option maxRecDepth 20000
set_option Elab.async false

namespace Sys2Proof.Tests

open Sys2Proof.Machine

/-! ### Helpers -/

/-- A core with these scalars. -/
def coreWith (l : List (SReg × Word)) : Core := l.foldl (fun c p => c.setS p.1 p.2) { pc := 0x100, npc := 0x102 }

/-- A state with this core in focus, everything else as after reset. -/
def on (k : CoreSel) (l : List (SReg × Word)) (t : Tile := {}) : State := { sel := k, core := coreWith l, tile := t }

/-- What an answer's next state says. -/
def nextIs (o : Out) (f : State → Bool) : Bool := match o with | .next t => f t | _ => false

/-- A slice with these words at these offsets. -/
def sliceOf (l : List (Nat × Word)) : Memory := l.foldl (fun m p => m.writeWord p.1 p.2) []

/-- A packet with a body, from the tile (2, 0) to the tile (0, 0). -/
def packetOf (vc : Fin 8) (b : Body) : Packet :=
  { vc := vc, dst := .tile 0 0, dcore := .stage, src := .tile 2 0, score := .stage, shnd := 7, ctx := 1, ttag := 1, part := 0, seq := 0, opn := true,
    age := 0, gen := 0, ent := 0, req := 0, avc := 0, body := b }

def sampleReq : PhReq :=
  { engine := false, region := 0, slot := 0, gen := 1, mx := 0, my := 0, mcore := .stage, ent := 0, mode := .sw, phase := 0, rel := false, leave := false }

def emptyImage : ModuleImage := { berths := [], bytes := [], keeps := [], rings := [], flex := [], edges := [], loadable := true }

/-! ### Ill-formed terms, one for each check -/

/-- R45, R74: an immediate past its field with four XIM words. -/
theorem test_wf_immediates :
    [Instr.addi 1 2 (2 ^ 48), .li 1 (-(2 ^ 51) - 1), .andi 1 2 (2 ^ 48), .ldw 1 2 (2 ^ 48) none, .bra (2 ^ 54), .bz 1 (2 ^ 51), .bccEq 1 2 (2 ^ 35),
      .ldt 1 2 (2 ^ 37) none, .cro (2 ^ 43), .trap (2 ^ 41), .loop 1 (2 ^ 51)].all (fun i => !i.wf) = true := by decide

/-- R124, R158, R206, R221: orders that the instruction refuses. -/
theorem test_wf_orders :
    [Instr.ldw 1 2 0 (some { ord := .rel, scope := .tile }), .ldd 1 2 0 (some { ord := .ar, scope := .tile }),
      .stw 1 2 0 (some { ord := .acq, scope := .tile }), .cpy 1 2 (some { ord := .ar, scope := .tile }),
      .sendS 1 2 .one (some { ord := .acq, scope := .tile }), .pharr 1 2 (some .acq), .phwait 1 2 (some .rel)].all (fun i => !i.wf) = true := by
  decide

/-- R54, R55, R88, R127, R300: row codes, pairs, accumulators and counts out of range. -/
theorem test_wf_operands :
    [Instr.ldr 14 1 0 {} none, .str 15 1 0 {} none, .vadd .f32 14 1 2 {}, .vadd .f32 1 15 2 {}, .vadd .f32 1 2 3 { c := 1 }, .cbnd 1 3 2,
      .cnar 1 2 3 4, .alloc 3 1 2, .free 1, .kacrd 0 1, .kmmaDwAcc 1 0 1 .both {}, .mmq 1 0 1 0 0, .rwaitFull 0 0, .radvHead 0 65, .loop 0 1,
      .swr 2 1, .sendR 1 2 3 {} none].all (fun i => !i.wf) = true := by decide

/-- R253, R259, R263: types and parts that a row instruction refuses. -/
theorem test_wf_types :
    [Instr.vand .f32 1 2 3 {}, .vshl .bf16 1 2 3 {}, .vunaAbs .n8 1 2 {}, .vunaExp .i32 1 2 {}, .viota .f16 1 2 {}, .vshuf .f32 1 2 3 {},
      .vcvt .i8 .f32 1 2 { c := 4 }].all (fun i => !i.wf) = true := by decide

/-- Events that name what does not exist: endpoints, phaser slots, links, lengths, tags, regions. -/
theorem test_wf_events :
    [Instr.remoteResponse { packetOf 2 (.ack false) with src := .tile 256 0 }, .seqWindowArrival (packetOf 1 (.read 0 0 2049)),
      .messageDelivery (packetOf 3 (.msg .scalar 0 0 .stage 0 none [] 0)), .phaserArrivalAtHome { sampleReq with slot := 8 },
      .flitCrcError { x := 256, y := 0, port := 0 }, .launchQueueTake 64 { origin := none, handles := [], tag := 0 },
      .launchQueueTake 0 { origin := some (1, 0), handles := [], tag := 0 }, .retryWaitExpiry 64, .tokenBucketRefill 4096,
      .leaseRecall 0 0 16384, .collTimeout 16384, .packetAgeTick 0, .edgeMemoryModuleFailure true 16].map (fun i => i.wf) =
    [false, false, false, false, false, false, false, false, false, false, false, true, false] := by decide

/-! ### Words written out from the spec's encodings -/

/-- Whether words decode to an instruction of as many words. -/
def reads (p : List Nat × Instr) : Bool := decide (decode p.1 = .instr p.2 p.1.length)

/-- The examples that the chapters give beside their encodings. -/
theorem test_decode_spec_examples_1 :
    ([
    ([0xF803, 0x00CA], .amoaAdd 3 1 2 false none),
    ([0xF803, 0xFC12, 0x00CA], .amoaAdd 3 1 2 false (some { ord := .rel, scope := .region })),
    ([0xF803, 0xF903, 0x08CA], .amobMinu 3 1 2 true none), ([0xF803, 0x0CCA], .amobSwap 3 1 2 false none),
    ([0xF803, 0x28D0], .bar 3 .region .cmp), ([0xF803, 0x2A1A], .bara 0 .wafer .all), ([0xF803, 0x130D], .casD 4 1 5 none),
    ([0xF805, 0x1AD0], .cfix 3 2), ([0xF807, 0x38C0], .chke 3 0), ([0xF805, 0x18D0], .chkv 3 2),
    ([0xF803, 0x48C8], .collRed 3 1 none), ([0xF803, 0x30C8], .cpy 3 1 none),
    ([0xF803, 0xFC13, 0x30C8], .cpy 3 1 (some { ord := .rel, scope := .wafer })), ([0xF805, 0x1D15], .csrd 4 2 5),
    ([0xF807, 0x5208], .ctxld 1), ([0xF807, 0x50C8], .ctxsv 3 1), ([0x1D0A], .div 4 1 2),
    ([0xF802, 0xFC02, 0x6400], .fenceWRegion), ([0xF807, 0x6008], .idle 1), ([0xF807, 0x480A], .inj 1 2), ([0xC8C0], .inpop 3),
    ([0xCAE0], .inrd 3 4), ([0xF980, 0xCA41], .inrdR 9 0 false), ([0xCD40], .insk 5), ([0xF806, 0x3990], .kacrd 6 2),
    ([0xF806, 0x0081], .kadd 2 0 1), ([0xF806, 0x0843], .kaddd 1 0 3), ([0xF806, 0xF920, 0x26A8], .kcolDraw 2 5 8 0 false 0),
    ([0xF806, 0x24A8], .kcolSdev 2 5), ([0xF806, 0x2860], .kldMp32 1 4), ([0xF806, 0x180A], .kmk 0 1 (some 2) false),
    ([0xF806, 0x3001], .kmmaDwAcc 0 0 1 .both {}), ([0xF806, 0xF901, 0x3001], .kmmaDwAcc 0 0 1 .aOnly {}),
    ([0xF806, 0x480A], .kmode 1 2), ([0xF806, 0x5051], .kmovTr 1 2), ([0xF806, 0x04CA], .kmul 3 1 2)] : List (List Nat × Instr)).all reads = true := by decide +kernel

/-- The examples that the chapters give beside their encodings (PACK s3 by its format, log entry 71). -/
theorem test_decode_spec_examples_2 :
    ([
    ([0xF806, 0x0C43], .kmuld 1 0 3), ([0xF806, 0x1160], .knlRelu 5 4), ([0xF806, 0x41E8], .kred 7 5),
    ([0xF806, 0x0A43], .kscl 1 0 3), ([0xF803, 0x44C1], .kvdel 3 1), ([0xF803, 0x40E1], .kvget 3 4 1),
    ([0xF803, 0x46E1], .kvlst 3 4 1), ([0xF803, 0x42E1], .kvset 3 4 1), ([0xF806, 0x0F13], .kvsub 4 2 3),
    ([0x7420], .ldd 4 1 0 none), ([0xFC0A, 0x7320], .ldd 3 1 0 (some { ord := .acq, scope := .region })),
    ([0xF805, 0x2910], .macrdF32 4 2), ([0xF805, 0x30A0], .macwr 2 4), ([0xF805, 0x2080], .macz 2),
    ([0xF807, 0x68C8], .metr 3 1), ([0xF805, 0x0081], .mmaAcc 2 0 1 {}), ([0xF805, 0xFD04, 0x0081], .mmaAcc 2 0 1 { wa := 4 }),
    ([0xF805, 0x0601], .mmaKeepa 0 0 1 {}), ([0xF805, 0x0401], .mmaKeepb 0 0 1 {}), ([0xF805, 0x0281], .mmaOvw 2 0 1 {}),
    ([0xF805, 0x1053], .mmg 1 2 3 {}), ([0xF805, 0x0801], .mmq 0 0 1 0 0), ([0xF805, 0x40D0], .mtr 3 2),
    ([0xF805, 0x3810], .mwait2), ([0xF807, 0x54C0], .pack 3), ([0xF803, 0x20C8], .pharr 3 1 none),
    ([0xF803, 0xFC00, 0x20C8], .pharr 3 1 (some .rlx)), ([0xF803, 0x24C8], .phaw 3 1 none), ([0xF803, 0x1CC8], .phdrop 3 1),
    ([0xF803, 0x18C8], .phnew 3 1), ([0xF803, 0x1ACA], .phreg 3 1 2), ([0xF803, 0x22C8], .phwait 3 1 none),
    ([0xF803, 0x50C8], .plh 3 1), ([0xF803, 0x5318], .plq 4 3), ([0xF807, 0x5801], .qsvcMap), ([0xD883], .radvTail 0 3)] : List (List Nat × Instr)).all reads = true := by decide +kernel

/-- The examples that the chapters give beside their encodings. -/
theorem test_decode_spec_examples_3 :
    ([
    ([0xF805, 0x4850], .rcfg 1 2), ([0xFA02, 0xFB50, 0xC288], .sendR 2 1 0 { rep := .imm 2, base := 5 } none),
    ([0xF807, 0x1408], .rpqdrp 1), ([0xF807, 0x1740], .rpqlen 5), ([0xF807, 0x10C8], .rpqrd 3 1), ([0xF807, 0x1237], .rpqwr 6 7),
    ([0xF805, 0x5840], .rpsh (some 1) 0 .one), ([0xF805, 0x50C8], .rqry 3 1), ([0xF805, 0x6148], .rtak (some 5) 1 .one 0),
    ([0xD104], .rwaitFull 1 4), ([0xC620], .sendH 4 .one none), ([0xC288], .sendR 2 1 0 {} none),
    ([0xC00A], .sendS 1 2 .one none), ([0xC458], .sendT 1 3 .one none), ([0xF807, 0x4210], .sigR 2 0 false),
    ([0xF807, 0x4700], .sigRd 4), ([0xF807, 0x4018], .sigS 3), ([0xF807, 0x4410], .sigT 2), ([0xF807, 0x1B02], .srd 3 2),
    ([0xFC13, 0x8220], .std 2 1 0 (some { ord := .rel, scope := .wafer })), ([0xF807, 0x220E], .swr 14 2),
    ([0xF807, 0x0009], .trap 9), ([0xF804, 0xF980, 0x8008], .vredSum .f32 8 1 {}), ([0xF803, 0x3918], .waitp 4 3),
    ([0xF804, 0x7922], .vunaExp .f32 4 4 {}), ([0xF804, 0xF901, 0x8A88], .vcvt .bf16 .f32 2 1 { c := 1 }),
    ([0xF804, 0xB410], .viota .i32 0 2 {}),
    ([0xF806, 0xF905, 0xFB20, 0x80C0], .qnt { t6 := false, bf16 := false } 3 0 2 false 5),
    ([0xF806, 0xF905, 0xFB20, 0x8818], .dqn { t6 := false, bf16 := false } 0 3 2 false 5),
    ([0xF806, 0xF906, 0x910A], .baq 4 1 2 0 false 6), ([0xF802, 0x04E5], .ldx .w 3 4 5 none), ([0xF802, 0x5113], .alloc 4 2 3)] : List (List Nat × Instr)).all reads = true := by decide +kernel

theorem test_decode_page0_1 :
    ([
    ([0x0000], .nop), ([0x0040], .endAct), ([0x0080], .ret), ([0x00C0], .brk), ([0x0100], .endTeam), ([0x0913], .add 4 2 3),
    ([0x0B13], .sub 4 2 3), ([0x0D13], .and 4 2 3), ([0x0F13], .or 4 2 3), ([0x1113], .xor 4 2 3), ([0x1313], .shl 4 2 3),
    ([0x1513], .shr 4 2 3), ([0x1713], .sha 4 2 3), ([0x1913], .mul 4 2 3), ([0x1B13], .mulh 4 2 3), ([0x1D13], .div 4 2 3),
    ([0x1F13], .rem 4 2 3), ([0x2113], .seq 4 2 3), ([0x2313], .slt 4 2 3), ([0x2513], .sltu 4 2 3), ([0x2713], .sel 4 2 3),
    ([0x2913], .min 4 2 3), ([0x2B13], .max 4 2 3), ([0x2D13], .minu 4 2 3), ([0x2F13], .maxu 4 2 3), ([0x3445], .addi 4 2 5),
    ([0x3C05], .li 4 5), ([0x4445], .andi 4 2 5), ([0x4C45], .shli 4 2 5), ([0x5445], .shri 4 2 5)] : List (List Nat × Instr)).all reads =
      true := by decide +kernel

theorem test_decode_page0_2 :
    ([
    ([0x5C45], .shai 4 2 5), ([0x6110], .mov 4 2), ([0x6310], .qrd 4 2), ([0x6510], .qwr 4 2), ([0x6C45], .ldw 4 2 5 none),
    ([0x7445], .ldd 4 2 5 none), ([0x7C45], .stw 4 2 5 none), ([0x8445], .std 4 2 5 none), ([0x8C45], .ldr 4 2 5 {} none),
    ([0x9445], .str 4 2 5 {} none), ([0x9809], .bra 9), ([0xA009], .call 9), ([0xAC05], .bz 4 5), ([0xB405], .bnz 4 5),
    ([0xBC05], .loop 4 5), ([0xC013], .sendS 2 3 .one none), ([0xC310], .sendR 4 2 0 {} none), ([0xC610], .sendH 2 .one none),
    ([0xC900], .inpop 4), ([0xCB10], .inrd 4 2), ([0xCB01], .inrdR 4 0 false), ([0xCD00], .insk 4), ([0xD406], .rwaitFull 4 6),
    ([0xD486], .rwaitFree 4 6), ([0xDC06], .radvHead 4 6), ([0xDC86], .radvTail 4 6), ([0xE010], .jr 2), ([0xE210], .callr 2),
    ([0xC450], .sendT 1 2 .one none), ([0xF001, 0x3445], .addi 4 2 37)] : List (List Nat × Instr)).all reads =
      true := by decide +kernel

theorem test_decode_page0_3 :
    ([
    ([0xFA84, 0xF9C0, 0xFB34, 0xFC0A, 0x8C47], .ldr 12 10 7 { rep := .reg 4, base := 3, bank := true } (some { ord := .acq, scope := .region })),
    ([0xF985, 0xC390], .sendR 14 2 5 {} none), ([0x9FFE], .bra (-2))] : List (List Nat × Instr)).all reads =
      true := by decide +kernel

theorem test_decode_page1_1 :
    ([
    ([0xF801, 0x0113], .mulhu 4 2 3), ([0xF801, 0x0313], .divu 4 2 3), ([0xF801, 0x0513], .remu 4 2 3),
    ([0xF801, 0x0910], .clz 4 2), ([0xF801, 0x0B10], .ctz 4 2), ([0xF801, 0x0D10], .popc 4 2), ([0xF801, 0x0F10], .brev 4 2),
    ([0xF801, 0x1113], .bext 4 2 3), ([0xF801, 0x1913], .bins 4 2 3), ([0xF801, 0x2110], .sextB 4 2),
    ([0xF801, 0x2310], .sextH 4 2), ([0xF801, 0x2510], .sextW 4 2), ([0xF801, 0x2710], .zextW 4 2),
    ([0xF801, 0x2913], .addw 4 2 3), ([0xF801, 0x2B13], .subw 4 2 3), ([0xF801, 0x2D13], .mulw 4 2 3),
    ([0xF801, 0x2F13], .divw 4 2 3), ([0xF801, 0x3113], .remw 4 2 3), ([0xF801, 0x3313], .divuw 4 2 3),
    ([0xF801, 0x3513], .remuw 4 2 3), ([0xF801, 0x3913], .padd 4 2 3), ([0xF801, 0x4113], .pmk 4 2 3),
    ([0xF801, 0x4310], .pspc 4 2), ([0xF801, 0x4510], .prnk 4 2), ([0xF801, 0x4710], .poff 4 2),
    ([0xF801, 0x4899], .bccEq 2 3 1), ([0xF801, 0x4A99], .bccNe 2 3 1), ([0xF801, 0x4C99], .bccLt 2 3 1),
    ([0xF801, 0x4E99], .bccGe 2 3 1), ([0xF801, 0x5099], .bccuLtu 2 3 1)] : List (List Nat × Instr)).all reads =
      true := by decide +kernel

theorem test_decode_page1_2 :
    ([
    ([0xF801, 0x5299], .bccuGeu 2 3 1)] : List (List Nat × Instr)).all reads =
      true := by decide +kernel

theorem test_decode_page2_1 :
    ([
    ([0xF802, 0x0513], .ldx .w 4 2 3 none), ([0xF802, 0x0D13], .ldxs .w 4 2 3 none), ([0xF802, 0x1513], .stx .w 4 2 3 none),
    ([0xF802, 0x2913], .lds 4 2 3 {} none), ([0xF802, 0x3113], .sts 4 2 3 {} none), ([0xF802, 0x3D13], .cld .w 4 2 3 none),
    ([0xF802, 0x4513], .cst .w 4 2 3 none), ([0xF802, 0x4913], .cbnd 4 2 3), ([0xF802, 0x4D13], .cchk 4 2 3),
    ([0xF802, 0x5113], .alloc 4 2 3), ([0xF802, 0x5810], .free 2), ([0xF802, 0x6000], .fenceRwWafer),
    ([0xF802, 0x6200], .fenceR), ([0xF802, 0x6400], .fenceWWafer), ([0xF802, 0x6600], .fenceI),
    ([0xF802, 0x1945], .ldt 1 2 5 none), ([0xF802, 0x2145], .stt 1 2 5 none), ([0xF802, 0xF905, 0x4B13], .cnar 4 2 3 5),
    ([0xF802, 0xFC00, 0x6000], .fenceRwTile), ([0xF802, 0xFC01, 0x6000], .fenceRwQuad),
    ([0xF802, 0xFC02, 0x6000], .fenceRwRegion), ([0xF802, 0xFC03, 0x6000], .fenceRwWafer),
    ([0xF802, 0xFC04, 0x6000], .fenceRwPod), ([0xF802, 0xFC00, 0x6400], .fenceWTile), ([0xF802, 0xFC01, 0x6400], .fenceWQuad),
    ([0xF802, 0xFC02, 0x6400], .fenceWRegion), ([0xF802, 0xFC03, 0x6400], .fenceWWafer), ([0xF802, 0xFC04, 0x6400], .fenceWPod)] : List (List Nat × Instr)).all reads =
      true := by decide +kernel

theorem test_decode_page3_1 :
    ([
    ([0xF803, 0x0113], .amoaAdd 4 2 3 false none), ([0xF803, 0x0313], .amoaAnd 4 2 3 false none),
    ([0xF803, 0x0513], .amoaOr 4 2 3 false none), ([0xF803, 0x0713], .amoaXor 4 2 3 false none),
    ([0xF803, 0x0913], .amobMin 4 2 3 false none), ([0xF803, 0x0B13], .amobMax 4 2 3 false none),
    ([0xF803, 0x0D13], .amobSwap 4 2 3 false none), ([0xF803, 0x1113], .casW 4 2 3 none), ([0xF803, 0x1313], .casD 4 2 3 none),
    ([0xF803, 0x1910], .phnew 4 2), ([0xF803, 0x1B13], .phreg 4 2 3), ([0xF803, 0x1D10], .phdrop 4 2),
    ([0xF803, 0x1F10], .phqry 4 2), ([0xF803, 0x2110], .pharr 4 2 none), ([0xF803, 0x2310], .phwait 4 2 none),
    ([0xF803, 0x2510], .phaw 4 2 none), ([0xF803, 0x290A], .bar 4 .quad .all), ([0xF803, 0x2B0A], .bara 4 .quad .all),
    ([0xF803, 0x2D0A], .barw 4 .quad .all), ([0xF803, 0x3110], .cpy 4 2 none), ([0xF803, 0x3310], .cpy2d 4 2 none),
    ([0xF803, 0x3510], .cpyGth 4 2 none), ([0xF803, 0x3710], .cpyRing 4 2 none), ([0xF803, 0x3910], .waitp 4 2),
    ([0xF803, 0x4113], .kvget 4 2 3), ([0xF803, 0x4313], .kvset 4 2 3), ([0xF803, 0x4503], .kvdel 4 3),
    ([0xF803, 0x4713], .kvlst 4 2 3), ([0xF803, 0x4910], .collRed 4 2 none), ([0xF803, 0x4B10], .collBcst 4 2 none)] : List (List Nat × Instr)).all reads =
      true := by decide +kernel

theorem test_decode_page3_2 :
    ([
    ([0xF803, 0x4D10], .collAgth 4 2 none), ([0xF803, 0x5110], .plh 4 2), ([0xF803, 0x5310], .plq 4 2),
    ([0xF803, 0xF903, 0x0913], .amobMinu 4 2 3 true none),
    ([0xF803, 0xF902, 0xFC18, 0x0B13], .amobMaxu 4 2 3 false (some { ord := .ar, scope := .tile })),
    ([0xF803, 0xFC10, 0x2110], .pharr 4 2 (some .rel))] : List (List Nat × Instr)).all reads =
      true := by decide +kernel

theorem test_decode_page4_1 :
    ([
    ([0xF804, 0x0313], .vadd .bf16 4 2 3 {}), ([0xF804, 0x0B13], .vsub .bf16 4 2 3 {}), ([0xF804, 0x1313], .vmul .bf16 4 2 3 {}),
    ([0xF804, 0x1B13], .vfma .bf16 4 2 3 {}), ([0xF804, 0x2313], .vmin .bf16 4 2 3 {}), ([0xF804, 0x2B13], .vmax .bf16 4 2 3 {}),
    ([0xF804, 0x5B13], .vceq .bf16 4 2 3 {}), ([0xF804, 0x6313], .vclt .bf16 4 2 3 {}), ([0xF804, 0x6B13], .vcle .bf16 4 2 3 {}),
    ([0xF804, 0x7313], .vsel .bf16 4 2 3 {}), ([0xF804, 0x7B10], .vunaAbs .bf16 4 2 {}),
    ([0xF804, 0x7B11], .vunaNeg .bf16 4 2 {}), ([0xF804, 0x7B12], .vunaExp .bf16 4 2 {}),
    ([0xF804, 0x7B13], .vunaLog2 .bf16 4 2 {}), ([0xF804, 0x7B14], .vunaRcp .bf16 4 2 {}),
    ([0xF804, 0x7B15], .vunaRsq .bf16 4 2 {}), ([0xF804, 0x7B16], .vunaTanh .bf16 4 2 {}),
    ([0xF804, 0x7B17], .vunaSig .bf16 4 2 {}), ([0xF804, 0x8310], .vredSum .bf16 4 2 {}),
    ([0xF804, 0x8311], .vredMax .bf16 4 2 {}), ([0xF804, 0x8312], .vredMin .bf16 4 2 {}),
    ([0xF804, 0x8313], .vredSsq .bf16 4 2 {}), ([0xF804, 0x8B11], .vcvt .bf16 .bf16 4 2 {}),
    ([0xF804, 0x9313], .vbc .bf16 4 2 3 {}), ([0xF804, 0x9910], .vmov 4 2 {}), ([0xF804, 0xAB10], .vscan .bf16 4 2 {}),
    ([0xF804, 0xBB13], .vrot .bf16 4 2 3 {}), ([0xF804, 0x3513], .vand .i32 4 2 3 {}), ([0xF804, 0x3F13], .vor .i8 4 2 3 {}),
    ([0xF804, 0x4513], .vxor .i32 4 2 3 {})] : List (List Nat × Instr)).all reads =
      true := by decide +kernel

theorem test_decode_page4_2 :
    ([
    ([0xF804, 0x4D13], .vshl .i32 4 2 3 {}), ([0xF804, 0x5513], .vshr .i32 4 2 3 {}), ([0xF804, 0xA713], .vshuf .i8 4 2 3 {}),
    ([0xF804, 0xB510], .viota .i32 4 2 {}), ([0xF804, 0xF9E5, 0x010E], .vadd .f32 12 9 14 { c := 5 }),
    ([0xF804, 0xFB08, 0x3513], .vand .n8 4 2 3 {}), ([0xF804, 0xF903, 0x8F10], .vcvt .i8 .f32 4 2 { c := 3 })] : List (List Nat × Instr)).all reads =
      true := by decide +kernel

theorem test_decode_page5_1 :
    ([
    ([0xF805, 0x0113], .mmaAcc 4 2 3 {}), ([0xF805, 0x0313], .mmaOvw 4 2 3 {}), ([0xF805, 0x0513], .mmaKeepb 4 2 3 {}),
    ([0xF805, 0x0713], .mmaKeepa 4 2 3 {}), ([0xF805, 0x0913], .mmq 4 2 3 0 0), ([0xF805, 0x1113], .mmg 4 2 3 {}),
    ([0xF805, 0x1910], .chkv 4 2), ([0xF805, 0x1B10], .cfix 4 2), ([0xF805, 0x1D13], .csrd 4 2 3), ([0xF805, 0x2100], .macz 4),
    ([0xF805, 0x2910], .macrdF32 4 2), ([0xF805, 0x2B10], .macrdBf16 4 0 2), ([0xF805, 0x2D10], .macrdT8 4 0 2 0),
    ([0xF805, 0x3110], .macwr 4 2), ([0xF805, 0x3810], .mwait2), ([0xF805, 0x3801], .mwaitAll), ([0xF805, 0x4110], .mtr 4 2),
    ([0xF805, 0x4910], .rcfg 4 2), ([0xF805, 0x5110], .rqry 4 2), ([0xF805, 0x6110], .rtak (some 4) 2 .one 0),
    ([0xF805, 0x5850], .rpsh (some 1) 2 .one), ([0xFA87, 0xF805, 0xF980, 0x5950], .rpsh none 2 (.reg 7)),
    ([0xFA06, 0xF805, 0xF980, 0xFD09, 0x6150], .rtak none 2 (.imm 6) 9), ([0xF805, 0xF909, 0xFBC0, 0x2D10], .macrdT8 4 3 2 9),
    ([0xFA03, 0xF805, 0xFD75, 0x0113], .mmaAcc 4 2 3 { rep := .imm 3, wa := 5, wb := 7 }),
    ([0xF805, 0xFB80, 0x2B10], .macrdBf16 4 1 2), ([0xF805, 0x3800], .mwait0), ([0xF805, 0x3808], .mwait1),
    ([0xF805, 0x3818], .mwait3), ([0xF805, 0x3820], .mwait4)] : List (List Nat × Instr)).all reads =
      true := by decide +kernel

theorem test_decode_page5_2 :
    ([
    ([0xF805, 0x3828], .mwait5), ([0xF805, 0x3830], .mwait6), ([0xF805, 0x3838], .mwait7)] : List (List Nat × Instr)).all reads =
      true := by decide +kernel

theorem test_decode_page6_1 :
    ([
    ([0xF806, 0x0113], .kadd 4 2 3), ([0xF806, 0x0313], .ksub 4 2 3), ([0xF806, 0x0513], .kmul 4 2 3),
    ([0xF806, 0x0713], .kfma 4 2 3), ([0xF806, 0x0913], .kaddd 4 2 3), ([0xF806, 0x0B13], .kscl 4 2 3),
    ([0xF806, 0x0D13], .kmuld 4 2 3), ([0xF806, 0x0F13], .kvsub 4 2 3), ([0xF806, 0x1110], .knlRelu 4 2),
    ([0xF806, 0x1111], .knlExp 4 2), ([0xF806, 0x1112], .knlSig 4 2), ([0xF806, 0x1113], .knlSq 4 2),
    ([0xF806, 0x1114], .knlRcp 4 2), ([0xF806, 0x1913], .kmk 4 2 (some 3) false), ([0xF806, 0x2110], .kcolMean 4 2),
    ([0xF806, 0x2310], .kcolVar 4 2), ([0xF806, 0x2510], .kcolSdev 4 2), ([0xF806, 0x2713], .kcolDraw 4 2 3 0 false 0),
    ([0xF806, 0x2910], .kldMp32 4 2), ([0xF806, 0x2B10], .kldMb16 4 2), ([0xF806, 0x2D10], .kstMp32 4 2),
    ([0xF806, 0x2F10], .kstMb16 4 2), ([0xF806, 0x3113], .kmmaDwAcc 4 2 3 .both {}),
    ([0xF806, 0x3313], .kmmaMwAcc 4 2 3 .both {}), ([0xF806, 0x3513], .kmmaDwOvw 4 2 3 .both {}),
    ([0xF806, 0x3713], .kmmaMwOvw 4 2 3 .both {}), ([0xF806, 0x3910], .kacrd 4 2), ([0xF806, 0x4110], .kred 4 2),
    ([0xF806, 0x4813], .kmode 2 3), ([0xF806, 0x5110], .kmov 4 2)] : List (List Nat × Instr)).all reads =
      true := by decide +kernel

theorem test_decode_page6_2 :
    ([
    ([0xF806, 0x5111], .kmovTr 4 2), ([0xF806, 0x8111], .qnt { t6 := false, bf16 := true } 4 2 0 false 0),
    ([0xF806, 0x8911], .dqn { t6 := false, bf16 := true } 4 2 0 false 0), ([0xF806, 0x9113], .baq 4 2 3 0 false 0),
    ([0xF806, 0xF920, 0xFB04, 0x1915], .kmk 4 2 none true),
    ([0xF806, 0xF98B, 0xFB54, 0x8052], .qnt { t6 := true, bf16 := false } 9 2 5 true 11)] : List (List Nat × Instr)).all reads =
      true := by decide +kernel

theorem test_decode_page7_1 :
    ([
    ([0xF807, 0x0005], .trap 5), ([0xF807, 0x0800], .tret), ([0xF807, 0x1110], .rpqrd 4 2), ([0xF807, 0x1213], .rpqwr 2 3),
    ([0xF807, 0x1410], .rpqdrp 2), ([0xF807, 0x1700], .rpqlen 4), ([0xF807, 0x1C12], .srd 4 18), ([0xF807, 0x2412], .swr 18 4),
    ([0xF807, 0x2402], .swrCki 4), ([0xF807, 0x2403], .swrMctl 4), ([0xF807, 0x240D], .swrFfl 4), ([0xF807, 0x2410], .swrTvec 4),
    ([0xF807, 0x2809], .cro 9), ([0xF807, 0x3000], .crc), ([0xF807, 0x3910], .chke 4 2), ([0xF807, 0x4010], .sigS 2),
    ([0xF807, 0x4210], .sigR 2 0 false), ([0xF807, 0x4410], .sigT 2), ([0xF807, 0x4700], .sigRd 4), ([0xF807, 0x4813], .inj 2 3),
    ([0xF807, 0x5110], .ctxsv 4 2), ([0xF807, 0x5210], .ctxld 2), ([0xF807, 0x5500], .pack 4), ([0xF807, 0x5800], .qsvcPing),
    ([0xF807, 0x5801], .qsvcMap), ([0xF807, 0x5802], .qsvcUnmap), ([0xF807, 0x5803], .qsvcGroup), ([0xF807, 0x5804], .qsvcYield),
    ([0xF807, 0x5805], .qsvcReport), ([0xF807, 0x5806], .qsvcDebug)] : List (List Nat × Instr)).all reads =
      true := by decide +kernel

theorem test_decode_page7_2 :
    ([
    ([0xF807, 0x6010], .idle 2), ([0xF807, 0x6910], .metr 4 2), ([0xF807, 0xF001, 0x002C], .trap 300),
    ([0xF807, 0x5807], .qsvcUnknown), ([0xF807, 0xF001, 0x5805], .qsvcUnknown), ([0xF807, 0x1C2A], .srd 4 42)] : List (List Nat × Instr)).all reads =
      true := by decide +kernel

/-! ### Hypotheses of the obligations are met: chapters 03 to 06 -/

/-- Three ready scalars; source and destination may be one; the last scalar. -/
theorem witness_ScalarFormsWriteTheirResult :
    (on .stage [(1, 5), (2, 7)]).core.ready [3, 1, 2] = true ∧ (on .comp []).core.ready [15, 15, 15] = true ∧
    (on .stage [(1, 5)]).core.ready [0, 1] = true := by decide

/-- The field that b names: position 63 with length 64 or more, and length 0. -/
theorem witness_BitsAreCountedTakenAndPut :
    (on .stage [(1, 5)]).core.ready [2, 1] = true ∧ (on .stage [(1, allOnes), (2, 0x7F3F)]).core.ready [3, 1, 2] = true ∧
    Nat.min (0x7F3F / 256 % 128) 64 = 64 ∧ (on .stage [(1, allOnes), (2, 0)]).core.ready [3, 1, 2] = true := by decide

/-- A zero divisor, one whose low half only is zero, and the smallest number divided by -1, with entry 0 free. -/
theorem witness_DividesCompleteOrTrap :
    (let s := on .stage [(1, 5), (2, 0)]; s.core.ready [3, 1, 2] = true ∧ s.S 2 = 0) ∧
    (let s := on .stage [(1, 5), (2, 0x100000000)]
     s.core.ready [3, 1, 2] = true ∧ s.S 2 ≠ 0 ∧ (s.S 2).truncate 32 = (0 : W32) ∧ (∀ e ∈ s.core.claims, e.kind ≠ 1) ∧
       s.core.freeEntry = some 0 ∧ s.core.stopped = false ∧ s.core.tr.fwd = none) ∧
    (let s := on .comp [(1, 0x8000000080000000), (2, allOnes)]
     s.core.ready [3, 1, 2] = true ∧ s.S 2 ≠ 0 ∧ (s.S 2).truncate 32 ≠ (0 : W32) ∧ (∀ e ∈ s.core.claims, e.kind ≠ 1) ∧
       s.core.freeEntry = some 0 ∧ s.core.stopped = false ∧ s.core.tr.fwd = none) := by decide

/-- The last space and the limit of LOCAL are within, the next ones are not; a displacement that reaches the limit and one past it. -/
theorem witness_PointersAreMadeMovedAndRead :
    (let s := on .stage [(1, 0x80000), (2, 0)]
     s.core.ready [3, 1, 2] = true ∧ (s.S 2).toNat % 16 < 5 ∧ (s.S 1).toNat ≤ spaceLimit ((s.S 2).toNat % 16)) ∧
    (let s := on .stage [(1, 0x80001), (2, 0)]
     s.core.ready [3, 1, 2] = true ∧ ¬ ((s.S 2).toNat % 16 < 5 ∧ (s.S 1).toNat ≤ spaceLimit ((s.S 2).toNat % 16))) ∧
    (let s := on .stage [(1, 0), (2, 5)]
     s.core.ready [3, 1, 2] = true ∧ ¬ ((s.S 2).toNat % 16 < 5 ∧ (s.S 1).toNat ≤ spaceLimit ((s.S 2).toNat % 16))) ∧
    (let s := on .stage [(1, 0x7FFFF), (2, 1)]; s.core.ready [3, 1, 2] = true ∧ ea (s.S 1) (s.S 2).toInt = some 0x80000) ∧
    (let s := on .stage [(1, 0x7FFFF), (2, 2)]; s.core.ready [3, 1, 2] = true ∧ ea (s.S 1) (s.S 2).toInt = none) := by decide

theorem witness_BranchesJumpsAndCallsGo :
    (on .stage [(1, 0)]).core.ready [1] = true ∧ (on .stage [(1, allOnes), (2, 0)]).core.ready [1, 2] = true := by decide

/-- The last count before zero. -/
theorem witness_LoopCountsDown : (3 : SReg) ≠ 0 ∧ (on .stage [(3, 1)]).core.ready [3] = true ∧ (on .stage [(3, 1)]).S 3 - 1 = 0 := by decide

theorem witness_BranchesJumpsAndCallsGo_calls :
    (let s := on .stage [(1, 0x200), (15, 0x300)]
     s.core.ready [1] = true ∧ (s.S 1).getLsbD 0 = false ∧ s.core.ready (15 :: maskRegs (s.core.sr.conv.truncate 16)) = true ∧
       s.core.ready (1 :: 15 :: maskRegs (s.core.sr.conv.truncate 16)) = true ∧
       s.core.ready (15 :: maskRegs ((s.core.sr.conv >>> 16).truncate 16)) = true ∧ (s.S 15).getLsbD 0 = false) ∧
    (let s := on .stage [(1, 0x201), (15, 0x301)]
     s.core.ready [1] = true ∧ (s.S 1).getLsbD 0 = true ∧ s.core.ready (1 :: 15 :: maskRegs (s.core.sr.conv.truncate 16)) = true ∧
       s.core.ready (15 :: maskRegs ((s.core.sr.conv >>> 16).truncate 16)) = true ∧ (s.S 15).getLsbD 0 = true) := by decide

/-- A message in the inbox of berth 2. -/
def oneMsg : Msg := { h0 := 0x8000000000000000, h1 := 1, h2 := 2, h3 := 3, payload := [1, 2, 3, 4, 5, 6, 7, 8], pmask := 0, order := 0 }

def berthState : State :=
  { on .stage [] { owned := true, slice := [(0x40, 9)] } with
    core := { coreWith [] with berths := vput (Vector.replicate 16 {}) 2 { entry := 0x100, valid := true, quota := 4, stk := 0x8000, inbox := [oneMsg] } } }

theorem witness_ActivationsStartAndEnd :
    ((on .stage []).core.tr.level.val = 0 ∧ (on .stage []).core.idleUnits = true) ∧
    ({ on .stage [] with core := { coreWith [] with tr := { level := 1 } } } : State).core.tr.level.val ≠ 0 ∧
    (berthState.core.active = false ∧ berthState.core.ended = false ∧ berthState.core.stopped = false ∧ berthState.tile.owned = true ∧
      (berthState.chooseBerth).map (·.1) = some 2) := by decide +kernel

/-- The last word of the slice, through an index, and the first byte. -/
theorem witness_LocalLoadsAndStoresReachTheSlice :
    (let s := on .stage [(1, 0x7FFF0), (2, 1), (3, 0x1122334455667788)]
     s.core.ready [3, 1, 2] = true ∧ s.orderReady none = true ∧ s.tile.slice.wf = true ∧ ea (s.S 1) 8 = some 0x7FFF8 ∧ s.readsHere 0x7FFF8 8 ∧
       s.readsHere 0x7FFF8 4 ∧ s.writesHere 0x7FFF8 8 ∧ s.writesHere 0x7FFF8 4 ∧ s.sel = .stage ∧
       ea (s.S 1) ((s.S 2).toInt * sizeBytes .d) = some 0x7FFF8) ∧
    (let s := on .stage [(1, 0), (2, 0)]
     s.core.ready [3, 1, 2] = true ∧ s.orderReady (some { ord := .acq, scope := .region }) = true ∧
       ea (s.S 1) ((s.S 2).toInt * sizeBytes .b) = some 0 ∧ s.readsHere 0 1 ∧ s.writesHere 0 1) := by
  simp only [State.readsHere, State.writesHere]; decide +kernel

/-- The last row of the slice; row code 13 and the latch; the last tile. -/
theorem witness_RowAndTileAccessesReachTheSlice :
    (let s := on .stage [(1, 0x7FFC0), (2, 0x5555555555555555)]
     s.core.still = true ∧ s.tile.slice.wf = true ∧ s.sel = .stage ∧ s.memRow 3 { base := 15 } 0 = .tile 3 15 ∧ s.memRow 13 {} 0 = .z ∧
       ea (s.S 1) 0 = some 0x7FFC0 ∧ ptrOfs (0x7FFC0 : Word) % 32 = 0 ∧ s.readsHere 0x7FFC0 64 ∧ s.writesHere 0x7FFC0 64 ∧
       ea (s.S 1) (-0x3C0) = some 0x7FC00 ∧ s.readsHere 0x7FC00 1024 ∧ s.writesHere 0x7FC00 1024) ∧
    (let s := on .comp [(1, 0)]
     s.core.still = true ∧ s.memRow 12 {} 0 = .l ∧ ea (s.S 1) 0 = some 0 ∧ s.readsHere 0 64 ∧ s.writesHere 0 64) := by
  simp only [State.readsHere, State.writesHere]; decide +kernel

/-- A pointer past its space; QUAY space without privilege; a gateway core at the limit; the first offset at which 8 bytes do not fit; the first
rank that a team of one tile lacks. -/
theorem witness_AccessChecksTrapInOrder :
    (let s := on .stage [(1, 0x80000)]; s.core.ready [3, 1, 2] = true ∧ ea (s.S 1) 1 = none) ∧
    (let s := on .stage [(1, 0x3000000000000000)]
     s.core.ready [3, 1, 2] = true ∧ ea (s.S 1) 0 = some 0x3000000000000000 ∧ s.orderReady none = true ∧
       ptrSpace (0x3000000000000000 : Word) = 3 ∧ s.privileged = false) ∧
    (let s := on .stage [(1, 0x30FFFFFFFFFFFFFF)] { id := .gateway 0 }
     ea (s.S 1) 0 = some 0x30FFFFFFFFFFFFFF ∧ s.privileged = true ∧
       spaceLimit (ptrSpace (0x30FFFFFFFFFFFFFF : Word)) < ptrOfs (0x30FFFFFFFFFFFFFF : Word) + 8) ∧
    (let s := on .stage [(1, 0x7FFF9)]
     ea (s.S 1) 0 = some 0x7FFF9 ∧ s.orderReady none = true ∧ ptrSpace (0x7FFF9 : Word) ≠ 3 ∧
       spaceLimit (ptrSpace (0x7FFF9 : Word)) < ptrOfs (0x7FFF9 : Word) + 8) ∧
    (let s := on .stage [(1, 0x1000010000000000)] { placement := [{ hnd := 7, x := 0, y := 0 }] }
     ea (s.S 1) 0 = some 0x1000010000000000 ∧ s.orderReady none = true ∧ ptrSpace (0x1000010000000000 : Word) = 1 ∧
       ptrOfs (0x1000010000000000 : Word) + 8 ≤ 0x80000 ∧ s.tile.placement.length ≤ ptrRank (0x1000010000000000 : Word)) ∧
    (on .comp []).sel = .comp := by decide

/-- The odd word of a capability of 4,096 bytes in slot 1. -/
def capOdd : Word := 0x0000010000001000

theorem capOdd_slot : capSlot capOdd ≠ 0 := by decide

/-- A state with a sealed capability in s2 and s3. -/
def capState (perms : BitVec 3) (l : List (SReg × Word)) (t : Tile) : State :=
  on .stage ([(2, mkCap t.ctx 0x10000 perms capOdd), (3, capOdd)] ++ l) t

theorem witness_CapabilitiesAreBoundedNarrowedChecked :
    (let s := capState 7 [(4, 0x1000), (5, 0)] {}
     s.sel = .stage ∧ s.core.ready [8, 9, 2, 3, 4, 5] = true ∧ s.S 3 = capOdd ∧ s.S 2 = mkCap 0 0x10000 7 capOdd ∧ (s.S 4).toNat ≤ 0x1000 ∧
       (s.S 5).toNat < 2 ^ 40 ∧ ((s.S 4).extractLsb' 0 40).toNat + (s.S 5).toNat ≤ ((s.S 3).extractLsb' 0 40).toNat) ∧
    isSealed 0 (mkCap 0 0x10000 7 capOdd) capOdd = true ∧ isSealed 0 (mkCap 0 0x10000 7 0) 0 = false ∧
    (let s := capState 7 [(4, 0x1001)] {}; s.core.ready [8, 9, 2, 3, 4, 5] = true ∧ 0x1000 < (s.S 4).toNat) ∧
    (0xFFFFFFFFFFFF : Nat) < 2 ^ 48 :=
  ⟨by refine ⟨rfl, ?_, rfl, rfl, ?_, ?_, ?_⟩ <;> decide, isSealed_mkCap _ _ _ _ capOdd_slot, by simp [isSealed, capSlot], by decide, by decide⟩

/-! ### Capabilities, fences, messages and the fabric -/

/-- A page of edge memory that a tile may read and write. -/
def page0 : Page := { base := 0, log := 16, net := false, target := 3, r := true, w := true }
def page1 : Page := { base := 0x10000, log := 16, net := false, target := 3, r := true, w := true }

/-- An unsealed pair; one past the length; a revoked slot; one whose bit is poisoned; a sealed pair at the last 8 bytes, its page known. -/
theorem witness_CapabilityAccessesAreChecked :
    (let s := capState 7 [(4, 0xFF8)] { tlb := [page1] }
     s.sel = .stage ∧ s.core.still = true ∧ s.S 2 = mkCap 0 0x10000 7 capOdd ∧ s.S 3 = capOdd ∧
       (s.S 4).toNat + sizeBytes .d ≤ capLen capOdd ∧ s.slotPoisoned (capSlot capOdd) = false ∧ s.slotRevoked (capSlot capOdd) = false ∧
       s.tile.tlb.find? (fun h => h.covers false (ptrOfs (edgePtr (0x10000 + 0xFF8)))) = some page1 ∧
       ptrOfs (edgePtr (0x10000 + 0xFF8)) % 65536 + sizeBytes .d ≤ 65536 ∧ s.linkFree) ∧
    isSealed 0 (mkCap 0 0x10000 7 capOdd) capOdd = true ∧ capBase (mkCap 0 0x10000 7 capOdd) = 0x10000 ∧
    (mkCap 0 0x10000 7 capOdd).extractLsb' 48 3 = 7 ∧ capPR (mkCap 0 0x10000 7 capOdd) = true ∧ capPW (mkCap 0 0x10000 7 capOdd) = true ∧
    page1.r = true ∧ page1.w = true ∧
    (isSealed 0 (0 : Word) (0 : Word) = false ∧ (on .stage []).core.still = true) ∧
    (let s := capState 7 [(4, 0xFF9)] {}; ¬ ((s.S 4).toNat + sizeBytes .d ≤ capLen capOdd)) ∧
    ({ capState 7 [(4, 0)] {} with ctxs := [(0, { revoked := [1] })] } : State).slotRevoked (capSlot capOdd) = true ∧
    ({ capState 7 [(4, 0)] {} with ctxs := [(0, { bitmapBad := [0] })] } : State).slotPoisoned (capSlot capOdd) = true := by
  have low := mkCap_low 0 0x10000 7 capOdd
  have bit (i : Nat) (h : i < 51) : (mkCap 0 0x10000 7 capOdd).getLsbD i =
      (BitVec.ofNat 51 (0x10000 % 2 ^ 48 + (7 : BitVec 3).toNat * 2 ^ 48)).getLsbD i := by
    rw [← low]; simp [h]
  have base : (mkCap 0 0x10000 7 capOdd).extractLsb' 0 48 = 0x10000 := by
    apply BitVec.eq_of_getLsbD_eq
    intro i hi
    rw [BitVec.getLsbD_extractLsb', Nat.zero_add, bit i (by omega)]
    have : ∀ i : Fin 48, (decide (i.val < 48) && (BitVec.ofNat 51 (0x10000 % 2 ^ 48 + (7 : BitVec 3).toNat * 2 ^ 48)).getLsbD i.val) =
      (0x10000 : BitVec 48).getLsbD i.val := by decide
    exact this ⟨i, hi⟩
  have perms : (mkCap 0 0x10000 7 capOdd).extractLsb' 48 3 = 7 := by
    apply BitVec.eq_of_getLsbD_eq
    intro i hi
    rw [BitVec.getLsbD_extractLsb', bit (48 + i) (by omega)]
    have : ∀ i : Fin 3, (decide (i.val < 3) && (BitVec.ofNat 51 (0x10000 % 2 ^ 48 + (7 : BitVec 3).toNat * 2 ^ 48)).getLsbD (48 + i.val)) =
      (7 : BitVec 3).getLsbD i.val := by decide
    exact this ⟨i, hi⟩
  refine ⟨⟨rfl, by decide, rfl, rfl, by decide, by decide, by decide, by decide, by decide, rfl, rfl, rfl⟩, isSealed_mkCap _ _ _ _ capOdd_slot, ?_, perms, ?_, ?_,
    by decide, by decide, ⟨by decide, by decide⟩, by decide, by decide, by decide⟩
  · simp only [capBase, base]; decide
  · simp only [capPR, bit 48 (by omega)]; decide
  · simp only [capPW, bit 49 (by omega)]; decide

/-- A heap of 4,096 bytes; an allocation of all of it, and of 0 bytes. -/
def heapCtx : Ctx := { exist := true, heapFree := [(0x1000, 0x1000)], allocs := [(1, 0x4000, 64)] }

/-- A tile at (0, 0) that can ask its quay. -/
theorem quayNear_of (s : State) (h1 : s.core.link.retry = []) (h2 : s.core.link.streams = []) (h3 : s.hawser = false) (h4 : s.calm = true)
    (h5 : s.net = []) (h6 : s.answers = []) (h7 : s.tile.owned = true) (h8 : s.tile.swapping = false) (h9 : s.core.stopped = false)
    (h10 : s.core.tr.fwd = none) (h11 : s.tile.id = .grid 0 0) : s.quayNear :=
  ⟨⟨h1, h2, h3⟩, h4, h5, h6, h7, h8, h9, h10, 0, 0, h11, by omega, by omega⟩

theorem witness_HeapAllocatesAndFrees :
    (let s : State := { on .stage [(2, 0x1000), (4, 3)] { owned := true } with ctxs := [(0, heapCtx)] }
     s.sel = .stage ∧ s.core.still = true ∧ s.linkFree ∧ s.quayNear ∧ (8 : SReg) ≠ 0 ∧ (8 : SReg).val % 2 = 0 ∧
       (s.myCtx.allocate (s.S 2).toNat none).isSome = true ∧ s.myCtx.allocate 0 none = none ∧ isSealed 0 (s.S 2) (s.S 3) = false) ∧
    (let s : State := { capState 7 [] {} with ctxs := [(0, heapCtx)] }
     s.sel = .stage ∧ s.core.still = true ∧ s.S 2 = mkCap 0 0x10000 7 capOdd ∧ s.S 3 = capOdd ∧ s.tiles = [] ∧ s.peer.still = true ∧ s.net = [] ∧ s.modWins = []) ∧
    isSealed 0 (mkCap 0 0x10000 7 capOdd) capOdd = true :=
  ⟨⟨rfl, by decide, ⟨rfl, rfl, rfl⟩, quayNear_of _ rfl rfl rfl (by decide) rfl rfl rfl rfl rfl rfl rfl, by decide, by decide, by decide, by decide, by decide⟩,
    ⟨rfl, by decide, rfl, rfl, rfl, by decide, rfl, rfl⟩, isSealed_mkCap _ _ _ _ capOdd_slot⟩

theorem witness_FencesWaitForTheirAccesses : (on .stage []).core.acquiring = false := by decide

/-- A tile of rank 0 in a team of two. -/
def pairTile : Tile := { owned := true, hnd := 7, placement := [{ hnd := 7, x := 0, y := 0 }, { hnd := 8, x := 1, y := 0 }], plCache := [1] }

/-- The last 8 bytes of the slice of rank 1. -/
theorem witness_RemoteAccessesTravel :
    let s := on .stage [(1, 0x100001000007FFF8), (2, 5)] pairTile
    s.core.still = true ∧ s.linkFree ∧ s.peer.link.retry = [] ∧ s.tile.leases = [] ∧ s.core.stopped = false ∧ s.core.tr.fwd = none ∧
      ea (s.S 1) 0 = some 0x100001000007FFF8 ∧ ptrSpace (0x100001000007FFF8 : Word) = 1 ∧ ptrRank (0x100001000007FFF8 : Word) ≠ s.tile.rank ∧
      ptrOfs (0x100001000007FFF8 : Word) + 8 ≤ 0x80000 ∧ s.tile.placement[ptrRank (0x100001000007FFF8 : Word)]? = some { hnd := 8, x := 1, y := 0 } ∧
      (List.replicate 8 ((0 : Byte), false)).length = 8 ∧ ∀ b ∈ List.replicate 8 ((0 : Byte), false), b.2 = false := by
  simp only [State.linkFree]; decide

/-- Berth 15 on VC 6 of the compute core; ring 7; a reserved bit; a handle of no tile of the team. -/
theorem witness_SendsInjectTheirMessage :
    (let s := on .stage [(1, 0x23F00000008), (2, 5)] pairTile
     s.sel = .stage ∧ s.core.still = true ∧ s.linkFree ∧ rankOf ((s.S 1).truncate 32) s.tile.placement 0 = some (1, { hnd := 8, x := 1, y := 0 }) ∧
       s.tile.plCache.contains 1 = true ∧ s.S 1 >>> 42 = 0 ∧ (s.S 1 >>> 38) &&& 7 = 0 ∧ rowSel s.sel 3 15 false 0 = .tile 3 15) ∧
    (let s := on .stage [(1, 0x1C000000008)] pairTile
     s.S 1 >>> 41 = 0 ∧ (s.S 1 >>> 32) &&& 15 = 0 ∧ rankOf ((s.S 1).truncate 32) s.tile.placement 0 = some (1, { hnd := 8, x := 1, y := 0 })) ∧
    (let s := on .stage [(1, 0x40000000008)] pairTile; s.core.still = true ∧ s.sel = .stage ∧ s.S 1 >>> 42 ≠ 0) ∧
    (let s := on .stage [(1, 9)] pairTile; rankOf ((s.S 1).truncate 32) s.tile.placement 0 = none) ∧ (on .comp []).sel = .comp := by
  simp only [State.linkFree]; decide

/-- A core in an activation of berth 0. -/
def handling : Core :=
  { coreWith [(1, 0), (2, 127)] with active := true, berths := vput (Vector.replicate 16 {}) 0 { valid := true, quota := 4, inbox := [oneMsg] },
                                     q := { cq := [5, 6], q2 := [9] } }

theorem witness_InboxQueuesAndPlacementAreRead :
    (let s : State := { core := handling, tile := pairTile }
     s.core.still = true ∧ s.core.q.cq = 5 :: [6] ∧ s.core.myMsg = some oneMsg ∧ oneMsg.pmask = 0 ∧ rowSel s.sel 3 0 false 0 = .tile 3 0 ∧
       s.qReadable 2 = true ∧ s.core.qHead 2 = some 9 ∧ s.qReadable 3 = false ∧ s.core.q.q4req.length < 4 ∧ (5 : Queue) ≠ 3 ∧ (5 : Queue) ≠ 4) ∧
    (on .stage []).core.q.cq = [] ∧ (on .stage []).core.still = true ∧
    (let s := on .stage [(1, 1), (2, 2), (3, 0)] pairTile
     s.core.still = true ∧ s.linkFree ∧ s.tile.placement[(s.S 1).toNat]? = some { hnd := 8, x := 1, y := 0 } ∧ s.tile.plCache.contains (s.S 1).toNat = true ∧
       s.tile.placement[(s.S 2).toNat]? = none ∧ s.tile.placement[(s.S 3).toNat]? = some { hnd := 7, x := 0, y := 0 } ∧
       s.tile.plCache.contains (s.S 3).toNat = false) := by simp only [State.linkFree]; decide

/-- The window of the stream from (2, 0). -/
def fromEast (vc : Fin 8) : SeqWindow := { hnd := 7, core := .stage, vc := vc }

/-- The tile (0, 0) of the team, with a berth, a ring of two slots of which `fill` are filled, and a packet for it. -/
def receiving (p : Packet) (quota : BitVec 8) (fill : BitVec 7) : State :=
  { core := { berths := vput (Vector.replicate 16 {}) 15 { valid := true, vc := 3, quota := quota } }
    tile := { owned := true, hnd := 9, ctx := 1, ttag := 1, windows := [fromEast p.vc],
              rings := vput (Vector.replicate 8 {}) 7 { base := 510, nslot := 2, fill := fill } }
    net := [p] }

def msgOf (kind : MsgKind) (n : Nat) : Body := .msg kind 15 7 .stage 9 none (List.replicate n 1) 0

theorem regions_eq : regionOfEnd (.tile 2 0) = regionOfEnd (.tile 0 0) ∧ regionOfEnd (.tile 1 0) = regionOfEnd (.tile 0 0) := by decide

/-- What `State.arrives` asks of the states above. -/
theorem receiving_arrives (vc : Fin 8) (b : Body) (quota : BitVec 8) (fill : BitVec 7) :
    (receiving (packetOf vc b) quota fill).arrives (packetOf vc b) := by
  refine ⟨rfl, ⟨0, 0, rfl, rfl⟩, by simp [receiving], rfl, rfl, rfl, rfl, rfl, regions_eq.1, by simp [receiving, State.endingFor, State.team?], rfl, rfl, rfl,
    ⟨fromEast vc, ?_, rfl, rfl⟩⟩
  simp [receiving, findWindow, fromEast, packetOf, SeqWindow.is, regions_eq.1]

theorem witness_MessagesAreDelivered :
    (let p := packetOf 6 (msgOf .scalar 8)
     (receiving p 1 0).arrives p ∧ p.body = msgOf .scalar 8 ∧ 3 ≤ p.vc.val ∧ p.vc.val ≤ 6 ∧ MsgKind.scalar ≠ .tileToRing ∧
       (((receiving p 1 0).ownCore .stage).berths[(15 : Fin 16)]).valid = true ∧
       (((receiving p 1 0).ownCore .stage).berths[(15 : Fin 16)]).vc.toNat + 3 = p.vc.val ∧
       (((receiving p 1 0).ownCore .stage).berths[(15 : Fin 16)]).inbox.length < 1) ∧
    (let p := packetOf 6 (msgOf .header 0)
     (receiving p 0 0).arrives p ∧ (((receiving p 0 0).ownCore .stage).berths[(15 : Fin 16)]).quota.toNat ≤
       (((receiving p 0 0).ownCore .stage).berths[(15 : Fin 16)]).inbox.length) ∧
    (let p := packetOf 3 (msgOf .tileToRing 1024)
     (receiving p 0 1).arrives p ∧ (List.replicate 1024 (1 : Byte)).length = 1024 ∧ ((receiving p 0 1).tile.rings[(7 : Ring)]).nslot ≠ 0 ∧
       ((receiving p 0 1).tile.rings[(7 : Ring)]).free ≠ 0 ∧ (receiving p 0 1).tile.leaseDir = [] ∧
       (receiving p 0 1).tile.slice.wf = true ∧ (receiving p 0 1).tile.flips = []) ∧
    (let p := packetOf 3 (msgOf .tileToRing 1024)
     (receiving p 0 2).arrives p ∧ ((receiving p 0 2).tile.rings[(7 : Ring)]).nslot ≠ 0 ∧ ((receiving p 0 2).tile.rings[(7 : Ring)]).free = 0) :=
  ⟨⟨receiving_arrives _ _ _ _, rfl, by decide, by decide, by decide, by decide, by decide, by decide⟩,
    ⟨receiving_arrives _ _ _ _, by decide⟩,
    ⟨receiving_arrives _ _ _ _, List.length_replicate, by decide, by decide, rfl, rfl, rfl⟩,
    ⟨receiving_arrives _ _ _ _, by decide, by decide⟩⟩

/-- A read and a write of the last word, and a write into a held slot. -/
theorem witness_RequestsArePerformedAtTheSlice :
    (let p := packetOf 1 (.read 0 0x7FFF8 8)
     (receiving p 0 0).arrives p ∧ p.vc = 1 ∧ (receiving p 0 0).tile.leaseDir = [] ∧ (receiving p 0 0).tile.flips = [] ∧
       (receiving p 0 0).tile.slice.wf = true) ∧
    (let p := packetOf 1 (.write 0x7FFF8 [some (1, false)])
     (receiving p 0 0).arrives p ∧ (receiving p 0 0).tile.heldWrite 0x7FFF8 [some (1, false)] = false) ∧
    (let p := packetOf 1 (.write 0x7FFF8 [some (1, false)])
     let s : State := { receiving p 0 0 with tile := { (receiving p 0 0).tile with heldExt := [(0x7FFF8, 8)] } }
     s.arrives p ∧ s.tile.heldWrite 0x7FFF8 [some (1, false)] = true ∧ s.tile.leaseDir = [] ∧ s.tile.flips = []) :=
  ⟨⟨receiving_arrives _ _ _ _, rfl, rfl, rfl, rfl⟩,
    ⟨receiving_arrives _ _ _ _, by decide⟩,
    ⟨receiving_arrives 1 (.write 0x7FFF8 [some (1, false)]) 0 0, by decide, rfl, rfl⟩⟩

/-- A write of the core to (1, 0), and the answers to it. -/
def sentWrite : RetryEntry := { pkt := { packetOf 1 (.write 0 [some (1, false)]) with dst := .tile 1 0, src := .tile 0 0 }, gen := 0 }

def answered (b : Body) : State × Packet :=
  let p := { packetOf 2 b with src := .tile 1 0, avc := 1, shnd := 9 }
  ({ core := { link := { retry := [sentWrite] } }, tile := { owned := true, hnd := 9, ctx := 1, ttag := 1 }, net := [p] }, p)

theorem answered_comes (b : Body) : (answered b).1.answerComes (answered b).2 :=
  ⟨⟨0, 0, rfl, rfl⟩, by simp [answered], rfl, rfl, rfl, rfl, regions_eq.2, rfl, by simp [answered], rfl, rfl, rfl⟩

theorem witness_AnswersReachTheRetryBuffer :
    ∀ b ∈ [Body.ack false, .retry, .reject],
      let s := (answered b).1
      let p := (answered b).2
      s.answerComes p ∧ p.body = b ∧ s.core.link.retry = [sentWrite] ∧ sentWrite.pkt.dst = p.src ∧ sentWrite.pkt.vc = p.avc ∧
        sentWrite.pkt.seq = p.seq ∧ sentWrite.pkt.body ≠ .close ∧ s.teams = [] ∧ sentWrite.wait = false ∧ (1 : BitVec 16) = sentWrite.gen + 1 ∧
        s.core.link.rtx ≠ 0xFFFF ∧ (s.region s.myRegion).errLog.length < 4096 :=
  fun b _ => ⟨answered_comes b, rfl, rfl, rfl, rfl, rfl, by decide, rfl, rfl, rfl, by simp [answered], by simp [answered, State.region, Tab.get, Tab.find]⟩

/-! ### Atomics, phasers, barriers -/

/-- The last 8 bytes of the slice; an address that is no multiple of 8; a NET pointer. -/
theorem witness_AtomicsUpdateTheSlice :
    (let s := on .stage [(1, 0x7FFF8), (2, allOnes)]
     s.core.still = true ∧ s.core.stopped = false ∧ s.core.tr.fwd = none ∧ s.tile.slice.wf = true ∧ ea (s.S 1) 0 = some 0x7FFF8 ∧ s.writesHere 0x7FFF8 8 ∧ s.readsHere 0x7FFF8 8 ∧
       ptrOfs (0x7FFF8 : Word) % 8 = 0) ∧
    (let s := on .stage [(1, 0x7FFFC), (2, 1)]
     s.core.still = true ∧ ea (s.S 1) 0 = some 0x7FFFC ∧ s.writesHere 0x7FFFC 4 ∧ s.readsHere 0x7FFFC 4 ∧ ptrOfs (0x7FFFC : Word) % 4 = 0 ∧
       ptrSpace (0x7FFFC : Word) ≤ 2 ∧ ptrOfs (0x7FFFC : Word) % 8 ≠ 0) ∧
    (let s := on .stage [(1, 0x4000000000000000)]; ea (s.S 1) 0 = some 0x4000000000000000 ∧ ptrSpace (0x4000000000000000 : Word) = 4) := by
  simp only [State.readsHere, State.writesHere]; decide +kernel

/-- A remote atomic on the last word, the last sector's lease on its way back, and a recall that finds the lease. -/
theorem witness_AtomicsAndLeasesAtHome :
    (let p := packetOf 1 (.atomic .add false false 0x7FFF8 1 0)
     (receiving p 0 0).arrives p ∧ p.vc = 1 ∧ (receiving p 0 0).tile.flips = [] ∧ (receiving p 0 0).tile.slice.wf = true ∧
       (receiving p 0 0).tile.leaseDir = [] ∧ (receiving p 0 0).tile.poison = [] ∧
       (receiving p 0 0).tile.heldWrite 0x7FFF8 (plain (leBytes 8 0)) = false) ∧
    (let p := packetOf 1 (.writeBack 16383 (List.replicate 32 1) false)
     (receiving p 0 0).arrives p ∧ (List.replicate 32 (1 : Byte)).length = 32 ∧
       (receiving p 0 0).tile.heldWrite (32 * 16383) (plain (List.replicate 32 1)) = false) ∧
    (let l : Lease := { x := 2, y := 0, sector := 16383, bytes := List.replicate 32 1, bad := false }
     let q := packetOf 7 (.recall 16383)
     let s : State := { tile := { owned := true, leases := [l] }, net := [q] }
     s.sel = .stage ∧ s.tile.id = .grid 0 0 ∧ s.meshClear ∧ s.tile.leases = [l] ∧ s.net = [q] ∧ s.linkFree ∧ q.vc = 7 ∧ q.hop = none ∧
       q.src = .tile l.x l.y ∧ q.dst = .tile 0 0 ∧ q.body = .recall l.sector ∧ regionOfEnd q.src = regionOfEnd q.dst) := by
  exact ⟨⟨receiving_arrives _ _ _ _, rfl, rfl, rfl, rfl, rfl, by decide⟩,
    ⟨receiving_arrives _ _ _ _, by decide, by decide⟩,
    ⟨rfl, rfl, rfl, rfl, rfl, ⟨rfl, rfl, rfl⟩, rfl, rfl, rfl, rfl, rfl, regions_eq.1⟩⟩

/-- The identifier of the tile phaser in slot 0 of the tile with handle 7. -/
def phId : Word := phaserId 7 0 0 0 false .tile 1

/-- A member of that phaser. -/
def memberState (m : PhMode) (ap wp : BitVec 16) : State :=
  { core := { coreWith [(1, phId), (2, 3)] with members := [{ id := phId, mode := m, ap := ap, wp := wp }] }, tile := pairTile }

/-- Scope QUAD and mode SW; all eight slots taken; an engine phaser of scope POD; a reserved bit; members that may arrive and wait, at the last
phase number; none. -/
theorem witness_PhaserInstructionsActForTheirCore :
    (let s := on .stage [(1, 0x31)] pairTile
     s.core.still = true ∧ s.S 1 >>> 6 = 0 ∧ (s.S 1).getLsbD 3 = false ∧ (s.S 1).toNat % 8 ≤ 2 ∧ s.tile.freePhaser = some 0 ∧ s.core.members.length < 8) ∧
    (let s := on .stage [(1, 0x32)] { phasers := Vector.replicate 8 { inUse := true } }
     (s.S 1).getLsbD 3 = false ∧ (s.S 1).toNat % 8 ≤ 2 ∧ s.tile.freePhaser = none) ∧
    (let s := on .stage [(1, 0x3C), (2, 0x40)]
     s.core.still = true ∧ s.S 1 >>> 6 = 0 ∧ (s.S 1).getLsbD 3 = true ∧ (s.S 1).toNat % 8 ≤ 4 ∧ s.linkFree ∧ s.core.members.length < 8 ∧
       s.S 2 >>> 6 ≠ 0) ∧
    (let s := memberState .sw 0xFFFF 0
     s.core.still = true ∧ s.linkFree ∧ phEng (s.S 1) = false ∧ rankOf (phHome (s.S 1)) s.tile.placement 0 = some (0, { hnd := 7, x := 0, y := 0 }) ∧
       s.core.members = [{ id := phId, mode := .sw, ap := 0xFFFF, wp := 0 }] ∧ PhMode.sw ≠ .w ∧ (0 : BitVec 16) ≠ 0xFFFF ∧
       s.core.stopped = false ∧ s.core.tr.fwd = none) ∧
    (let s := on .stage [(1, phId), (2, 3)] pairTile
     s.core.still = true ∧ s.linkFree ∧ s.core.members = [] ∧ phValid (s.S 1) = true ∧ s.S 2 = 3 ∧
       rankOf (phHome (s.S 1)) s.tile.placement 0 = some (0, { hnd := 7, x := 0, y := 0 })) := by
  simp only [State.linkFree]; decide

/-- A phaser with one member at its home, and a request to it. -/
def homeMember : PhMember := { x := 0, y := 0, core := .stage, mode := .sw, start := 0 }
def otherReq : PhReq := { sampleReq with my := 1, mcore := .comp, ent := 3 }

def homeState (b : Body) (ws : List PhReq) : State :=
  let p := packetOf 1 b
  { receiving p 0 0 with tile := { (receiving p 0 0).tile with
      phasers := vput (Vector.replicate 8 {}) 0 { inUse := true, gen := 1, scope := .quad, ctx := 1, ttag := 1, members := [homeMember], waiters := ws } } }

theorem witness_PhasersCompleteAtHome :
    ((homeState (.phArrive sampleReq) [otherReq]).arrives (packetOf 1 (.phArrive sampleReq)) ∧
      (homeState (.phWait sampleReq) []).arrives (packetOf 1 (.phWait sampleReq)) ∧
      (homeState (.phReg otherReq) []).arrives (packetOf 1 (.phReg otherReq))) ∧
    (∀ b ∈ [Body.phArrive sampleReq, .phWait sampleReq, .phReg otherReq], ∀ ws ∈ [[], [otherReq]],
      (homeState b ws).net = [packetOf 1 b] ∧ (packetOf 1 b).vc = 1) ∧
    (let h := (homeState (.phArrive sampleReq) [otherReq]).tile.phasers[(Fin.ofNat 8 sampleReq.slot)]
     sampleReq.engine = false ∧ sampleReq.slot < 8 ∧ h.live sampleReq 1 1 = true ∧ h.members = [homeMember] ∧ homeMember.mode = .sw ∧
       homeMember.start = h.phase ∧ homeMember.left = none ∧ homeMember.arrived = [] ∧ h.pend = [] ∧ sampleReq.phase = h.phase ∧
       phSame homeMember sampleReq = true ∧ sampleReq.mode = .sw ∧ sampleReq.leave = false ∧ h.waiters = [otherReq] ∧ otherReq.phase = h.phase ∧
       otherReq.engine = false ∧ otherReq.slot = sampleReq.slot ∧ h.live otherReq 1 1 = true ∧ h.admits otherReq = true ∧
       phSame homeMember otherReq = false) ∧
    (homeState (.phWait sampleReq) []).tile.phasers[(Fin.ofNat 8 sampleReq.slot)].waiters = [] := by
  have h (b : Body) (ws : List PhReq) (ht : takesTeam (homeState b ws).tile (packetOf 1 b) = true)
      (he : (homeState b ws).endingFor (packetOf 1 b) = false) (hw : findWindow [fromEast 1] (packetOf 1 b) = some (fromEast 1)) :
      (homeState b ws).arrives (packetOf 1 b) := by
    have e : regionOfEnd (.tile 2 0) = regionOfEnd (.tile 0 0) := by decide
    refine ⟨rfl, ⟨0, 0, rfl, rfl⟩, by simp [homeState, receiving], rfl, rfl, rfl, rfl, rfl, e, he, ht, rfl, rfl, ⟨fromEast 1, hw, rfl, rfl⟩⟩
  exact ⟨⟨h _ _ rfl rfl rfl, h _ _ rfl rfl rfl, h _ _ rfl rfl rfl⟩, fun _ _ _ _ => ⟨rfl, rfl⟩, by decide, rfl⟩

/-- A team of one tile: its staging core meets itself at episode 0xFFFF; the compute core is outside STG. -/
def aloneTile : Tile := { owned := true, hnd := 7, placement := [{ hnd := 7, x := 0, y := 0 }] }

def episodeOf (arrived : List (Nat × Nat × CoreSel)) : Episode :=
  { ctx := 0, ttag := 0, scope := .quad, set := .stg, inst := (on .stage [] aloneTile).myInst .quad, ep := 0xFFFF, arrived := arrived }

theorem witness_BarriersMeet :
    (let s : State := { on .stage [] aloneTile with core := { coreWith [] with bars := vput (Vector.replicate 15 {}) (barIndex .quad .stg) { ep := 0xFFFF } } }
     s.core.still = true ∧ s.core.bars[barIndex .quad .stg] = { ep := 0xFFFF } ∧ psetHas .stg s.sel = true ∧ s.core.stopped = false ∧ s.core.tr.fwd = none ∧
       (s.barArrive .quad .stg 0xFFFF).episodeDone .quad .stg 0xFFFF = true) ∧
    (let s : State := { on .stage [] aloneTile with
       core := { coreWith [] with bars := vput (Vector.replicate 15 {}) (barIndex .quad .stg) { ep := 0, out := true } }, barriers := [episodeOf [(0, 0, .stage)]] }
     s.core.bars[barIndex .quad .stg] = { ep := 0, out := true } ∧ s.episode .quad .stg 0xFFFF = some (episodeOf [(0, 0, .stage)]) ∧
       s.allArrived (episodeOf [(0, 0, .stage)]) = true) ∧
    psetHas .stg (on .comp []).sel = false ∧ (on .comp []).core.still = true := by decide

/-! ### Copies, storage, collectives -/

/-- A descriptor at 0x40 with these words. -/
def copyState (ws : List Word) (r : RingState := {}) : State :=
  on .stage [(1, 0x40), (2, 0x41), (3, 0x7FFE0)]
    { slice := writeWords [] 0x40 ws, rings := vput (Vector.replicate 8 {}) 7 r }

def at8 (s : State) (k : Nat) : Word := s.tile.slice.readWord (ptrOfs (s.S 1) + 8 * k)

/-- A plain copy to the end of the slice, a 2-D one of two rows, a gather of one element of 4,096 bytes, 64 slots of a ring. -/
theorem witness_CopiesArePosted :
    (let s := copyState []
     s.sel = .stage ∧ ({ s with sel := .comp } : State).sel = .comp ∧ s.core.still = true ∧ s.tile.flips = [] ∧ s.tile.poison = [] ∧
       ¬ (ptrSpace (s.S 2) = 0 ∧ ptrOfs (s.S 2) % 32 = 0 ∧ ptrOfs (s.S 2) + 32 ≤ 0x80000)) ∧
    (let s := copyState [0x1000, 0x7F000, 0x1000, 1]
     ptrSpace (s.S 1) = 0 ∧ ptrOfs (s.S 1) % 32 = 0 ∧ ptrOfs (s.S 1) + 64 ≤ 0x80000 ∧ s.tile.copy.freeEntry = some 0 ∧ (at8 s 3).toNat < 2 ∧
       ptrSpace (at8 s 0) = 0 ∧ ptrSpace (at8 s 1) = 0 ∧ (at8 s 2).toNat < 2 ^ 40 ∧ ptrOfs (at8 s 0) + (at8 s 2).toNat ≤ 0x80000 ∧
       ptrOfs (at8 s 1) + (at8 s 2).toNat ≤ 0x80000) ∧
    (let s := copyState [0x1000, 0x7FF80, 0x200040, 0, 0x100, 0x40, 0, 0]
     (at8 s 2).toNat / 2 ^ 20 = 2 ∧ (at8 s 2).toNat % 2 ^ 20 = 64 ∧ (at8 s 6) = 0 ∧ (at8 s 7) = 0 ∧ (at8 s 4).toInt = 0x100 ∧ (at8 s 5).toInt = 0x40 ∧
       ∀ k : Nat, k < 2 → 0 ≤ (ptrOfs (at8 s 0) : Int) + (k : Int) * (at8 s 4).toInt ∧ (ptrOfs (at8 s 0) : Int) + (k : Int) * (at8 s 4).toInt + 64 ≤ 0x80000 ∧
         0 ≤ (ptrOfs (at8 s 1) : Int) + (k : Int) * (at8 s 5).toInt ∧ (ptrOfs (at8 s 1) : Int) + (k : Int) * (at8 s 5).toInt + 64 ≤ 0x80000) ∧
    (let s := copyState [0x1000, 0x7F000, 0x101000, 0, 0x7FFFC, 2, 0, 0]
     let v := (at8 s 2).toNat
     v / 2 ^ 13 % 128 = 0 ∧ (at8 s 5).toNat < 2 ^ 32 ∧ 0 < v % 2 ^ 13 ∧ v % 2 ^ 13 ≤ 4096 ∧ ptrOfs (at8 s 0) + v % 2 ^ 13 * (at8 s 5).toNat ≤ 0x80000 ∧
       ptrOfs (at8 s 1) + v % 2 ^ 13 * (v / 2 ^ 20) ≤ 0x80000 ∧ ptrSpace (at8 s 4) = 0 ∧ ptrOfs (at8 s 4) % 4 = 0 ∧
       ptrOfs (at8 s 4) + 4 * (v / 2 ^ 20) ≤ 0x80000) ∧
    (let s := copyState [0x70000, 7, 64, 0] { base := 0, nslot := 64 }
     at8 s 1 = BitVec.ofNat 64 (7 : Ring).val ∧ 0 < (at8 s 2).toNat ∧ (at8 s 2).toNat ≤ 64 ∧ ptrOfs (at8 s 0) + 1024 * (at8 s 2).toNat ≤ 0x80000 ∧
       (at8 s 2).toNat ≤ (s.tile.rings[(7 : Ring)]).nslot.toNat) := by decide +kernel

/-- An entry of the engine, and the promise word that names it. -/
def promised (x : CopyEntry) (cyc : Word) : State :=
  { on .stage [(1, promiseWord x.promise 2 x.gen), (4, 0)] { copy := { entries := vput (Vector.replicate 8 {}) 2 x } } with regions := [(0, { cyc := cyc })] }

def runsEntry : CopyEntry := { gen := 31, busy := true, used := true, promise := 100, started := true, desc := [0, 0x1000, 0x1000, 0] }

/-- The last cycle before the promise and its own cycle. -/
theorem witness_PromisesAreAwaited :
    (let s := promised runsEntry 99
     s.sel = .stage ∧ ({ s with sel := .comp } : State).sel = .comp ∧ s.core.ready [3, 1] = true ∧ (s.S 1).getLsbD 63 = true ∧ (s.S 1).extractLsb' 60 3 = 0 ∧ ((s.S 1).extractLsb' 52 3).toNat = 2 ∧
       (s.tile.copy.entries[(2 : Fin 8)]).gen = (s.S 1).extractLsb' 55 5 ∧ (s.tile.copy.entries[(2 : Fin 8)]).ended = false ∧
       s.cyc.toNat < (s.tile.copy.entries[(2 : Fin 8)]).promise.toNat) ∧
    (let s : State := { promised runsEntry 100 with
       core := { coreWith [(1, promiseWord 100 2 31)] with active := true }
       tile := { copy := { entries := vput (Vector.replicate 8 {}) 2 runsEntry }, slice := Memory.writeMany [] 0x100 ([3, 0xF8, 8, 0x39].map some) } }
     (s.tile.copy.entries[(2 : Fin 8)]).promise.toNat ≤ s.cyc.toNat ∧ (s.tile.copy.entries[(2 : Fin 8)]).busy = true ∧
       s.waitsOn 2 = true) ∧
    (let s := promised { runsEntry with busy := false, ended := true, status := 0x8000000000000000 } 0
     (s.tile.copy.entries[(2 : Fin 8)]).gen = (s.S 1).extractLsb' 55 5 ∧ (s.tile.copy.entries[(2 : Fin 8)]).ended = true ∧
       (s.tile.copy.entries[(2 : Fin 8)]).status.getLsbD 13 = false) ∧
    (let s := { promised runsEntry 0 with tile := {} }; (s.tile.copy.entries[(2 : Fin 8)]).gen ≠ (s.S 1).extractLsb' 55 5) ∧
    (let s := promised runsEntry 0; s.core.ready [3, 4] = true ∧ (s.S 4).getLsbD 63 = false) := by decide

/-- A plain copy of two chunks that has done its first; one that has moved all; one that waits; a held word. -/
def engineOf (x : CopyEntry) : CopyEngine := { entries := vput (Vector.replicate 8 {}) 2 x }

theorem witness_CopiesRun :
    (let e := engineOf { runsEntry with started := false }; e.hold = none ∧ e.running = none ∧ e.first = some 2) ∧ (on .stage []).core.stopped = false ∧
    (let x : CopyEntry := { runsEntry with mode := 3, desc := [0, 7, 2, 0] }
     (engineOf x).running = some 2 ∧ x.room = false ∧ (shapeOf 3 x.desc).len ≤ 1024 * RingState.free { nslot := 2 }) ∧
    (let x : CopyEntry := { runsEntry with desc := [0x10000, 0x7F000, 0x1000, 0], within := 0xFFF }
     let s := on .stage [] { copy := engineOf x }
     s.tile.copy.running = some 2 ∧ x.mode = 0 ∧ x.unit = 0 ∧ x.within < (shapeOf 0 x.desc).len ∧ s.core.stopped = false ∧
       ptrSpace (descWord x.desc 0) = 0 ∧ ptrSpace (descWord x.desc 1) = 0 ∧ ptrOfs (descWord x.desc 0) + (shapeOf 0 x.desc).len ≤ 0x80000 ∧
       ptrOfs (descWord x.desc 1) + (shapeOf 0 x.desc).len ≤ 0x80000 ∧ s.tile.flips = [] ∧ s.tile.poison = [] ∧ s.tile.leaseDir = [] ∧
       s.tile.heldExt = [] ∧ (∀ h : Ring, s.tile.rings[h].held = 0) ∧ s.tile.slice.wf = true ∧
       s.core.rpsh = [] ∧ s.peer.rpsh = []) ∧
    (let x : CopyEntry := { runsEntry with unit := 1 }
     let s := on .stage [] { copy := engineOf x }
     s.tile.copy.running = some 2 ∧ x.finished = true ∧ x.core = s.sel ∧ x.mode ≠ 3 ∧ (descWord x.desc 3).getLsbD 0 = false ∧ s.core.q.cq.length < 8) ∧
    (let x : CopyEntry := { runsEntry with mode := 3, desc := [0, 7, 2, 0], unit := 1 }
     (engineOf x).running = some 2 ∧ x.finished = true ∧ x.core = .stage ∧ (shapeOf 3 x.desc).len / 1024 ≤ RingState.free { nslot := 2 }) ∧
    (let s := on .stage [] { copy := { hold := some (.stage, false, 5) } }; s.tile.copy.hold = some (s.sel, false, 5) ∧ s.core.q.cq.length < 8) := by
  decide +kernel

/-- A block that names key bytes of 16, in a namespace below 16; KVLST with one key at most; the pairs sealed. -/
def kvState (key op : Word) : State :=
  { on .stage [(1, 0x40), (2, mkCap 0 0x10000 7 capOdd), (3, capOdd), (4, 0x41)]
      { slice := writeWords [] 0x40 [1, 2, key, op], owned := true, hnd := 7 } with ctxs := [(0, { pages := [page1] })] }

theorem witness_StorageCommandsArePostedAndComplete :
    (let s := kvState 0xF10 0
     s.sel = .stage ∧ ({ s with sel := .comp } : State).sel = .comp ∧ s.core.still = true ∧ s.core.kvOut < 8 ∧ s.tile.modes.paired = false ∧ ptrSpace (s.S 1) = 0 ∧ ptrOfs (s.S 1) % 32 = 0 ∧
       ptrOfs (s.S 1) + 32 ≤ 0x80000 ∧ s.tile.poison = [] ∧
       ∀ op ∈ [0, 1, 2], kvBlockOk op (s.partOf s.tile.part).namespaces ((s.tile.slice.readMany (ptrOfs (s.S 1)) 32).map BitVec.toNat) = true) ∧
    (let s := kvState 0xF00 1
     kvBlockOk 3 (s.partOf s.tile.part).namespaces ((s.tile.slice.readMany (ptrOfs (s.S 1)) 32).map BitVec.toNat) = true ∧
       s.slotRevoked (capSlot capOdd) = false ∧ s.slotPoisoned (capSlot capOdd) = false ∧ capLen capOdd ≤ 2097152 ∧
       ¬ (ptrSpace (s.S 4) = 0 ∧ ptrOfs (s.S 4) % 32 = 0 ∧ ptrOfs (s.S 4) + 32 ≤ 0x80000)) ∧
    (isSealed 0 (mkCap 0 0x10000 7 capOdd) capOdd = true ∧ isSealed 0 0 0 = false ∧ (kvState 0 0).S 2 = mkCap 0 0x10000 7 capOdd ∧
      (kvState 0 0).S 3 = capOdd ∧ capPR (mkCap 0 0x10000 7 capOdd) = true ∧ capPW (mkCap 0 0x10000 7 capOdd) = true ∧
      capPS (mkCap 0 0x10000 7 capOdd) = true) ∧
    (let k : KvOp := { hnd := 7, core := .stage, tag := 5, ctx := 0, op := 0, base := 0x10000, len := 0x1000, maxKeys := 0 }
     let s : State := { kvState 0 0 with storage := [k] }
     s.storage = [k] ∧ k.hnd = s.tile.hnd ∧ k.core = s.sel ∧ k.ctx = s.tile.ctx ∧ k.ttag = s.tile.ttag ∧
       s.launchOf k.ctx k.ttag = k.launch ∧ s.tile.owned = true ∧ s.myCtx.modes.paired = false ∧
       s.myCtx.edge.wf = true ∧ s.myCtx.pagesOk k.base k.len true = true) := by
  have h := mkCap_low 0 0x10000 7 capOdd
  have bit (i : Nat) (hi : i < 51) : (mkCap 0 0x10000 7 capOdd).getLsbD i =
      (BitVec.ofNat 51 (0x10000 % 2 ^ 48 + (7 : BitVec 3).toNat * 2 ^ 48)).getLsbD i := by rw [← h]; simp [hi]
  refine ⟨by decide +kernel, by decide +kernel, ⟨isSealed_mkCap _ _ _ _ capOdd_slot, by decide, rfl, rfl, ?_, ?_, ?_⟩, by decide +kernel⟩
  · simp only [capPR, bit 48 (by omega)]; decide
  · simp only [capPW, bit 49 (by omega)]; decide
  · simp only [capPS, bit 50 (by omega)]; decide

/-- The bytes of a COLL.red descriptor: two sealed pairs, 64 elements, blocks of 4,096 bytes, f32, group 0. -/
def collBytes (se de : Word) : List Byte :=
  leBytes 8 se.toNat ++ leBytes 8 capOdd.toNat ++ leBytes 8 de.toNat ++ leBytes 8 capOdd.toNat ++ leBytes 8 (0 : Word).toNat ++
    leBytes 8 (64 : Word).toNat ++ [12, 0, 0, 0, 0, 0, 0, 0] ++ leBytes 8 (0 : Word).toNat

/-- The record that those bytes stand for. -/
def collRecord (se de : Word) : CollDesc :=
  { se := se, so := capOdd, de := de, do' := capOdd, report := 0, n := 64, blklog := 12, type := 0, group := 0, root := 0, rest := 0, timeout := 0 }

theorem leNat_append (l : List Byte) (x : Byte) : leNat (l ++ [x]) = leNat l + 256 ^ l.length * x.toNat := by
  induction l with
  | nil => simp [leNat]
  | cons b l ih =>
    simp only [List.cons_append, leNat, ih, List.length_cons, Nat.pow_succ, Nat.mul_add, Nat.add_assoc, Nat.mul_assoc]
    rw [Nat.mul_left_comm 256]

/-- A field of a descriptor is the number that its bytes give, low byte first. -/
theorem natAt_upto (pre l post : List Byte) (n : Nat) (h : n ≤ l.length) :
    natAt ((pre ++ l ++ post).map BitVec.toNat) pre.length n = leNat (l.take n) := by
  induction n with
  | zero => simp [natAt, upto, leNat]
  | succ n ih =>
    have ih := ih (by omega)
    simp only [natAt, upto, List.foldl_append, List.foldl_cons, List.foldl_nil] at ih ⊢
    rw [ih, List.take_add_one, List.getElem?_eq_getElem (by omega : n < l.length), Option.toList_some, leNat_append]
    have hl : (l.take n).length = n := by simp; omega
    rw [hl]
    congr 2
    simp [List.getElem?_append, show n < l.length by omega, show ¬ pre.length + n < pre.length by omega]

theorem natAt_field {b : List Byte} (pre l post : List Byte) (o n : Nat) (hb : b = pre ++ l ++ post) (ho : pre.length = o) (hn : l.length = n) :
    natAt (b.map BitVec.toNat) o n = leNat l := by
  rw [hb, ← ho, ← hn, natAt_upto pre l post l.length (Nat.le_refl _), List.take_length]

theorem natAt_word {b : List Byte} (pre post : List Byte) (w : Word) (o : Nat) (hb : b = pre ++ leBytes 8 w.toNat ++ post) (ho : pre.length = o) :
    natAt (b.map BitVec.toNat) o 8 = w.toNat := by
  rw [natAt_field pre _ post o 8 hb ho (length_leBytes 8 _), leNat_leBytes]
  exact Nat.mod_eq_of_lt w.isLt

theorem collBytes_reads (se de : Word) : collDesc ((collBytes se de).map BitVec.toNat) = collRecord se de := by
  generalize hc : capOdd.toNat = c
  have f0 := natAt_word (b := collBytes se de) [] (leBytes 8 capOdd.toNat ++ leBytes 8 de.toNat ++ leBytes 8 capOdd.toNat ++ leBytes 8 (0 : Word).toNat ++
    leBytes 8 (64 : Word).toNat ++ [12, 0, 0, 0, 0, 0, 0, 0] ++ leBytes 8 (0 : Word).toNat) se 0 (by simp only [collBytes, List.append_assoc, List.nil_append]) rfl
  have f1 := natAt_word (b := collBytes se de) (leBytes 8 se.toNat) (leBytes 8 de.toNat ++ leBytes 8 capOdd.toNat ++ leBytes 8 (0 : Word).toNat ++
    leBytes 8 (64 : Word).toNat ++ [12, 0, 0, 0, 0, 0, 0, 0] ++ leBytes 8 (0 : Word).toNat) capOdd 8 (by simp only [collBytes, List.append_assoc])
    (by simp only [length_leBytes])
  have f2 := natAt_word (b := collBytes se de) (leBytes 8 se.toNat ++ leBytes 8 capOdd.toNat) (leBytes 8 capOdd.toNat ++ leBytes 8 (0 : Word).toNat ++
    leBytes 8 (64 : Word).toNat ++ [12, 0, 0, 0, 0, 0, 0, 0] ++ leBytes 8 (0 : Word).toNat) de 16 (by simp only [collBytes, List.append_assoc])
    (by simp only [length_leBytes, List.length_append])
  have f3 := natAt_word (b := collBytes se de) (leBytes 8 se.toNat ++ leBytes 8 capOdd.toNat ++ leBytes 8 de.toNat) (leBytes 8 (0 : Word).toNat ++
    leBytes 8 (64 : Word).toNat ++ [12, 0, 0, 0, 0, 0, 0, 0] ++ leBytes 8 (0 : Word).toNat) capOdd 24 (by simp only [collBytes, List.append_assoc])
    (by simp only [length_leBytes, List.length_append])
  have f4 := natAt_word (b := collBytes se de) (leBytes 8 se.toNat ++ leBytes 8 capOdd.toNat ++ leBytes 8 de.toNat ++ leBytes 8 capOdd.toNat)
    (leBytes 8 (64 : Word).toNat ++ [12, 0, 0, 0, 0, 0, 0, 0] ++ leBytes 8 (0 : Word).toNat) 0 32 (by simp only [collBytes, List.append_assoc])
    (by simp only [length_leBytes, List.length_append])
  have f5 := natAt_word (b := collBytes se de) (leBytes 8 se.toNat ++ leBytes 8 capOdd.toNat ++ leBytes 8 de.toNat ++ leBytes 8 capOdd.toNat ++
    leBytes 8 (0 : Word).toNat) ([12, 0, 0, 0, 0, 0, 0, 0] ++ leBytes 8 (0 : Word).toNat) 64 40 (by simp only [collBytes, List.append_assoc])
    (by simp only [length_leBytes, List.length_append])
  have g (pre l post : List Byte) (o n : Nat) := natAt_field (b := collBytes se de) (leBytes 8 se.toNat ++ leBytes 8 capOdd.toNat ++ leBytes 8 de.toNat ++
    leBytes 8 capOdd.toNat ++ leBytes 8 (0 : Word).toNat ++ leBytes 8 (64 : Word).toNat ++ pre) l (post ++ leBytes 8 (0 : Word).toNat) o n
  have f6 := g [] [12] [0, 0, 0, 0, 0, 0, 0] 48 1 (by simp only [collBytes, List.append_assoc, List.nil_append, List.cons_append])
    (by simp only [length_leBytes, List.length_append, List.length_nil]) rfl
  have f7 := g [12] [0] [0, 0, 0, 0, 0, 0] 49 1 (by simp only [collBytes, List.append_assoc, List.nil_append, List.cons_append])
    (by simp only [length_leBytes, List.length_append, List.length_cons, List.length_nil]) rfl
  have f8 := g [12, 0] [0, 0] [0, 0, 0, 0] 50 2 (by simp only [collBytes, List.append_assoc, List.nil_append, List.cons_append])
    (by simp only [length_leBytes, List.length_append, List.length_cons, List.length_nil]) rfl
  have f9 := g [12, 0, 0, 0] [0] [0, 0, 0] 52 1 (by simp only [collBytes, List.append_assoc, List.nil_append, List.cons_append])
    (by simp only [length_leBytes, List.length_append, List.length_cons, List.length_nil]) rfl
  have f10 := g [12, 0, 0, 0, 0] [0] [0, 0] 53 1 (by simp only [collBytes, List.append_assoc, List.nil_append, List.cons_append])
    (by simp only [length_leBytes, List.length_append, List.length_cons, List.length_nil]) rfl
  have f11 := g [12, 0, 0, 0, 0, 0] [0, 0] [] 54 2 (by simp only [collBytes, List.append_assoc, List.nil_append, List.cons_append])
    (by simp only [length_leBytes, List.length_append, List.length_cons, List.length_nil]) rfl
  have f12 := natAt_word (b := collBytes se de) (leBytes 8 se.toNat ++ leBytes 8 capOdd.toNat ++ leBytes 8 de.toNat ++ leBytes 8 capOdd.toNat ++
    leBytes 8 (0 : Word).toNat ++ leBytes 8 (64 : Word).toNat ++ [12, 0, 0, 0, 0, 0, 0, 0]) [] 0 56 (by simp only [collBytes, List.append_assoc, List.append_nil])
    (by simp only [length_leBytes, List.length_append, List.length_cons, List.length_nil])
  simp only [collDesc, f0, f1, f2, f3, f4, f5, f6, f7, f8, f9, f10, f11, f12, BitVec.ofNat_toNat, BitVec.setWidth_eq, collRecord]
  congr 1

/-- What was written is read back. -/
theorem readMany_writeMany (bs : List Byte) (a : Nat) : (Memory.writeMany [] a (bs.map some)).readMany a bs.length = bs := by
  apply List.ext_getElem?
  intro j
  by_cases h : j < bs.length
  · rw [getElem_readMany _ _ _ _ h, Memory.read_writeMany _ _ _ _ Memory.wf_nil]
    simp [h]
  · rw [List.getElem?_eq_none (by simp; omega), List.getElem?_eq_none (by omega)]

/-- A group of two members, of which this launch is the second. -/
def groupOf : Group := { own := 1, members := [(5, 0), (6, 0)], agreed := true }

def collSlice : Memory := Memory.writeMany [] 0x7FFC0 ((collBytes (mkCap 0 0x10000 7 capOdd) (mkCap 0 0x20000 7 capOdd)).map some)

/-- A COLL.red with its descriptor in the last 64 bytes of the slice. -/
def collState : State :=
  { on .stage [(1, 0x7FFC0), (2, 0x7FFE0)]
      { owned := true, slice := collSlice } with
    ctxs := [(0, { groups := [groupOf] })] }

theorem capBase_mkCap (ctx base : Nat) (perms : BitVec 3) (o : Word) (h : base < 2 ^ 48) : capBase (mkCap ctx base perms o) = base := by
  have low := mkCap_low ctx base perms o
  have e : (mkCap ctx base perms o).extractLsb' 0 48 = ((mkCap ctx base perms o).extractLsb' 0 51).extractLsb' 0 48 := by
    apply BitVec.eq_of_getLsbD_eq; intro i hi; simp [hi]
  rw [capBase, e, low]
  rw [BitVec.extractLsb'_toNat, BitVec.toNat_ofNat, Nat.shiftRight_zero, Nat.mod_mod_of_dvd _ (Nat.pow_dvd_pow 2 (by decide)),
    Nat.add_mul_mod_self_right, Nat.mod_mod, Nat.mod_eq_of_lt h]

theorem capBit_mkCap (ctx base : Nat) (perms : BitVec 3) (o : Word) (i : Nat) (hi : i < 3) :
    (mkCap ctx base perms o).getLsbD (48 + i) = perms.getLsbD i := by
  have low := congrArg (fun v => v.getLsbD (48 + i)) (mkCap_low ctx base perms o)
  have h : base % 2 ^ 48 < 2 ^ 48 := Nat.mod_lt _ (by decide)
  simp only [BitVec.getLsbD_extractLsb', Nat.zero_add, show 48 + i < 51 by omega, decide_true, Bool.true_and, BitVec.getLsbD_ofNat] at low
  rw [low, Nat.add_comm, Nat.mul_comm, Nat.testBit_two_pow_mul_add _ h]
  simp [BitVec.getLsbD] <;> (intro h; omega)

theorem descriptor_reads (m : Memory) (p : Nat) (se de : Word) (e : m = Memory.writeMany [] 0x7FFC0 ((collBytes se de).map some)) (e2 : p = 0x7FFC0) :
    collDesc ((m.readMany p 64).map BitVec.toNat) = collRecord se de := by
  have h := readMany_writeMany (collBytes se de) 0x7FFC0
  rw [show (collBytes se de).length = 64 by simp only [collBytes, List.length_append, length_leBytes, List.length_cons, List.length_nil]] at h
  rw [e, e2, h]
  exact collBytes_reads _ _

theorem collState_reads :
    collDesc ((collState.tile.slice.readMany (ptrOfs (collState.S 1)) 64).map BitVec.toNat) =
      collRecord (mkCap 0 0x10000 7 capOdd) (mkCap 0 0x20000 7 capOdd) := descriptor_reads _ _ _ _ rfl (by decide)

theorem coll_grants (e o : Word) (he : isSealed 0 e capOdd = true) (ho : o = capOdd) (hs : capPS e = true) (perm : Bool) (hp : perm = true) (n : Nat) (hn : n ≤ 4096) :
    collState.grants e o perm n := by
  subst ho
  have hl : capLen capOdd = 4096 := by decide
  exact ⟨he, hs, hp, by omega, by decide, by decide⟩

theorem coll_fits (se de : Word) (h1 : isSealed 0 se capOdd = true) (h2 : isSealed 0 de capOdd = true) (b1 : capBase se = 0x10000)
    (b2 : capBase de = 0x20000) (s1 : capPS se = true) (r1 : capPR se = true) (s2 : capPS de = true) (w2 : capPW de = true) :
    ∀ k ∈ [0, 1, 2], collState.collFits k groupOf (collRecord se de) := by
  intro k hk
  have kk : k = 0 ∨ k = 1 ∨ k = 2 := by simpa using hk
  have ok : (collRecord se de).ok k 2 = true := by rcases kk with rfl | rfl | rfl <;> simp [CollDesc.ok, collRecord, ptrSpace, ptrOfs]
  have hs : (collRecord se de).srcBytes k ≤ 256 := by rcases kk with rfl | rfl | rfl <;> simp [CollDesc.srcBytes, collRecord, typeBytes]
  have hd : (collRecord se de).dstBytes k 2 ≤ 256 := by rcases kk with rfl | rfl | rfl <;> simp [CollDesc.dstBytes, CollDesc.srcBytes, collRecord, typeBytes]
  have n1 : capBase (collRecord se de).se = 0x10000 := b1
  have n2 : capBase (collRecord se de).de = 0x20000 := b2
  refine ⟨ok, coll_grants de capOdd h2 rfl s2 _ w2 _ (by show (collRecord se de).dstBytes k 2 ≤ 4096; omega), fun _ =>
    ⟨coll_grants se capOdd h1 rfl s1 _ r1 _ (by omega), .inr (by rw [n1, n2]; omega)⟩⟩

/-- A reduction of two members over 64 elements; a descriptor that is no multiple of 64. -/
theorem witness_CollectivesArePosted :
    (let s := collState
     let p := s.S 1
     let c := collDesc ((s.tile.slice.readMany (ptrOfs p) 64).map BitVec.toNat)
     s.sel = .stage ∧ ({ s with sel := .comp } : State).sel = .comp ∧ s.core.still = true ∧ s.tile.modes.paired = false ∧ ptrSpace p = 0 ∧ ptrOfs p % 64 = 0 ∧ ptrOfs p + 64 ≤ 0x80000 ∧ s.tile.poison = [] ∧
       s.myCtx.groups.find? (fun g => g.agreed && g.num == c.group) = some groupOf ∧
       (∀ k ∈ [0, 1, 2], s.collFits k groupOf c) ∧ s.tile.freeColl = some 0 ∧ s.collOps = [] ∧ 0 < Tab.get (s.partOf s.tile.part).quotas 16 6 ∧
       s.tile.owned = true ∧ s.tiles = [] ∧ 2 ≤ groupOf.members.length) ∧
    ¬ (ptrSpace (collState.S 2) = 0 ∧ ptrOfs (collState.S 2) % 64 = 0 ∧ ptrOfs (collState.S 2) + 64 ≤ 0x80000) := by
  refine ⟨?_, by decide⟩
  simp only [collState_reads]
  refine ⟨by trivial, by trivial, by decide, by trivial, by decide, by decide, by decide, by trivial, by decide, ?_, by decide, by trivial, by decide, rfl, rfl, by decide⟩
  exact coll_fits _ _ (isSealed_mkCap 0 0x10000 7 capOdd capOdd_slot) (isSealed_mkCap 0 0x20000 7 capOdd capOdd_slot)
    (capBase_mkCap 0 0x10000 7 capOdd (by decide)) (capBase_mkCap 0 0x20000 7 capOdd (by decide))
    ((capBit_mkCap 0 0x10000 7 capOdd 2 (by decide)).trans (by decide)) ((capBit_mkCap 0 0x10000 7 capOdd 0 (by decide)).trans (by decide))
    ((capBit_mkCap 0 0x20000 7 capOdd 2 (by decide)).trans (by decide)) ((capBit_mkCap 0 0x20000 7 capOdd 1 (by decide)).trans (by decide))

/-- A reduction of three members with the own contribution there; a broadcast of one block; the last member number; a gateway's return of the last
block of two. -/
def redOp : CollOp :=
  { slot := 5, hnd := 7, core := .stage, tslot := 1, gen := 3, ctx := 0, part := 0, kind := 0, group := 0, srcBase := 0x10000, srcLen := 256,
    dstBase := 0x20000, dstLen := 256, report := 0, n := 64, blklog := 12, type := 0, root := 0, timeout := 64, m := 3, own := 1, bitmap := [(0, [1])] }

def contribution (member n : Nat) : CollContribution :=
  { member := member, block := 0, bytes := List.replicate 4 1, bad := [], n := n, type := 0, blklog := 12, root := 0 }

def gateOp : CollOp := { redOp with n := 2048, pushed := [1], pushedTo := 15, bitmap := [(1, [0, 1, 2])] }

theorem witness_CollectivesGoOn :
    (let s : State := { on .stage [] { owned := true, hnd := 7 } with collOps := [redOp] }
     let c := contribution 2 64
     s.collOps = [redOp] ∧ redOp.written = [] ∧ redOp.missing = [] ∧ (c.n = redOp.n ∧ c.type = redOp.type ∧ c.blklog = redOp.blklog ∧ c.root = redOp.root) ∧
       (c.member ∈ redOp.needs c.block ∧ c.member ≠ redOp.own ∧ c.block < redOp.blocks ∧ c.member ∉ Tab.get redOp.bitmap [] c.block) ∧
       redOp.pushed = [] ∧ redOp.kind = 0 ∧
       (∀ b < redOp.blocks, 0 ∈ redOp.needs b ∧ 0 ∉ Tab.get redOp.bitmap [] b ∧ 0 ≠ c.member) ∧
       (∀ b < redOp.blocks, redOp.full b = false) ∧ s.tile.owned = true ∧ s.tile.ctx = redOp.ctx ∧ s.tile.hnd = redOp.hnd ∧ redOp.core = s.sel ∧ s.tile.ttag = redOp.ttag ∧
       s.launchOf redOp.ctx redOp.ttag = redOp.launch ∧
       s.tiles = [] ∧ s.tile.collDone = [] ∧ s.core.q.cq.length < 8 ∧ 0 < redOp.blocks ∧ 2 < redOp.m ∧ 2 ≠ redOp.own) ∧
    ¬ ((contribution 2 63).n = redOp.n) ∧
    (let o : CollOp := { redOp with kind := 1, bitmap := [], known := [2] }
     let c := contribution 0 64
     c.member ∈ o.needs c.block ∧ c.member ≠ o.own ∧ c.block < o.blocks ∧ c.member ∉ Tab.get o.bitmap [] c.block ∧ o.blocks = 1 ∧
       ∀ r < o.m, r = o.own ∨ r = c.member ∨ r ∈ o.known) ∧
    (let w : Word := BitVec.ofNat 64 (1 + 2 ^ 20 * 5 + 2 ^ 63)
     let s : State := { on .stage [] { id := .gateway 15 } with core := { coreWith [] with q := { q3out := [w] } }, collOps := [gateOp] }
     s.tile.id = .gateway 15 ∧ s.core.q.q3out = w :: [] ∧ gateOp.slot = 1024 * (15 / 16) + w.toNat / 2 ^ 20 % 1024 ∧ 1 = w.toNat % 2 ^ 20 ∧
       s.lateIdx = [] ∧ s.tile.owned = false ∧ s.tiles = [] ∧ (∀ b < gateOp.blocks, b ≠ 1 → gateOp.full b = false) ∧ w.getLsbD 63 = true ∧ gateOp.pushed = [1] ∧ gateOp.pushedTo = 15 ∧
       1 < gateOp.blocks ∧ 2 ≤ gateOp.blocks ∧ gateOp.kind = 0 ∧ w.toNat / 2 ^ 44 % 256 = 0 ∧ (w.toNat + 2 ^ 44) / 2 ^ 44 % 256 = 1) ∧
    (0 : Word).getLsbD 63 = false := by
  refine ⟨?_, by decide, by decide, ?_, by decide⟩
  · refine ⟨rfl, rfl, rfl, by decide, by decide, rfl, rfl, by decide, by decide, rfl, rfl, rfl, rfl, rfl, rfl, rfl, rfl, by decide, by decide, by decide, by decide⟩
  · refine ⟨rfl, rfl, by decide, by decide, rfl, rfl, rfl, by decide, by decide, rfl, rfl, by decide, by decide, rfl, by decide, by decide⟩

/-! ### Rows -/

/-- A compute core with these rows: t0 row 0, o0 and o1. -/
def rowState (a b c : RowVal) (l : List (SReg × Word) := []) : State :=
  { sel := .comp, core := ((({ coreWith l with }).setRow (.tile 0 0) a).setRow (.o 0) b).setRow (.o 1) c }

/-- Two sources and an old destination, as integers and as f32; the broadcast of s15 and z as sources. -/
theorem witness_RowLanesAreComputed :
    (let s := rowState { bits := 0x7FFFFFFF } { bits := 0xFFFFFFFF } { bits := 0x80000000 }
     s.rowFirst {} 9 ∧ s.rowIn .i32 {} 0 ∧ s.rowIn .i32 {} 8 ∧ s.rowIn .i32 {} 9 ∧ RType.fmt .i32 = none) ∧
    (let s := rowState { bits := 0x7F7FFFFF } { bits := 0x00000001 } { bits := 0x7F800000 } [(15, 0x3F800000)]
     s.rowFirst { c := 15 } 13 ∧ s.rowIn .f32 { c := 15 } 14 ∧ s.rowIn .f32 { c := 15 } 13 ∧ RType.fmt .f32 = some f32) := by
  simp only [State.rowFirst, State.rowIn, State.rowNamed]
  (repeat' refine And.intro ?_ ?_) <;> decide +kernel

/-- A row of i32 whose lane 0 is the greatest and the others 0; the same bits as i8, f32 and bf16; a conversion to bf16 in part 1. -/
theorem witness_RowUnaryFormsAreComputed :
    (let s := rowState { bits := 0x7FFFFFFF } { bits := 3 } {} [(2, allOnes)]
     s.rowFirst {} 7 ∧ s.rowIn .i32 {} 0 ∧ RType.fmt .i32 = none ∧
       (let p := s.laneIn .i32 {} 0
        p 0 ∈ (List.range 16).map p ∧ (∀ j < 16, RType.int .i32 (p j) ≤ RType.int .i32 (p 0)) ∧
        p 15 ∈ (List.range 16).map p ∧ (∀ j < 16, RType.int .i32 (p 15) ≤ RType.int .i32 (p j))) ∧
       RType.fmt .f32 = some f32 ∧ s.rowIn .f32 {} 0 ∧ RType.fmt .bf16 = some bf16 ∧ s.rowIn .bf16 {} 0 ∧ RType.bf16 ≠ .f32 ∧ s.rowIn .i32 {} 8 ∧
       s.rowIn .f32 { c := 1 } 0 ∧ s.rowIn .bf16 { c := 1 } 7 ∧ (0 : RCode) ≠ 14 ∧ (1 : Nat) < cvtParts .f32 .bf16) ∧
    (let s := rowState { bits := 0x7FFFFFFF } {} {}
     s.rowFirst { c := 3 } 8 ∧ s.rowIn .i8 { c := 3 } 0 ∧ s.rowIn .i32 { c := 3 } 8 ∧ (3 : Nat) < cvtParts .i8 .i32) := by
  simp only [State.rowFirst, State.rowIn, State.rowNamed]
  (repeat' refine And.intro ?_ ?_) <;> decide +kernel

/-- The running values that the reductions and the scan name exist: each level from the one before. -/
theorem levels_exist (first : Nat → Nat) (next : (Nat → Nat) → Nat → Nat) :
    ∃ v : Nat → Nat → Nat, (∀ j, v 0 j = first j) ∧ ∀ k j, v (k + 1) j = next (v k) j :=
  ⟨fun k => Nat.rec first (fun _ prev => next prev) k, fun _ => rfl, fun _ _ => rfl⟩

theorem running_exists (first : Nat) (next : Nat → Nat → Nat) : ∃ v : Nat → Nat, v 0 = first ∧ ∀ j, v (j + 1) = next j (v j) :=
  ⟨fun j => Nat.rec first next j, rfl, fun _ => rfl⟩

/-- A signalling and a quiet NaN, zeros of both signs, and the smallest and greatest finite numbers of each format. -/
theorem witness_FloatSpecialCases :
    ([f32, bf16, f16] : List Fmt).all (fun m =>
      let nan (v : Nat) : Bool := decide (m.inf false < v % m.signBit)
      decide (m.inf false + 1 < 2 ^ m.width) && nan (m.inf false + 1) && decide ((m.inf false + 1) % m.signBit < m.qnan) && nan m.qnan &&
        nan (2 ^ m.width - 1) && decide (m.signBit % m.signBit = 0) && decide (0 < 1 % m.signBit) && decide (1 % m.signBit < m.inf false) &&
        decide ((m.inf false - 1) % m.signBit < m.inf false) && decide (0 < (m.inf true - 1) % m.signBit) && decide (m.inf true - 1 < 2 ^ m.width) &&
        !nan 0) = true := by decide +kernel

/-- An entry of KIND 5 that issues the last iteration of a VMOV. -/
def repEntry : Entry := { v := true, kind := 5, bofs := 0x100, next := 1, count := 2, op := some (.vmov 0 1 { rep := .reg 3 }), issuing := true }

/-- A core that issues that iteration. -/
def repState : State := { rowState { bits := 1 } {} {} with core := { coreWith [] with rq := vput (Vector.replicate 8 {}) 0 repEntry } }

theorem repState_claims : repState.core.claims = [repEntry] := by decide +kernel

/-- Counts 0, 2, 65,535 and 65,536 in s3; the last of two iterations. -/
theorem witness_RepeatedBundlesIterate :
    ([0, 2, 65535, 65536] : List Word).all (fun n => (rowState {} {} {} [(3, n)]).core.still && (rowState {} {} {} [(3, n)]).S 3 == n &&
      !(rowState {} {} {} [(3, n)]).core.injRow) = true ∧
    (2 : Word).toNat = 2 ∧ (65535 : Word).toNat = 65535 ∧ 65535 < (65536 : Word).toNat ∧
    rowSel .comp 0 0 false 0 ≠ .rgf ∧ rowSel .comp 7 0 false 0 ≠ .rgf ∧
    (let s := repState
     let e := s.core.rq[(0 : Fin 8)]
     s.core.issuing = some 0 ∧ s.core.claims.all (fun y => (dstOf (y.op.getD .nop) y.count.toNat).t.isEmpty) = true ∧ s.core.unit.ops = [] ∧
       s.core.injRow = false ∧ e.next.toNat + 1 = e.count.toNat ∧ rowSel .comp 0 0 false e.next.toNat ≠ .rgf) := by
  refine ⟨by decide +kernel, rfl, rfl, by decide, by decide, by decide, by decide +kernel, ?_, rfl, rfl, by decide +kernel, by decide +kernel⟩
  rw [repState_claims]
  rfl

/-- A poisoned high half, outside a region and in one, and CKI's count at its end. -/
theorem witness_PoisonIsConsumed :
    (let s := rowState { bits := 5, bad := 2 } {} {}
     s.rowFirst {} 9 ∧ s.rowIn .i32 {} 8 ∧ s.rowNamed {} 0 ≠ .ill ∧ s.rowNamed {} 0 ≠ .rgf ∧
       (s.core.rowVal (s.rowNamed {} 0) 4 0).bad.getLsbD 1 = true ∧ s.core.frames = [] ∧ s.tile.cki.extractLsb' 16 16 ≠ (0xFFFF : BitVec 16)) ∧
    (let f : ContFrame := { handler := 0x7FFFE, regs := Vector.replicate 16 1, live := 0xFFFE }
     let s0 := rowState { bits := 5, bad := 2 } {} {}
     let s : State := { s0 with core := { s0.core with frames := [f] } }
     s.rowFirst {} 9 ∧ s.rowIn .i32 {} 8 ∧ (s.core.rowVal (s.rowNamed {} 0) 4 0).bad.getLsbD 1 = true ∧ s.core.frames = [f] ∧ s.core.tr.level = 0 ∧
       f.rings = []) := by
  simp only [State.rowFirst, State.rowIn, State.rowNamed]
  (repeat' refine And.intro ?_ ?_) <;> decide +kernel

/-! ### Narrow formats -/

/-- The first and the last part of a tile register in T8 of f32, the first part past it, and clean rows in both formats. -/
theorem witness_NarrowFormsAreConverted :
    (let s := rowState {} {} {} [(3, 3), (4, 4)]
     s.sel = .comp ∧ s.core.still = true ∧ rowSel s.sel 8 0 false 0 ≠ .ill ∧ rowSel s.sel 8 0 false 0 ≠ .rgf ∧ rowSel s.sel 8 0 false 0 ≠ .bc ∧
       (NarrowSel.taper { t6 := false, bf16 := false }).count * ((s.S 3).toNat % 16 + 1) *
         ((NarrowSel.wide { t6 := false, bf16 := false }).width / 8) ≤ 1024 ∧
       ¬ ((NarrowSel.taper { t6 := false, bf16 := false }).count * ((s.S 4).toNat % 16 + 1) *
         ((NarrowSel.wide { t6 := false, bf16 := false }).width / 8) ≤ 1024) ∧
       (qntResult { t6 := false, bf16 := false } 3 (s.core.T 1).bytes).2.2.2 = false ∧
       (dqnElems { t6 := false, bf16 := false } (s.S 3) (s.core.rowVal (rowSel s.sel 8 0 false 0) 8 0)).all (fun r => !r.2) = true ∧
       (s.core.rowVal (rowSel s.sel 8 0 false 0) 8 0).bad = 0 ∧ scaleByte (s.S 3) 0 ≠ 0x80 ∧
       (dqnElems { t6 := false, bf16 := false } (s.S 3) (s.core.rowVal (rowSel s.sel 8 0 false 0) 8 0)).length = 64 ∧
       (baqResult (s.S 3) (s.core.rowVal (rowSel s.sel 9 0 false 0) 8 0) (s.core.rowVal (rowSel s.sel 8 0 false 0) 8 0)).2.2.2 = false) := by
  (repeat' refine And.intro ?_ ?_) <;> decide +kernel
/-! ### Rings and the matrix unit -/

/-- A ring of n slots from slot 448, with its head and tail at h and t and f slots filled. -/
def ringOf (n f : BitVec 7) (h t : BitVec 6) (held : BitVec 7 := 0) : RingState := { base := 448, nslot := n, head := h, tail := t, fill := f, held := held }

/-- A core whose tile has this ring 0. -/
def ringState (k : CoreSel) (r : RingState) (l : List (SReg × Word) := []) : State := on k l { rings := vput (Vector.replicate 8 {}) 0 r }

/-- Words with 0 and 64 slots, and one that leaves the slice; a ring of 64 slots empty, full, and with a held slot. -/
theorem witness_RingsMove :
    ([ringState .stage {}, ringState .stage (ringOf 64 0 63 63), ringState .comp (ringOf 64 64 63 63), ringState .comp (ringOf 64 1 0 1 1)].all fun s =>
      s.core.still && decide (s.tile.flips = []) && s.tile.slice.wf && decide (s.tile.poison = [])) = true ∧
    (let c : Word := 0x81C0
     c.toNat < 65536 ∧ 0 < c.toNat / 512 % 128 ∧ c.toNat / 512 % 128 ≤ 64 ∧ c.toNat % 512 + c.toNat / 512 % 128 ≤ 512) ∧
    (let s := ringState .stage {} [(1, 0x81C0), (2, 0x81C1)]
     s.S 1 = 0x81C0 ∧ (s.tile.rings[(0 : Ring)]).held = 0 ∧ s.tile.copy.ringBusy 0 = false ∧ (s.tile.rings[(0 : Ring)]).nslot = 0 ∧
       ¬ ((s.S 2).toNat % 512 + (s.S 2).toNat / 512 % 128 ≤ 512)) ∧
    (let s := ringState .stage (ringOf 64 0 63 63)
     let r := s.tile.rings[(0 : Ring)]
     r.nslot ≠ 0 ∧ r.nslot.toNat < 65 ∧ 64 ≤ r.nslot.toNat ∧ r.held = 0 ∧ r.fill.toNat < 1 ∧ 64 ≤ r.nslot.toNat - r.fill.toNat ∧
       0 < r.nslot.toNat - r.fill.toNat ∧ s.sel = .stage ∧ r.fill.toNat < Nat.max 0 1) ∧
    (let s := ringState .comp (ringOf 64 64 63 63)
     let r := s.tile.rings[(0 : Ring)]
     r.held = 0 ∧ 64 ≤ r.fill.toNat ∧ r.nslot.toNat - r.fill.toNat < 1 ∧ s.sel = .comp ∧ (∀ g : Ring, (s.tile.rings[g]).held = 0) ∧
       r.head.toNat < r.nslot.toNat ∧ Nat.max 15 1 ≤ r.fill.toNat) ∧
    (let r := (ringState .comp (ringOf 64 1 0 1 1)).tile.rings[(0 : Ring)]
     r.nslot ≠ 0 ∧ r.held ≠ 0 ∧ 1 ≤ r.fill.toNat) ∧
    (let s := ringState .comp (ringOf 64 0 0 0)
     s.sel = .comp ∧ (s.tile.rings[(0 : Ring)]).nslot ≠ 0 ∧ (s.tile.rings[(0 : Ring)]).fill.toNat < Nat.max 0 1) := by
  (repeat' refine And.intro ?_ ?_) <;> decide +kernel

/-- A compute core with rings 0 and 1 and these state registers. -/
def unitState (a b : RingState) (sr : Srs := {}) (m : Memory := []) : State :=
  { on .comp [] { rings := vput (vput (Vector.replicate 8 {}) 0 a) 1 b, slice := m } with core := { coreWith [] with sr := sr } }

/-- A member of the quad at (0, 0) whose MMQ waits or has started. -/
def quadOp (started : Bool) : UnitOp :=
  { ent := 0, op := .mmq 0 0 1 0 0, fmta := 3, fmtb := 3, kmd := 0, krho := 0, scla := 0, sclb := 0, gtb := 0, started := started }
def quadCore (u : UnitOp) : Core := { coreWith [] with unit := { ops := [u] } }
def quadTile (x y : Nat) : Tile :=
  { id := .grid x y, owned := true, placement := [{ hnd := 1, x := 0, y := 0 }, { hnd := 2, x := 1, y := 0 }, { hnd := 3, x := 0, y := 1 },
      { hnd := 4, x := 1, y := 1 }], rings := vput (vput (Vector.replicate 8 {}) 0 (ringOf 1 1 0 0)) 1 (ringOf 64 64 63 63) }
def quadState (u v : UnitOp) : State :=
  { sel := .comp, core := quadCore u, tile := quadTile 0 0,
    tiles := [{ tile := quadTile 1 0, comp := quadCore u }, { tile := quadTile 0 1, comp := quadCore u }, { tile := quadTile 1 1, comp := quadCore v }] }

/-- bf16 with rings of one slot and of 64 at their ends; T8 with the scale table at the end of the slice; i8; formats that differ; an MMG with one
group; MMQ in a whole quad, its four operations ready, started, with formats that disagree, and one after 65,536 cycles. -/
theorem witness_MatricesMultiplyAloneAndInQuads :
    (let s := unitState (ringOf 1 1 0 0) (ringOf 64 64 63 63) {} [(16, 1)]
     s.unitFree ∧ s.tile.flips = [] ∧ s.tile.poison = [] ∧ (0 : Ring) ≠ 1 ∧ s.core.sr.fmta = s.core.sr.fmtb ∧ s.core.sr.fmta.toNat ≤ 3 ∧
       (∀ h ∈ ([0, 1] : List Ring), (s.tile.rings[h]).head.toNat < (s.tile.rings[h]).nslot.toNat) ∧ (mfmtOf s.core.sr.fmta.toNat).scaled = false ∧
       ((upto 16).all fun i => (upto 16).all fun j => !((s.core.acc 0).elem i j).2) = true ∧
       Nat.max 1 1 ≤ (s.tile.rings[(0 : Ring)]).fill.toNat ∧ Nat.max 15 1 ≤ (s.tile.rings[(1 : Ring)]).fill.toNat ∧ s.core.sr.gtb.toNat % 32 = 0 ∧
       s.core.sr.gtb.toNat + 32 * (s.tile.rings[(0 : Ring)]).nslot.toNat ≤ 0x80000 ∧
       groupOk (s.tile.slice.readMany (s.core.sr.gtb.toNat + 32 * (s.tile.rings[(0 : Ring)]).slotNo 0) 32) = true ∧
       Nat.max 15 (s.tile.slice.read (s.core.sr.gtb.toNat + 32 * (s.tile.rings[(0 : Ring)]).slotNo 0 + 16)).toNat ≤
         (s.tile.rings[(1 : Ring)]).fill.toNat) ∧
    (let s := unitState (ringOf 1 1 0 0) (ringOf 64 64 63 63) { fmta := 1, fmtb := 1, scla := 0x7FF80, sclb := 0x7E000 }
     s.unitFree ∧ (mfmtOf s.core.sr.fmta.toNat).scaled = true ∧ s.core.sr.scla.toNat % 128 = 0 ∧ s.core.sr.scla.toNat + 128 * 1 ≤ 0x80000 ∧
       s.core.sr.sclb.toNat % 128 = 0 ∧ s.core.sr.sclb.toNat + 128 * 64 ≤ 0x80000) ∧
    (let s := unitState (ringOf 1 1 0 0) (ringOf 64 64 63 63) { fmta := 3, fmtb := 3 }
     s.unitFree ∧ s.core.sr.fmta = 3 ∧ s.core.sr.fmta = s.core.sr.fmtb) ∧
    (let s := unitState (ringOf 1 1 0 0) (ringOf 64 64 63 63) { fmta := 7, fmtb := 0 }
     s.unitFree ∧ s.core.sr.fmta ≠ s.core.sr.fmtb ∧ s.core.sr.fmta.toNat < 8 ∧ s.core.sr.fmtb.toNat < 8) := by
  simp only [State.unitFree]
  (repeat' refine And.intro ?_ ?_) <;> decide +kernel

/-- The second part of that statement. -/
theorem witness_MatricesMultiplyAloneAndInQuads_quad :
    (let s : State := { sel := .comp, core := coreWith [], tile := quadTile 0 0 }
     s.wholeQuad = true ∧ s.core.still = true ∧ s.core.sr.fmta = s.core.sr.fmtb ∧ s.core.sr.fmta = 0 ∧ (s.tile.rings[(0 : Ring)]).nslot ≠ 0 ∧
       (s.tile.rings[(1 : Ring)]).nslot ≠ 0 ∧ Nat.max 1 1 ≤ (s.tile.rings[(0 : Ring)]).fill.toNat ∧
       Nat.max 15 1 ≤ (s.tile.rings[(1 : Ring)]).fill.toNat) ∧
    (on .comp []).wholeQuad = false ∧
    (let s := quadState (quadOp false) (quadOp false)
     s.mmqAll false = some [(.grid 0 0, quadOp false), (.grid 1 0, quadOp false), (.grid 0 1, quadOp false), (.grid 1 1, quadOp false)] ∧
       [(.grid 0 0, quadOp false), (.grid 1 0, quadOp false), (.grid 0 1, quadOp false), (.grid 1 1, quadOp false)].all
         (fun (m : TileId × UnitOp) => (s.tileAt m.1).tile.mqn == s.tile.mqn && m.2.fmta == 3 && m.2.fmtb == 3 && m.2.step == 0) = true) ∧
    (let v : UnitOp := { quadOp false with fmta := 0, fmtb := 0 }
     (quadState (quadOp false) v).mmqAll false = some [(.grid 0 0, quadOp false), (.grid 1 0, quadOp false), (.grid 0 1, quadOp false), (.grid 1 1, v)] ∧
       (quadOp false).fmta ≠ v.fmta) ∧
    (let s := quadState (quadOp true) (quadOp true)
     s.mmqAll true = some [(.grid 0 0, quadOp true), (.grid 1 0, quadOp true), (.grid 0 1, quadOp true), (.grid 1 1, quadOp true)] ∧
       (quadOp true).step = 0 ∧ (([.grid 0 0, .grid 1 0, .grid 0 1, .grid 1 1] : List TileId).all fun k => !(s.compOf k).injMat) = true) ∧
    (let s : State := { quadState (quadOp false) (quadOp false) with regions := [(0, { cyc := 65536 })] }
     s.core.unit.ops = [quadOp false] ∧ (quadOp false).op = .mmq 0 0 1 0 0 ∧ (quadOp false).started = false ∧ (quadOp false).stuck = false ∧
       s.core.tr.deferred = none ∧ (quadOp false).since.toNat + 65536 ≤ s.cyc.toNat) := by
  (repeat' refine And.intro ?_ ?_) <;> decide +kernel

/-- A compute core with an accumulator that checks, and one without; an MTR into its own source; the selectors of CSRD at 15 and 16. -/
theorem witness_AccumulatorsAreReadWrittenChecked :
    (let s : State := { on .comp [(1, 15), (2, 16)] with core := { coreWith [(1, 15), (2, 16)] with sr := { mctl := 1 } } }
     s.unitFree ∧ s.tile.flips = [] ∧ ((upto 16).all fun i => (upto 16).all fun j => !((s.core.acc 0).elem i j).2) = true ∧
       ((s.core.acc 0).check (s.core.sr.mctl.getLsbD 0) (s.core.sr.tola.toNat % 2 ^ 32) (s.core.sr.tolr.toNat % 2 ^ 32)).poi = false ∧
       ((s.core.acc 0).check (s.core.sr.mctl.getLsbD 0) (s.core.sr.tola.toNat % 2 ^ 32) (s.core.sr.tolr.toNat % 2 ^ 32)).fix = none ∧
       (s.S 1).toNat % 32 = 15 ∧ (s.S 2).toNat % 32 = 16 ∧ (1 : SReg) ≠ 0) ∧
    (let v : Acc := { live := true, valid := true, rows := vput (Vector.replicate 16 {}) 15 { bits := 0x3F800000 <<< 480 } }
     (v.check true 0 0).poi = false ∧ (v.check true 0 0).fix = some (15, 15, 0)) := by
  simp only [State.unitFree]
  (repeat' refine And.intro ?_ ?_) <;> decide +kernel
/-! ### Moments -/

/-- A grid is clean where each of its results is. -/
theorem grid_clean (f : Nat → Nat → KRes) (h : ∀ i < 16, ∀ j < 16, (f i j).ev.poi = false) : (gridEvents (gridOf f)).poi = false := by
  have row (l : List KRes) (e : Events) (he : e.poi = false) (hl : ∀ x ∈ l, x.ev.poi = false) :
      (l.foldl (fun e x => e.join x.ev) e).poi = false := by
    induction l generalizing e with
    | nil => exact he
    | cons x l ih => exact ih _ (by simp [Events.join, he, hl x]) fun y hy => hl y (by simp [hy])
  have rows (m : List (List KRes)) (e : Events) (he : e.poi = false) (hm : ∀ l ∈ m, ∀ x ∈ l, x.ev.poi = false) :
      (m.foldl (fun e r => r.foldl (fun e x => e.join x.ev) e) e).poi = false := by
    induction m generalizing e with
    | nil => exact he
    | cons l m ih => exact ih _ (row l e he (hm l (by simp))) fun y hy => hm y (by simp [hy])
  refine rows _ _ rfl ?_
  intro l hl x hx
  simp only [gridOf, List.mem_map] at hl
  obtain ⟨i, hi, rfl⟩ := hl
  obtain ⟨j, hj, rfl⟩ := List.mem_map.mp hx
  have u : ∀ k, k ∈ upto 16 → k < 16 := by simp [upto]
  exact h i (u i hi) j (u j hj)

theorem zero_pairs (i j : Nat) (hi : i < 16) (hj : j < 16) : (MomentReg.elem {} i j) = { m := 0, v := 0 } := by
  have h : ∀ i : Fin 16, ∀ j : Fin 16, (MomentReg.elem {} i j) = { m := 0, v := 0 } := by decide +kernel
  exact h ⟨i, hi⟩ ⟨j, hj⟩

/-- A function of pairs that are all zero. -/
theorem clean_of_zero (f : KPair → KRes) (h : (f { m := 0, v := 0 }).ev.poi = false) :
    (gridEvents (gridOf fun i j => f (MomentReg.elem {} i j))).poi = false :=
  grid_clean _ fun i hi j hj => by rw [zero_pairs i j hi hj]; exact h

theorem leNat_zeros (m : Nat) : leNat (List.replicate m 0) = 0 := by
  induction m with
  | zero => rfl
  | succ m ih => rw [List.replicate_succ, leNat, ih]; rfl

theorem any_clean (m : Nat) : (List.replicate m ((0, false) : PByte)).any (·.2) = false := by simp

def zeroSlot : List PByte := List.replicate 1024 (0, false)

theorem zeroSlot_row (i : Nat) :
    mb16Row zeroSlot true i = ((upto 16).map fun _ => { m := bf16.decode 0, v := bf16.decode 0 }, false) := by
  simp only [mb16Row, tileElem, anyPoison, zeroSlot, if_true, List.drop_replicate, List.take_replicate, List.map_replicate, any_clean, leNat_zeros,
    Bool.or_false, Bool.false_eq_true, if_false]

/-- Slots and an accumulator of zeros hold no variance below zero. -/
theorem zeroSlot_negative (mw ovw : Bool) : kmmaNegative mw ovw {} {} zeroSlot zeroSlot = none := by
  simp only [kmmaNegative, zeroSlot_row]
  cases mw <;> cases ovw <;> decide +kernel

/-- A core whose pairs are all zero, with rings 0 and 1 of zeros. -/
def momentState : State := unitState (ringOf 1 1 0 0) (ringOf 64 64 63 63)

theorem bytes_of_empty (t : Tile) (o n : Nat) (h : t.slice = []) (p : t.poison = []) : t.bytes o n = List.replicate n (0, false) := by
  simp [Tile.bytes, h, p, Memory.read, upto_eq_range, List.map_const']

theorem momentState_slots :
    momentState.tile.bytes ((momentState.tile.rings[(0 : Ring)]).at 0) 1024 = zeroSlot ∧
      momentState.tile.bytes ((momentState.tile.rings[(1 : Ring)]).at 0) 1024 = zeroSlot :=
  ⟨bytes_of_empty _ _ _ rfl rfl, bytes_of_empty _ _ _ rfl rfl⟩

/-- A moment register whose first pair has the mean 0 and the variance v. -/
def firstVariance (v : Nat) : MomentReg := { live := true, rows := vput (Vector.replicate 16 {}) 0 { bits := BitVec.ofNat 1024 (v * 2 ^ 32) } }

/-- The pairs are clean in each formula; planes and accumulators that hold no variance below zero; the last accumulator pair; the latch as a row;
slots without a variance below zero. -/
theorem witness_MomentsAreComputed :
    (let s := momentState
     s.unitFree ∧ s.tile.flips = [] ∧ s.tile.poison = [] ∧ s.core.K 0 = {} ∧ (0 : AccR).val % 2 = 0 ∧ (6 : AccR).val % 2 = 0 ∧ (0 : Ring) ≠ 1 ∧
       ((upto 16).all fun i => (upto 16).all fun j => !((s.core.K 0).elem i j).bad) = true ∧
       ((upto 16).all fun i => (upto 16).all fun j => !((s.core.acc 0).elem i j).2 && !((s.core.acc 7).elem i j).2 &&
         !negVar ((s.core.acc 7).elem i j).1) = true ∧
       rowSel .comp 12 0 false 0 ≠ .ill ∧ rowSel .comp 12 0 false 0 ≠ .rgf ∧ (s.core.rowVal (rowSel .comp 12 0 false 0) 4 0).bad = 0 ∧
       (s.tile.rings[(0 : Ring)]).head.toNat < (s.tile.rings[(0 : Ring)]).nslot.toNat ∧
       (s.tile.rings[(1 : Ring)]).head.toNat < (s.tile.rings[(1 : Ring)]).nslot.toNat ∧
       Nat.max 1 1 ≤ (s.tile.rings[(0 : Ring)]).fill.toNat ∧ Nat.max 15 1 ≤ (s.tile.rings[(1 : Ring)]).fill.toNat) ∧
    (let s := on .comp [(1, 7), (2, 0x3F800000), (3, 8), (4, 0x3F800001), (5, 2), (6, 4)]
     (s.S 1).toNat < 8 ∧ (s.S 1).toNat % 4 = 3 ∧ (s.S 2).toNat % 2 ^ 31 ≤ 0x3F800000 ∧ (s.S 2).toNat % 2 ^ 32 ≠ 2 ^ 31 ∧ 8 ≤ (s.S 3).toNat ∧
       0x3F800000 < (s.S 4).toNat % 2 ^ 31 ∧ s.core.frames = [] ∧ (s.S 5).toNat < 8 ∧ (s.S 5).toNat % 4 = 2 ∧ (s.S 6).toNat % 4 = 0 ∧
       s.core.sr.kmd.getLsbD 2 = false) := by
  simp only [State.unitFree]
  (repeat' refine And.intro ?_ ?_) <;> decide +kernel

theorem zero_plane (i j : Nat) : f32Elem (({} : TileReg).bytes) i j = (0, false) := by
  rw [show ({} : TileReg).bytes = zeroSlot by decide +kernel]
  simp only [f32Elem, tileElem, anyPoison, zeroSlot, List.drop_replicate, List.take_replicate, List.map_replicate, any_clean, leNat_zeros]

/-- Each formula is clean on these pairs, and the planes of t0 hold no poison and no variance below zero. -/
theorem witness_MomentsAreComputed_clean :
    let p (i j : Nat) : KPair := MomentReg.elem {} i j
    (gridEvents (gridOf fun i j => kAddSub false 0 (p i j) (p i j))).poi = false ∧ (gridEvents (gridOf fun i j => kAddSub true 0 (p i j) (p i j))).poi = false ∧
    (gridEvents (gridOf fun i j => kMul 0 (p i j) (p i j))).poi = false ∧ (gridEvents (gridOf fun i j => kFma 0 (p i j) (p i j) (p i j))).poi = false ∧
    (gridEvents (gridOf fun i j => kAddD (p i j) 0 false)).poi = false ∧ (gridEvents (gridOf fun i j => kMulD (p i j) 0 false)).poi = false ∧
    (gridEvents (gridOf fun i j => kNl .relu (p i j))).poi = false ∧ (gridEvents (gridOf fun i j => kNl .exp (p i j))).poi = false ∧
    (gridEvents (gridOf fun i j => kNl .sig (p i j))).poi = false ∧ (gridEvents (gridOf fun i j => kNl .sq (p i j))).poi = false ∧
    (gridEvents (gridOf fun i j => kNl .rcp (p i j))).poi = false ∧ (gridEvents (gridOf fun i j => kVsub (p i j) (p i j))).poi = false ∧
    (∀ i j, f32Elem (({} : TileReg).bytes) i j = (0, false)) ∧ negVar 0 = false := by
  refine ⟨clean_of_zero (fun p => kAddSub false 0 p p) ?_, clean_of_zero (fun p => kAddSub true 0 p p) ?_, clean_of_zero (fun p => kMul 0 p p) ?_,
    clean_of_zero (fun p => kFma 0 p p p) ?_, clean_of_zero (fun p => kAddD p 0 false) ?_, clean_of_zero (fun p => kMulD p 0 false) ?_,
    clean_of_zero (kNl .relu) ?_, clean_of_zero (kNl .exp) ?_, clean_of_zero (kNl .sig) ?_, clean_of_zero (kNl .sq) ?_, clean_of_zero (kNl .rcp) ?_,
    clean_of_zero (fun p => kVsub p p) ?_, zero_plane, rfl⟩ <;> decide +kernel

/-- A difference whose first variance is below zero, and slots whose variances are not. -/
theorem witness_MomentsAreComputed_variances :
    firstNeg (gridOf fun i j => kVsub (MomentReg.elem {} i j) ((firstVariance 0x3F800000).elem i j)) = some (0, 0) ∧
    (let sa := momentState.tile.bytes ((momentState.tile.rings[(0 : Ring)]).at 0) 1024
     let sb := momentState.tile.bytes ((momentState.tile.rings[(1 : Ring)]).at 0) 1024
     ∀ mw ovw, kmmaNegative mw ovw (momentState.core.acc 0) (momentState.core.acc 1) sa sb = none) := by
  refine ⟨by decide +kernel, ?_⟩
  intro sa sb mw ovw
  rw [show sa = zeroSlot from momentState_slots.1, show sb = zeroSlot from momentState_slots.2]
  exact zeroSlot_negative mw ovw

/-- The last place of 2,048 and of 1,024 bytes in the slice; a variance of -1 at the end of such an image. -/
theorem witness_MomentRegistersAreLoadedAndStored :
    (let s : State := on .comp [(1, 0x7F800), (2, 0x7FC00)]
     s.unitFree ∧ s.core.frames = [] ∧ s.tile.slice.wf = true ∧ ea (s.S 1) 0 = some 0x7F800 ∧ ptrOfs (0x7F800 : Word) % 32 = 0 ∧
       s.readsHere 0x7F800 2048 ∧ s.writesHere 0x7F800 2048 ∧
       ea (s.S 2) 0 = some 0x7FC00 ∧ ptrOfs (0x7FC00 : Word) % 32 = 0 ∧ s.readsHere 0x7FC00 1024 ∧ s.writesHere 0x7FC00 1024 ∧
       ((upto 16).all fun i => (upto 16).all fun j => !((s.core.K 0).raw i j).bad) = true) ∧
    (let s := on .comp [(1, 0x7F800)] { slice := [(0x7F806, 0x80), (0x7F807, 0xBF)] }
     s.unitFree ∧ s.tile.slice.wf = true ∧ s.readsHere 0x7F800 2048) := by
  simp only [State.unitFree, State.readsHere, State.writesHere]
  (repeat' refine And.intro ?_ ?_) <;> first | (intro j _; rfl) | decide +kernel

/-- Images of zeros, in both layouts, and one whose first variance is -1. -/
theorem witness_MomentRegistersAreLoadedAndStored_images :
    kldFault true (Tile.bytes {} 0x7F800 2048) = none ∧ kldFault false (Tile.bytes {} 0x7FC00 1024) = none ∧
    kldFault true (Tile.bytes { slice := [(0x7F806, 0x80), (0x7F807, 0xBF)] } 0x7F800 2048) = some (0, 0) := by
  have e (mp32 : Bool) (n i j : Nat) : kldElem mp32 (List.replicate n (0, false)) i j = (0, 0, false) := by
    cases mp32 <;> simp only [kldElem, List.drop_replicate, List.take_replicate, List.map_replicate, any_clean, leNat_zeros] <;> rfl
  have z (mp32 : Bool) (n : Nat) : kldFault mp32 (List.replicate n (0, false)) = none := by
    simp only [kldFault, e, List.find?_eq_none]
    intro x _
    decide
  rw [bytes_of_empty _ _ _ rfl rfl, bytes_of_empty _ _ _ rfl rfl, Tile.bytes, upto_eq_range, List.range_eq_range']
  exact ⟨z _ _, z _ _, by decide +kernel⟩
/-! ### Traps, state registers, reliability, services -/

/-- A core at a trap level, with these vectors. -/
def trapState (n : Fin 3) (tvec : Word) (tpc : Word := 0x200) (es : Vector Entry 8 := Vector.replicate 8 {}) (m : Memory := []) : State :=
  { core := { coreWith [(1, 5)] with tr := { level := n, tpc1 := tpc, tpc2 := tpc, tca1 := 0x100 }, sr := { tvec := tvec }, rq := es },
    tile := { slice := m } }

/-- A divide of level 0 whose result came at level 1: it stands at 0, its word is in the slice. -/
def caughtEntry : Entry := { v := true, st := 1, kind := 1, w3 := 9 }
def caughtState : State := trapState 1 0x80000 0x200 (vput (Vector.replicate 8 {}) 7 caughtEntry) [(0, 0x53), (1, 0x1C)]

/-- Levels 0 and 1 with the vectors valid, level 2, and invalid vectors; TRET at level 0, to an odd pc, at levels 1 and 2, and with the caught
divide in entry 7; a deferred event, a single step, and breakpoints in both registers at the last pc. -/
theorem witness_TrapsAreTakenAndReturned :
    ([trapState 0 0x80000, trapState 1 0x80000].all fun s =>
      decide (s.core.unit.ops = []) && !s.forwards .brk && s.core.sr.tvec.getLsbD 19 && decide (s.core.tr.level.val < 2)) = true ∧
    (trapState 2 0x80000).core.tr.level.val = 2 ∧ (trapState 2 0x80000).forwards .swt = false ∧ (trapState 0 0).core.sr.tvec.getLsbD 19 = false ∧
    (trapState 0 0).forwards .ill = false ∧
    (let s := trapState 2 0x80000 0x201
     s.core.tr.level.val ≠ 0 ∧ s.core.claims = [] ∧ s.core.tr.tpc2.getLsbD 0 = true) ∧
    (let s := trapState 1 0x80000 0x7FFFE
     s.core.tr.level.val ≠ 0 ∧ s.core.tr.tpc1.getLsbD 0 = false ∧ ∀ n : Fin 8, s.core.rq[n].v = false) ∧
    (let s := caughtState
     s.core.unit.ops = [] ∧ s.core.tr.level.val ≠ 0 ∧ s.core.tr.tpc1.getLsbD 0 = false ∧ (∀ m : Fin 8, m ≠ 7 → s.core.rq[m].v = false) ∧
       s.core.rq[(7 : Fin 8)] = caughtEntry ∧ caughtEntry.lvl.val + 1 = s.core.tr.level.val ∧ caughtEntry.next = 0 ∧ caughtEntry.count = 1 ∧
       caughtEntry.buf = [] ∧ s.tile.modes.lockstep = false ∧
       s.entryOp 7 = (some (.div 1 2 3, 1), s)) ∧
    (let s : State := { core := { coreWith [] with tr := { sstep := true, deferred := some { cause := .nvf, va := 7 } }, issued := true } }
     s.core.tr.deferred = some { cause := .nvf, va := 7 } ∧ s.core.frames = [] ∧ s.core.tr.level.val = 0 ∧ s.core.tr.sstep = true ∧
       s.core.issued = true ∧ s.core.unit.ops = []) ∧
    (let s : State := { core := { coreWith [] with pc := 0x7FFFE, sr := { iab0 := 0xFFFFE, iab1 := 0x7FFFE } } }
     s.core.tr.level.val = 0 ∧ s.core.issuing = none ∧ s.core.iabSkip = false ∧ s.core.sr.iab0.getLsbD 19 = true ∧
       s.core.pc.toNat = s.core.sr.iab0.toNat % 2 ^ 19 ∧ s.core.sr.iab1.getLsbD 19 = false) := by
  (repeat' refine And.intro ?_ ?_) <;> decide +kernel

/-- Cause 16 forwarded by its bit of TVEC, and every cause by the host's mode; a forwarded trap at levels 0 and 2; a slot whose entries are free;
an entry of level 0 read at level 1, and one of level 1. -/
theorem witness_ForwardedTrapsAndReplayQueue :
    (trapState 0 (0x80000 + 2 ^ 48)).core.unit.ops = [] ∧ (trapState 0 (0x80000 + 2 ^ 48)).forwards .swt = true ∧
    (on .stage [] { modes := { hostTraps := true } }).forwards .ill = true ∧
    (let f : Forwarded := { cause := .swt, pc := 0x102, va := 5 }
     let s : State := { core := { coreWith [(1, 5)] with tr := { fwd := some f }, sr := { tvec := 0x80000 } } }
     s.core.tr.fwd = some f ∧ s.core.tr.level.val < 2 ∧ s.core.sr.tvec.getLsbD 19 = true ∧
       (∀ n : Fin 8, (s.slotWord (0x80 + 32 * n.val)).getLsbD 19 = false) ∧ (s.slotWord 0x1F0).getLsbD 0 = false) ∧
    (let s := trapState 0 0x80000
     s.core.tr.level.val = 0) ∧
    (let s := caughtState
     s.core.tr.level.val ≠ 0 ∧ s.core.ready [15, 1, 2] = true ∧ s.core.rq[(7 : Fin 8)].v = true ∧
       s.core.rq[(7 : Fin 8)].lvl.val < s.core.tr.level.val ∧ s.core.rq[(0 : Fin 8)].v = false) ∧
    (let s := trapState 1 0x80000 0x200 (vput (Vector.replicate 8 {}) 5 { caughtEntry with lvl := 1, st := 0 })
     s.core.tr.level.val ≠ 0 ∧ s.core.ready [15, 2, 3] = true ∧ (s.S 1).toNat % 8 = 5 ∧ s.core.rq[(5 : Fin 8)].v = true ∧
       s.core.tr.level.val ≤ s.core.rq[(5 : Fin 8)].lvl.val) := by
  (repeat' refine And.intro ?_ ?_) <;> decide +kernel

/-- Registers 64 and 127 without privilege, 3 and 14 on the staging core, 0, 15, 69, 70 and 255 on a gateway's core. -/
theorem witness_StateRegistersAreReadAndWritten :
    (let s := on .stage [(1, allOnes)]
     s.privileged = false ∧ s.sel = .stage ∧ s.core.ready [1] = true ∧ ¬ (64 ≤ (63 : Fin 256).val ∧ (63 : Fin 256).val ≤ 127 ∧ s.privileged = false) ∧
       ¬ (3 ≤ (2 : Fin 256).val ∧ (2 : Fin 256).val ≤ 14 ∧ s.sel = .stage) ∧ s.tile.modes.hostTraps = false) ∧
    (let s := on .comp [(1, allOnes)] { id := .gateway 63, modes := { hostTraps := true } }
     s.privileged = true ∧ s.sel = .comp ∧ s.core.ready [1] = true ∧ s.unitPending none = false ∧ s.tile.modes.hostTraps = true) := by
  decide +kernel

/-- A containment region with its handler at the end of the slice, in which a lockstep pair runs. -/
def regionFrame : ContFrame := { handler := 0x7FFFE, regs := Vector.replicate 16 7, live := 0x8002 }
def regionState : State := { core := { coreWith [(1, 5)] with frames := [regionFrame] }, tile := { modes := { lockstep := true } } }

/-- CRO with a handler at the last place and past it, at four frames, at a trap level; CRC in a region and out of one; the events of a region; INJ
in its kinds at the ends of their ranges; one, two and no flips in the word that the scrubber reads. -/
theorem witness_ErrorsAreContained :
    (let s := on .stage [(1, 5), (2, 5)]
     s.core.tr.level.val = 0 ∧ s.core.frames.length < 4 ∧ (s.core.pc + BitVec.ofInt 64 (2 * (0x3FF7F : Int))).toNat = 0x7FFFE ∧
       0x80000 ≤ (s.core.pc + BitVec.ofInt 64 (2 * (0x3FF80 : Int))).toNat ∧ 0x80000 ≤ (s.core.pc + BitVec.ofInt 64 (2 * (-129 : Int))).toNat ∧
       s.core.ready scalars = true ∧ s.core.frames = [] ∧ s.core.ready [1, 2] = true ∧ s.core.claims = [] ∧ s.core.unit.ops = [] ∧
       s.core.busyT 15 = false ∧ s.sel = .stage ∧ s.core.inRegion = false ∧ rowSel s.sel 12 0 false 0 = .ill ∧ rowSel s.sel 3 15 false 0 = .tile 3 15) ∧
    (trapState 1 0x80000).core.tr.level.val ≠ 0 ∧
    (let s := regionState
     s.core.tr.level.val = 0 ∧ s.core.frames = regionFrame :: [] ∧ s.core.rpsh = [] ∧ s.core.claims = [] ∧ s.core.unit.ops = [] ∧
       s.tile.modes.lockstep = true ∧ s.core.upset = 0 ∧ s.core.inRegion = true ∧ (s.effects { s with core := s.core.setS 1 6 }).isEmpty = false ∧
       ¬ (({ s with core := s.core.setS 1 6 } : State).core.frames.length < s.core.frames.length) ∧ 4 ≤ ({ s.core with frames := List.replicate 4 regionFrame } : Core).frames.length) ∧
    (let s := on .stage [(1, 0x7FFF9), (2, 71), (3, 72), (4, 22), (5, 0), (6, 7)] { modes := { testInj := true } }
     s.core.ready [1, 2, 3, 4] = true ∧ s.privileged = false ∧ s.tile.modes.testInj = true ∧ (s.S 1).toNat % 4 = 1 ∧ s.S 1 &&& 0x7FFFB = s.S 1 ∧
       (s.S 2).toNat < 72 ∧ 72 ≤ (s.S 3).toNat ∧ (s.S 4).toNat % 4 = 2 ∧ (s.S 4).toNat < 24 ∧ (s.S 5).toNat = 0 ∧ (s.S 6).toNat % 4 = 3 ∧
       (s.S 6).toNat < 8) ∧
    ((on .stage []).core.inRegion = false ∧ ({ coreWith [] with upset := 1 } : Core).upset = 1 ∧ ({ coreWith [] with upset := 2 } : Core).upset = 2) ∧
    (on .stage []).tile.modes.testInj = false ∧
    (let s := on .comp [(1, 0xFF1C), (2, 31)] { id := .gateway 0 }
     s.privileged = true ∧ s.core.ready [1, 2] = true ∧ (s.S 1).toNat % 4 = 0 ∧ s.S 1 &&& 0xFF1F = s.S 1 ∧ (s.S 2).toNat < 32 ∧ s.sel = .comp ∧
       s.core.still = true ∧ s.core.tr.deferred = none ∧ s.core.injMat = false ∧ s.core.stopped = false ∧ s.core.tr.fwd = none) ∧
    (let t : Tile := { flips := [(0xFFFF, 0), (0xFFFF, 71), (7, 3)], scrubPos := 0xFFFF }
     (t.flips.filter fun f => f.1 == t.scrubPos.toNat) = [(0xFFFF, 0), (0xFFFF, 71)] ∧ (t.flips.filter fun f => f.1 == 7) = [(7, 3)] ∧
       (t.flips.filter fun f => f.1 == 0) = []) := by
  (repeat' refine And.intro ?_ ?_) <;> decide +kernel

/-- A core that can ask its quay, with the pointer or code x in s2; edge memory's first page is translated where `has`. -/
def asking (x : Word) (has : Bool) : State :=
  { on .stage [(2, x)] { owned := true } with
    core := { coreWith [(2, x)] with sr := { tvec := 0x80000 } }
    ctxs := [(0, { exist := true, pages := if has then [page0] else [] })] }

theorem asking_near (x : Word) (has : Bool) : (asking x has).quayNear := quayNear_of _ rfl rfl rfl rfl rfl rfl rfl rfl rfl rfl rfl

/-- METR's selectors 0 to 5; cores that ask the quay with every kind of argument; q4 with words 0 and 7; a translation that is there and one that
is not; an IDLE whose limit is past, now, and to come. -/
theorem witness_ServicesAreAnswered :
    (let s := on .stage [(1, 0), (2, 1), (3, 2), (4, 3), (5, 4), (6, 5)]
     s.core.ready [7, 1] = true ∧ s.S 1 = BitVec.ofNat 64 (0 : Fin 3).val ∧ s.S 3 = BitVec.ofNat 64 (2 : Fin 3).val ∧ s.S 4 = 3 ∧ s.S 5 = 4 ∧
       4 < (s.S 6).toNat ∧ s.core.still = true ∧ s.core.asleep = none) ∧
    (∀ x has, (asking x has).quayNear ∧ (asking x has).linkFree) ∧
    (∀ has, (asking 0x200000000000FFFF has).core.still = true ∧ (asking 0x200000000000FFFF has).core.xlatReq = none) ∧
    (let s := asking 0x200000000000FFFF true
     ptrSpace (s.S 2) = 2 ∧ (s.myCtx.page false (ptrOfs (s.S 2))).isSome = true ∧ s.myCtx.page (ptrSpace (s.S 2) == 4) (ptrOfs (s.S 2)) = some page0 ∧
       page0.bad = false ∧ pageOf (Page.words page0) = some page0) ∧
    (let s := asking 0x200000000000FFFF false
     ptrSpace (s.S 2) = 2 ∧ s.myCtx.page false (ptrOfs (s.S 2)) = none ∧ s.myCtx.reserve = 0 ∧
       s.myCtx.page (ptrSpace (s.S 2) == 4) (ptrOfs (s.S 2)) = none ∧ s.forwards .xlat = false ∧ s.core.tr.level.val = 0 ∧
       s.core.sr.tvec.getLsbD 19 = true) ∧
    (ptrSpace (0 : Word) ≠ 2 ∧ ptrSpace (0x1000000000000000 : Word) ≠ 0 ∧ 2 ^ 32 ≤ (2 ^ 32 : Word).toNat) ∧
    (let s : State := { core := { coreWith [] with q := { q4req := [0] } } }
     s.core.q.q4req = [0] ∧ s.core.q.q4resp = [] ∧ (0 : Word).toNat < 65536 ∧ 6 < (7 : Word).toNat ∧ (7 : Word).toNat < 65536) ∧
    (let s : State := { core := { coreWith [(1, 1), (2, 2), (3, 0)] with asleep := some (2, (on .stage []).wakeCounts) }, regions := [(0, { cyc := 1 })] }
     s.core.ready [1, 2, 3] = true ∧ (s.S 1 ≠ 0 ∧ (s.S 1).toNat ≤ s.cyc.toNat) ∧ ¬ (s.S 2 ≠ 0 ∧ (s.S 2).toNat ≤ s.cyc.toNat) ∧
       ¬ (s.S 3 ≠ 0 ∧ (s.S 3).toNat ≤ s.cyc.toNat) ∧ s.core.asleep = some (2, s.wakeCounts) ∧
       (List.replicate 44 9).take 20 ≠ s.wakeCounts.take 20) := by
  refine ⟨by decide +kernel, fun _ _ => ⟨asking_near _ _, rfl, rfl, rfl⟩, by decide +kernel, by decide +kernel, by decide +kernel, by decide +kernel,
    by decide +kernel, by decide +kernel⟩

/-- The image of the staging core in the last place where it fits; a header that reads back; without privilege; in a region. -/
theorem witness_CoreImagesAreSavedAndLoaded :
    (let s := on .stage [(1, 0x7EE80), (2, 5)] { id := .gateway 1 }
     s.privileged = true ∧ s.core.tr.level.val = 0 ∧ s.core.frames = [] ∧ s.core.still = true ∧ ea (s.S 1) 0 = some 0x7EE80 ∧
       ptrOfs (0x7EE80 : Word) % 32 = 0 ∧ s.tile.slice.wf = true ∧ s.writesHere 0x7EE80 (s.core.image s.sel).length ∧ s.readsHere 0x7EE80 64) ∧
    (let s := on .stage [(1, 0)] { id := .gateway 1, slice := [(0, 1), (4, 192), (9, 0x80)] }
     s.privileged = true ∧ s.core.still = true ∧ ea (s.S 1) 0 = some 0 ∧ s.readsHere 0 192 ∧ s.sliceNat 0 8 % 65536 = 1 ∧
       s.sliceNat 0 8 / 65536 % 2 = 0 ∧ s.sliceNat 0 8 / 2 ^ 32 = 192 ∧ (s.sliceNat (0 + 8) 8).testBit 15 = true) ∧
    (on .stage []).privileged = false ∧ ({ regionState with tile := { id := .gateway 1 } } : State).privileged = true ∧ regionState.core.frames ≠ [] := by
  simp only [State.readsHere, State.writesHere]
  (repeat' refine And.intro ?_ ?_) <;> first | (intro j _; rfl) | decide +kernel
/-! ### The fabric, teams, regions, the host -/

/-- A request in entry 7 that waits at an engine phaser; a packet of age 126 and one of 127; a link with 14 errors and one with 15; a detour and its
absence; packets for a quarter of the partition and for another; a retirement in a region without defects, and of a site that is retired; packets for
a docked team at its spill quota and past it. -/
def lostPacket (age : Nat) : Packet := { packetOf 1 (.read 0 0 8) with src := .tile 40 0, dst := .tile 16 0, age := age }
def firewallState (q : Nat) : State := { net := [lostPacket 0], parts := [(0, { quarters := [q] })] }
def spillState (quota : Nat) : State :=
  { tile := { id := .grid 9 9 }, net := [packetOf 6 (.msg .scalar 0 0 .stage 0 none [] 0)], ctxs := [(1, { exist := true, spillQuota := quota })],
    teams := [{ ctx := 1, tag := 1, phase := .docked }] }
def eastLink : Link := { x := 0, y := 0, port := 2 }
def northLink : Link := { x := 0, y := 0, port := 1 }

/-- At (1, 0), packets on VC1 that came from the west go back there, which dimension order does not undo. -/
def bounce : RouterWrite := { x := 1, y := 0, idx := 15, entry := BitVec.ofNat 64 (1 + 2 * 3 + 2 ^ 5 + 2 ^ 12 * 5 + 2 ^ 20 * 5 + 2 ^ 47) }

theorem witness_FabricFailuresAreHandled :
    (answered (.data 0 [(1, false)])).1.answerComes (answered (.data 0 [(1, false)])).2 ∧
    (let p : Packet := { packetOf 0 (.ask 8 5 0) with ent := 7, dst := .quay 0 }
     let s : State := { core := { coreWith [] with link := { vc0 := [p] } } }
     p ∈ s.core.link.vc0 ∧ p.ent = (7 : Fin 8).val ∧ s.hawser = false ∧ ({ s with hawser := true } : State).hawser = true) ∧
    (let s : State := { net := [lostPacket 126, lostPacket 127] }
     s.net[0]? = some (lostPacket 126) ∧ s.net[1]? = some (lostPacket 127) ∧ s.hawser = false ∧ (lostPacket 126).age < 127 ∧ 127 ≤ (lostPacket 127).age) ∧
    (let s : State := { crcErrs := List.replicate 15 (eastLink, 0) ++ List.replicate 14 (northLink, 0), linkFail := [eastLink], replays := [(northLink, 2), (eastLink, 3)] }
     s.crcCount eastLink = 15 ∧ s.replaysOf eastLink = 3 ∧ s.crcCount northLink = 14 ∧ s.replaysOf northLink = 2 ∧ eastLink ∈ s.linkFail ∧
       northLink ∉ s.linkFail ∧ otherEnd eastLink = some { x := 1, y := 0, port := 3 }) ∧
    (({} : State).writeException { bounce with entry := 0 }).acyclic = true ∧ ([bounce].foldl State.writeException ({} : State)).acyclic = false ∧
    (let s : State := { (answered (.ack false)).1 with linkFail := [eastLink], routeGen := 5 }
     sentWrite ∈ s.core.link.retry ∧ sentWrite.wait = false ∧ sentWrite.gen ≠ s.routeGen + 1 ∧ (s.routeGen + 1 - sentWrite.gen).toNat < 32768) ∧
    (let s : State := { tile := { owned := true }, linkFail := [eastLink] }
     eastLink ∈ s.linkFail ∧ s.cutCtxs = []) ∧
    (lostPacket 0 ∈ (firewallState 1).net ∧ (firewallState 1).hawser = false ∧ (firewallState 1).calm = true ∧ (lostPacket 0).hop = none ∧
      (lostPacket 0).dst = .tile 16 0 ∧ regionOfEnd (lostPacket 0).src ≠ regionOf 16 0 ∧ regionOfEnd (lostPacket 0).src ≠ 0 ∧
      1 ≤ (lostPacket 0).vc.val ∧ (lostPacket 0).vc.val ≤ 6 ∧ Machine.quarterOf 16 0 ∈ ((firewallState 1).partOf 0).quarters ∧
      Machine.quarterOf 16 0 ∉ ((firewallState 0).partOf 0).quarters) ∧
    (let s : State := { regions := [(63, { defects := [(31, 33)] })] }
     (31, 33) ∈ (s.region 63).defects ∧ s.retiring = none ∧ (0, 5) ∉ (s.region 63).lost ∧ (∀ e ∈ (s.region 63).defects, e.1 ≠ 0) ∧
       (∀ u ∈ s.allTiles, u.tile.owned = false) ∧ s.teams = [] ∧ s.rowAt 63 0 5 = some 5) ∧
    (let s := spillState 32
     let p := packetOf 6 (.msg .scalar 0 0 .stage 0 none [] 0)
     p ∈ s.net ∧ s.hawser = false ∧ p.dst = .tile 0 0 ∧ 3 ≤ p.vc.val ∧ p.vc.val ≤ 6 ∧ takesTeam (s.tileAt (.grid 0 0)).tile p = false ∧
       s.team? 1 1 = some { ctx := 1, tag := 1, phase := .docked } ∧
       spillBytes { ctx := 1, tag := 1, phase := .docked } + pktBytes p.body ≤ (s.ctx 1).spillQuota ∧
       ((spillState 31).ctx 1).spillQuota < spillBytes { ctx := 1, tag := 1, phase := .docked } + pktBytes p.body) := by
  refine ⟨answered_comes _, ?_, ?_, ?_, ?_, ?_, ?_, ?_, ?_, ?_⟩ <;> (repeat' refine And.intro ?_ ?_) <;> decide +kernel

/-- A launch of two ranks by two, with a start message and bytes for its last rank. -/
def sampleImage : ModuleImage :=
  { emptyImage with berths := [(3, { core := .stage, n := 0, entry := 0x100, vc := 0, prio := 0, stage := 0, quota := 1, conv := 0x00F000F0, stk := 0 })],
                    bytes := [(3, 0x7FFFE, [1, 2])] }
def samplePacket (w h : Nat) (preds : List Nat) : LaunchPacket := { quay := 0, prio := 3, ctx := 1, w := w, h := h, preds := preds, image := sampleImage }
def queued (w h : Nat) (preds : List Nat) : Queued := { id := 5, reqid := 7, part := 2, pkt := samplePacket w h preds }
def launchState (q : Queued) : State :=
  { regions := [(0, { reg := .on, queue := [q] })], parts := [(2, { quarters := [0] })], ctxs := [(1, { exist := true, part := 2 })],
    tile := { id := .grid 9 9 } }
def sampleChoice : PlaceChoice := { origin := some (14, 14), handles := [1, 2, 3, 4], tag := 4095 }

/-- The tiles of a team of one, with both cores stopped or not. -/
def teamTile (stopped : Bool) : FullTile :=
  { tile := { id := .grid 3 3, owned := true, ctx := 1, ttag := 2 }, stage := { stopped := stopped }, comp := { stopped := stopped } }
def teamState (ph : TeamPhase) (endt stopped : Bool) : State :=
  { teams := [{ ctx := 1, tag := 2, launch := 5, phase := ph, endt := endt, w := 1, h := 1 }], tiles := [teamTile stopped] }

theorem witness_TeamsAreLaunchedAndEnded :
    (let s := launchState (queued 2 2 [])
     let q := queued 2 2 []
     (s.region 0).queue = [q] ∧ q.pkt.prio < 4 ∧ (∀ f ∈ (s.partOf q.part).finals, f.1 ≠ q.id) ∧ s.predsState q = .ended ∧
       s.tooLarge q.part q.pkt = false ∧ sampleChoice.origin = some (14, 14) ∧ s.choiceOk q sampleChoice = true ∧
       (s.journalOf 0).records.length < 2 ^ 24 ∧ (s.teams.filter fun t => t.ctx == q.pkt.ctx).length < 4096 ∧ (s.ctx q.pkt.ctx).modes.paired = false ∧
       3 < q.pkt.w * q.pkt.h ∧ (q.pkt.image.bytes.filter fun x => x.1 == 3) = [(3, 0x7FFFE, [1, 2])]) ∧
    ((launchState (queued 2 2 [9])).predsState (queued 2 2 [9]) = .failed ∧ (launchState (queued 2 2 [9])).tooLarge 2 (samplePacket 2 2 [9]) = false) ∧
    (({ launchState (queued 2 2 [9]) with teams := [{ ctx := 1, tag := 1, launch := 9 }] } : State)).predsState (queued 2 2 [9]) = .waits ∧
    (let s := teamState .resident true false
     let t : Team := { ctx := 1, tag := 2, launch := 5, phase := .resident, endt := true, w := 1, h := 1 }
     s.team? 1 2 = some t ∧ t.endt = true ∧ t.phase = .resident) ∧
    (let s := teamState .stopping true true
     let t : Team := { ctx := 1, tag := 2, launch := 5, phase := .stopping, endt := true, w := 1, h := 1 }
     s.team? 1 2 = some t ∧ (s.ctx 1).modes.paired = false ∧ s.tilesOf t = [teamTile true] ∧ tileQuiet false (teamTile true) = true ∧
       (∀ f ∈ (s.partOf (s.ctx 1).part).finals, f.1 ≠ t.launch)) ∧
    ((teamState .stopping true false).tilesOf { ctx := 1, tag := 2 } = [teamTile false] ∧ (teamTile false).stage.stopped = false) ∧
    (let s : State := { tile := { owned := true, ctx := 1, ttag := 2 }, teams := [{ ctx := 1, tag := 2, phase := .swappingOut }] }
     s.trapDue = false ∧ s.core.stopAsked = false ∧ ({ s.core with stopAsked := true } : Core).stopAsked = true ∧ s.team? s.tile.ctx s.tile.ttag = some { ctx := 1, tag := 2, phase := .swappingOut } ∧ s.tile.owned = true ∧ s.core.stopped = false ∧
       s.core.rpsh = [] ∧ s.core.unit.ops = [] ∧ s.tile.leases = []) := by
  (repeat' refine And.intro ?_ ?_) <;> decide +kernel

/-- A shape that no rectangle of the wafer holds. -/
theorem witness_TeamsAreLaunchedAndEnded_large :
    (launchState (queued 258 2 [])).tooLarge 2 (samplePacket 258 2 []) = true := by
  simp [State.tooLarge, State.hasRoom, State.fits, samplePacket]

/-- A docked team of one tile that comes back to (14, 14); empty and full buckets; journals at a checkpoint and at the end of their memory. -/
def dockedTile : FullTile := { tile := { id := .grid 2 2, hnd := 6, slice := [(0x7FFFF, 1)], keeps := [(0x7FFFF, 1)] }, stage := { stopped := true }, comp := { stopped := true } }
def dockedTeam : Team := { ctx := 1, tag := 2, launch := 5, w := 2, h := 2, origin := (2, 2), handles := [6, 7, 8, 9], phase := .docked, dockTiles := [dockedTile] }

theorem witness_TeamsAreSwappedAndMetered :
    (let s := teamState .resident false false
     s.team? 1 2 = some { ctx := 1, tag := 2, launch := 5, phase := .resident, w := 1, h := 1 }) ∧
    (let s := teamState .swappingOut false true
     s.team? 1 2 = some { ctx := 1, tag := 2, launch := 5, phase := .swappingOut, w := 1, h := 1 } ∧
       s.tilesOf { ctx := 1, tag := 2 } = [teamTile true] ∧ tileQuiet true (teamTile true) = true ∧ s.dockLost 1 = false ∧
       ({ s with ctxs := [(1, { pages := [page0] })], failedParts := [(false, 3)] } : State).dockLost 1 = true) ∧
    (let s : State := { launchState (queued 2 2 []) with teams := [dockedTeam] }
     s.team? 1 2 = some dockedTeam ∧ (s.ctx 1).solvent = true ∧ s.swapTurn dockedTeam = true ∧ s.dockLost 1 = false ∧ (s.ctx 1).modes.lockstep = false ∧ sampleChoice.partners = [] ∧
       dockedTeam.spill = [] ∧ dockedTeam.handles.length = dockedTeam.w * dockedTeam.h ∧
       s.fits (s.partOf (s.ctx 1).part).quarters 2 2 14 14 = true ∧ s.vacant 2 2 14 14 = true ∧
       (∀ u ∈ s.teams, u.launch = dockedTeam.launch → u.tag = 2) ∧ (dockedTeam.dockTiles.map (·.tile.id)).Nodup ∧
       dockedTile ∈ dockedTeam.dockTiles ∧ dockedTile.tile.id = .grid (2 + 0) (2 + 0) ∧
       (∀ n : Fin 8, dockedTile.stage.rq[n].v = false ∧ dockedTile.comp.rq[n].v = false) ∧ dockedTile.tile.slice.wf = true ∧
       dockedTile.tile.kept 0x7FFFF = true) ∧
    (let s : State := { tile := { owned := true, ctx := 1, ttag := 2 }, ctxs := [(1, { exist := true, quota := vput (Vector.replicate 3 0) 2 1 })] }
     s.tile.owned = true ∧ s.tile.ctx = 1 ∧ s.tile.ttag = 2 ∧ (s.ctx 1).exist = true ∧ (∀ t ∈ s.teams, t.ctx = 1 → t.yield = false) ∧ (s.ctx 1).solvent = false ∧
       (s.ctx 0).solvent = true ∧ (∀ v ∈ ({} : State).allTiles, v.tile.owned = false)) ∧
    (let s : State := { journals := [(3, { count := 65536 }), (4, { count := 65537 })] }
     s.hostSigning = false ∧ (s.journalOf 3).count ≠ 0 ∧ (s.journalOf 3).count % 65536 = 0 ∧ (s.journalOf 4).count % 65536 ≠ 0 ∧
       (s.journalOf 3).records.length < 2 ^ 24 + 4096) := by
  (repeat' refine And.intro ?_ ?_) <;> decide +kernel

/-- A team of the quay and priority became ready earlier, and may come back now. -/
theorem witness_TeamsAreSwappedAndMetered_turn :
    (let t : Team := { dockedTeam with readyOrder := 1 }
     let s : State := { launchState (queued 2 2 []) with teams := [{ dockedTeam with tag := 3, launch := 6 }, t] }
     s.team? 1 2 = some t ∧ s.swapTurn t = false) := by decide +kernel

/-- Every core of the docked team lies in its rectangle; a journal with as many records as its memory holds. -/
theorem witness_TeamsAreSwappedAndMetered_2 :
    (∀ w ∈ dockedTeam.dockTiles, ∃ a b, a < dockedTeam.w ∧ b < dockedTeam.h ∧ w.tile.id = .grid (dockedTeam.origin.1 + a) (dockedTeam.origin.2 + b)) ∧
    (let j : Journal := { records := List.replicate (2 ^ 24 + 4096) [] }
     let s : State := { journals := [(3, j)] }
     2 ^ 24 + 4096 ≤ (s.journalOf 3).records.length ∧ (s.journalOf 3).gap = false) := by
  refine ⟨?_, ?_, rfl⟩
  · intro w hw
    simp only [dockedTeam, List.mem_singleton] at hw
    subst hw
    exact ⟨0, 0, by decide, by decide, rfl⟩
  · show 2 ^ 24 + 4096 ≤ (List.replicate (2 ^ 24 + 4096) []).length
    exact Nat.le_of_eq List.length_replicate.symm

theorem witness_RegionsArePoweredAndClocked :
    (let s : State := { regions := [(0, { reg := .on, clk := 4 }), (1, { reg := .on, clk := 0 }), (2, { reg := .ramp }), (3, { reg := .cool, tries := 3 }),
                          (4, { reg := .cool, tries := 4 }), (5, { reg := .on, clk := 5 })], power := 30000000 }
     ((s.region 0).reg = .on ∧ (s.region 0).gated = false ∧ s.hawser = false ∧ (s.region 0).clk = 4 ∧ 30000000 ≤ s.power) ∧
       ((s.region 1).reg = .on ∧ (s.region 1).clk < 4 ∧ (s.region 1).clk = 0) ∧ (s.region 2).reg = .ramp ∧
       ((s.region 3).reg = .cool ∧ (s.region 3).tries ≤ 3) ∧ ((s.region 4).reg = .cool ∧ 3 < (s.region 4).tries) ∧ 5 ≤ (s.region 5).clk) ∧
    (let s : State := { regions := [(7, { reg := .on, clk := 1 })] }
     s.regions = [(7, { reg := .on, clk := 1 })] ∧ 33000000 < 33000001 ∧ s.throttle = false ∧ 33000000 ≤ 33000000 ∧ 31999999 < 32000000) ∧
    (({ hawser := true, regions := [(0, { reg := .on, clk := 3 })] } : State).hawser = true ∧ ({} : State).booted = false ∧
      ({ booted := true } : State).booted = true) := by
  (repeat' refine And.intro ?_ ?_) <;> decide +kernel

/-- A frame that the quays hear, one that is stale, one that was answered; a queue, a page at its last byte, a reserve of one page, a team. -/
def sampleFrame (adm : Bool) : Frame :=
  { part := 2, adm := adm, reqid := 9, sender := 1, counter := 5, tagOk := true, key := if adm then .admin else .rpc 2 true }
def hostState : State :=
  { launchState (queued 2 2 []) with
    booted := true, nonces := [(1, 4)],
    ctxs := [(1, { exist := true, part := 2, reserve := 1, pages := [{ base := 0, log := 16, net := false, target := 0, r := true, w := true }] }), (3, { exist := true, part := 2 })],
    parts := [(2, { quarters := [0], windows := [(0, 0x10000, 0x10000)] })],
    teams := [{ ctx := 3, tag := 0, phase := .docked }] }

theorem witness_HostCommandsAreAnswered :
    (hostState.booted = true ∧ frameOk (sampleFrame false) = true ∧ authentic (sampleFrame false) = true ∧ hostState.stale (sampleFrame false) = false ∧
      (hostState.partOf 2).cache = [] ∧ hostState.holding (sampleFrame true) = false ∧ hostState.stale { sampleFrame true with counter := 4 } = true) ∧
    (let s : State := { hostState with parts := [(2, { cache := [(9, { words := [1, 2, 3], payload := [4] })] })] }
     (s.partOf 2).cache.find? (fun c => c.1 == (9 : BitVec 64)) = some (9, { words := [1, 2, 3], payload := [4] })) ∧
    (let s := hostState
     let pkt := samplePacket 2 2 []
     s.owns 2 1 = true ∧ s.owns 2 4 = false ∧ (s.region 0).reg = .on ∧ (s.region 63).reg ≠ .on ∧ pkt.quay ≤ 63 ∧ pkt.w % 2 = 0 ∧ pkt.h % 2 = 0 ∧
       pkt.w ≠ 0 ∧ pkt.h ≠ 0 ∧ pkt.preds.length ≤ 8 ∧ ModuleImageOk pkt.image (pkt.w * pkt.h) = true ∧ (s.ctx 1).releasing = [] ∧ s.tooLarge 2 pkt = false ∧
       s.predsState { id := 0, reqid := 9, part := 2, pkt := pkt } ≠ .failed ∧
       s.predsState { id := 0, reqid := 9, part := 2, pkt := samplePacket 2 2 [9] } = .failed) ∧
    (let s := hostState
     (s.ctx 1).missing 0xFFFF 1 = [] ∧ ((s.ctx 1).missing 0xFFFF 2).length ≤ (s.ctx 1).reserve ∧ (s.ctx 1).edge.wf = true ∧ (s.ctx 1).edgePoison = [] ∧
       (∀ t ∈ s.teams, t.ctx ≠ 1) ∧ s.team? 1 0 = none ∧ s.team? 3 0 = some { ctx := 3, tag := 0, phase := .docked } ∧ s.owns 2 3 = true ∧
       (s.partOf 2).windows[0]? = some (0, 0x10000, 0x10000) ∧ (s.partOf 2).net.wf = true ∧ (s.ctx 4095).exist = false) ∧
    (let e : ErrRecord := { kind := 6, hnd := 1, site := 0, gen := 0, cyc := 0, part := 2, count := 0, h0 := 0, h1 := 0 }
     let r : TraceRecord := { hnd := 1, site := 0, cyc := 0, w3 := 0, part := 2 }
     let s : State := { hostState with regions := [(0, { reg := .on, errLog := [e], trace := [r] })], parts := [] }
     (s.region 0).errLog = [e] ∧ e.part = (sampleFrame true).part ∧ (s.region 0).trace = [r] ∧ r.part = (sampleFrame true).part ∧
       ({ e with part := 3 } : ErrRecord).part ≠ (sampleFrame true).part ∧ s.parts = [] ∧ s.usable 3 = true) := by
  (repeat' refine And.intro ?_ ?_) <;> decide +kernel

/-! ### The machine -/

/-- An ADD at the last place from which five words can be read, an undefined word there, and a move that waits, with its place and without. -/
def stepState (bs : Memory) : State := { core := { coreWith [] with pc := 0x7FFF6, active := true }, tile := { slice := bs } }

theorem witness_StepRunsTheDecodedInstruction :
    (let s := stepState [(0x7FFF6, 0x53), (0x7FFF7, 0x08)]
     s.agenda = [] ∧ s.turn = false ∧ s.issues = true ∧ s.clear = true ∧ s.tile.flips = [] ∧ s.core.pc.toNat + 10 ≤ 0x80000 ∧
       (∀ j < 10, s.tile.poison.contains ((s.core.pc.toNat + j) / 32) = false) ∧
       decode ((List.range 5).map fun k =>
         (s.tile.slice.read (s.core.pc.toNat + 2 * k)).toNat + 256 * (s.tile.slice.read (s.core.pc.toNat + 2 * k + 1)).toNat) =
         .instr (.add 1 2 3) 1) ∧
    (let s := stepState [(0x7FFF6, 0x01)]
     s.issues = true ∧ s.clear = true ∧ ∃ why k, decode ((List.range 5).map fun k =>
         (s.tile.slice.read (s.core.pc.toNat + 2 * k)).toNat + 256 * (s.tile.slice.read (s.core.pc.toNat + 2 * k + 1)).toNat) = .ill why k) ∧
    (let m : Move := { place := some (.grid 255 255, .comp), ev := .scrubTick }
     let s : State := { agenda := [m, { place := none, ev := .governorTick 0 }] }
     s.agenda = m :: [{ place := none, ev := .governorTick 0 }] ∧ m.ev.isEvent = true ∧ m.ev.wf = true ∧ (Instr.governorTick 0).isEvent = true ∧
       (Instr.governorTick 0).wf = true) := by
  refine ⟨by decide +kernel, ⟨by decide +kernel, by decide +kernel, _, _, rfl⟩, by decide +kernel⟩

/-- The reset state is canonical and steps. -/
theorem witness_EveryStepKeepsMemoriesCanonical : State.reset.canon ∧ nextIs (step State.reset) (fun _ => true) = true :=
  ⟨reset_canon, by decide +kernel⟩

/-- A bundle of five words with every operand at an end of its range, its words, and an event. -/
theorem witness_DecodingAnEncodedInstructionGivesItBack :
    (Instr.ldw 15 15 (2 ^ 26 - 1) (some { ord := .acq, scope := .wafer })).wf = true ∧
    (match encode (.ldw 15 15 (2 ^ 26 - 1) (some { ord := .acq, scope := .wafer })) with
     | some ws => decide (decode ws = .instr (.ldw 15 15 (2 ^ 26 - 1) (some { ord := .acq, scope := .wafer })) ws.length)
     | none => false) = true ∧
    Instr.scrubTick.isEvent = true ∧ (Instr.add 0 0 0).isEvent = false ∧ (Instr.add 0 0 0).wf = true := by
  (repeat' refine And.intro ?_ ?_) <;> decide +kernel
/-! ### Small steps: the worked examples of the spec -/

/-- 03, after R71: the high halves and the low half of -2 times 3. -/
theorem test_mul_example :
    (let s := on .stage [(1, 0xFFFFFFFFFFFFFFFE), (2, 3)]
     nextIs (exec (.mulh 3 1 2) s) (fun t => t.S 3 == 0xFFFFFFFFFFFFFFFF) && nextIs (exec (.mulhu 3 1 2) s) (fun t => t.S 3 == 2) &&
       nextIs (exec (.mul 3 1 2) s) (fun t => t.S 3 == 0xFFFFFFFFFFFFFFFA)) = true := by decide +kernel

/-- A divide followed by its completion in entry 0. -/
def divided (i : Instr) (s : State) (f : State → Bool) : Bool := nextIs (exec i s) fun t => nextIs (execDivideComplete 0 t) f

/-- 03, after R73: the smallest 32-bit number by -1, and a divisor whose low half is 0. -/
theorem test_divw_example :
    (let s := on .stage [(1, 0x80000000), (2, 0xFFFFFFFFFFFFFFFF)]
     divided (.divw 3 1 2) s (fun t => t.S 3 == 0xFFFFFFFF80000000) && divided (.remw 3 1 2) s (fun t => t.S 3 == 0)) = true ∧
    nextIs (exec (.divw 3 1 2) { on .stage [(1, 1), (2, 0x100000000)] with core :=
      { coreWith [(1, 1), (2, 0x100000000)] with sr := { tvec := 0x80000 } } }) (fun t => t.core.tr.level.val == 1 && t.core.tr.tva1 == 0x100) = true := by
  decide +kernel

/-- 03, after R85: DIV captures its operands at issue. -/
theorem test_div_captures :
    nextIs (exec (.div 4 1 2) (on .stage [(1, 100), (2, 7)])) (fun t => nextIs (exec (.addi 1 1 1) t) fun u =>
      nextIs (exec (.add 5 4 0) u) (fun v => v.core.pc == u.core.pc) &&
      nextIs (exec (.divideComplete 0) u) fun v => nextIs (exec (.add 5 4 0) v) fun w => w.S 5 == 14 && w.S 1 == 101) = true := by decide +kernel

/-- 03, after R77: a field taken and put, and one cut off at bit 63. -/
theorem test_bits_example :
    (let s := on .stage [(1, 0xABCD1234), (2, 0x080C), (3, allOnes), (4, 0x083C)]
     nextIs (exec (.bext 5 1 2) s) (fun t => t.S 5 == 0xD1) && nextIs (exec (.bins 3 1 2) s) (fun t => t.S 3 == 0xFFFFFFFFFFF34FFF) &&
       nextIs (exec (.bext 5 1 4) s) (fun t => t.S 5 == 0)) = true := by decide +kernel

/-- 03, after R81: the pointer of the table, moved down, up to the limit, and past it. -/
theorem test_pointer_example :
    (let s := { on .stage [(1, 0x10400), (2, 0x51), (3, 0xFFFFFFFFFFFFFB00), (4, 0x70100), (5, 1)] with core :=
       { coreWith [(1, 0x10400), (2, 0x51), (3, 0xFFFFFFFFFFFFFB00), (4, 0x70100), (5, 1)] with sr := { tvec := 0x80000 } } }
     nextIs (exec (.pmk 6 1 2) s) fun t => t.S 6 == 0x1000050000010400 && nextIs (exec (.padd 6 6 3) t) fun u => u.S 6 == 0x100005000000FF00 &&
       nextIs (exec (.padd 6 6 4) u) fun v => v.S 6 == 0x1000050000080000 &&
         nextIs (exec (.padd 6 6 5) v) fun w => w.S 6 == v.S 6 && w.core.tr.tva1 == 0x1000050000080000) = true := by decide +kernel

/-- 04, after R93: LOOP from 2 branches, from 1 falls through; CALL kills s4 to s7. -/
theorem test_loop_call_example :
    (nextIs (exec (.loop 2 (-4)) (on .stage [(2, 2)])) (fun t => t.S 2 == 1 && t.core.pc == 0xF8) &&
      nextIs (exec (.loop 2 (-4)) (on .stage [(2, 1)])) (fun t => t.S 2 == 0 && t.core.pc == 0x102) &&
      nextIs (exec (.call 0x80) (on .stage [(3, 9), (4, 1), (7, 1), (8, 6)])) (fun t => t.S 15 == 0x102 && t.core.pc == 0x200 && t.S 3 == 9 &&
        t.S 4 == 0 && t.S 7 == 0 && t.S 8 == 6)) = true := by decide +kernel

/-- 05, after R120: an index that scales, and one that leaves the space. -/
theorem test_ldx_example :
    (let s := { on .stage [(4, 0x1000), (5, 0xFFFFFFFFFFFFFFFE), (6, 0xFFFFFFFFFFFFFBFF)] { slice := sliceOf [(0xFF8, 0x80000001)] } with core :=
       { coreWith [(4, 0x1000), (5, 0xFFFFFFFFFFFFFFFE), (6, 0xFFFFFFFFFFFFFBFF)] with sr := { tvec := 0x80000 } } }
     nextIs (exec (.ldxs .w 3 4 5 none) s) (fun t => t.S 3 == 0xFFFFFFFF80000001) && nextIs (exec (.ldx .w 3 4 5 none) s) (fun t => t.S 3 == 0x80000001) &&
       nextIs (exec (.ldx .w 3 4 6 none) s) (fun t => t.core.tr.tva1 == 0x1000 && t.core.tr.tca1.toNat % 32 == causeCode .bnd)) = true := by
  decide +kernel

/-- A row of 32-bit lanes. -/
def lanes32 (l : List Nat) : RowVal := { bits := BitVec.ofNat 512 (l.foldr (fun v n => v + 2 ^ 32 * n) 0) }

/-- 10, after R260: LOG2 of 0, 8, 1 and -1, and the flags NV and DZ. -/
theorem test_vuna_log2_example :
    nextIs (exec (.vunaLog2 .f32 8 0 {}) (rowState (lanes32 [0, 0x41000000, 0x3F800000, 0xBF800000]) {} {})) (fun t =>
      ([0, 1, 2, 3] : List Nat).map (fun j => bitField 32 (t.core.rowVal (.o 0) 4 0).bits j) == [0xFF800000, 0x40400000, 0, 0x7FC00000] &&
        t.core.sr.ffl.getLsbD 0 && t.core.sr.ffl.getLsbD 1) = true := by decide +kernel

/-- 10, after R261: the pairwise sum of 2^24 and fifteen 1.0, to nearest and upward; the rest of the row is 0. -/
theorem test_vred_sum_example :
    (let r := lanes32 (0x4B800000 :: List.replicate 15 0x3F800000)
     nextIs (exec (.vredSum .f32 8 0 {}) (rowState r { bits := allOnes.zeroExtend 512 } {})) (fun t => t.core.rowVal (.o 0) 4 0 == { bits := 0x4B800007 }) &&
       nextIs (exec (.vredSum .f32 8 0 {}) { rowState r {} {} with core := { (rowState r {} {}).core with sr := { fctl := 2 } } })
         (fun t => t.core.rowVal (.o 0) 4 0 == { bits := 0x4B800008 })) = true := by decide +kernel

/-- 10, after R263: ties on the way to bf16, into the upper part; the lower one stays. -/
theorem test_vcvt_example :
    nextIs (exec (.vcvt .bf16 .f32 8 0 { c := 1 }) (rowState (lanes32 [0x3F808000, 0x3F818000]) { bits := 0x1234 } {})) (fun t =>
      ([0, 16, 17] : List Nat).map (fun j => bitField 16 (t.core.rowVal (.o 0) 4 0).bits j) == [0x1234, 0x3F80, 0x3F82]) = true := by decide +kernel

/-- 11, after R283 and R282: the row of the example, quantised in part 2 and read back. -/
def exampleTile : TileReg :=
  { live := true, rows := vput (Vector.replicate 16 {}) 8 (lanes32 [0x40D00000, 0x3F800000, 0x40533333, 0x80000000, 0x38D1B717]) }

theorem test_qnt_example :
    (let r := qntResult { t6 := false, bf16 := false } 2 exampleTile.bytes
     ([0, 1, 2, 3, 4] : List Nat).map (bitField 8 r.1.bits) == [0x4A, 0x20, 0x3A, 0, 0] && r.2.1 == 0x202 &&
       ((dqnElems { t6 := false, bf16 := false } 0x202 r.1).take 3).map (fun e => e.1.bits) == [0x40D00000, 0x3F800000, 0x40500000]) = true := by
  decide +kernel

/-- 11, after R284: two blocks with scales 2 and 0. -/
theorem test_baq_example :
    (let r := baqResult 0x000000FE00050200 { bits := 0x204A } { bits := 0xC04A }
     r.1 == { bits := 0x40 } && r.2.1 == 0x300) = true := by decide +kernel

/-- 12, after R299: thirty-two products of 1.0 onto 2^24. -/
theorem test_mma_example :
    (let ones : List PByte := (List.replicate 32 [((0x80 : Byte), false), (0x3F, false)]).flatten
     (mulElem .bf16 false (0x4B800000, false) (MFmt.row .bf16 ones) (MFmt.row .bf16 ones) (MFmt.scales .bf16 [] 0) (MFmt.scales .bf16 [] 0)).bits == 0x4B800010) = true := by decide +kernel

/-- 13, after R320 and R322: sums and products of (1, 4) and (2, 9) under three correlations, and a variance of -3. -/
theorem test_moment_example :
    (let x : KPair := { m := 0x3F800000, v := 0x40800000 }
     let y : KPair := { m := 0x40000000, v := 0x41100000 }
     let r := (fun (r : KRes) => (r.m, r.v))
     r (kAddSub false 0 x y) == (0x40400000, 0x41500000) && r (kAddSub false 0x3F800000 x y) == (0x40400000, 0x41C80000) &&
       r (kAddSub false 0x3F000000 x y) == (0x40400000, 0x41980000) && r (kMul 0 x y) == (0x40000000, 0x42740000) &&
       r (kMul 0x3F800000 x y) == (0x41000000, 0x42F20000)) = true ∧
    (kVsub { m := 0x40400000, v := 0x41500000 } { m := 0x40000000, v := 0x41800000 }).neg = true := by decide +kernel

/-- 13, after R324: the rectifier at the mean 0 and the variance 1. -/
theorem test_knl_relu_example :
    (let r := kNl .relu { m := 0, v := 0x3F800000 }
     r.m == 0x3ECC422A && r.v == 0x3EAE833F) = true := by decide +kernel

/-! ### Further clauses of the obligations -/

/-- A leased sector at the end of rank 1's slice. -/
def heldLease : Lease := { x := 1, y := 0, sector := 16383, bytes := List.replicate 32 1, bad := false }

/-- An atomic on the last 8 bytes of rank 1, without a lease and with one; pages of EDGE and of NET space, the last 8 bytes of a sector in them. -/
theorem witness_RemoteAccessesTravel_far :
    (let p : Word := 0x100001000007FFF8
     let s := on .stage [(1, p), (2, 5)] { pairTile with leases := [heldLease] }
     s.core.still = true ∧ s.linkFree ∧ s.peer.link.retry = [] ∧ s.core.stopped = false ∧ s.core.tr.fwd = none ∧ ea (s.S 1) 0 = some p ∧
       ptrSpace p = 1 ∧ ptrRank p ≠ s.tile.rank ∧ s.tile.placement[ptrRank p]? = some { hnd := 8, x := 1, y := 0 } ∧ ptrOfs p + 8 ≤ 0x80000 ∧
       ptrOfs p % 8 = 0 ∧ s.tile.leases = [heldLease] ∧ heldLease.x = 1 ∧ heldLease.y = 0 ∧ heldLease.sector = ptrOfs p / 32 ∧
       heldLease.bytes.length = 32 ∧ heldLease.bad = false ∧ heldLease.recalled = false) ∧
    (∀ net : Bool,
      let p : Word := if net then 0x4000000000000018 else 0x2000000000000018
      let g : Page := { page0 with net := net }
      let s := on .stage [(1, p), (2, 5)] { owned := true, tlb := [g] }
      s.core.still = true ∧ s.linkFree ∧ ea (s.S 1) 0 = some p ∧ ptrSpace p = (if net then 4 else 2) ∧ ptrOfs p + 8 ≤ spaceLimit (ptrSpace p) ∧
        s.tile.tlb.find? (fun h => h.covers net (ptrOfs p)) = some g ∧ ptrOfs p % 32 + 8 ≤ 32 ∧ g.r = true ∧ g.w = true ∧
        s.tile.modes.paired = false ∧ ptrOfs p % 8 = 0) := by
  simp only [State.linkFree]; decide +kernel

/-- Reserved bits of the two forms of routing scalars; a compute core. -/
theorem witness_SendsInjectTheirMessage_traps :
    (let s := on .stage [(1, 0x4000000008), (2, 0x40000000009), (3, 0x20000000008), (4, 0x100000008)] pairTile
     s.core.still = true ∧ s.sel = .stage ∧ (s.S 1 >>> 38) &&& 7 ≠ 0 ∧ s.S 2 >>> 42 ≠ 0 ∧ s.S 3 >>> 41 ≠ 0 ∧ (s.S 4 >>> 32) &&& 15 ≠ 0 ∧
       rankOf ((s.S 2).truncate 32) s.tile.placement 0 = none ∧ rowSel s.sel 3 15 false 0 ≠ .ill ∧ rowSel s.sel 3 15 false 0 ≠ .rgf) ∧
    ((on .comp []).core.still = true ∧ (on .comp []).sel = .comp) := by decide +kernel

theorem witness_AnswersReachTheRetryBuffer_kill : (((answered .reject).1).ctx ((answered .reject).1).tile.ctx).killing = false := by
  simp [answered, State.ctx, Tab.get, Tab.find]

/-- An atomic that may be leased at the last sector, which nobody knows; a read of a leased sector; a load and a store of the home there. -/
theorem witness_AtomicsAndLeasesAtHome_grants :
    (let p := packetOf 1 (.atomic .add false true 0x7FFF8 1 0)
     let s := receiving p 0 0
     s.arrives p ∧ p.vc = 1 ∧ s.tile.leaseDir = [] ∧ s.tile.poison = [] ∧ s.tile.flips = [] ∧ s.tile.slice.wf = true ∧ s.tile.predictor = [] ∧
       s.tile.heldWrite 0x7FFF8 (plain (leBytes 8 0)) = false ∧ atomNew .add 8 0 (1 : Word).toNat (0 : Word).toNat = some 1) ∧
    (let l : LeaseDir := { sector := 16383, x := 1, y := 0 }
     let p := packetOf 1 (.read 0 0x7FFF8 8)
     let s : State := { receiving p 0 0 with tile := { (receiving p 0 0).tile with leaseDir := [l] } }
     s.arrives p ∧ s.tile.leaseDir = [l] ∧ l.recalled = false ∧ (sectors 0x7FFF8 8).contains l.sector = true) ∧
    (let l : LeaseDir := { sector := 16383, x := 1, y := 0 }
     let s := on .stage [(1, 0x7FFF8)] { owned := true, leaseDir := [l] }
     s.core.still = true ∧ ea (s.S 1) 0 = some 0x7FFF8 ∧ ptrSpace (0x7FFF8 : Word) = 0 ∧ ptrOfs (0x7FFF8 : Word) + 8 ≤ 0x80000 ∧
       s.tile.leaseDir = [l] ∧ l.recalled = false ∧ (sectors (ptrOfs (0x7FFF8 : Word)) 8).contains l.sector = true ∧
       (∀ h : Ring, (s.tile.rings[h]).held = 0) ∧ s.tile.heldExt = []) := by
  exact ⟨⟨receiving_arrives _ _ _ _, rfl, rfl, rfl, rfl, rfl, rfl, by decide, by decide +kernel⟩,
    ⟨receiving_arrives 1 (.read 0 0x7FFF8 8) 0 0, rfl, rfl, by decide +kernel⟩, by decide +kernel⟩

/-- More slots than the ring has. -/
theorem witness_CopiesArePosted_short :
    (let s := copyState [0x70000, 7, 64, 0] { base := 0, nslot := 63 }
     s.tile.leaseDir = [] ∧ at8 s 1 = BitVec.ofNat 64 (7 : Ring).val ∧ (at8 s 2).toNat < 128 ∧ ptrOfs (at8 s 0) + 1024 * (at8 s 2).toNat ≤ 0x80000 ∧
       (s.tile.rings[(7 : Ring)]).nslot.toNat < (at8 s 2).toNat) := by decide +kernel

theorem witness_StorageCommandsArePostedAndComplete_copies :
    (kvState 0 0).tile.leaseDir = [] ∧ (kvState 0 0).hawser = false ∧
    (let k : KvOp := { hnd := 7, core := .stage, tag := 5, ctx := 0, op := 0, base := 0x10000, len := 0x1000, maxKeys := 0 }
     k.sh = none ∧ k.void = false ∧ ({ k with void := true } : KvOp).void = true) ∧
    collState.tile.leaseDir = [] ∧ collState.hawser = false := ⟨rfl, rfl, ⟨rfl, rfl, rfl⟩, rfl, rfl⟩

/-- The smallest and the greatest finite numbers of each format, of both signs; pairs of finite numbers, with a variance of 0 and one that the square
of the mean exceeds 64 times. -/
theorem witness_ElementFunctionsMeetTheirFormulas :
    ([f32, bf16, f16] : List Fmt).all (fun m =>
      ([1, m.inf false - 1, m.signBit + 1, m.inf true - 1] : List Nat).all (fun v =>
        decide (v < 2 ^ m.width) && decide (v % m.signBit < m.inf false) && decide ((m.decode v).dy.m ≠ 0)) &&
      decide (0 < (m.decode 1).dy.m)) = true ∧
    (let x : KPair := { m := 0x41000000, v := 0x3F800000 }
     let y : KPair := { m := 0xFF7FFFFF, v := 0x40000000 }
     (0 : Nat) % 2 ^ 31 = 0 ∧ x.bad = false ∧ y.bad = false ∧ (0x80000000 : Nat) % 2 ^ 31 = 0 ∧
       ([x.m, x.v, y.m, y.v] : List Nat).all (fun n => decide (n < 2 ^ 32) && decide (n % 2 ^ 31 < 0x7F800000)) = true ∧
       0 ≤ ((f32.decode y.v).dy.sub (f32.decode x.v).dy).m ∧ ((f32.decode x.v).dy.sub (f32.decode y.v).dy).m < 0 ∧ x.v < 2 ^ 31 ∧ 0 < x.v ∧
       ((f32.decode x.m).dy.mul (f32.decode x.m).dy).lt ((f32.decode x.v).dy.scale 6) = false) := by decide +kernel

/-- The middle iteration of three, of an entry of this kind. -/
def midEntry (kind : BitVec 4) (next : BitVec 16) (w1 w2 : Word) : Entry :=
  { v := true, kind := kind, bofs := 0x100, next := next, count := 3, w1 := w1, w2 := w2, issuing := true }
def midState (k : CoreSel) (e : Entry) (l : List (SReg × Word)) (t : Tile := {}) : State :=
  { on k l t with core := { coreWith l with rq := vput (Vector.replicate 8 {}) 0 e } }

theorem midState_mid (k : CoreSel) (kind : BitVec 4) (next : BitVec 16) (w1 w2 : Word) (l : List (SReg × Word)) (t : Tile)
    (h : (midState k (midEntry kind next w1 w2) l t).core.issuing = some 0)
    (hu : (coreWith l).unit.ops = [] ∧ (coreWith l).unit.kept = [] ∧ (coreWith l).link.retry = [] ∧ (coreWith l).link.vc0 = []) :
    (midState k (midEntry kind next w1 w2) l t).midRep := by
  refine ⟨h, ?_, hu.1, hu.2.1, hu.2.2.1, hu.2.2.2⟩
  intro n hn
  have : ∀ e : Entry, ∀ n : Fin 8, n ≠ 0 → ((vput (Vector.replicate 8 ({} : Entry)) 0 e)[n]).v = false := by
    intro e n
    fin_cases n <;> intro hn <;> first | rfl | exact absurd rfl hn
  exact this _ n hn

/-- Rows that step from 0x7FF40 to the end of the slice: the second and the third iteration, with counts 0, 3 and 65,536 in s3. -/
theorem witness_RepeatedBundlesIterate_rows :
    (let s := on .stage [(1, 0x7FF40), (2, allOnes), (3, 3), (4, 65536), (5, 0)]
     s.core.still = true ∧ s.repeats (.reg 3) = 3 ∧ s.repeats (.reg 5) = 0 ∧ 65535 < s.repeats (.reg 4) ∧ s.isFarPtr (s.S 1) = false ∧ s.sel = .stage ∧
       s.orderReady none = true ∧ s.tile.slice.wf = true ∧
       ∀ k ∈ [0, 1, 2], s.memRow 2 { rep := .reg 3, base := 12, bank := false } k ≠ .ill ∧ s.memRow 2 { rep := .reg 3, base := 12, bank := false } k ≠ .rgf ∧
         ea (s.S 1) (0 + (64 * k : Nat)) = some (0x7FF40 + BitVec.ofNat 64 (64 * k)) ∧ ptrOfs ((0x7FF40 : Word) + BitVec.ofNat 64 (64 * k)) + 64 ≤ 0x80000 ∧
         ptrOfs ((0x7FF40 : Word) + BitVec.ofNat 64 (64 * k)) % 32 = 0) ∧
    (∀ next ∈ [(1 : BitVec 16), 2], (midState .stage (midEntry 5 next 0x7FF40 allOnes) [(3, 3)]).midRep ∧
      (midEntry 5 next 0x7FF40 allOnes).kind.toNat = 5 ∧ (midEntry 5 next 0x7FF40 allOnes).next.toNat < (midEntry 5 next 0x7FF40 allOnes).count.toNat) := by
  refine ⟨by decide +kernel, ?_⟩
  intro next h
  have h' : next = 1 ∨ next = 2 := by simpa using h
  rcases h' with rfl | rfl <;> exact ⟨midState_mid _ _ _ _ _ _ _ (by decide +kernel) (by decide), by decide, by decide⟩

/-- Messages that iterate; a ring with three free slots, one with three filled. -/
theorem witness_RepeatedBundlesIterate_messages :
    (let s := on .stage [(1, 0x23F00000008), (2, 5), (3, 3), (4, 0x1C000000008)] pairTile
     s.core.still = true ∧ s.linkFree ∧ rankOf ((s.S 1).truncate 32) s.tile.placement 0 = some (1, { hnd := 8, x := 1, y := 0 }) ∧
       s.tile.plCache.contains 1 = true ∧ s.S 1 >>> 42 = 0 ∧ (s.S 1 >>> 38) &&& 7 = 0 ∧ s.S 4 >>> 41 = 0 ∧ (s.S 4 >>> 32) &&& 15 = 0 ∧
       s.orderReady none = true ∧ ∀ k ∈ [0, 1, 2], rowSel s.sel 3 12 false k ≠ .ill ∧ rowSel s.sel 3 12 false k ≠ .rgf) ∧
    (let s := ringState .stage (ringOf 64 61 60 63) [(3, 3)]
     s.core.still = true ∧ s.tile.flips = [] ∧ s.tile.leaseDir = [] ∧ s.core.acquiring = false ∧
       (s.core.rpsh.filter (·.ring == 0)).length < (s.tile.rings[(0 : Ring)]).nslot.toNat - (s.tile.rings[(0 : Ring)]).fill.toNat) ∧
    (let s := ringState .comp (ringOf 64 3 63 2) [(3, 3)]
     s.core.still = true ∧ s.tile.flips = [] ∧ s.tile.leaseDir = [] ∧ s.tile.poison = [] ∧ s.core.acquiring = false ∧
       (s.tile.rings[(0 : Ring)]).nslot ≠ 0 ∧ (s.tile.rings[(0 : Ring)]).held = 0 ∧ Nat.max (1 : Fin 16).val 1 ≤ (s.tile.rings[(0 : Ring)]).fill.toNat) ∧
    ((midState .comp (midEntry 2 1 0 0) [(3, 3)]).midRep ∧ (midState .stage (midEntry 5 1 0 0) [(3, 3)]).midRep) := by
  refine ⟨⟨by decide +kernel, ⟨rfl, rfl, rfl⟩, by decide +kernel, by decide +kernel, by decide +kernel, by decide +kernel, by decide +kernel,
    by decide +kernel, by decide +kernel, by decide +kernel⟩, by decide +kernel, by decide +kernel,
    midState_mid _ _ _ _ _ _ _ (by decide +kernel) (by decide), midState_mid _ _ _ _ _ _ _ (by decide +kernel) (by decide)⟩

/-- i8 with two slots in each ring; groups of one B slot each at the end of the slice; slots without a variance below zero; counts 2 and 3. -/
theorem witness_RepeatedBundlesIterate_units :
    (let s := unitState (ringOf 2 2 1 1) (ringOf 64 64 62 62) { fmta := 3, fmtb := 3, gtb := 0x7FFC0 } [(0x7FFD0, 1), (0x7FFF0, 1)]
     s.unitFree ∧ s.tile.flips = [] ∧ s.tile.poison = [] ∧ s.tile.leaseDir = [] ∧ s.repeats (.imm 2) = 2 ∧ s.repeats (.imm 3) = 3 ∧
       (let ra := s.tile.rings[(0 : Ring)]
        let rb := s.tile.rings[(1 : Ring)]
        let e (k : Nat) : Nat := s.core.sr.gtb.toNat + 32 * ra.slotNo k
        let g (k : Nat) : Nat := (s.tile.slice.read (e k + 16)).toNat
        ra.head.toNat < ra.nslot.toNat ∧ rb.head.toNat < rb.nslot.toNat ∧ 1 + Nat.max 1 1 ≤ ra.fill.toNat ∧ 1 + Nat.max 15 1 ≤ rb.fill.toNat ∧
          s.core.sr.gtb.toNat % 32 = 0 ∧ s.core.sr.gtb.toNat + 32 * ra.nslot.toNat ≤ 0x80000 ∧
          (∀ k < 2, groupOk (s.tile.slice.readMany (e k) 32) = true) ∧ Nat.max 15 (g 0) ≤ rb.fill.toNat ∧
          g 0 + Nat.max 15 (g 1) ≤ rb.fill.toNat) ∧
       ((upto 16).all fun i => (upto 16).all fun j => !((s.core.acc 7).elem i j).2) = true) ∧
    (unitState {} {} { gtb := 0 }).repeats (.imm 0) = 0 ∧ 65535 < (on .comp [(1, 65536)]).repeats (.reg 1) := by
  simp only [State.unitFree]
  (repeat' refine And.intro ?_ ?_) <;> decide +kernel

/-- Clean sources with an ordinary scale and with that of NaR. -/
theorem witness_NarrowFormsAreConverted_blocks :
    (let s := rowState {} {} {} [(3, 0x80000), (4, 0)]
     (s.core.rowVal (rowSel s.sel 8 0 false 0) 8 0).bad = 0 ∧ scaleByte (s.S 3) 1 = 0x08 ∧ scaleByte (s.S 4) 0 ≠ 0x80 ∧
       scaleByte (0x8000 : Word) 0 = 0x80 ∧
       (∀ j < (NarrowSel.taper { t6 := false, bf16 := false }).count, (tileElem (s.core.T 1).bytes 4 ((NarrowSel.taper { t6 := false, bf16 := false }).count * 0 + j)).2 = false)) := by
  (repeat' refine And.intro ?_ ?_) <;> decide +kernel

/-- A quad whose cores hold each an MMQ of i8 that is ready, with its first slots. -/
def readyQuad : State := quadState { quadOp false with na := 1, nb := 1, ent := 0 } { quadOp false with na := 1, nb := 1, ent := 0 }

theorem witness_MatricesMultiplyAloneAndInQuads_product :
    (let s := readyQuad
     let id (m : Fin 4) : TileId := .grid (2 * 0 + m.val % 2) (2 * 0 + m.val / 2)
     let u : UnitOp := { quadOp false with na := 1, nb := 1, ent := 0 }
     s.tile.id = id 0 ∧ (s.allTiles.map (·.tile.id)).Nodup ∧ (3 : Word).toNat ≤ 3 ∧
       (∀ m, (s.tileAt (id m)).tile.mqn = 0 ∧ (s.tileAt (id m)).tile.flips = [] ∧ (s.tileAt (id m)).tile.poison = [] ∧
         (s.tileAt (id m)).tile.leaseDir = [] ∧ (s.tileAt (id m)).comp.tr.deferred = none ∧ (s.tileAt (id m)).comp.injMat = false ∧
         (s.tileAt (id m)).comp.upset = 0 ∧ (s.tileAt (id m)).comp.unit.ops = [u] ∧
         ((s.tileAt (id m)).tile.rings[(0 : Ring)]).head.toNat < ((s.tileAt (id m)).tile.rings[(0 : Ring)]).nslot.toNat ∧
         ((s.tileAt (id m)).tile.rings[(1 : Ring)]).head.toNat < ((s.tileAt (id m)).tile.rings[(1 : Ring)]).nslot.toNat ∧
         ((s.tileAt (id m)).comp.rq[(0 : Fin 8)]).issuing = false ∧ ((s.tileAt (id m)).comp.rq[(0 : Fin 8)]).resume = false) ∧
       u.op = .mmq 0 0 1 0 0 ∧ u.started = false ∧ u.stuck = false ∧ u.forced = false ∧ u.step = 0 ∧ u.fmta = 3 ∧ u.fmtb = 3 ∧ u.ua = 0 ∧ u.ub = 0 ∧
       u.na = 1 ∧ u.nb = 1 ∧ u.a = [] ∧ u.b = [] ∧ u.sca = [] ∧ u.scb = [] ∧ u.ent = 0) ∧
    ((upto 8).all fun n => (upto 16).all fun i => (upto 16).all fun j => !(((readyQuad.compOf (.grid 1 1)).acc n).elem i j).2) = true ∧
    (let s : State := { sel := .comp, core := { coreWith [] with sr := { fmta := 2, fmtb := 2, scla := 0x7E000, sclb := 0x7DF80 } }, tile := quadTile 0 0 }
     s.core.sr.fmta.toNat ≤ 3 ∧ s.core.sr.scla.toNat % 128 = 0 ∧ s.core.sr.sclb.toNat % 128 = 0 ∧ s.core.sr.scla.toNat + 128 * 1 ≤ 0x80000 ∧
       s.core.sr.sclb.toNat + 128 * 64 ≤ 0x80000 ∧ s.tile.flips = [] ∧ s.tile.leaseDir = []) := by
  (repeat' refine And.intro ?_ ?_) <;> decide +kernel

/-- A kill that begins, and one in progress; a forwarded trap on a core that has stopped. -/
theorem witness_TrapsAreTakenAndReturned_kill :
    (trapState 2 0x80000).ctxs = [] ∧ ((trapState 2 0x80000).ctx 0).killing = false ∧
    (({ trapState 2 0x80000 with ctxs := [(0, { killing := true })] } : State).ctx 0).killing = true ∧
    ({ coreWith [] with stopped := true, tr := { fwd := some { cause := .swt, pc := 0, va := 0 } } } : Core).stopped = true ∧
    (regionState.onlyIssued { regionState with core := regionState.core.setS 1 6 }) = false := by
  refine ⟨rfl, by decide, by decide, rfl, by decide +kernel⟩

/-- An unmapped page with one in the reserve, a mapped page that nothing uses, a list of two members that agreed, a core of another tile. -/
theorem witness_ServicesAreAnswered_services :
    (let s := { asking 0x200000000000FFFF false with ctxs := [(0, { exist := true, reserve := 1 })] }
     ptrSpace (s.S 2) = 2 ∧ s.myCtx.page false (ptrOfs (s.S 2)) = none ∧ s.myCtx.reserve ≠ 0 ∧ s.myCtx.edge.wf = true) ∧
    (let s := asking 0x200000000000FFFF true
     s.myCtx.page false (ptrOfs (s.S 2)) = some page0 ∧ s.pageInFlight 0 page0 = false ∧ s.myCtx.edge.wf = true) ∧
    (let g : Group := { num := 63, own := 1, members := [(5, 15), (6, 0xFFFF)], agreed := true }
     let s : State := { asking 0x7FFE8 false with
       tile := { owned := true, slice := writeWords [] 0x7FFE8 [0x102, 0xF00000005, 0xFFFF00000006] }
       ctxs := [(0, { exist := true, groups := [g] })] }
     ptrSpace (s.S 2) = 0 ∧ ptrOfs (s.S 2) % 8 = 0 ∧ s.readsHere (s.S 2) (8 + 8 * g.members.length) ∧
       (s.myCtx.groups.filter fun h => h.team == s.tile.ttag && h.agreed) = [g] ∧ 2 ≤ g.members.length ∧ g.members.length ≤ 64 ∧
       g.own < g.members.length ∧ s.sliceNat (s.S 2) 8 = g.members.length + 256 * g.own ∧
       ∀ k, ∀ h : k < g.members.length, g.members[k].1 < 2 ^ 32 ∧ (g.members[k].2 < 16 ∨ k = g.own) ∧ (k = g.own ↔ g.members[k].2 = 0xFFFF) ∧
         s.sliceNat (s.S 2 + BitVec.ofNat 64 (8 + 8 * k)) 8 = g.members[k].1 + 2 ^ 32 * g.members[k].2) ∧
    (let h : FullTile := { tile := { id := .grid 1 0, owned := true, hnd := 9 } }
     let s : State := { asking 9 false with tiles := [h] }
     (s.S 2).toNat < 2 ^ 32 ∧ s.tileOf ((s.S 2).truncate 32) = some h ∧ s.tileAt h.tile.id = h ∧ (0x800012 : Word).toNat % 16 = 2 ∧
       (0xF : Word).toNat % 16 = 15) ∧
    (let s : State := { asking 0 false with core := { (asking 0 false).core with q := { q4req := [0] } } }
     s.core.q.q4req = [0] ∧ s.core.q.q4resp = [] ∧ s.core.q.q4sent = none ∧ s.core.tr.deferred = none) := by
  refine ⟨by decide +kernel, by decide +kernel, ?_, by decide +kernel, by decide +kernel⟩
  simp only [State.readsHere]
  refine ⟨by decide +kernel, by decide +kernel, by decide +kernel, by decide +kernel, by decide +kernel, by decide +kernel, by decide +kernel,
    by decide +kernel, by decide +kernel⟩

/-- A router whose row a tile stands on, and one of the quay strip; a context that is cut; a host that computes detours; retirements that wait. -/
theorem witness_FabricFailuresAreHandled_quays :
    ({} : State).logicalAt 1 0 = some 0 ∧ ({} : State).logicalAt 1 16 = none ∧ ({} : State).installing = [] ∧
    ({ linkFail := [eastLink], hostDetour := true } : State).hostDetour = true ∧
    (let s : State := { retiring := some { region := 0, col := 0, prow := 1, spare := true, writes := [] }, retireNext := [(0, 1, 1)] }
     s.retiring ≠ none ∧ (0, 2) ∉ (s.region 0).defects ∧ (0, 2) ∉ (s.region 0).lost ∧ (0, 1, 1) ∈ s.retireNext ∧ (0, 0, 2) ∉ s.retireNext) ∧
    (let s : State := { regions := [(63, { defects := [(0, 16)] })] }
     (0, 5) ∉ (s.region 63).defects ∧ (∀ e ∈ (s.region 63).defects, e.1 = 0 → e.2 = 16) ∧ s.retireNext = [] ∧
       ∀ q ∈ s.net, q.body ≠ .resend (s.routeGen + 1)) := by
  (repeat' refine And.intro ?_ ?_) <;> decide +kernel

/-- The four links of (0, 0) are down, and a context has tiles on it and beside it. -/
theorem witness_FabricFailuresAreHandled_cut :
    let u (x : Nat) : FullTile := { tile := { id := .grid x 0, owned := true, ctx := 1, ttag := 1 } }
    let down : List Link := [eastLink, { x := 1, y := 0, port := 3 }, { x := 0, y := 0, port := 1 }, { x := 0, y := 0, port := 5 }]
    let s : State := { tile := { id := .grid 9 9 }, tiles := [u 0, u 1], linkFail := down }
    eastLink ∈ s.linkFail ∧ 1 ∈ s.cutCtxs ∧ (s.ctx 1).killing = false := by decide +kernel

/-- A team that a kill stopped, all quiet, the last of its launch. -/
theorem witness_TeamsAreLaunchedAndEnded_killed :
    (let t : Team := { ctx := 1, tag := 2, launch := 5, phase := .stopping, w := 1, h := 1, rep := [0] }
     let s : State := { teams := [t], tiles := [teamTile true] }
     s.team? 1 2 = some t ∧ t.rep ≠ [] ∧ t.dockTiles = [] ∧ s.tilesOf t = [teamTile true] ∧ tileQuiet false (teamTile true) = true ∧
       (∀ v ∈ s.teams, v.launch = t.launch → v.ctx = 1 ∧ v.tag = 2)) ∧ ((teamState .stopping true true).ctx 1).killing = false ∧
    ({ launchState (queued 2 2 []) with ctxs := [(1, { modes := { hostSwap := true } })] } : State).ctx 1 = { modes := { hostSwap := true } } := by
  (repeat' refine And.intro ?_ ?_) <;> decide +kernel

/-- A module that boots: at power-on; with region 63 ramping, the last; with region 2 still OFF. -/
def bootFacts (ok : Bool) : BootFacts := { defects := [(63, (31, 33))], failedQuarters := [255], firmwareOk := ok }
def bootState (n : Nat) : State :=
  { regions := (upto 64).map fun k => (k, { reg := if k < n then .on else if k = n then .ramp else .off }), booting := some (bootFacts true) }

theorem witness_RegionsArePoweredAndClocked_boot :
    (({} : State).booted = false ∧ ({} : State).booting = none ∧ (({} : State).region 0).reg = .off) ∧
    ((bootState 63).booting = some (bootFacts true) ∧ ((bootState 63).region 63).reg = .ramp ∧ ((bootState 63).region 0).reg = .on ∧
      ((bootState 63).regions.filter fun r => r.2.reg == .ramp || r.2.reg == .cool) = [(63, (bootState 63).region 63)] ∧
      (bootFacts true).firmwareOk = true ∧ (bootFacts false).firmwareOk = false ∧ ∀ m < 64, ((bootState 63).region m).reg ≠ .off) ∧
    (((bootState 1).region 1).reg = .ramp ∧ ((bootState 1).region 2).reg = .off ∧ ∀ k < 2, ((bootState 1).region k).reg ≠ .off) := by
  (repeat' refine And.intro ?_ ?_) <;> decide +kernel

/-- A frame of another protocol, one with the wrong key; a context that is being killed; no release waits; a journal with lost charges. -/
theorem witness_HostCommandsAreAnswered_frames :
    frameOk { sampleFrame true with magic := 0 } = false ∧ frameOk (sampleFrame true) = true ∧ authentic (sampleFrame true) = true ∧
    authentic { sampleFrame false with key := .admin } = false ∧ authentic { sampleFrame true with tagOk := false } = false ∧
    (∀ c ∈ hostState.ctxs, c.2.releasing = []) ∧ (hostState.ctx 1).killing = false ∧
    (({ hostState with ctxs := [(1, { exist := true, part := 2, killing := true, killReport := [1] })] } : State).ctx 1).killing = true ∧
    (let s : State := { journals := [(3, { gapTotals := (1, 0, 0) })] }
     (s.journalOf 3).gap = false ∧ (s.journalOf 3).gapTotals ≠ (0, 0, 0) ∧ (s.journalOf 4).gapTotals = (0, 0, 0)) := by
  (repeat' refine And.intro ?_ ?_) <;> decide +kernel

/-- A page of edge memory that a module finds an uncorrectable error in. -/
theorem witness_ErrorsAreContained_module :
    let g : Page := { ctx := 1, base := 0x10000, log := 16, net := false, target := 3, frame := 0, r := true, w := true }
    let e : ModuleError := { ctx := 1, ofs := 0x1FFFF }
    let s : State := { ctxs := [(1, { exist := true, pages := [g] })] }
    (s.ctx e.ctx).page false e.ofs = some g ∧ e.copy = none ∧
      nextIs (exec (.scrubModule e) s) (fun t => (t.ctx 1).edgePoison == [0xFFF] && ((t.ctx 1).farByte none false 0x1FFE0).2) = true := by
  decide +kernel

/-- R399: the bytes of a LAUNCH for region 5, priority 1, context 0x102, 4 by 2 tiles, after launch 0x01020304; and of a READ of 0x30 bytes at
0x1_0000 of context 7. -/
theorem test_launch_payload :
    (let p : LaunchPacket := { (default : LaunchPacket) with quay := 5, prio := 1, ctx := 0x102, w := 4, h := 2, preds := [0x01020304] }
     p.head = [5, 1, 2, 1, 4, 2, 1, 0, 4, 3, 2, 1] ++ List.replicate 28 0) ∧
    rangeHead 7 0x10000 0x30 = [7, 0, 0, 0, 0, 0, 0, 0, 0, 0, 1, 0, 0, 0, 0, 0, 0x30, 0, 0, 0] := by
  decide +kernel

/-- A READ whose payload names its range, and the same with another offset in its operands, or with a LEN that is short. -/
theorem test_read_payload :
    (let f : Frame := { part := 1, adm := false, reqid := 9, sender := 0, counter := 1, tagOk := true, len := 20, payload := rangeHead 7 0x10000 0x30 }
     (Instr.read f 7 0x10000 0x30).wf = true ∧ (Instr.read f 7 0x10001 0x30).wf = false ∧ (Instr.read { f with len := 19 } 7 0x10000 0x30).wf = false) := by
  decide +kernel

end Sys2Proof.Tests
end

section
/-! SUPPORT. Teams and tiles under the operations that launch, stop, swap and kill teams: what each leaves unchanged, said once. -/

namespace Sys2Proof.Machine

/-! ### Focus: what moving it leaves unchanged -/

@[simp] theorem State.focusOn_teams (s : State) (id : TileId) (k : CoreSel) : (s.focusOn id k).teams = s.teams := by
  unfold State.focusOn; split <;> rfl
@[simp] theorem State.focusOn_ctxs (s : State) (id : TileId) (k : CoreSel) : (s.focusOn id k).ctxs = s.ctxs := by
  unfold State.focusOn; split <;> rfl
@[simp] theorem State.atCore_teams (s : State) (id : TileId) (k : CoreSel) (f : State → State) :
    (s.atCore id k f).teams = (f (s.focusOn id k)).teams := State.focusOn_teams ..
@[simp] theorem State.atCore_ctxs (s : State) (id : TileId) (k : CoreSel) (f : State → State) :
    (s.atCore id k f).ctxs = (f (s.focusOn id k)).ctxs := State.focusOn_ctxs ..

/-! ### Updates of every tile that meets a condition -/

@[simp] theorem State.mapTiles_teams (s : State) (p : Tile → Bool) (f : FullTile → FullTile) : (s.mapTiles p f).teams = s.teams := by
  unfold State.mapTiles; dsimp only; split <;> rfl
@[simp] theorem State.mapTiles_ctxs (s : State) (p : Tile → Bool) (f : FullTile → FullTile) : (s.mapTiles p f).ctxs = s.ctxs := by
  unfold State.mapTiles; dsimp only; split <;> rfl
@[simp] theorem State.mapTiles_parts (s : State) (p : Tile → Bool) (f : FullTile → FullTile) : (s.mapTiles p f).parts = s.parts := by
  unfold State.mapTiles; dsimp only; split <;> rfl
@[simp] theorem State.mapTiles_completions (s : State) (p : Tile → Bool) (f : FullTile → FullTile) :
    (s.mapTiles p f).completions = s.completions := by unfold State.mapTiles; dsimp only; split <;> rfl
@[simp] theorem State.mapTiles_replace (s : State) (p : Tile → Bool) (f : FullTile → FullTile) :
    (s.mapTiles p f).replace = s.replace := by unfold State.mapTiles; dsimp only; split <;> rfl
@[simp] theorem State.mapTiles_frames (s : State) (p : Tile → Bool) (f : FullTile → FullTile) :
    (s.mapTiles p f).frames = s.frames := by unfold State.mapTiles; dsimp only; split <;> rfl
@[simp] theorem State.mapTiles_regions (s : State) (p : Tile → Bool) (f : FullTile → FullTile) :
    (s.mapTiles p f).regions = s.regions := by unfold State.mapTiles; dsimp only; split <;> rfl

@[simp] theorem State.curTile_withFull (s : State) (u : FullTile) (k : CoreSel) : (s.withFull u k).curTile = u := by
  cases k <;> rfl

@[simp] theorem State.curTile_tile (s : State) : s.curTile.tile = s.tile := by unfold State.curTile; split <;> rfl

/-- Every tile that meets the condition is replaced, the one in focus with them. -/
theorem State.allTiles_mapTiles (s : State) (p : Tile → Bool) (f : FullTile → FullTile) :
    (s.mapTiles p f).allTiles = s.allTiles.map fun u => if p u.tile then f u else u := by
  have hcur : (s.mapTiles p f).curTile = if p s.curTile.tile then f s.curTile else s.curTile := by
    unfold State.mapTiles
    dsimp only
    split
    · exact State.curTile_withFull s _ s.sel
    · rfl
  have htiles : (s.mapTiles p f).tiles = s.tiles.map fun u => if p u.tile then f u else u := by
    unfold State.mapTiles; dsimp only; split <;> rfl
  simp only [State.allTiles, hcur, htiles, List.map_cons]

/-! ### Contexts: a property of a context that an update leaves -/

/-- An update of one context that keeps a property of it keeps that property of every context. -/
theorem State.ctx_put_keeps {α : Type} (g : Ctx → α) {s u : State} {n : Nat} {x : Ctx} (hu : u.ctxs = Tab.put s.ctxs n x)
    (h : g x = g (s.ctx n)) (c : Nat) : g (u.ctx c) = g (s.ctx c) := by
  rw [State.ctx, hu]
  by_cases hc : c = n
  · subst hc; rw [Tab.get_put_same, h]
  · rw [Tab.get_put_other _ _ _ hc]; rfl

theorem State.ctx_congr {s t : State} (h : t.ctxs = s.ctxs) (c : Nat) : t.ctx c = s.ctx c := by rw [State.ctx, State.ctx, h]

/-- What no end, swap or meter changes of a context: its partition, its modes and whether its kill is in progress. -/
def Ctx.lasting (x : Ctx) : Nat × Modes × Bool := (x.part, x.modes, x.killing)

theorem State.ctx_journalCtx (s : State) (q n fl c : Nat) : ((s.journalCtx q n fl).ctx c).lasting = (s.ctx c).lasting :=
  State.ctx_put_keeps Ctx.lasting rfl (by rfl) c

theorem State.ctx_dropGroups (s : State) (t : Team) (c : Nat) : ((s.dropGroups t).ctx c).lasting = (s.ctx c).lasting :=
  State.ctx_put_keeps Ctx.lasting rfl (by rfl) c

/-! ### The completion of a launch, and the RPC answers -/

@[simp] theorem State.complete_teams (s : State) (part id : Nat) (r : BitVec 64) (st : Nat) (ws : List Word) :
    (s.complete part id r st ws).teams = s.teams := by unfold State.complete; dsimp only; split <;> rfl
@[simp] theorem State.complete_ctxs (s : State) (part id : Nat) (r : BitVec 64) (st : Nat) (ws : List Word) :
    (s.complete part id r st ws).ctxs = s.ctxs := by unfold State.complete; dsimp only; split <;> rfl
@[simp] theorem State.complete_allTiles (s : State) (part id : Nat) (r : BitVec 64) (st : Nat) (ws : List Word) :
    (s.complete part id r st ws).allTiles = s.allTiles := by unfold State.complete; dsimp only; split <;> rfl
@[simp] theorem State.complete_regions (s : State) (part id : Nat) (r : BitVec 64) (st : Nat) (ws : List Word) :
    (s.complete part id r st ws).regions = s.regions := by unfold State.complete; dsimp only; split <;> rfl

/-- The first completion of a launch sends its frame: the words given, and the residency report after them (16 R398, R400). -/
theorem State.complete_completions (s : State) (part id : Nat) (r : BitVec 64) (st : Nat) (ws : List Word)
    (h : ∀ f ∈ (s.partOf part).finals, f.1 ≠ id) :
    (s.complete part id r st ws).completions = s.completions ++
      [(s.rpcWords 9 part false false r (8 + 8 * (ws ++ s.residency part).length) 0, st, ws ++ s.residency part)] := by
  have hf : ((s.partOf part).finals.any (·.1 == id)) = false := by simpa using h
  simp only [State.complete, hf, Bool.false_eq_true, if_false, State.putPart_completions]

/-- What no answer to a STOP or a RELEASE changes. -/
def State.sameTeams (s t : State) : Prop := t.teams = s.teams ∧ t.completions = s.completions ∧ t.allTiles = s.allTiles

/-- Answers to frames change neither teams nor contexts. -/
theorem State.settleStops_frame (s : State) : s.sameTeams s.settleStops ∧ s.settleStops.ctxs = s.ctxs := by
  have h := foldl_keeps (fun u : State => s.sameTeams u ∧ u.ctxs = s.ctxs)
    (fun (s : State) (h : HeldStop) => s.answerRpc 6 h.part h.adm h.reqid 0 []) (fun u h hu => hu)
  exact h _ _ ⟨⟨rfl, rfl, rfl⟩, rfl⟩

theorem State.releaseCtx_frame (s : State) (n : Nat) :
    s.sameTeams (s.releaseCtx n) ∧ (s.releaseCtx n).ctxs = s.ctxs.filter fun c => c.1 != n := by
  have h := foldl_keeps (fun u : State => s.sameTeams u ∧ u.ctxs = s.ctxs)
    (fun (s : State) (r : BitVec 64 × Nat × Bool) => s.answerRpc 5 r.2.1 r.2.2 r.1 0 []) (fun u r hu => hu)
    (s.ctx n).releasing s ⟨⟨rfl, rfl, rfl⟩, rfl⟩
  exact ⟨h.1, by simp only [State.releaseCtx, h.2]⟩

theorem Tab.find_filter_ne {α : Type} (t : Tab α) {n m : Nat} (h : m ≠ n) : Tab.find (t.filter fun c => c.1 != n) m = t.find m := by
  induction t with
  | nil => rfl
  | cons x t ih =>
    obtain ⟨k, v⟩ := x
    by_cases hk : k = n
    · have hm : m ≠ k := hk ▸ h
      simp [hk, Tab.find, ih, h]
    · simp [hk, Tab.find, ih]

theorem State.ctx_releaseCtx_other (s : State) {n m : Nat} (h : m ≠ n) : (s.releaseCtx n).ctx m = s.ctx m := by
  simp only [State.ctx, Tab.get, (s.releaseCtx_frame n).2, Tab.find_filter_ne _ h]

/-- Answers that waited for the end of teams leave the teams, and every context that has one. -/
theorem State.settleReleases_frame (s : State) :
    s.sameTeams s.settleReleases ∧ ∀ c, (∃ t ∈ s.teams, t.ctx = c) → s.settleReleases.ctx c = s.ctx c := by
  obtain ⟨hs, hc⟩ := s.settleStops_frame
  have hkeep : ∀ (l : List (Nat × Ctx)) (u : State), s.sameTeams u → s.sameTeams (l.foldl (fun s c => s.releaseCtx c.1) u) :=
    fun l u => foldl_keeps (fun u => s.sameTeams u) _ (fun a b ha => by
      obtain ⟨⟨h1, h2, h3⟩, _⟩ := a.releaseCtx_frame b.1
      exact ⟨h1.trans ha.1, h2.trans ha.2.1, h3.trans ha.2.2⟩) l u
  have hctx : ∀ (c : Nat) (l : List (Nat × Ctx)) (u : State), (∀ x ∈ l, x.1 ≠ c) →
      (l.foldl (fun s c => s.releaseCtx c.1) u).ctx c = u.ctx c := by
    intro c l
    induction l with
    | nil => intros; rfl
    | cons x l ih =>
      intro u hx
      rw [List.foldl_cons, ih _ fun y hy => hx y (List.mem_cons_of_mem _ hy)]
      exact State.ctx_releaseCtx_other u (hx x (List.mem_cons_self ..)).symm
  refine ⟨hkeep _ _ hs, fun c ⟨t, ht, htc⟩ => ?_⟩
  refine (hctx c _ _ fun x hx hxc => ?_).trans (State.ctx_congr hc c)
  have hno := (List.mem_filter.1 hx).2
  rw [hs.1] at hno
  simp only [Bool.and_eq_true, Bool.not_eq_true', List.any_eq_false, beq_iff_eq] at hno
  exact hno.2 t ht (htc.trans hxc.symm)

end Sys2Proof.Machine
end

section
/-! SUPPORT. Kills of contexts: from its beginning on, every team of the context that is left is stopping and carries its report (15 R368). -/

namespace Sys2Proof.Machine

/-- Whether a team has this context and tag. -/
def Team.is (t : Team) (ctx tag : Nat) : Bool := t.ctx == ctx && t.tag == tag

@[simp] theorem Team.is_iff (t : Team) (ctx tag : Nat) : t.is ctx tag = true ↔ t.ctx = ctx ∧ t.tag = tag := by simp [Team.is]

/-! ### Tables of teams -/

theorem State.putTeam_teams (s : State) (t : Team) : (s.putTeam t).teams = s.teams.map fun u => if u.is t.ctx t.tag then t else u := rfl

theorem State.mem_putTeam {s : State} {t u : Team} (h : u ∈ (s.putTeam t).teams) : u = t ∨ (u ∈ s.teams ∧ u.is t.ctx t.tag = false) := by
  obtain ⟨v, hv, rfl⟩ := List.mem_map.1 (State.putTeam_teams s t ▸ h)
  by_cases hi : v.is t.ctx t.tag
  · exact .inl (if_pos hi)
  · rw [if_neg hi]; exact .inr ⟨hv, Bool.eq_false_iff.2 hi⟩

/-- The team that a context and a tag name is in the table, has them, and has not ended. -/
theorem State.team?_some {s : State} {ctx tag : Nat} {t : Team} (h : s.team? ctx tag = some t) :
    t ∈ s.teams ∧ t.ctx = ctx ∧ t.tag = tag ∧ t.phase ≠ .ended := by
  have hp := List.find?_some h
  simp only [Bool.and_eq_true, beq_iff_eq, bne_iff_ne] at hp
  exact ⟨List.mem_of_find?_eq_some h, hp.1.1, hp.1.2, hp.2⟩

@[simp] theorem State.releaseTiles_teams (s : State) (ctx tag : Nat) : (s.releaseTiles ctx tag).teams = s.teams := by
  unfold State.releaseTiles; exact State.mapTiles_teams ..
@[simp] theorem State.releaseTiles_ctxs (s : State) (ctx tag : Nat) : (s.releaseTiles ctx tag).ctxs = s.ctxs := by
  unfold State.releaseTiles; exact State.mapTiles_ctxs ..

theorem State.removeTeam_teams (s : State) (t : Team) : (s.removeTeam t).teams = s.teams.filter fun u => !u.is t.ctx t.tag :=
  congrArg (List.filter fun u : Team => !u.is t.ctx t.tag) (s.releaseTiles_teams t.ctx t.tag)

theorem State.removeTeam_ctxs (s : State) (t : Team) : (s.removeTeam t).ctxs = s.ctxs := s.releaseTiles_ctxs t.ctx t.tag

/-! ### The kill of a team -/

/-- The pages of a copy, its replay counters and its groups go, and the record of the kill is made: no team changes. -/
def State.killedRecord (s : State) (t : Team) : State :=
  let us := s.tilesOf t ++ t.dockTiles
  let s := s.settleStorage t.launch [t.copy] none
  let x := s.ctx t.ctx
  let s := s.putCtx t.ctx { x.dropShadow (shadowKey t.launch t.copy) with counters := s.replayCounters t us }
  (s.dropGroups t).journalCtx t.quay t.ctx flKilled

theorem State.finishKilled_eq (s : State) (t : Team) : s.finishKilled t =
    if s.teams.any fun u => u.launch == t.launch && !u.is t.ctx t.tag then (s.killedRecord t).removeTeam t
    else (s.killedRecord t).finishTeam t stKilled (endWords t (s.tilesOf t ++ t.dockTiles) ++ t.rep) := rfl

theorem State.killedRecord_ctx (s : State) (t : Team) (c : Nat) : ((s.killedRecord t).ctx c).lasting = (s.ctx c).lasting :=
  (State.ctx_journalCtx _ _ _ _ c).trans ((State.ctx_dropGroups _ t c).trans
    (State.ctx_put_keeps Ctx.lasting (s := s.settleStorage t.launch [t.copy] none) rfl (by rfl) c))

/-- A team that a kill ends is taken from the table; no other team, and nothing lasting of a context, changes. -/
theorem State.finishKilled_frame (s : State) (t : Team) :
    (s.finishKilled t).teams = (s.teams.filter fun u => !u.is t.ctx t.tag) ∧ ∀ c, ((s.finishKilled t).ctx c).lasting = (s.ctx c).lasting := by
  have hc : ∀ c, (((s.killedRecord t).removeTeam t).ctx c).lasting = (s.ctx c).lasting := fun c =>
    (congrArg Ctx.lasting (State.ctx_congr (State.removeTeam_ctxs ..) c)).trans (s.killedRecord_ctx t c)
  rw [State.finishKilled_eq]
  split
  · exact ⟨State.removeTeam_teams .., hc⟩
  · exact ⟨(State.complete_teams ..).trans (State.removeTeam_teams ..),
      fun c => (congrArg Ctx.lasting (State.ctx_congr (State.complete_ctxs ..) c)).trans (hc c)⟩

/-- The kill of a team takes it from the table, or leaves it stopping with the report. -/
theorem State.killTeam_teams (s : State) (rep : List Word) (t : Team) :
    (s.killTeam rep t).teams = (s.teams.filter fun u => !u.is t.ctx t.tag) ∨
    (s.killTeam rep t).teams = (s.putTeam { t with rep := rep, phase := .stopping }).teams := by
  unfold State.killTeam
  dsimp only
  split
  · exact .inl (s.finishKilled_frame { t with rep := rep }).1
  · right; split <;> rfl

theorem State.killTeam_ctx (s : State) (rep : List Word) (t : Team) (c : Nat) :
    ((s.killTeam rep t).ctx c).lasting = (s.ctx c).lasting := by
  unfold State.killTeam
  dsimp only
  split
  · exact (s.finishKilled_frame { t with rep := rep }).2 c
  · split <;> rfl

/-! ### The kill of a context -/

/-- Every team of the context is stopping for a kill, but for those that are still to be stopped. -/
def State.killedBut (s : State) (ctx : Nat) (rest : List Team) : Prop :=
  ∀ u ∈ s.teams, u.ctx = ctx → (u.phase = .stopping ∧ u.rep ≠ []) ∨ ∃ t ∈ rest, u.is t.ctx t.tag = true

theorem State.killTeam_killedBut {s : State} {ctx : Nat} {t : Team} {rest : List Team} (rep : List Word) (hrep : rep ≠ [])
    (h : s.killedBut ctx (t :: rest)) : (s.killTeam rep t).killedBut ctx rest := by
  have old : ∀ u ∈ s.teams, u.is t.ctx t.tag = false → u.ctx = ctx → (u.phase = .stopping ∧ u.rep ≠ []) ∨ ∃ t ∈ rest, u.is t.ctx t.tag = true := by
    intro u hu hi hc
    rcases h u hu hc with h | ⟨v, hv, hvu⟩
    · exact .inl h
    · rcases List.mem_cons.1 hv with rfl | hv
      · rw [hi] at hvu; cases hvu
      · exact .inr ⟨v, hv, hvu⟩
  intro u hu hc
  rcases s.killTeam_teams rep t with e | e <;> rw [e] at hu
  · obtain ⟨hu, hi⟩ := List.mem_filter.1 hu
    exact old u hu (by simpa using hi) hc
  · rcases State.mem_putTeam hu with rfl | ⟨hu, hi⟩
    · exact .inl ⟨rfl, hrep⟩
    · exact old u hu hi hc

theorem State.killTeams (rep : List Word) (hrep : rep ≠ []) (ctx : Nat) : ∀ (l : List Team) (s : State), s.killedBut ctx l →
    (l.foldl (fun s t => s.killTeam rep t) s).killedBut ctx [] ∧
      ((l.foldl (fun s t => s.killTeam rep t) s).ctx ctx).lasting = (s.ctx ctx).lasting
  | [], _, h => ⟨h, rfl⟩
  | t :: l, s, h => by
    obtain ⟨h1, h2⟩ := State.killTeams rep hrep ctx l _ (State.killTeam_killedBut rep hrep h)
    exact ⟨h1, h2.trans (s.killTeam_ctx rep t ctx)⟩

/-- The launches that complete when queues are flushed change neither teams nor contexts. -/
theorem State.flushQueues_frame (s : State) (ctx st : Nat) (ws : List Word) :
    (s.flushQueues ctx st ws).teams = s.teams ∧ (s.flushQueues ctx st ws).ctxs = s.ctxs := by
  refine foldl_keeps (fun u : State => u.teams = s.teams ∧ u.ctxs = s.ctxs) _ (fun u x hu => ?_) s.regions s ⟨rfl, rfl⟩
  have h := foldl_keeps (fun v : State => v.teams = s.teams ∧ v.ctxs = s.ctxs)
    (fun (v : State) (q : Queued) => v.complete q.part q.id q.reqid st ws)
    (fun v q hv => ⟨(State.complete_teams ..).trans hv.1, (State.complete_ctxs ..).trans hv.2⟩) (x.2.queue.filter fun q => q.pkt.ctx == ctx) u hu
  dsimp only
  split <;> exact h

theorem State.killed_iff_killedBut {s : State} {ctx : Nat} (hk : (s.ctx ctx).killing = true) (h : s.killedBut ctx []) : s.killed ctx := by
  intro u hu hc
  rcases h u hu hc with h | ⟨_, hv, _⟩
  · exact ⟨hk, h⟩
  · cases hv

theorem State.killed_congr {s t : State} {ctx : Nat} (ht : t.teams = s.teams)
    (hk : (∃ u ∈ s.teams, u.ctx = ctx) → (t.ctx ctx).killing = (s.ctx ctx).killing) (h : s.killed ctx) : t.killed ctx := by
  intro u hu hc
  rw [ht] at hu
  rw [hk ⟨u, hu, hc⟩]
  exact h u hu hc

theorem State.settleKill_killed {s : State} {ctx : Nat} (hk : (s.ctx ctx).killing = true) (h : s.killedBut ctx []) :
    (s.settleKill ctx).killed ctx := by
  unfold State.settleKill
  split
  · exact State.killed_iff_killedBut hk h
  · rename_i hno
    intro u hu hc
    exact absurd (List.any_eq_true.2 ⟨u, hu, by simpa using hc⟩) hno

/-- A kill that is not in progress yet begins (15 R368). -/
theorem State.killContext_killed (s : State) (mine : Bool) (ctx reason : Nat) (c : Cause) (tpc va : Word)
    (h : (s.ctx ctx).killing = false) : (s.killContext mine ctx reason c tpc va).killed ctx := by
  unfold State.killContext
  dsimp only
  rw [h, if_neg Bool.false_ne_true]
  generalize hrep : s.killReport mine ctx reason c tpc va = rep
  have hne : rep ≠ [] := by rw [← hrep]; exact List.cons_ne_nil _ _
  generalize hs1 : (State.putCtx _ ctx _ : State) = s1
  have hk1 : (s1.ctx ctx).killing = true := by rw [← hs1, State.ctx_putCtx]
  obtain ⟨hteams, hctxs⟩ := s1.flushQueues_frame ctx stKilled rep
  have hall : (s1.flushQueues ctx stKilled rep).killedBut ctx ((s1.flushQueues ctx stKilled rep).teams.filter fun t => t.ctx == ctx) :=
    fun u hu hc => .inr ⟨u, List.mem_filter.2 ⟨hu, by simpa using hc⟩, by simp⟩
  obtain ⟨hbut, hlast⟩ := State.killTeams rep hne ctx _ _ hall
  refine State.settleKill_killed ?_ hbut
  have hkill := congrArg (fun x => x.2.2) hlast
  exact hkill.trans ((congrArg Ctx.killing (State.ctx_congr hctxs ctx)).trans hk1)

/-! ### What a kill in progress outlasts -/

theorem State.settleReleases_killed {s : State} {ctx : Nat} (h : s.killed ctx) : s.settleReleases.killed ctx :=
  State.killed_congr s.settleReleases_frame.1.1 (fun ht => congrArg Ctx.killing (s.settleReleases_frame.2 ctx ht)) h

theorem State.atCore_killed {s : State} {ctx : Nat} (id : TileId) (k : CoreSel) (f : State → State)
    (h : (f (s.focusOn id k)).killed ctx) : (s.atCore id k f).killed ctx :=
  State.killed_congr (State.atCore_teams ..) (fun _ => congrArg Ctx.killing (State.ctx_congr (State.atCore_ctxs ..) ctx)) h

theorem State.focusOn_killed {s : State} {ctx : Nat} (id : TileId) (k : CoreSel) (h : s.killed ctx) : (s.focusOn id k).killed ctx :=
  State.killed_congr (State.focusOn_teams ..) (fun _ => congrArg Ctx.killing (State.ctx_congr (State.focusOn_ctxs ..) ctx)) h

/-- A team of another context, or one that goes on stopping, may be changed. -/
theorem State.putTeam_killed {s : State} {ctx : Nat} {t : Team} (h : s.killed ctx)
    (ht : t.ctx = ctx → (s.ctx ctx).killing = true ∧ t.phase = .stopping ∧ t.rep ≠ []) : (s.putTeam t).killed ctx := by
  intro u hu hc
  rcases State.mem_putTeam hu with rfl | ⟨hu, _⟩
  · exact ht hc
  · exact h u hu hc

/-! ### Diversion: what a packet that is turned away changes (07 R184) -/

theorem State.reply_eq (s : State) (p : Packet) (b : Body) : ∃ net, s.reply p b = { s with net := net } := by
  unfold State.reply
  split_ifs
  · exact ⟨s.net, rfl⟩
  · exact ⟨_, rfl⟩

/-- A packet that is turned away sends at most an answer, and changes at most the spill queue and the count of discarded packets of its
team. -/
theorem State.divert_cases (s : State) (p : Packet) : ∃ r net, s.divert p = { r with net := net } ∧
    (r = s ∨ ∃ t sp d, s.team? p.ctx p.ttag = some t ∧ r = s.putTeam { t with spill := sp, discarded := d }) := by
  unfold State.divert
  cases ht : s.team? p.ctx p.ttag with
  | none =>
    dsimp only
    split
    · exact ⟨s, s.net, rfl, .inl rfl⟩
    · obtain ⟨net, e⟩ := s.reply_eq p (.ack false)
      exact ⟨s, net, e, .inl rfl⟩
  | some t =>
    dsimp only
    split
    · exact ⟨_, s.net, rfl, .inr ⟨t, _, t.discarded, rfl, rfl⟩⟩
    · split
      · obtain ⟨net, e⟩ := (s.putTeam { t with discarded := t.discarded + 1 }).reply_eq p (.ack false)
        exact ⟨_, net, e, .inr ⟨t, t.spill, _, rfl, rfl⟩⟩
      · split
        · obtain ⟨net, e⟩ := s.reply_eq p .retry
          exact ⟨s, net, e, .inl rfl⟩
        · exact ⟨_, _, (State.reply_eq _ _ _).choose_spec, .inr ⟨t, _, t.discarded, rfl, rfl⟩⟩

theorem State.divert_killed {s : State} {ctx : Nat} (p : Packet) (h : s.killed ctx) : (s.divert p).killed ctx := by
  obtain ⟨r, net, e, hr⟩ := s.divert_cases p
  rw [e]
  suffices r.killed ctx from this
  rcases hr with rfl | ⟨t, sp, d, ht, rfl⟩
  · exact h
  · exact State.putTeam_killed h fun hc => h t (State.team?_some ht).1 hc

theorem State.mapTiles_killed {s : State} {ctx : Nat} (p : Tile → Bool) (f : FullTile → FullTile) (h : s.killed ctx) :
    (s.mapTiles p f).killed ctx :=
  State.killed_congr (State.mapTiles_teams ..) (fun _ => congrArg Ctx.killing (State.ctx_congr (State.mapTiles_ctxs ..) ctx)) h

/-- A team of another context may be swapped out. -/
theorem State.beginSwap_killed {s : State} {ctx : Nat} {t : Team} (why : Nat) (h : s.killed ctx) (ht : t.ctx ≠ ctx) :
    (s.beginSwap t why).killed ctx := by
  unfold State.beginSwap
  dsimp only
  refine foldl_keeps (fun u : State => u.killed ctx) State.divert (fun u p hu => State.divert_killed p hu) _ _ ?_
  exact State.putTeam_killed (State.mapTiles_killed _ _ h) fun hc => absurd hc ht

/-- The resident teams that a retirement swaps out are of other contexts than one that is being killed. -/
theorem State.swapHolders_killed {s : State} {ctx : Nat} (x y : Nat) (h : s.killed ctx) :
    ((s.holders x y).foldl (fun s t => s.beginSwap t 4) s).killed ctx := by
  have hne : ∀ t ∈ s.holders x y, t.ctx ≠ ctx := by
    intro t ht hc
    obtain ⟨hm, hp⟩ := List.mem_filter.1 ht
    simp only [Bool.and_eq_true, beq_iff_eq] at hp
    rw [(h t hm hc).2.1] at hp
    cases hp.1
  generalize s.holders x y = l at hne
  induction l generalizing s with
  | nil => exact h
  | cons t l ih =>
    exact ih (State.beginSwap_killed 4 h (hne t (List.mem_cons_self ..))) fun u hu => hne u (List.mem_cons_of_mem _ hu)

/-- The retirement of a site begins: a kill in progress goes on. -/
theorem State.retireStart_killed {s : State} {ctx : Nat} (reg col prow : Nat) (spare : Bool) (ws : List RouterWrite) (h : s.killed ctx) :
    (s.retireStart reg col prow spare ws).killed ctx := by
  unfold State.retireStart
  dsimp only
  split
  · exact h
  split
  · split <;> exact h
  generalize hr : (if (s.rowAt reg col prow).isSome = true then _ else s) = r
  have hrk : r.killed ctx := by rw [← hr]; split <;> exact h
  split
  · exact State.mapTiles_killed _ _ hrk
  split
  · exact hrk
  · exact State.mapTiles_killed _ _ (State.swapHolders_killed _ _ hrk)

end Sys2Proof.Machine
end

section
/-! SUPPORT. The refutation of O53: a docked tile may hold lockstep modes that its context has not, and a retirement at its swap in that two
copies disagree about then kills the context (14 R353, 15 R378). -/

namespace Sys2Proof.Machine

/-- A second mismatch outside a region kills the context (14 R353). -/
theorem State.compared_kills (s t : State) (o : BitVec 19) (hl : s.tile.modes.lockstep = true) (hf : t.core.frames = s.core.frames)
    (hi : s.onlyIssued t = false) (hu : s.core.upset = 2) (hr : s.core.inRegion = false) : s.compared t o =
      State.killContext { s with core := { s.core with upset := 0 } } true s.tile.ctx 3 .lsm (o.zeroExtend 64) (o.zeroExtend 64) := by
  have hr' : Core.inRegion { s.core with upset := 0 } = false := hr
  simp [State.compared, hl, hf, hi, Core.digests, hu, hr']

/-- Entries that are not valid are passed over. -/
theorem retireHeld_skip (l r : List (Fin 8)) (s : State) (h : ∀ n ∈ l, s.core.rq[n].v = false) : retireHeld (l ++ r) s = retireHeld r s := by
  induction l with
  | nil => rfl
  | cons n l ih =>
    have hn : s.core.rq[n].v = false := h n (List.mem_cons_self ..)
    rw [List.cons_append, retireHeld]
    simp only [hn, Bool.false_and, Bool.false_eq_true, if_false]
    exact ih fun m hm => h m (List.mem_cons_of_mem _ hm)

/-- A result that the core holds retires when it resumes. -/
theorem retireHeld_last (n : Fin 8) (s : State) (hv : s.core.rq[n].v = true) (hst : s.core.rq[n].st = 1)
    (hf : s.core.frozen s.core.rq[n] = false) : retireHeld [n] s = s.retireEntry n := by
  simp only [retireHeld, hv, hst, hf, beq_self_eq_true, Bool.not_false, Bool.and_self, if_true]

/-- A compute core that was stopped with a quotient of 0 for s1 captured, after two upsets. -/
def upsetCore : Core :=
  { stopped := true, upset := 2, rq := vput (Vector.replicate 8 {}) 7 { v := true, st := 1, op := some (.div 1 2 3) } }
/-- Its tile, whose modes have lockstep. -/
def upsetTile : FullTile :=
  { tile := { id := .grid 0 0, owned := true, hnd := 6, ctx := 1, ttag := 2, modes := { lockstep := true } },
    stage := { stopped := true }, comp := upsetCore }
/-- Its team of one tile, docked. -/
def upsetTeam : Team :=
  { ctx := 1, tag := 2, launch := 5, w := 1, h := 1, handles := [6], phase := .docked, started := true, dockTiles := [upsetTile] }
/-- A machine in which the team may come back to (0, 0): its context is not in lockstep. -/
def upsetState : State :=
  { regions := [(0, { reg := .on })], parts := [(2, { quarters := [0] })], ctxs := [(1, { exist := true, part := 2 })], teams := [upsetTeam] }
/-- The place that the quay chooses. -/
def upsetChoice : PlaceChoice := { origin := some (0, 0), handles := [6], tag := 2 }

/-- The team resident again, before its tile resumes. -/
def upsetBack : State := (upsetState.undock upsetTeam (0, 0)).putTeam { upsetTeam with phase := .resident, dockTiles := [] }

/-- Nothing stands against the swap, and no packet is replayed: the tile resumes. -/
theorem upset_swapIn : exec (.teamSwapIn 1 2 upsetChoice) upsetState = .next (upsetBack.resumeTile (.grid 0 0)) := by
  rfl

/-- The compute core of the tile as it resumes. -/
def upsetResumes : State :=
  let s := (upsetBack.atCore (.grid 0 0) .stage fun s => s.revisePromises.resumeCore).focusOn (.grid 0 0) .comp
  { s with core := { s.core with stopped := false, stopAsked := false, guard := 0, advisory := 0 } }

/-- The same with the quotient written and its entry free. -/
def upsetRetired : State :=
  State.entryDone { upsetResumes with core := upsetResumes.core.writeResult .comp upsetResumes.core.rq[(7 : Fin 8)] (.div 1 2 3) } 7

theorem upsetResumes_killed : (retireHeld [0, 1, 2, 3, 4, 5, 6, 7] upsetResumes).killed 1 := by
  have hskip : retireHeld [0, 1, 2, 3, 4, 5, 6, 7] upsetResumes = retireHeld [7] upsetResumes :=
    retireHeld_skip [0, 1, 2, 3, 4, 5, 6] [7] upsetResumes (by decide +kernel)
  have hlast : retireHeld [7] upsetResumes = upsetResumes.compared upsetRetired 0 :=
    retireHeld_last 7 upsetResumes (by decide +kernel) (by decide +kernel) (by decide +kernel)
  have hkill := upsetResumes.compared_kills upsetRetired 0 (by decide +kernel) (by decide +kernel) (by decide +kernel) (by decide +kernel)
    (by decide +kernel)
  have hctx : upsetResumes.tile.ctx = 1 := by decide +kernel
  rw [hskip, hlast, hkill, hctx]
  exact State.killContext_killed _ true 1 3 .lsm _ _ (by decide +kernel)

/-- Refutes O53: nothing in its swap-in clause says that a docked tile has the modes of its context, or that no core of it holds a result.
A compute core whose tile is in lockstep, twice upset, retires a captured quotient as it resumes; the copies disagree, and the team comes
back stopping for the kill of its context, not resident. -/
theorem not_teamsAreSwappedAndMetered : ¬ Obligations.TeamsAreSwappedAndMetered := by
  unfold Obligations.TeamsAreSwappedAndMetered
  rintro ⟨hswap, -⟩
  obtain ⟨-, -, -, -, hin⟩ := hswap upsetState 1 2 upsetTeam (by decide +kernel)
  obtain ⟨u, hu, ⟨t, ht, hres, -⟩, -⟩ := hin upsetChoice (0, 0) rfl rfl (by decide +kernel) (by decide +kernel) (by decide +kernel) rfl
    (by decide +kernel) rfl rfl (by decide +kernel) (by decide +kernel) (by decide +kernel) (by decide +kernel)
  rw [upset_swapIn] at hu
  cases hu
  have hkilled : (upsetBack.resumeTile (.grid 0 0)).killed 1 :=
    State.focusOn_killed _ _ upsetResumes_killed
  obtain ⟨hmem, hctx, -, -⟩ := State.team?_some ht
  obtain ⟨-, hstop, -⟩ := hkilled t hmem hctx
  rw [hres] at hstop
  cases hstop

end Sys2Proof.Machine
end

section
/-! SUPPORT. Tiles by their ids, the bytes that the placing of a team keeps, and the tiles of a team that is placed (01 R24, R29, 17 R411). -/

namespace Sys2Proof.Machine

/-! ### Memories by their cells -/

theorem Memory.read_of_not_mem {m : Memory} {a : Nat} (h : ∀ v, (a, v) ∉ m) : m.read a = 0 := by
  induction m with
  | nil => rfl
  | cons c m ih =>
    obtain ⟨b, w⟩ := c
    have hb : a ≠ b := fun e => h w (e ▸ List.mem_cons_self ..)
    simp only [Memory.read, beq_iff_eq, if_neg hb]
    split
    · rfl
    · exact ih fun v hv => h v (List.mem_cons_of_mem _ hv)

theorem Memory.read_of_mem {m : Memory} {a : Nat} {v : Byte} (hw : m.wf = true) (h : (a, v) ∈ m) : m.read a = v := by
  induction m with
  | nil => cases h
  | cons c m ih =>
    obtain ⟨b, w⟩ := c
    obtain ⟨_, hab, hm⟩ := (Memory.wf_cons b w m).1 hw
    rcases List.mem_cons.1 h with e | h
    · cases e; simp [Memory.read]
    · have hlt : b < a := hab (a, v) h
      simp only [Memory.read, beq_iff_eq]
      rw [if_neg (by omega), if_neg (by omega), ih hm h]

/-- Two memories in canonical form that list the same cells at an address read alike there. -/
theorem Memory.read_congr {m m' : Memory} {a : Nat} (hw : m.wf = true) (hw' : m'.wf = true) (h : ∀ v, (a, v) ∈ m ↔ (a, v) ∈ m') :
    m.read a = m'.read a := by
  by_cases hv : ∃ v, (a, v) ∈ m
  · obtain ⟨v, hv⟩ := hv
    rw [Memory.read_of_mem hw hv, Memory.read_of_mem hw' ((h v).1 hv)]
  · have hno : ∀ v, (a, v) ∉ m := fun v hm => hv ⟨v, hm⟩
    rw [Memory.read_of_not_mem hno, Memory.read_of_not_mem fun v hm => hno v ((h v).2 hm)]

theorem Memory.wf_ordered {m : Memory} (h : m.wf = true) : m.Pairwise (fun c d => c.1 < d.1) ∧ ∀ c ∈ m, c.2 ≠ 0 := by
  induction m with
  | nil => exact ⟨List.Pairwise.nil, fun _ h => nomatch h⟩
  | cons c m ih =>
    obtain ⟨b, w⟩ := c
    obtain ⟨hw, hab, hm⟩ := (Memory.wf_cons b w m).1 h
    exact ⟨List.Pairwise.cons hab (ih hm).1, List.forall_mem_cons.2 ⟨hw, (ih hm).2⟩⟩

/-! ### Bytes that are kept (01 R24) -/

/-- Of a kept address, the rebuilt memory lists the cells that the old one and the part already built list. -/
theorem mem_scramble (kept : Nat → Bool) (fresh : Nat) {a : Nat} (ha : kept a = true) (v : Byte) (n : Nat) (old acc : Memory)
    (hord : old.Pairwise (fun c d => d.1 < c.1)) (hlt : ∀ c ∈ old, c.1 < n) (hnz : ∀ c ∈ old, c.2 ≠ 0) :
    (a, v) ∈ scramble kept fresh n old acc ↔ (a, v) ∈ old ∨ (a, v) ∈ acc := by
  induction n generalizing old acc with
  | zero =>
    have hnil : old = [] := List.eq_nil_iff_forall_not_mem.2 fun c hc => Nat.not_lt_zero _ (hlt c hc)
    simp [scramble, hnil]
  | succ n ih =>
    have hput : ∀ w : Byte, a ≠ n → ((a, v) ∈ (if w == 0 then acc else (n, w) :: acc : Memory) ↔ (a, v) ∈ acc) := by
      intro w hne; split <;> simp [hne]
    have hgap : (∀ c ∈ old, c.1 < n) → ∀ w : Byte, (w = if kept n then 0 else Config.freeByte (fresh + n)) →
        ((a, v) ∈ scramble kept fresh n old (if w == 0 then acc else (n, w) :: acc) ↔ (a, v) ∈ old ∨ (a, v) ∈ acc) := by
      intro hlt' w hw
      rw [ih old _ hord hlt' hnz]
      by_cases han : a = n
      · subst han; simp [hw, ha]
      · rw [hput w han]
    match old, hord, hlt, hnz with
    | [], _, _, _ => exact hgap (fun _ h => nomatch h) _ rfl
    | (b, w) :: rest, hord, hlt, hnz =>
      obtain ⟨hb, hrest⟩ := List.pairwise_cons.1 hord
      unfold scramble
      by_cases hbn : b = n
      · subst hbn
        simp only [beq_self_eq_true, if_true]
        rw [ih rest _ hrest hb fun c hc => hnz c (List.mem_cons_of_mem _ hc), List.mem_cons]
        by_cases hab : a = b
        · have hw : w ≠ 0 := hnz (b, w) (List.mem_cons_self ..)
          subst hab
          simp only [ha, if_true, beq_iff_eq, hw, if_false, List.mem_cons, or_left_comm, or_assoc]
        · rw [hput _ hab]; simp [hab]
      · have hbn' : (b == n) = false := by simpa using hbn
        simp only [hbn', Bool.false_eq_true, if_false]
        refine hgap (List.forall_mem_cons.2 ⟨?_, fun c hc => ?_⟩) _ rfl
        · have := hlt (b, w) (List.mem_cons_self ..); dsimp only at this ⊢; omega
        · have h1 := hlt (b, w) (List.mem_cons_self ..); have h2 := hb c hc; dsimp only at h1 h2; omega

/-- What a start or the placing of a team leaves undefined are bytes outside keep regions, code and rings. -/
theorem Tile.read_scrambled (t : Tile) (fresh : Nat) {a : Nat} (hw : t.slice.wf = true) (ha : a < 0x80000) (hk : t.kept a = true) :
    (t.scrambled fresh).slice.read a = t.slice.read a := by
  obtain ⟨hord, hnz⟩ := Memory.wf_ordered hw
  refine Memory.read_congr (wf_scramble _ _ _ _ [] rfl fun _ h => nomatch h) hw fun v => ?_
  unfold Tile.scrambled
  rw [mem_scramble t.kept fresh hk v]
  · simp [ha]
  · exact List.pairwise_reverse.2 (hord.filter _)
  · intro c hc
    simpa using (List.mem_filter.1 (List.mem_reverse.1 hc)).2
  · exact fun c hc => hnz c (List.mem_filter.1 (List.mem_reverse.1 hc)).1

/-! ### The tile with an id -/

/-- Whether a tile has this id. -/
def FullTile.hasId (id : TileId) (u : FullTile) : Bool := u.tile.id == id

theorem State.tileAt_focus (s : State) : s.tileAt s.tile.id = s.curTile := by simp [State.tileAt]

theorem State.tileAt_of_ne (s : State) {id : TileId} (h : id ≠ s.tile.id) :
    s.tileAt id = (s.tiles.find? (FullTile.hasId id)).getD { tile := { id := id } } := if_neg (by simpa using h)

theorem State.tileAt_withTiles (s : State) (ts : List FullTile) {id : TileId} (h : id ≠ s.tile.id) :
    ({ s with tiles := ts } : State).tileAt id = (ts.find? (FullTile.hasId id)).getD { tile := { id := id } } :=
  State.tileAt_of_ne _ h

theorem find?_map_hasId (l : List FullTile) (id : TileId) (f : FullTile → FullTile) (hf : ∀ u, (f u).tile.id = u.tile.id) :
    (l.map f).find? (FullTile.hasId id) = (l.find? (FullTile.hasId id)).map f := by
  have hcomp : FullTile.hasId id ∘ f = FullTile.hasId id := funext fun u => by simp only [Function.comp, FullTile.hasId, hf]
  rw [List.find?_map, hcomp]

theorem State.tileAt_putTile_same (s : State) (u : FullTile) : (s.putTile u).tileAt u.tile.id = u := by
  unfold State.putTile
  split
  · exact (State.tileAt_focus (s.withFull u s.sel)).trans (State.curTile_withFull ..)
  · rename_i hne
    have hne : u.tile.id ≠ s.tile.id := by simpa using hne
    split
    · rename_i hin
      rw [State.tileAt_withTiles s _ hne, find?_map_hasId _ _ _ fun v => by split <;> simp_all]
      obtain ⟨w, hw⟩ := Option.isSome_iff_exists.1 (List.find?_isSome.2 (List.any_eq_true.1 hin))
      have hw' : s.tiles.find? (FullTile.hasId u.tile.id) = some w := hw
      rw [hw', Option.map_some, Option.getD_some]
      exact if_pos (List.find?_some hw)
    · rename_i hin
      have hnone : s.tiles.find? (FullTile.hasId u.tile.id) = none := by simpa [FullTile.hasId] using hin
      rw [State.tileAt_withTiles s _ hne, List.find?_append, hnone]
      simp [FullTile.hasId]

theorem State.tileAt_putTile_other (s : State) (u : FullTile) {id : TileId} (h : id ≠ u.tile.id) : (s.putTile u).tileAt id = s.tileAt id := by
  have hother : ∀ v : FullTile, FullTile.hasId id v = true → v.tile.id ≠ u.tile.id := fun v hv e =>
    h ((beq_iff_eq.1 hv).symm.trans e)
  unfold State.putTile
  split
  · rename_i heq
    have heq : u.tile.id = s.tile.id := by simpa using heq
    rw [State.tileAt_of_ne (s.withFull u s.sel) h, State.tileAt_of_ne s (heq ▸ h)]
    rfl
  · by_cases hid : id = s.tile.id
    · subst hid; split <;> exact (State.tileAt_focus _).trans (State.tileAt_focus s).symm
    split
    · rw [State.tileAt_withTiles s _ hid, State.tileAt_of_ne s hid, find?_map_hasId _ _ _ fun v => by split <;> simp_all]
      cases hf : s.tiles.find? (FullTile.hasId id) with
      | none => rfl
      | some v => exact if_neg (by simpa using hother v (List.find?_some hf))
    · have hu : FullTile.hasId id u = false := by simpa [FullTile.hasId] using h.symm
      rw [State.tileAt_withTiles s _ hid, State.tileAt_of_ne s hid]
      simp [List.find?_append, hu]

/-- The tile with an id after an update that keeps ids and leaves unused tiles alone. -/
theorem State.tileAt_mapTiles (s : State) (p : Tile → Bool) (f : FullTile → FullTile) (hf : ∀ u, (f u).tile.id = u.tile.id) (id : TileId)
    (hp : p { id := id } = false) : (s.mapTiles p f).tileAt id = if p (s.tileAt id).tile then f (s.tileAt id) else s.tileAt id := by
  have hcur : (s.mapTiles p f).curTile = if p s.curTile.tile then f s.curTile else s.curTile := by
    have := s.allTiles_mapTiles p f
    simp only [State.allTiles, List.map_cons, List.cons.injEq] at this
    exact this.1
  have htiles : (s.mapTiles p f).tiles = s.tiles.map fun u => if p u.tile then f u else u := by
    have := s.allTiles_mapTiles p f
    simp only [State.allTiles, List.map_cons, List.cons.injEq] at this
    exact this.2
  have hkeep : ∀ u : FullTile, (if p u.tile then f u else u).tile.id = u.tile.id := fun u => by split <;> simp [hf]
  have hfocus : (s.mapTiles p f).tile.id = s.tile.id := by
    rw [← State.curTile_tile, hcur, hkeep, State.curTile_tile]
  by_cases hid : id = s.tile.id
  · subst hid
    rw [State.tileAt_focus s, ← hfocus, State.tileAt_focus, hcur]
  · rw [State.tileAt_of_ne _ (hfocus.symm ▸ hid), State.tileAt_of_ne s hid, htiles, find?_map_hasId _ _ _ hkeep]
    cases s.tiles.find? (FullTile.hasId id) with
    | none => exact (if_neg (Bool.eq_false_iff.1 hp)).symm
    | some u => rfl

end Sys2Proof.Machine
end

section
/-! SUPPORT. The launch of a team: its tiles on their sites, and their start messages (01 R29, 17 R410, R411). -/

namespace Sys2Proof.Machine

/-! ### Frames -/

@[simp] theorem State.putTile_teams (s : State) (u : FullTile) : (s.putTile u).teams = s.teams := by
  unfold State.putTile; split; · rfl
  split <;> rfl
@[simp] theorem State.putTile_regions (s : State) (u : FullTile) : (s.putTile u).regions = s.regions := by
  unfold State.putTile; split; · rfl
  split <;> rfl

theorem State.occupy_frame (us : List FullTile) (s : State) : (s.occupy us).teams = s.teams ∧ (s.occupy us).regions = s.regions := by
  induction us generalizing s with
  | nil => exact ⟨rfl, rfl⟩
  | cons u us ih => exact ⟨(ih _).1.trans (State.putTile_teams ..), (ih _).2.trans (State.putTile_regions ..)⟩

/-! ### Tiles on their sites -/

/-- The tiles of other ids stay. -/
theorem State.tileAt_occupy_other (us : List FullTile) (s : State) {id : TileId} (h : id ∉ us.map (·.tile.id)) :
    (s.occupy us).tileAt id = s.tileAt id := by
  induction us generalizing s with
  | nil => rfl
  | cons u us ih =>
    obtain ⟨hne, hin⟩ := not_or.1 (fun e => h (List.mem_cons.2 e))
    exact (ih _ hin).trans (State.tileAt_putTile_other s { u with tile := (u.tile.onSite (s.tileAt u.tile.id).tile).scrambled s.fresh } hne)

/-- Each tile of a team, of different ids, stands on its site, with what the site keeps and with what is undefined. -/
theorem State.tileAt_occupy (us : List FullTile) (s : State) (hnd : (us.map (·.tile.id)).Nodup) {u : FullTile} (hu : u ∈ us) :
    ∃ site f, (s.occupy us).tileAt u.tile.id = { u with tile := (u.tile.onSite site).scrambled f } := by
  induction us generalizing s with
  | nil => cases hu
  | cons w us ih =>
    obtain ⟨hw, hnd⟩ := List.nodup_cons.1 hnd
    rcases List.mem_cons.1 hu with rfl | hu
    · exact ⟨_, _, (State.tileAt_occupy_other us _ hw).trans
        (State.tileAt_putTile_same s { u with tile := (u.tile.onSite (s.tileAt u.tile.id).tile).scrambled s.fresh })⟩
    · exact ih _ hnd hu

/-! ### The start messages (17 R410) -/

/-- A tile whose cores have their start messages. -/
def FullTile.begun (s : State) (t : Team) (u : FullTile) : FullTile :=
  { tile := { u.tile with arrivals := u.tile.arrivals + 1 }, stage := startCore s t u.tile .stage u.stage, comp := startCore s t u.tile .comp u.comp }

theorem State.startTeam_eq (s : State) (t : Team) : s.startTeam t =
    (s.mapTiles (fun u => u.owned && u.ctx == t.ctx && u.ttag == t.tag) (FullTile.begun s t)).putTeam { t with started := true } := rfl

theorem State.tileAt_startTeam (s : State) (t : Team) (id : TileId)
    (h : (s.tileAt id).tile.owned = true ∧ (s.tileAt id).tile.ctx = t.ctx ∧ (s.tileAt id).tile.ttag = t.tag) :
    (s.startTeam t).tileAt id = (s.tileAt id).begun s t := by
  obtain ⟨h1, h2, h3⟩ := h
  refine (State.tileAt_mapTiles s (fun u => u.owned && u.ctx == t.ctx && u.ttag == t.tag) (FullTile.begun s t) (fun _ => rfl) id rfl).trans
    (if_pos ?_)
  simp [h1, h2, h3]

theorem startCore_frame (s : State) (t : Team) (u : Tile) (k : CoreSel) (c : Core) :
    (startCore s t u k c).active = c.active ∧ ∀ r, (startCore s t u k c).S r = c.S r := by
  unfold startCore; dsimp only; split <;> exact ⟨rfl, fun _ => rfl⟩

/-- A valid berth 0 whose inbox is empty gets one message. -/
theorem startCore_inbox (s : State) (t : Team) (u : Tile) (k : CoreSel) (c : Core) (hc : c.berths[(0 : Fin 16)].inbox = [])
    (hv : ((startCore s t u k c).berths[(0 : Fin 16)]).valid = true) : ((startCore s t u k c).berths[(0 : Fin 16)]).inbox.length = 1 := by
  unfold startCore at hv ⊢
  dsimp only at hv ⊢
  split
  · rw [vput_same, hc]; rfl
  · rename_i hno; rw [if_neg hno] at hv; exact absurd hv hno

/-! ### A new tile -/

theorem Tile.onSite_slice (t site : Tile) : (t.onSite site).slice = t.slice := rfl
theorem Tile.onSite_kept (t site : Tile) (a : Nat) : (t.onSite site).kept a = t.kept a := rfl

/-- A core of a team that starts runs nothing: its scalars read 0 and its inboxes are empty. -/
def Core.unstarted (c : Core) : Prop := c.active = false ∧ (∀ r, c.S r = 0) ∧ ∀ n : Fin 16, c.berths[n].inbox = []

theorem newCore_unstarted (im : ModuleImage) (rank : Nat) (k : CoreSel) (tvec : Word) : (newCore im rank k tvec).unstarted := by
  refine foldl_keeps Core.unstarted _ (fun c d hc => ?_) im.berths _ ⟨rfl, fun r => ?_, fun n => ?_⟩
  · split
    · obtain ⟨ha, hs, hb⟩ := hc
      refine ⟨ha, hs, fun n => ?_⟩
      by_cases hn : n = d.2.n
      · subst hn; dsimp only; rw [vput_same]; rfl
      · dsimp only; rw [vput_other _ _ _ _ hn]; exact hb n
    · exact hc
  · simp [Core.S]
  · simp

theorem newTile_slice (s : State) (x : Ctx) (ctx part tag : Nat) (im : ModuleImage) (place : List Placed) (rank b : Nat) (bs : List Byte)
    (h : (im.bytes.filter fun x => x.1 == rank) = [(rank, b, bs)]) :
    (newTile s x ctx part tag im place rank).tile.slice = Memory.writeMany [] b (bs.map some) := by
  simp only [newTile, h, List.foldl_cons, List.foldl_nil]

theorem newTile_kept (s : State) (x : Ctx) (ctx part tag : Nat) (im : ModuleImage) (place : List Placed) (rank b : Nat) (bs : List Byte)
    (h : (im.bytes.filter fun x => x.1 == rank) = [(rank, b, bs)]) {j : Nat} (hj : j < bs.length) :
    (newTile s x ctx part tag im place rank).tile.kept (b + j) = true := by
  have hin : (b, bs.length) ∈ (newTile s x ctx part tag im place rank).tile.keeps := by simp [newTile, h]
  unfold Tile.kept
  rw [Bool.or_eq_true]
  exact .inl (List.any_eq_true.2 ⟨_, hin, by simp [hj]⟩)

/-- The bytes that an image has for a rank stand in the slice of its tile. -/
theorem newTile_read (s : State) (x : Ctx) (ctx part tag : Nat) (im : ModuleImage) (place : List Placed) (rank b : Nat) (bs : List Byte)
    (h : (im.bytes.filter fun x => x.1 == rank) = [(rank, b, bs)]) (hb : b + bs.length ≤ 0x80000) (site : Tile) (f j : Nat) (hj : j < bs.length) :
    (((newTile s x ctx part tag im place rank).tile.onSite site).scrambled f).slice.read (b + j) = bs[j] := by
  have hslice := newTile_slice s x ctx part tag im place rank b bs h
  have hw : (newTile s x ctx part tag im place rank).tile.slice.wf = true := hslice ▸ Memory.wf_writeMany _ _ _ rfl
  rw [Tile.read_scrambled _ f ((Tile.onSite_slice _ site).symm ▸ hw) (by omega)
    ((Tile.onSite_kept _ site _).trans (newTile_kept s x ctx part tag im place rank b bs h hj)), Tile.onSite_slice]
  refine (congrArg (Memory.read · (b + j)) hslice).trans ?_
  rw [Memory.read_writeMany _ _ _ _ rfl]
  simp [hj]

/-! ### The tiles of a team that is placed -/

theorem getElem?_placedAt (o : Nat × Nat) (w : Nat) (hs : List W32) (n : Nat) (hn : n < hs.length) :
    (placedAt o w hs)[n]? = some { hnd := hs[n], x := o.1 + n % w, y := o.2 + n / w } := by
  simp [placedAt, upto_eq_range, rankXy, hn]

theorem mapEdges_modes (n : Nat) (x : Ctx) (es : List (Nat × Nat)) : (mapEdges n x es).modes = x.modes := by
  have hpage : ∀ (y : Ctx) o, ((y.mapPage n o true).getD y).modes = y.modes := by
    intro y o
    unfold Ctx.mapPage
    split
    · rfl
    · split <;> rfl
  refine foldl_keeps (fun y : Ctx => y.modes = x.modes) _ (fun y e hy => ?_) es x rfl
  exact foldl_keeps (fun y : Ctx => y.modes = x.modes) _ (fun y c hy => (hpage y c.1).trans hy) _ _ hy

/-- The tiles that the placing of a launch makes, in the order of their ranks. -/
def State.newTiles (s : State) (q : Queued) (reg : Nat) (c : PlaceChoice) : List FullTile :=
  let t := s.makeTeam q reg c (s.nextCopy q)
  let x := mapEdges t.ctx (s.ctx t.ctx) q.pkt.image.edges
  (upto (t.w * t.h)).map fun n => newTile s x t.ctx x.part t.tag q.pkt.image (placedAt t.origin t.w t.handles) n

/-- The launch is off its queue and its team in the table, before its tiles stand on their sites. -/
def State.launched (s : State) (q : Queued) (reg : Nat) (c : PlaceChoice) : State :=
  let s' := (s.putCtx q.pkt.ctx (mapEdges q.pkt.ctx (s.ctx q.pkt.ctx) q.pkt.image.edges)).dequeue reg q
  { s' with teams := s.teams ++ [s.makeTeam q reg c (s.nextCopy q)] }

/-- Steps 2 to 5 of R29 at a rectangle, of a team that is not paired. -/
theorem State.place_eq (s : State) (q : Queued) (reg : Nat) (c : PlaceChoice) {o : Nat × Nat} (ho : c.origin = some o)
    (hp : (s.ctx q.pkt.ctx).modes.paired = false) :
    s.place q reg c = ((s.launched q reg c).occupy (s.newTiles q reg c)).startTeam (s.makeTeam q reg c (s.nextCopy q)) := by
  have hp' : (mapEdges q.pkt.ctx (s.ctx q.pkt.ctx) q.pkt.image.edges).modes.paired = false := by rw [mapEdges_modes, hp]
  have ho' : c.origin.isSome = true := by rw [ho]; rfl
  unfold State.place
  simp only [State.makeTeam, hp', ho', Bool.false_and, Bool.false_eq_true, if_false, if_true]
  simp only [State.launched, State.newTiles, State.makeTeam, ho', if_true]
  rfl

/-- Rank n of a team stands n along the rows of its rectangle (17 R411). -/
def rankId (o : Nat × Nat) (w n : Nat) : TileId := .grid (o.1 + n % w) (o.2 + n / w)

theorem rankId_inj {o : Nat × Nat} {w n m : Nat} (h : rankId o w n = rankId o w m) : n = m := by
  simp only [rankId, TileId.grid.injEq, Nat.add_left_cancel_iff] at h
  rw [← Nat.div_add_mod n w, ← Nat.div_add_mod m w, h.1, h.2]

/-- What the placing gives the tile of a rank: its id and its handle. -/
theorem newTile_placed (s : State) (x : Ctx) (ctx part tag : Nat) (im : ModuleImage) (o : Nat × Nat) (w : Nat) (hs : List W32) (n : Nat)
    (hn : n < hs.length) : (newTile s x ctx part tag im (placedAt o w hs) n).tile.id = rankId o w n ∧
      (newTile s x ctx part tag im (placedAt o w hs) n).tile.hnd = hs[n] := by
  simp [newTile, getElem?_placedAt o w hs n hn, rankId]

theorem State.newTiles_ids (s : State) (q : Queued) (reg : Nat) (c : PlaceChoice) {o : Nat × Nat} (ho : c.origin = some o)
    (hl : c.handles.length = q.pkt.w * q.pkt.h) : ((s.newTiles q reg c).map (·.tile.id)).Nodup := by
  have hids : (s.newTiles q reg c).map (·.tile.id) = (List.range (q.pkt.w * q.pkt.h)).map (rankId o q.pkt.w) := by
    simp only [State.newTiles, State.makeTeam, ho, Option.getD_some, upto_eq_range, List.map_map]
    exact List.map_congr_left fun n hn => (newTile_placed _ _ _ _ _ _ _ _ _ n (hl ▸ List.mem_range.1 hn)).1
  rw [hids]
  exact List.Nodup.map (fun _ _ => rankId_inj) List.nodup_range

end Sys2Proof.Machine
end

section
/-! SUPPORT. The launch at the front of a queue (01 R29, R30). -/

namespace Sys2Proof.Machine

theorem inOrder_single (q : Queued) (h : q.pkt.prio < 4) : inOrder [q] = [q] := by
  have hp : q.pkt.prio = 0 ∨ q.pkt.prio = 1 ∨ q.pkt.prio = 2 ∨ q.pkt.prio = 3 := by omega
  rcases hp with h | h | h | h <;> simp [inOrder, h]

/-- What the quay does with the only launch of its queue, where it takes it. -/
theorem launchQueueTake_single (s : State) (reg : Nat) (c : PlaceChoice) (q : Queued) (hq : (s.region reg).queue = [q]) (hp : q.pkt.prio < 4) :
    exec (.launchQueueTake reg c) s =
      if s.takes q = false then .next s
      else if s.tooLarge q.part q.pkt then .next ((s.dequeue reg q).complete q.part q.id q.reqid stTooLarge [])
      else if s.predsState q = .failed then .next ((s.dequeue reg q).complete q.part q.id q.reqid stAbandoned [])
      else if 2 ^ 24 ≤ (s.journalOf reg).records.length then .next s
      else if s.choiceOk q c then .next (s.place q reg c)
      else .next s := by
  show execLaunchQueueTake reg c s = _
  unfold execLaunchQueueTake
  rw [hq, inOrder_single q hp]
  cases ht : s.takes q with
  | false => rw [List.find?_singleton, ht]; rfl
  | true => simp only [List.find?_singleton, ht, if_true, beq_iff_eq, Bool.true_eq_false, if_false]

theorem State.dequeue_queue (s : State) (reg : Nat) (q : Queued) (hq : (s.region reg).queue = [q]) :
    ((s.dequeue reg q).region reg).queue = [] := by
  unfold State.dequeue
  rw [State.region_putRegion, hq]
  simp

theorem State.region_congr {s t : State} (h : t.regions = s.regions) (n : Nat) : t.region n = s.region n := by
  rw [State.region, State.region, h]

/-- A launch that does not start leaves the queue and completes with a status. -/
theorem State.dequeue_complete (s : State) (reg : Nat) (q : Queued) (st : Nat) (hq : (s.region reg).queue = [q])
    (hf : ∀ f ∈ (s.partOf q.part).finals, f.1 ≠ q.id) : ∃ ws,
      let t := (s.dequeue reg q).complete q.part q.id q.reqid st []
      (t.region reg).queue = [] ∧ t.teams = s.teams ∧
        t.completions = s.completions ++ [(s.rpcWords 9 q.part false false q.reqid (8 + 8 * ws.length) 0, st, ws)] :=
  ⟨_, (congrArg Region.queue (State.region_congr (State.complete_regions ..) reg)).trans (s.dequeue_queue reg q hq),
    State.complete_teams .., State.complete_completions (s.dequeue reg q) q.part q.id q.reqid st [] hf⟩

/-- Where every predecessor has ended and the context may have one more team, the quay takes the launch. -/
theorem State.takes_ended (s : State) (q : Queued) (hp : s.predsState q = .ended)
    (hn : (s.teams.filter fun t => t.ctx == q.pkt.ctx).length < 4096) : s.takes q = true := by
  simp [State.takes, hp, hn]

/-- What a choice that the quay may make says of the handles and of the tag. -/
theorem State.choiceOk_parts {s : State} {q : Queued} {c : PlaceChoice} (h : s.choiceOk q c = true) :
    c.handles.length = q.pkt.w * q.pkt.h ∧ ∀ t ∈ s.teams, t.is q.pkt.ctx c.tag = false := by
  simp only [State.choiceOk, State.handlesOk, Bool.and_eq_true, beq_iff_eq, Bool.not_eq_true', List.any_eq_false] at h
  obtain ⟨⟨⟨⟨⟨⟨hl, _⟩, _⟩, _⟩, _⟩, ht⟩, _⟩ := h
  exact ⟨hl, fun t hm => Bool.eq_false_iff.2 fun e => ht t hm ((Team.is_iff ..).1 e)⟩

/-! ### A launch that is placed -/

/-- A tile of rank n of a team that has just started (01 R29): it is the team's, with both cores at rest, one start message in each valid
berth 0, and the bytes of the image. -/
def FullTile.startedAs (v : FullTile) (q : Queued) (c : PlaceChoice) (n : Nat) : Prop :=
  v.tile.owned = true ∧ c.handles[n]? = some v.tile.hnd ∧ v.tile.ctx = q.pkt.ctx ∧ v.tile.ttag = c.tag ∧ v.tile.rank = n ∧
  v.stage.active = false ∧ v.comp.active = false ∧ (∀ r, v.stage.S r = 0 ∧ v.comp.S r = 0) ∧
  (∀ k, ((v.core k).berths[(0 : Fin 16)]).valid = true → ((v.core k).berths[(0 : Fin 16)]).inbox.length = 1) ∧
  ∀ b bs, (q.pkt.image.bytes.filter fun x => x.1 == n) = [(n, b, bs)] → b + bs.length ≤ 0x80000 →
    ∀ j (h : j < bs.length), v.tile.slice.read (b + j) = bs[j]

theorem State.tileAt_place (s : State) (q : Queued) (reg : Nat) (c : PlaceChoice) {o : Nat × Nat} (ho : c.origin = some o)
    (hp : (s.ctx q.pkt.ctx).modes.paired = false) (hl : c.handles.length = q.pkt.w * q.pkt.h) {n : Nat} (hn : n < q.pkt.w * q.pkt.h) :
    ((s.place q reg c).tileAt (rankId o q.pkt.w n)).startedAs q c n := by
  have hnh : n < c.handles.length := hl ▸ hn
  generalize hx : mapEdges q.pkt.ctx (s.ctx q.pkt.ctx) q.pkt.image.edges = x
  generalize hu : newTile s x q.pkt.ctx x.part c.tag q.pkt.image (placedAt o q.pkt.w c.handles) n = u
  have hmem : u ∈ s.newTiles q reg c := by
    simp only [State.newTiles, State.makeTeam, ho, Option.getD_some, upto_eq_range, hx, ← hu]
    exact List.mem_map_of_mem (f := fun n => newTile s x q.pkt.ctx x.part c.tag q.pkt.image (placedAt o q.pkt.w c.handles) n)
      (List.mem_range.2 hn)
  obtain ⟨hid, hhnd⟩ := newTile_placed s x q.pkt.ctx x.part c.tag q.pkt.image o q.pkt.w c.handles n hnh
  rw [hu] at hid hhnd
  obtain ⟨site, f, hocc⟩ := State.tileAt_occupy _ (s.launched q reg c) (s.newTiles_ids q reg c ho hl) hmem
  rw [hid] at hocc
  rw [s.place_eq q reg c ho hp, State.tileAt_startTeam _ _ _ (by rw [hocc, ← hu]; exact ⟨rfl, rfl, rfl⟩), hocc]
  obtain ⟨ha, hs, hb⟩ : u.stage.unstarted := hu ▸ newCore_unstarted q.pkt.image n .stage x.tvec
  obtain ⟨ha', hs', hb'⟩ : u.comp.unstarted := hu ▸ newCore_unstarted q.pkt.image n .comp x.tvec
  refine ⟨hu ▸ rfl, ?_, hu ▸ rfl, hu ▸ rfl, hu ▸ rfl, (startCore_frame ..).1.trans ha, (startCore_frame ..).1.trans ha',
    fun r => ⟨((startCore_frame ..).2 r).trans (hs r), ((startCore_frame ..).2 r).trans (hs' r)⟩, fun k hv => ?_, fun b bs hf hb j hj => ?_⟩
  · exact (List.getElem?_eq_getElem hnh).trans (congrArg some hhnd.symm)
  · cases k with
    | stage => exact startCore_inbox _ _ _ _ _ (hb 0) hv
    | comp => exact startCore_inbox _ _ _ _ _ (hb' 0) hv
  · exact hu ▸ newTile_read s x q.pkt.ctx x.part c.tag q.pkt.image (placedAt o q.pkt.w c.handles) n b bs hf hb site f j hj

@[simp] theorem State.putTeam_regions (s : State) (t : Team) : (s.putTeam t).regions = s.regions := rfl

/-- The team of a launch that is placed joins the table, and the launch leaves its queue. -/
theorem State.place_frame (s : State) (q : Queued) (reg : Nat) (c : PlaceChoice) {o : Nat × Nat} (ho : c.origin = some o)
    (hp : (s.ctx q.pkt.ctx).modes.paired = false) (hq : (s.region reg).queue = [q]) (ht : ∀ t ∈ s.teams, t.is q.pkt.ctx c.tag = false) :
    ((s.place q reg c).region reg).queue = [] ∧
      (s.place q reg c).teams = s.teams ++ [{ s.makeTeam q reg c (s.nextCopy q) with started := true }] := by
  rw [s.place_eq q reg c ho hp]
  generalize htm : s.makeTeam q reg c (s.nextCopy q) = tm
  have hkey : tm.ctx = q.pkt.ctx ∧ tm.tag = c.tag := htm ▸ ⟨rfl, rfl⟩
  obtain ⟨hot, hor⟩ := State.occupy_frame (s.newTiles q reg c) (s.launched q reg c)
  constructor
  · refine (congrArg Region.queue (State.region_congr (?_ : _ = (s.launched q reg c).regions) reg)).trans
      (State.dequeue_queue _ reg q (by rw [← hq]; rfl))
    rw [State.startTeam_eq, State.putTeam_regions, State.mapTiles_regions, hor]
  · have hteams : ((s.launched q reg c).occupy (s.newTiles q reg c)).teams = s.teams ++ [tm] := hot.trans (htm ▸ rfl)
    rw [State.startTeam_eq, State.putTeam_teams, State.mapTiles_teams, hteams, List.map_append]
    congr 1
    · refine (List.map_congr_left fun t hm => if_neg ?_).trans (List.map_id _)
      dsimp only
      rw [hkey.1, hkey.2, ht t hm]
      exact Bool.false_ne_true
    · simp

end Sys2Proof.Machine
end

section
/-! SUPPORT. The end of a team, its stops, and what O52 says of them (01 R31, 15 R375, R376). -/

namespace Sys2Proof.Machine

/-! ### The first ENDT, and the stops -/

theorem State.team?_putTeam {s : State} {ctx tag : Nat} {t t' : Team} (h : s.team? ctx tag = some t) (hk : t'.is ctx tag = true)
    (hp : t'.phase ≠ .ended) : (s.putTeam t').team? ctx tag = some t' := by
  obtain ⟨hc, htag⟩ := (Team.is_iff ..).1 hk
  obtain ⟨hm, hmc, hmt, _⟩ := State.team?_some h
  have hsome : ((s.putTeam t').team? ctx tag).isSome = true := by
    refine List.find?_isSome.2 ⟨t', ?_, by simp [hc, htag, hp]⟩
    rw [State.putTeam_teams]
    exact List.mem_map.2 ⟨t, hm, if_pos ((Team.is_iff ..).2 ⟨hmc.trans hc.symm, hmt.trans htag.symm⟩)⟩
  obtain ⟨u, hu⟩ := Option.isSome_iff_exists.1 hsome
  obtain ⟨hum, huc, hut, _⟩ := State.team?_some hu
  rcases State.mem_putTeam hum with rfl | ⟨_, hno⟩
  · exact hu
  · exact absurd ((Team.is_iff ..).2 ⟨huc.trans hc.symm, hut.trans htag.symm⟩) (Bool.eq_false_iff.1 hno)

/-- The collector's stops reach both cores of the tiles. -/
theorem State.sendStops_reach (s : State) (quay : Nat) {us : List FullTile} {v : FullTile} (hv : v ∈ us) (k : CoreSel) :
    ∃ q ∈ (s.sendStops quay (bothCores us)).net, q.vc = 7 ∧ q.dst = v.tile.id.endpoint ∧ q.dcore = k ∧ q.body = .stop := by
  have hmem : (v.tile.id, k) ∈ bothCores us := by
    refine List.mem_flatMap.2 ⟨v, hv, ?_⟩
    cases k <;> simp
  exact ⟨_, List.mem_append_right _ (List.mem_map_of_mem hmem), rfl, rfl, rfl, rfl⟩

theorem teamEnd_stops {s : State} {ctx tag : Nat} {t : Team} (h : s.team? ctx tag = some t) (he : t.endt = true) (hp : t.phase = .resident) :
    ∃ u, exec (.teamEnd ctx tag) s = .next u ∧ (u.team? ctx tag).map (·.phase) = some .stopping ∧ u.core = s.core ∧ u.tile = s.tile ∧
      ∀ v ∈ s.tilesOf t, ∀ k, ∃ q ∈ u.net, q.vc = 7 ∧ q.dst = v.tile.id.endpoint ∧ q.dcore = k ∧ q.body = .stop := by
  obtain ⟨_, hc, ht, _⟩ := State.team?_some h
  have hput := State.team?_putTeam (t' := { t with phase := .stopping, why := 1 }) h ((Team.is_iff ..).2 ⟨hc, ht⟩) fun e => nomatch e
  refine ⟨(s.putTeam { t with phase := .stopping, why := 1 }).sendStops t.quay (bothCores (s.tilesOf t)), ?_, ?_, rfl, rfl,
    fun v hv k => State.sendStops_reach _ _ hv k⟩
  · show execTeamEnd ctx tag s = _
    simp [execTeamEnd, h, he, hp]
  · exact congrArg (Option.map (·.phase)) hput

/-! ### The end -/

/-- The tiles of a team that is released are free. -/
theorem State.releaseTiles_free (s : State) (ctx tag : Nat) :
    ∀ v ∈ (s.releaseTiles ctx tag).allTiles, ¬ (v.tile.owned = true ∧ v.tile.ctx = ctx ∧ v.tile.ttag = tag) := by
  intro v hv
  unfold State.releaseTiles at hv
  rw [State.allTiles_mapTiles] at hv
  obtain ⟨u, _, rfl⟩ := List.mem_map.1 hv
  rintro ⟨h1, h2, h3⟩
  split at h1
  · cases h1
  · rename_i hno
    rw [if_neg hno] at h2 h3
    simp [h1, h2, h3] at hno

theorem State.removeTeam_frame (s : State) (t : Team) : (s.removeTeam t).parts = s.parts ∧ (s.removeTeam t).completions = s.completions ∧
    (s.removeTeam t).replace = s.replace ∧ (s.removeTeam t).frames = s.frames := by
  have h : (s.releaseTiles t.ctx t.tag).parts = s.parts ∧ (s.releaseTiles t.ctx t.tag).completions = s.completions ∧
      (s.releaseTiles t.ctx t.tag).replace = s.replace ∧ (s.releaseTiles t.ctx t.tag).frames = s.frames := by
    unfold State.releaseTiles
    exact ⟨State.mapTiles_parts .., State.mapTiles_completions .., State.mapTiles_replace .., State.mapTiles_frames ..⟩
  exact h

/-- s with the launch of a team completed, the team gone and its tiles free. -/
def State.ended (s u : State) (ctx tag : Nat) (reqid : BitVec 64) (st : Nat) (words : List Word) : Prop :=
  u.team? ctx tag = none ∧
  (∃ ws, u.completions = s.completions ++
    [(s.rpcWords 9 (s.ctx ctx).part false false reqid (8 + 8 * (words ++ ws).length) 0, st, words ++ ws)]) ∧
  ∀ v ∈ u.allTiles, ¬ (v.tile.owned = true ∧ v.tile.ctx = ctx ∧ v.tile.ttag = tag)

theorem State.ended_of_sameTeams {s u v : State} {ctx tag : Nat} {r : BitVec 64} {st : Nat} {words : List Word}
    (h : s.ended u ctx tag r st words) (hs : u.sameTeams v) : s.ended v ctx tag r st words := by
  obtain ⟨h1, h2, h3⟩ := h
  obtain ⟨e1, e2, e3⟩ := hs
  exact ⟨by rw [State.team?, e1]; exact h1, e2 ▸ h2, e3 ▸ h3⟩

theorem State.finishTeam_ended (s : State) (t : Team) (st : Nat) (words : List Word)
    (hf : ∀ f ∈ (s.partOf (s.ctx t.ctx).part).finals, f.1 ≠ t.launch) : s.ended (s.finishTeam t st words) t.ctx t.tag t.reqid st words := by
  have hctx : (s.removeTeam t).ctx t.ctx = s.ctx t.ctx := State.ctx_congr (s.removeTeam_ctxs t) _
  obtain ⟨hparts, hcomp, hrep, hfr⟩ := s.removeTeam_frame t
  unfold State.finishTeam
  dsimp only
  rw [hctx]
  refine ⟨?_, ⟨(s.removeTeam t).residency (s.ctx t.ctx).part, ?_⟩, ?_⟩
  · rw [State.team?, State.complete_teams, State.removeTeam_teams, List.find?_eq_none]
    intro u hu hp
    simp only [Bool.and_eq_true] at hp
    have hno := (List.mem_filter.1 hu).2
    simp [Team.is, hp] at hno
  · rw [State.complete_completions _ _ _ _ _ _ (by rw [State.partOf, hparts]; exact hf), hcomp, State.rpcWords, hrep, hfr]
    rfl
  · rw [State.complete_allTiles]
    exact s.releaseTiles_free t.ctx t.tag

/-- The record of a team's end: its replay counters and groups go, and the record is made. -/
def State.endRecord (s : State) (t : Team) (us : List FullTile) (flags : Nat) : State :=
  let s := s.putCtx t.ctx { s.ctx t.ctx with counters := s.replayCounters t us }
  (s.dropGroups t).journalCtx t.quay t.ctx flags

theorem State.endRecord_ctx (s : State) (t : Team) (us : List FullTile) (fl c : Nat) :
    ((s.endRecord t us fl).ctx c).lasting = (s.ctx c).lasting :=
  (State.ctx_journalCtx _ _ _ _ c).trans ((State.ctx_dropGroups _ t c).trans (State.ctx_put_keeps Ctx.lasting (s := s) rfl (by rfl) c))

/-- A state that a record makes of s: the completions, the frames and the partitions are those of s, and the partition of the context. -/
theorem State.ended_after {s r : State} {t : Team} {st : Nat} {words : List Word} (hl : ((r.ctx t.ctx)).lasting = (s.ctx t.ctx).lasting)
    (h : r.completions = s.completions ∧ r.parts = s.parts ∧ r.replace = s.replace ∧ r.frames = s.frames)
    (hf : ∀ f ∈ (s.partOf (s.ctx t.ctx).part).finals, f.1 ≠ t.launch) : s.ended (r.finishTeam t st words) t.ctx t.tag t.reqid st words := by
  obtain ⟨h1, h2, h3, h4⟩ := h
  have hpart : (r.ctx t.ctx).part = (s.ctx t.ctx).part := congrArg (fun x => x.1) hl
  obtain ⟨e1, ⟨ws, e2⟩, e3⟩ := r.finishTeam_ended t st words (by rw [hpart, State.partOf, h2]; exact hf)
  refine ⟨e1, ⟨ws, ?_⟩, e3⟩
  rw [e2, h1, hpart, State.rpcWords, State.rpcWords, h3, h4]

theorem State.settleKill_sameTeams (s : State) (ctx : Nat) : s.sameTeams (s.settleKill ctx) := by
  unfold State.settleKill; split <;> exact ⟨rfl, rfl, rfl⟩

theorem tilesQuiet {us : List FullTile} {all : Bool} (h : ∀ v ∈ us, tileQuiet all v = true) : us.all (tileQuiet all) = true := List.all_eq_true.2 h

theorem collectorQuiescent_done {s : State} {ctx tag : Nat} {t : Team} (h : s.team? ctx tag = some t) (hp : t.phase = .stopping)
    (hq : ∀ v ∈ s.tilesOf t, tileQuiet false v = true) (hf : ∀ f ∈ (s.partOf (s.ctx ctx).part).finals, f.1 ≠ t.launch)
    (hrep : t.rep = []) (hpair : (s.ctx ctx).modes.paired = false) :
    ∃ u, exec (.collectorQuiescent ctx tag) s = .next u ∧ s.ended u ctx tag t.reqid 0 (endWords t (s.tilesOf t)) := by
  obtain ⟨_, hc, ht, _⟩ := State.team?_some h
  subst hc ht
  refine ⟨(s.endPlain t (s.tilesOf t) stDone (endWords t (s.tilesOf t)) 0).settleReleases, ?_, ?_⟩
  · show execCollectorQuiescent t.ctx t.tag s = _
    simp [execCollectorQuiescent, h, hp, tilesQuiet hq, hrep, hpair]
  · refine State.ended_of_sameTeams ?_ (State.settleReleases_frame _).1
    exact State.ended_after (r := s.endRecord t (s.tilesOf t) 0) (s.endRecord_ctx ..) ⟨rfl, rfl, rfl, rfl⟩ hf

theorem collectorQuiescent_killed {s : State} {ctx tag : Nat} {t : Team} (h : s.team? ctx tag = some t) (hp : t.phase = .stopping)
    (hq : ∀ v ∈ s.tilesOf t, tileQuiet false v = true) (hf : ∀ f ∈ (s.partOf (s.ctx ctx).part).finals, f.1 ≠ t.launch)
    (hrep : t.rep ≠ []) (hdock : t.dockTiles = []) (hlast : ∀ v ∈ s.teams, v.launch = t.launch → v.ctx = ctx ∧ v.tag = tag) :
    ∃ u, exec (.collectorQuiescent ctx tag) s = .next u ∧ s.ended u ctx tag t.reqid 5 (endWords t (s.tilesOf t) ++ t.rep) := by
  obtain ⟨_, hc, ht, _⟩ := State.team?_some h
  subst hc ht
  have honly : (s.teams.any fun u => u.launch == t.launch && !u.is t.ctx t.tag) = false := by
    refine List.any_eq_false.2 fun u hu => ?_
    have := hlast u hu
    simp only [Bool.and_eq_true, beq_iff_eq, Bool.not_eq_true', not_and, Bool.not_eq_false, Team.is_iff]
    exact this
  refine ⟨((s.finishKilled t).settleKill t.ctx).settleReleases, ?_, ?_⟩
  · show execCollectorQuiescent t.ctx t.tag s = _
    simp [execCollectorQuiescent, h, hp, tilesQuiet hq, hrep]
  · refine State.ended_of_sameTeams (State.ended_of_sameTeams ?_ (State.settleKill_sameTeams ..)) (State.settleReleases_frame _).1
    rw [State.finishKilled_eq, honly, if_neg Bool.false_ne_true, hdock, List.append_nil]
    exact State.ended_after (s.killedRecord_ctx t t.ctx) ⟨rfl, rfl, rfl, rfl⟩ hf

/-! ### A team that does not stop in time -/

theorem stopAckTimeout_kills {s : State} {ctx tag : Nat} {t : Team} (h : s.team? ctx tag = some t) (hp : t.phase = .stopping ∨ t.phase = .swappingOut)
    (hs : ∃ v ∈ s.tilesOf t, v.stage.stopped = false ∨ v.comp.stopped = false) (hk : (s.ctx ctx).killing = false) :
    ∃ u, exec (.stopAckTimeout ctx tag) s = .next u ∧ u.killed ctx := by
  obtain ⟨v, hv, hstop⟩ := hs
  have hnot : tileQuiet (t.phase == .swappingOut) v = false := by
    rcases hstop with e | e <;> simp [tileQuiet, coreQuiet, e]
  have hphase : (t.phase == .stopping || t.phase == .swappingOut) = true := by
    rcases hp with e | e <;> rw [e] <;> rfl
  have hsil : s.silent t v = true := by
    unfold State.silent
    rw [if_pos hphase, hnot]
    rfl
  obtain ⟨u, hu⟩ := Option.isSome_iff_exists.1 (List.find?_isSome.2 ⟨v, hv, hsil⟩)
  have hkill : (s.atCore u.tile.id (if u.stage.stopped then .comp else .stage) fun s =>
      (s.killContext true ctx 7 .none 0 0).atCore u.tile.id .stage State.giveUp).settleReleases.killed ctx := by
    refine State.settleReleases_killed (State.atCore_killed _ _ _ (State.atCore_killed _ _ _ ?_))
    exact State.focusOn_killed _ _ (State.killContext_killed _ _ _ _ _ _ _ (by
      rw [State.ctx_congr (State.focusOn_ctxs ..)]; exact hk))
  refine ⟨_, show execStopAckTimeout ctx tag s = _ by simp only [execStopAckTimeout, h, hu] <;> rfl, ?_⟩
  split
  · exact State.retireStart_killed _ _ _ _ _ hkill
  · exact hkill

/-! ### A stop at a core -/

theorem State.returnLeases_none (s : State) (h : s.tile.leases = []) : s.returnLeases = s := by
  have htile : ({ s with tile := { s.tile with leases := [] } } : State) = s := by rw [← h]
  simp [State.returnLeases, State.returnRecalled, h, htile]

/-- A core with nothing to finish stops as it is. -/
theorem State.stopCore_still (s : State) (h1 : s.core.rpsh = []) (h2 : s.core.unit.ops = []) (h3 : s.tile.leases = []) :
    s.stopCore = { s with core := { s.core with
      stopped := true, stopAsked := false, asleep := none, xlatReq := none, plReq := none, iabSkip := false } } := by
  have hhead : s.core.mmqHead = none := by simp [Core.mmqHead, h2]
  simp [State.stopCore, h1, rpshFillAll, hhead, State.withdraw_none s h2, State.returnLeases_none s h3]

theorem stopRequest_unasked (s : State) (h : s.core.stopAsked = false) : exec .stopRequest s = .next s := by
  show execStopRequest s = _
  simp [execStopRequest, h]

theorem stopRequest_stops {s : State} {t : Team} (h : s.team? s.tile.ctx s.tile.ttag = some t) (hp : t.phase = .stopping ∨ t.phase = .swappingOut)
    (ho : s.tile.owned = true) (hn : s.core.stopped = false) (h1 : s.core.rpsh = []) (h2 : s.core.unit.ops = []) (h3 : s.tile.leases = [])
    (ht : s.trapDue = false) (ha : s.core.stopAsked = true) :
    ∃ u, exec .stopRequest s = .next u ∧ u.core.stopped = true ∧ u.core.pc = s.core.pc ∧ (∀ r, u.S r = s.S r) ∧ u.core.rf = s.core.rf ∧
      u.core.rq = s.core.rq ∧ u.tile = s.tile ∧
      (u.team? s.tile.ctx s.tile.ttag).map (·.acks) = some (t.acks ++ [(s.tile.id.xy.1, s.tile.id.xy.2, s.sel)]) := by
  have hstop : s.stopping = true := by
    rcases hp with e | e <;> simp [State.stopping, h, e]
  obtain ⟨_, hc, htag, hne⟩ := State.team?_some h
  refine ⟨s.stopCore.putTeam { t with acks := t.acks ++ [(s.tile.id.xy.1, s.tile.id.xy.2, s.sel)] }, ?_, ?_⟩
  · show execStopRequest s = _
    simp [execStopRequest, ho, ha, hstop, hn, ht, h]
  · rw [s.stopCore_still h1 h2 h3]
    have hput := State.team?_putTeam (t' := { t with acks := t.acks ++ [(s.tile.id.xy.1, s.tile.id.xy.2, s.sel)] }) h
      ((Team.is_iff ..).2 ⟨hc, htag⟩) hne
    exact ⟨rfl, rfl, fun _ => rfl, rfl, rfl, rfl, congrArg (Option.map (·.acks)) hput⟩

/-! ### O52 -/

/-- Settles O52: the launch at the front of a queue, clause by clause of what the quay may answer; the end of a team, by what its record
leaves of the completions; its stops at a core that has nothing to finish, and the kill of one that does not stop. -/
theorem teamsAreLaunchedAndEnded : Obligations.TeamsAreLaunchedAndEnded := by
  unfold Obligations.TeamsAreLaunchedAndEnded
  refine ⟨fun s reg c q hq hprio hf => ?_, fun s ctx tag t ht => ⟨fun he hp => teamEnd_stops ht he hp, fun hp hquiet hf => ?_, ?_⟩,
    fun s t ht hp ho hn h1 h2 h3 htrap => ⟨fun ha => stopRequest_unasked s ha, fun ha => stopRequest_stops ht hp ho hn h1 h2 h3 htrap ha⟩⟩
  · have hexec := launchQueueTake_single s reg c q hq hprio
    dsimp only
    refine ⟨fun hl hw => ?_, fun hl hfail => ?_, fun hl => ?_, fun o hend hl ho hok hj hmore hpair => ?_⟩
    · rw [hexec, if_pos (by simp [State.takes, hl, hw])]
    · obtain ⟨ws, hdone⟩ := s.dequeue_complete reg q stAbandoned hq hf
      exact ⟨_, ws, by simp [hexec, State.takes, hl, hfail], hdone⟩
    · obtain ⟨ws, hdone⟩ := s.dequeue_complete reg q stTooLarge hq hf
      exact ⟨_, ws, by simp [hexec, State.takes, hl], hdone⟩
    · obtain ⟨hlen, hkey⟩ := State.choiceOk_parts hok
      obtain ⟨hqueue, hteams⟩ := s.place_frame q reg c ho hpair hq hkey
      refine ⟨_, _, ?_, hqueue, hteams, rfl, ?_, rfl, rfl, rfl, rfl, rfl, ?_, rfl, fun n hn => s.tileAt_place q reg c ho hpair hlen hn⟩
      · rw [hexec, if_neg (by simp [s.takes_ended q hend hmore]), if_neg (by simp [hl]), if_neg (by simp [hend]),
          if_neg (Nat.not_le.2 hj), if_pos hok]
      · exact if_pos (by rw [ho]; rfl)
      · exact congrArg (Option.getD · (0, 0)) ho
  · dsimp only
    refine ⟨fun hrep hpair => ?_, fun hrep hdock hlast => ?_⟩
    · obtain ⟨u, hu, hnone, ⟨ws, hws⟩, hfree⟩ := collectorQuiescent_done ht hp hquiet hf hrep hpair
      exact ⟨u, ws, hu, hnone, hws, hfree⟩
    · obtain ⟨u, hu, hnone, ⟨ws, hws⟩, hfree⟩ := collectorQuiescent_killed ht hp hquiet hf hrep hdock hlast
      exact ⟨u, ws, hu, hnone, hws, hfree⟩
  · exact fun hp hs hk => stopAckTimeout_kills ht hp hs hk

end Sys2Proof.Machine
end

section
/-! SUPPORT. The words of a bundle, read back: its prefixes, their charges and the base word (02 R37, R40, R45-R47). -/

namespace Sys2Proof

/-! ### Reading prefixes -/

/-- The prefixes of a bundle read one after the other, the first of them its word k. -/
def Prefixes.addAll : Prefixes → List Nat → Nat → Prefixes
  | p, [], _ => p
  | p, w :: ws, k => (p.add k w).addAll ws (k + 1)

theorem Prefixes.addAll_append (p : Prefixes) (xs ys : List Nat) (k : Nat) :
    p.addAll (xs ++ ys) k = (p.addAll xs k).addAll ys (k + xs.length) := by
  induction xs generalizing k p with
  | nil => rfl
  | cons x xs ih => simp [addAll, ih, Nat.add_comm, Nat.add_left_comm]

theorem decodeFrom_prefixes {pre : List Nat} {k w : Nat} {p : Prefixes} (hpre : ∀ v ∈ pre, 30 ≤ v / 2048) (hk : k + pre.length ≤ 4)
    (hw : w / 2048 < 30) : decodeFrom (pre ++ [w]) k p = decodeBase (p.addAll pre k) (k + pre.length) w := by
  induction pre generalizing k p with
  | nil => simp [decodeFrom, Prefixes.addAll, hw]
  | cons v pre ih =>
    have hv : ¬ v / 2048 < 30 := Nat.not_lt.2 (hpre v List.mem_cons_self)
    rw [List.length_cons] at hk
    have hrest := ih (k := k + 1) (p := p.add k v) (fun x hx => hpre x (List.mem_cons_of_mem _ hx)) (by omega)
    rw [List.cons_append, decodeFrom, if_neg hv, if_neg (by omega), hrest, List.length_cons, Prefixes.addAll, Nat.add_right_comm, Nat.add_assoc]

/-- The fields of a word of the prefixes, of kind c with payload v (R45, R46). -/
theorem prefixWord_fields {c v : Nat} (hc : c < 8) (hv : v < 256) :
    (63488 + 256 * c + v) / 2048 = 31 ∧ (63488 + 256 * c + v) % 256 = v ∧ (63488 + 256 * c + v) / 256 % 8 = c := by omega

theorem Prefixes.addAll_xpg {p : Prefixes} (hp : p.xpg = none) {v : Nat} (hv : v < 8) (k : Nat) :
    p.addAll (if v == 0 then [] else [0xF800 + v]) k = { p with xpg := if v = 0 then none else some (v, k) } := by
  obtain ⟨hw, hpay, hkind⟩ := prefixWord_fields (c := 0) (v := v) (by decide) (by omega)
  by_cases h0 : v = 0
  · cases p; cases hp; simp [addAll, h0]
  · have hv8 : v / 8 = 0 ∧ v % 8 ≠ 0 := by omega
    simp_all [addAll, add, charge]

theorem Prefixes.addAll_xrg {p : Prefixes} (hp : p.xrg = none) {q : Option Nat} (hq : ∀ v ∈ q, v < 256 ∧ v / 16 % 2 = 0) (k : Nat) :
    p.addAll (q.map (0xF900 + ·)).toList k = { p with xrg := q.map (·, k) } := by
  cases q with
  | none => cases p; cases hp; rfl
  | some v =>
    obtain ⟨hv, h0⟩ := hq v rfl
    obtain ⟨hw, hpay, hkind⟩ := prefixWord_fields (c := 1) (by decide) hv
    simp_all [addAll, add, charge]

theorem Prefixes.addAll_rep {p : Prefixes} (hp : p.rep = none) {q : Option Nat} (hq : ∀ v ∈ q, v < 144) (k : Nat) :
    p.addAll (q.map (0xFA00 + ·)).toList k = { p with rep := q.map (·, k) } := by
  cases q with
  | none => cases p; cases hp; rfl
  | some v =>
    have hv := hq v rfl
    obtain ⟨hw, hpay, hkind⟩ := prefixWord_fields (c := 2) (v := v) (by decide) (by omega)
    have h0 : ¬ (v / 128 = 1 ∧ ¬ v / 16 % 8 = 0) := by omega
    simp_all [addAll, add, charge, -not_and]

theorem Prefixes.addAll_xlv {p : Prefixes} (hp : p.xlv = none) {q : Option Nat} (hq : ∀ v ∈ q, v < 256 ∧ v % 4 = 0) (k : Nat) :
    p.addAll (q.map (0xFB00 + ·)).toList k = { p with xlv := q.map (·, k) } := by
  cases q with
  | none => cases p; cases hp; rfl
  | some v =>
    obtain ⟨hv, h0⟩ := hq v rfl
    obtain ⟨hw, hpay, hkind⟩ := prefixWord_fields (c := 3) (by decide) hv
    simp_all [addAll, add, charge]

theorem Prefixes.addAll_xsc {p : Prefixes} (hp : p.xsc = none) {q : Option Nat} (hq : ∀ v ∈ q, v < 32 ∧ v % 8 < 5) (k : Nat) :
    p.addAll (q.map (0xFC00 + ·)).toList k = { p with xsc := q.map (·, k) } := by
  cases q with
  | none => cases p; cases hp; rfl
  | some v =>
    obtain ⟨hv, h5⟩ := hq v rfl
    obtain ⟨hw, hpay, hkind⟩ := prefixWord_fields (c := 4) (v := v) (by decide) (by omega)
    have h32 : v / 32 = 0 := by omega
    simp_all [addAll, add, charge, Nat.not_le.2 h5]

theorem Prefixes.addAll_xwt {p : Prefixes} (hp : p.xwt = none) {q : Option Nat} (hq : ∀ v ∈ q, v < 256) (k : Nat) :
    p.addAll (q.map (0xFD00 + ·)).toList k = { p with xwt := q.map (·, k) } := by
  cases q with
  | none => cases p; cases hp; rfl
  | some v =>
    obtain ⟨hw, hpay, hkind⟩ := prefixWord_fields (c := 5) (by decide) (hq v rfl)
    simp_all [addAll, add, charge]

theorem Prefixes.addAll_xims (p : Prefixes) {vs : List Nat} (hvs : ∀ v ∈ vs, v < 2048) (k : Nat) :
    ∃ n, p.addAll (vs.map (0xF000 + ·)) k = { p with xims := p.xims ++ vs, ximAt := n } := by
  induction vs generalizing k p with
  | nil => exact ⟨p.ximAt, by simp [addAll]⟩
  | cons v vs ih =>
    obtain ⟨hv, hvs⟩ := List.forall_mem_cons.1 hvs
    have hword : (0xF000 + v) / 2048 = 30 ∧ (0xF000 + v) % 2048 = v := by omega
    obtain ⟨n, hn⟩ := ih (p.add k (0xF000 + v)) hvs (k + 1)
    refine ⟨n, ?_⟩
    rw [List.map_cons, addAll, hn]
    simp [add, hword]

/-! ### The words of a bundle -/

/-- Payloads of XRG and XLV whose "must be 0" bits are 0, and of REP, XSC and XWT that are assigned (R46). -/
def XrgFits (q : Option Nat) : Prop := ∀ v ∈ q, v < 256 ∧ v / 16 % 2 = 0
def XlvFits (q : Option Nat) : Prop := ∀ v ∈ q, v < 256 ∧ v % 4 = 0
def RepFits (q : Option Nat) : Prop := ∀ v ∈ q, v < 144
def XscFits (q : Option Nat) : Prop := ∀ v ∈ q, v < 32 ∧ v % 8 < 5
def XwtFits (q : Option Nat) : Prop := ∀ v ∈ q, v < 256

/-- The fields of a bundle fit their places (R44-R46). -/
structure Bundle.Fits (b : Bundle) : Prop where
  page : b.page < 8
  op : b.op < 30
  o : b.o < 2048
  xrg : XrgFits b.xrg
  rep : RepFits b.rep
  xlv : XlvFits b.xlv
  xsc : XscFits b.xsc
  xwt : XwtFits b.xwt
  xims : ∀ v ∈ b.xims, v < 2048

/-- What the decoder has read of a bundle's prefixes: no charge, and the payloads of the bundle. -/
structure Prefixes.Are (p : Prefixes) (b : Bundle) : Prop where
  charges : p.charges = []
  page : (p.xpg.map (·.1)).getD 0 = b.page
  xrg : p.xrg.map (·.1) = b.xrg
  rep : p.rep.map (·.1) = b.rep
  xlv : p.xlv.map (·.1) = b.xlv
  xsc : p.xsc.map (·.1) = b.xsc
  xwt : p.xwt.map (·.1) = b.xwt
  xims : p.xims = b.xims

theorem Bundle.Fits.read {b : Bundle} (h : b.Fits) : (({} : Prefixes).addAll b.prefixWords 0).Are b := by
  obtain ⟨hpage, -, -, hxrg, hrep, hxlv, hxsc, hxwt, hxims⟩ := h
  simp only [Bundle.prefixWords, Prefixes.addAll_append]
  rw [Prefixes.addAll_rep rfl hrep, Prefixes.addAll_xpg rfl hpage, Prefixes.addAll_xrg rfl hxrg, Prefixes.addAll_xlv rfl hxlv,
    Prefixes.addAll_xsc rfl hxsc, Prefixes.addAll_xwt rfl hxwt]
  obtain ⟨n, hn⟩ := Prefixes.addAll_xims _ hxims _
  rw [hn]
  constructor <;> simp [Function.comp_def]
  split <;> simp_all

theorem Bundle.prefixWords_ge (b : Bundle) : ∀ v ∈ b.prefixWords, 30 ≤ v / 2048 := by
  intro v hv
  simp only [prefixWords, List.mem_append, Option.mem_toList, Option.map_eq_some_iff, List.mem_map] at hv
  obtain (((((⟨x, -, rfl⟩ | hv) | ⟨x, -, rfl⟩) | ⟨x, -, rfl⟩) | ⟨x, -, rfl⟩) | ⟨x, -, rfl⟩) | ⟨x, -, rfl⟩ := hv
  case inl.inl.inl.inl.inl.inr =>
    split at hv
    · cases hv
    · rw [List.mem_singleton.1 hv]; omega
  all_goals omega

theorem Prefixes.Are.bundle {p : Prefixes} {b : Bundle} (h : p.Are b) (hb : b.Fits) : p.bundle (b.op * 2048 + b.o) = b := by
  obtain ⟨-, hpage, hxrg, hrep, hxlv, hxsc, hxwt, hxims⟩ := h
  obtain ⟨hp, -, ho, -⟩ := hb
  have hword : (b.op * 2048 + b.o) / 2048 = b.op ∧ (b.op * 2048 + b.o) % 2048 = b.o := by omega
  simp [Prefixes.bundle, hpage, hxrg, hrep, hxlv, hxsc, hxwt, hxims, hword, Nat.mod_eq_of_lt hp]

/-- All prefixes of a bundle are of kinds that its base word accepts (R47). -/
structure Bundle.Accepted (b : Bundle) (a : Kinds) : Prop where
  xim : (a.xim || b.xims.isEmpty) = true
  xrg : (a.xrg || b.xrg.isNone) = true
  rep : (a.rep || b.rep.isNone) = true
  xlv : (a.xlv || b.xlv.isNone) = true
  xsc : (a.xsc || b.xsc.isNone) = true
  xwt : (a.xwt || b.xwt.isNone) = true

/-- One kind of the prefixes judged: charged where the base word does not accept it. -/
def Prefixes.judge (ok : Bool) (q : Option (Nat × Nat)) (p : Prefixes) : Prefixes :=
  match q with
  | some (_, k) => p.charge k (!ok) .notAccepted
  | none => p

theorem Prefixes.check_eq (p : Prefixes) (a : Kinds) :
    p.check a = judge a.xwt p.xwt (judge a.xsc p.xsc (judge a.xlv p.xlv (judge a.rep p.rep (judge a.xrg p.xrg
      (p.charge p.ximAt (!p.xims.isEmpty && !a.xim) .notAccepted))))) := rfl

theorem Prefixes.judge_accepted {ok : Bool} {q : Option (Nat × Nat)} (h : (ok || (q.map (·.1)).isNone) = true) (p : Prefixes) :
    judge ok q p = p := by
  cases q with
  | none => rfl
  | some x =>
    obtain rfl : ok = true := by simpa using h
    rfl

theorem Prefixes.Are.check {p : Prefixes} {b : Bundle} {a : Kinds} (h : p.Are b) (ha : b.Accepted a) : (p.check a).charges = [] := by
  obtain ⟨hnone, -, hxrg, hrep, hxlv, hxsc, hxwt, hxims⟩ := h
  obtain ⟨him, hrg, hre, hlv, hsc, hwt⟩ := ha
  have hximAt : (!p.xims.isEmpty && !a.xim) = false := by rw [hxims]; cases h : a.xim <;> simp_all
  rw [check_eq, judge_accepted (hxwt ▸ hwt), judge_accepted (hxsc ▸ hsc), judge_accepted (hxlv ▸ hlv), judge_accepted (hrep ▸ hre),
    judge_accepted (hxrg ▸ hrg), hximAt, charge, if_neg Bool.false_ne_true, hnone]

/-- What makes a bundle's words decode to i: its fields fit, its base word is assigned and accepts the prefixes, and stands for i. -/
structure Bundle.Reads (b : Bundle) (i : Instr) : Prop where
  fits : b.Fits
  accepted : ∃ a, kindsOf b.page b.op b.fm b.fd b.fb = some a ∧ b.Accepted a
  build : b.build = some i

theorem Bundle.Reads.decode {b : Bundle} {i : Instr} (h : b.Reads i) (hi : i.wf = true) {ws : List Nat} (hws : b.words = some ws) :
    decode ws = .instr i ws.length := by
  obtain ⟨hfits, ⟨a, hkinds, hacc⟩, hbuild⟩ := h
  have hare := hfits.read
  obtain ⟨hlen, rfl⟩ : b.prefixWords.length ≤ 4 ∧ b.prefixWords ++ [b.op * 2048 + b.o] = ws := by
    simpa [words] using hws
  have hop : (b.op * 2048 + b.o) / 2048 < 30 := by have := hfits.op; have := hfits.o; omega
  rw [Sys2Proof.decode, decodeFrom_prefixes b.prefixWords_ge (by omega) hop]
  simp [decodeBase, hare.bundle hfits, hkinds, hbuild, hi, hare.check hacc, lowest]

end Sys2Proof
end

section
/-! SUPPORT. The fields of a bundle that the encoder fills, as the decoder reads them (02 R44-R46, R51, R66). -/

namespace Sys2Proof

section
variable {p op m d a e i o hd ha hb c : Nat} {x r l s w : Option Nat} {is : List Nat}

/-! ### Fields of a base word (R44) -/

@[simp] theorem Bundle.fm_f3 (h1 : d < 8) (h2 : a < 8) (h3 : e < 8) : (Bundle.mk p op (f3 m d a e) x r l s w is).fm = m := by
  simp only [fm, f3]; omega
@[simp] theorem Bundle.fd_f3 (h1 : d < 8) (h2 : a < 8) (h3 : e < 8) : (Bundle.mk p op (f3 m d a e) x r l s w is).fd = d := by
  simp only [fd, f3]; omega
@[simp] theorem Bundle.fa_f3 (h1 : a < 8) (h2 : e < 8) : (Bundle.mk p op (f3 m d a e) x r l s w is).fa = a := by
  simp only [fa, f3]; omega
@[simp] theorem Bundle.fb_f3 (h1 : e < 8) : (Bundle.mk p op (f3 m d a e) x r l s w is).fb = e := by
  simp only [fb, f3]; omega
@[simp] theorem Bundle.id_fi (h1 : i < 256) : (Bundle.mk p op (fi d i) x r l s w is).id = d := by
  simp only [id, fi]; omega
@[simp] theorem Bundle.i_fi (h1 : i < 256) : (Bundle.mk p op (fi d i) x r l s w is).i = i := by
  simp only [Bundle.i, fi]; omega
@[simp] theorem Bundle.id_f2i (h1 : a < 8) (h2 : i < 32) : (Bundle.mk p op (f2i d a i) x r l s w is).id = d := by
  simp only [id, f2i]; omega
@[simp] theorem Bundle.ja_f2i (h1 : a < 8) (h2 : i < 32) : (Bundle.mk p op (f2i d a i) x r l s w is).ja = a := by
  simp only [ja, f2i]; omega
@[simp] theorem Bundle.j_f2i (h1 : i < 32) : (Bundle.mk p op (f2i d a i) x r l s w is).j = i := by
  simp only [j, f2i]; omega

@[simp] theorem f3_lt (h0 : m < 4) (h1 : d < 8) (h2 : a < 8) (h3 : e < 8) : f3 m d a e < 2048 := by unfold f3; omega
@[simp] theorem fi_lt (h1 : d < 8) (h2 : i < 256) : fi d i < 2048 := by unfold fi; omega
@[simp] theorem f2i_lt (h1 : d < 8) (h2 : a < 8) (h3 : i < 32) : f2i d a i < 2048 := by unfold f2i; omega

/-! ### Fields of the prefixes (R46): a payload of zero needs none (R66) -/

theorem nz_getD (v : Nat) : (nz v).getD 0 = v := by
  unfold nz; split <;> simp_all
theorem eq_of_mem_nz {u v : Nat} (h : v ∈ nz u) : v = u := by
  unfold nz at h; split at h <;> simp_all

@[simp] theorem Bundle.hd_xr (h1 : ha ≤ 1) (h2 : hb ≤ 1) (h3 : c < 16) : (Bundle.mk p op o (nz (xr hd ha hb c)) r l s w is).hd = hd := by
  simp only [Bundle.hd, nz_getD, xr]; omega
@[simp] theorem Bundle.ha_xr (h1 : ha ≤ 1) (h2 : hb ≤ 1) (h3 : c < 16) : (Bundle.mk p op o (nz (xr hd ha hb c)) r l s w is).ha = ha := by
  simp only [Bundle.ha, nz_getD, xr]; omega
@[simp] theorem Bundle.hb_xr (h1 : hb ≤ 1) (h2 : c < 16) : (Bundle.mk p op o (nz (xr hd ha hb c)) r l s w is).hb = hb := by
  simp only [Bundle.hb, nz_getD, xr]; omega
@[simp] theorem Bundle.c_xr (h1 : c < 16) : (Bundle.mk p op o (nz (xr hd ha hb c)) r l s w is).c = c := by
  simp only [Bundle.c, nz_getD, xr]; omega
@[simp] theorem Bundle.hd_none : (Bundle.mk p op o none r l s w is).hd = 0 := by simp [Bundle.hd]
@[simp] theorem Bundle.ha_none : (Bundle.mk p op o none r l s w is).ha = 0 := by simp [Bundle.ha]
@[simp] theorem Bundle.hb_none : (Bundle.mk p op o none r l s w is).hb = 0 := by simp [Bundle.hb]
@[simp] theorem Bundle.c_none : (Bundle.mk p op o none r l s w is).c = 0 := rfl

@[simp] theorem Bundle.rowBase_lv {base : Fin 16} {tx : Nat} {bank : Bool} (h : tx ≤ 1) :
    (Bundle.mk p op o x r (nz (lv base.val tx bank)) s w is).rowBase = base := by
  apply Fin.ext
  cases bank <;> simp [Bundle.rowBase, Bundle.row, nz_getD, lv, Fin.ofNat] <;> omega
@[simp] theorem Bundle.tx_lv {base tx : Nat} {bank : Bool} (h : tx ≤ 1) : (Bundle.mk p op o x r (nz (lv base tx bank)) s w is).tx = tx := by
  cases bank <;> simp [Bundle.tx, nz_getD, lv] <;> omega
@[simp] theorem Bundle.row_lv {base tx : Nat} {bank : Bool} (h : tx ≤ 1) : (Bundle.mk p op o x r (nz (lv base tx bank)) s w is).row = base := by
  cases bank <;> simp [Bundle.row, nz_getD, lv] <;> omega
@[simp] theorem Bundle.bankOf_lv {base tx : Nat} {bank : Bool} : (Bundle.mk p op o x r (nz (lv base tx bank)) s w is).bankOf = bank := by
  cases bank <;> simp only [Bundle.bankOf, Bundle.bank, nz_getD, lv] <;> simp <;> omega
@[simp] theorem Bundle.row_bank {k : Nat} (h : k ≤ 1) : (Bundle.mk p op o x r (nz (k * 4)) s w is).row = 0 := by
  simp only [Bundle.row, nz_getD]; omega
@[simp] theorem Bundle.tx_bank {k : Nat} (h : k ≤ 1) : (Bundle.mk p op o x r (nz (k * 4)) s w is).tx = 0 := by
  simp only [Bundle.tx, nz_getD]; omega
@[simp] theorem Bundle.bank_bank {k : Nat} (h : k ≤ 1) : (Bundle.mk p op o x r (nz (k * 4)) s w is).bank = k := by
  simp only [Bundle.bank, nz_getD]; omega
@[simp] theorem Bundle.row_row_bank {j k : Nat} (h : k ≤ 1) : (Bundle.mk p op o x r (nz (j * 16 + k * 4)) s w is).row = j := by
  simp only [Bundle.row, nz_getD]; omega
@[simp] theorem Bundle.tx_row_bank {j k : Nat} (h : k ≤ 1) : (Bundle.mk p op o x r (nz (j * 16 + k * 4)) s w is).tx = 0 := by
  simp only [Bundle.tx, nz_getD]; omega
@[simp] theorem Bundle.bank_row_bank {j k : Nat} (h : k ≤ 1) : (Bundle.mk p op o x r (nz (j * 16 + k * 4)) s w is).bank = k := by
  simp only [Bundle.bank, nz_getD]; omega
@[simp] theorem Bundle.row_none : (Bundle.mk p op o x r none s w is).row = 0 := by simp [Bundle.row]
@[simp] theorem Bundle.tx_none : (Bundle.mk p op o x r none s w is).tx = 0 := by simp [Bundle.tx]
@[simp] theorem Bundle.noXlv_none : (Bundle.mk p op o x r none s w is).noXlv = true := rfl

@[simp] theorem Bundle.waOf_wt {wa : Fin 16} {wb : Nat} : (Bundle.mk p op o x r l s (nz (wt wa.val wb)) is).waOf = wa := by
  apply Fin.ext
  simp only [Bundle.waOf, nz_getD, wt, Fin.ofNat]; omega
@[simp] theorem Bundle.wbOf_wt {wa wb : Fin 16} : (Bundle.mk p op o x r l s (nz (wt wa.val wb.val)) is).wbOf = wb := by
  apply Fin.ext
  simp only [Bundle.wbOf, nz_getD, wt, Fin.ofNat]; omega

@[simp] theorem Bundle.repOf_repCode {n : Rep} : (Bundle.mk p op o x (repCode n) l s w is).repOf = n := by
  rcases n with - | n | n
  · rfl
  · simp [Bundle.repOf, repCode]
  · simp [Bundle.repOf, repCode, Fin.ext_iff]; omega

@[simp] theorem Bundle.xscOf_xscCode {n : Option Xsc} : (Bundle.mk p op o x r l (xscCode n) w is).xscOf = n := by
  rcases n with - | ⟨ord, scope⟩
  · rfl
  · cases ord <;> cases scope <;> rfl
@[simp] theorem Bundle.ordOf_order {n : Option Order} : (Bundle.mk p op o x r l (n.map (8 * orderCode ·)) w is).ordOf = n := by
  rcases n with - | ord
  · rfl
  · cases ord <;> rfl
@[simp] theorem Bundle.scScope_order {n : Option Order} : (Bundle.mk p op o x r l (n.map (8 * orderCode ·)) w is).scScope = 0 := by
  rcases n with - | ord <;> simp [Bundle.scScope]

/-! ### Operands read from several prefixes -/

@[simp] theorem Bundle.rowPos_mk {q : RowPos} :
    (Bundle.mk p op o x (repCode q.rep) (nz (lv q.base.val 0 q.bank)) s w is).rowPos = q := by simp [Bundle.rowPos]
@[simp] theorem Bundle.rowX_mk {q : RowX} {tx : Nat} (h : tx ≤ 1) :
    (Bundle.mk p op o (nz (xr hd ha hb q.c.val)) (repCode q.rep) (nz (lv q.base.val tx q.bank)) s w is).rowX = q := by
  simp [Bundle.rowX, h, rc]
@[simp] theorem Bundle.matX_mk {q : MatX} :
    (Bundle.mk p op o x (repCode q.rep) l s (nz (wt q.wa.val q.wb.val)) is).matX = q := by simp [Bundle.matX]
theorem typeOf_typeCode (ty : RType) : typeOf (typeCode ty % 4 + 4 * (typeCode ty / 4)) = ty := by cases ty <;> rfl
@[simp] theorem typeHigh_le (ty : RType) : typeCode ty / 4 ≤ 1 := by cases ty <;> decide
@[simp] theorem Bundle.ty_mk {ty : RType} {base : Nat} {bank : Bool} (h1 : d < 8) (h2 : a < 8) (h3 : e < 8) :
    (Bundle.mk p op (f3 (typeCode ty % 4) d a e) x r (nz (lv base (typeCode ty / 4) bank)) s w is).ty = ty := by
  simp [Bundle.ty, h1, h2, h3, typeOf_typeCode]
@[simp] theorem Bundle.scOrd_some {v : Nat} : (Bundle.mk p op o x r l (some v) w is).scOrd = v / 8 := rfl
@[simp] theorem Bundle.scOrd_none : (Bundle.mk p op o x r l none w is).scOrd = 0 := by simp [Bundle.scOrd]
@[simp] theorem Bundle.fenceScope_some {v : Nat} : (Bundle.mk p op o x r l (some v) w is).fenceScope = v % 8 := rfl
@[simp] theorem Bundle.fenceScope_none : (Bundle.mk p op o x r l none w is).fenceScope = 3 := rfl
@[simp] theorem Bundle.immU_nil {k v : Nat} : (Bundle.mk p op o x r l s w []).immU k v = v := by simp [Bundle.immU]

/-! ### Payloads that fit -/

@[simp] theorem xrgFits_none : XrgFits none := by simp [XrgFits]
@[simp] theorem repFits_none : RepFits none := by simp [RepFits]
@[simp] theorem xlvFits_none : XlvFits none := by simp [XlvFits]
@[simp] theorem xscFits_none : XscFits none := by simp [XscFits]
@[simp] theorem xwtFits_none : XwtFits none := by simp [XwtFits]
@[simp] theorem xrgFits_xr (h0 : hd ≤ 1) (h1 : ha ≤ 1) (h2 : hb ≤ 1) (h3 : c < 16) : XrgFits (nz (xr hd ha hb c)) := by
  intro v hv
  rw [eq_of_mem_nz hv, xr]; omega
@[simp] theorem repFits_repCode (n : Rep) : RepFits (repCode n) := by
  rcases n with - | n | n <;> simp [RepFits, repCode] <;> omega
@[simp] theorem xlvFits_lv (base : Fin 16) {tx : Nat} (h : tx ≤ 1) (bank : Bool) : XlvFits (nz (lv base.val tx bank)) := by
  intro v hv
  rw [eq_of_mem_nz hv, lv]; cases bank <;> simp <;> omega
@[simp] theorem xlvFits_bank {k : Nat} (h : k ≤ 1) : XlvFits (nz (k * 4)) := by
  intro v hv
  rw [eq_of_mem_nz hv]; omega
@[simp] theorem xlvFits_lv_zero (bank : Bool) : XlvFits (nz (lv 0 0 bank)) := xlvFits_lv 0 (by decide) bank
theorem xlvFits_row_bank {j k : Nat} (hj : j < 16) (h : k ≤ 1) : XlvFits (nz (j * 16 + k * 4)) := by
  intro v hv
  rw [eq_of_mem_nz hv]; omega
@[simp] theorem xlvFits_eight_mul (half : Fin 2) {k : Nat} (h : k ≤ 1) : XlvFits (nz (8 * half.val * 16 + k * 4)) := xlvFits_row_bank (by omega) h
@[simp] theorem xlvFits_four_mul (quarter : Fin 4) {k : Nat} (h : k ≤ 1) : XlvFits (nz (4 * quarter.val * 16 + k * 4)) :=
  xlvFits_row_bank (by omega) h
@[simp] theorem xscFits_xscCode (n : Option Xsc) : XscFits (xscCode n) := by
  rcases n with - | ⟨ord, scope⟩
  · exact xscFits_none
  · cases ord <;> cases scope <;> simp [XscFits, xscCode, orderCode, scopeCode]
@[simp] theorem xscFits_order (n : Option Order) : XscFits (n.map (8 * orderCode ·)) := by
  rcases n with - | ord
  · exact xscFits_none
  · cases ord <;> simp [XscFits, orderCode]
@[simp] theorem xscFits_some {v : Nat} (h : v < 5) : XscFits (some v) := by
  simp only [XscFits, Option.mem_def, Option.some.injEq]; omega
@[simp] theorem xwtFits_wt (wa wb : Fin 16) : XwtFits (nz (wt wa.val wb.val)) := by
  intro v hv
  rw [eq_of_mem_nz hv, wt]; omega
@[simp] theorem xwtFits_wt_zero (wa : Fin 16) : XwtFits (nz (wt wa.val 0)) := xwtFits_wt wa 0

end

/-! ### Registers and codes -/

@[simp] theorem mod_eight_lt (d : Nat) : d % 8 < 8 := Nat.mod_lt _ (by decide)
@[simp] theorem reg_high_le (d : Fin 16) : d.val / 8 ≤ 1 := by omega
@[simp] theorem fin_four_lt_eight (d : Fin 4) : d.val < 8 := by omega
@[simp] theorem fin_lt_256 (d : Fin 128) : d.val < 256 := by omega
@[simp] theorem fin_add_128_lt_256 (d : Fin 128) : d.val + 128 < 256 := by omega
@[simp] theorem r4_mod_div (d : Fin 16) : r4 (d.val % 8) (d.val / 8) = d := by
  apply Fin.ext; simp only [r4, Fin.ofNat]; omega
@[simp] theorem tile_mod_div (d : TReg) : tile (d.val % 8) (d.val / 8) = d := by
  apply Fin.ext; simp only [tile, Fin.ofNat]; omega
@[simp] theorem r3_val (d : Fin 8) : r3 d.val = d := by simp [r3]
@[simp] theorem r2_val (d : Fin 4) : r2 d.val = d := by simp [r2]
@[simp] theorem rc_val (d : Fin 16) : rc d.val = d := by simp [rc]
@[simp] theorem n8_val (d : Fin 256) : n8 d.val = d := by simp [n8]
@[simp] theorem shOf_val (d : Fin 64) : shOf d.val = d := by simp [shOf]
@[simp] theorem n7_val (d : Fin 128) : n7 d.val = d := by simp [n7]
@[simp] theorem n7_add_128 (d : Fin 128) : n7 (d.val + 128) = d := by simp [n7, Fin.ext_iff]
@[simp] theorem mod_four_lt (d : Nat) : d % 4 < 4 := Nat.mod_lt _ (by decide)
@[simp] theorem typeCode_lt (ty : RType) : typeCode ty < 8 := by cases ty <;> decide
@[simp] theorem typeOf_code (ty : RType) : typeOf (typeCode ty) = ty := by cases ty <;> rfl
@[simp] theorem scopeOf_code (n : Scope) : scopeOf (scopeCode n) = n := by cases n <;> rfl
@[simp] theorem scopeCode_lt (n : Scope) : scopeCode n < 5 := by cases n <;> decide
@[simp] theorem scopeCode_lt_eight (n : Scope) : scopeCode n < 8 := by cases n <;> decide
@[simp] theorem psetOf_code (n : PhaserSet) : psetOf (psetCode n) = n := by cases n <;> rfl
@[simp] theorem psetCode_lt (n : PhaserSet) : psetCode n < 3 := by cases n <;> decide
@[simp] theorem psetCode_lt_eight (n : PhaserSet) : psetCode n < 8 := by cases n <;> decide
@[simp] theorem keepOf_code (n : Keep) : keepOf (keepCode n) = n := by cases n <;> rfl
@[simp] theorem keepCode_lt (n : Keep) : keepCode n < 3 := by cases n <;> decide
@[simp] theorem keepCode_lt_sixteen (n : Keep) : keepCode n < 16 := by cases n <;> decide
@[simp] theorem nselOf_code (n : NarrowSel) : nselOf (nselCode n) = n := by rcases n with ⟨- | -, - | -⟩ <;> rfl
@[simp] theorem nselCode_lt (n : NarrowSel) : nselCode n < 4 := by rcases n with ⟨- | -, - | -⟩ <;> decide
@[simp] theorem nselCode_lt_eight (n : NarrowSel) : nselCode n < 8 := Nat.lt_trans (nselCode_lt n) (by decide)
@[simp] theorem halfOf_eight_mul (n : Fin 2) : halfOf (8 * n.val) = n := by simp [halfOf]
@[simp] theorem quarterOf_four_mul (n : Fin 4) : quarterOf (4 * n.val) = n := by simp [quarterOf]
@[simp] theorem sizeOf_sizeCode (z : Size) : sizeOf (sizeCode z) = z := by cases z <;> rfl
@[simp] theorem sizeCode_lt (z : Size) : sizeCode z < 4 := by cases z <;> decide

/-! ### Code 13, the zero row -/

@[simp] theorem lo13_none : lo13 none = 5 := rfl
@[simp] theorem lo13_some (t : Nat) : lo13 (some t) = t := rfl
@[simp] theorem hi13_none : hi13 none = 1 := rfl
@[simp] theorem hi13_some (t : Nat) : hi13 (some t) = 0 := rfl
@[simp] theorem bank13_le (t : Option TReg) : bank13 t ≤ 1 := by cases t <;> simp [bank13]
@[simp] theorem bank13_some (t : TReg) : bank13 (some t) = t.val / 8 := rfl
@[simp] theorem opt13_zeroRow {α : Type} (x : α) : opt13 5 1 x = none := rfl
@[simp] theorem opt13_low {α : Type} {lo : Nat} (h : lo < 8) (x : α) : opt13 lo 0 x = some x := by
  rw [opt13, if_neg]; simp; omega

/-! ### From the fields to the reading -/

theorem Bundle.fits_mk {p op o : Nat} {x r l s w : Option Nat} {is : List Nat} : (Bundle.mk p op o x r l s w is).Fits ↔
    p < 8 ∧ op < 30 ∧ o < 2048 ∧ XrgFits x ∧ RepFits r ∧ XlvFits l ∧ XscFits s ∧ XwtFits w ∧ ∀ v ∈ is, v < 2048 :=
  ⟨fun ⟨h1, h2, h3, h4, h5, h6, h7, h8, h9⟩ => ⟨h1, h2, h3, h4, h5, h6, h7, h8, h9⟩,
    fun ⟨h1, h2, h3, h4, h5, h6, h7, h8, h9⟩ => ⟨h1, h2, h3, h4, h5, h6, h7, h8, h9⟩⟩

/-- A bundle in format F3, whose kinds of prefixes may depend on its fields (R44, R47). -/
theorem Bundle.reads_f3 {p op m d a e : Nat} {x r l s w : Option Nat} {is : List Nat} {k : Kinds} {i : Instr}
    (hk : kindsOf p op m d e = some k) (hacc : (Bundle.mk p op (f3 m d a e) x r l s w is).Accepted k)
    (hb : (Bundle.mk p op (f3 m d a e) x r l s w is).build = some i)
    (hd : d < 8 := by simp) (ha : a < 8 := by simp) (he : e < 8 := by simp)
    (hf : (Bundle.mk p op (f3 m d a e) x r l s w is).Fits := by simp [Bundle.fits_mk]) :
    (Bundle.mk p op (f3 m d a e) x r l s w is).Reads i :=
  ⟨hf, ⟨k, by rw [fm_f3 hd ha he, fd_f3 hd ha he, fb_f3 he]; exact hk, hacc⟩, hb⟩

end Sys2Proof
end

section
/-! SUPPORT. Immediates split over a base word and XIM payloads, put together again (02 R45, R66). -/

namespace Sys2Proof

theorem fewest_fits {fits : Nat → Bool} {k : Nat} (h : fewest fits = some k) : fits k = true := by
  unfold fewest at h
  grind

theorem ximSplit_spec (k v : Nat) (hv : v < 2048 ^ k) :
    (ximSplit k v).length = k ∧ (∀ u ∈ ximSplit k v, u < 2048) ∧ (ximSplit k v).foldl (fun t u => t * 2048 + u) 0 = v := by
  induction k generalizing v with
  | zero => simp_all [ximSplit]
  | succ k ih =>
    obtain ⟨hlen, hlt, hfold⟩ := ih (v / 2048) (by rw [pow_succ] at hv; omega)
    refine ⟨by simp [ximSplit, hlen], fun u hu => ?_, ?_⟩
    · rcases List.mem_append.1 hu with hu | hu
      · exact hlt u hu
      · have := List.mem_singleton.1 hu; omega
    · simp [ximSplit, List.foldl_append, hfold]; omega

/-- n in w base bits and k XIM payloads. -/
theorem imm_spec {w k n : Nat} (hn : n < 2 ^ (w + 11 * k)) :
    n % 2 ^ w < 2 ^ w ∧ (∀ u ∈ ximSplit k (n / 2 ^ w), u < 2048) ∧
    ∀ b : Bundle, b.xims = ximSplit k (n / 2 ^ w) → b.xims.length = k ∧ b.immU w (n % 2 ^ w) = n := by
  have hq : n / 2 ^ w < 2048 ^ k := by
    rw [Nat.div_lt_iff_lt_mul (by positivity), show 2048 = 2 ^ 11 from rfl, ← pow_mul, ← pow_add, Nat.add_comm]; exact hn
  obtain ⟨hlen, hlt, hfold⟩ := ximSplit_spec k _ hq
  refine ⟨Nat.mod_lt _ (by positivity), hlt, fun b hb => ?_⟩
  rw [Bundle.immU, hb, hfold]
  exact ⟨hlen, by rw [Nat.mul_comm]; exact Nat.div_add_mod n (2 ^ w)⟩

theorem immBitsU_spec {w v : Nat} {q : Nat × List Nat} (h : immBitsU w v = some q) :
    q.1 < 2 ^ w ∧ (∀ u ∈ q.2, u < 2048) ∧
      ∀ p op o x r l s wt, (Bundle.mk p op o x r l s wt q.2).immU w q.1 = v := by
  obtain ⟨k, hk, rfl⟩ := Option.map_eq_some_iff.1 h
  obtain ⟨hlo, hxs, himm⟩ := imm_spec (of_decide_eq_true (fewest_fits hk))
  exact ⟨hlo, hxs, fun _ _ _ _ _ _ _ _ => (himm _ rfl).2⟩

/-- A signed number of N bits from its residue modulo 2^N. -/
theorem signed_of_residue {N : Nat} (hN : 0 < N) {v : Int} (h : fitsS N v = true) :
    (v % (2 ^ N : Nat)).toNat < 2 ^ N ∧
      (if (v % (2 ^ N : Nat)).toNat < 2 ^ (N - 1) then ((v % (2 ^ N : Nat)).toNat : Int)
        else ((v % (2 ^ N : Nat)).toNat : Int) - (2 ^ N : Nat)) = v := by
  obtain ⟨M, rfl⟩ : ∃ M, N = M + 1 := ⟨N - 1, by omega⟩
  obtain ⟨hlo, hhi⟩ : -(2 ^ M : Int) ≤ v ∧ v < (2 ^ M : Int) := by simpa [fitsS] using h
  rw [show (2 ^ M : Int) = ((2 ^ M : Nat) : Int) by push_cast; rfl] at hlo hhi
  rw [Nat.add_sub_cancel, pow_succ]
  generalize 2 ^ M = m at *
  rcases lt_or_ge v 0 with hv | hv
  · have hr : v % ((m * 2 : Nat) : Int) = v + (m * 2 : Nat) := by
      rw [← Int.add_emod_right]; exact Int.emod_eq_of_lt (by omega) (by omega)
    rw [hr]
    constructor
    · omega
    · rw [if_neg (by omega)]; omega
  · have hr : v % ((m * 2 : Nat) : Int) = v := Int.emod_eq_of_lt hv (by omega)
    rw [hr]
    constructor
    · omega
    · rw [if_pos (by omega)]; omega

theorem immBitsS_spec {w : Nat} (hw : 0 < w) {v : Int} {q : Nat × List Nat} (h : immBitsS w v = some q) :
    q.1 < 2 ^ w ∧ (∀ u ∈ q.2, u < 2048) ∧
      ∀ p op o x r l s wt, (Bundle.mk p op o x r l s wt q.2).immS w q.1 = v := by
  obtain ⟨k, hk, rfl⟩ := Option.map_eq_some_iff.1 h
  obtain ⟨hn, hv⟩ := signed_of_residue (Nat.add_pos_left hw _) (fewest_fits hk)
  obtain ⟨hlo, hxs, himm⟩ := imm_spec hn
  refine ⟨hlo, hxs, fun p op o x r l s wt => ?_⟩
  obtain ⟨hlen, hval⟩ := himm (Bundle.mk p op o x r l s wt _) rfl
  simp only [Bundle.immS, hlen, hval]
  exact hv

/-! ### Immediates that fit their instruction have base bits and payloads -/

theorem fewest_isSome {fits : Nat → Bool} {k : Nat} (hk : k ≤ 4) (h : fits k = true) : (fewest fits).isSome = true := by
  unfold fewest
  interval_cases k <;> simp [h] <;> grind

end Sys2Proof
end

section
/-! SUPPORT. Every instruction's bundle reads back as the instruction, page by page of the opcode map (02 R51). -/

namespace Sys2Proof

/-- The instructions with an immediate that XIM extends, and the shifts by a constant. -/
def Instr.takesImm : Instr → Bool
  | .addi .. | .li .. | .andi .. | .shli .. | .shri .. | .shai .. | .ldw .. | .ldd .. | .stw .. | .std .. | .ldr .. | .str .. | .bra ..
  | .call .. | .bz .. | .bnz .. | .loop .. | .bccEq .. | .bccNe .. | .bccLt .. | .bccGe .. | .bccuLtu .. | .bccuGeu .. | .ldt ..
  | .stt .. | .trap .. | .cro .. => true
  | _ => false

/-- The page of an instruction without such an immediate. -/
def Instr.fixedPage (i : Instr) : Option Nat :=
  match i.takesImm with
  | true => none
  | false => i.bundle.map (·.page)

/-! In each case the page and the opcode are literals, so that the bundle's `build` evaluates to the alternatives of one base word,
`req … <|> …`; the lemmas on the fields then decide which of them is taken and with which operands. -/

theorem Instr.reads_page0 {i : Instr} {b : Bundle} (hp : i.fixedPage = some 0) (h : i.bundle = some b) :
    b.Reads i := by
  cases i with
  | nop | endAct | ret | brk | endTeam | add d a b | sub d a b | and d a b | or d a b | xor d a b | shl d a b | shr d a b | sha d a b
  | mul d a b | mulh d a b | div d a b | rem d a b | seq d a b | slt d a b | sltu d a b | sel d a b | min d a b | max d a b
  | minu d a b | maxu d a b | mov d a | qrd d q | qwr q a | sendS a b rep x | sendR d a c p x | sendT t a rep x | sendH a rep x
  | inpop d | inrd d a | inrdR d base bank | insk d | jr a | callr a =>
    cases h
    exact Bundle.reads_f3 rfl ⟨rfl, rfl, rfl, rfl, rfl, rfl⟩ (show (req _ _ <|> _) = _ by simp [req])
  | rwaitFull g n | rwaitFree g n | radvHead g n | radvTail g n =>
    cases h
    exact ⟨by simp [Bundle.fits_mk], ⟨_, rfl, ⟨rfl, rfl, rfl, rfl, rfl, rfl⟩⟩, show (req _ _ <|> _) = _ by simp [req]⟩
  | _ => cases hp

theorem Instr.reads_page1 {i : Instr} {b : Bundle} (hp : i.fixedPage = some 1) (h : i.bundle = some b) :
    b.Reads i := by
  cases i with
  | mulhu d a b | divu d a b | remu d a b | clz d a | ctz d a | popc d a | brev d a | sextB d a | sextH d a | sextW d a | zextW d a
  | addw d a b | subw d a b | mulw d a b | divw d a b | remw d a b | divuw d a b | remuw d a b | pmk d a b | pspc d a | prnk d a
  | poff d a =>
    cases h
    exact Bundle.reads_f3 rfl ⟨rfl, rfl, rfl, rfl, rfl, rfl⟩ (show (req _ _ <|> _) = _ by simp [req])
  | bext d a b | bins d a b | padd d a b =>
    cases h
    exact Bundle.reads_f3 rfl ⟨rfl, rfl, rfl, rfl, rfl, rfl⟩ (show req _ _ = _ by simp [req])
  | _ => cases hp

theorem Instr.reads_page2 {i : Instr} {b : Bundle} (hp : i.fixedPage = some 2) (h : i.bundle = some b) :
    b.Reads i := by
  cases i with
  | ldx z d a b x | ldxs z d a b x | stx z d a b x | lds d a b p x | sts d a b p x | cld z d a b x | cst z d a b x | alloc d a b
  | free a =>
    cases h
    exact Bundle.reads_f3 rfl ⟨rfl, rfl, rfl, rfl, rfl, rfl⟩ (show req _ _ = _ by simp [req])
  | cbnd d a b | cnar d a b c | cchk d a b | fenceRwTile | fenceRwQuad | fenceRwRegion | fenceRwWafer | fenceRwPod | fenceR
  | fenceWTile | fenceWQuad | fenceWRegion | fenceWWafer | fenceWPod | fenceI =>
    cases h
    exact Bundle.reads_f3 rfl ⟨rfl, rfl, rfl, rfl, rfl, rfl⟩ (show (req _ _ <|> _) = _ by simp [req])
  | _ => cases hp

theorem Instr.reads_page3 {i : Instr} {b : Bundle} (hp : i.fixedPage = some 3) (h : i.bundle = some b) :
    b.Reads i := by
  cases i with
  | amoaAdd d a b w x | amoaAnd d a b w x | amoaOr d a b w x | amoaXor d a b w x | amobMin d a b w x | amobMax d a b w x
  | amobMinu d a b w x | amobMaxu d a b w x | amobSwap d a b w x =>
    cases h
    cases w <;> exact Bundle.reads_f3 rfl ⟨rfl, rfl, rfl, rfl, rfl, rfl⟩ (show (req _ _ <|> _) = _ by simp [req])
  | casW d a b x | casD d a b x | phnew d a | phreg d a b | phdrop d a | phqry d a | pharr d a o | phwait d a o | phaw d a o
  | bar d sc ps | bara d sc ps | barw d sc ps | cpy d a x | cpy2d d a x | cpyGth d a x | cpyRing d a x | kvget d a b | kvset d a b
  | kvdel d b | kvlst d a b | collRed d a x | collBcst d a x | collAgth d a x | plh d a | plq d a =>
    cases h
    exact Bundle.reads_f3 rfl ⟨rfl, rfl, rfl, rfl, rfl, rfl⟩ (show (req _ _ <|> _) = _ by simp [req])
  | waitp d a =>
    cases h
    exact Bundle.reads_f3 rfl ⟨rfl, rfl, rfl, rfl, rfl, rfl⟩ (show req _ _ = _ by simp [req])
  | _ => cases hp

theorem Instr.reads_page4 {i : Instr} {b : Bundle} (hp : i.fixedPage = some 4) (h : i.bundle = some b) :
    b.Reads i := by
  cases i with
  | vadd ty d a b x | vsub ty d a b x | vmul ty d a b x | vfma ty d a b x | vmin ty d a b x | vmax ty d a b x | vand ty d a b x
  | vor ty d a b x | vxor ty d a b x | vshl ty d a b x | vshr ty d a b x | vceq ty d a b x | vclt ty d a b x | vcle ty d a b x
  | vsel ty d a b x | vbc ty d a b x | vshuf ty d a b x | vrot ty d a b x =>
    cases h
    exact Bundle.reads_f3 rfl ⟨rfl, rfl, rfl, rfl, rfl, rfl⟩ (show some _ = _ by simp)
  | vunaAbs ty d a x | vunaNeg ty d a x | vunaExp ty d a x | vunaLog2 ty d a x | vunaRcp ty d a x | vunaRsq ty d a x
  | vunaTanh ty d a x | vunaSig ty d a x | vredSum ty d a x | vredMax ty d a x | vredMin ty d a x | vredSsq ty d a x =>
    cases h
    exact Bundle.reads_f3 rfl ⟨rfl, rfl, rfl, rfl, rfl, rfl⟩ (show (req _ _ <|> _) = _ by simp [req])
  | vcvt ty src d a x | vmov d a x | vscan ty d a x | viota ty d a x =>
    cases h
    exact Bundle.reads_f3 rfl ⟨rfl, rfl, rfl, rfl, rfl, rfl⟩ (show req _ _ = _ by simp [req])
  | _ => cases hp

theorem Instr.reads_page5 {i : Instr} {b : Bundle} (hp : i.fixedPage = some 5) (h : i.bundle = some b) :
    b.Reads i := by
  cases i with
  | mmaAcc d a b m | mmaOvw d a b m | mmaKeepb d a b m | mmaKeepa d a b m | chkv d a | cfix d a | csrd d a b | macrdF32 t a
  | macrdBf16 t half a | macrdT8 t quarter a c | mwait0 | mwait1 | mwait2 | mwait3 | mwait4 | mwait5 | mwait6 | mwait7 | mwaitAll =>
    cases h
    exact Bundle.reads_f3 rfl ⟨rfl, rfl, rfl, rfl, rfl, rfl⟩ (show (req _ _ <|> _) = _ by simp [req])
  | mmq d a b wa wb | mmg d a b m | macz d | macwr d t | mtr d a | rcfg g a | rqry d g =>
    cases h
    exact Bundle.reads_f3 rfl ⟨rfl, rfl, rfl, rfl, rfl, rfl⟩ (show req _ _ = _ by simp [req])
  | rpsh t g rep | rtak t g rep w =>
    cases h
    cases t
    · exact Bundle.reads_f3 rfl ⟨rfl, rfl, rfl, rfl, rfl, rfl⟩ (show req _ _ = _ by simp [req])
    · exact Bundle.reads_f3 rfl ⟨rfl, rfl, rfl, rfl, rfl, rfl⟩ (show req _ _ = _ by simp [req])
  | _ => cases hp

theorem Instr.reads_page6 {i : Instr} {b : Bundle} (hp : i.fixedPage = some 6) (h : i.bundle = some b) :
    b.Reads i := by
  cases i with
  | kadd d a b | ksub d a b | kmul d a b | kfma d a b | kaddd d a t | kscl d a b | kmuld d a t | kvsub d a b | knlRelu d a | knlExp d a
  | knlSig d a | knlSq d a | knlRcp d a | kcolMean t a | kcolVar t a | kcolSdev t a | kcolDraw t a b base bank c | kldMp32 d a
  | kldMb16 d a | kstMp32 d a | kstMb16 d a | kmmaDwAcc d a b keep m | kmmaMwAcc d a b keep m | kmmaDwOvw d a b keep m
  | kmmaMwOvw d a b keep m | kmov d a | kmovTr d a =>
    cases h
    exact Bundle.reads_f3 rfl ⟨rfl, rfl, rfl, rfl, rfl, rfl⟩ (show (req _ _ <|> _) = _ by simp [req])
  | kmk d a e bank =>
    cases h
    cases e
    · exact Bundle.reads_f3 rfl ⟨rfl, rfl, rfl, rfl, rfl, rfl⟩ (show req _ _ = _ by simp [req])
    · exact Bundle.reads_f3 rfl ⟨rfl, rfl, rfl, rfl, rfl, rfl⟩ (show req _ _ = _ by simp [req])
  | kacrd d a | kred d a | kmode a b | qnt f d a base bank c | dqn f d a base bank c | baq d a b base bank c =>
    cases h
    exact Bundle.reads_f3 rfl ⟨rfl, rfl, rfl, rfl, rfl, rfl⟩ (show req _ _ = _ by simp [req])
  | _ => cases hp

theorem Instr.reads_page7 {i : Instr} {b : Bundle} (hp : i.fixedPage = some 7) (hw : i.wf = true) (h : i.bundle = some b) :
    b.Reads i := by
  cases i with
  | tret | crc =>
    cases h
    exact Bundle.reads_f3 rfl ⟨rfl, rfl, rfl, rfl, rfl, rfl⟩ rfl
  | rpqrd d a | rpqwr a b | rpqdrp a | rpqlen d | sigS a | sigR a base bank | sigT t | sigRd d | ctxsv d a | ctxld a | pack d =>
    cases h
    exact Bundle.reads_f3 rfl ⟨rfl, rfl, rfl, rfl, rfl, rfl⟩ (show (req _ _ <|> _) = _ by simp [req])
  | srd d n =>
    cases h
    exact ⟨by simp [Bundle.fits_mk], ⟨_, rfl, ⟨rfl, rfl, rfl, rfl, rfl, rfl⟩⟩, show req _ _ = _ by simp [req]⟩
  | swr n d =>
    cases h
    have hn : ((¬ n.val = 2 ∧ ¬ n.val = 3) ∧ ¬ n.val = 13) ∧ ¬ n.val = 16 := by
      simpa [Fin.ext_iff] using (show (n != 2 && n != 3 && n != 13 && n != 16) = true from hw)
    exact ⟨by simp [Bundle.fits_mk], ⟨_, rfl, ⟨rfl, rfl, rfl, rfl, rfl, rfl⟩⟩, show (req _ _ <|> _) = _ by simp [req, hn]⟩
  | swrCki d | swrMctl d | swrFfl d | swrTvec d | qsvcPing | qsvcMap | qsvcUnmap | qsvcGroup | qsvcYield | qsvcReport | qsvcDebug
  | qsvcUnknown =>
    cases h
    exact ⟨by simp [Bundle.fits_mk], ⟨_, rfl, ⟨rfl, rfl, rfl, rfl, rfl, rfl⟩⟩, show (req _ _ <|> _) = _ by simp [req]⟩
  | chke d a | inj a b | idle a | metr d a =>
    cases h
    exact Bundle.reads_f3 rfl ⟨rfl, rfl, rfl, rfl, rfl, rfl⟩ (show req _ _ = _ by simp [req])
  | _ => cases hp

end Sys2Proof
end

section
/-! SUPPORT. Instructions with immediates, what has a bundle, what the decoder accepts, and O60 (02 R37, R42, R44-R47, R51, R66). -/

namespace Sys2Proof

/-- An instruction whose immediate stands in base bits and XIM payloads reads back (R45). -/
theorem Instr.reads_imm {i : Instr} {b : Bundle} (ht : i.takesImm = true) (h : i.bundle = some b) : b.Reads i := by
  cases i with
  | addi d a imm | andi d a imm | ldw d a imm x | ldd d a imm x | stw d a imm x | std d a imm x | ldr d a imm p x | str d a imm p x
  | ldt t a imm x | stt t a imm x =>
    obtain ⟨q, hq, rfl⟩ := Option.map_eq_some_iff.1 h
    obtain ⟨hlo, hxs, himm⟩ := immBitsS_spec (by decide) hq
    replace hlo : q.1 < 32 := hlo
    exact ⟨by simpa [Bundle.fits_mk, hlo] using hxs, ⟨_, rfl, ⟨rfl, rfl, rfl, rfl, rfl, rfl⟩⟩,
      show req _ _ = _ by simp [req, hlo, himm]⟩
  | shli d a n | shri d a n | shai d a n =>
    obtain ⟨q, hq, rfl⟩ := Option.map_eq_some_iff.1 h
    obtain ⟨hlo, hxs, himm⟩ := immBitsU_spec hq
    replace hlo : q.1 < 32 := hlo
    exact ⟨by simpa [Bundle.fits_mk, hlo] using hxs, ⟨_, rfl, ⟨rfl, rfl, rfl, rfl, rfl, rfl⟩⟩,
      show req _ _ = _ by simp [req, hlo, himm]⟩
  | li d imm | bz d imm | bnz d imm | loop d imm =>
    obtain ⟨q, hq, rfl⟩ := Option.map_eq_some_iff.1 h
    obtain ⟨hlo, hxs, himm⟩ := immBitsS_spec (by decide) hq
    replace hlo : q.1 < 256 := hlo
    exact ⟨by simpa [Bundle.fits_mk, hlo] using hxs, ⟨_, rfl, ⟨rfl, rfl, rfl, rfl, rfl, rfl⟩⟩,
      show req _ _ = _ by simp [req, hlo, himm]⟩
  | trap code =>
    obtain ⟨q, hq, rfl⟩ := Option.map_eq_some_iff.1 h
    obtain ⟨hlo, hxs, himm⟩ := immBitsU_spec hq
    replace hlo : q.1 < 256 := hlo
    exact ⟨by simpa [Bundle.fits_mk, hlo] using hxs, ⟨_, rfl, ⟨rfl, rfl, rfl, rfl, rfl, rfl⟩⟩,
      show req _ _ = _ by simp [req, hlo, himm]⟩
  | bra imm | call imm | cro imm =>
    obtain ⟨q, hq, rfl⟩ := Option.map_eq_some_iff.1 h
    obtain ⟨hlo, hxs, himm⟩ := immBitsS_spec (by decide) hq
    replace hlo : q.1 < 2048 := hlo
    exact ⟨by simpa [Bundle.fits_mk, hlo] using hxs, ⟨_, rfl, ⟨rfl, rfl, rfl, rfl, rfl, rfl⟩⟩, show some _ = _ by simp [himm]⟩
  | bccEq a b imm | bccNe a b imm | bccLt a b imm | bccGe a b imm | bccuLtu a b imm | bccuGeu a b imm =>
    obtain ⟨q, hq, rfl⟩ := Option.map_eq_some_iff.1 h
    obtain ⟨hlo, hxs, himm⟩ := immBitsS_spec (by decide) hq
    replace hlo : q.1 < 8 := hlo
    exact Bundle.reads_f3 rfl ⟨rfl, rfl, rfl, rfl, rfl, rfl⟩ (show (req _ _ <|> _) = _ by simp [req, hlo, himm])
      (he := hlo) (hf := by simpa [Bundle.fits_mk, hlo] using hxs)
  | _ => cases ht

theorem Instr.fixedPage_lt {i : Instr} {p : Nat} (hp : i.fixedPage = some p) : p < 8 := by
  have hall : i.fixedPage.all (· < 8) = true := by cases i <;> rfl
  simpa [hp] using hall

/-- The bundle of a well-formed instruction reads back as the instruction (R42). -/
theorem Instr.bundle_reads {i : Instr} {b : Bundle} (hw : i.wf = true) (h : i.bundle = some b) : b.Reads i := by
  cases ht : i.takesImm with
  | true => exact reads_imm ht h
  | false =>
    have hp : i.fixedPage = some b.page := by simp [fixedPage, ht, h]
    have hlt : b.page < 8 := fixedPage_lt hp
    generalize b.page = p at hp hlt
    interval_cases p
    · exact reads_page0 hp h
    · exact reads_page1 hp h
    · exact reads_page2 hp h
    · exact reads_page3 hp h
    · exact reads_page4 hp h
    · exact reads_page5 hp h
    · exact reads_page6 hp h
    · exact reads_page7 hp hw h

/-! ### What has a bundle -/

theorem Instr.bundle_event {i : Instr} (h : i.isEvent = true) : i.bundle = none := by
  have hall : (!i.isEvent || i.bundle.isNone) = true := by cases i <;> rfl
  simpa [h] using hall

theorem Instr.bundle_isSome_of_fixed {i : Instr} (he : i.isEvent = false) (ht : i.takesImm = false) : i.bundle.isSome = true := by
  have hall : (i.isEvent || i.takesImm || i.bundle.isSome) = true := by cases i <;> rfl
  simpa [he, ht] using hall

theorem immBitsS_isSome {w k : Nat} {v : Int} (hk : k ≤ 4) (h : fitsS (w + 11 * k) v = true) : (immBitsS w v).isSome = true := by
  rw [immBitsS, Option.isSome_map]; exact fewest_isSome hk h

theorem immBitsU_isSome {w k v : Nat} (hk : k ≤ 4) (h : v < 2 ^ (w + 11 * k)) : (immBitsU w v).isSome = true := by
  rw [immBitsU, Option.isSome_map]; exact fewest_isSome hk (decide_eq_true h)

theorem Instr.bundle_isSome_of_imm {i : Instr} (ht : i.takesImm = true) (hw : i.wf = true) : i.bundle.isSome = true := by
  cases i with
  | addi _ _ imm | andi _ _ imm | li _ imm | bz _ imm | bnz _ imm | bra imm | call imm =>
    exact (Option.isSome_map ..).trans (immBitsS_isSome (k := 4) (by decide) hw)
  | bccEq _ _ imm | bccNe _ _ imm | bccLt _ _ imm | bccGe _ _ imm | bccuLtu _ _ imm | bccuGeu _ _ imm | cro imm =>
    exact (Option.isSome_map ..).trans (immBitsS_isSome (k := 3) (by decide) hw)
  | ldw _ _ imm _ | ldd _ _ imm _ | stw _ _ imm _ | std _ _ imm _ | loop _ imm =>
    exact (Option.isSome_map ..).trans (immBitsS_isSome (k := 4) (by decide) (Bool.and_elim_left hw))
  | ldr _ _ imm _ _ | str _ _ imm _ _ =>
    exact (Option.isSome_map ..).trans (immBitsS_isSome (k := 4) (by decide) (Bool.and_elim_left (Bool.and_elim_left hw)))
  | ldt _ _ imm _ | stt _ _ imm _ =>
    exact (Option.isSome_map ..).trans (immBitsS_isSome (k := 3) (by decide) (Bool.and_elim_left hw))
  | shli _ _ n | shri _ _ n | shai _ _ n =>
    exact (Option.isSome_map ..).trans (immBitsU_isSome (k := 1) (by decide) (by omega))
  | trap code =>
    exact (Option.isSome_map ..).trans (immBitsU_isSome (k := 3) (by decide) (of_decide_eq_true hw))
  | _ => cases ht

/-! ### What the decoder accepts -/

theorem lowest_eq_none {l : List Charge} (h : lowest l = none) : l = [] := by
  cases l with
  | nil => rfl
  | cons x xs => simp only [lowest] at h; split at h <;> cases h

/-- No alternative of a base word is an event. -/
def NoEvent (o : Option Instr) : Prop := ∀ i, o = some i → i.isEvent = false

theorem noEvent_none : NoEvent none := by simp [NoEvent]
theorem noEvent_req {ok : Bool} {i : Instr} (h : i.isEvent = false) : NoEvent (req ok i) := by
  intro j hj; cases ok <;> cases hj; exact h
theorem noEvent_orElse {o o' : Option Instr} (h : NoEvent o) (h' : NoEvent o') : NoEvent (o <|> o') := by
  cases o with
  | none => exact h'
  | some i => exact h

theorem Bundle.noEvent_build (b : Bundle) : NoEvent b.build := by
  unfold build build0 build1 build2 build3 build4 build5 build6 build7
  repeat' split
  all_goals repeat' apply noEvent_orElse
  all_goals first | exact noEvent_req rfl | exact noEvent_none

theorem decodeBase_instr {p : Prefixes} {k w n : Nat} {i : Instr} (h : decodeBase p k w = .instr i n) :
    n = k + 1 ∧ i.wf = true ∧ (p.bundle w).build = some i := by
  unfold decodeBase at h
  dsimp only at h
  split at h
  · split at h <;> cases h
  · split at h
    next j hj =>
      split at h
      · cases h
      next hl =>
        cases h
        have hwf := (List.append_eq_nil_iff.1 (lowest_eq_none hl)).2
        refine ⟨rfl, ?_, hj⟩
        by_contra hn
        simp [hn] at hwf
    · split at h <;> cases h

theorem decodeFrom_instr {ws : List Nat} {k n : Nat} {p : Prefixes} {i : Instr} (hk : k ≤ 4) (h : decodeFrom ws k p = .instr i n) :
    i.wf = true ∧ (∃ b : Bundle, b.build = some i) ∧ 1 ≤ n ∧ n ≤ 5 := by
  induction ws generalizing k p with
  | nil => cases h
  | cons w ws ih =>
    rw [decodeFrom] at h
    split at h
    · obtain ⟨rfl, hw, hb⟩ := decodeBase_instr h
      exact ⟨hw, ⟨_, hb⟩, by omega, by omega⟩
    · split at h
      · split at h <;> cases h
      · exact ih (by omega) h

/-- Settles O60: an instruction's words are read, its prefixes first, into its bundle, whose fields stand for the instruction again. -/
theorem decodingAnEncodedInstructionGivesItBack : Obligations.DecodingAnEncodedInstructionGivesItBack := by
  unfold Obligations.DecodingAnEncodedInstructionGivesItBack
  refine ⟨fun i ws hw he => ?_, fun ws i n h => ?_, fun i => ⟨fun he => ?_, fun he hw => ?_⟩⟩
  · obtain ⟨b, hb, hws⟩ := Option.bind_eq_some_iff.1 he
    exact (Instr.bundle_reads hw hb).decode hw hws
  · obtain ⟨hw, ⟨b, hb⟩, hpos, hle⟩ := decodeFrom_instr (by decide) h
    exact ⟨hw, b.noEvent_build i hb, hpos, hle⟩
  · rw [encode, Instr.bundle_event he]; rfl
  · cases ht : i.takesImm with
    | true => exact Instr.bundle_isSome_of_imm ht hw
    | false => exact Instr.bundle_isSome_of_fixed he ht

end Sys2Proof
end

section
/-! SUPPORT. Words, scalars and the step: the frame of a scalar result, reset, sample words, and the bundle that a step issues
(02 R37-R40, R52, R56, R64, R66). -/

namespace Sys2Proof.Machine

/-! ### Fetching the words of a bundle (R37) -/

/-- Word k of the bundle at address a of slice m. -/
def Memory.wordAt (m : Memory) (a k : Nat) : Nat := (m.read (a + 2 * k)).toNat + 256 * (m.read (a + 2 * k + 1)).toNat

/-- The n words from address a of slice m. -/
def Memory.words (m : Memory) (a n : Nat) : List Nat := (List.range n).map (m.wordAt a)

theorem Memory.words_succ (m : Memory) (a n : Nat) : m.words a (n + 1) = m.wordAt a 0 :: m.words (a + 2) n := by
  simp only [words, List.range_succ_eq_map, List.map_cons, List.map_map, List.cons.injEq, true_and]
  refine List.map_congr_left fun k _ => ?_
  simp only [Function.comp_apply, wordAt, show a + 2 * k.succ = a + 2 + 2 * k by omega]

/-- Without a flipped bit to correct, reading bytes changes nothing. -/
theorem Tile.ecc_clean {t : Tile} (h : t.flips = []) (f o n : Nat) : t.ecc f o n = t := by simp [Tile.ecc, h]

/-- A word of the slice that holds no poison is read; a word of the prefixes is followed by the rest of the bundle. -/
theorem fetchWords_clean_succ {s : State} {n : Nat} {a : Word} (hf : s.tile.flips = []) (ha : a.toNat < 0x80000)
    (hp : s.tile.poison.contains (a.toNat / 32) = false) :
    fetchWords (n + 1) a s = if s.tile.slice.wordAt a.toNat 0 / 2048 < 30 then ({ words := [s.tile.slice.wordAt a.toNat 0] }, s)
      else ({ (fetchWords n (a + 2) s).1 with words := s.tile.slice.wordAt a.toNat 0 :: (fetchWords n (a + 2) s).1.words },
        (fetchWords n (a + 2) s).2) := by
  have hsame : ({ s with tile := s.tile, fresh := if s.tile.flips.isEmpty then s.fresh else s.fresh + 1 } : State) = s := by
    rw [hf]; rfl
  rw [fetchWords, if_neg (Nat.not_le.2 ha)]
  simp only [Tile.ecc_clean hf, hsame, hp, Bool.false_eq_true, if_false]
  rfl

/-- A fetch from words of the slice that hold no poison reads them up to the first base word, which is as far as the decoder looks,
and changes nothing. -/
theorem fetchWords_clean {s : State} (hf : s.tile.flips = []) {n : Nat} {a : Word} (ha : a.toNat + 2 * n ≤ 0x80000)
    (hp : ∀ j < 2 * n, s.tile.poison.contains ((a.toNat + j) / 32) = false) :
    ∃ ws, fetchWords n a s = ({ words := ws }, s) ∧
      ∀ k p, decodeFrom ws k p = decodeFrom (s.tile.slice.words a.toNat n) k p := by
  induction n generalizing a with
  | zero => exact ⟨[], rfl, fun _ _ => rfl⟩
  | succ n ih =>
    have hnext : (a + 2).toNat = a.toNat + 2 := by
      rw [BitVec.toNat_add]; exact Nat.mod_eq_of_lt (by simp; omega)
    rw [Memory.words_succ, fetchWords_clean_succ hf (by omega) (hp 0 (by omega))]
    split
    next hbase => exact ⟨_, rfl, fun k p => by simp only [decodeFrom, hbase, if_true]⟩
    next hbase =>
      obtain ⟨ws, hws, hdec⟩ := ih (a := a + 2) (by omega) (fun j hj => by
        rw [hnext, Nat.add_assoc]; exact hp (2 + j) (by omega))
      exact ⟨s.tile.slice.wordAt a.toNat 0 :: ws, by rw [hws], fun k p => by simp only [decodeFrom, hbase, if_false, hdec, hnext]⟩

/-- The bundle at the pc, in words of the slice without flipped bits or poison. -/
structure State.Fetches (s : State) : Prop where
  flips : s.tile.flips = []
  inside : s.core.pc.toNat + 10 ≤ 0x80000
  clean : ∀ j < 10, s.tile.poison.contains ((s.core.pc.toNat + j) / 32) = false

/-- The five words at the pc. -/
def State.wordsAtPc (s : State) : List Nat := s.tile.slice.words s.core.pc.toNat 5

theorem State.Fetches.words {s : State} (h : s.Fetches) :
    ∃ ws, fetchWords 5 s.core.pc s = ({ words := ws }, s) ∧ decode ws = decode s.wordsAtPc := by
  obtain ⟨ws, hws, hdec⟩ := fetchWords_clean (n := 5) h.flips h.inside h.clean
  exact ⟨ws, hws, hdec 0 {}⟩

theorem State.Fetches.fetch_instr {s : State} (h : s.Fetches) {i : Instr} {n : Nat} (hd : decode s.wordsAtPc = .instr i n) :
    s.fetch = (.run i n, s) := by
  obtain ⟨ws, hws, hdec⟩ := h.words
  simp [State.fetch, hws, hdec, hd]

theorem State.Fetches.fetch_ill {s : State} (h : s.Fetches) {why : IllReason} {k : Nat} (hd : decode s.wordsAtPc = .ill why k) :
    s.fetch = (.trap .ill (s.core.pc + BitVec.ofNat 64 (2 * k)), s) := by
  obtain ⟨ws, hws, hdec⟩ := h.words
  simp [State.fetch, hws, hdec, hd]

/-! ### What the next step is -/

/-- The core in focus has its turn. -/
def State.atTurn (s : State) : State := { s with turn := true }

theorem State.Fetches.atTurn {s : State} (h : s.Fetches) : s.atTurn.Fetches := ⟨h.flips, h.inside, h.clean⟩

/-- At its turn, with nothing to do before it, a core issues its next bundle. -/
theorem step_issues {s : State} (hm : s.agenda = []) (ht : s.turn = false) (hi : s.issues = true) (hc : s.clear = true) :
    step s = s.atTurn.issueBundle := by
  simp only [State.clear, Bool.and_eq_true, Bool.not_eq_true', Option.isNone_iff_eq_none] at hc
  obtain ⟨⟨⟨hdef, hstep⟩, hbrk⟩, hres⟩ := hc
  simp [step, State.advance, hm, ht, hi, State.turnOf, hdef, hstep, hbrk, hres, State.atTurn]

theorem step_move {s : State} {m : Move} {rest : List Move} (hm : s.agenda = m :: rest) (he : m.ev.isEvent = true) (hw : m.ev.wf = true) :
    step s = exec m.ev (State.toPlace { s with agenda := rest } m.place) := by
  simp only [step, State.advance, hm, he, hw, Bool.and_self, if_true]

theorem State.compare_plain {s : State} (h : s.tile.modes.lockstep = false) (t : State) : s.compare t = t := by simp [State.compare, h]

/-- Issuing a bundle that decodes to an instruction runs it, and compares what it did. -/
theorem State.issueBundle_next {s t : State} {i : Instr} {n : Nat} (h : s.fetch = (.run i n, s)) (ht : exec i (s.begin n) = .next t) :
    s.issueBundle = .next ((s.begin n).compare t) := by
  simp only [State.issueBundle, h, ht]

theorem State.issueBundle_fault {s : State} {i : Instr} {n : Nat} {x : Fault} (h : s.fetch = (.run i n, s))
    (hx : exec i (s.begin n) = .fault x) : s.issueBundle = .fault x := by
  simp only [State.issueBundle, h, hx]

theorem State.issueBundle_refused {s : State} {i : Instr} {n : Nat} {x : Refusal} (h : s.fetch = (.run i n, s))
    (hx : exec i (s.begin n) = .refused x) : s.issueBundle = .refused x := by
  simp only [State.issueBundle, h, hx]

/-- Outside lockstep, issuing is running. -/
theorem State.issueBundle_plain {s : State} {i : Instr} {n : Nat} (h : s.fetch = (.run i n, s)) (hl : s.tile.modes.lockstep = false) :
    s.issueBundle = exec i (s.begin n) := by
  match hx : exec i (s.begin n) with
  | .next t => rw [State.issueBundle_next h hx, State.compare_plain (s := s.begin n) hl]
  | .fault x => exact State.issueBundle_fault h hx
  | .refused x => exact State.issueBundle_refused h hx

theorem State.issueBundle_trap {s : State} {c : Cause} {va : Word} (h : s.fetch = (.trap c va, s)) : s.issueBundle = s.trapB c va := by
  rw [State.issueBundle, h]

end Sys2Proof.Machine

namespace Sys2Proof
open Machine

/-- Settles O3: the result is a write of one scalar and a move of the pc. -/
theorem scalarResultFrame : Obligations.ScalarResultFrame := by
  intro s d v
  have hread (r : SReg) : (s.result d v).S r = if r = d ∧ d ≠ 0 then v else s.S r := State.S_setS s d r v
  have hcore : (s.result d v).core = (s.core.setS d v).retire := rfl
  refine ⟨?_, fun r hr => by simp [hread, hr], by simp [hcore], by simp [hcore], by simp [hcore], by simp [hcore], by simp [hcore],
    by simp [hcore], by simp [hcore], by simp [hcore], by simp [hcore], by simp [hcore],
    rfl, rfl, rfl, rfl, rfl, rfl, rfl, rfl, rfl, fun _ => rfl⟩
  by_cases hd : d = 0 <;> simp [hread, hd]

/-- Settles O56: reset has the default of every field, and its tables are empty. -/
theorem resetIsQuiet : Obligations.ResetIsQuiet := by
  have hlive (r : SReg) : State.reset.S r = 0 := by
    simp [State.S, Core.S, State.reset]
  exact ⟨rfl, hlive, rfl, rfl, rfl, rfl, fun _ => ⟨rfl, rfl, rfl⟩, fun _ => rfl, rfl, rfl, rfl, by decide, by decide, rfl, fun _ => rfl,
    reset_canon, rfl⟩

/-- Settles O57: the decoder evaluates each sample. -/
theorem specWordsDecode : Obligations.SpecWordsDecode := by
  refine ⟨?_, ?_, ?_, ?_, ?_, ?_, ?_, ?_, ?_, ?_, ?_, ?_, ?_, ?_, ?_, ?_, ?_, ⟨_, rfl⟩, ⟨_, rfl⟩, rfl⟩ <;> decide +kernel

/-- Settles O58: the fetch finds the words, and the turn is the bundle's. -/
theorem stepRunsTheDecodedInstruction : Obligations.StepRunsTheDecodedInstruction := by
  refine ⟨fun s i n hm ht hi hc hf ha hp hd => ?_, fun s why k hm ht hi hc hf ha hp hd => ?_, fun s m rest hm he hw => ⟨?_, ?_⟩⟩
  · have hfetch : s.atTurn.fetch = (.run i n, s.atTurn) := (State.Fetches.mk hf ha hp).atTurn.fetch_instr hd
    rw [step_issues hm ht hi hc]
    exact ⟨State.issueBundle_plain hfetch, fun _ => State.issueBundle_next hfetch, fun _ => State.issueBundle_fault hfetch,
      fun _ => State.issueBundle_refused hfetch⟩
  · have hfetch : s.atTurn.fetch = (.trap .ill (s.core.pc + BitVec.ofNat 64 (2 * k)), s.atTurn) :=
      (State.Fetches.mk hf ha hp).atTurn.fetch_ill hd
    rw [step_issues hm ht hi hc, State.issueBundle_trap hfetch]
    exact State.trapB_eq _ _ _ (by decide) (by decide)
  · intro p hpl
    rw [step_move hm he hw, hpl, State.toPlace]
  · intro hpl
    rw [step_move hm he hw, hpl, State.toPlace]

end Sys2Proof
end

section
/-! SUPPORT. The bytes of a row and of a tile register give their values back (00 R3, 05 R122, R126). -/

namespace Sys2Proof.Machine

/-- Digit j of a little-endian value is its byte j. -/
theorem leNat_digit (bs : List Byte) (j : Nat) : leNat bs / 256 ^ j % 256 = ((bs[j]?).getD 0).toNat := by
  induction bs generalizing j with
  | nil => simp [leNat]
  | cons b bs ih =>
    have hb : b.toNat < 256 := b.isLt
    cases j with
    | zero => simp only [leNat, pow_zero, Nat.div_one, List.getElem?_cons_zero, Option.getD_some]; omega
    | succ j =>
      have hdrop : (b.toNat + 256 * leNat bs) / 256 = leNat bs := by omega
      rw [leNat, Nat.pow_succ', ← Nat.div_div_eq_div_mul, hdrop, ih, List.getElem?_cons_succ]

theorem Row.byte_rowOfBytes {bs : List Byte} (h : bs.length ≤ 64) (j : Nat) : Row.byte (rowOfBytes bs) j = (bs[j]?).getD 0 := by
  have hfits : leNat bs < 2 ^ 512 :=
    calc leNat bs < (2 ^ 8) ^ bs.length := leNat_lt bs
      _ = 2 ^ (8 * bs.length) := (Nat.pow_mul ..).symm
      _ ≤ 2 ^ 512 := Nat.pow_le_pow_right (by decide) (by omega)
  apply BitVec.eq_of_toNat_eq
  rw [Row.byte, rowOfBytes, BitVec.extractLsb'_toNat, BitVec.toNat_ofNat, Nat.mod_eq_of_lt hfits, Nat.shiftRight_eq_div_pow, Nat.pow_mul]
  exact leNat_digit bs j

/-- Clean bytes make a clean row, whose bytes they are. -/
theorem RowVal.bytes_ofBytes {bs : List PByte} (hl : bs.length = 64) (hc : ∀ b ∈ bs, b.2 = false) : (RowVal.ofBytes bs).bytes = bs := by
  have hany (l : List PByte) (hs : l ⊆ bs) : l.any (·.2) = false := List.any_eq_false.2 fun b hb => by simp [hc b (hs hb)]
  have hvals : (bs.map fun b => if b.2 then 0 else b.1) = bs.map (·.1) := List.map_congr_left fun b hb => by simp [hc b hb]
  have hrow : RowVal.ofBytes bs = { bits := rowOfBytes (bs.map (·.1)), bad := 0 } := by
    rw [RowVal.ofBytes, hany _ (List.take_subset ..), hany _ (List.drop_subset ..), hvals]
    rfl
  apply List.ext_getElem (by simp [RowVal.bytes, upto_eq_range, hl])
  intro j _ hj
  have hclean : bs[j].2 = false := hc _ (List.getElem_mem hj)
  have hbyte := Row.byte_rowOfBytes (bs := bs.map (·.1)) (by simp [hl]) j
  simp only [List.getElem?_map, List.getElem?_eq_getElem hj, Option.map_some, Option.getD_some] at hbyte
  simp [hrow, RowVal.bytes, upto_eq_range, hbyte, Prod.ext_iff, hclean]

/-- The pieces of 64 of a list, one after the other. -/
theorem flatten_pieces {α : Type} (l : List α) (n : Nat) :
    ((List.range n).map fun i => (l.drop (64 * i)).take 64).flatten = l.take (64 * n) := by
  induction n with
  | zero => simp
  | succ n ih => simp [List.range_succ, ih, Nat.mul_succ, List.take_add]

theorem TileReg.bytes_eq (t : TileReg) : t.bytes = ((List.finRange 16).map fun i => (t.row i).bytes).flatten := rfl

@[simp] theorem TileReg.length_bytes (t : TileReg) : t.bytes.length = 1024 := by
  simp [TileReg.bytes, RowVal.bytes, upto_eq_range]

/-- Clean bytes make a tile register whose bytes they are. -/
theorem bytes_tileOfBytes {bs : List PByte} (hl : bs.length = 1024) (hc : ∀ b ∈ bs, b.2 = false) : (tileOfBytes bs).bytes = bs := by
  have hrow (i : Fin 16) : ((tileOfBytes bs).row i).bytes = (bs.drop (64 * i.val)).take 64 := by
    have hpiece : (tileOfBytes bs).row i = RowVal.ofBytes ((bs.drop (64 * i.val)).take 64) := by
      simp [tileOfBytes, TileReg.row]
    rw [hpiece]
    exact RowVal.bytes_ofBytes (by simp [hl]; omega) fun b hb => hc b (List.mem_of_mem_drop (List.mem_of_mem_take hb))
  calc (tileOfBytes bs).bytes
      = (((List.finRange 16).map (·.val)).map fun i => (bs.drop (64 * i)).take 64).flatten := by
        simp only [TileReg.bytes_eq, hrow, List.map_map, Function.comp_def]
    _ = bs.take (64 * 16) := by rw [List.map_coe_finRange_eq_range, flatten_pieces]
    _ = bs := List.take_of_length_le (by omega)

@[simp] theorem Tile.length_bytes (t : Tile) (o n : Nat) : (t.bytes o n).length = n := by simp [Tile.bytes, upto_eq_range]

theorem Tile.getElem_bytes (t : Tile) {o n j : Nat} (h : j < n) :
    (t.bytes o n)[j]? = some (t.slice.read (o + j), t.poison.contains ((o + j) / 32)) := by
  simp [Tile.bytes, upto_eq_range, h]

/-- Without poison in the slice every byte of it is clean. -/
theorem Tile.bytes_clean {t : Tile} (h : t.poison = []) (o n : Nat) : ∀ b ∈ t.bytes o n, b.2 = false := by
  simp [Tile.bytes, h]

theorem Core.T_setT_same (c : Core) (t : TReg) (v : TileReg) : (c.setT t.val v).T t.val = v := by
  simp [Core.setT, Core.T, vput]

theorem Core.T_setT_other (c : Core) (t : TReg) {n : Nat} (v : TileReg) (h : n ≠ t.val) : (c.setT t.val v).T n = c.T n := by
  simp [Core.setT, Core.T, vput, Ne.symm h]

end Sys2Proof.Machine
end

section
/-! SUPPORT. The ring instructions on a core with nothing in flight (02 R58, 12 R291-R294). -/

namespace Sys2Proof.Machine

/-! ### Changing one ring -/

/-- u has gone on to NPC, and of what a program reads only ring h may have changed since s. -/
def State.onlyRing (s u : State) (h : Ring) : Prop :=
  u.core.pc = s.core.npc ∧ (∀ x, u.S x = s.S x) ∧ u.tile.slice = s.tile.slice ∧ ∀ g, g ≠ h → u.tile.rings[g] = s.tile.rings[g]

theorem State.onlyRing_of {s u : State} {h : Ring} {r : RingState} (hpc : u.core.pc = s.core.npc) (hregs : u.core.regs = s.core.regs)
    (hlive : u.core.live = s.core.live) (hslice : u.tile.slice = s.tile.slice) (hrings : u.tile.rings = vput s.tile.rings h r) :
    s.onlyRing u h ∧ u.tile.rings[h] = r :=
  ⟨⟨hpc, fun x => by simp only [State.S, Core.S, hregs, hlive], hslice, fun g hg => by rw [hrings, vput_other _ _ _ _ hg]⟩,
    by rw [hrings, vput_same]⟩

/-- A configuration word within the bounds of R291. -/
def RingLegal (c : Word) : Prop :=
  c.toNat < 65536 ∧ 0 < c.toNat / 512 % 128 ∧ c.toNat / 512 % 128 ≤ 64 ∧ c.toNat % 512 + c.toNat / 512 % 128 ≤ 512

/-- The ring that RCFG makes of a word: empty, of the next epoch. -/
def RingState.configured (r : RingState) (c : Word) : RingState :=
  { base := BitVec.ofNat 9 (c.toNat % 512), nslot := BitVec.ofNat 7 (c.toNat / 512 % 128), epoch := r.epoch + 1 }

section
variable {s : State} {h : Ring}

/-! ### Checks -/

theorem State.trapB_bnd (s : State) (va : Word) : s.trapB .bnd va = .next (s.takeTrap .bnd va s.core.pc false) :=
  State.trapB_eq s .bnd va (by decide) (by decide)

theorem State.ringOk_free (h0 : (s.tile.ring h).nslot = 0) (k : Out) :
    s.ringOk h k = .next (s.takeTrap .bnd (s.tile.ring h).word s.core.pc false) := by
  simp [State.ringOk, ringChk, h0, State.trapB_bnd]

theorem State.ringOk_configured (h0 : (s.tile.ring h).nslot ≠ 0) (k : Out) : s.ringOk h k = k := by
  simp only [State.ringOk, ringChk, beq_eq_false_iff_ne.2 h0, Bool.false_eq_true, if_false, Chk.run_ok]

theorem State.ringCount_past (h0 : (s.tile.ring h).nslot ≠ 0) {n : Nat} (hn : (s.tile.ring h).nslot.toNat < n) (k : Out) :
    s.ringCount h n k = .next (s.takeTrap .bnd (s.tile.ring h).word s.core.pc false) := by
  simp [State.ringCount, State.ringOk_configured h0, hn, State.trapB_bnd]

theorem State.ringCount_within (h0 : (s.tile.ring h).nslot ≠ 0) {n : Nat} (hn : n ≤ (s.tile.ring h).nslot.toNat) (k : Out) :
    s.ringCount h n k = k := by
  simp [State.ringCount, State.ringOk_configured h0, Nat.not_lt.2 hn]

theorem State.staging_stage (hs : s.sel = .stage) (k : Out) : s.staging k = k := by simp [State.staging, hs]
theorem State.computing_comp (hs : s.sel = .comp) (k : Out) : s.computing k = k := by simp [State.computing, hs]

/-- Without REP the bundle is one iteration. -/
theorem State.repeated_one (hs : s.core.still = true) (i : Instr) (kind : BitVec 4) (w1 w2 : Word)
    (it : State → Nat → Word → Word → (State → State) → Out) : s.repeated i .one kind w1 w2 it = it s 0 w1 w2 State.retire := by
  simp [State.repeated, Core.still_issuing hs, repReady, repCount]

/-! ### RCFG, RQRY and RWAIT (R291) -/

theorem rcfg_refused (c : Word) :
    (decide (65536 ≤ c.toNat) || c.toNat / 512 % 128 == 0 || decide (64 < c.toNat / 512 % 128) ||
      decide (512 < c.toNat % 512 + c.toNat / 512 % 128)) = true ↔ ¬ RingLegal c := by
  simp only [RingLegal, Bool.or_eq_true, decide_eq_true_eq, beq_iff_eq]
  omega

theorem execRcfg_outside (hs : s.core.still = true) {a : SReg} (hl : ¬ RingLegal (s.S a)) :
    execRcfg h a s = .next (s.takeTrap .bnd (s.S a) s.core.pc false) := by
  simp only [execRcfg, Core.still_ready hs, Bool.not_true, Bool.false_eq_true, if_false, if_pos ((rcfg_refused _).2 hl), State.trapB_bnd]

theorem execRcfg_legal (hs : s.core.still = true) {a : SReg} (hl : RingLegal (s.S a)) (hheld : (s.tile.ring h).held = 0)
    (hbusy : s.tile.copy.ringBusy h = false) :
    execRcfg h a s = .next (s.modTile fun t => t.setRing h ((s.tile.ring h).configured (s.S a))).retire := by
  have hpass := mt (rcfg_refused (s.S a)).1 (not_not.2 hl)
  simp only [execRcfg, Core.still_ready hs, Bool.not_true, Bool.false_eq_true, if_false, if_neg hpass, hheld, hbusy, bne_self_eq_false,
    Bool.or_self]
  rfl

theorem RingState.configured_fields (r : RingState) (c : Word) :
    (r.configured c).base.toNat = c.toNat % 512 ∧ (r.configured c).nslot.toNat = c.toNat / 512 % 128 ∧ (r.configured c).head = 0 ∧
      (r.configured c).tail = 0 ∧ (r.configured c).fill = 0 := by
  refine ⟨?_, ?_, rfl, rfl, rfl⟩ <;> simp [configured]

theorem execRqry_free (hs : s.core.still = true) (h0 : (s.tile.ring h).nslot = 0) (d : SReg) :
    execRqry d h s = .next (s.takeTrap .bnd (s.tile.ring h).word s.core.pc false) := by
  simp [execRqry, Core.still_ready hs, State.ringOk_free h0]

theorem execRqry_configured (hs : s.core.still = true) (h0 : (s.tile.ring h).nslot ≠ 0) (d : SReg) :
    execRqry d h s = .next (s.result d (s.tile.ring h).word) := by
  simp [execRqry, Core.still_ready hs, State.ringOk_configured h0, State.result]

theorem execRwaitFull_within (h0 : (s.tile.ring h).nslot ≠ 0) {n : Fin 128} (hn : n.val ≤ (s.tile.ring h).nslot.toNat) :
    execRwaitFull h n s = .next (if (s.tile.ring h).held = 0 ∧ n.val ≤ (s.tile.ring h).fill.toNat then s.retire else s) := by
  by_cases hheld : (s.tile.ring h).held = 0
  · by_cases hfill : n.val ≤ (s.tile.ring h).fill.toNat <;>
      simp [execRwaitFull, State.ringCount_within h0 hn, State.when, State.stall, hheld, hfill]
  · simp only [execRwaitFull, State.ringCount_within h0 hn, State.when, State.stall, beq_eq_false_iff_ne.2 hheld, Bool.false_and,
      Bool.false_eq_true, if_false, hheld, false_and]

theorem execRwaitFree_within (h0 : (s.tile.ring h).nslot ≠ 0) {n : Fin 128} (hn : n.val ≤ (s.tile.ring h).nslot.toNat) :
    execRwaitFree h n s = .next (if n.val ≤ (s.tile.ring h).free then s.retire else s) := by
  by_cases hgo : n.val ≤ (s.tile.ring h).free <;> simp [execRwaitFree, State.ringCount_within h0 hn, State.when, State.stall, hgo]

/-! ### RADV (R291, R292) -/

theorem execRadvTail_room (hs : s.core.still = true) (hsel : s.sel = .stage) (h0 : (s.tile.ring h).nslot ≠ 0) {n : Fin 128}
    (hn : n.val ≤ (s.tile.ring h).nslot.toNat) (hroom : n.val ≤ (s.tile.ring h).free) :
    execRadvTail h n s = .next (s.tailAdvance h n.val).retire := by
  simp only [execRadvTail, State.staging_stage hsel, State.ringCount_within h0 hn, State.when, Core.still_rpsh hs, hroom,
    List.isEmpty_nil, decide_true, Bool.and_self, if_true]

/-- With no operation in the unit, HELD of every ring is 0. -/
theorem reheld_none (t : Tile) (g : Ring) : (reheld [] t).ring g = { t.ring g with held := 0 } := by simp [reheld, Tile.ring]

/-- RADV.head with no operation to force: HEAD moves, and HELD is computed anew. -/
theorem execRadvHead_unforced (hs : s.core.still = true) (hsel : s.sel = .comp) (h0 : (s.tile.ring h).nslot ≠ 0) {n : Fin 128}
    (hn : n.val ≤ (s.tile.ring h).nslot.toNat) (hfill : n.val ≤ (s.tile.ring h).fill.toNat) :
    ∃ u, execRadvHead h n s = .next u ∧ u.core.pc = s.core.npc ∧ u.core.regs = s.core.regs ∧ u.core.live = s.core.live ∧
      u.tile = reheld [] (s.tile.setRing h ((s.tile.ring h).pop n.val)) := by
  simp only [execRadvHead, State.computing_comp hsel, State.ringCount_within h0 hn, State.when, Core.still_unit hs, Core.still_kept hs,
    hfill, decide_true, if_true, List.append_nil, List.findSome?_nil, State.forceOps, List.filter_nil, List.foldl_nil]
  refine ⟨_, rfl, ?_⟩
  simp [State.retire, State.reheld, hsel, UnitState.bound]

end

end Sys2Proof.Machine
end

section
/-! SUPPORT. RPSH and RTAK (12 R293, R294): a slot filled from a tile register, and one copied into it. -/

namespace Sys2Proof.Machine

/-! ### Small effects of a push -/

theorem State.fold_eq (s : State) (vs : List Word) : ∃ sig, s.fold vs = { s with core := { s.core with sig := sig } } := by
  unfold State.fold
  split
  · exact ⟨_, rfl⟩
  · exact ⟨s.core.sig, rfl⟩

theorem State.copied_eq (s : State) (b : Bool) : ∃ cki, s.copied b = { s with tile := { s.tile with cki := cki } } := by
  unfold State.copied
  split
  · exact ⟨_, rfl⟩
  · exact ⟨s.tile.cki, rfl⟩

theorem Tile.leasedOut_none {t : Tile} (h : t.leaseDir = []) (o n : Nat) : t.leasedOut o n = none := by simp [Tile.leasedOut, h]

theorem Tile.store_slice {t : Tile} (h : t.flips = []) (f o : Nat) (bs : List PByte) :
    (t.store f o (bs.map some)).slice = t.slice.writeMany o (bs.map fun b => some b.1) := by
  simp [Tile.store, h, Function.comp_def]

theorem Tile.store_rings {t : Tile} (h : t.flips = []) (f o : Nat) (bs : List (Option PByte)) : (t.store f o bs).rings = t.rings := by
  simp [Tile.store, h]

/-- Bytes written from a on, read back at o. -/
theorem Memory.read_writeBytes {m : Memory} (hm : m.wf = true) (a o : Nat) (bs : List PByte) :
    (m.writeMany a (bs.map fun b => some b.1)).read o =
      if a ≤ o ∧ o < a + bs.length then ((bs[o - a]?).map (·.1)).getD 0 else m.read o := by
  rw [Memory.read_writeMany _ _ _ _ hm, List.getElem?_map]
  by_cases ha : a ≤ o
  · by_cases hb : o < a + bs.length
    · rw [if_pos ha, if_pos ⟨ha, hb⟩, List.getElem?_eq_getElem (by omega)]
      rfl
    · rw [if_pos ha, if_neg (fun h => hb h.2), List.getElem?_eq_none (by omega)]
      rfl
  · rw [if_neg ha, if_neg (fun h => ha h.1)]

section
variable {s : State} {h : Ring}

/-! ### RPSH -/

/-- The push that RPSH of a tile register, or of z, leaves to be filled. -/
def State.pushOp (s : State) (h : Ring) (t : Option (Fin 4)) : RpshOp :=
  { ring := h, slot := (s.tile.ring h).tail.toNat % (s.tile.ring h).nslot.toNat
    bytes := match t with | some t => (s.core.T t.val).bytes | none => [] }

theorem execRpsh_room (hs : s.core.still = true) (hsel : s.sel = .stage) (h0 : (s.tile.ring h).nslot ≠ 0) (hroom : 0 < (s.tile.ring h).free)
    (t : Option (Fin 4)) : ∃ cki sig, execRpsh t h .one s = .next (State.retire { s with
      tile := { s.tile with cki := cki }, core := { s.core with rpsh := [s.pushOp h t], sig := sig } }) := by
  have hgo : (decide ((s.tile.ring h).free ≤ 0) || (t.isSome && s.core.acquiring)) = false := by
    simp [Core.still_acquiring hs, Nat.ne_of_gt hroom]
  have hnone : s.core.pushing h = 0 := by simp [Core.pushing, Core.still_rpsh hs]
  have hrpsh := Core.still_rpsh hs
  simp only [execRpsh, State.staging_stage hsel, State.repeated_one hs, State.ringOk_configured h0, hnone, hgo, hrpsh, Bool.false_eq_true,
    if_false, List.nil_append, Nat.add_zero]
  rw [if_neg (by cases t <;> simp [Core.still_busyT hs])]
  obtain ⟨sig, hsig⟩ := State.fold_eq { s with core := { s.core with rpsh := [s.pushOp h t] } }
    (BitVec.ofNat 64 h.val :: (s.tile.ring h).tail.zeroExtend 64 :: foldBytes (s.pushOp h t).bytes)
  obtain ⟨cki, hcki⟩ := State.copied_eq { s with core := { s.core with rpsh := [s.pushOp h t], sig := sig } } (anyPoison (s.pushOp h t).bytes)
  refine ⟨cki, sig, ?_⟩
  rw [← hcki, ← hsig]
  rfl

/-- The slot of the one push that waits is written, where no lease is out, and TAIL advances. -/
theorem execRpshSlotFilled_room {p : RpshOp} (hp : s.core.rpsh = [p]) (hl : s.tile.leaseDir = []) (hf : s.tile.flips = [])
    (hroom : (s.tile.ring p.ring).free ≠ 0) : ∃ v, execRpshSlotFilled s = .next v ∧ v.core.rpsh = [] ∧ v.core.pc = s.core.pc ∧
      v.tile.rings = vput s.tile.rings p.ring ((s.tile.ring p.ring).push 1) ∧
      v.tile.slice = s.tile.slice.writeMany ((s.tile.ring p.ring).slotAt p.slot) (p.bytes.map fun b => some b.1) := by
  have hlease : s.rpshLeased p = none := by simp [State.rpshLeased, Tile.leasedOut_none hl]
  have hrun : execRpshSlotFilled s = .next s.rpshFill := by simp only [execRpshSlotFilled, hp, List.head?_cons, Option.bind_some, hlease]
  refine ⟨_, hrun, ?_⟩
  cases hb : p.bytes with
  | nil => simp [State.rpshFill, hp, hlease, hb, hroom, State.tailAdvance, Tile.setRing, Memory.writeMany]
  | cons b bs =>
    have hring (f o : Nat) (l : List (Option PByte)) : (s.tile.store f o l).ring p.ring = s.tile.ring p.ring := by
      rw [Tile.ring, Tile.store_rings hf, Tile.ring]
    have hslice := Tile.store_slice hf s.fresh ((s.tile.ring p.ring).slotAt p.slot) (b :: bs)
    simp only [State.rpshFill, hp, hlease, hb, hring, List.isEmpty_cons, Option.isSome_none, Bool.false_eq_true, if_false,
      beq_eq_false_iff_ne.2 hroom, State.tailAdvance, Tile.setRing, Tile.store_rings hf, hslice, and_self]

/-! ### RTAK -/

/-- RTAK copies the slot at HEAD, clean as the slice is, and pops it. -/
theorem execRtak_filled (hs : s.core.still = true) (hsel : s.sel = .comp) (h0 : (s.tile.ring h).nslot ≠ 0) (hheld : (s.tile.ring h).held = 0)
    {w : Fin 16} (hfill : Nat.max w.val 1 ≤ (s.tile.ring h).fill.toNat) (hl : s.tile.leaseDir = []) (hf : s.tile.flips = [])
    (hp : s.tile.poison = []) (t : TReg) : execRtak (some t) h .one w s = .next (State.retire { s with
      fresh := s.fresh + 1, tile := s.tile.setRing h ((s.tile.ring h).pop 1)
      core := s.core.setT t.val (tileOfBytes (s.tile.bytes ((s.tile.ring h).at 0) 1024)) }) := by
  have hclean : anyPoison (s.tile.bytes ((s.tile.ring h).at 0) 1024) = false :=
    List.any_eq_false.2 fun b hb => by simp [Tile.bytes_clean hp _ _ b hb]
  simp only [execRtak, State.computing_comp hsel, Core.still_tileOpen hs, Bool.not_true, Bool.false_eq_true, if_false, State.repeated_one hs,
    State.ringOk_configured h0, hheld, bne_self_eq_false, Nat.not_lt.2 hfill, decide_false, Bool.or_self, Core.still_acquiring hs, Bool.and_false,
    State.recallOwn, Tile.leasedOut_none hl, Chk.run_ok, Core.still_issuing hs, Option.isSome_none, State.withEntry, Core.still_free hs,
    Tile.ecc_clean hf, State.consume, hclean]

/-- RTAK of z pops the slot at HEAD. -/
theorem execRtak_z (hs : s.core.still = true) (hsel : s.sel = .comp) (h0 : (s.tile.ring h).nslot ≠ 0) (hheld : (s.tile.ring h).held = 0)
    {w : Fin 16} (hfill : Nat.max w.val 1 ≤ (s.tile.ring h).fill.toNat) : execRtak none h .one w s = .next (State.retire { s with
      fresh := s.fresh + 1, tile := s.tile.setRing h ((s.tile.ring h).pop 1) }) := by
  simp only [execRtak, State.computing_comp hsel, Bool.false_eq_true, if_false, State.repeated_one hs,
    State.ringOk_configured h0, hheld, bne_self_eq_false, Nat.not_lt.2 hfill, decide_false, Bool.or_self, Core.still_acquiring hs, Bool.and_false,
    Chk.run_ok, Core.still_issuing hs, Option.isSome_none, State.withEntry, Core.still_free hs, State.consume]
  rfl

/-- RTAK waits for its slots. -/
theorem execRtak_waits (hs : s.core.still = true) (hsel : s.sel = .comp) (h0 : (s.tile.ring h).nslot ≠ 0) {w : Fin 16}
    (hfill : (s.tile.ring h).fill.toNat < Nat.max w.val 1) (t : TReg) : execRtak (some t) h .one w s = .next s := by
  simp only [execRtak, State.computing_comp hsel, Core.still_tileOpen hs, Bool.not_true, Bool.false_eq_true, if_false, State.repeated_one hs,
    State.ringOk_configured h0, hfill, decide_true, Bool.or_true, Bool.true_or, if_true, State.stall]

end

end Sys2Proof.Machine
end

section
/-! SUPPORT. What each ring instruction leaves of a program's state (02 R58, 12 R291-R294). -/

namespace Sys2Proof.Machine

section
variable {s : State} {h : Ring}

theorem rcfg_configures (hs : s.core.still = true) {a : SReg} (hl : RingLegal (s.S a)) (hheld : (s.tile.ring h).held = 0)
    (hbusy : s.tile.copy.ringBusy h = false) :
    ∃ u, exec (.rcfg h a) s = .next u ∧ s.onlyRing u h ∧ u.tile.rings[h] = (s.tile.ring h).configured (s.S a) :=
  ⟨_, execRcfg_legal hs hl hheld hbusy, State.onlyRing_of rfl rfl rfl rfl rfl⟩

theorem radvTail_pushes (hs : s.core.still = true) (hsel : s.sel = .stage) (h0 : (s.tile.ring h).nslot ≠ 0) {n : Fin 128}
    (hn : n.val ≤ (s.tile.ring h).nslot.toNat) (hroom : n.val ≤ (s.tile.ring h).free) :
    ∃ u, exec (.radvTail h n) s = .next u ∧ s.onlyRing u h ∧ u.tile.rings[h] = (s.tile.ring h).push n.val :=
  ⟨_, execRadvTail_room hs hsel h0 hn hroom, State.onlyRing_of rfl rfl rfl rfl rfl⟩

/-- Popping n of the filled slots leaves as many fewer. -/
theorem RingState.pop_fill (r : RingState) {n : Nat} (hn : n ≤ r.fill.toNat) : (r.pop n).fill.toNat = r.fill.toNat - n := by
  have hbits : (BitVec.ofNat 7 n).toNat = n := Nat.mod_eq_of_lt (Nat.lt_of_le_of_lt hn r.fill.isLt)
  have hle : BitVec.ofNat 7 n ≤ r.fill := by rwa [BitVec.le_def, hbits]
  rw [pop, BitVec.toNat_sub_of_le hle, hbits]

theorem radvHead_pops (hs : s.core.still = true) (hsel : s.sel = .comp) (h0 : (s.tile.ring h).nslot ≠ 0) {n : Fin 128}
    (hn : n.val ≤ (s.tile.ring h).nslot.toNat) (hfill : n.val ≤ (s.tile.ring h).fill.toNat) (hheld : ∀ g, (s.tile.ring g).held = 0) :
    ∃ u, exec (.radvHead h n) s = .next u ∧ s.onlyRing u h ∧ u.popped s h n.val := by
  obtain ⟨u, hu, hpc, hregs, hlive, htile⟩ := execRadvHead_unforced hs hsel h0 hn hfill
  have hrings (g : Ring) : u.tile.ring g = { (s.tile.setRing h ((s.tile.ring h).pop n.val)).ring g with held := 0 } := by
    rw [htile, reheld_none]
  have hother (g : Ring) (hg : g ≠ h) : u.tile.ring g = s.tile.ring g := by
    rw [hrings, Tile.ring, Tile.setRing, vput_other _ _ _ _ hg, ← hheld g]; rfl
  have hsame : u.tile.rings[h] = { (s.tile.ring h).pop n.val with held := 0 } := by
    rw [← vput_same s.tile.rings h ((s.tile.ring h).pop n.val)]; exact hrings h
  refine ⟨u, hu, ⟨hpc, fun x => by simp only [State.S, Core.S, hregs, hlive], by rw [htile]; rfl, hother⟩, ?_⟩
  rw [State.popped, hsame]
  exact ⟨rfl, RingState.pop_fill _ hfill, rfl, rfl, rfl⟩

/-- RPSH and the filling of its slot: the bytes of the push are in the slot at TAIL, which has moved. -/
theorem rpsh_fills (hs : s.core.still = true) (hsel : s.sel = .stage) (h0 : (s.tile.ring h).nslot ≠ 0) (hroom : 0 < (s.tile.ring h).free)
    (hl : s.tile.leaseDir = []) (hf : s.tile.flips = []) (t : Option (Fin 4)) :
    ∃ u v, exec (.rpsh t h .one) s = .next u ∧ s.onlyRing u h ∧ u.tile.rings[h] = s.tile.ring h ∧ u.core.rpsh.length = 1 ∧
      exec .rpshSlotFilled u = .next v ∧ v.core.rpsh = [] ∧ v.core.pc = s.core.npc ∧ v.tile.rings[h] = (s.tile.ring h).push 1 ∧
      v.tile.slice = s.tile.slice.writeMany ((s.tile.ring h).slotAt ((s.tile.ring h).tail.toNat % (s.tile.ring h).nslot.toNat))
        ((s.pushOp h t).bytes.map fun b => some b.1) := by
  obtain ⟨cki, sig, hu⟩ := execRpsh_room hs hsel h0 hroom t
  obtain ⟨v, hv, hdone, hpc, hrings, hslice⟩ := execRpshSlotFilled_room (p := s.pushOp h t) (s := State.retire { s with
    tile := { s.tile with cki := cki }, core := { s.core with rpsh := [s.pushOp h t], sig := sig } }) rfl hl hf (Nat.ne_of_gt hroom)
  refine ⟨_, v, hu, ⟨rfl, fun _ => rfl, rfl, fun _ _ => rfl⟩, rfl, rfl, hv, hdone, hpc, ?_, hslice⟩
  rw [hrings]
  exact vput_same ..

theorem rtak_takes (hs : s.core.still = true) (hsel : s.sel = .comp) (h0 : (s.tile.ring h).nslot ≠ 0) (hheld : (s.tile.ring h).held = 0)
    {w : Fin 16} (hfill : Nat.max w.val 1 ≤ (s.tile.ring h).fill.toNat) (hl : s.tile.leaseDir = []) (hf : s.tile.flips = [])
    (hp : s.tile.poison = []) (t : TReg) :
    ∃ u, exec (.rtak (some t) h .one w) s = .next u ∧ s.onlyRing u h ∧ u.tile.rings[h] = (s.tile.ring h).pop 1 ∧
      (∀ x, x ≠ t.val → u.core.T x = s.core.T x) ∧ (u.core.T t.val).bytes = s.tile.bytes ((s.tile.ring h).at 0) 1024 := by
  have hsetT (v : TileReg) : s.core.setT t.val v = { s.core with rf := { s.core.rf with t := vput s.core.rf.t t v } } := by
    simp [Core.setT]
  refine ⟨_, execRtak_filled hs hsel h0 hheld hfill hl hf hp t, ?_⟩
  obtain ⟨honly, hring⟩ := State.onlyRing_of (s := s) (h := h) (r := (s.tile.ring h).pop 1) (u := State.retire { s with
      fresh := s.fresh + 1, tile := s.tile.setRing h ((s.tile.ring h).pop 1)
      core := s.core.setT t.val (tileOfBytes (s.tile.bytes ((s.tile.ring h).at 0) 1024)) })
    (by rw [hsetT]; rfl) (by rw [hsetT]; rfl) (by rw [hsetT]; rfl) rfl rfl
  refine ⟨honly, hring, fun x hx => Core.T_setT_other _ _ _ hx, ?_⟩
  have hreg := Core.T_setT_same s.core t (tileOfBytes (s.tile.bytes ((s.tile.ring h).at 0) 1024))
  exact (congrArg TileReg.bytes hreg).trans (bytes_tileOfBytes (Tile.length_bytes ..) (Tile.bytes_clean hp _ _))

theorem rtak_z_pops (hs : s.core.still = true) (hsel : s.sel = .comp) (h0 : (s.tile.ring h).nslot ≠ 0) (hheld : (s.tile.ring h).held = 0)
    {w : Fin 16} (hfill : Nat.max w.val 1 ≤ (s.tile.ring h).fill.toNat) :
    ∃ u, exec (.rtak none h .one w) s = .next u ∧ s.onlyRing u h ∧ u.tile.rings[h] = (s.tile.ring h).pop 1 ∧ u.core.rf = s.core.rf := by
  obtain ⟨honly, hring⟩ := State.onlyRing_of (s := s) (h := h) (r := (s.tile.ring h).pop 1) (u := State.retire { s with
    fresh := s.fresh + 1, tile := s.tile.setRing h ((s.tile.ring h).pop 1) }) rfl rfl rfl rfl rfl
  exact ⟨_, execRtak_z hs hsel h0 hheld hfill, honly, hring, rfl⟩

end

end Sys2Proof.Machine

namespace Sys2Proof
open Machine

/-- Settles O40: what each ring instruction leaves on a core with nothing in flight. -/
theorem ringsMove : Obligations.RingsMove := by
  intro s h n d a q t w hs hf hm hl r c k legal bnd same
  refine ⟨execRcfg_outside hs, fun hc hheld hbusy => ?_, fun h0 => ⟨execRqry_free hs h0 d, State.ringOk_free h0 _, State.ringOk_free h0 _⟩,
    fun h0 => execRqry_configured hs h0 d, fun h0 hn => ⟨State.ringCount_past h0 hn _, State.ringCount_past h0 hn _⟩,
    fun h0 hn => ⟨fun hheld hfill => ?_, fun hwait => ?_, fun hroom => ?_, fun hwait => ?_,
      fun hsel hroom => radvTail_pushes hs hsel h0 hn hroom, fun hsel hfill hheld _ => radvHead_pops hs hsel h0 hn hfill hheld⟩,
    fun hsel h0 hroom => ?_, fun hsel h0 hroom => ?_, fun hsel h0 hheld hfill hp => ⟨?_, rtak_z_pops hs hsel h0 hheld hfill⟩,
    fun hsel h0 hfill => execRtak_waits hs hsel h0 hfill t⟩
  · obtain ⟨u, hu, honly, hring⟩ := rcfg_configures hs hc hheld hbusy
    exact ⟨u, hu, honly, hring ▸ RingState.configured_fields _ _⟩
  · exact (execRwaitFull_within h0 hn).trans (by rw [if_pos ⟨hheld, hfill⟩])
  · refine (execRwaitFull_within h0 hn).trans (congrArg _ (if_neg ?_))
    rintro ⟨hheld, hfill⟩
    exact hwait.elim (· hheld) (Nat.not_lt.2 hfill)
  · exact (execRwaitFree_within h0 hn).trans (congrArg _ (if_pos hroom))
  · exact (execRwaitFree_within h0 hn).trans (congrArg _ (if_neg (Nat.not_le.2 hwait)))
  · obtain ⟨u, v, hu, honly, hring, hlen, hv, hdone, hpc, htail, hslice⟩ := rpsh_fills hs hsel h0 hroom hl hf (some q)
    refine ⟨u, v, hu, honly, hring, hlen, hv, hdone, htail, hpc, fun o => ?_⟩
    have hread := Memory.read_writeBytes hm (r.slotAt (r.tail.toNat % r.nslot.toNat)) o (s.core.T q.val).bytes
    rw [TileReg.length_bytes] at hread
    exact (congrArg (·.read o) hslice).trans hread
  · obtain ⟨u, v, hu, honly, -, -, hv, -, -, htail, hslice⟩ := rpsh_fills hs hsel h0 hroom hl hf none
    exact ⟨u, v, hu, honly, hv, htail, hslice⟩
  · obtain ⟨u, hu, honly, hring, hother, hbytes⟩ := rtak_takes hs hsel h0 hheld hfill hl hf hp t
    refine ⟨u, hu, honly, hring, hother, fun j hj => ?_⟩
    rw [hbytes, Tile.getElem_bytes _ hj]
    rfl

end Sys2Proof
end

section
/-! SUPPORT. What the scalar forms write: values, counts and bit fields (03 R70-R77, 02 R61). -/

namespace Sys2Proof.Machine

/-- With no write pending on its scalars an arithmetic form writes its result. -/
theorem State.alu_ready {s : State} {d : SReg} {l : List SReg} (h : s.core.ready (d :: l) = true) (v : Word) :
    s.alu d l v = .next (s.result d v) := by
  rw [State.alu_cases, if_pos h]

/-! ### Values in the spec's terms (R70) -/

theorem toNat_low6 (y : Word) : (y.extractLsb' 0 6).toNat = y.toNat % 64 := by
  rw [BitVec.extractLsb'_toNat, Nat.shiftRight_zero]

theorem mul_eq_ofInt (x y : Word) : x * y = BitVec.ofInt 64 (x.toInt * y.toInt) := by
  rw [BitVec.ofInt_mul, BitVec.ofInt_toInt, BitVec.ofInt_toInt]

theorem bit01_decide (p : Prop) [Decidable p] : bit01 (decide p) = if p then 1 else 0 := by
  simp only [bit01, decide_eq_true_eq]

theorem bit01_beq (x y : Word) : bit01 (x == y) = if x = y then 1 else 0 := by
  simp only [bit01, beq_iff_eq]

theorem bit01_slt (x y : Word) : bit01 (x.slt y) = if x.toInt < y.toInt then 1 else 0 := by
  rw [BitVec.slt_eq_decide, bit01_decide]

theorem bit01_ult (x y : Word) : bit01 (x.ult y) = if x.toNat < y.toNat then 1 else 0 := by
  rw [BitVec.ult_eq_decide, bit01_decide]

theorem ite_slt (x y v w : Word) : (if x.slt y = true then v else w) = if x.toInt < y.toInt then v else w := by
  simp only [BitVec.slt_eq_decide, decide_eq_true_eq]

theorem ite_ult (x y v w : Word) : (if x.ult y = true then v else w) = if x.toNat < y.toNat then v else w := by
  simp only [BitVec.ult_eq_decide, decide_eq_true_eq]

/-! ### Counts (R76) -/

/-- The numbers below N that come before the first one without p: all of them have p, and the next one, if it is below N, has not. -/
theorem upto_takeWhile (p : Nat → Bool) (N : Nat) :
    ((upto N).takeWhile p).length ≤ N ∧ (∀ j < ((upto N).takeWhile p).length, p j = true) ∧
      (((upto N).takeWhile p).length < N → p ((upto N).takeWhile p).length = false) := by
  induction N with
  | zero => simp [upto]
  | succ N ih =>
    obtain ⟨hle, hall, hstop⟩ := ih
    have hlen : (upto N).length = N := by rw [upto_eq_range, List.length_range]
    rw [upto, List.takeWhile_append, hlen]
    split
    next hfull =>
      rw [hfull] at hall
      cases hp : p N with
      | true =>
        simp only [List.takeWhile_cons, hp, if_true, List.takeWhile_nil, List.length_append, hlen, List.length_singleton, Nat.le_refl,
          Nat.lt_irrefl, false_implies, true_and, and_true]
        exact fun j hj => (Nat.lt_succ_iff_lt_or_eq.1 hj).elim (hall j) fun he => he ▸ hp
      | false => simpa [List.takeWhile_cons, hp, hlen] using hall
    next hpart => exact ⟨by omega, hall, fun _ => hstop (by omega)⟩

theorem clz_spec (x : Word) :
    clz x ≤ 64 ∧ (∀ j < clz x, x.getLsbD (63 - j) = false) ∧ (clz x < 64 → x.getLsbD (63 - clz x) = true) := by
  simpa only [clz, Bool.not_eq_true', Bool.not_eq_false'] using upto_takeWhile (fun j => !x.getLsbD (63 - j)) 64

theorem ctz_spec (x : Word) : ctz x ≤ 64 ∧ (∀ j < ctz x, x.getLsbD j = false) ∧ (ctz x < 64 → x.getLsbD (ctz x) = true) := by
  simpa only [ctz, Bool.not_eq_true', Bool.not_eq_false'] using upto_takeWhile (fun j => !x.getLsbD j) 64

theorem popc_eq_countP (x : Word) : popc x = (List.range 64).countP fun j => x.getLsbD j := by
  rw [popc, upto_eq_range, List.countP_eq_length_filter]

/-! ### Bit fields (R77) -/

theorem getLsbD_lowMask {n : Nat} (hn : n ≤ 64) (j : Nat) : (lowMask n).getLsbD j = decide (j < n) := by
  rw [lowMask, BitVec.getLsbD_ofNat, Nat.testBit_two_pow_sub_one, ← Bool.decide_and, decide_eq_decide]
  omega

theorem fieldOf_len (y : Word) : (fieldOf y).2 ≤ 64 := Nat.min_le_right ..

theorem getLsbD_bitExtract (x y : Word) (j : Nat) :
    (bitExtract x y).getLsbD j = (decide (j < (fieldOf y).2) && x.getLsbD ((fieldOf y).1 + j)) := by
  rw [bitExtract, BitVec.getLsbD_and, BitVec.getLsbD_ushiftRight, getLsbD_lowMask (fieldOf_len y), Bool.and_comm]

theorem getLsbD_bitInsert (old x y : Word) {j : Nat} (hj : j < 64) :
    (bitInsert old x y).getLsbD j =
      if (fieldOf y).1 ≤ j ∧ j < (fieldOf y).1 + (fieldOf y).2 then x.getLsbD (j - (fieldOf y).1) else old.getLsbD j := by
  simp only [bitInsert, BitVec.getLsbD_or, BitVec.getLsbD_and, BitVec.getLsbD_not, BitVec.getLsbD_shiftLeft, getLsbD_lowMask (fieldOf_len y),
    hj, decide_true, Bool.true_and]
  by_cases hlow : (fieldOf y).1 ≤ j
  · by_cases hin : j < (fieldOf y).1 + (fieldOf y).2
    · simp [hlow, hin, show j - (fieldOf y).1 < (fieldOf y).2 by omega, Nat.not_lt.2 hlow]
    · simp [hin, show ¬ j - (fieldOf y).1 < (fieldOf y).2 by omega]
  · simp [hlow, Nat.lt_of_not_le hlow]

end Sys2Proof.Machine

namespace Sys2Proof
open Machine

/-- Settles O1: each form is an `alu` of the value. -/
theorem scalarFormsWriteTheirResult : Obligations.ScalarFormsWriteTheirResult := by
  refine ⟨fun s d a b h => ?_, fun s d a imm n h => ?_⟩
  · have writes {u v : Word} (hv : u = v) : s.alu d [a, b] u = .next (s.result d v) := hv ▸ State.alu_ready h u
    exact ⟨writes rfl, writes rfl, writes rfl, writes rfl, writes rfl, writes (by rw [toNat_low6]), writes (by rw [toNat_low6]),
      writes (by rw [toNat_low6]), writes (mul_eq_ofInt _ _), writes rfl, writes rfl, writes (bit01_beq _ _), writes (bit01_slt _ _),
      writes (bit01_ult _ _), writes (by simp only [bne_iff_ne]), writes (ite_slt ..), writes (ite_slt ..), writes (ite_ult ..),
      writes (ite_ult ..), writes rfl, writes rfl, writes rfl⟩
  · have hd : s.core.ready [d] = true := Core.ready_of_subset h (by simp)
    have writes (v : Word) : s.alu d [a] v = .next (s.result d v) := State.alu_ready h v
    exact ⟨writes _, State.alu_ready hd _, writes _, writes _, writes _, writes _, writes _, writes _, writes _, writes _, writes _, writes _⟩

/-- Settles O2: the counts are the lengths of runs, and a field is a mask shifted to its place. -/
theorem bitsAreCountedTakenAndPut : Obligations.BitsAreCountedTakenAndPut := by
  refine ⟨fun s d a h => ?_, fun s d a b h => ⟨?_, ?_⟩⟩
  · obtain ⟨hclz, hzeros, hone⟩ := clz_spec (s.S a)
    obtain ⟨hctz, hzeros', hone'⟩ := ctz_spec (s.S a)
    exact ⟨⟨_, hclz, State.alu_ready h _, hzeros, hone⟩, ⟨_, hctz, State.alu_ready h _, hzeros', hone'⟩,
      popc_eq_countP (s.S a) ▸ State.alu_ready h _⟩
  · exact ⟨_, State.alu_ready h _, getLsbD_bitExtract (s.S a) (s.S b)⟩
  · exact ⟨_, State.alu_ready h _, fun j hj => getLsbD_bitInsert (s.S d) (s.S a) (s.S b) hj⟩

end Sys2Proof
end

section
/-! SUPPORT. The fields of a tagged pointer, and what the pointer instructions make of them (03 R78-R81, 05 R112). -/

namespace Sys2Proof.Machine

/-! ### The fields of a pointer (R78) -/

theorem ptrSpace_eq (x : Word) : ptrSpace x = x.toNat / 2 ^ 60 := by
  rw [ptrSpace, BitVec.extractLsb'_toNat, Nat.shiftRight_eq_div_pow]
  omega

theorem ptrOfs_near {x : Word} (h : ptrSpace x ≤ 1) : ptrOfs x = x.toNat % 2 ^ 40 := by
  rw [ptrOfs, if_pos h, BitVec.extractLsb'_toNat, Nat.shiftRight_zero]

theorem ptrOfs_far {x : Word} (h : ¬ ptrSpace x ≤ 1) : ptrOfs x = x.toNat % 2 ^ 56 := by
  rw [ptrOfs, if_neg h, BitVec.extractLsb'_toNat, Nat.shiftRight_zero]

theorem ptrRank_eq (x : Word) : ptrRank x = if ptrSpace x = 1 then x.toNat / 2 ^ 40 % 2 ^ 20 else 0 := by
  simp only [ptrRank, beq_iff_eq, BitVec.extractLsb'_toNat, Nat.shiftRight_eq_div_pow]

/-! ### A pointer with another offset (R79, R80 PADD) -/

/-- A pointer whose low n bits are replaced by an offset that fits there. -/
theorem toNat_append_ofs {n m : Nat} (hi : BitVec m) {o : Nat} (ho : o < 2 ^ n) :
    (hi ++ BitVec.ofNat n o).toNat = hi.toNat * 2 ^ n + o := by
  rw [BitVec.toNat_append, BitVec.toNat_ofNat, Nat.mod_eq_of_lt ho, ← Nat.shiftLeft_add_eq_or_of_lt ho, Nat.shiftLeft_eq]

theorem withOfs_near {x : Word} (h : ptrSpace x ≤ 1) {o : Nat} (ho : o < 2 ^ 40) :
    (withOfs x o).toNat = x.toNat / 2 ^ 40 * 2 ^ 40 + o := by
  rw [withOfs, if_pos h, toNat_append_ofs _ ho, BitVec.extractLsb'_toNat, Nat.shiftRight_eq_div_pow]
  omega

theorem withOfs_far {x : Word} (h : ¬ ptrSpace x ≤ 1) {o : Nat} (ho : o < 2 ^ 56) :
    (withOfs x o).toNat = x.toNat / 2 ^ 56 * 2 ^ 56 + o := by
  rw [withOfs, if_neg h, toNat_append_ofs _ ho, BitVec.extractLsb'_toNat, Nat.shiftRight_eq_div_pow]
  omega

/-- An offset within the limit of the space changes neither the space nor the rank. -/
theorem withOfs_fields {x : Word} {o : Nat} (ho : o ≤ spaceLimit (ptrSpace x)) :
    ptrSpace (withOfs x o) = ptrSpace x ∧ ptrRank (withOfs x o) = ptrRank x ∧ ptrOfs (withOfs x o) = o := by
  by_cases h : ptrSpace x ≤ 1
  · rw [spaceLimit, if_pos h] at ho
    have hx := withOfs_near h (show o < 2 ^ 40 by omega)
    have hsp : ptrSpace (withOfs x o) = ptrSpace x := by rw [ptrSpace_eq, ptrSpace_eq, hx]; omega
    refine ⟨hsp, ?_, by rw [ptrOfs_near (hsp ▸ h), hx]; omega⟩
    rw [ptrRank_eq, ptrRank_eq, hsp, hx, show (x.toNat / 2 ^ 40 * 2 ^ 40 + o) / 2 ^ 40 = x.toNat / 2 ^ 40 by omega]
  · rw [spaceLimit, if_neg h] at ho
    have hx := withOfs_far h (show o < 2 ^ 56 by omega)
    have hsp : ptrSpace (withOfs x o) = ptrSpace x := by rw [ptrSpace_eq, ptrSpace_eq, hx]; omega
    refine ⟨hsp, ?_, by rw [ptrOfs_far (hsp ▸ h), hx]; omega⟩
    rw [ptrRank_eq, ptrRank_eq, hsp, if_neg (by omega), if_neg (by omega)]

/-- What PADD answers is the pointer moved by the displacement, within its space. -/
theorem ea_fields {x : Word} {disp : Int} {p : Word} (h : ea x disp = some p) :
    ptrSpace p = ptrSpace x ∧ ptrRank p = ptrRank x ∧ (ptrOfs p : Int) = ptrOfs x + disp ∧ ptrOfs p ≤ spaceLimit (ptrSpace x) := by
  obtain ⟨-, hlow, hhigh, rfl⟩ := ea_some h
  obtain ⟨o, ho⟩ := Int.eq_ofNat_of_zero_le hlow
  rw [ho] at hhigh ⊢
  have hlimit : o ≤ spaceLimit (ptrSpace x) := Int.ofNat_le.1 hhigh
  obtain ⟨hsp, hrank, hofs⟩ := withOfs_fields hlimit
  rw [Int.toNat_natCast, hofs]
  exact ⟨hsp, hrank, ho.symm, hlimit⟩

theorem ea_none_iff (x : Word) (disp : Int) :
    ea x disp = none ↔ 5 ≤ ptrSpace x ∨ (ptrOfs x : Int) + disp < 0 ∨ (spaceLimit (ptrSpace x) : Int) < ptrOfs x + disp := by
  simp only [ea, Int.ofNat_eq_natCast]
  split
  next hsp => exact iff_of_true rfl (.inl hsp)
  next hsp => simp only [ite_eq_left_iff, reduceCtorEq, imp_false, not_not, hsp, false_or]

/-! ### Reading a field (R80 PSPC, PRNK, POFF) -/

theorem ofNat_ptrSpace (x : Word) : BitVec.ofNat 64 (ptrSpace x) = x >>> 60 := by
  apply BitVec.eq_of_toNat_eq
  rw [ptrSpace_eq, BitVec.toNat_ofNat, BitVec.toNat_ushiftRight, Nat.shiftRight_eq_div_pow]
  omega

theorem toNat_shift60 (x : Word) : (x >>> 60).toNat = ptrSpace x := by
  rw [ptrSpace_eq, BitVec.toNat_ushiftRight, Nat.shiftRight_eq_div_pow]

theorem shift60_eq_one (x : Word) : x >>> 60 = 1 ↔ ptrSpace x = 1 := by
  rw [← toNat_shift60, ← BitVec.toNat_inj]
  rfl

/-- The n bits of a word from bit o. -/
theorem ofNat_bits (x : Word) (o : Nat) {n : Nat} (hn : n ≤ 64) :
    BitVec.ofNat 64 (x.toNat / 2 ^ o % 2 ^ n) = (x >>> o) &&& lowMask n := by
  apply BitVec.eq_of_getLsbD_eq
  intro j hj
  rw [BitVec.getLsbD_and, BitVec.getLsbD_ushiftRight, getLsbD_lowMask hn, BitVec.getLsbD_ofNat, Nat.testBit_mod_two_pow,
    Nat.testBit_div_two_pow, BitVec.testBit_toNat, Nat.add_comm j o]
  simp only [hj, decide_true, Bool.true_and, Bool.and_comm]

theorem ofNat_ptrRank (x : Word) : BitVec.ofNat 64 (ptrRank x) = if x >>> 60 = 1 then (x >>> 40) &&& 0xFFFFF else 0 := by
  simp only [ptrRank_eq, shift60_eq_one]
  split
  · exact ofNat_bits x 40 (n := 20) (by omega)
  · rfl

theorem ofNat_ptrOfs (x : Word) :
    BitVec.ofNat 64 (ptrOfs x) = if (x >>> 60).toNat ≤ 1 then x &&& 0xFFFFFFFFFF else x &&& 0xFFFFFFFFFFFFFF := by
  have hbits {n : Nat} (hn : n ≤ 64) : BitVec.ofNat 64 (x.toNat % 2 ^ n) = x &&& lowMask n := by
    simpa only [Nat.pow_zero, Nat.div_one, BitVec.ushiftRight_zero] using ofNat_bits x 0 hn
  rw [toNat_shift60]
  split
  next h => rw [ptrOfs_near h]; exact hbits (n := 40) (by omega)
  next h => rw [ptrOfs_far h]; exact hbits (n := 56) (by omega)

/-! ### Building a pointer (R80 PMK) -/

/-- A field of n bits of y, put at bit k. -/
theorem ofNat_placed (y : Word) (o k : Nat) {n : Nat} (hn : n ≤ 64) :
    BitVec.ofNat 64 (y.toNat / 2 ^ o % 2 ^ n * 2 ^ k) = ((y >>> o) &&& lowMask n) <<< k := by
  rw [← ofNat_bits y o hn, ← Nat.shiftLeft_eq]
  apply BitVec.eq_of_toNat_eq
  simp [Nat.shiftLeft_eq]

/-- The space and the rank that PMK puts above an offset. -/
def ptrHead (y : Word) : Word :=
  ((y &&& 0xF) <<< 60) ||| (if y.toNat % 16 = 1 then ((y >>> 4) &&& 0xFFFFF) <<< 40 else 0)

theorem ptrHead_eq (y : Word) :
    BitVec.ofNat 64 (y.toNat % 16 * 2 ^ 60 + (if y.toNat % 16 == 1 then y.toNat / 16 % 2 ^ 20 * 2 ^ 40 else 0)) = ptrHead y := by
  have hspace : BitVec.ofNat 64 (y.toNat % 16 * 2 ^ 60) = (y &&& 0xF) <<< 60 := by
    simpa [lowMask] using ofNat_placed y 0 60 (n := 4) (by omega)
  have hrank : BitVec.ofNat 64 (y.toNat / 16 % 2 ^ 20 * 2 ^ 40) = ((y >>> 4) &&& 0xFFFFF) <<< 40 :=
    ofNat_placed y 4 40 (n := 20) (by omega)
  simp only [beq_iff_eq, ptrHead, ← hspace, ← hrank]
  split
  · rw [← BitVec.ofNat_or, ← Nat.shiftLeft_eq _ 60, Nat.shiftLeft_add_eq_or_of_lt (by omega)]
  · simp

theorem makePtr_within {x y : Word} (h : y.toNat % 16 < 5 ∧ x.toNat ≤ spaceLimit (y.toNat % 16)) :
    makePtr x y = some (ptrHead y ||| x) := by
  simp only [makePtr, if_neg (Nat.not_le.2 h.1), if_neg (Nat.not_lt.2 h.2), ptrHead_eq]

theorem makePtr_outside {x y : Word} (h : ¬ (y.toNat % 16 < 5 ∧ x.toNat ≤ spaceLimit (y.toNat % 16))) : makePtr x y = none := by
  rw [not_and_or, Nat.not_lt, Nat.not_le] at h
  simp only [makePtr]
  split
  · rfl
  next hsp => exact if_pos (h.resolve_left hsp)

/-! ### PMK and PADD -/

section
variable {s : State} {d a b : SReg} (h : s.core.ready [d, a, b] = true)
include h

theorem execPmk_some {p : Word} (hp : makePtr (s.S a) (s.S b) = some p) : execPmk d a b s = .next (s.result d p) := by
  simp only [execPmk, h, hp, Bool.not_true, Bool.false_eq_true, if_false, State.result]

theorem execPmk_none (hp : makePtr (s.S a) (s.S b) = none) : execPmk d a b s = .next (s.takeTrap .bnd (s.S a) s.core.pc false) := by
  simp only [execPmk, h, hp, Bool.not_true, Bool.false_eq_true, if_false, State.trapB_bnd]

theorem execPadd_some {p : Word} (hp : ea (s.S a) (s.S b).toInt = some p) : execPadd d a b s = .next (s.result d p) := by
  simp only [execPadd, h, hp, Bool.not_true, Bool.false_eq_true, if_false, State.result]

theorem execPadd_none (hp : ea (s.S a) (s.S b).toInt = none) : execPadd d a b s = .next (s.takeTrap .bnd (s.S a) s.core.pc false) := by
  simp only [execPadd, h, hp, Bool.not_true, Bool.false_eq_true, if_false, State.trapB_bnd]

end

end Sys2Proof.Machine

namespace Sys2Proof
open Machine

/-- Settles O5: the fields are masks of the pointer, and a moved pointer keeps those above its offset. -/
theorem pointersAreMadeMovedAndRead : Obligations.PointersAreMadeMovedAndRead := by
  intro s d a b h x y
  have hda : s.core.ready [d, a] = true := Core.ready_of_subset h (by simp)
  exact ⟨ofNat_ptrSpace x ▸ State.alu_ready hda _, ofNat_ptrRank x ▸ State.alu_ready hda _, ofNat_ptrOfs x ▸ State.alu_ready hda _,
    fun hin => execPmk_some h (makePtr_within hin), fun hout => execPmk_none h (makePtr_outside hout),
    fun _ hp => execPadd_some h hp, fun hp => execPadd_none h hp, fun _ hp => ea_fields hp, ea_none_iff x y.toInt⟩

end Sys2Proof
end

section
/-! SUPPORT. A divide at issue and at its completion (03 R72, R73, R84, R85, 15 R369, R370, R414). -/

namespace Sys2Proof.Machine

/-! ### The retirement of an entry that writes one scalar (15 R370) -/

/-- An entry that holds no data holds no poison. -/
theorem Entry.tainted_nil {e : Entry} (h : e.buf = []) : e.tainted = false := by
  unfold Entry.tainted
  split <;> simp [h, maskBytes, upto]

/-- An entry of one iteration is freed. -/
theorem State.entryDone_last {s : State} {n : Fin 8} (h : s.core.rq[n].count.toNat ≤ s.core.rq[n].next.toNat + 1) :
    s.entryDone n = { s with core := s.core.dropEntry n } := by
  simp only [State.entryDone, Nat.not_lt.2 h, if_false]

/-- An operation that writes its word 3 to the scalar d and nothing else. -/
structure WritesWord (i : Instr) (d : SReg) : Prop where
  result (c : Core) (sel : CoreSel) (e : Entry) : c.writeResult sel e i = c.setS d e.w3
  kld : kldOf i = none

/-- An entry in its last iteration, without data, whose operation writes its word 3 to d. -/
structure Entry.WritesTo (e : Entry) (d : SReg) : Prop where
  op : ∃ i, e.op = some i ∧ WritesWord i d
  buf : e.buf = []
  last : e.count.toNat ≤ e.next.toNat + 1

/-- The state after entry n has written v to d and is free. -/
def State.wordDone (s : State) (n : Fin 8) (d : SReg) (v : Word) : State := { s with core := (s.core.setS d v).dropEntry n }

theorem State.wordDone_entry (s : State) (n : Fin 8) (d : SReg) (v : Word) : (s.wordDone n d v).core.rq[n] = {} := vput_same ..

theorem State.S_wordDone (s : State) (n : Fin 8) (d : SReg) (v : Word) (r : SReg) :
    (s.wordDone n d v).S r = if r = d ∧ d ≠ 0 then v else s.S r := State.S_setS s d r v

theorem State.retireEntry_word {s : State} {n : Fin 8} {e : Entry} {d : SReg} (hen : s.core.rq[n] = e) (he : e.WritesTo d)
    (hup : s.core.upset = 0) : s.retireEntry n = s.wordDone n d e.w3 := by
  subst hen
  obtain ⟨⟨i, hop, hi⟩, hbuf, hlast⟩ := he
  have hkld : s.core.rq[n].kldFault i = none := by rw [Entry.kldFault, hi.kld]
  simp only [State.retireEntry, hop, hkld, State.consume, Entry.tainted_nil hbuf, Bool.false_eq_true, if_false, hi.result]
  rw [State.compared_agrees _ _ _ hup, State.entryDone_last (by simpa using hlast)]
  rfl

theorem State.settle_thawed {s : State} {n : Fin 8} {e : Entry} (hen : s.core.rq[n] = e) (hthaw : s.core.frozen e = false) :
    s.settle n = s.retireEntry n := by
  rw [State.settle, hen]
  exact if_neg (Bool.eq_false_iff.1 hthaw)

theorem State.putEntry_entry (s : State) (n : Fin 8) (e : Entry) : (s.putEntry n e).core.rq[n] = e := vput_same ..

/-- The entry with its word 3 ready. -/
def Entry.withWord (e : Entry) (v : Word) : Entry := { e with w3 := v }

/-- The word of an entry that is not frozen is written as soon as it is ready. -/
theorem State.settleWord_writes {s : State} {n : Fin 8} {e : Entry} {d : SReg} (hen : s.core.rq[n] = e) (he : e.WritesTo d)
    (hthaw : s.core.frozen e = false) (hup : s.core.upset = 0) (v : Word) :
    s.settleWord n v = (s.putEntry n (e.withWord v)).wordDone n d v := by
  subst hen
  have hready := s.putEntry_entry n (s.core.rq[n].withWord v)
  calc s.settleWord n v = (s.putEntry n (s.core.rq[n].withWord v)).settle n := rfl
    _ = (s.putEntry n (s.core.rq[n].withWord v)).retireEntry n := State.settle_thawed hready hthaw
    _ = (s.putEntry n (s.core.rq[n].withWord v)).wordDone n d v := State.retireEntry_word hready ⟨he.op, he.buf, he.last⟩ hup

/-! ### The eight divides (R72) -/

/-- The divides, with their registers and whether they take the low 32 bits. -/
inductive DivideForm (d a b : SReg) : Instr → Bool → Prop
  | div : DivideForm d a b (.div d a b) false
  | rem : DivideForm d a b (.rem d a b) false
  | divu : DivideForm d a b (.divu d a b) false
  | remu : DivideForm d a b (.remu d a b) false
  | divw : DivideForm d a b (.divw d a b) true
  | remw : DivideForm d a b (.remw d a b) true
  | divuw : DivideForm d a b (.divuw d a b) true
  | remuw : DivideForm d a b (.remuw d a b) true

/-- The divisor is zero, in the bits that the divide takes. -/
def zeroDivisor (w : Bool) (y : Word) : Bool := if w then y.truncate 32 == (0 : W32) else y == 0

/-- The state after the divide i took entry n with its operands (R84). -/
def State.dividing (s : State) (i : Instr) (n : Fin 8) (x y : Word) : State := (s.putEntry n (s.newEntry i 1 x y)).retire

theorem State.dividing_entry (s : State) (i : Instr) (n : Fin 8) (x y : Word) :
    (s.dividing i n x y).core.rq[n] = s.newEntry i 1 x y := vput_same ..

section
variable {s : State} {i : Instr} {d a b : SReg} {w : Bool} {n : Fin 8} (hi : DivideForm d a b i w)
include hi

theorem DivideForm.exec_eq (s : State) : exec i s = s.divide i d a b w := by
  cases hi <;> rfl

theorem DivideForm.writesWord : WritesWord i d := by
  cases hi <;> exact ⟨fun _ _ _ => rfl, rfl⟩

variable (hr : s.core.ready [d, a, b] = true)
include hr

/-- R73, R414: ZDIV before any wait for the divider or an entry. -/
theorem exec_zeroDivide (hz : zeroDivisor w (s.S b) = true) : exec i s = .next (s.takeTrap .zdiv s.core.pc s.core.pc false) := by
  rw [zeroDivisor] at hz
  simp only [hi.exec_eq, State.divide, hr, hz, Bool.not_true, Bool.false_eq_true, if_false, if_true]
  exact State.trapB_eq s .zdiv _ (by decide) (by decide)

/-- R84: a divide takes the free entry with its operands. -/
theorem exec_divide (hz : zeroDivisor w (s.S b) = false) (hfree : ∀ e ∈ s.core.claims, e.kind ≠ 1) (hn : s.core.freeEntry = some n) :
    exec i s = .next (s.dividing i n (s.S a) (s.S b)) := by
  rw [zeroDivisor] at hz
  have hidle : (s.core.claims.any fun e => e.kind == 1) = false := by
    simpa only [List.any_eq_false, beq_iff_eq] using hfree
  simp only [hi.exec_eq, State.divide, hr, hz, hidle, State.withEntry, hn, Bool.not_true, Bool.false_eq_true, if_false, State.dividing]

omit hr

section
variable (hstop : s.core.stopped = false) (hfwd : s.core.tr.fwd = none) (hup : s.core.upset = 0)
include hstop hfwd hup

/-- R84, R85: the divide of entry n writes its result from the operands it holds, and frees the entry. -/
theorem exec_divideComplete (x y : Word) : exec (.divideComplete n) (s.dividing i n x y) = .next
    (((s.dividing i n x y).putEntry n ((s.newEntry i 1 x y).withWord (divideResult i x y))).wordDone n d (divideResult i x y)) := by
  have hentry := s.dividing_entry i n x y
  have hthaw : (s.dividing i n x y).core.frozen (s.newEntry i 1 x y) = false := by
    simp [State.dividing, Core.frozen, hstop, hfwd, State.newEntry]
  have hword := State.settleWord_writes hentry ⟨⟨i, rfl, hi.writesWord⟩, rfl, by simp [State.newEntry]⟩ hthaw hup (divideResult i x y)
  rw [← hword]
  show execDivideComplete n _ = _
  simp only [execDivideComplete, hentry, hthaw]
  rfl

/-- A divide with a free entry and a divisor that is not zero does its whole work. -/
theorem divideDoes_of_free (hr : s.core.ready [d, a, b] = true) (hz : zeroDivisor w (s.S b) = false)
    (hfree : ∀ e ∈ s.core.claims, e.kind ≠ 1) (hn : s.core.freeEntry = some n) :
    s.divideDoes i n d (divideResult i (s.S a) (s.S b)) := by
  refine ⟨_, _, exec_divide hi hr hz hfree hn, exec_divideComplete hi hstop hfwd hup _ _, rfl, ?_, fun _ => rfl, rfl, ?_, ?_, ?_,
    fun r hne => ?_, rfl⟩
  · rw [State.dividing_entry]; rfl
  · simp [State.wordDone, State.dividing]
  · rw [State.wordDone_entry]
  · rw [State.S_wordDone]; by_cases hd : d = 0 <;> simp [hd]
  · rw [State.S_wordDone, if_neg fun h => hne h.1]; rfl

end

end

/-! ### What the divides write (R72, R73) -/

theorem divideBits_nonzero (signed : Bool) {n : Nat} (x : BitVec n) {y : BitVec n} (h : y ≠ 0) : divideBits signed n x y =
    if signed then (BitVec.ofInt n (Int.tdiv x.toInt y.toInt), BitVec.ofInt n (Int.tmod x.toInt y.toInt))
    else (BitVec.ofNat n (x.toNat / y.toNat), BitVec.ofNat n (x.toNat % y.toNat)) := by
  rw [divideBits, beq_eq_false_iff_ne.2 h]
  rfl

end Sys2Proof.Machine

namespace Sys2Proof
open Machine

/-- Settles O4: the divides differ in their results only. -/
theorem dividesCompleteOrTrap : Obligations.DividesCompleteOrTrap := by
  constructor
  · intro s d a b hr
    have traps {i : Instr} {w : Bool} (hi : DivideForm d a b i w) (hz : zeroDivisor w (s.S b) = true) := exec_zeroDivide hi hr hz
    refine ⟨fun hy => ?_, fun hyw => ?_⟩
    · have hz : zeroDivisor false (s.S b) = true := beq_iff_eq.2 hy
      exact ⟨traps .div hz, traps .rem hz, traps .divu hz, traps .remu hz⟩
    · have hz : zeroDivisor true (s.S b) = true := beq_iff_eq.2 hyw
      exact ⟨traps .divw hz, traps .remw hz, traps .divuw hz, traps .remuw hz⟩
  · intro s d a b n hr hfree hn hstop hfwd hup x y xw yw
    have does {i : Instr} {w : Bool} (hi : DivideForm d a b i w) (hz : zeroDivisor w y = false) {v : Word} (hv : divideResult i x y = v) :
        s.divideDoes i n d v := hv ▸ divideDoes_of_free hi hstop hfwd hup hr hz hfree hn
    refine ⟨fun hy => ?_, fun hyw => ?_⟩
    · have hz : zeroDivisor false y = false := beq_eq_false_iff_ne.2 hy
      have hsigned := divideBits_nonzero true x hy
      have hunsigned := divideBits_nonzero false x hy
      exact ⟨does .div hz (congrArg Prod.fst hsigned), does .rem hz (congrArg Prod.snd hsigned),
        does .divu hz (congrArg Prod.fst hunsigned), does .remu hz (congrArg Prod.snd hunsigned)⟩
    · have hz : zeroDivisor true y = false := beq_eq_false_iff_ne.2 hyw
      have hsigned := divideBits_nonzero true xw hyw
      have hunsigned := divideBits_nonzero false xw hyw
      exact ⟨does .divw hz (congrArg (·.1.signExtend 64) hsigned), does .remw hz (congrArg (·.2.signExtend 64) hsigned),
        does .divuw hz (congrArg (·.1.signExtend 64) hunsigned), does .remuw hz (congrArg (·.2.signExtend 64) hunsigned)⟩

end Sys2Proof
end

section
/-! SUPPORT. Branches, jumps, calls and returns (04 R86-R91, 02 R49, R57). -/

namespace Sys2Proof.Machine

/-! ### ILL at a bundle -/

theorem State.trapB_ill (s : State) (va : Word) : s.trapB .ill va = .next (s.takeTrap .ill va s.core.pc false) :=
  State.trapB_eq s .ill va (by decide) (by decide)

/-! ### Branches (R86) -/

theorem State.branch_ready {s : State} {l : List SReg} (h : s.core.ready l = true) (taken : Bool) (imm : Int) :
    s.branch l taken imm = .next (if taken = true then s.goto (s.target imm) else s.retire) := if_pos h

/-- A branch that is ready, by the condition that its Boolean stands for. -/
theorem State.branch_iff {s : State} {l : List SReg} (h : s.core.ready l = true) {taken : Bool} {p : Prop} [Decidable p]
    (hp : taken = true ↔ p) (imm : Int) : s.branch l taken imm = .next (if p then s.goto (s.target imm) else s.retire) := by
  rw [State.branch_ready h]
  exact congrArg Host.Outcome.next (if_congr hp rfl rfl)

/-! ### Calls and returns (R57, R91) -/

/-- CONV[15:0] and CONV[31:16] by their bits. -/
theorem State.callMask_bit (s : State) (r : SReg) : s.callMask.getLsbD r.val = s.core.sr.conv.getLsbD r.val := by
  simp [State.callMask]

theorem State.retMask_bit (s : State) (r : SReg) : s.retMask.getLsbD r.val = s.core.sr.conv.getLsbD (16 + r.val) := by
  simp [State.retMask]

theorem State.callTo_linked (s : State) (target : Word) : s.linked (s.callTo target) := by
  have hread (r : SReg) : (s.callTo target).S r = ((s.core.kill s.callMask).setS 15 s.core.npc).S r := rfl
  refine ⟨?_, fun r hr => ?_, rfl⟩
  · rw [hread, Core.S_setS]; simp
  · rw [hread, Core.S_setS, if_neg fun h => hr h.1, Core.S_kill, State.callMask_bit]; rfl

/-- The state after RET. -/
def State.afterRet (s : State) : State := State.goto { s with core := s.core.kill s.retMask } (s.S 15)

theorem State.S_afterRet (s : State) (r : SReg) :
    s.afterRet.S r = if r ≠ 0 ∧ s.core.sr.conv.getLsbD (16 + r.val) = true then 0 else s.S r := by
  have hread : s.afterRet.S r = (s.core.kill s.retMask).S r := rfl
  rw [hread, Core.S_kill, State.retMask_bit]; rfl

section
variable {s : State} {a : SReg}

theorem execJr_even (h : s.core.ready [a] = true) (he : (s.S a).getLsbD 0 = false) : execJr a s = .next (s.goto (s.S a)) := by
  simp only [execJr, h, he, Bool.not_true, Bool.false_eq_true, if_false]

theorem execJr_odd (h : s.core.ready [a] = true) (ho : (s.S a).getLsbD 0 = true) :
    execJr a s = .next (s.takeTrap .ill s.core.pc s.core.pc false) := by
  simp only [execJr, h, ho, Bool.not_true, Bool.false_eq_true, if_false, if_true, State.trapB_ill]

theorem execCallr_even (h : s.core.ready (a :: 15 :: maskRegs s.callMask) = true) (he : (s.S a).getLsbD 0 = false) :
    execCallr a s = .next (s.callTo (s.S a)) := by
  simp only [execCallr, h, he, Bool.not_true, Bool.false_eq_true, if_false]

theorem execCallr_odd (h : s.core.ready (a :: 15 :: maskRegs s.callMask) = true) (ho : (s.S a).getLsbD 0 = true) :
    execCallr a s = .next (s.takeTrap .ill s.core.pc s.core.pc false) := by
  simp only [execCallr, h, ho, Bool.not_true, Bool.false_eq_true, if_false, if_true, State.trapB_ill]

theorem execRet_even (h : s.core.ready (15 :: maskRegs s.retMask) = true) (he : (s.S 15).getLsbD 0 = false) :
    execRet s = .next s.afterRet := by
  simp only [execRet, h, he, Bool.not_true, Bool.false_eq_true, if_false, State.afterRet]

theorem execRet_odd (h : s.core.ready (15 :: maskRegs s.retMask) = true) (ho : (s.S 15).getLsbD 0 = true) :
    execRet s = .next (s.takeTrap .ill s.core.pc s.core.pc false) := by
  simp only [execRet, h, ho, Bool.not_true, Bool.false_eq_true, if_false, if_true, State.trapB_ill]

/-! ### LOOP (R88) -/

theorem execLoop_zero (s : State) (imm : Int) : execLoop 0 imm s = .next (s.takeTrap .ill s.baseWord s.core.pc false) := by
  simp only [execLoop, beq_self_eq_true, if_true, State.trapB_ill]

theorem execLoop_ready {d : SReg} (hd : d ≠ 0) (h : s.core.ready [d] = true) (imm : Int) :
    execLoop d imm s = .next (if s.S d - 1 = 0 then (s.setS d (s.S d - 1)).retire
      else (s.setS d (s.S d - 1)).goto ((s.setS d (s.S d - 1)).target imm)) := by
  simp only [execLoop, beq_iff_eq, hd, h, Bool.not_true, Bool.false_eq_true, if_false, bne_iff_ne, ne_eq, ite_not]

end

end Sys2Proof.Machine

namespace Sys2Proof
open Machine

/-- Settles O6: the conditions are the scalars', and a call or a return is a kill before control moves. -/
theorem branchesJumpsAndCallsGo : Obligations.BranchesJumpsAndCallsGo := by
  refine ⟨fun s a b imm => ⟨State.branch_ready (s := s) (l := []) rfl true imm, fun h => ⟨?_, ?_⟩, fun h => ⟨?_, ?_, ?_, ?_, ?_, ?_⟩, rfl, rfl,
    fun _ => ⟨rfl, rfl⟩, rfl, rfl⟩, fun s a imm => ⟨execJr_even, execJr_odd, fun h => ⟨_, if_pos h, rfl, s.callTo_linked _⟩,
    fun h he => ⟨_, execCallr_even h he, rfl, s.callTo_linked _⟩, execCallr_odd,
    fun h he => ⟨_, execRet_even h he, rfl, rfl, s.S_afterRet⟩, execRet_odd, execLoop_zero s imm⟩⟩
  · exact State.branch_iff h beq_iff_eq imm
  · exact State.branch_iff h bne_iff_ne imm
  · exact State.branch_iff h beq_iff_eq imm
  · exact State.branch_iff h bne_iff_ne imm
  · exact State.branch_iff h BitVec.slt_iff_toInt_lt imm
  · exact State.branch_iff h (by rw [Bool.not_eq_true', ← Bool.not_eq_true, BitVec.slt_iff_toInt_lt, Int.not_lt]) imm
  · exact State.branch_iff h BitVec.ult_iff_toNat_lt imm
  · exact State.branch_iff h (by rw [Bool.not_eq_true', ← Bool.not_eq_true, BitVec.ult_iff_toNat_lt, Nat.not_lt]) imm

/-- Settles O7: the counter is written before control goes on or back. -/
theorem loopCountsDown : Obligations.LoopCountsDown := by
  intro s d imm
  refine ⟨fun hd h => ⟨_, execLoop_ready hd h imm, ?_⟩, s.baseWord, execLoop_zero s imm⟩
  have hread (r : SReg) : (s.setS d (s.S d - 1)).S r = if r = d ∧ d ≠ 0 then s.S d - 1 else s.S r := State.S_setS ..
  split
  · exact ⟨(hread d).trans (if_pos ⟨rfl, hd⟩), fun r hr => (hread r).trans (if_neg fun e => hr e.1), rfl, Core.setS_npc ..⟩
  · exact ⟨(hread d).trans (if_pos ⟨rfl, hd⟩), fun r hr => (hread r).trans (if_neg fun e => hr e.1), rfl, by simp [State.goto, State.target]⟩

end Sys2Proof
end

section
/-! SUPPORT. The end and the start of an activation (04 R99-R107, 01 R23, R24). -/

namespace Sys2Proof.Machine

/-! ### NOP, BRK, END and ENDT (R99-R102) -/

theorem State.trapB_brk (s : State) (va : Word) : s.trapB .brk va = .next (s.takeTrap .brk va s.core.pc false) :=
  State.trapB_eq s .brk va (by decide) (by decide)

/-- Scalars of a core none of which is live read 0. -/
theorem Core.S_dead {c : Core} (h : c.live = 0) (r : SReg) : c.S r = 0 := by simp [Core.S, h]

/-- The state after ENDT: that after END, the core for good, and the team that is told to the quay. -/
def State.endTeamHere (s : State) : State :=
  { s.endActivation with
    core := { s.endActivation.core with ended := true }
    teams := s.teams.map fun u => if u.ctx == s.tile.ctx && u.tag == s.tile.ttag then { u with endt := true } else u }

theorem State.endActivation_over (s : State) :
    s.endActivation.activationOver s ∧ s.endActivation.core.ended = s.core.ended ∧ s.endActivation.teams = s.teams := by
  obtain ⟨hcore, htile, -, -, hteams, -⟩ := s.traceRec_core 1 0
  refine ⟨⟨rfl, rfl, Core.S_dead rfl, rfl, rfl, ?_, htile, ?_⟩, ?_, hteams⟩
  · simp only [State.endActivation, hcore, Core.killAll]
    exact congrArg Berth.inbox (vput_same ..)
  · simp only [State.endActivation, hcore, Core.killAll]
  · simp only [State.endActivation, hcore, Core.killAll]

theorem State.endTeamHere_over (s : State) : s.endTeamHere.activationOver s := s.endActivation_over.1

section
variable {s : State}

theorem execEnd_idle (hl : s.core.tr.level.val = 0) (hi : s.core.idleUnits = true) :
    execEndAct s = .next s.endActivation ∧ execEndTeam s = .next s.endTeamHere := by
  obtain ⟨⟨-, -, -, -, -, -, htile, -⟩, -, hteams⟩ := s.endActivation_over
  constructor
  · simp only [execEndAct, hl, hi, bne_self_eq_false, Bool.false_eq_true, if_false, if_true]
  · simp only [execEndTeam, hl, hi, bne_self_eq_false, Bool.false_eq_true, if_false, if_true, htile, hteams, State.endTeamHere]

theorem execEnd_inTrap (hl : s.core.tr.level.val ≠ 0) :
    execEndAct s = .next (s.takeTrap .ill s.core.pc s.core.pc false) ∧ execEndTeam s = .next (s.takeTrap .ill s.core.pc s.core.pc false) := by
  have hl : (s.core.tr.level.val != 0) = true := bne_iff_ne.2 hl
  simp only [execEndAct, execEndTeam, hl, if_true, State.trapB_ill, and_self]

/-! ### The start of an activation (R105-R107) -/

/-- The core whose activation of a berth without a stack begins. -/
def Core.startBare (c : Core) (b : Fin 16) (g : Nat) : Core :=
  { c with
    live := 0, rf := {}
    sr := { c.sr with
      conv := c.berths[b].conv.zeroExtend 64, mctl := 0, tola := 0, tolr := 0, fmta := 0, fmtb := 0, scla := 0, sclb := 0, gtb := 0,
      kmd := 0, krho := 0, ffl := 0, fctl := 0, brth := BitVec.ofNat 64 b.val
      msgh := match c.berths[b].inbox with | m :: _ => m.h0 | [] => 0 }
    tr := { c.tr with level := 0, sstep := false }
    frames := [], ucause := 0, uopc := 0, pc := c.berths[b].entry.zeroExtend 64, active := true, guard := g
    lastPrio := c.berths[b].prio.toNat, q := { c.q with q0pos := 0 }, issued := false }

theorem Core.startAct_eq (c : Core) (b : Fin 16) (g : Nat) : c.startAct b g =
    if c.berths[b].stk = 0 then c.startBare b g else (c.startBare b g).setS 14 (c.berths[b].stk.zeroExtend 64) :=
  if_congr beq_iff_eq rfl rfl

/-- The stack pointer of a berth is the only scalar that an activation starts with. -/
theorem Core.S_startAct (c : Core) (b : Fin 16) (g : Nat) (r : SReg) :
    (c.startAct b g).S r = if r = 14 ∧ c.berths[b].stk ≠ 0 then c.berths[b].stk.zeroExtend 64 else 0 := by
  have hbare : (c.startBare b g).S r = 0 := Core.S_dead rfl r
  rw [Core.startAct_eq]
  by_cases hk : c.berths[b].stk = 0
  · rw [if_pos hk, hbare, if_neg fun h => h.2 hk]
  · rw [if_neg hk, Core.S_setS, hbare]
    exact if_congr ⟨fun h => ⟨h.1, hk⟩, fun h => ⟨h.1, by decide⟩⟩ rfl rfl

/-- A field that no write of a scalar changes is that of the bare start. -/
theorem Core.startAct_field {α : Type} (f : Core → α) (hf : ∀ (c : Core) d v, f (c.setS d v) = f c) (c : Core) (b : Fin 16) (g : Nat) :
    f (c.startAct b g) = f (c.startBare b g) := by
  rw [Core.startAct_eq]
  split
  · rfl
  · exact hf ..

/-- Bytes that a tile keeps survive the start of an activation, whether the others do or not. -/
theorem Tile.read_atStart (t : Tile) (fresh : Nat) {a : Nat} (hw : t.slice.wf = true) (ha : a < 0x80000) (hk : t.kept a = true) :
    (t.atStart fresh).slice.read a = t.slice.read a := by
  simp only [Tile.atStart]
  split
  · exact t.read_scrambled _ hw ha hk
  · rfl

/-- The machine after the core in focus has started an activation of berth b. -/
def State.started (s : State) (b : Fin 16) (g : Nat) : State :=
  State.traceRec { s with core := s.core.startAct b g, tile := s.tile.atStart s.fresh, fresh := s.fresh + 0x80001 } 0 0

theorem execActivationStart_chosen (h1 : s.core.active = false) (h2 : s.core.ended = false) (h3 : s.core.stopped = false)
    (h4 : s.tile.owned = true) {b : Fin 16} {g : Nat} (hb : s.chooseBerth = some (b, g)) : execActivationStart s = .next (s.started b g) := by
  simp only [execActivationStart, h1, h2, h3, h4, hb, Bool.not_true, Bool.or_self, Bool.false_eq_true, if_false, State.started]

end

end Sys2Proof.Machine

namespace Sys2Proof
open Machine

/-- Settles O8: an end kills every register, and a start loads what the berth has. -/
theorem activationsStartAndEnd : Obligations.ActivationsStartAndEnd := by
  refine ⟨fun s => ⟨rfl, s.trapB_brk _, fun hl hi => ?_, execEnd_inTrap⟩, fun s b g h1 h2 h3 h4 hb => ?_⟩
  · obtain ⟨hend, hteam⟩ := execEnd_idle hl hi
    exact ⟨⟨_, hend, s.endActivation_over⟩, _, hteam, s.endTeamHere_over, rfl, rfl⟩
  · obtain ⟨hcore, htile, -⟩ := State.traceRec_core
      { s with core := s.core.startAct b g, tile := s.tile.atStart s.fresh, fresh := s.fresh + 0x80001 } 0 0
    have field {α : Type} (f : Core → α) (hf : ∀ (c : Core) d v, f (c.setS d v) = f c) :
        f (s.started b g).core = f (s.core.startBare b g) := (congrArg f hcore).trans (Core.startAct_field f hf ..)
    have hsr : (s.started b g).core.sr = (s.core.startBare b g).sr := field Core.sr Core.setS_sr
    refine ⟨s.started b g, execActivationStart_chosen h1 h2 h3 h4 hb, field Core.active Core.setS_active, field Core.pc Core.setS_pc,
      field Core.rf Core.setS_rf, fun r => ?_, congrArg (·.conv) hsr, congrArg (·.brth) hsr, fun m hm => ?_, congrArg (·.mctl) hsr,
      congrArg (·.fmta) hsr, congrArg (·.fmtb) hsr, congrArg (·.tvec) hsr, congrArg (·.level) (field Core.tr Core.setS_tr),
      field Core.frames Core.setS_frames, congrArg (·.q0pos) (field Core.q Core.setS_q), field Core.berths Core.setS_berths, ?_,
      fun hw a ha hk => ?_⟩
    · exact (congrArg (Core.S · r) hcore).trans (s.core.S_startAct b g r)
    · obtain ⟨l, hl⟩ := List.head?_eq_some_iff.1 hm
      refine (congrArg (·.msgh) hsr).trans ?_
      simp only [Core.startBare, hl]
    · rw [State.started, htile]; rfl
    · rw [State.started, htile]; exact s.tile.read_atStart _ hw ha hk

end Sys2Proof
end

section
/-! SUPPORT. A packet that arrives at the tile in focus: its way there, its window, and the waits (07 R160, R178, 04 R104). -/

namespace Sys2Proof.Machine

/-! ### The core in focus -/

theorem State.focusOn_self {s : State} {id : TileId} {k : CoreSel} (hid : s.tile.id = id) (hk : s.sel = k) : s.focusOn id k = s := by
  subst hid hk
  unfold State.focusOn
  rw [if_pos (beq_self_eq_true _)]
  cases h : s.sel <;> (cases s; cases h; rfl)

/-- Work at the core in focus that leaves the focus there needs no move of it. -/
theorem State.atCore_self {s : State} {id : TileId} {k : CoreSel} {f : State → State} (hid : s.tile.id = id) (hk : s.sel = k)
    (h1 : (f s).tile.id = s.tile.id) (h2 : (f s).sel = s.sel) : s.atCore id k f = f s := by
  simp only [State.atCore, State.focusOn_self hid hk]
  exact State.focusOn_self h1 h2

theorem State.tileAt_self {s : State} {id : TileId} (hid : s.tile.id = id) : (s.tileAt id).tile = s.tile := by
  rw [← hid, State.tileAt_focus, State.curTile_tile]

/-! ### The way of a packet to its tile -/

/-- A reply to a packet that no spill queue has taken, from the tile in focus. -/
theorem State.reply_here {s : State} {p : Packet} {x y : Nat} (hid : s.tile.id = .grid x y) (hd : p.dst = .tile x y) (ht : p.taken = 0)
    (b : Body) : s.reply p b = s.notice (s.replyHere p b) := by
  have hspill : spilled p = false := by simp [spilled, ht]
  simp only [State.reply, hspill, Bool.false_and, Bool.false_eq_true, if_false, hd, State.replier, State.tileAt_self hid]
  simp only [State.replyHere, replyTo, hd]

/-- The fabric without a packet that has arrived. -/
def State.without (s : State) (p : Packet) : State := { s with net := s.net.erase p }

section
variable {s : State} {p : Packet} (h : s.arrives p)
include h

/-- A request or message of a team's stream goes to its tile in one move. -/
theorem State.packetEvent_arrives (hv : p.vc.val ≠ 0 ∧ p.vc.val ≠ 2 ∧ p.vc.val ≠ 7) {u : State} (hu : (s.without p).arriveTile p = u)
    (h1 : u.tile.id = s.tile.id) (h2 : u.sel = s.sel) : s.packetEvent p true = .next u := by
  obtain ⟨hsel, ⟨x, y, hid, hd⟩, hnet, hhaw, hcalm, hland, hhop, -, hreg, hend, hteam, -⟩ := h
  have hcalm : s.calm = true := hcalm
  have hne (n : Fin 8) (hn : p.vc.val ≠ n.val) : (p.vc == n) = false := beq_eq_false_iff_ne.2 fun e => hn (congrArg Fin.val e)
  have hv0 := hne 0 hv.1
  have hv2 := hne 2 hv.2.1
  have hv7 := hne 7 hv.2.2
  have hrelay : relays p = false := by simp [relays, hv0, hv7]
  have hjourney : s.journeyOf p = .arrives := if_pos hcalm
  have henters : s.entersRegion p = false := by
    rw [State.entersRegion, if_pos hcalm, legSrc, legDst, hrelay, hhop, hreg]
    simp
  have htake : takesTeam ((s.without p).tileAt (.grid x y)).tile p = true := by
    rw [State.tileAt_self (s := s.without p) hid]; exact hteam
  have hdeliver : (s.without p).deliver p = u := by
    have hend' : (s.without p).endingFor p = false := hend
    simp only [State.deliver, hv0, hv2, hv7, hd, hend', htake, Bool.false_eq_true, if_false, if_true, State.arriveAtTile]
    subst hu
    exact State.atCore_self (s := s.without p) hid hsel h1 h2
  have hcarry : s.carry p = u := by
    have hdeliver' : State.deliver { s with net := s.net.erase p } p = u := hdeliver
    simp only [State.carry, hjourney, henters, Bool.false_and, Bool.false_eq_true, if_false, State.endLeg, hrelay, hland, hdeliver']
  simp [State.packetEvent, hhaw, hnet, hcarry, hrelay]

theorem State.arrives_place : ∃ x y, s.tile.id = .grid x y ∧ p.dst = .tile x y ∧ p.taken = 0 := by
  obtain ⟨-, ⟨x, y, hid, hd⟩, -, -, -, -, -, htaken, -⟩ := h
  exact ⟨x, y, hid, hd, htaken⟩

theorem State.arrives_idle : s.tile.portWait = [] ∧ s.tile.heldWrites = [] := by
  obtain ⟨-, -, -, -, -, -, -, -, -, -, -, hport, hheld, -⟩ := h
  exact ⟨hport, hheld⟩

end

/-! ### The window of a stream (R178) -/

/-- The windows expect this packet next, and hold none behind it. -/
def Expects (ws : List SeqWindow) (p : Packet) : Prop := ∃ w, findWindow ws p = some w ∧ w.e = p.seq ∧ w.held = []

theorem State.arrives_expects {s : State} {p : Packet} (h : s.arrives p) : Expects s.tile.windows p := by
  obtain ⟨-, -, -, -, -, -, -, -, -, -, -, -, -, hw⟩ := h
  exact hw

theorem SeqWindow.is_advance (w : SeqWindow) (p : Packet) (r : Option Body) : (w.advance p r).is p = w.is p := rfl

theorem findWindow_modWindow {ws : List SeqWindow} {p : Packet} {f : SeqWindow → SeqWindow} (hf : ∀ w, (f w).is p = w.is p) :
    findWindow (modWindow ws p f) p = (findWindow ws p).map f := by
  induction ws with
  | nil => rfl
  | cons w ws ih =>
    simp only [findWindow, modWindow, List.map_cons] at ih ⊢
    cases hw : w.is p with
    | true => simp [hw, hf]
    | false => simp [hw, ih]

theorem seqOf_modWindow_advance {ws : List SeqWindow} {p : Packet} (h : Expects ws p) (r : Option Body) :
    seqOf ws p = .next ∧ nextHeld (modWindow ws p fun w => w.advance p r) p = none ∧
      seqOf (modWindow ws p fun w => w.advance p r) p = .repeated := by
  obtain ⟨w, hw, he, hheld⟩ := h
  have hw' := findWindow_modWindow (ws := ws) (p := p) (f := fun w => w.advance p r) fun w => w.is_advance p r
  rw [hw] at hw'
  have hdist : p.seq - (w.advance p r).e = 65535#16 := by
    show p.seq - (w.e + 1) = 65535#16
    rw [he]; bv_omega
  refine ⟨?_, ?_, ?_⟩
  · simp [seqOf, hw, he]
  · simp only [nextHeld, hw', Option.map_some]
    simp [SeqWindow.advance, hheld]
  · simp [seqOf, hw', hdist]

theorem windowDrain_none {s : State} {p : Packet} (h : nextHeld s.tile.windows p = none) (n : Nat) : windowDrain n p s = s := by
  cases n <;> simp only [windowDrain, h]

/-- A packet has been performed, and its window expects the next number. -/
def State.counted (s : State) (p : Packet) (r : Option Body) : State :=
  { s with tile := { s.tile with windows := modWindow s.tile.windows p fun w => w.advance p r } }

section
variable {s t : State} {p : Packet} {seen : Bool} (hx : Expects s.tile.windows p)
include hx

theorem State.tileWindow_done {r : Option Body} (hp : s.performTile p seen = .done t r) (hw : t.tile.windows = s.tile.windows)
    (hb : p.body ≠ .close) : s.tileWindow p seen = (false, t.counted p r) := by
  obtain ⟨hnext, hheld, -⟩ := seqOf_modWindow_advance hx r
  have hdone : windowDone t.tile.windows p r = modWindow s.tile.windows p fun w => w.advance p r := by
    simp [windowDone, hb, hw]
  simp only [State.tileWindow, hnext, State.windowNext, hp, hdone]
  rw [windowDrain_none hheld, State.counted, hw]

theorem State.tileWindow_wait (hp : s.performTile p seen = .wait t) : s.tileWindow p seen = (true, t) := by
  obtain ⟨hnext, -⟩ := seqOf_modWindow_advance hx none
  simp only [State.tileWindow, hnext, State.windowNext, hp]

section
variable (hi : s.tile.portWait = [] ∧ s.tile.heldWrites = [])
include hi

theorem State.arriveTile_done {r : Option Body} (hp : s.performTile p false = .done t r) (hw : t.tile.windows = s.tile.windows)
    (hb : p.body ≠ .close) : s.arriveTile p = t.counted p r := by
  simp [State.arriveTile, hi, State.tileWindow_done hx hp hw hb]

theorem State.arriveTile_wait (hp : s.performTile p false = .wait t) : s.arriveTile p = t.putWait p (isAtomicBody p.body) := by
  simp [State.arriveTile, hi, State.tileWindow_wait hx hp]

end

/-! ### A packet that waited -/

theorem tryWaiting_done {r : Option Body} (hp : s.performTile p seen = .done t r) (hw : t.tile.windows = s.tile.windows)
    (hb : p.body ≠ .close) : tryWaiting [(p, seen)] s = { t.counted p r with tile := (t.counted p r).tile.unwait p } := by
  simp only [tryWaiting, State.tileWindow_done hx hp hw hb, Bool.false_eq_true, if_false]

/-- A packet that still waits changes nothing. -/
theorem tryWaiting_wait (hp : s.performTile p seen = .wait s) (hh : s.tile.heldWrites = []) : tryWaiting [(p, seen)] s = s := by
  have hnil : ({ s with tile := { s.tile with heldWrites := [] } } : State) = s := by rw [← hh]
  simp only [tryWaiting, State.tileWindow_wait hx hp, if_true, hh, List.map_nil, hnil]

end

theorem State.portFronts_single {s : State} {p : Packet} (h : s.tile.portWait = [p]) : s.portFronts (isRingMsg p) = [(p, false)] := by
  simp [State.portFronts, h, fronts]

theorem State.putWait_port {s : State} {p : Packet} (hv : p.vc ≠ 1) (seen : Bool) :
    s.putWait p seen = { s with tile := { s.tile with portWait := s.tile.portWait ++ [p] } } := by
  simp [State.putWait, hv]

end Sys2Proof.Machine
end

section
/-! SUPPORT. Messages at a berth and at a ring (04 R104, 07 R160). -/

namespace Sys2Proof.Machine

/-! ### The cores of the tile in focus -/

theorem State.ownCore_modOwn (s : State) (k : CoreSel) (f : Core → Core) : (s.modOwn k f).ownCore k = f (s.ownCore k) := by
  cases hk : k == s.sel <;> simp [State.modOwn, State.ownCore, hk]

theorem State.modOwn_congr {s : State} {k : CoreSel} {f g : Core → Core} (h : f (s.ownCore k) = g (s.ownCore k)) :
    s.modOwn k f = s.modOwn k g := by
  cases hk : k == s.sel <;> simp_all [State.modOwn, State.ownCore]

theorem State.modOwn_tile (s : State) (k : CoreSel) (f : Core → Core) : (s.modOwn k f).tile = s.tile ∧ (s.modOwn k f).net = s.net ∧
    (s.modOwn k f).sel = s.sel ∧ (s.modOwn k f).routeGen = s.routeGen := by
  unfold State.modOwn; split <;> exact ⟨rfl, rfl, rfl, rfl⟩

/-! ### A message at a berth (R104) -/

/-- The inbox entry that a message makes. -/
def msgOf (p : Packet) (bs : List Byte) (pm : BitVec 32) (now : Nat) : Msg :=
  { h0 := pktWord0 p, h1 := pktWord1 p, h2 := pktWord2 p, h3 := pktWord3 p, payload := bs, pmask := pm, order := now }

/-- Berth b of a core with one more message. -/
def Core.inboxAdd (c : Core) (b : Fin 16) (m : Msg) : Core :=
  { c with berths := vput c.berths b { c.berths[b] with inbox := c.berths[b].inbox ++ [m] } }

theorem Core.inbox_inboxAdd (c : Core) (b : Fin 16) (m : Msg) : ((c.inboxAdd b m).berths[b]).inbox = c.berths[b].inbox ++ [m] :=
  congrArg Berth.inbox (vput_same ..)

/-- The message stands in its berth. -/
def State.received (s : State) (p : Packet) (k : CoreSel) (b : Fin 16) (bs : List Byte) (pm : BitVec 32) : State :=
  State.modOwn { s with tile := { s.tile with arrivals := s.tile.arrivals + 1 } } k fun c => c.inboxAdd b (msgOf p bs pm s.now)

section
variable {s : State} {p : Packet} {k : CoreSel} {b : Fin 16} {bs : List Byte} {pm : BitVec 32}

theorem State.ownCore_received : (s.received p k b bs pm).ownCore k = (s.ownCore k).inboxAdd b (msgOf p bs pm s.now) :=
  State.ownCore_modOwn ..

theorem State.received_frame : (s.received p k b bs pm).tile = { s.tile with arrivals := s.tile.arrivals + 1 } ∧
    (s.received p k b bs pm).net = s.net ∧ (s.received p k b bs pm).sel = s.sel ∧ (s.received p k b bs pm).routeGen = s.routeGen :=
  State.modOwn_tile ..

variable (hval : ((s.ownCore k).berths[b]).valid = true) (hvc : ((s.ownCore k).berths[b]).vc.toNat + 3 = p.vc.val)
include hval hvc

theorem State.acceptMsg_room (hroom : ((s.ownCore k).berths[b]).inbox.length < ((s.ownCore k).berths[b]).quota.toNat) :
    s.acceptMsg p k b bs pm = .done ((s.received p k b bs pm).reply p (.ack false)) none := by
  unfold State.acceptMsg
  dsimp only
  rw [if_neg (by simp only [hval, hvc, Bool.not_true, bne_self_eq_false, Bool.or_self, Bool.false_eq_true, not_false_eq_true]), if_neg (Nat.not_le.2 hroom)]
  exact congrArg (fun t : State => Took.done (t.reply p (.ack false)) none) (State.modOwn_congr (by rfl))

theorem State.acceptMsg_full (hfull : ((s.ownCore k).berths[b]).quota.toNat ≤ ((s.ownCore k).berths[b]).inbox.length) :
    s.acceptMsg p k b bs pm = .wait s := by
  simp only [State.acceptMsg, hval, hvc, hfull, Bool.not_true, bne_self_eq_false, Bool.or_self, Bool.false_eq_true, if_false, if_true]

end

theorem performTile_msg {s : State} {p : Packet} {kind : MsgKind} {b : Fin 16} {h : Ring} {k : CoreSel} {hd : W32} {rel : Option Scope}
    {bs : List Byte} {pm : BitVec 32} (hb : p.body = .msg kind b h k hd rel bs pm) (hk : kind ≠ .tileToRing) (seen : Bool) :
    s.performTile p seen = s.acceptMsg p k b bs pm ∧ isRingMsg p = false := by
  cases kind with
  | tileToRing => exact absurd rfl hk
  | _ => simp only [State.performTile, isRingMsg, hb, and_self]

theorem performTile_ringMsg {s : State} {p : Packet} {b : Fin 16} {h : Ring} {k : CoreSel} {hd : W32} {rel : Option Scope}
    {bs : List Byte} {pm : BitVec 32} (hb : p.body = .msg .tileToRing b h k hd rel bs pm) (seen : Bool) :
    s.performTile p seen = s.acceptRing p h bs pm ∧ isRingMsg p = true := by
  simp only [State.performTile, isRingMsg, hb, and_self]

/-! ### A message at a ring (R160) -/

/-- Of a tile a store changes the slice, its poison and check bits, and the counts of errors. -/
theorem Tile.store_frame (t : Tile) (f o : Nat) (bs : List (Option PByte)) : (t.store f o bs).rings = t.rings ∧
    (t.store f o bs).windows = t.windows ∧ (t.store f o bs).portWait = t.portWait ∧ (t.store f o bs).id = t.id := by
  have hread (t : Tile) (f w : Nat) : (t.readWordEcc f w).rings = t.rings ∧ (t.readWordEcc f w).windows = t.windows ∧
      (t.readWordEcc f w).portWait = t.portWait ∧ (t.readWordEcc f w).id = t.id := by
    unfold Tile.readWordEcc
    dsimp only
    repeat' split
    all_goals exact ⟨rfl, rfl, rfl, rfl⟩
  unfold Tile.store
  dsimp only
  split
  · exact ⟨rfl, rfl, rfl, rfl⟩
  · refine foldl_keeps (fun u : Tile => u.rings = t.rings ∧ u.windows = t.windows ∧ u.portWait = t.portWait ∧ u.id = t.id) _
      (fun u w hu => ?_) _ _ ⟨rfl, rfl, rfl, rfl⟩
    obtain ⟨h1, h2, h3, h4⟩ := hu
    split
    · exact ⟨h1, h2, h3, h4⟩
    · split
      · obtain ⟨e1, e2, e3, e4⟩ := hread u f w
        exact ⟨e1.trans h1, e2.trans h2, e3.trans h3, e4.trans h4⟩
      · exact ⟨h1, h2, h3, h4⟩

/-- The message stands in the slot at TAIL, and TAIL has advanced. -/
def State.filled (s : State) (h : Ring) (bs : List Byte) (pm : BitVec 32) : State :=
  let t := s.tile.store s.fresh ((s.tile.ring h).slotAt (s.tile.ring h).tail.toNat) ((pmBytes bs pm).map some)
  { s with tile := t.setRing h ((t.ring h).push 1), fresh := s.fresh + 1 }

section
variable {s : State} {p : Packet} {h : Ring} {bs : List Byte} {pm : BitVec 32}

theorem State.filled_frame : (s.filled h bs pm).tile.rings = vput s.tile.rings h ((s.tile.rings[h]).push 1) ∧
    (s.filled h bs pm).tile.windows = s.tile.windows ∧ (s.filled h bs pm).tile.portWait = s.tile.portWait ∧
    (s.filled h bs pm).tile.id = s.tile.id := by
  obtain ⟨e1, e2, e3, e4⟩ := s.tile.store_frame s.fresh ((s.tile.ring h).slotAt (s.tile.ring h).tail.toNat) ((pmBytes bs pm).map some)
  exact ⟨congrArg (fun rs : Vector RingState 8 => vput rs h ((rs[h]).push 1)) e1, e2, e3, e4⟩

theorem State.acceptRing_room (h0 : (s.tile.rings[h]).nslot ≠ 0) (hf : (s.tile.rings[h]).free ≠ 0) (hl : s.tile.leaseDir = []) :
    s.acceptRing p h bs pm = .done ((s.filled h bs pm).reply p (.ack false)) none := by
  simp only [State.acceptRing, Tile.ring, beq_eq_false_iff_ne.2 h0, beq_eq_false_iff_ne.2 hf, Bool.false_eq_true, if_false,
    Tile.leasedOut_none hl, State.acked, State.filled]

theorem State.acceptRing_full (h0 : (s.tile.rings[h]).nslot ≠ 0) (hf : (s.tile.rings[h]).free = 0) :
    s.acceptRing p h bs pm = .wait s := by
  simp only [State.acceptRing, Tile.ring, beq_eq_false_iff_ne.2 h0, hf, Bool.false_eq_true, if_false, beq_self_eq_true, if_true]

theorem pmBytes_vals (bs : List Byte) (pm : BitVec 32) : (pmBytes bs pm).map (·.1) = bs := by
  apply List.ext_getElem (by simp [pmBytes, upto_eq_range])
  intro j h1 h2
  simp [pmBytes, upto_eq_range, h2]

theorem State.read_filled (hw : s.tile.slice.wf = true) (hf : s.tile.flips = []) (o : Nat) : (s.filled h bs pm).tile.slice.read o =
    if (s.tile.rings[h]).slotAt (s.tile.rings[h]).tail.toNat ≤ o ∧ o < (s.tile.rings[h]).slotAt (s.tile.rings[h]).tail.toNat + bs.length
    then (bs[o - (s.tile.rings[h]).slotAt (s.tile.rings[h]).tail.toNat]?).getD 0 else s.tile.slice.read o := by
  have hslice : (s.filled h bs pm).tile.slice =
      s.tile.slice.writeMany ((s.tile.rings[h]).slotAt (s.tile.rings[h]).tail.toNat) ((pmBytes bs pm).map fun b => some b.1) :=
    Tile.store_slice hf ..
  have hlen : (pmBytes bs pm).length = bs.length := by simp [pmBytes, upto_eq_range]
  rw [hslice, Memory.read_writeBytes hw, hlen, ← List.getElem?_map, pmBytes_vals]

end

end Sys2Proof.Machine
end

section
/-! SUPPORT. The delivery of messages, event by event (04 R104, 07 R160). -/

namespace Sys2Proof.Machine

/-- Nothing of a stream's window or of the ports is in the fabric. -/
theorem State.without_waits {s : State} {p : Packet} (h : s.arrives p) : Expects (s.without p).tile.windows p ∧
    ((s.without p).tile.portWait = [] ∧ (s.without p).tile.heldWrites = []) := by
  have hx : Expects s.tile.windows p := State.arrives_expects h
  have hidle := State.arrives_idle h
  exact ⟨hx, hidle⟩

theorem State.replyHere_congr {s u : State} (hg : u.routeGen = s.routeGen) (hh : u.tile.hnd = s.tile.hnd) (p : Packet) (b : Body) :
    u.replyHere p b = s.replyHere p b := by rw [State.replyHere, State.replyHere, hg, hh]

section
variable {s : State} {p : Packet} {kind : MsgKind} {b : Fin 16} {h : Ring} {k : CoreSel} {hd : W32} {rel : Option Scope} {bs : List Byte}
  {pm : BitVec 32} (hp : p.body = .msg kind b h k hd rel bs pm) (h3 : 3 ≤ p.vc.val) (h6 : p.vc.val ≤ 6)
include hp

theorem body_ne_close : p.body ≠ .close := by rw [hp]; exact fun e => nomatch e

theorem body_not_atomic : isAtomicBody p.body = false := by rw [hp]; rfl

/-! ### The events -/

theorem execMessageDelivery_eq (hk : kind ≠ .tileToRing) : execMessageDelivery p s = s.packetEvent p true := by
  cases kind with
  | tileToRing => exact absurd rfl hk
  | _ => simp only [execMessageDelivery, hp]

theorem execRingMessageDelivery_eq (hk : kind = .tileToRing) : execRingMessageDelivery p s = s.packetEvent p true := by
  subst hk; simp only [execRingMessageDelivery, hp]

omit hp in
include h3 h6 in
theorem execSeqWindowArrival_eq : execSeqWindowArrival p s = s.packetEvent p true := by
  simp [execSeqWindowArrival, h3, h6]

omit hp in
include h3 h6 in
theorem vc_message : (p.vc.val ≠ 0 ∧ p.vc.val ≠ 2 ∧ p.vc.val ≠ 7) ∧ p.vc ≠ 1 := by
  refine ⟨by omega, fun e => ?_⟩
  rw [e] at h3
  exact absurd h3 (by decide)

/-! ### A berth with room (R104) -/

/-- The machine after a message has come into its berth and is acknowledged. -/
def State.delivered (s : State) (p : Packet) (k : CoreSel) (b : Fin 16) (bs : List Byte) (pm : BitVec 32) : State :=
  (((s.without p).received p k b bs pm).notice (s.replyHere p (.ack false))).counted p none

include h3 h6

section
variable (ha : s.arrives p)
include ha

section
variable (hk : kind ≠ .tileToRing) (hval : ((s.ownCore k).berths[b]).valid = true)
  (hvc : ((s.ownCore k).berths[b]).vc.toNat + 3 = p.vc.val)
include hk hval hvc

theorem packetEvent_berth_room (hroom : ((s.ownCore k).berths[b]).inbox.length < ((s.ownCore k).berths[b]).quota.toNat) :
    s.packetEvent p true = .next (s.delivered p k b bs pm) := by
  obtain ⟨x, y, hid, hd, htaken⟩ := State.arrives_place ha
  obtain ⟨htile, -, hsel, hgen⟩ := State.received_frame (s := s.without p) (p := p) (k := k) (b := b) (bs := bs) (pm := pm)
  have hreply : ((s.without p).received p k b bs pm).reply p (.ack false) =
      ((s.without p).received p k b bs pm).notice (s.replyHere p (.ack false)) := by
    rw [State.reply_here (htile ▸ hid) hd htaken, State.replyHere_congr (s := s) (hgen.trans rfl) ((congrArg Tile.hnd htile).trans rfl)]
  have hdone : (s.without p).performTile p false = .done (((s.without p).received p k b bs pm).notice (s.replyHere p (.ack false))) none := by
    rw [(performTile_msg hp hk false).1, State.acceptMsg_room (s := s.without p) hval hvc hroom, hreply]
  refine State.packetEvent_arrives ha (vc_message h3 h6).1 (State.arriveTile_done (s := s.without p) (State.without_waits ha).1
    (State.without_waits ha).2 hdone ?_ (body_ne_close hp)) ?_ ?_
  · exact (congrArg Tile.windows htile).trans rfl
  · exact (congrArg Tile.id htile).trans rfl
  · exact hsel

theorem packetEvent_berth_full (hfull : ((s.ownCore k).berths[b]).quota.toNat ≤ ((s.ownCore k).berths[b]).inbox.length) :
    s.packetEvent p true = .next { s.without p with tile := { s.tile with portWait := [p] } } := by
  have hwait : (s.without p).performTile p false = .wait (s.without p) := by
    rw [(performTile_msg hp hk false).1, State.acceptMsg_full (s := s.without p) hval hvc hfull]
  refine State.packetEvent_arrives ha (vc_message h3 h6).1 ?_ rfl rfl
  rw [State.arriveTile_wait (s := s.without p) (State.without_waits ha).1 (State.without_waits ha).2 hwait,
    State.putWait_port (vc_message h3 h6).2]
  simp only [State.without, (State.arrives_idle ha).1, List.nil_append]

end

/-! ### A ring (R160) -/

section
variable (hk : kind = .tileToRing) (h0 : (s.tile.rings[h]).nslot ≠ 0)
include hk h0

theorem packetEvent_ring_room (hf : (s.tile.rings[h]).free ≠ 0) (hl : s.tile.leaseDir = []) (hflip : s.tile.flips = []) :
    s.packetEvent p true = .next ((((s.without p).filled h bs pm).notice (s.replyHere p (.ack false))).counted p none) := by
  subst hk
  obtain ⟨x, y, hid, hd, htaken⟩ := State.arrives_place ha
  obtain ⟨-, hwin, -, htid⟩ := State.filled_frame (s := s.without p) (h := h) (bs := bs) (pm := pm)
  have hhnd : ((s.without p).filled h bs pm).tile.hnd = s.tile.hnd := by
    simp [State.filled, Tile.setRing, Tile.store, State.without, hflip]
  have hreply : ((s.without p).filled h bs pm).reply p (.ack false) =
      ((s.without p).filled h bs pm).notice (s.replyHere p (.ack false)) := by
    rw [State.reply_here (htid.trans hid) hd htaken, State.replyHere_congr (s := s) (u := (s.without p).filled h bs pm) rfl hhnd]
  have hdone : (s.without p).performTile p false = .done (((s.without p).filled h bs pm).notice (s.replyHere p (.ack false))) none := by
    rw [(performTile_ringMsg hp false).1, State.acceptRing_room (s := s.without p) h0 hf hl, hreply]
  exact State.packetEvent_arrives ha (vc_message h3 h6).1 (State.arriveTile_done (s := s.without p) (State.without_waits ha).1
    (State.without_waits ha).2 hdone hwin (body_ne_close hp)) htid rfl

theorem packetEvent_ring_full (hf : (s.tile.rings[h]).free = 0) :
    s.packetEvent p true = .next { s.without p with tile := { s.tile with portWait := [p] } } := by
  subst hk
  have hwait : (s.without p).performTile p false = .wait (s.without p) := by
    rw [(performTile_ringMsg hp false).1, State.acceptRing_full (s := s.without p) h0 hf]
  refine State.packetEvent_arrives ha (vc_message h3 h6).1 ?_ rfl rfl
  rw [State.arriveTile_wait (s := s.without p) (State.without_waits ha).1 (State.without_waits ha).2 hwait,
    State.putWait_port (vc_message h3 h6).2]
  simp only [State.without, (State.arrives_idle ha).1, List.nil_append]

end
end
omit h3 h6

/-! ### After a wait -/

section
variable {t : State} (hx : Expects t.tile.windows p) (hport : t.tile.portWait = [p])
include hx hport

/-- A packet that is performed after its wait leaves the port. -/
theorem tryWaiting_leaves {u : State} (hu : t.performTile p false = .done (u.reply p (.ack false)) none) (hw : u.tile.windows = t.tile.windows)
    (hq : u.tile.portWait = t.tile.portWait) : ∃ v, tryWaiting [(p, false)] t = v ∧ v.tile.portWait = [] ∧ v.tile.rings = u.tile.rings ∧
      v.core = u.core ∧ v.peer = u.peer ∧ v.sel = u.sel := by
  obtain ⟨net, hnet⟩ := u.reply_eq p (.ack false)
  rw [hnet] at hu
  refine ⟨_, tryWaiting_done hx hu hw (body_ne_close hp), ?_, rfl, rfl, rfl, rfl⟩
  simp [State.counted, Tile.unwait, hq, hport]

theorem inboxAppendAfterWait_room (hk : kind ≠ .tileToRing) (hval : ((t.ownCore k).berths[b]).valid = true)
    (hvc : ((t.ownCore k).berths[b]).vc.toNat + 3 = p.vc.val)
    (hroom : ((t.ownCore k).berths[b]).inbox.length < ((t.ownCore k).berths[b]).quota.toNat) :
    ∃ u, execInboxAppendAfterWait t = .next u ∧ u.tile.portWait = [] ∧
      ((u.ownCore k).berths[b]).inbox.length = ((t.ownCore k).berths[b]).inbox.length + 1 := by
  obtain ⟨hperf, hring⟩ := performTile_msg (s := t) hp hk false
  obtain ⟨htile, -⟩ := State.received_frame (s := t) (p := p) (k := k) (b := b) (bs := bs) (pm := pm)
  obtain ⟨v, hv, hempty, -, hcore, hpeer, hsel⟩ := tryWaiting_leaves hp hx hport
    (hperf.trans (State.acceptMsg_room hval hvc hroom)) (by rw [htile]) (by rw [htile])
  have hown : v.ownCore k = (t.received p k b bs pm).ownCore k := by simp only [State.ownCore, hcore, hpeer, hsel]
  refine ⟨v, ?_, hempty, ?_⟩
  · rw [execInboxAppendAfterWait, ← hring, State.portFronts_single hport, hv]
  · rw [hown, State.ownCore_received, Core.inbox_inboxAdd, List.length_append, List.length_singleton]

theorem ringMessageAfterWait_room (hk : kind = .tileToRing) (h0 : (t.tile.rings[h]).nslot ≠ 0) (hf : (t.tile.rings[h]).free ≠ 0)
    (hl : t.tile.leaseDir = []) :
    ∃ u, execRingMessageAfterWait t = .next u ∧ u.tile.portWait = [] ∧ u.tile.rings[h] = (t.tile.rings[h]).push 1 := by
  subst hk
  obtain ⟨hperf, hring⟩ := performTile_ringMsg (s := t) hp false
  obtain ⟨hrings, hwin, hpw, -⟩ := State.filled_frame (s := t) (h := h) (bs := bs) (pm := pm)
  obtain ⟨v, hv, hempty, hvr, -⟩ := tryWaiting_leaves hp hx hport (hperf.trans (State.acceptRing_room h0 hf hl)) hwin hpw
  refine ⟨v, ?_, hempty, ?_⟩
  · rw [execRingMessageAfterWait, ← hring, State.portFronts_single hport, hv]
  · rw [hvr, hrings, vput_same]

theorem ringMessageAfterWait_full (hk : kind = .tileToRing) (h0 : (t.tile.rings[h]).nslot ≠ 0) (hf : (t.tile.rings[h]).free = 0)
    (hh : t.tile.heldWrites = []) : execRingMessageAfterWait t = .next t := by
  subst hk
  obtain ⟨hperf, hring⟩ := performTile_ringMsg (s := t) hp false
  rw [execRingMessageAfterWait, ← hring, State.portFronts_single hport,
    tryWaiting_wait hx (hperf.trans (State.acceptRing_full h0 hf)) hh]

end

end

end Sys2Proof.Machine

namespace Sys2Proof
open Machine

/-- Settles O19: the packet comes to the window that expects it, and is performed there or waits. -/
theorem messagesAreDelivered : Obligations.MessagesAreDelivered := by
  intro s p kind b h k hd rel bs pm ha hp h3 h6 berth ring
  have hx := State.arrives_expects ha
  refine ⟨fun hk hval hvc hroom => ?_, fun hk hval hvc hfull => ?_, fun hk hlen h0 hf hl hw hflip => ?_, fun hk h0 hf => ?_⟩
  · obtain ⟨htile, hnet, -⟩ := State.received_frame (s := s.without p) (p := p) (k := k) (b := b) (bs := bs) (pm := pm)
    have hevent := packetEvent_berth_room hp h3 h6 ha hk hval hvc hroom
    refine ⟨_, msgOf p bs pm s.now, (execMessageDelivery_eq hp hk).trans hevent, (execSeqWindowArrival_eq h3 h6).trans hevent, ?_, rfl, rfl,
      rfl, ?_, ?_, ?_⟩
    · have hown : (s.delivered p k b bs pm).ownCore k = ((s.without p).received p k b bs pm).ownCore k := rfl
      rw [hown, State.ownCore_received, Core.inbox_inboxAdd]
      rfl
    · show ((s.without p).received p k b bs pm).net ++ _ = _
      rw [hnet]; rfl
    · show seqOf (modWindow ((s.without p).received p k b bs pm).tile.windows p _) p = _
      rw [htile]
      exact (seqOf_modWindow_advance hx none).2.2
    · show ((s.without p).received p k b bs pm).tile.slice = _
      rw [htile]; rfl
  · refine ⟨_, (execMessageDelivery_eq hp hk).trans (packetEvent_berth_full hp h3 h6 ha hk hval hvc hfull), rfl, rfl,
      fun t' hport hwin _ _ hk hval' hvc' hroom => ?_⟩
    have hx' : Expects t'.tile.windows p := hwin ▸ hx
    exact inboxAppendAfterWait_room hp hx' hport hk hval' (hvc' ▸ hvc) hroom
  · obtain ⟨hrings, -⟩ := State.filled_frame (s := s.without p) (h := h) (bs := bs) (pm := pm)
    refine ⟨_, (execRingMessageDelivery_eq hp hk).trans (packetEvent_ring_room hp h3 h6 ha hk h0 hf hl hflip), ?_, rfl, fun o => ?_⟩
    · show ((s.without p).filled h bs pm).tile.rings[h] = _
      rw [hrings, vput_same]; rfl
    · exact hlen ▸ State.read_filled (s := s.without p) hw hflip o
  · refine ⟨_, (execRingMessageDelivery_eq hp hk).trans (packetEvent_ring_full hp h3 h6 ha hk h0 hf), rfl, rfl, ?_,
      fun t' hport hwin h0' hf' hl => ?_⟩
    · exact ringMessageAfterWait_full hp hx rfl hk h0 hf (State.arrives_idle ha).2
    · have hx' : Expects t'.tile.windows p := hwin ▸ hx
      exact ringMessageAfterWait_room hp hx' hport hk h0' hf' hl

end Sys2Proof
end

section
/-! SUPPORT. Two iterations of an MMA from a ring of 65 slots (12 R288, R298). -/

namespace Sys2Proof.Machine

/-! ### Retirement -/

theorem State.marked_eq (s : State) (b : Bool) {t : Tile} {w : Word} (h : t = { s.tile with cki := w }) :
    ∃ cki, (if b then { s with tile := t } else s) = { s with tile := { s.tile with cki := cki } } := by
  subst h
  cases b
  · exact ⟨s.tile.cki, rfl⟩
  · exact ⟨w, rfl⟩

/-- CKI alone records what an operation met (14 R344, R357). -/
theorem State.met_eq (s : State) (poi copied shd : Bool) : ∃ cki,
    (let t := (if poi then { s with tile := s.tile.poi } else s).copied copied
     if shd then { t with tile := t.tile.shd } else t) = { s with tile := { s.tile with cki := cki } } := by
  obtain ⟨x, hx⟩ := s.marked_eq poi (t := s.tile.poi) rfl
  obtain ⟨y, hy⟩ := State.copied_eq { s with tile := { s.tile with cki := x } } copied
  obtain ⟨z, hz⟩ := State.marked_eq { s with tile := { s.tile with cki := y } } shd (t := Tile.shd { s.tile with cki := y }) rfl
  refine ⟨z, ?_⟩
  rw [hx, hy]
  exact hz

/-- What a retirement records: row registers, state registers, queues and CKI. -/
structure Recorded where
  rf : RowFile
  sr : Srs
  q : Queues
  cki : Word

def State.recorded (s : State) (r : Recorded) : State :=
  { s with core := { s.core with rf := r.rf, sr := r.sr, q := r.q }, tile := { s.tile with cki := r.cki } }

/-- The first operation leaves the unit, with its slots and its entry. -/
def State.unitLeft (s : State) (u : UnitOp) : State :=
  let t := popSlots s u (s.core.unit.ops.drop 1)
  State.reheld { t with core := endEntry t.core u }

theorem commitUnit_eq (s : State) (u : UnitOp) {o : UnitOut} (shd : Bool) (hv : o.val = none) :
    ∃ r, commitUnit s u o shd = (s.recorded r).unitLeft u := by
  let ev : Events := { u.before.join o.ev with frc := u.forced, shd := shd || u.before.shd }
  let c : Core := { s.core with rf := if u.forced then forceAccs o.rf (accWrites u) (rowWrites u) else o.rf }
  let d := (c.flag o.fl).countOp (accNamed u) (s.core.opc u) ev
  obtain ⟨cki, hcki⟩ := State.met_eq { s with core := d } (o.eats || u.before.poi) (o.copies || u.forced) ev.shd
  refine ⟨⟨d.rf, d.sr, d.q, cki⟩, ?_⟩
  simp only [commitUnit, hv]
  exact congrArg (fun t : State => State.reheld { popSlots t u (s.core.unit.ops.drop 1) with
    core := endEntry (popSlots t u (s.core.unit.ops.drop 1)).core u }) hcki

/-- HELD alone is computed anew. -/
theorem State.reheld_ring (s : State) (h : Ring) : ∃ held, s.reheld.tile.rings[h] = { s.tile.rings[h] with held := held } := by
  unfold State.reheld
  split
  · exact ⟨_, Vector.getElem_ofFn h.isLt⟩
  · exact ⟨_, rfl⟩

theorem State.unitLeft_ring {s : State} {u : UnitOp} {d : AccR} {a b : Ring} {m : MatX} (hop : u.op = .mmaAcc d a b m) (hna : u.na = 1)
    (hnb : u.nb = 1) (hab : a ≠ b) : ∃ held, (s.unitLeft u).tile.rings[a] = { (s.tile.rings[a]).pop 1 with held := held } := by
  obtain ⟨held, hheld⟩ := State.reheld_ring
    { popSlots s u (s.core.unit.ops.drop 1) with core := endEntry (popSlots s u (s.core.unit.ops.drop 1)).core u } a
  refine ⟨held, hheld.trans ?_⟩
  have hring : (popSlots s u (s.core.unit.ops.drop 1)).tile.rings[a] = (s.tile.rings[a]).pop 1 := by
    simp only [popSlots, unitRings, hop, hna, hnb]
    exact (vput_other _ _ _ _ hab).trans (vput_same _ _ _)
  exact congrArg (fun r : RingState => { r with held := held }) hring

/-- An MMA under way retires. -/
theorem execUnitOperationRetire_mma {s : State} {u : UnitOp} {rest : List UnitOp} {d : AccR} {a b : Ring} {m : MatX}
    (hops : s.core.unit.ops = u :: rest) (hop : u.op = .mmaAcc d a b m) (hstart : u.started = true) (hstuck : u.stuck = false)
    (hinj : s.core.injMat = false) (hframes : s.core.frames = []) (hlock : s.tile.modes.lockstep = false) :
    ∃ r, exec .unitOperationRetire s = .next ((s.recorded r).unitLeft u) := by
  have hout : unitOut s.core u = mmaOut s.core u d.val false := by simp only [unitOut, hop]
  obtain ⟨r, hr⟩ := commitUnit_eq s u (o := unitOut s.core u) false (by rw [hout]; rfl)
  refine ⟨r, ?_⟩
  rw [← hr]
  show execUnitOperationRetire s = _
  have hn : (unitOut s.core u).nvf = none := by rw [hout]; rfl
  have hregion : s.core.inRegion = false := by simp [Core.inRegion, hframes]
  simp [execUnitOperationRetire, hops, hop, hstart, hstuck, isMmq, kmmaOf, endUnit, hn, hinj, hregion, retireUnit, State.compared, hlock]

/-! ### The counterexample -/

/-- A ring of 65 slots, one more than RCFG configures (R291), with HEAD at slot 63, the last that its six bits can name. -/
def wideRing : RingState := { nslot := 65, head := 63, fill := 2 }

/-- A compute core with nothing in flight and i8 as both formats, beside that ring and one of 64 slots. -/
def wideState : State :=
  { sel := .comp, core := { sr := { fmta := 3, fmtb := 3 } },
    tile := { rings := vput (vput (Vector.replicate 8 {}) 0 wideRing) 1 { nslot := 64, fill := 2 } } }

/-- MMA.acc on the two rings, twice. -/
def wideMma : Instr := .mmaAcc 0 0 1 { rep := .imm 2 }

/-- The state after an instruction that answers one. -/
def nextOf (i : Instr) (s : State) : State := match exec i s with | .next t => t | _ => s

theorem nextOf_eq {i : Instr} {s t : State} (h : exec i s = .next t) : t = nextOf i s := by simp only [nextOf, h]

/-- Both iterations have issued, and the first executes. -/
def wideIssued : State := nextOf wideMma (nextOf .unitOperationStart (nextOf wideMma wideState))

def wideFirst : UnitOp := wideIssued.core.unit.ops.headD default

/-- The first iteration has retired, and the second executes. -/
def wideHalf (r : Recorded) : State := nextOf .unitOperationStart ((wideIssued.recorded r).unitLeft wideFirst)

def wideSecond (r : Recorded) : UnitOp := (wideHalf r).core.unit.ops.headD default

theorem wideIssued_retires : ∃ r, exec .unitOperationRetire wideIssued = .next ((wideIssued.recorded r).unitLeft wideFirst) :=
  execUnitOperationRetire_mma (u := wideFirst) (rest := wideIssued.core.unit.ops.drop 1) (d := 0) (a := 0) (b := 1) (m := { rep := .imm 2 })
    rfl rfl rfl rfl rfl rfl rfl

theorem wideHalf_retires (r : Recorded) : ∃ r', exec .unitOperationRetire (wideHalf r) = .next (((wideHalf r).recorded r').unitLeft (wideSecond r)) :=
  execUnitOperationRetire_mma (u := wideSecond r) (rest := []) (d := 0) (a := 0) (b := 1) (m := { rep := .imm 2 })
    rfl rfl rfl rfl rfl rfl rfl

theorem wideIssued_head : (wideIssued.tile.rings[(0 : Ring)]).head = 63 ∧ (wideIssued.tile.rings[(0 : Ring)]).nslot = 65 := by decide +kernel

theorem wideHalf_rings (r : Recorded) : (wideHalf r).tile.rings = ((wideIssued.recorded r).unitLeft wideFirst).tile.rings := rfl

/-- HEAD moves from slot 63 onto slot 64, which its six bits hold as 0. -/
theorem wideHalf_head (r : Recorded) : ((wideHalf r).tile.rings[(0 : Ring)]).head = 0 ∧ ((wideHalf r).tile.rings[(0 : Ring)]).nslot = 65 := by
  obtain ⟨held, hring⟩ := State.unitLeft_ring (s := wideIssued.recorded r) (u := wideFirst) (d := 0) (a := 0) (b := 1) (m := { rep := .imm 2 })
    rfl rfl rfl (by decide)
  have hsame : (wideIssued.recorded r).tile.rings = wideIssued.tile.rings := rfl
  obtain ⟨hhead, hn⟩ := wideIssued_head
  rw [wideHalf_rings, hring, hsame, RingState.pop, hhead, hn]
  exact ⟨rfl, rfl⟩

theorem wideRun_head {v : State}
    (hv : leads wideState [wideMma, .unitOperationStart, wideMma, .unitOperationRetire, .unitOperationStart, .unitOperationRetire] v) :
    (v.tile.rings[(0 : Ring)]).head = 1 := by
  obtain ⟨s1, h1, s2, h2, s3, h3, s4, h4, s5, h5, s6, h6, rfl⟩ := hv
  obtain ⟨r, hr⟩ := wideIssued_retires
  obtain ⟨r', hr'⟩ := wideHalf_retires r
  obtain rfl := nextOf_eq h1
  obtain rfl := nextOf_eq h2
  obtain rfl := nextOf_eq h3
  obtain rfl := Host.Outcome.next.inj (h4.symm.trans hr)
  obtain rfl := nextOf_eq h5
  obtain rfl := Host.Outcome.next.inj (h6.symm.trans hr')
  obtain ⟨held, hring⟩ := State.unitLeft_ring (s := (wideHalf r).recorded r') (u := wideSecond r) (d := 0) (a := 0) (b := 1)
    (m := { rep := .imm 2 }) rfl rfl rfl (by decide)
  have hsame : ((wideHalf r).recorded r').tile.rings = (wideHalf r).tile.rings := rfl
  obtain ⟨hhead, hn⟩ := wideHalf_head r
  rw [hring, hsame, RingState.pop, hhead, hn]
  rfl

theorem wideState_free : wideState.unitFree := by
  refine ⟨rfl, ?_, rfl, rfl, rfl, rfl⟩
  decide

theorem wideState_clean (i j : Fin 16) : ((wideState.core.acc 0).elem i.val j.val).2 = false := by
  show RowVal.bad32 {} j.val = false
  simp [RowVal.bad32]

end Sys2Proof.Machine

namespace Sys2Proof
open Machine

/-- Refutes O37: no clause holds NSLOT to the 64 of R291. In a ring of 65 slots HEAD cannot name slot 64: MMA.acc with a count of 2 and HEAD at 63
pops one slot twice and leaves HEAD at 1, where the statement asks for (63 + 2) mod 65. -/
theorem not_repeatedBundlesIterate : ¬ Obligations.RepeatedBundlesIterate := by
  rintro ⟨-, -, -, -, hmma⟩
  obtain ⟨-, hi8, -⟩ := hmma wideState 0 0 1 (.imm 2) 0 0 wideState_free rfl rfl rfl (by decide)
  obtain ⟨hacc, -⟩ := hi8 rfl rfl
  obtain ⟨-, htwo⟩ := hacc (by decide) (by decide) (by decide) (by decide)
  obtain ⟨v, hv, -, -, -, ⟨hhead, -⟩, -⟩ := htwo rfl wideState_clean
  exact absurd ((wideRun_head hv).symm.trans hhead) (by decide)

end Sys2Proof
end

section
/-! SUPPORT. The canonical form of memories: the parts of the state on which it depends, and what leaves it as it is (log entry 2). -/

namespace Sys2Proof.Machine

/-! ### The parts of the state on which the canonical form depends -/

/-- The canonical form, of the parts of the state on which it depends. -/
def memsCanon (m : Memory) (ts : List FullTile) (cs : Tab Ctx) (ps : Tab Part) (us : List Team) : Prop :=
  m.wf = true ∧ (∀ t ∈ ts, t.tile.slice.wf = true) ∧ (∀ c ∈ cs, c.2.canon) ∧ (∀ p ∈ ps, p.2.net.wf = true) ∧
    ∀ t ∈ us, ∀ u ∈ t.dockTiles, u.tile.slice.wf = true

@[simp] theorem memsCanon_self (s : State) : memsCanon s.tile.slice s.tiles s.ctxs s.parts s.teams ↔ s.canon := Iff.rfl

@[simp] theorem canon_mk (a1 a2 a3 a4 a5 a6 a7 a8 a9 a10 a11 a12 a13 a14 a15 a16 a17 a18 a19 a20 a21 a22 a23 a24 a25 a26 a27 a28 a29 a30
      a31 a32 a33 a34 a35 a36 a37 a38 a39 a40 a41 a42 a43 a44 a45 a46 a47 a48 a49 a50 a51 a52 a53) :
    (State.mk a1 a2 a3 a4 a5 a6 a7 a8 a9 a10 a11 a12 a13 a14 a15 a16 a17 a18 a19 a20 a21 a22 a23 a24 a25 a26 a27 a28 a29 a30
      a31 a32 a33 a34 a35 a36 a37 a38 a39 a40 a41 a42 a43 a44 a45 a46 a47 a48 a49 a50 a51 a52 a53).canon ↔ memsCanon a4.slice a5 a7 a8 a9 :=
  Iff.rfl

@[simp] theorem canon_ite (c : Prop) [Decidable c] (s t : State) : (if c then s else t).canon ↔ if c then s.canon else t.canon := by
  split <;> rfl

/-- A canonical outcome: the next state, where there is one, is canonical. -/
def Canonical (o : Out) : Prop := ∀ t, o = .next t → t.canon

@[simp] theorem canonical_next (s : State) : Canonical (.next s) ↔ s.canon :=
  ⟨fun h => h s rfl, fun h _ e => by cases e; exact h⟩

@[simp] theorem canonical_fault (x : Fault) : Canonical (.fault x) := fun _ e => nomatch e

@[simp] theorem canonical_refused (x : Refusal) : Canonical (.refused x) := fun _ e => nomatch e

@[simp] theorem canonical_ite (c : Prop) [Decidable c] (o p : Out) :
    Canonical (if c then o else p) ↔ if c then Canonical o else Canonical p := by split <;> rfl

theorem canonical_ite_of {c : Prop} [Decidable c] {o p : Out} (ho : Canonical o) (hp : Canonical p) : Canonical (if c then o else p) := by
  split
  · exact ho
  · exact hp

@[simp] theorem canonical_stall (s : State) : Canonical s.stall ↔ s.canon := canonical_next s

/-- What a check answers is canonical: a state in which it holds issue, and what it goes on with, as P says. -/
def Chk.canon {α : Type} (c : Chk α) (P : α → Prop) : Prop :=
  match c with
  | .ok a => P a
  | .trap _ _ => True
  | .wait s => s.canon

theorem memsCanon_slice {m m' : Memory} {ts : List FullTile} {cs : Tab Ctx} {ps : Tab Part} {us : List Team}
    (h : memsCanon m ts cs ps us) (hm : m'.wf = true) : memsCanon m' ts cs ps us := ⟨hm, h.2⟩

theorem memsCanon_tiles {m : Memory} {ts ts' : List FullTile} {cs : Tab Ctx} {ps : Tab Part} {us : List Team}
    (h : memsCanon m ts cs ps us) (ht : ∀ t ∈ ts', t.tile.slice.wf = true) : memsCanon m ts' cs ps us := ⟨h.1, ht, h.2.2⟩

theorem memsCanon_teams {m : Memory} {ts : List FullTile} {cs : Tab Ctx} {ps : Tab Part} {us us' : List Team}
    (h : memsCanon m ts cs ps us) (hu : ∀ t ∈ us', ∀ u ∈ t.dockTiles, u.tile.slice.wf = true) : memsCanon m ts cs ps us' :=
  ⟨h.1, h.2.1, h.2.2.1, h.2.2.2.1, hu⟩

theorem memsCanon_ctxs {m : Memory} {ts : List FullTile} {cs cs' : Tab Ctx} {ps : Tab Part} {us : List Team}
    (h : memsCanon m ts cs ps us) (hc : ∀ c ∈ cs', c.2.canon) : memsCanon m ts cs' ps us := ⟨h.1, h.2.1, hc, h.2.2.2⟩

@[simp] theorem Tile.ite_slice (c : Prop) [Decidable c] (t u : Tile) : (if c then t else u).slice = if c then t.slice else u.slice := by
  split <;> rfl

theorem Tile.wf_ite {c : Prop} [Decidable c] {t u : Tile} (ht : t.slice.wf = true) (hu : u.slice.wf = true) :
    (if c then t else u).slice.wf = true := by
  split
  · exact ht
  · exact hu

theorem State.canon_ite_of {c : Prop} [Decidable c] {s t : State} (hs : s.canon) (ht : t.canon) : (if c then s else t).canon := by
  split
  · exact hs
  · exact ht

/-! ### The tile in focus and the other tiles -/

@[simp] theorem State.tile_wf {s : State} (h : s.canon) : s.tile.slice.wf = true := h.1

theorem State.tiles_wf {s : State} (h : s.canon) {u : FullTile} (hu : u ∈ s.tiles) : u.tile.slice.wf = true := h.2.1 u hu

theorem State.dock_wf {s : State} (h : s.canon) {t : Team} (ht : t ∈ s.teams) {u : FullTile} (hu : u ∈ t.dockTiles) :
    u.tile.slice.wf = true := h.2.2.2.2 t ht u hu

@[simp] theorem memsCanon_ecc {t : Tile} {f o n : Nat} {ts : List FullTile} {cs : Tab Ctx} {ps : Tab Part} {us : List Team}
    (h : memsCanon t.slice ts cs ps us) : memsCanon (t.ecc f o n).slice ts cs ps us := memsCanon_slice h (Tile.wf_ecc t f o n h.1)

@[simp] theorem memsCanon_store {t : Tile} {f o : Nat} {bs : List (Option PByte)} {ts : List FullTile} {cs : Tab Ctx} {ps : Tab Part}
    {us : List Team} (h : memsCanon t.slice ts cs ps us) : memsCanon (t.store f o bs).slice ts cs ps us :=
  memsCanon_slice h (Tile.wf_store t f o bs h.1)

@[simp] theorem State.withFull_canon {s : State} (h : s.canon) (t : FullTile) (k : CoreSel) :
    (s.withFull t k).canon ↔ t.tile.slice.wf = true := ⟨fun e => e.1, fun e => memsCanon_slice h e⟩

theorem State.tileAt_wf {s : State} (h : s.canon) (id : TileId) : (s.tileAt id).tile.slice.wf = true := by
  unfold State.tileAt
  split
  · simp [h]
  · cases e : s.tiles.find? fun t => t.tile.id == id with
    | none => rfl
    | some t => exact h.2.1 t (List.mem_of_find?_eq_some e)

@[simp] theorem State.focusOn_canon {s : State} (h : s.canon) (id : TileId) (k : CoreSel) : (s.focusOn id k).canon := by
  unfold State.focusOn
  split
  · simp [h]
  · refine (State.withFull_canon ?_ _ k).2 (State.tileAt_wf h id)
    refine memsCanon_tiles h fun u hu => ?_
    rcases List.mem_cons.1 hu with rfl | hu
    · simp [h]
    · exact h.2.1 u (List.mem_filter.1 hu).1

@[simp] theorem State.putTile_canon {s : State} (h : s.canon) (t : FullTile) (ht : t.tile.slice.wf = true) : (s.putTile t).canon := by
  unfold State.putTile
  split
  · simp [h, ht]
  · split
    · refine memsCanon_tiles h fun u hu => ?_
      obtain ⟨v, hv, rfl⟩ := List.mem_map.1 hu
      split
      · exact ht
      · exact h.2.1 v hv
    · refine memsCanon_tiles h fun u hu => ?_
      rcases List.mem_append.1 hu with hu | hu
      · exact h.2.1 u hu
      · rw [List.mem_singleton.1 hu]; exact ht

@[simp] theorem State.mapTiles_canon {s : State} (h : s.canon) (p : Tile → Bool) (f : FullTile → FullTile)
    (hf : ∀ u, u.tile.slice.wf = true → (f u).tile.slice.wf = true) : (s.mapTiles p f).canon := by
  have hmap (t : State) (ht : t.canon) : State.canon { t with tiles := t.tiles.map fun u => if p u.tile then f u else u } := by
    refine memsCanon_tiles ht fun u hu => ?_
    obtain ⟨v, hv, rfl⟩ := List.mem_map.1 hu
    split
    · exact hf v (ht.2.1 v hv)
    · exact ht.2.1 v hv
  unfold State.mapTiles
  refine hmap _ ?_
  split
  · exact (State.withFull_canon h _ _).2 (hf _ (by simp [h]))
  · exact h

@[simp] theorem State.modTile_canon {s : State} (h : s.canon) (f : Tile → Tile) : (s.modTile f).canon ↔ (f s.tile).slice.wf = true :=
  ⟨fun e => e.1, fun e => memsCanon_slice h e⟩

/-! ### Contexts, partitions and teams -/

@[simp] theorem State.ctx_canon {s : State} (h : s.canon) (n : Nat) : (s.ctx n).canon := State.canon_ctx h n

@[simp] theorem State.myCtx_canon {s : State} (h : s.canon) : s.myCtx.canon := State.canon_ctx h _

@[simp] theorem State.partOf_wf {s : State} (h : s.canon) (n : Nat) : (s.partOf n).net.wf = true := by
  unfold State.partOf Tab.get
  cases e : s.parts.find n with
  | none => rfl
  | some p => exact h.2.2.2.1 _ (Tab.find_mem e)

@[simp] theorem State.putCtx_canon {s : State} (h : s.canon) (n : Nat) (x : Ctx) (hx : x.canon) : (s.putCtx n x).canon :=
  State.canon_putCtx h n x hx

@[simp] theorem State.putPart_canon {s : State} (h : s.canon) (n : Nat) (p : Part) (hp : p.net.wf = true) : (s.putPart n p).canon :=
  State.canon_putPart h n p hp

@[simp] theorem State.modCtx_canon {s : State} (h : s.canon) (f : Ctx → Ctx) (hf : (f s.myCtx).canon) : (s.modCtx f).canon :=
  State.canon_putCtx h _ _ hf

/-- The canonical form of a context, of its memories. -/
def ctxCanon (e n : Memory) (sh : Tab Shadow) (f : Tab Memory) : Prop :=
  e.wf = true ∧ n.wf = true ∧ (∀ h ∈ sh, h.2.mem.wf = true) ∧ ∀ x ∈ f, x.2.wf = true

@[simp] theorem ctxCanon_self (x : Ctx) : ctxCanon x.edge x.net x.shadows x.fslots ↔ x.canon := Iff.rfl

@[simp] theorem ctx_mk_canon (a1 a2 a3 a4 a5 a6 a7 a8 a9 a10 a11 a12 a13 a14 a15 a16 a17 a18 a19 a20 a21 a22 a23 a24 a25 a26 a27 a28 a29
    a30 a31) :
    (Ctx.mk a1 a2 a3 a4 a5 a6 a7 a8 a9 a10 a11 a12 a13 a14 a15 a16 a17 a18 a19 a20 a21 a22 a23 a24 a25 a26 a27 a28 a29 a30 a31).canon ↔
      ctxCanon a10 a12 a14 a25 := Iff.rfl

@[simp] theorem ctx_ite_canon (c : Prop) [Decidable c] (x y : Ctx) : (if c then x else y).canon ↔ if c then x.canon else y.canon := by
  split <;> rfl

@[simp] theorem State.putTeam_canon {s : State} (h : s.canon) (t : Team) (ht : ∀ u ∈ t.dockTiles, u.tile.slice.wf = true) :
    (s.putTeam t).canon := by
  refine memsCanon_teams h fun v hv => ?_
  obtain ⟨w, hw, rfl⟩ := List.mem_map.1 hv
  split
  · exact ht
  · exact h.2.2.2.2 w hw

end Sys2Proof.Machine
end

section
/-! SUPPORT. The canonical form through the operations of the machine: contexts, tiles, unwinds, kills and traps. -/

namespace Sys2Proof.Machine

@[simp] theorem Tile.poi_slice (t : Tile) : (t.poi).slice = t.slice := rfl

@[simp] theorem Tile.shd_slice (t : Tile) : (t.shd).slice = t.slice := rfl

@[simp] theorem Tile.countShd_slice (t : Tile) : (t.countShd).slice = t.slice := rfl

@[simp] theorem Tile.cor_slice (t : Tile) : (t.cor).slice = t.slice := rfl

@[simp] theorem Tile.drp_slice (t : Tile) : (t.drp).slice = t.slice := rfl

@[simp] theorem State.setS_canon (s : State) (r : SReg) (v : Word) : (s.setS r v).canon ↔ s.canon := Iff.rfl

@[simp] theorem State.modCore_canon (s : State) (f : Core → Core) : (s.modCore f).canon ↔ s.canon := Iff.rfl

@[simp] theorem State.putRegion_canon (s : State) (n : Nat) (r : Region) : (s.putRegion n r).canon ↔ s.canon := Iff.rfl

@[simp] theorem Ctx.charge_canon (x : Ctx) (k : Fin 3) (n : Nat) : (x.charge k n).canon ↔ x.canon := Iff.rfl

@[simp] theorem State.chargeCtx_canon {s : State} (q ctx : Nat) (k : Fin 3) (n : Nat) (h : s.canon) : (s.chargeCtx q ctx k n).canon := by
  simp [State.chargeCtx, h]

@[simp] theorem Tile.addCharge_slice (t : Tile) (k : Fin 3) (n : Nat) : (t.addCharge k n).slice = t.slice := rfl

@[simp] theorem State.chargeTile_canon {s : State} (ctx tag : Nat) (h : W32) (k : Fin 3) (n : Nat) (hs : s.canon) :
    (s.chargeTile ctx tag h k n).canon :=
  State.mapTiles_canon (by simp [hs]) _ _ fun u hu => by simp [hu]

@[simp] theorem State.draw_canon (s : State) (n : Nat) : (s.draw n).canon ↔ s.canon := Iff.rfl

@[simp] theorem State.report_canon (s : State) (reg kind : Nat) (hnd : W32) (site : Word) (count : Nat) (h0 h1 : Word) :
    (s.report reg kind hnd site count h0 h1).canon ↔ s.canon := Iff.rfl

@[simp] theorem State.traceRec_canon (s : State) (kind : Nat) (cause : Nat) : (s.traceRec kind cause).canon ↔ s.canon := by
  simp [State.traceRec]

@[simp] theorem State.retire_canon (s : State) : (s.retire).canon ↔ s.canon := Iff.rfl

@[simp] theorem State.goto_canon (s : State) (pc : Word) : (s.goto pc).canon ↔ s.canon := Iff.rfl

@[simp] theorem State.stall_canonical {s : State} (h : s.canon) : Canonical (s.stall) := by
  simp [State.stall, h]

@[simp] theorem Tile.setRing_slice (t : Tile) (h : Ring) (r : RingState) : (t.setRing h r).slice = t.slice := rfl

@[simp] theorem State.tailAdvance_canon (s : State) (h : Ring) (n : Nat) : (s.tailAdvance h n).canon ↔ s.canon := Iff.rfl

@[simp] theorem reheld_slice (ops : List UnitOp) (t : Tile) : (reheld ops t).slice = t.slice := rfl

@[simp] theorem State.reheld_canon (s : State) : (s.reheld).canon ↔ s.canon := by
  simp [State.reheld]

@[simp] theorem State.withdraw_canon (s : State) : (s.withdraw).canon ↔ s.canon := by
  simp [State.withdraw]

@[simp] theorem Tile.poisonSlot_slice (t : Tile) (o : Nat) : (t.poisonSlot o).slice = t.slice := rfl

@[simp] theorem Tile.taintSlot_slice (t : Tile) (k : Nat × Nat × Nat) : (t.taintSlot k).slice = t.slice := by
  unfold Tile.taintSlot
  split
  · dsimp only; split <;> rfl
  · rfl

theorem foldl_taintSlot_slice (ks : List (Nat × Nat × Nat)) (t : Tile) : (ks.foldl Tile.taintSlot t).slice = t.slice := by
  induction ks generalizing t with
  | nil => rfl
  | cons k ks ih => simp [ih]

@[simp] theorem State.rpshFill_canon {s : State} (h : s.canon) : s.rpshFill.canon := by
  unfold State.rpshFill
  split <;> simp [h]

theorem rpshFillAll_canon (n : Nat) {s : State} (h : s.canon) : (rpshFillAll n s).canon := by
  induction n generalizing s with
  | zero => exact h
  | succ n ih => exact ih (State.rpshFill_canon h)

@[simp] theorem State.unwind_canon {s : State} (u : UCause) (bofs : BitVec 19) (h : s.canon) : (s.unwind u bofs).canon := by
  have hr := rpshFillAll_canon s.core.rpsh.length h
  unfold State.unwind
  generalize rpshFillAll s.core.rpsh.length s = t at hr ⊢
  dsimp only
  split
  · exact hr
  · split <;> simp [foldl_taintSlot_slice, hr]

@[simp] theorem State.consume_canon {s : State} (bad : Bool) (bofs : BitVec 19) (k : State → State) (h : s.canon) (hk : (k s).canon) :
    (s.consume bad bofs k).canon := by
  simp [State.consume, h, hk]

@[simp] theorem State.askPacket_canon (s : State) (dst : Endpoint) (ent : Nat) (b : Body) : (s.askPacket dst ent b).canon ↔ s.canon := Iff.rfl

@[simp] theorem State.forward_canon {s : State} (c : Cause) (va tpc : Word) (dfr : Bool) (h : s.canon) : (s.forward c va tpc dfr).canon := by
  obtain ⟨he, hn, hsh, hf⟩ := State.myCtx_canon h
  simp only [State.forward, canon_mk, memsCanon_self, State.askPacket_canon]
  refine State.modCtx_canon h _ ⟨he, hn, hsh, fun x hx => ?_⟩
  rcases Tab.mem_put hx with e | e
  · rw [e]; exact wf_writeWords _ _ _ rfl
  · exact hf _ e

@[simp] theorem State.complete_canon {s : State} (part id : Nat) (reqid : BitVec 64) (status : Nat) (words : List Word) (h : s.canon) :
    (s.complete part id reqid status words).canon := by
  simp [State.complete, h]

@[simp] theorem State.flushQueues_canon {s : State} (ctx status : Nat) (words : List Word) (h : s.canon) :
    (s.flushQueues ctx status words).canon := by
  refine foldl_keeps State.canon _ (fun t r ht => ?_) _ _ h
  have hq := foldl_keeps State.canon (fun (s : State) (q : Queued) => s.complete q.part q.id q.reqid status words)
    (fun t q ht => State.complete_canon _ _ _ _ _ ht) (r.2.queue.filter fun q => q.pkt.ctx == ctx) t ht
  simp [hq]

@[simp] theorem State.releaseTiles_canon {s : State} (ctx tag : Nat) (h : s.canon) : (s.releaseTiles ctx tag).canon := by
  simp [State.releaseTiles, h]

@[simp] theorem State.forgetTeam_canon (s : State) (ctx tag : Nat) : (s.forgetTeam ctx tag).canon ↔ s.canon := Iff.rfl

@[simp] theorem State.removeTeam_canon {s : State} (t : Team) (h : s.canon) : (s.removeTeam t).canon := by
  have hf : ((s.releaseTiles t.ctx t.tag).forgetTeam t.ctx t.tag).canon := by simp [h]
  exact memsCanon_teams hf fun u hu => hf.2.2.2.2 u (List.mem_filter.1 hu).1

@[simp] theorem State.finishTeam_canon {s : State} (t : Team) (status : Nat) (words : List Word) (h : s.canon) :
    (s.finishTeam t status words).canon := by
  simp [State.finishTeam, h]

@[simp] theorem State.journalCtx_canon {s : State} (quay ctx flags : Nat) (h : s.canon) : (s.journalCtx quay ctx flags).canon := by
  simp [State.journalCtx, h]

@[simp] theorem State.dropGroups_canon {s : State} (t : Team) (h : s.canon) : (s.dropGroups t).canon := by
  simp [State.dropGroups, h]

@[simp] theorem State.sendStops_canon (s : State) (quay : Nat) (cs : List (TileId × CoreSel)) : (s.sendStops quay cs).canon ↔ s.canon := Iff.rfl

@[simp] theorem Ctx.dropShadow_canon {x : Ctx} (k : Nat) (h : x.canon) : (x.dropShadow k).canon :=
  ⟨h.1, h.2.1, fun y hy => h.2.2.1 y (List.mem_filter.1 hy).1, h.2.2.2⟩

@[simp] theorem State.settleStorage_canon (s : State) (launch : Nat) (copies : List Nat) (commit : Option Nat) :
    (s.settleStorage launch copies commit).canon ↔ s.canon := Iff.rfl

@[simp] theorem State.finishKilled_canon {s : State} (t : Team) (h : s.canon) : (s.finishKilled t).canon := by
  unfold State.finishKilled
  dsimp only
  split
  all_goals
    apply_rules [State.removeTeam_canon, State.finishTeam_canon, State.journalCtx_canon, State.dropGroups_canon, State.putCtx_canon]
  all_goals simp [h]

@[simp] theorem State.killTeam_canon {s : State} (rep : List Word) (t : Team) (h : s.canon)
    (ht : ∀ u ∈ t.dockTiles, u.tile.slice.wf = true) : (s.killTeam rep t).canon := by
  have hp : (s.putTeam { t with rep := rep, phase := .stopping }).canon := State.putTeam_canon h _ ht
  unfold State.killTeam
  dsimp only
  split
  · simp [h]
  · split
    · exact hp
    · simpa using hp

@[simp] theorem State.settleKill_canon {s : State} (ctx : Nat) (h : s.canon) : (s.settleKill ctx).canon := by
  simp [State.settleKill, h]

theorem foldl_mem_keeps {α β : Type} (P : α → Prop) (f : α → β → α) :
    ∀ (l : List β) (a : α), (∀ a, ∀ b ∈ l, P a → P (f a b)) → P a → P (l.foldl f a)
  | [], _, _, h => h
  | b :: l, a, hf, h =>
    foldl_mem_keeps P f l (f a b) (fun a c hc => hf a c (List.mem_cons_of_mem _ hc)) (hf a b (List.mem_cons_self ..) h)

theorem State.killTeams_canon {s : State} (rep : List Word) (p : Team → Bool) (h : s.canon) :
    ((s.teams.filter p).foldl (fun s t => s.killTeam rep t) s).canon :=
  foldl_mem_keeps State.canon _ _ _ (fun _ t ht ha => State.killTeam_canon rep t ha fun _ hu => State.dock_wf h (List.mem_filter.1 ht).1 hu) h

@[simp] theorem State.killContext_canon {s : State} (mine : Bool) (ctx reason : Nat) (c : Cause) (tpc va : Word) (h : s.canon) :
    (s.killContext mine ctx reason c tpc va).canon := by
  have h1 : (if mine then s.modCore Core.killed else s).canon := by simp [h]
  unfold State.killContext
  dsimp only
  split
  · exact h1
  · refine State.settleKill_canon _ (State.killTeams_canon _ _ (State.flushQueues_canon _ _ _ (State.putCtx_canon h1 _ _ ?_)))
    simp [h]

@[simp] theorem State.enterTrap_canon {s : State} (c : Cause) (va tpc : Word) (dfr : Bool) (h : s.canon) : (s.enterTrap c va tpc dfr).canon := by
  simp [State.enterTrap, h]

@[simp] theorem State.takeTrap_canon {s : State} (c : Cause) (va tpc : Word) (dfr : Bool) (h : s.canon) : (s.takeTrap c va tpc dfr).canon := by
  simp [State.takeTrap, h]

@[simp] theorem State.fault_canon {s : State} (c : Cause) (va tpc : Word) (dfr : Bool) (bofs : BitVec 19) (h : s.canon) :
    (s.fault c va tpc dfr bofs).canon := by
  simp [State.fault, h]

@[simp] theorem State.trapB_canonical {s : State} (c : Cause) (va : Word) (h : s.canon) : Canonical (s.trapB c va) := by
  simp [State.trapB, h]

end Sys2Proof.Machine
end

section
/-! SUPPORT. The canonical form through checks, operands, packets, accesses, loads and stores, capabilities. -/

namespace Sys2Proof.Machine

@[simp] theorem Chk.ok_canon {α : Type} (a : α) (P : α → Prop) : (Chk.ok a).canon P ↔ P a := Iff.rfl

@[simp] theorem Chk.trap_canon {α : Type} (e : Cause) (va : Word) (P : α → Prop) : (Chk.trap e va : Chk α).canon P := trivial

@[simp] theorem Chk.wait_canon {α : Type} (t : State) (P : α → Prop) : (Chk.wait t : Chk α).canon P ↔ t.canon := Iff.rfl

@[simp] theorem Chk.ite_canon {α : Type} (p : Prop) [Decidable p] (c d : Chk α) (P : α → Prop) :
    (if p then c else d).canon P ↔ if p then c.canon P else d.canon P := by split <;> rfl

theorem Chk.run_canonical {α : Type} {c : Chk α} {P : α → Prop} {s : State} {k : α → Out} (hc : c.canon P) (h : s.canon)
    (hk : ∀ a, P a → Canonical (k a)) : Canonical (c.run s k) := by
  cases c with
  | ok a => exact hk a hc
  | trap e va => exact State.trapB_canonical e va h
  | wait t => exact (canonical_next t).2 hc

/-- Where a check says nothing of a state, only what follows it matters. -/
@[simp] theorem Chk.run_canonical_iff {α : Type} {c : Chk α} {s : State} {k : α → Out} (hc : c.canon fun _ => True) (h : s.canon) :
    Canonical (c.run s k) ↔ ∀ a, c = .ok a → Canonical (k a) := by
  cases c with
  | ok a => simp
  | trap e va => simp [State.trapB_canonical e va h]
  | wait t => simpa using hc

theorem Chk.bind_canon {α β : Type} {c : Chk α} {k : α → Chk β} {P : α → Prop} {Q : β → Prop} (hc : c.canon P)
    (hk : ∀ a, P a → (k a).canon Q) : (c.bind k).canon Q := by
  cases c with
  | ok a => exact hk a hc
  | trap e va => trivial
  | wait t => exact hc

@[simp] theorem Chk.bind_canon_iff {α β : Type} {c : Chk α} {k : α → Chk β} {Q : β → Prop} (hc : c.canon fun _ => True) :
    (c.bind k).canon Q ↔ ∀ a, c = .ok a → (k a).canon Q := by
  cases c with
  | ok a => simp
  | trap e va => simp
  | wait t => simpa using hc

@[simp] theorem State.when_canonical {s : State} (h : s.canon) (b : Bool) (k : Out) : Canonical (s.when b k) ↔ (b = true → Canonical k) := by
  unfold State.when
  split <;> simp_all

@[simp] theorem State.alu_canonical {s : State} (d : SReg) (reads : List SReg) (v : Word) (h : s.canon) : Canonical (s.alu d reads v) := by
  simp [State.alu, h]

@[simp] theorem eaChk_canon (x : Word) (disp : Int) : (eaChk x disp).canon fun _ => True := by
  unfold eaChk
  split <;> trivial

@[simp] theorem Tile.touchPage_slice (t : Tile) (g : Page) : (t.touchPage g).slice = t.slice := rfl

@[simp] theorem State.askPage_canon (s : State) (va : Word) (write : Bool) : (s.askPage va write).canon ↔ s.canon := by
  simp [State.askPage]

theorem translate_canon (p : Word) (net write : Bool) (l : List (Nat × Nat)) {s : State} (h : s.canon) :
    (translate p net write l s).canon fun x => x.2.canon := by
  induction l generalizing s with
  | nil => exact h
  | cons c l ih =>
    unfold translate
    split
    · simp [h]
    · rename_i g _
      have ht := ih (s := { s with tile := s.tile.touchPage g }) (by simp [h])
      generalize translate p net write l { s with tile := s.tile.touchPage g } = r at ht ⊢
      cases r <;> simp_all

theorem State.resolve_canon {s : State} (h : s.canon) (p : Word) (n : Nat) (write : Bool) : (s.resolve p n write).canon fun x => x.2.canon := by
  have ht := translate_canon p (ptrSpace p == 4) write (chunks (ptrOfs p) n) h
  unfold State.resolve
  dsimp only
  repeat' split
  any_goals simp only [Chk.ok_canon, Chk.trap_canon, h]
  exact Chk.bind_canon ht fun x hx => hx

@[simp] theorem State.codeChk_canon (s : State) (xs : List RowSel) (P : Unit → Prop) (hP : P ()) : (s.codeChk xs).canon P := by
  simp [State.codeChk, hP]

@[simp] theorem State.rowChk_canon (s : State) (xs : List RowSel) (P : Unit → Prop) (hP : P ()) : (s.rowChk xs).canon P := by
  simp [State.rowChk, hP]

@[simp] theorem State.withEntry_canonical {s : State} (h : s.canon) (k : Fin 8 → Out) :
    Canonical (s.withEntry k) ↔ ∀ n, s.core.freeEntry = some n → Canonical (k n) := by
  unfold State.withEntry
  split
  · simp_all
  · simp_all

@[simp] theorem State.putEntry_canon (s : State) (e : Fin 8) (x : Entry) : (s.putEntry e x).canon ↔ s.canon := Iff.rfl

@[simp] theorem State.repStep_canon (s : State) (e : Fin 8) : (s.repStep e).canon ↔ s.canon := by
  simp [State.repStep]

theorem State.repeated_canonical {s : State} (h : s.canon) (i : Instr) (rep : Rep) (kind : BitVec 4) (w1 w2 : Word)
    (it : State → Nat → Word → Word → (State → State) → Out) (cap : Word)
    (hit : ∀ j a b fin, (∀ t : State, t.canon → (fin t).canon) → Canonical (it s j a b fin)) :
    Canonical (s.repeated i rep kind w1 w2 it cap) := by
  unfold State.repeated
  split
  · exact hit _ _ _ _ fun t ht => by simp [ht]
  · dsimp only
    repeat' split
    · simp [h]
    · simp [h]
    · simp [h]
    · exact hit _ _ _ _ fun t ht => by simp [ht]
    · simp only [State.withEntry_canonical h]
      exact fun n _ => hit _ _ _ _ fun t ht => by simp [ht]

@[simp] theorem Tile.noteOpened_slice (t : Tile) (e : Endpoint) : (t.noteOpened e).slice = t.slice := by
  cases e <;> rfl

@[simp] theorem State.inject_canon (s : State) (o : Outgoing) : (s.inject o).canon ↔ s.canon := by
  simp [State.inject]

@[simp] theorem State.makeRoom_canon (s : State) (os : List Outgoing) : (s.makeRoom os).canon ↔ s.canon := by
  unfold State.makeRoom
  dsimp only
  split
  · rfl
  · split <;> simp

theorem State.foldl_inject_canon (os : List Outgoing) {s : State} (h : s.canon) : (os.foldl State.inject s).canon :=
  foldl_keeps State.canon _ (fun t o ht => by simpa using ht) os s h

theorem State.send_canonical {s : State} (h : s.canon) (os : List Outgoing) (k : State → Out) (hk : ∀ t : State, t.canon → Canonical (k t)) :
    Canonical (s.send os k) := by
  unfold State.send
  split
  · exact hk _ (State.foldl_inject_canon os h)
  · simp [h]

@[simp] theorem State.notice_canon (s : State) (p : Packet) : (s.notice p).canon ↔ s.canon := Iff.rfl

@[simp] theorem State.reply_canon (s : State) (p : Packet) (b : Body) : (s.reply p b).canon ↔ s.canon := by
  simp [State.reply]

@[simp] theorem State.askQuay_canonical {s : State} (i : Instr) (k : Fin 13) (w1 w2 : Word) (h : s.canon) : Canonical (s.askQuay i k w1 w2) := by
  simp only [State.askQuay, State.withEntry_canonical h]
  exact fun n _ => State.send_canonical h _ _ fun t ht => by simp [ht]

@[simp] theorem State.entryDone_canon (s : State) (n : Fin 8) : (s.entryDone n).canon ↔ s.canon := by
  simp [State.entryDone]

@[simp] theorem State.deferKld_canon (s : State) (n : Fin 8) (p : Nat × Nat) : (s.deferKld n p).canon ↔ s.canon := Iff.rfl

@[simp] theorem State.compared_canon {s t : State} (bofs : BitVec 19) (own : List Word) (h : s.canon) (ht : t.canon) :
    (State.compared s t bofs own).canon := by
  simp [State.compared, h, ht]

@[simp] theorem State.retireEntry_canon {s : State} (n : Fin 8) (h : s.canon) : (s.retireEntry n).canon := by
  unfold State.retireEntry
  dsimp only
  split
  · simp [h]
  · split
    · simp [h]
    · exact State.compared_canon _ _ h (State.consume_canon _ _ _ h (by simp [h]))

@[simp] theorem State.settle_canon {s : State} (n : Fin 8) (h : s.canon) : (s.settle n).canon := by
  simp [State.settle, h]

@[simp] theorem State.settleWord_canon {s : State} (n : Fin 8) (v : Word) (h : s.canon) : (s.settleWord n v).canon := by
  simp [State.settleWord, h]

@[simp] theorem State.dataArrived_canon {s : State} (n : Fin 8) (pos : Nat) (bs : List PByte) (h : s.canon) : (s.dataArrived n pos bs).canon := by
  simp [State.dataArrived, h]

@[simp] theorem State.fold_canon (s : State) (vs : List Word) : (s.fold vs).canon ↔ s.canon := by
  simp [State.fold]

theorem State.placeAll_canon (write : Bool) (l : List (Nat × Word × Nat)) {s : State} (h : s.canon) :
    (State.placeAll write l s).canon fun x => x.2.canon := by
  induction l generalizing s with
  | nil => exact h
  | cons a l ih =>
    obtain ⟨pos, p, n⟩ := a
    exact Chk.bind_canon (State.resolve_canon h p n write) fun t ht => Chk.bind_canon (ih ht) fun x hx => hx

@[simp] theorem State.recall_canon (s : State) (d : LeaseDir) : (s.recall d).canon ↔ s.canon := by
  simp [State.recall]

@[simp] theorem State.recallOwn_canon {s : State} (o n : Nat) (P : Unit → Prop) (h : s.canon) (hP : P ()) : (s.recallOwn o n).canon P := by
  unfold State.recallOwn
  split <;> simp [h, hP]

@[simp] theorem State.dropLeases_canon (s : State) (ls : List Lease) : (s.dropLeases ls).canon ↔ s.canon := Iff.rfl

@[simp] theorem State.charge_canon {s : State} (k : Fin 3) (n : Nat) (h : s.canon) : (s.charge k n).canon := by
  simp [State.charge, h]

@[simp] theorem State.chargeParts_canon {s : State} (ps : List Part1) (h : s.canon) : (s.chargeParts ps).canon := by
  simp [State.chargeParts, h]

@[simp] theorem State.quayPut_canon {s : State} (a : Asker) (o : Nat) (b : Byte) (h : s.canon) : (s.quayPut a o b).canon := by
  obtain ⟨he, hn, hsh, hf⟩ := State.ctx_canon h a.ctx
  unfold State.quayPut
  dsimp only
  split
  · simp [h]
  · refine State.putCtx_canon h _ _ ⟨he, hn, hsh, fun x hx => ?_⟩
    rcases Tab.mem_put hx with e | e
    · rw [e]
      refine Memory.wf_write _ _ _ ?_
      unfold Tab.get
      cases e : (s.ctx a.ctx).fslots.find _ with
      | none => rfl
      | some m => exact hf _ (Tab.find_mem e)
    · exact hf _ e

theorem State.readHere_canon (ps : List Part1) {s : State} (h : s.canon) : (State.readHere ps s).2.canon := by
  induction ps generalizing s with
  | nil => exact h
  | cons p ps ih =>
    unfold State.readHere
    split
    · exact ih (by simp [h])
    · exact ih h

theorem State.writeHere_canon (bs : List (Option PByte)) (ps : List Part1) {s : State} (h : s.canon) : (State.writeHere bs ps s).canon := by
  induction ps generalizing s with
  | nil => exact h
  | cons p ps ih =>
    unfold State.writeHere
    split
    · exact ih (by simp [h])
    · exact ih h

@[simp] theorem State.copied_canon (s : State) (b : Bool) : (s.copied b).canon ↔ s.canon := by
  simp [State.copied]

theorem State.sendLoad_canonical {s : State} (h : s.canon) (n : Fin 8) (e : Entry) (total : Nat) (ps : List Part1) (k : State → State)
    (hk : ∀ t : State, t.canon → (k t).canon) : Canonical (s.sendLoad n e total ps k) := by
  unfold State.sendLoad
  dsimp only
  split
  · simp [h]
  · exact State.send_canonical h _ _ fun t ht => (canonical_next _).2 (hk _ (by simp [ht]))

theorem State.load_canonical {s : State} (h : s.canon) (i : Instr) (x : Option Xsc) (parts : List (Nat × Word × Nat)) (total : Nat)
    (w1 w2 : Word) (k : State → List PByte → Out) (hk : ∀ (t : State) bs, t.canon → Canonical (k t bs)) :
    Canonical (s.load i x parts total w1 w2 k) := by
  unfold State.load
  split
  · simp [h]
  · refine Chk.run_canonical (State.placeAll_canon false parts h) h fun a ha => ?_
    dsimp only
    split
    · simp [ha]
    · split
      · simp only [State.withEntry_canonical ha]
        exact fun n _ => State.sendLoad_canonical ha _ _ _ _ _ fun t ht => by simp [ht]
      · split
        · simp [ha]
        · exact hk _ _ (State.readHere_canon _ ha)

theorem State.storeTo_canonical {s : State} (h : s.canon) (x : Option Xsc) (parts : List (Nat × Word × Nat)) (bs : List (Option PByte))
    (folded : List Word) (k : State → Out) (hk : ∀ t : State, t.canon → Canonical (k t)) : Canonical (s.storeTo x parts bs folded k) := by
  unfold State.storeTo
  split
  · simp [h]
  · refine Chk.run_canonical (State.placeAll_canon true parts h) h fun a ha => ?_
    dsimp only
    split
    · simp [ha]
    · split
      · simp [ha]
      · split
        · simp [ha]
        · refine State.send_canonical ha _ _ fun t ht => hk _ ?_
          have hw (u : State) (hu : u.canon) := State.writeHere_canon bs a.1 (s := u.dropLeases (a.2.leasesOf a.1)) (by simp [hu])
          split <;> simp [hw, ht]

@[simp] theorem repPtr_canon (cap w1 : Word) (disp : Int) (far : Bool) (step i : Nat) : (repPtr cap w1 disp far step i).canon fun _ => True := by
  simp [repPtr]

theorem State.loadInto_canonical {s : State} (h : s.canon) (n : Fin 8) (e : Entry) (total : Nat) (ps : List Part1) (k : State → State)
    (hk : ∀ t : State, t.canon → (k t).canon) : Canonical (s.loadInto n e total ps k) := by
  unfold State.loadInto
  dsimp only
  split
  · simp [h]
  · split
    · exact State.sendLoad_canonical h _ _ _ _ _ hk
    · split
      · simp [h]
      · exact (canonical_next _).2 (State.retireEntry_canon _ (hk _ (by simp [State.readHere_canon _ h])))

theorem State.farLoadRep_canonical {s : State} (h : s.canon) (i : Instr) (rep : Rep) (x : Option Xsc) (cap w2 : Word) (disp : Int)
    (parts : Nat → Word → List (Nat × Word × Nat)) (ok : State → Nat → Chk Unit) (free : State → Nat → Bool)
    (hok : ∀ j, (ok s j).canon fun _ => True) : Canonical (s.farLoadRep i rep x cap w2 disp parts ok free) := by
  unfold State.farLoadRep
  extract_lets step
  have hstep (n : Fin 8) (e : Entry) : Canonical (step s n e) := by
    unfold step
    refine canonical_ite_of (by simp [h]) (canonical_ite_of (by simp [h]) ?_)
    simp only [Chk.run_canonical_iff (hok _) h, Chk.run_canonical_iff (repPtr_canon ..) h]
    refine fun _ _ p _ => Chk.run_canonical (State.placeAll_canon false _ h) h fun a ha => ?_
    split
    all_goals exact State.loadInto_canonical ha _ _ _ _ _ fun t ht => by simp [ht]
  split
  · simp [h, hstep]
  · simp [h, hstep]

@[simp] theorem State.loadScalar_canonical {s : State} (h : s.canon) (i : Instr) (d : SReg) (reads : List SReg) {p : Chk Word}
    (hp : p.canon fun _ => True) (n : Nat) (x : Option Xsc) : Canonical (s.loadScalar i d reads p n x) := by
  refine canonical_ite_of (by simp [h]) ((Chk.run_canonical_iff hp h).2 fun a _ => ?_)
  exact State.load_canonical h _ _ _ _ _ _ _ fun t bs ht => by simp [ht]

@[simp] theorem State.storeScalar_canonical {s : State} (h : s.canon) (reads : List SReg) {p : Chk Word}
    (hp : p.canon fun _ => True) (n : Nat) (v : Word) (x : Option Xsc) : Canonical (s.storeScalar reads p n v x) := by
  refine canonical_ite_of (by simp [h]) ((Chk.run_canonical_iff hp h).2 fun a _ => ?_)
  exact State.storeTo_canonical h _ _ _ _ _ fun t ht => by simp [ht]

@[simp] theorem State.indexed_canon (s : State) (a b : SReg) (n : Nat) : (s.indexed a b n).canon fun _ => True := eaChk_canon ..

@[simp] theorem execLdw_canonical (d a : SReg) (imm : Int) (x : Option Xsc) {s : State} (h : s.canon) : Canonical (execLdw d a imm x s) := by
  simp [execLdw, h]

@[simp] theorem execLdd_canonical (d a : SReg) (imm : Int) (x : Option Xsc) {s : State} (h : s.canon) : Canonical (execLdd d a imm x s) := by
  simp [execLdd, h]

@[simp] theorem execStw_canonical (d a : SReg) (imm : Int) (x : Option Xsc) {s : State} (h : s.canon) : Canonical (execStw d a imm x s) := by
  simp [execStw, h]

@[simp] theorem execStd_canonical (d a : SReg) (imm : Int) (x : Option Xsc) {s : State} (h : s.canon) : Canonical (execStd d a imm x s) := by
  simp [execStd, h]

@[simp] theorem State.staging_canonical {s : State} (h : s.canon) (k : Out) : Canonical (s.staging k) ↔ (s.sel = .stage → Canonical k) := by
  unfold State.staging
  split <;> simp_all

@[simp] theorem execLdx_canonical (z : Size) (d a b : SReg) (x : Option Xsc) {s : State} (h : s.canon) : Canonical (execLdx z d a b x s) := by
  simp [execLdx, h]

@[simp] theorem execLdxs_canonical (z : Size) (d a b : SReg) (x : Option Xsc) {s : State} (h : s.canon) : Canonical (execLdxs z d a b x s) := by
  simp [execLdxs, h]

@[simp] theorem execStx_canonical (z : Size) (d a b : SReg) (x : Option Xsc) {s : State} (h : s.canon) : Canonical (execStx z d a b x s) := by
  simp [execStx, h]

@[simp] theorem execLdr_canonical (d : RCode) (a : SReg) (imm : Int) (p : RowPos) (x : Option Xsc) {s : State} (h : s.canon) :
    Canonical (execLdr d a imm p x s) := by
  refine canonical_ite_of (by simp [h]) ((Chk.run_canonical_iff (by simp) h).2 fun _ _ => canonical_ite_of ?_ ?_)
  · exact State.farLoadRep_canonical h _ _ _ _ _ _ _ _ _ fun j => by simp
  · refine State.repeated_canonical h _ _ _ _ _ _ _ fun j w1 w2 fin hfin => ?_
    refine canonical_ite_of (by simp [h]) ((Chk.run_canonical_iff (by simp) h).2 fun _ _ => (Chk.run_canonical_iff (by simp) h).2 fun q _ => ?_)
    exact State.load_canonical h _ _ _ _ _ _ _ fun t bs ht => (canonical_next _).2 (State.consume_canon _ _ _ ht (hfin _ (by simp [ht])))

@[simp] theorem execStr_canonical (d : RCode) (a : SReg) (imm : Int) (p : RowPos) (x : Option Xsc) {s : State} (h : s.canon) :
    Canonical (execStr d a imm p x s) := by
  refine canonical_ite_of (by simp [h]) ((Chk.run_canonical_iff (by simp) h).2 fun _ _ => ?_)
  refine State.repeated_canonical h _ _ _ _ _ _ _ fun j w1 w2 fin hfin => ?_
  refine canonical_ite_of (by simp [h]) ((Chk.run_canonical_iff (by simp) h).2 fun _ _ => (Chk.run_canonical_iff (by simp) h).2 fun q _ => ?_)
  exact State.storeTo_canonical h _ _ _ _ _ fun t ht => (canonical_next _).2 (hfin t ht)

@[simp] theorem execLdt_canonical (t : Fin 4) (a : SReg) (imm : Int) (x : Option Xsc) {s : State} (h : s.canon) :
    Canonical (execLdt t a imm x s) := by
  refine (State.staging_canonical h _).2 fun _ => canonical_ite_of (by simp [h]) ((Chk.run_canonical_iff (by simp) h).2 fun q _ => ?_)
  exact State.load_canonical h _ _ _ _ _ _ _ fun t bs ht => by simp [ht]

@[simp] theorem execStt_canonical (t : Fin 4) (a : SReg) (imm : Int) (x : Option Xsc) {s : State} (h : s.canon) :
    Canonical (execStt t a imm x s) := by
  refine (State.staging_canonical h _).2 fun _ => canonical_ite_of (by simp [h]) ((Chk.run_canonical_iff (by simp) h).2 fun q _ => ?_)
  exact State.storeTo_canonical h _ _ _ _ _ fun t ht => by simp [ht]

@[simp] theorem alignChk_canon (p : Word) (n : Nat) : (alignChk p n).canon fun _ => True := by simp [alignChk]

@[simp] theorem execLds_canonical (d : RCode) (a b : SReg) (p : RowPos) (x : Option Xsc) {s : State} (h : s.canon) :
    Canonical (execLds d a b p x s) := by
  refine (State.staging_canonical h _).2 fun _ => canonical_ite_of (by simp [h])
    ((Chk.run_canonical_iff (by simp) h).2 fun _ _ => canonical_ite_of (canonical_ite_of ?_ ?_) ?_)
  · refine State.repeated_canonical h _ _ _ _ _ _ _ fun j w1 w2 fin hfin => ?_
    refine (Chk.run_canonical_iff (by simp) h).2 fun _ _ => (Chk.run_canonical_iff (by simp) h).2 fun q _ => ?_
    exact (canonical_next _).2 (hfin _ (by simp [h]))
  · exact State.farLoadRep_canonical h _ _ _ _ _ _ _ _ _ fun j => by simp
  · refine State.repeated_canonical h _ _ _ _ _ _ _ fun j w1 w2 fin hfin => ?_
    refine canonical_ite_of (by simp [h]) ((Chk.run_canonical_iff (by simp) h).2 fun _ _ => (Chk.run_canonical_iff (by simp) h).2 fun q _ => ?_)
    exact State.load_canonical h _ _ _ _ _ _ _ fun t bs ht => (canonical_next _).2 (State.consume_canon _ _ _ ht (hfin _ (by simp [ht])))

@[simp] theorem execSts_canonical (d : RCode) (a b : SReg) (p : RowPos) (x : Option Xsc) {s : State} (h : s.canon) :
    Canonical (execSts d a b p x s) := by
  refine (State.staging_canonical h _).2 fun _ => canonical_ite_of (by simp [h]) ((Chk.run_canonical_iff (by simp) h).2 fun _ _ => ?_)
  refine State.repeated_canonical h _ _ _ _ _ _ _ fun j w1 w2 fin hfin => ?_
  refine canonical_ite_of (by simp [h]) ((Chk.run_canonical_iff (by simp) h).2 fun _ _ => (Chk.run_canonical_iff (by simp) h).2 fun q _ => ?_)
  exact State.storeTo_canonical h _ _ _ _ _ fun t ht => (canonical_next _).2 (hfin t ht)

@[simp] theorem State.noteClear_canon (s : State) (slot : Nat) : (s.noteClear slot).canon ↔ s.canon := by
  simp [State.noteClear]

@[simp] theorem State.capCheck_canon (s : State) (a b : SReg) (n : Nat) (write : Bool) : (s.capCheck a b n write).canon fun _ => True := by
  simp [State.capCheck]

@[simp] theorem execCld_canonical (z : Size) (d a b : SReg) (x : Option Xsc) {s : State} (h : s.canon) : Canonical (execCld z d a b x s) := by
  simp [execCld, h]

@[simp] theorem execCst_canonical (z : Size) (d a b : SReg) (x : Option Xsc) {s : State} (h : s.canon) : Canonical (execCst z d a b x s) := by
  simp [execCst, h]

@[simp] theorem execCbnd_canonical (d a b : SReg) {s : State} (h : s.canon) : Canonical (execCbnd d a b s) := by
  simp [execCbnd, h]

@[simp] theorem execCnar_canonical (d a b c : SReg) {s : State} (h : s.canon) : Canonical (execCnar d a b c s) := by
  simp [execCnar, h]

@[simp] theorem execCchk_canonical (d a b : SReg) {s : State} (h : s.canon) : Canonical (execCchk d a b s) := by
  simp [execCchk, h]

@[simp] theorem execAlloc_canonical (d a b : SReg) {s : State} (h : s.canon) : Canonical (execAlloc d a b s) := by
  simp [execAlloc, h]

theorem Ctx.allocate_canon {x : Ctx} (h : x.canon) {len : Nat} {base : Option Nat} {k : Nat × Nat × Ctx} (e : x.allocate len base = some k) :
    k.2.2.canon := by
  unfold Ctx.allocate at e
  dsimp only at e
  split at e
  · cases e
  · split at e
    · cases e
    · split at e
      · cases e
      · cases e; simp [h]

@[simp] theorem State.allocAnswer_canon {s : State} (w1 w2 : Word) (base : Option Nat) (h : s.canon) : (s.allocAnswer w1 w2 base).2.canon := by
  unfold State.allocAnswer
  split
  · exact h
  · rename_i e; exact State.putCtx_canon h _ _ (Ctx.allocate_canon (State.myCtx_canon h) e)

@[simp] theorem execFree_canonical (a : SReg) {s : State} (h : s.canon) : Canonical (execFree a s) := by
  have hm (t : State) (ht : t.canon) (c sl : Nat) : (t.mapTiles (fun t => t.owned && t.ctx == c) fun u =>
      { u with tile := { u.tile with ckCache := dropFrom u.tile.ckCache sl } }).canon := State.mapTiles_canon ht _ _ fun u hu => hu
  refine (State.staging_canonical h _).2 fun _ => canonical_ite_of (by simp [h]) (canonical_ite_of (by simp [h]) ?_)
  have h1 : (s.modCtx fun x => { x with revoked := addTo x.revoked (capSlot (s.S (pairOf a))) }).canon := by simp [h]
  have h2 := hm _ h1 s.tile.ctx (capSlot (s.S (pairOf a)))
  dsimp only
  split
  · exact (canonical_next _).2 h2
  · refine canonical_ite_of ((canonical_stall _).2 h2) ((canonical_next _).2 ?_)
    exact (State.retire_canon _).2 (State.modCtx_canon h2 _ (by simp [h2]))

end Sys2Proof.Machine
end

section
/-! SUPPORT. The canonical form through routing, edge memory and the pages of contexts, the fetch, messages. -/

namespace Sys2Proof.Machine

@[simp] theorem State.reportTile_canon (s : State) (kind x y count : Nat) (h0 h1 : Word) :
    (s.reportTile kind x y count h0 h1).canon ↔ s.canon := Iff.rfl

@[simp] theorem State.reportSite_canon (s : State) (kind x g count : Nat) : (s.reportSite kind x g count).canon ↔ s.canon := Iff.rfl

@[simp] theorem State.lose_canon {s : State} (ps : List Packet) (h : s.canon) : (s.lose ps).canon := by
  refine foldl_keeps State.canon _ (fun t p ht => ?_) ps _ ((canon_mk ..).2 h)
  split
  · exact State.mapTiles_canon ht _ _ fun u hu => hu
  · exact ht

@[simp] theorem State.tellFailure_canon (s : State) (l : Link) (router : Bool) : (s.tellFailure l router).canon ↔ s.canon := by
  unfold State.tellFailure
  cases s.logicalAt l.x l.y <;> simp

@[simp] theorem State.endFail_canon {s : State} (l : Link) (h : s.canon) : (s.endFail l).canon := by
  simp [State.endFail, h]

@[simp] theorem State.failLink_canon {s : State} (l : Link) (h : s.canon) : (s.failLink l).canon := by
  unfold State.failLink
  cases otherEnd l <;> simp [h]

@[simp] theorem execFlitCrcError_canonical (l : Link) {s : State} (h : s.canon) : Canonical (execFlitCrcError l s) := by
  simp [execFlitCrcError, h]

@[simp] theorem execLinkCrcThreshold_canonical (l : Link) {s : State} (h : s.canon) : Canonical (execLinkCrcThreshold l s) := by
  simp [execLinkCrcThreshold, h]

@[simp] theorem execLinkCreditTimeout_canonical (l : Link) {s : State} (h : s.canon) : Canonical (execLinkCreditTimeout l s) := by
  simp [execLinkCreditTimeout, h]

@[simp] theorem State.writeException_canon (s : State) (w : RouterWrite) : (s.writeException w).canon ↔ s.canon := Iff.rfl

@[simp] theorem State.resendFrom_canon (s : State) (gen : BitVec 16) : (s.resendFrom gen).canon ↔ s.canon := Iff.rfl

@[simp] theorem execResendNotice_canonical (gen : BitVec 16) {s : State} (h : s.canon) : Canonical (execResendNotice gen s) := by
  simp [execResendNotice, h]

@[simp] theorem State.notices_canon (s : State) : (s.notices).canon ↔ s.canon := Iff.rfl

@[simp] theorem State.sendEntry_canon (s : State) (w : RouterWrite) : (s.sendEntry w).canon ↔ s.canon := by
  unfold State.sendEntry
  cases s.logicalAt w.x w.y <;> simp

@[simp] theorem State.installed_canon (s : State) : (s.installed).canon ↔ s.canon := by
  simp [State.installed]

@[simp] theorem State.entryLanded_canon (s : State) (w : RouterWrite) : (s.entryLanded w).canon ↔ s.canon := by
  simp [State.entryLanded]

@[simp] theorem State.entriesAgain_canon {s : State} (h : s.canon) : s.entriesAgain.canon :=
  foldl_keeps State.canon _ (fun t w ht => (State.sendEntry_canon t w).2 ht) _ _ ((canon_mk ..).2 h)

theorem Shadow.wf_without {h : Shadow} (hm : h.mem.wf = true) (b n : Nat) : (h.without b n).mem.wf = true :=
  Memory.wf_copyRange _ _ b n rfl hm

@[simp] theorem Ctx.clearShadows_canon {x : Ctx} (b n : Nat) (h : x.canon) : (x.clearShadows b n).canon := by
  obtain ⟨he, hn, hsh, hf⟩ := h
  refine ⟨he, hn, fun y hy => ?_, hf⟩
  obtain ⟨z, hz, rfl⟩ := List.mem_map.1 hy
  exact Shadow.wf_without (hsh z hz) b n

theorem Ctx.edge_wf {x : Ctx} (h : x.canon) : x.edge.wf = true := h.1

theorem Ctx.net_wf {x : Ctx} (h : x.canon) : x.net.wf = true := h.2.1

/-- A context whose edge memory is replaced by a canonical one. -/
theorem ctxCanon_edge {e e' n : Memory} {sh : Tab Shadow} {f : Tab Memory} (h : ctxCanon e n sh f) (he : e'.wf = true) :
    ctxCanon e' n sh f := ⟨he, h.2⟩

theorem Ctx.shadow_wf {x : Ctx} (h : x.canon) (k : Nat) : (Tab.get x.shadows {} k).mem.wf = true := by
  unfold Tab.get
  cases e : x.shadows.find k with
  | none => rfl
  | some y => exact h.2.2.1 _ (Tab.find_mem e)

/-- A context with one shadow's pages replaced. -/
theorem Ctx.putShadow_canon {x : Ctx} (h : x.canon) (k : Nat) (y : Shadow) (hy : y.mem.wf = true) :
    Ctx.canon { x with shadows := Tab.put x.shadows k y } := by
  obtain ⟨he, hn, hsh, hf⟩ := h
  refine ⟨he, hn, fun z hz => ?_, hf⟩
  rcases Tab.mem_put hz with e | e
  · rw [e]; exact hy
  · exact hsh z e

theorem Ctx.mapPage_canon {x y : Ctx} (h : x.canon) {n o : Nat} {w : Bool} (e : x.mapPage n o w = some y) : y.canon := by
  unfold Ctx.mapPage at e
  split at e
  · cases e; exact h
  · split at e
    · cases e
    · cases e
      exact ctxCanon_edge (Ctx.clearShadows_canon _ _ h) (Memory.wf_copyRange _ _ _ _ rfl (Ctx.edge_wf h))

@[simp] theorem Ctx.unmapPage_canon {x : Ctx} (o : Nat) (h : x.canon) : (x.unmapPage o).canon := by
  unfold Ctx.unmapPage
  split
  · exact h
  · exact ctxCanon_edge (Ctx.clearShadows_canon _ _ h) (Memory.wf_copyRange _ _ _ _ rfl (Ctx.edge_wf h))

theorem Shadow.wf_open {h : Shadow} {x : Ctx} (hx : x.canon) (hm : h.mem.wf = true) (o : Nat) : (h.open x o).mem.wf = true := by
  unfold Shadow.open
  split
  · exact hm
  · split
    · exact hm
    · exact Memory.wf_copyRange _ _ _ _ (Ctx.edge_wf hx) hm

@[simp] theorem Ctx.commit_canon {x : Ctx} (k : Nat) (h : x.canon) : (x.commit k).canon := by
  refine foldl_keeps Ctx.canon _ (fun y g hy => ?_) _ _ h
  exact ⟨Memory.wf_copyRange _ _ _ _ (Ctx.shadow_wf h k) (Ctx.edge_wf hy), hy.2⟩

@[simp] theorem Ctx.poisonFar_canon {x : Ctx} (sh : Option Nat) (o : Nat) (h : x.canon) : (x.poisonFar sh o).canon := by
  unfold Ctx.poisonFar
  split
  · exact h
  · simp [h]
  · dsimp only
    split
    · exact Ctx.putShadow_canon h _ _ (Ctx.shadow_wf h _)
    · exact h

@[simp] theorem Ctx.farStore_canon {x : Ctx} (sh : Option Nat) (net : Bool) (o : Nat) (bs : List (Option PByte)) (h : x.canon) :
    (x.farStore sh net o bs).canon := by
  unfold Ctx.farStore
  dsimp only
  split
  · exact ⟨h.1, Memory.wf_writeMany _ _ _ (Ctx.net_wf h), h.2.2⟩
  · split
    · exact ctxCanon_edge ((ctxCanon_self x).2 h) (Memory.wf_writeMany _ _ _ (Ctx.edge_wf h))
    · refine Ctx.putShadow_canon h _ _ (Memory.wf_writeMany _ _ _ ?_)
      exact foldl_keeps (fun y : Shadow => y.mem.wf = true) _ (fun y c hy => Shadow.wf_open h hy c.1) _ _ (Ctx.shadow_wf h _)

@[simp] theorem State.farWrite_canon {s : State} (ctx tag : Nat) (net : Bool) (o : Nat) (bs : List (Option PByte)) (h : s.canon) :
    (s.farWrite ctx tag net o bs).canon := by
  unfold State.farWrite
  dsimp only
  split
  · refine memsCanon_ctxs (cs := s.ctxs) (State.putPart_canon h _ _ (Memory.wf_writeMany _ _ _ (State.partOf_wf h _))) fun c hc => ?_
    obtain ⟨⟨n, x⟩, hd, rfl⟩ := List.mem_map.1 hc
    have hx : x.canon := h.2.2.1 (n, x) hd
    dsimp only
    split
    · exact Ctx.farStore_canon _ _ _ _ hx
    · exact hx
  · exact State.putCtx_canon h _ _ (Ctx.farStore_canon _ _ _ _ (State.ctx_canon h _))

@[simp] theorem State.modTileAt_canon {s : State} (h : s.canon) (id : TileId) (f : Tile → Tile)
    (hf : ∀ t : Tile, t.slice.wf = true → (f t).slice.wf = true) : (s.modTileAt id f).canon := by
  unfold State.modTileAt
  split
  · exact memsCanon_slice h (hf _ (State.tile_wf h))
  · exact State.putTile_canon h _ (hf _ (State.tileAt_wf h id))

@[simp] theorem State.sliceRead_canon {s : State} (id : TileId) (o n : Nat) (h : s.canon) : (s.sliceRead id o n).2.canon := by
  unfold State.sliceRead
  dsimp only
  split
  · exact h
  · exact (canon_mk ..).2 (State.modTileAt_canon h id _ fun _ _ => Tile.wf_ecc _ _ _ _ (State.tileAt_wf h id))

@[simp] theorem State.sliceWrite_canon {s : State} (id : TileId) (o : Nat) (bs : List (Option PByte)) (h : s.canon) :
    (s.sliceWrite id o bs).canon := by
  have hw := State.modTileAt_canon h id (fun t => t.store s.fresh o bs) fun t ht => Tile.wf_store t _ _ _ ht
  simp [State.sliceWrite, hw]

@[simp] theorem State.readParts_canon {s : State} (ps : List Part1) (h : s.canon) : (s.readParts ps).2.canon := by
  induction ps generalizing s with
  | nil => exact h
  | cons p ps ih =>
    unfold State.readParts
    split
    · exact ih (State.sliceRead_canon _ _ _ h)
    · exact ih h

@[simp] theorem State.writeParts_canon {s : State} (bs : List (Option PByte)) (ps : List Part1) (h : s.canon) : (s.writeParts bs ps).canon := by
  induction ps generalizing s with
  | nil => exact h
  | cons p ps ih =>
    unfold State.writeParts
    refine ih ?_
    split
    · exact State.sliceWrite_canon _ _ _ h
    · split
      · refine foldl_keeps State.canon _ (fun t j ht => ?_) _ _ h
        split
        · exact State.quayPut_canon _ _ _ ht
        · exact ht
      · exact State.farWrite_canon _ _ _ _ _ h
      · exact h

@[simp] theorem State.recallAt_canon {s : State} (id : TileId) (d : LeaseDir) (h : s.canon) : (s.recallAt id d).canon := by
  unfold State.recallAt
  split
  · exact h
  · exact (State.notice_canon ..).2 (State.modTileAt_canon h id _ fun t ht => ht)

@[simp] theorem State.shootDown_canon {s : State} (ctx : Nat) (p : Page → Bool) (h : s.canon) : (s.shootDown ctx p).canon :=
  State.mapTiles_canon h _ _ fun _ hu => hu

theorem fetchWords_canon (n : Nat) (a : Word) {s : State} (h : s.canon) : (fetchWords n a s).2.canon := by
  induction n generalizing a s with
  | zero => exact h
  | succ n ih =>
    have he : State.canon { s with
        tile := s.tile.ecc s.fresh a.toNat 2, fresh := if s.tile.flips.isEmpty then s.fresh else s.fresh + 1 } := by simp [h]
    unfold fetchWords
    dsimp only
    split
    · exact h
    · split
      · exact he
      · split
        · exact he
        · exact ih _ he

theorem State.fetch_canon {s : State} (h : s.canon) : s.fetch.2.canon := by
  have hf := fetchWords_canon 5 s.core.pc h
  unfold State.fetch
  dsimp only
  split
  · exact hf
  · exact hf
  · split <;> exact hf

@[simp] theorem State.begin_canon (s : State) (n : Nat) : (s.begin n).canon ↔ s.canon := Iff.rfl

@[simp] theorem State.placeLookup_canon {s : State} (rank : Nat) (h : s.canon) : (s.placeLookup rank).canon fun t => t.canon := by
  simp [State.placeLookup, h]

@[simp] theorem execPlacementCacheFill_canonical {s : State} (h : s.canon) : Canonical (execPlacementCacheFill s) := by
  unfold execPlacementCacheFill
  split <;> simp [h]

theorem State.sendMsg_canonical {s : State} (h : s.canon) (k : MsgKind) (rt : Word) (x : Option Xsc) (bs : List PByte) (fin : State → State)
    (hfin : ∀ t : State, t.canon → (fin t).canon) : Canonical (s.sendMsg k rt x bs fin) := by
  refine canonical_ite_of (by simp [h]) ?_
  split
  · simp [h]
  · refine Chk.run_canonical (State.placeLookup_canon _ h) h fun t ht => canonical_ite_of (by simp [ht]) ?_
    exact State.send_canonical ht _ _ fun u hu => (canonical_next _).2 (hfin _ (by simp [hu]))

@[simp] theorem execSendS_canonical (a b : SReg) (rep : Rep) (x : Option Xsc) {s : State} (h : s.canon) : Canonical (execSendS a b rep x s) := by
  refine (State.staging_canonical h _).2 fun _ => canonical_ite_of (by simp [h]) ?_
  exact State.repeated_canonical h _ _ _ _ _ _ _ fun _ _ _ fin hfin => State.sendMsg_canonical h _ _ _ _ fin hfin

@[simp] theorem execSendR_canonical (d : RCode) (a c : SReg) (p : RowPos) (x : Option Xsc) {s : State} (h : s.canon) :
    Canonical (execSendR d a c p x s) := by
  refine (State.staging_canonical h _).2 fun _ => canonical_ite_of (by simp [h]) ((Chk.run_canonical_iff (by simp) h).2 fun _ _ => ?_)
  refine State.repeated_canonical h _ _ _ _ _ _ _ fun _ _ _ fin hfin => canonical_ite_of (by simp [h]) ?_
  exact (Chk.run_canonical_iff (by simp) h).2 fun _ _ => State.sendMsg_canonical h _ _ _ _ fin hfin

@[simp] theorem execSendT_canonical (t : Fin 4) (a : SReg) (rep : Rep) (x : Option Xsc) {s : State} (h : s.canon) :
    Canonical (execSendT t a rep x s) := by
  refine (State.staging_canonical h _).2 fun _ => canonical_ite_of (by simp [h]) ?_
  exact State.repeated_canonical h _ _ _ _ _ _ _ fun _ _ _ fin hfin => State.sendMsg_canonical h _ _ _ _ fin hfin

@[simp] theorem execSendH_canonical (a : SReg) (rep : Rep) (x : Option Xsc) {s : State} (h : s.canon) : Canonical (execSendH a rep x s) := by
  refine (State.staging_canonical h _).2 fun _ => canonical_ite_of (by simp [h]) ?_
  exact State.repeated_canonical h _ _ _ _ _ _ _ fun _ _ _ fin hfin => State.sendMsg_canonical h _ _ _ _ fin hfin

@[simp] theorem State.popCq_canonical {s : State} (d : SReg) (w : Word) (r : List Word) (h : s.canon) : Canonical (s.popCq d w r) := by
  simp [State.popCq, h]

@[simp] theorem execInpop_canonical (d : SReg) {s : State} (h : s.canon) : Canonical (execInpop d s) := by
  unfold execInpop
  (repeat' split) <;> simp [h]

@[simp] theorem execInsk_canonical (d : SReg) {s : State} (h : s.canon) : Canonical (execInsk d s) := by
  unfold execInsk
  (repeat' split) <;> simp [h]

@[simp] theorem execInrd_canonical (d a : SReg) {s : State} (h : s.canon) : Canonical (execInrd d a s) := by
  simp [execInrd, h]

@[simp] theorem execInrdR_canonical (d : RCode) (base : Fin 16) (bank : Bool) {s : State} (h : s.canon) : Canonical
    (execInrdR d base bank s) := by
  simp [execInrdR, h]

@[simp] theorem execQrd_canonical (d : SReg) (q : Queue) {s : State} (h : s.canon) : Canonical (execQrd d q s) := by
  unfold execQrd
  (repeat' split) <;> simp [h]

@[simp] theorem execQwr_canonical (q : Queue) (a : SReg) {s : State} (h : s.canon) : Canonical (execQwr q a s) := by
  simp [execQwr, h]

@[simp] theorem execPlh_canonical (d a : SReg) {s : State} (h : s.canon) : Canonical (execPlh d a s) := by
  refine canonical_ite_of (by simp [h]) ?_
  split
  · simp [h]
  · exact Chk.run_canonical (State.placeLookup_canon _ h) h fun t ht => by simp [ht]

@[simp] theorem execPlq_canonical (d a : SReg) {s : State} (h : s.canon) : Canonical (execPlq d a s) := by
  simp [execPlq, h]

@[simp] theorem State.countReject_canon (s : State) (p : Packet) : (s.countReject p).canon ↔ s.canon := Iff.rfl

end Sys2Proof.Machine
end

section
/-! SUPPORT. The canonical form through the row and narrow instructions and the matrix unit. -/

namespace Sys2Proof.Machine

@[simp] theorem State.flag_canon (s : State) (f : Flags) : (s.flag f).canon ↔ s.canon := Iff.rfl

@[simp] theorem State.divergence_canon (s : State) : (s.divergence).canon ↔ s.canon := Iff.rfl

@[simp] theorem State.spent_canon (s : State) (unitMat : Bool) : (s.spent unitMat).canon ↔ s.canon := Iff.rfl

@[simp] theorem State.computing_canonical {s : State} (h : s.canon) (k : Out) : Canonical (s.computing k) ↔ (s.sel = .comp → Canonical k) := by
  unfold State.computing
  split <;> simp_all

theorem State.rowEnd_canonical {s : State} (h : s.canon) (j : Nat) (d : RowSel) (latch : Bool) (o : RowOut) (fin : State → State)
    (hfin : ∀ t : State, t.canon → (fin t).canon) : Canonical (s.rowEnd j d latch o fin) := by
  unfold State.rowEnd
  extract_lets ls dv t
  have ht : t.canon := by simp [t, h]
  refine canonical_ite_of (by simp [ht]) ((canonical_next _).2 (State.consume_canon _ _ _ ht ?_))
  exact hfin _ (by simp [ht])

@[simp] theorem State.rowBundle_canonical {s : State} (h : s.canon) (i : Instr) (ty : RType) (d : RCode) (x : RowX) (srcs : List RCode)
    (scal : List SReg) (own : Bool) (w1 w2 : Word) (f : (RCode → RowVal) → Word → Word → Rm → RowOut) :
    Canonical (s.rowBundle i ty d x srcs scal own w1 w2 f) := by
  refine (State.computing_canonical h _).2 fun _ => canonical_ite_of (by simp [h]) ((Chk.run_canonical_iff (by simp) h).2 fun _ _ => ?_)
  refine State.repeated_canonical h _ _ _ _ _ _ _ fun j a b fin hfin => canonical_ite_of (by simp [h]) ?_
  exact (Chk.run_canonical_iff (by simp) h).2 fun _ _ => State.rowEnd_canonical h _ _ _ _ fin hfin

@[simp] theorem State.row2_canonical {s : State} (h : s.canon) (i : Instr) (ty : RType) (d a b : RCode) (x : RowX) (chk : Bool)
    (f : Rm → Nat → Nat → Res) : Canonical (s.row2 i ty d a b x chk f) := by simp [State.row2, h]

@[simp] theorem execVadd_canonical (ty : RType) (d a b : RCode) (x : RowX) {s : State} (h : s.canon) : Canonical (execVadd ty d a b x s) := by
  simp [execVadd, h]

@[simp] theorem execVsub_canonical (ty : RType) (d a b : RCode) (x : RowX) {s : State} (h : s.canon) : Canonical (execVsub ty d a b x s) := by
  simp [execVsub, h]

@[simp] theorem execVmul_canonical (ty : RType) (d a b : RCode) (x : RowX) {s : State} (h : s.canon) : Canonical (execVmul ty d a b x s) := by
  simp [execVmul, h]

@[simp] theorem execVfma_canonical (ty : RType) (d a b : RCode) (x : RowX) {s : State} (h : s.canon) : Canonical (execVfma ty d a b x s) := by
  simp [execVfma, h]

@[simp] theorem execVmin_canonical (ty : RType) (d a b : RCode) (x : RowX) {s : State} (h : s.canon) : Canonical (execVmin ty d a b x s) := by
  simp [execVmin, h]

@[simp] theorem execVmax_canonical (ty : RType) (d a b : RCode) (x : RowX) {s : State} (h : s.canon) : Canonical (execVmax ty d a b x s) := by
  simp [execVmax, h]

@[simp] theorem execVand_canonical (ty : RType) (d a b : RCode) (x : RowX) {s : State} (h : s.canon) : Canonical (execVand ty d a b x s) := by
  simp [execVand, h]

@[simp] theorem execVor_canonical (ty : RType) (d a b : RCode) (x : RowX) {s : State} (h : s.canon) : Canonical (execVor ty d a b x s) := by
  simp [execVor, h]

@[simp] theorem execVxor_canonical (ty : RType) (d a b : RCode) (x : RowX) {s : State} (h : s.canon) : Canonical (execVxor ty d a b x s) := by
  simp [execVxor, h]

@[simp] theorem execVshl_canonical (ty : RType) (d a b : RCode) (x : RowX) {s : State} (h : s.canon) : Canonical (execVshl ty d a b x s) := by
  simp [execVshl, h]

@[simp] theorem execVshr_canonical (ty : RType) (d a b : RCode) (x : RowX) {s : State} (h : s.canon) : Canonical (execVshr ty d a b x s) := by
  simp [execVshr, h]

@[simp] theorem execVceq_canonical (ty : RType) (d a b : RCode) (x : RowX) {s : State} (h : s.canon) : Canonical (execVceq ty d a b x s) := by
  simp [execVceq, h]

@[simp] theorem execVclt_canonical (ty : RType) (d a b : RCode) (x : RowX) {s : State} (h : s.canon) : Canonical (execVclt ty d a b x s) := by
  simp [execVclt, h]

@[simp] theorem execVcle_canonical (ty : RType) (d a b : RCode) (x : RowX) {s : State} (h : s.canon) : Canonical (execVcle ty d a b x s) := by
  simp [execVcle, h]

@[simp] theorem execVsel_canonical (ty : RType) (d a b : RCode) (x : RowX) {s : State} (h : s.canon) : Canonical (execVsel ty d a b x s) := by
  simp [execVsel, h]

@[simp] theorem State.row1_canonical {s : State} (h : s.canon) (i : Instr) (ty : RType) (d a : RCode) (x : RowX) (chk : Bool)
    (f : Nat → Res) : Canonical (s.row1 i ty d a x chk f) := by simp [State.row1, h]

@[simp] theorem execVunaAbs_canonical (ty : RType) (d a : RCode) (x : RowX) {s : State} (h : s.canon) : Canonical (execVunaAbs ty d a x s) := by
  simp [execVunaAbs, h]

@[simp] theorem execVunaNeg_canonical (ty : RType) (d a : RCode) (x : RowX) {s : State} (h : s.canon) : Canonical (execVunaNeg ty d a x s) := by
  simp [execVunaNeg, h]

@[simp] theorem execVunaExp_canonical (ty : RType) (d a : RCode) (x : RowX) {s : State} (h : s.canon) : Canonical (execVunaExp ty d a x s) := by
  simp [execVunaExp, h]

@[simp] theorem execVunaLog2_canonical (ty : RType) (d a : RCode) (x : RowX) {s : State} (h : s.canon) : Canonical (execVunaLog2 ty d a x s) := by
  simp [execVunaLog2, h]

@[simp] theorem execVunaRcp_canonical (ty : RType) (d a : RCode) (x : RowX) {s : State} (h : s.canon) : Canonical (execVunaRcp ty d a x s) := by
  simp [execVunaRcp, h]

@[simp] theorem execVunaRsq_canonical (ty : RType) (d a : RCode) (x : RowX) {s : State} (h : s.canon) : Canonical (execVunaRsq ty d a x s) := by
  simp [execVunaRsq, h]

@[simp] theorem execVunaTanh_canonical (ty : RType) (d a : RCode) (x : RowX) {s : State} (h : s.canon) : Canonical (execVunaTanh ty d a x s) := by
  simp [execVunaTanh, h]

@[simp] theorem execVunaSig_canonical (ty : RType) (d a : RCode) (x : RowX) {s : State} (h : s.canon) : Canonical (execVunaSig ty d a x s) := by
  simp [execVunaSig, h]

@[simp] theorem State.rowReduce_canonical {s : State} (h : s.canon) (i : Instr) (ty : RType) (d a : RCode) (x : RowX) (chk : Bool)
    (pre : Rm → Nat → Res) (f : Rm → Nat → Nat → Res) : Canonical (s.rowReduce i ty d a x chk pre f) := by simp [State.rowReduce, h]

@[simp] theorem execVredSum_canonical (ty : RType) (d a : RCode) (x : RowX) {s : State} (h : s.canon) : Canonical (execVredSum ty d a x s) := by
  simp [execVredSum, h]

@[simp] theorem execVredMax_canonical (ty : RType) (d a : RCode) (x : RowX) {s : State} (h : s.canon) : Canonical (execVredMax ty d a x s) := by
  simp [execVredMax, h]

@[simp] theorem execVredMin_canonical (ty : RType) (d a : RCode) (x : RowX) {s : State} (h : s.canon) : Canonical (execVredMin ty d a x s) := by
  simp [execVredMin, h]

@[simp] theorem execVredSsq_canonical (ty : RType) (d a : RCode) (x : RowX) {s : State} (h : s.canon) : Canonical (execVredSsq ty d a x s) := by
  simp [execVredSsq, h]

@[simp] theorem execVscan_canonical (ty : RType) (d a : RCode) (x : RowX) {s : State} (h : s.canon) : Canonical (execVscan ty d a x s) := by
  simp [execVscan, h]

@[simp] theorem execVcvt_canonical (ty src : RType) (d a : RCode) (x : RowX) {s : State} (h : s.canon) : Canonical (execVcvt ty src d a x s) := by
  simp [execVcvt, h]

@[simp] theorem execVbc_canonical (ty : RType) (d a : RCode) (b : SReg) (x : RowX) {s : State} (h : s.canon) : Canonical
    (execVbc ty d a b x s) := by
  simp [execVbc, h]

@[simp] theorem execVmov_canonical (d a : RCode) (x : RowX) {s : State} (h : s.canon) : Canonical (execVmov d a x s) := by
  simp [execVmov, h]

@[simp] theorem execVrot_canonical (ty : RType) (d a : RCode) (b : SReg) (x : RowX) {s : State} (h : s.canon) : Canonical
    (execVrot ty d a b x s) := by
  simp [execVrot, h]

@[simp] theorem execVshuf_canonical (ty : RType) (d a b : RCode) (x : RowX) {s : State} (h : s.canon) : Canonical (execVshuf ty d a b x s) := by
  simp [execVshuf, h]

@[simp] theorem execViota_canonical (ty : RType) (d : RCode) (a : SReg) (x : RowX) {s : State} (h : s.canon) : Canonical
    (execViota ty d a x s) := by
  simp [execViota, h]

@[simp] theorem execQnt_canonical (f : NarrowSel) (d : RCode) (a : Fin 8) (base : Fin 16) (bank : Bool) (c : SReg) {s : State}
    (h : s.canon) : Canonical (execQnt f d a base bank c s) := by
  simp [execQnt, h]

@[simp] theorem execDqn_canonical (f : NarrowSel) (d : Fin 8) (a : RCode) (base : Fin 16) (bank : Bool) (c : SReg) {s : State}
    (h : s.canon) : Canonical (execDqn f d a base bank c s) := by
  simp [execDqn, h]

@[simp] theorem execBaq_canonical (d a b : RCode) (base : Fin 16) (bank : Bool) (c : SReg) {s : State} (h : s.canon) : Canonical
    (execBaq d a b base bank c s) := by
  simp [execBaq, h]

theorem eccSlots_wf {t : Tile} (h : t.slice.wf = true) (fresh : Nat) (r : Ring) (u n : Nat) : (eccSlots t fresh r u n).slice.wf = true := by
  unfold eccSlots
  split
  · exact h
  · exact foldl_keeps (fun t : Tile => t.slice.wf = true) _ (fun t _ ht => Tile.wf_ecc t _ _ _ ht) _ _ h

theorem readScales_wf {t : Tile} (h : t.slice.wf = true) (fresh : Nat) (u : UnitOp) (a b : Ring) :
    (readScales t fresh u a b).1.slice.wf = true := by
  unfold readScales
  split
  · exact foldl_keeps (fun t : Tile => t.slice.wf = true) _ (fun t _ ht => Tile.wf_ecc t _ _ _ ht) _ _ h
  · exact h

@[simp] theorem State.scaleRecall_canon {s : State} (u : UnitOp) (a b : Ring) (P : Unit → Prop) (h : s.canon) (hP : P ()) :
    (s.scaleRecall u a b).canon P := by
  unfold State.scaleRecall
  dsimp only
  split
  · split <;> simp [h, hP]
  · exact hP

@[simp] theorem formatChk_canon (s : State) (u : UnitOp) (P : Unit → Prop) (hP : P ()) : (formatChk s u).canon P := by
  simp [formatChk, hP]

@[simp] theorem scaleChk_canon (s : State) (u : UnitOp) (a b : Ring) (P : Unit → Prop) (hP : P ()) : (scaleChk s u a b).canon P := by
  simp [scaleChk, hP]

@[simp] theorem ringChk_canon (s : State) (r : Ring) (P : Unit → Prop) (hP : P ()) : (ringChk s r).canon P := by
  simp [ringChk, hP]

theorem bindPair_canon {s : State} (h : s.canon) (u : UnitOp) (a b : Ring) (wa wb : Nat) : (bindPair s u a b wa wb).canon fun x => x.2.canon := by
  refine (Chk.bind_canon_iff (by simp)).2 fun _ _ => (Chk.bind_canon_iff (by simp)).2 fun _ _ => ?_
  dsimp only
  split
  · refine (Chk.bind_canon_iff (by simp [h])).2 fun _ _ => ?_
    exact memsCanon_slice h (readScales_wf (State.tile_wf h) _ _ _ _)
  · exact h

@[simp] theorem unitJoin_canonical {s : State} (h : s.canon) (n : Fin 8) (e : Entry) (u : UnitOp) : Canonical (unitJoin s n e u) := by
  simp [unitJoin, h]

theorem unitIter_canonical {s : State} (h : s.canon) (i : Instr) (n : Fin 8) (e : Entry) (bind : State → UnitOp → Chk (UnitOp × State))
    (hb : ∀ u, (bind s u).canon fun x => x.2.canon) : Canonical (unitIter s i n e bind) := by
  refine canonical_ite_of (by simp [h]) (Chk.run_canonical (hb _) h fun a ha => ?_)
  exact unitJoin_canonical ha _ _ _

theorem State.unitIssue_canonical {s : State} (h : s.canon) (i : Instr) (rep : Rep) (ready : Bool) (cap : Word) (buf : List PByte)
    (bind : State → UnitOp → Chk (UnitOp × State)) (hb : ∀ u, (bind s u).canon fun x => x.2.canon) :
    Canonical (s.unitIssue i rep ready cap buf bind) := by
  refine (State.computing_canonical h _).2 fun _ => canonical_ite_of (by simp [h]) ?_
  split
  · exact unitIter_canonical h _ _ _ _ hb
  · refine canonical_ite_of (by simp [h]) (canonical_ite_of (by simp [h]) (canonical_ite_of (by simp [h]) ?_))
    exact (State.withEntry_canonical h _).2 fun n _ => unitIter_canonical h _ _ _ _ hb

@[simp] theorem noBind_canon {s : State} (u : UnitOp) (h : s.canon) : (noBind s u).canon fun x => x.2.canon := h

@[simp] theorem capture_canon {s : State} (u : UnitOp) (h : s.canon) : (capture s u).2.canon := by
  unfold capture
  split
  · exact memsCanon_slice h (eccSlots_wf (eccSlots_wf (State.tile_wf h) _ _ _ _) _ _ _ _)
  · split <;> exact h

@[simp] theorem State.deferUnit_canon (s : State) (u : UnitOp) (c : Cause) (va : Word) : (s.deferUnit u c va).canon ↔ s.canon := Iff.rfl

@[simp] theorem execUnitOperationStart_canonical {s : State} (h : s.canon) : Canonical (execUnitOperationStart s) := by
  unfold execUnitOperationStart
  split
  · simp [h]
  · rename_i u _
    refine canonical_ite_of (by simp [h]) ?_
    split
    · simp [h]
    · have hc := capture_canon u h
      dsimp only
      repeat' split
      all_goals simp [hc]

@[simp] theorem popSlots_canon (s : State) (u : UnitOp) (rest : List UnitOp) : (popSlots s u rest).canon ↔ s.canon := by
  unfold popSlots
  split <;> simp

@[simp] theorem commitUnit_canon (s : State) (u : UnitOp) (o : UnitOut) (shd : Bool) : (commitUnit s u o shd).canon ↔ s.canon := by
  simp [commitUnit]

@[simp] theorem retireUnit_canon {s : State} (u : UnitOp) (o : UnitOut) (shd : Bool) (h : s.canon) : (retireUnit s u o shd).canon :=
  State.compared_canon _ _ h (by simp [h])

@[simp] theorem commitPass_canon (s : State) (u : UnitOp) (o : UnitOut) (shd : Bool) : (commitPass s u o shd).canon ↔ s.canon := Iff.rfl

theorem endUnit_canon {s : State} (h : s.canon) (u : UnitOp) (o : UnitOut) (commit : State → Bool → State)
    (hc : ∀ (t : State) b, t.canon → (commit t b).canon) : (endUnit s u o commit).canon := by
  unfold endUnit
  split
  · simp [h]
  · extract_lets dv t
    have ht : t.canon := by simp [t, h]
    split
    · simp [ht]
    · split
      · simp [ht]
      · exact hc _ _ ht

@[simp] theorem execUnitOperationRetire_canonical {s : State} (h : s.canon) : Canonical (execUnitOperationRetire s) := by
  unfold execUnitOperationRetire
  split
  · simp [h]
  · refine canonical_ite_of (by simp [h]) ?_
    split
    · refine canonical_ite_of ((canonical_next _).2 (endUnit_canon h _ _ _ fun t b ht => ?_))
        ((canonical_next _).2 (endUnit_canon h _ _ _ fun t b ht => retireUnit_canon _ _ _ ht))
      dsimp only
      split
      · simp [ht]
      · simp [ht]
    · exact (canonical_next _).2 (endUnit_canon h _ _ _ fun t b ht => retireUnit_canon _ _ _ ht)
    · exact (canonical_next _).2 (endUnit_canon h _ _ _ fun t b ht => retireUnit_canon _ _ _ ht)

@[simp] theorem State.ringOk_canonical {s : State} (hs : s.canon) (h : Ring) {k : Out} (hk : Canonical k) : Canonical (s.ringOk h k) :=
  (Chk.run_canonical_iff (by simp) hs).2 fun _ _ => hk

@[simp] theorem State.ringCount_canonical {s : State} (hs : s.canon) (h : Ring) (n : Nat) {k : Out} (hk : Canonical k) :
    Canonical (s.ringCount h n k) := State.ringOk_canonical hs h (canonical_ite_of (by simp [hs]) hk)

@[simp] theorem execRcfg_canonical (h : Ring) (a : SReg) {s : State} (hs : s.canon) : Canonical (execRcfg h a s) := by
  simp [execRcfg, hs]

@[simp] theorem execRqry_canonical (d : SReg) (h : Ring) {s : State} (hs : s.canon) : Canonical (execRqry d h s) := by
  simp [execRqry, hs]

@[simp] theorem execRwaitFull_canonical (h : Ring) (n : Fin 128) {s : State} (hs : s.canon) : Canonical (execRwaitFull h n s) := by
  simp [execRwaitFull, hs]

@[simp] theorem execRwaitFree_canonical (h : Ring) (n : Fin 128) {s : State} (hs : s.canon) : Canonical (execRwaitFree h n s) := by
  simp [execRwaitFree, hs]

@[simp] theorem execRadvTail_canonical (h : Ring) (n : Fin 128) {s : State} (hs : s.canon) : Canonical (execRadvTail h n s) := by
  simp [execRadvTail, hs]

@[simp] theorem State.forceOp_canon {s : State} (h : s.canon) (r : Ring) (n : Nat) (u : UnitOp) : (s.forceOp r n u).2.canon := by
  unfold State.forceOp
  split
  · dsimp only
    split
    · exact capture_canon u h
    · exact h
  · exact h

@[simp] theorem State.forceOps_canon (r : Ring) (n : Nat) (us : List UnitOp) {s : State} (h : s.canon) : (s.forceOps r n us).2.canon := by
  induction us generalizing s with
  | nil => exact h
  | cons u us ih => exact ih (State.forceOp_canon h r n u)

@[simp] theorem execRadvHead_canonical (h : Ring) (n : Fin 128) {s : State} (hs : s.canon) : Canonical (execRadvHead h n s) := by
  refine (State.computing_canonical hs _).2 fun _ => State.ringCount_canonical hs _ _ ((State.when_canonical hs _ _).2 fun _ => ?_)
  split
  · simp [hs]
  · have h1 := State.forceOps_canon h n.val s.core.unit.ops hs
    dsimp only
    simp only [canonical_next, State.retire_canon, State.reheld_canon, canon_mk, Tile.setRing_slice]
    exact State.forceOps_canon h n.val _ h1

@[simp] theorem execRpsh_canonical (t : Option (Fin 4)) (h : Ring) (rep : Rep) {s : State} (hs : s.canon) : Canonical (execRpsh t h rep s) := by
  refine (State.staging_canonical hs _).2 fun _ => canonical_ite_of (by simp [hs]) ?_
  refine State.repeated_canonical hs _ _ _ _ _ _ _ fun j a b fin hfin => State.ringOk_canonical hs h (canonical_ite_of (by simp [hs]) ?_)
  exact (canonical_next _).2 (hfin _ (by simp [hs]))

@[simp] theorem execRpshSlotFilled_canonical {s : State} (h : s.canon) : Canonical (execRpshSlotFilled s) := by
  unfold execRpshSlotFilled
  split <;> simp [h]

@[simp] theorem execRtak_canonical (t : Option TReg) (h : Ring) (rep : Rep) (w : Fin 16) {s : State} (hs : s.canon) :
    Canonical (execRtak t h rep w s) := by
  refine (State.computing_canonical hs _).2 fun _ => canonical_ite_of (by simp [hs]) ?_
  refine State.repeated_canonical hs _ _ _ _ _ _ _ fun j a b fin hfin => State.ringOk_canonical hs h (canonical_ite_of (by simp [hs]) ?_)
  have hchk : Chk.canon (match t with | some _ => s.recallOwn ((s.tile.ring h).at 0) 1024 | none => .ok ()) fun _ => True := by
    cases t <;> simp [hs]
  refine (Chk.run_canonical_iff hchk hs).2 fun _ _ => ?_
  extract_lets o tl bs go
  have htl : tl.slice.wf = true := by
    cases t with
    | none => exact State.tile_wf hs
    | some _ => exact Tile.wf_ecc _ _ _ _ (State.tile_wf hs)
  have hgo : Canonical go := by
    refine (canonical_next _).2 (State.consume_canon _ _ _ (memsCanon_slice hs htl) (hfin _ ?_))
    cases t <;> exact memsCanon_slice hs (by simp [htl])
  exact canonical_ite_of hgo ((State.withEntry_canonical hs _).2 fun _ _ => hgo)

@[simp] theorem State.twoRings_canonical {s : State} (h : s.canon) (a b : Ring) {k : Out} (hk : Canonical k) : Canonical (s.twoRings a b k) :=
  canonical_ite_of (by simp [h]) hk

theorem mmaBind_canon {s : State} (h : s.canon) (a b : Ring) (m : MatX) (u : UnitOp) : (mmaBind a b m s u).canon fun x => x.2.canon := by
  simp only [mmaBind, Chk.bind_canon_iff, formatChk_canon, ringChk_canon, scaleChk_canon]
  exact fun _ _ _ _ _ _ _ _ => bindPair_canon h u a b _ _

@[simp] theorem State.mma_canonical {s : State} (i : Instr) (a b : Ring) (m : MatX) (h : s.canon) : Canonical (s.mma i a b m) :=
  (State.computing_canonical h _).2 fun _ => State.twoRings_canonical h a b (State.unitIssue_canonical h _ _ _ _ _ _ (mmaBind_canon h a b m))

@[simp] theorem execMmaAcc_canonical (d : AccR) (a b : Ring) (m : MatX) {s : State} (h : s.canon) : Canonical (execMmaAcc d a b m s) := by
  simp [execMmaAcc, h]

@[simp] theorem execMmaOvw_canonical (d : AccR) (a b : Ring) (m : MatX) {s : State} (h : s.canon) : Canonical (execMmaOvw d a b m s) := by
  simp [execMmaOvw, h]

@[simp] theorem execMmaKeepb_canonical (d : AccR) (a b : Ring) (m : MatX) {s : State} (h : s.canon) : Canonical (execMmaKeepb d a b m s) := by
  simp [execMmaKeepb, h]

@[simp] theorem execMmaKeepa_canonical (d : AccR) (a b : Ring) (m : MatX) {s : State} (h : s.canon) : Canonical (execMmaKeepa d a b m s) := by
  simp [execMmaKeepa, h]

theorem mmgBind_canon {s : State} (h : s.canon) (a b : Ring) (m : MatX) (u : UnitOp) : (mmgBind a b m s u).canon fun x => x.2.canon := by
  simp only [mmgBind, Chk.bind_canon_iff, formatChk_canon, ringChk_canon, scaleChk_canon]
  intro _ _ _ _ _ _ _ _
  split
  · exact h
  · split
    · trivial
    · refine (Chk.bind_canon_iff (by simp [h])).2 fun _ _ => ?_
      have ht : (s.tile.ecc s.fresh (u.gtb.toNat + 32 * (s.tile.ring a).slotNo (s.core.unit.offset u.ent a)) 32).slice.wf = true :=
        Tile.wf_ecc _ _ _ _ (State.tile_wf h)
      repeat' split
      · trivial
      · trivial
      · exact memsCanon_slice h ht
      · refine (Chk.bind_canon_iff (by simp [memsCanon_slice h ht])).2 fun _ _ => ?_
        exact memsCanon_slice h (readScales_wf ht _ _ _ _)

@[simp] theorem execMmg_canonical (d : AccR) (a b : Ring) (m : MatX) {s : State} (h : s.canon) : Canonical (execMmg d a b m s) :=
  (State.computing_canonical h _).2 fun _ => State.twoRings_canonical h a b (State.unitIssue_canonical h _ _ _ _ _ _ (mmgBind_canon h a b m))

@[simp] theorem execMmq_canonical (d : AccR) (a b : Ring) (wa wb : Fin 16) {s : State} (h : s.canon) : Canonical (execMmq d a b wa wb s) :=
  (State.computing_canonical h _).2 fun _ => canonical_ite_of (by simp [h])
    (State.twoRings_canonical h a b (State.unitIssue_canonical h _ _ _ _ _ _ (mmaBind_canon h a b _)))

@[simp] theorem State.unitIssue_noBind_canonical {s : State} (h : s.canon) (i : Instr) (rep : Rep) (ready : Bool) (cap : Word)
    (buf : List PByte) : Canonical (s.unitIssue i rep ready cap buf noBind) :=
  State.unitIssue_canonical h i rep ready cap buf noBind fun u => noBind_canon u h

@[simp] theorem execMacz_canonical (d : AccR) {s : State} (h : s.canon) : Canonical (execMacz d s) := by
  simp [execMacz, h]

@[simp] theorem execMacrdF32_canonical (t : TReg) (a : AccR) {s : State} (h : s.canon) : Canonical (execMacrdF32 t a s) := by
  simp [execMacrdF32, h]

@[simp] theorem execMacrdBf16_canonical (t : TReg) (half : Fin 2) (a : AccR) {s : State} (h : s.canon) : Canonical
    (execMacrdBf16 t half a s) := by
  simp [execMacrdBf16, h]

@[simp] theorem execMacrdT8_canonical (t : TReg) (quarter : Fin 4) (a : AccR) (c : SReg) {s : State} (h : s.canon) : Canonical
    (execMacrdT8 t quarter a c s) := by
  simp [execMacrdT8, h]

@[simp] theorem execMacwr_canonical (d : AccR) (t : TReg) {s : State} (h : s.canon) : Canonical (execMacwr d t s) := by
  simp [execMacwr, h]

@[simp] theorem execMtr_canonical (d a : AccR) {s : State} (h : s.canon) : Canonical (execMtr d a s) := by
  simp [execMtr, h]

@[simp] theorem State.mwait_canonical {s : State} (n : Option Nat) (h : s.canon) : Canonical (s.mwait n) := by
  simp [State.mwait, h]

@[simp] theorem execMwait0_canonical {s : State} (h : s.canon) : Canonical (execMwait0 s) := by
  simp [execMwait0, h]

@[simp] theorem execMwait1_canonical {s : State} (h : s.canon) : Canonical (execMwait1 s) := by
  simp [execMwait1, h]

@[simp] theorem execMwait2_canonical {s : State} (h : s.canon) : Canonical (execMwait2 s) := by
  simp [execMwait2, h]

@[simp] theorem execMwait3_canonical {s : State} (h : s.canon) : Canonical (execMwait3 s) := by
  simp [execMwait3, h]

@[simp] theorem execMwait4_canonical {s : State} (h : s.canon) : Canonical (execMwait4 s) := by
  simp [execMwait4, h]

@[simp] theorem execMwait5_canonical {s : State} (h : s.canon) : Canonical (execMwait5 s) := by
  simp [execMwait5, h]

@[simp] theorem execMwait6_canonical {s : State} (h : s.canon) : Canonical (execMwait6 s) := by
  simp [execMwait6, h]

@[simp] theorem execMwait7_canonical {s : State} (h : s.canon) : Canonical (execMwait7 s) := by
  simp [execMwait7, h]

@[simp] theorem execMwaitAll_canonical {s : State} (h : s.canon) : Canonical (execMwaitAll s) := by
  simp [execMwaitAll, h]

@[simp] theorem execChkv_canonical (d : SReg) (a : AccR) {s : State} (h : s.canon) : Canonical (execChkv d a s) := by
  simp [execChkv, h]

@[simp] theorem execCfix_canonical (d : SReg) (a : AccR) {s : State} (h : s.canon) : Canonical (execCfix d a s) := by
  simp [execCfix, h]

@[simp] theorem execCsrd_canonical (d : SReg) (a : AccR) (b : SReg) {s : State} (h : s.canon) : Canonical (execCsrd d a b s) := by
  simp [execCsrd, h]

theorem State.atCore_canon {s : State} (h : s.canon) (id : TileId) (k : CoreSel) {f : State → State}
    (hf : ∀ t : State, t.canon → (f t).canon) : (s.atCore id k f).canon := by
  exact State.focusOn_canon (hf _ (State.focusOn_canon h id k)) _ _

@[simp] theorem execMmqRendezvous_canonical {s : State} (h : s.canon) : Canonical (execMmqRendezvous s) := by
  unfold execMmqRendezvous
  split
  · simp [h]
  · refine canonical_ite_of ((canonical_next _).2 (foldl_keeps State.canon _ (fun t d ht => by simp [ht]) _ _ h)) ?_
    refine (canonical_next _).2 (foldl_keeps State.canon _ (fun t m ht => State.atCore_canon ht _ _ fun v hv => ?_) _ _ h)
    split
    · exact capture_canon m.2 hv
    · simp [hv]

theorem State.mmqEnd_canon {s : State} (h : s.canon) (us : List (TileId × UnitOp)) (k : Nat) (commit : UnitOp → UnitOut → State → Bool → State)
    (hc : ∀ u o (t : State) b, t.canon → (commit u o t b).canon) : (s.mmqEnd us k commit).canon := by
  unfold State.mmqEnd
  extract_lets bs outs hit
  split
  · refine foldl_keeps State.canon _ (fun t m ht => State.atCore_canon ht _ _ fun v hv => ?_) _ _ h
    split <;> simp [hv]
  · exact foldl_keeps State.canon _ (fun t m ht => State.atCore_canon ht _ _ fun v hv => endUnit_canon hv _ _ _ (hc _ _)) _ _ h

@[simp] theorem execMmqRetireSignal_canonical {s : State} (h : s.canon) : Canonical (execMmqRetireSignal s) := by
  unfold execMmqRetireSignal
  split
  · simp [h]
  · exact (canonical_next _).2 (State.mmqEnd_canon h _ _ _ fun u o t b ht => by simp [ht])

@[simp] theorem State.mmqHalt_canon {s : State} (h : s.canon) : s.mmqHalt.canon := by
  unfold State.mmqHalt
  split
  · exact h
  · dsimp only
    split
    · exact State.mmqEnd_canon h _ _ _ fun u o t b ht => by simp [ht]
    · exact State.mmqEnd_canon h _ _ _ fun u o t b ht => by simp [ht]

@[simp] theorem execMmqTimeout_canonical {s : State} (h : s.canon) : Canonical (execMmqTimeout s) := by
  unfold execMmqTimeout
  split <;> simp [h]

end Sys2Proof.Machine
end

section
/-! SUPPORT. The canonical form through the copy engine, storage commands, collectives and activations. -/

namespace Sys2Proof.Machine

@[simp] theorem State.setCopy_canon (s : State) (n : Fin 8) (x : CopyEntry) : (s.setCopy n x).canon ↔ s.canon := Iff.rfl

theorem State.firstPage_canon {s : State} (h : s.canon) (p : Word) (write : Bool) : (s.firstPage p write).canon State.canon := by
  unfold State.firstPage
  dsimp only
  repeat' split
  · exact Chk.bind_canon (translate_canon _ _ _ _ h) fun _ hr => hr
  · exact Chk.bind_canon (State.resolve_canon h _ _ _) fun _ hr => hr
  · exact h

theorem State.endChk_canon {s : State} (h : s.canon) (p : Word) (span : Option (Int × Int)) (first : Int) (write : Bool) :
    (s.endChk p span first write).canon State.canon := by
  unfold State.endChk
  dsimp only
  repeat' split
  any_goals trivial
  exact State.firstPage_canon h _ _

theorem State.copyChk_canon {s : State} (h : s.canon) (mode : Nat) (d : List Word) : (s.copyChk mode d).canon State.canon := by
  unfold State.copyChk
  extract_lets
  refine (Chk.bind_canon_iff (by split <;> simp [h])).2 fun _ _ => ?_
  refine Chk.bind_canon (State.endChk_canon h _ _ _ _) fun t ht => Chk.bind_canon (P := State.canon) ?_ fun v hv => ?_
  · split
    · exact ht
    · exact State.endChk_canon ht _ _ _ _
  · split
    · split
      · trivial
      · split
        · trivial
        · exact State.endChk_canon hv _ _ _ _
    · exact hv

@[simp] theorem State.cpy_canonical {s : State} (mode : Nat) (d a : SReg) (x : Option Xsc) (h : s.canon) : Canonical (s.cpy mode d a x) := by
  unfold State.cpy
  refine canonical_ite_of (by simp [h]) ?_
  extract_lets q n t s1 desc
  refine canonical_ite_of (by simp [h]) ((Chk.run_canonical_iff (by simp [h]) h).2 fun _ _ => ?_)
  have h1 : s1.canon := memsCanon_slice h (Tile.wf_ecc _ _ _ _ (State.tile_wf h))
  refine canonical_ite_of (by simp [h1]) (canonical_ite_of (by simp [h1]) (Chk.run_canonical (State.copyChk_canon h1 _ _) h1 fun v hv => ?_))
  refine canonical_ite_of (by simp [hv]) (canonical_ite_of (by simp [hv]) ?_)
  split <;> simp [hv]

@[simp] theorem execCpy_canonical (d a : SReg) (x : Option Xsc) {s : State} (h : s.canon) : Canonical (execCpy d a x s) :=
  (State.staging_canonical h _).2 fun _ => State.cpy_canonical _ _ _ _ h

@[simp] theorem execCpy2d_canonical (d a : SReg) (x : Option Xsc) {s : State} (h : s.canon) : Canonical (execCpy2d d a x s) :=
  (State.staging_canonical h _).2 fun _ => State.cpy_canonical _ _ _ _ h

@[simp] theorem execCpyGth_canonical (d a : SReg) (x : Option Xsc) {s : State} (h : s.canon) : Canonical (execCpyGth d a x s) :=
  (State.staging_canonical h _).2 fun _ => State.cpy_canonical _ _ _ _ h

@[simp] theorem execCpyRing_canonical (d a : SReg) (x : Option Xsc) {s : State} (h : s.canon) : Canonical (execCpyRing d a x s) :=
  (State.staging_canonical h _).2 fun _ => State.cpy_canonical _ _ _ _ h

@[simp] theorem State.missPromise_canonical {s : State} (n : Fin 8) (h : s.canon) : Canonical (s.missPromise n) := by
  simp [State.missPromise, h]

@[simp] theorem execWaitp_canonical (d a : SReg) {s : State} (h : s.canon) : Canonical (execWaitp d a s) := by
  simp [execWaitp, h]

@[simp] theorem execPromiseDeadline_canonical (tag : Fin 8) {s : State} (h : s.canon) : Canonical (execPromiseDeadline tag s) := by
  simp [execPromiseDeadline, h]

@[simp] theorem execCopyOperationStart_canonical {s : State} (h : s.canon) : Canonical (execCopyOperationStart s) := by
  refine canonical_ite_of (by simp [h]) ?_
  split <;> simp [h]

@[simp] theorem execCopyRingRoom_canonical {s : State} (h : s.canon) : Canonical (execCopyRingRoom s) := by
  unfold execCopyRingRoom
  split <;> simp [h]

@[simp] theorem State.modOwn_canon (s : State) (k : CoreSel) (f : Core → Core) : (s.modOwn k f).canon ↔ s.canon := by
  simp [State.modOwn]

@[simp] theorem State.placeWord_canon {s : State} (k : CoreSel) (q1 : Bool) (w : Word) (h : s.canon) : (s.placeWord k q1 w).canon := by
  simp [State.placeWord, h]

@[simp] theorem State.endCopy_canon {s : State} (i : Fin 8) (stat : Nat) (h : s.canon) : (s.endCopy i stat).canon := by
  simp [State.endCopy, h]

@[simp] theorem execCopyChunkTransfer_canonical {s : State} (h : s.canon) : Canonical (execCopyChunkTransfer s) := by
  unfold execCopyChunkTransfer
  split
  · simp [h]
  · rename_i i _
    extract_lets x t s1
    have h1 : s1.canon := by
      refine memsCanon_slice h (m' := t.slice) ?_
      by_cases hm : x.mode = 2
      · simpa [t, hm] using Tile.wf_ecc _ _ _ _ (State.tile_wf h)
      · simp [t, hm, h]
    refine canonical_ite_of (by simp [h]) ?_
    split
    · simp [h]
    · split
      · simp [h1]
      · extract_lets ps qs
        clear_value ps qs
        split
        · refine canonical_ite_of (by simp [h1]) ?_
          split
          · simp [h1]
          · split
            · simp [h1]
            · refine canonical_ite_of (by simp [h1]) ((canonical_next _).2 ?_)
              exact (State.setCopy_canon _ _ _).2 (State.chargeParts_canon _ (State.writeParts_canon _ _ (State.readParts_canon _ h1)))
        · simp [h1]

@[simp] theorem execCopyOperationEnd_canonical {s : State} (h : s.canon) : Canonical (execCopyOperationEnd s) := by
  unfold execCopyOperationEnd
  split
  · simp [h]
  · refine canonical_ite_of (by simp [h]) ((canonical_next _).2 (State.endCopy_canon _ _ ?_))
    split
    · exact State.atCore_canon h _ _ fun t ht => by simp [ht]
    · exact h

@[simp] theorem execCompletionPlaceDeferred_canonical {s : State} (h : s.canon) : Canonical (execCompletionPlaceDeferred s) := by
  unfold execCompletionPlaceDeferred
  (repeat' split) <;> simp [h]

@[simp] theorem State.blockAt_canon {s : State} (h : s.canon) (p tva : Word) (n align : Nat) :
    (s.blockAt p tva n align).canon fun _ => True := by
  unfold State.blockAt
  split
  · trivial
  · refine (Chk.bind_canon_iff (by simp [h])).2 fun _ _ => ?_
    split <;> trivial

@[simp] theorem State.bufChk_canon (s : State) (a : SReg) (ok : Word → Bool) (len : Nat → Bool) :
    (s.bufChk a ok len).canon fun _ => True := by
  unfold State.bufChk
  simp

@[simp] theorem State.kvIssue_canonical {s : State} (op : Nat) (d : SReg) (base len maxKeys : Nat) (blk : List Nat) (h : s.canon) :
    Canonical (s.kvIssue op d base len maxKeys blk) := by
  simp [State.kvIssue, h]

@[simp] theorem State.kv_canonical {s : State} (op : Nat) (d a b : SReg) (ok : Word → Bool) (len : Nat → Bool) (h : s.canon) :
    Canonical (s.kv op d a b ok len) := by
  refine canonical_ite_of (by simp [h]) ((Chk.run_canonical_iff (by simp [h]) h).2 fun _ _ => canonical_ite_of (by simp [h]) ?_)
  exact (Chk.run_canonical_iff (by simp) h).2 fun _ _ => by simp [h]

@[simp] theorem State.unpaired_canonical {s : State} (h : s.canon) {k : Out} (hk : Canonical k) : Canonical (s.unpaired k) :=
  canonical_ite_of (by simp [h]) hk

@[simp] theorem execKvget_canonical (d a b : SReg) {s : State} (h : s.canon) : Canonical (execKvget d a b s) := by
  simp [execKvget, h]

@[simp] theorem execKvset_canonical (d a b : SReg) {s : State} (h : s.canon) : Canonical (execKvset d a b s) := by
  simp [execKvset, h]

@[simp] theorem execKvlst_canonical (d a b : SReg) {s : State} (h : s.canon) : Canonical (execKvlst d a b s) := by
  simp [execKvlst, h]

@[simp] theorem execKvdel_canonical (d b : SReg) {s : State} (h : s.canon) : Canonical (execKvdel d b s) := by
  refine (State.staging_canonical h _).2 fun _ => State.unpaired_canonical h (canonical_ite_of (by simp [h]) ?_)
  exact (Chk.run_canonical_iff (by simp [h]) h).2 fun _ _ => by simp [h]

@[simp] theorem State.kvPerform_canon {s : State} (k : KvOp) (bs : List Byte) (h : s.canon) : (s.kvPerform k bs).canon := by
  refine State.chargeTile_canon _ _ _ _ _ ?_
  split
  · exact h
  · exact State.putCtx_canon h _ _ (Ctx.farStore_canon _ _ _ _ (State.ctx_canon h _))

theorem State.onTeamTile_canon {s : State} (hs : s.canon) (ctx tag launch : Nat) (h : W32) {f : FullTile → FullTile}
    (hf : ∀ u, u.tile.slice.wf = true → (f u).tile.slice.wf = true) : (s.onTeamTile ctx tag launch h f).canon := by
  unfold State.onTeamTile
  split
  · exact hs
  · split
    · exact State.mapTiles_canon hs _ _ hf
    · refine memsCanon_teams hs fun t ht u hu => ?_
      obtain ⟨v, hv, rfl⟩ := List.mem_map.1 ht
      split at hu
      · obtain ⟨w, hw, rfl⟩ := List.mem_map.1 hu
        split
        · exact hf w (State.dock_wf hs hv hw)
        · exact State.dock_wf hs hv hw
      · exact State.dock_wf hs hv hu

@[simp] theorem FullTile.setCore_slice (u : FullTile) (k : CoreSel) (c : Core) : (u.setCore k c).tile.slice = u.tile.slice := by
  cases k <;> rfl

@[simp] theorem State.kvEnd_canon {s : State} (k : KvOp) (ans : KvAnswer) (h : s.canon) : (s.kvEnd k ans).canon :=
  State.onTeamTile_canon (State.kvPerform_canon k _ (by simp [h])) _ _ _ _ fun u hu => by simp [hu]

@[simp] theorem execStorageCommandComplete_canonical (tag : BitVec 16) (ans : KvAnswer) {s : State} (h : s.canon) : Canonical
    (execStorageCommandComplete tag ans s) := by
  unfold execStorageCommandComplete
  split <;> simp [h]

@[simp] theorem State.collCap_canon (s : State) (e o : Word) (perm : Bool) (need : Nat) (P : Unit → Prop) (hP : P ()) :
    (s.collCap e o perm need).canon P := by
  simp [State.collCap, hP]

@[simp] theorem State.collChk_canon (s : State) (p : Word) (c : CollDesc) (kind : Nat) (g : Option Group) :
    (s.collChk p c kind g).canon fun _ => True := by
  unfold State.collChk
  split
  · trivial
  · extract_lets
    split
    · trivial
    · refine (Chk.bind_canon_iff (by split <;> simp)).2 fun _ _ => (Chk.bind_canon_iff (by simp)).2 fun _ _ => ?_
      simp

@[simp] theorem State.putOp_canon (s : State) (o : CollOp) : (s.putOp o).canon ↔ s.canon := Iff.rfl

@[simp] theorem FullTile.collEnd_wf {u : FullTile} (h : u.tile.slice.wf = true) (o : CollOp) (w : Word) (rep : List Word) :
    (u.collEnd o w rep).tile.slice.wf = true := by
  have ht : (if rep.isEmpty then u.tile else
      u.tile.store 0 o.report (plain ((rep.map fun x => leBytes 8 x.toNat).flatten))).slice.wf = true := by
    split
    · exact h
    · exact Tile.wf_store _ _ _ _ h
  unfold FullTile.collEnd
  extract_lets t t2 t3
  split
  · exact (congrArg Memory.wf (FullTile.setCore_slice ..)).trans ht
  · exact ht

@[simp] theorem State.collFinish_canon {s : State} (o : CollOp) (stat : Nat) (h : s.canon) : (s.collFinish o stat).canon :=
  State.onTeamTile_canon (by simp [h]) _ _ _ _ fun u hu => FullTile.collEnd_wf hu _ _ _

@[simp] theorem State.writeBlock_canon {s : State} (o : CollOp) (b : Nat) (bs : List PByte) (h : s.canon) : (s.writeBlock o b bs).canon := by
  refine (State.putOp_canon _ _).2 (State.chargeTile_canon _ _ _ _ _ ?_)
  split <;> simp [h]

@[simp] theorem State.pushBlock_canon {s : State} (o : CollOp) (b : Nat) (h : s.canon) : (s.pushBlock o b).canon := by
  unfold State.pushBlock
  extract_lets e w x x1 x2
  split
  · exact h
  · extract_lets s1 u _ _ _ u1
    have hx : x2.canon := foldl_keeps Ctx.canon _ (fun x r hx => Ctx.farStore_canon _ _ _ _ hx) _ _ (State.ctx_canon h _)
    have h1 : s1.canon := (State.putOp_canon _ _).2 (State.putCtx_canon h _ _ hx)
    exact State.putTile_canon h1 u1 (State.tileAt_wf h1 _)

@[simp] theorem State.closeWindow_canon {s : State} (o : CollOp) (h : s.canon) : (s.closeWindow o).canon := by
  refine State.shootDown_canon _ _ (State.putCtx_canon h _ _ ?_)
  obtain ⟨hedge, hnet, hsh, hf⟩ := State.ctx_canon h (gateCtx (o.slot / 1024))
  exact ⟨hedge, Memory.wf_copyRange _ _ _ _ rfl hnet, hsh, hf⟩

theorem collStep_canon (n slot : Nat) {s : State} (h : s.canon) : (collStep n slot s).canon := by
  induction n generalizing s with
  | zero => exact h
  | succ n ih =>
    unfold collStep
    split
    · exact h
    · split
      · split
        · split <;> simp [h]
        · exact ih (State.writeBlock_canon _ _ _ h)
      · split <;> simp [h]

@[simp] theorem State.collGo_canon {s : State} (slot : Nat) (h : s.canon) : (s.collGo slot).canon := by
  unfold State.collGo
  split
  · exact collStep_canon _ _ h
  · exact h

@[simp] theorem State.collPost_canonical {s : State} (kind : Nat) (d a : SReg) (x : Option Xsc) (h : s.canon) :
    Canonical (s.collPost kind d a x) := by
  refine State.unpaired_canonical h (canonical_ite_of (by simp [h]) ((Chk.run_canonical_iff (by simp [h]) h).2 fun b _ => ?_))
  refine (Chk.run_canonical_iff (by simp) h).2 fun _ _ => canonical_ite_of (by simp [h]) ?_
  extract_lets e mine quota
  split
  · refine canonical_ite_of (by simp [h]) ((canonical_next _).2 (State.collGo_canon _ (State.charge_canon _ _ ?_)))
    simp [h]
  · simp [h]

@[simp] theorem execCollRed_canonical (d a : SReg) (x : Option Xsc) {s : State} (h : s.canon) : Canonical (execCollRed d a x s) := by
  simp [execCollRed, h]

@[simp] theorem execCollBcst_canonical (d a : SReg) (x : Option Xsc) {s : State} (h : s.canon) : Canonical (execCollBcst d a x s) := by
  simp [execCollBcst, h]

@[simp] theorem execCollAgth_canonical (d a : SReg) (x : Option Xsc) {s : State} (h : s.canon) : Canonical (execCollAgth d a x s) := by
  simp [execCollAgth, h]

@[simp] theorem execCollContributionArrival_canonical (slot : Nat) (c : CollContribution) {s : State} (h : s.canon) :
    Canonical (execCollContributionArrival slot c s) := by
  unfold execCollContributionArrival
  split
  · simp [h]
  · split
    · refine (canonical_next _).2 (State.collFinish_canon _ _ ?_)
      split <;> simp [h]
    · exact canonical_ite_of (by simp [h]) (by simp [h])

@[simp] theorem State.collGive_canon {s : State} (o : CollOp) (h : s.canon) : (s.collGive o).canon := by
  unfold State.collGive
  split <;> simp [h]

@[simp] theorem execCollTimeout_canonical (slot : Nat) {s : State} (h : s.canon) : Canonical (execCollTimeout slot s) := by
  unfold execCollTimeout
  split <;> simp [h]

@[simp] theorem execCollPeerLost_canonical (slot member : Nat) {s : State} (h : s.canon) : Canonical (execCollPeerLost slot member s) := by
  unfold execCollPeerLost
  split
  · simp [h]
  · split <;> simp [h]

@[simp] theorem State.blockLost_canon {s : State} (o : CollOp) (b : Nat) (h : s.canon) : (s.blockLost o b).canon :=
  State.collGo_canon _ ((State.putOp_canon _ _).2 (State.closeWindow_canon _ h))

@[simp] theorem execGatewayIndexReturn_canonical {s : State} (h : s.canon) : Canonical (execGatewayIndexReturn s) := by
  unfold execGatewayIndexReturn
  split
  · extract_lets _ _ s1 slot b stat
    have h1 : s1.canon := h
    split
    · exact (canonical_next _).2 h1
    · split
      · exact (canonical_next _).2 h1
      · refine canonical_ite_of ((canonical_next _).2 h1) (canonical_ite_of ?_ ?_)
        · exact (canonical_next _).2 (State.collGo_canon _ (State.writeBlock_canon _ _ _ (State.closeWindow_canon _ h1)))
        · exact (canonical_next _).2 (State.blockLost_canon _ _ h1)
  · simp [h]

@[simp] theorem execGatewayIndexTimeout_canonical (slot block : Nat) {s : State} (h : s.canon) : Canonical
    (execGatewayIndexTimeout slot block s) := by
  unfold execGatewayIndexTimeout
  split
  · simp [h]
  · exact (canonical_next _).2 (State.blockLost_canon _ _ h)

@[simp] theorem State.collAgain_canon {s : State} (h : s.canon) : s.collAgain.canon := by
  unfold State.collAgain
  split
  · exact foldl_keeps State.canon _ (fun t o ht => State.collGo_canon _ ht) _ _ h
  · exact h

@[simp] theorem State.branch_canonical {s : State} (reads : List SReg) (taken : Bool) (imm : Int) (h : s.canon) : Canonical
    (s.branch reads taken imm) := by
  simp [State.branch, h]

@[simp] theorem execBra_canonical (imm : Int) {s : State} (h : s.canon) : Canonical (execBra imm s) := by
  simp [execBra, h]

@[simp] theorem execBz_canonical (d : SReg) (imm : Int) {s : State} (h : s.canon) : Canonical (execBz d imm s) := by
  simp [execBz, h]

@[simp] theorem execBnz_canonical (d : SReg) (imm : Int) {s : State} (h : s.canon) : Canonical (execBnz d imm s) := by
  simp [execBnz, h]

@[simp] theorem execBccEq_canonical (a b : SReg) (imm : Int) {s : State} (h : s.canon) : Canonical (execBccEq a b imm s) := by
  simp [execBccEq, h]

@[simp] theorem execBccNe_canonical (a b : SReg) (imm : Int) {s : State} (h : s.canon) : Canonical (execBccNe a b imm s) := by
  simp [execBccNe, h]

@[simp] theorem execBccLt_canonical (a b : SReg) (imm : Int) {s : State} (h : s.canon) : Canonical (execBccLt a b imm s) := by
  simp [execBccLt, h]

@[simp] theorem execBccGe_canonical (a b : SReg) (imm : Int) {s : State} (h : s.canon) : Canonical (execBccGe a b imm s) := by
  simp [execBccGe, h]

@[simp] theorem execBccuLtu_canonical (a b : SReg) (imm : Int) {s : State} (h : s.canon) : Canonical (execBccuLtu a b imm s) := by
  simp [execBccuLtu, h]

@[simp] theorem execBccuGeu_canonical (a b : SReg) (imm : Int) {s : State} (h : s.canon) : Canonical (execBccuGeu a b imm s) := by
  simp [execBccuGeu, h]

@[simp] theorem execLoop_canonical (d : SReg) (imm : Int) {s : State} (h : s.canon) : Canonical (execLoop d imm s) := by
  simp [execLoop, h]

@[simp] theorem execJr_canonical (a : SReg) {s : State} (h : s.canon) : Canonical (execJr a s) := by
  simp [execJr, h]

@[simp] theorem State.callTo_canon (s : State) (target : Word) : (s.callTo target).canon ↔ s.canon := Iff.rfl

@[simp] theorem execCall_canonical (imm : Int) {s : State} (h : s.canon) : Canonical (execCall imm s) := by
  simp [execCall, h]

@[simp] theorem execCallr_canonical (a : SReg) {s : State} (h : s.canon) : Canonical (execCallr a s) := by
  simp [execCallr, h]

@[simp] theorem execRet_canonical {s : State} (h : s.canon) : Canonical (execRet s) := by
  simp [execRet, h]

@[simp] theorem execNop_canonical {s : State} (h : s.canon) : Canonical (execNop s) := by
  simp [execNop, h]

@[simp] theorem execBrk_canonical {s : State} (h : s.canon) : Canonical (execBrk s) := by
  simp [execBrk, h]

@[simp] theorem State.endActivation_canon (s : State) : (s.endActivation).canon ↔ s.canon := by
  simp [State.endActivation]

@[simp] theorem execEndAct_canonical {s : State} (h : s.canon) : Canonical (execEndAct s) := by
  simp [execEndAct, h]

@[simp] theorem execEndTeam_canonical {s : State} (h : s.canon) : Canonical (execEndTeam s) := by
  refine canonical_ite_of (by simp [h]) (canonical_ite_of ((canonical_next _).2 ?_) (by simp [h]))
  refine memsCanon_teams ((State.endActivation_canon _).2 h) fun t ht u hu => ?_
  obtain ⟨v, hv, rfl⟩ := List.mem_map.1 ht
  refine State.dock_wf ((State.endActivation_canon _).2 h) hv ?_
  split at hu <;> exact hu

theorem Tile.scrambled_wf (t : Tile) (fresh : Nat) : (t.scrambled fresh).slice.wf = true :=
  wf_scramble _ _ _ _ [] rfl fun _ h => nomatch h

theorem Tile.atStart_wf {t : Tile} (h : t.slice.wf = true) (fresh : Nat) : (t.atStart fresh).slice.wf = true := by
  show (if _ then _ else _ : Memory).wf = true
  split
  · exact Tile.scrambled_wf t _
  · exact h

@[simp] theorem execActivationStart_canonical {s : State} (h : s.canon) : Canonical (execActivationStart s) := by
  refine canonical_ite_of (by simp [h]) ?_
  split
  · simp [h]
  · exact (canonical_next _).2 ((State.traceRec_canon _ _ _).2 (memsCanon_slice h (Tile.atStart_wf (State.tile_wf h) _)))

end Sys2Proof.Machine
end

section
/-! SUPPORT. The canonical form through atomics, phasers, barriers, the delivery of packets at a tile, reliability and images. -/

namespace Sys2Proof.Machine

theorem Tile.atomic_wf {t : Tile} (h : t.slice.wf = true) (fresh : Nat) (op : AtomOp) (w : Bool) (o : Nat) (x e : Word) :
    (t.atomic fresh op w o x e).2.slice.wf = true := by
  unfold Tile.atomic
  extract_lets n u old
  have ht : u.slice.wf = true := Tile.wf_ecc t fresh o n h
  split
  · exact ht
  · split
    · exact Tile.wf_store _ _ _ _ ht
    · exact ht

theorem State.atomPtr_canon {s : State} (h : s.canon) (x : Word) (n : Nat) : (s.atomPtr x n).canon fun y => y.2.2.canon := by
  refine (Chk.bind_canon_iff (by simp)).2 fun p _ => ?_
  dsimp only
  repeat' split
  any_goals trivial
  exact Chk.bind_canon (State.resolve_canon h _ _ _) fun _ hr => hr

@[simp] theorem State.atomHeld_canon (s : State) (i : Instr) (n : Fin 8) (p x e : Word) (acq : Bool) (r : AtomRes) :
    (s.atomHeld i n p x e acq r).canon ↔ s.canon := Iff.rfl

@[simp] theorem State.atomSend_canonical {s : State} (i : Instr) (p x e : Word) (op : AtomOp) (w : Bool) (ep : Endpoint) (o : Nat)
    (leasable acq : Bool) (back : List Lease) (folded : List Word) (h : s.canon) :
    Canonical (s.atomSend i p x e op w ep o leasable acq back folded) := by
  refine (State.withEntry_canonical h _).2 fun n _ => State.send_canonical h _ _ fun t ht => ?_
  dsimp only
  split <;> simp [ht]

@[simp] theorem State.atomicOp_canonical {s : State} (i : Instr) (d a b : SReg) (w : Bool) (x : Option Xsc) (op : AtomOp) (m c : Nat)
    (h : s.canon) : Canonical (s.atomicOp i d a b w x op m c) := by
  refine canonical_ite_of (by simp [h]) (Chk.run_canonical (State.atomPtr_canon h _ _) h fun y hy => ?_)
  obtain ⟨p, t, s1⟩ := y
  have h1 : s1.canon := hy
  refine canonical_ite_of (by simp [h1]) ?_
  dsimp only
  split
  · refine canonical_ite_of (by simp [h1]) ?_
    split
    · simp [h1]
    · refine (State.withEntry_canonical h1 _).2 fun k _ => (canonical_next _).2 ((State.atomHeld_canon ..).2 ((State.fold_canon _ _).2 ?_))
      exact memsCanon_slice h1 (Tile.atomic_wf (State.tile_wf h1) _ _ _ _ _ _)
  · split
    · refine canonical_ite_of (by simp [h1]) (canonical_ite_of (by simp [h1]) ?_)
      exact (State.withEntry_canonical h1 _).2 fun k _ => (canonical_next _).2 ((State.atomHeld_canon ..).2 ((State.fold_canon _ _).2 h1))
    · exact canonical_ite_of (by simp [h1]) (by simp [h1])
  · split <;> simp [h1]
  · simp [h1]

@[simp] theorem execAmoaAdd_canonical (d a b : SReg) (w : Bool) (x : Option Xsc) {s : State} (h : s.canon) : Canonical
    (execAmoaAdd d a b w x s) := by
  simp [execAmoaAdd, h]

@[simp] theorem execAmoaAnd_canonical (d a b : SReg) (w : Bool) (x : Option Xsc) {s : State} (h : s.canon) : Canonical
    (execAmoaAnd d a b w x s) := by
  simp [execAmoaAnd, h]

@[simp] theorem execAmoaOr_canonical (d a b : SReg) (w : Bool) (x : Option Xsc) {s : State} (h : s.canon) : Canonical
    (execAmoaOr d a b w x s) := by
  simp [execAmoaOr, h]

@[simp] theorem execAmoaXor_canonical (d a b : SReg) (w : Bool) (x : Option Xsc) {s : State} (h : s.canon) : Canonical
    (execAmoaXor d a b w x s) := by
  simp [execAmoaXor, h]

@[simp] theorem execAmobMin_canonical (d a b : SReg) (w : Bool) (x : Option Xsc) {s : State} (h : s.canon) : Canonical
    (execAmobMin d a b w x s) := by
  simp [execAmobMin, h]

@[simp] theorem execAmobMax_canonical (d a b : SReg) (w : Bool) (x : Option Xsc) {s : State} (h : s.canon) : Canonical
    (execAmobMax d a b w x s) := by
  simp [execAmobMax, h]

@[simp] theorem execAmobMinu_canonical (d a b : SReg) (w : Bool) (x : Option Xsc) {s : State} (h : s.canon) : Canonical
    (execAmobMinu d a b w x s) := by
  simp [execAmobMinu, h]

@[simp] theorem execAmobMaxu_canonical (d a b : SReg) (w : Bool) (x : Option Xsc) {s : State} (h : s.canon) : Canonical
    (execAmobMaxu d a b w x s) := by
  simp [execAmobMaxu, h]

@[simp] theorem execAmobSwap_canonical (d a b : SReg) (w : Bool) (x : Option Xsc) {s : State} (h : s.canon) : Canonical
    (execAmobSwap d a b w x s) := by
  simp [execAmobSwap, h]

@[simp] theorem execCasW_canonical (d a b : SReg) (x : Option Xsc) {s : State} (h : s.canon) : Canonical (execCasW d a b x s) := by
  simp [execCasW, h]

@[simp] theorem execCasD_canonical (d a b : SReg) (x : Option Xsc) {s : State} (h : s.canon) : Canonical (execCasD d a b x s) := by
  simp [execCasD, h]

theorem State.phSend_canonical {s : State} (h : s.canon) (ep : Endpoint) (bs : List Body) (ent : Nat) (k : State → Out)
    (hk : ∀ t : State, t.canon → Canonical (k t)) : Canonical (s.phSend ep bs ent k) := by
  unfold State.phSend
  refine State.send_canonical h _ _ fun t ht => ?_
  split <;> exact hk _ ht

@[simp] theorem execPhnew_canonical (d a : SReg) {s : State} (h : s.canon) : Canonical (execPhnew d a s) := by
  unfold execPhnew
  (repeat' split) <;> simp [h]

@[simp] theorem execPhreg_canonical (d a b : SReg) {s : State} (h : s.canon) : Canonical (execPhreg d a b s) := by
  refine canonical_ite_of (by simp [h]) (canonical_ite_of (by simp [h]) (canonical_ite_of (by simp [h]) ?_))
  refine canonical_ite_of (by simp [h]) (canonical_ite_of (by simp [h]) ?_)
  split
  · simp [h]
  · refine (State.withEntry_canonical h _).2 fun n _ => State.phSend_canonical h _ _ _ _ fun t ht => ?_
    simp [ht]

@[simp] theorem execPhqry_canonical (d a : SReg) {s : State} (h : s.canon) : Canonical (execPhqry d a s) := by
  refine canonical_ite_of (by simp [h]) (canonical_ite_of (by simp [h]) ?_)
  dsimp only
  split
  · simp [h]
  · refine (State.withEntry_canonical h _).2 fun n _ => State.phSend_canonical h _ _ _ _ fun t ht => ?_
    simp [ht]

@[simp] theorem execPhdrop_canonical (d a : SReg) {s : State} (h : s.canon) : Canonical (execPhdrop d a s) := by
  refine canonical_ite_of (by simp [h]) ?_
  dsimp only
  split
  · simp [h]
  · refine canonical_ite_of (by simp [h]) ?_
    split
    · simp [h]
    · exact State.phSend_canonical h _ _ _ _ fun t ht => by simp [ht]

@[simp] theorem execPharr_canonical (d a : SReg) (o : Option Order) {s : State} (h : s.canon) : Canonical (execPharr d a o s) := by
  refine canonical_ite_of (by simp [h]) ?_
  dsimp only
  split
  · simp [h]
  · refine canonical_ite_of (by simp [h]) (canonical_ite_of (by simp [h]) ?_)
    split
    · simp [h]
    · exact State.phSend_canonical h _ _ _ _ fun t ht => by simp [ht]

@[simp] theorem State.phWaitEntry_canon (s : State) (i : Instr) (id : Word) (q : BitVec 16) (acq : Bool) (n : Fin 8) :
    (s.phWaitEntry i id q acq n).canon ↔ s.canon := Iff.rfl

@[simp] theorem execPhwait_canonical (d a : SReg) (o : Option Order) {s : State} (h : s.canon) : Canonical (execPhwait d a o s) := by
  refine canonical_ite_of (by simp [h]) ?_
  dsimp only
  split
  · simp [h]
  · refine canonical_ite_of (by simp [h]) (canonical_ite_of (by simp [h]) ?_)
    split
    · simp [h]
    · refine (State.withEntry_canonical h _).2 fun n _ => State.phSend_canonical h _ _ _ _ fun t ht => ?_
      simp [ht]

@[simp] theorem execPhaw_canonical (d a : SReg) (o : Option Order) {s : State} (h : s.canon) : Canonical (execPhaw d a o s) := by
  refine canonical_ite_of (by simp [h]) ?_
  dsimp only
  split
  · simp [h]
  · refine canonical_ite_of (by simp [h]) (canonical_ite_of (by simp [h]) ?_)
    split
    · simp [h]
    · refine (State.withEntry_canonical h _).2 fun n _ => State.phSend_canonical h _ _ _ _ fun t ht => ?_
      simp [ht]

@[simp] theorem State.barArrive_canon (s : State) (sc : Scope) (ps : PhaserSet) (ep : BitVec 16) : (s.barArrive sc ps ep).canon ↔ s.canon := by
  unfold State.barArrive
  dsimp only
  split <;> rfl

theorem State.barGo_canonical {s : State} (h : s.canon) (sc : Scope) (ps : PhaserSet) (k : State → BarState → Out)
    (hk : ∀ (t : State) b, t.canon → Canonical (k t b)) : Canonical (s.barGo sc ps k) :=
  canonical_ite_of (by simp [h]) (canonical_ite_of (by simp [h]) (hk _ _ ((State.barArrive_canon s sc ps _).2 h)))

@[simp] theorem execBara_canonical (d : SReg) (sc : Scope) (ps : PhaserSet) {s : State} (h : s.canon) : Canonical (execBara d sc ps s) :=
  canonical_ite_of (by simp [h]) (canonical_ite_of (by simp [h]) (State.barGo_canonical h _ _ _ fun t b ht => by simp [ht]))

@[simp] theorem State.barWaitEntry_canon (s : State) (i : Instr) (sc : Scope) (ps : PhaserSet) (b : BarState) (n : Fin 8) :
    (s.barWaitEntry i sc ps b n).canon ↔ s.canon := Iff.rfl

@[simp] theorem execBarw_canonical (d : SReg) (sc : Scope) (ps : PhaserSet) {s : State} (h : s.canon) : Canonical (execBarw d sc ps s) := by
  simp [execBarw, h]

@[simp] theorem execBar_canonical (d : SReg) (sc : Scope) (ps : PhaserSet) {s : State} (h : s.canon) : Canonical (execBar d sc ps s) :=
  canonical_ite_of (by simp [h]) (canonical_ite_of (by simp [h]) ((State.withEntry_canonical h _).2 fun n _ =>
    State.barGo_canonical h _ _ _ fun t b ht => by simp [ht]))

@[simp] theorem execBarrierEpisodeComplete_canonical (sc : Scope) (ps : PhaserSet) (ep : BitVec 16) {s : State} (h : s.canon) : Canonical
    (execBarrierEpisodeComplete sc ps ep s) := by
  unfold execBarrierEpisodeComplete
  split <;> simp [h]

@[simp] theorem execBarrierRelease_canonical (e : Fin 8) {s : State} (h : s.canon) : Canonical (execBarrierRelease e s) := by
  unfold execBarrierRelease
  dsimp only
  split
  · exact canonical_ite_of (by simp [h]) (by simp [h])
  · simp [h]

@[simp] theorem execPhaserRelease_canonical (e : Fin 8) (phase : BitVec 16) {s : State} (h : s.canon) : Canonical
    (execPhaserRelease e phase s) := by
  simp [execPhaserRelease, h]

@[simp] theorem State.misdelivered_canon (s : State) (p : Packet) : (s.misdelivered p).canon ↔ s.canon := by
  simp [State.misdelivered]

/-- The state that an arrival leaves is canonical, whatever became of the packet. -/
def Took.canon : Took → Prop
  | .done s _ => s.canon
  | .wait s => s.canon
  | .again s => s.canon

@[simp] theorem Took.done_canon (s : State) (r : Option Body) : (Took.done s r).canon ↔ s.canon := Iff.rfl

@[simp] theorem Took.wait_canon (s : State) : (Took.wait s).canon ↔ s.canon := Iff.rfl

@[simp] theorem Took.again_canon (s : State) : (Took.again s).canon ↔ s.canon := Iff.rfl

@[simp] theorem Took.ite_canon (p : Prop) [Decidable p] (x y : Took) : (if p then x else y).canon ↔ if p then x.canon else y.canon := by
  split <;> rfl

@[simp] theorem State.acked_canon (s : State) (p : Packet) : (s.acked p).canon ↔ s.canon := by
  simp [State.acked]

@[simp] theorem State.acceptMsg_canon {s : State} (h : s.canon) (p : Packet) (k : CoreSel) (b : Fin 16) (bs : List Byte) (pm : BitVec 32) :
    (s.acceptMsg p k b bs pm).canon := by
  simp [State.acceptMsg, h]

@[simp] theorem State.acceptRing_canon {s : State} (hs : s.canon) (p : Packet) (h : Ring) (bs : List Byte) (pm : BitVec 32) :
    (s.acceptRing p h bs pm).canon := by
  unfold State.acceptRing
  extract_lets r o
  split
  · simp [hs]
  · split
    · exact hs
    · split
      · simp [hs]
      · exact (State.acked_canon _ _).2 (memsCanon_slice hs ((congrArg Memory.wf (Tile.setRing_slice ..)).trans
          (Tile.wf_store _ _ _ _ (State.tile_wf hs))))

@[simp] theorem Tile.predict_slice (t : Tile) (sec : Nat) (h : W32) (leased : Bool) : (t.predict sec h leased).slice = t.slice := rfl

@[simp] theorem State.atomAtHome_canon {s : State} (h : s.canon) (p : Packet) (seen : Bool) (op : AtomOp) (w leasable : Bool) (o : Nat)
    (x e : Word) : (s.atomAtHome p seen op w leasable o x e).canon := by
  unfold State.atomAtHome
  generalize (if w then 4 else 8) = n
  generalize hs1 : (if seen then s else s.modTile fun t => t.predict (o / 32) p.shnd (s.tile.leasedOut o n).isSome) = s1
  have h1 : s1.canon := hs1 ▸ State.canon_ite_of h (by simp [h])
  have ht := Tile.atomic_wf (State.tile_wf h1) s1.fresh op w o x e
  dsimp only
  rw [hs1]
  split
  · exact (State.recall_canon _ _).2 h1
  · split
    · exact h1
    · refine (State.reply_canon _ _ _).2 (memsCanon_slice h1 ?_)
      split
      · exact Tile.wf_ecc _ _ _ _ ht
      · exact ht

@[simp] theorem State.phAtHome_canon {s : State} (h : s.canon) (p : Packet) (r : PhReq) : (s.phAtHome p r).canon := by
  unfold State.phAtHome
  dsimp only
  split <;> simp [h]

@[simp] theorem State.giveBack_canon {s : State} (p : Packet) (sec : Nat) (bs : List Byte) (bad : Bool) (h : s.canon) :
    (s.giveBack p sec bs bad).canon := memsCanon_slice h (Tile.wf_store _ _ _ _ (State.tile_wf h))

theorem State.performTile_canon {s : State} (h : s.canon) (p : Packet) (seen : Bool) : (s.performTile p seen).canon := by
  unfold State.performTile
  split
  · exact State.acceptRing_canon h _ _ _ _
  · exact State.acceptMsg_canon h _ _ _ _ _
  · split
    · simp [h]
    · exact (State.reply_canon _ _ _).2 (memsCanon_slice h (Tile.wf_ecc _ _ _ _ (State.tile_wf h)))
  · split
    · simp [h]
    · split
      · exact h
      · exact (State.acked_canon _ _).2 (memsCanon_slice h (Tile.wf_store _ _ _ _ (State.tile_wf h)))
  · exact State.atomAtHome_canon h _ _ _ _ _ _ _ _
  · simp [h]
  · split <;> simp [h]

@[simp] theorem State.putWait_canon (s : State) (p : Packet) (seen : Bool) : (s.putWait p seen).canon ↔ s.canon := by
  simp [State.putWait]

theorem windowDrain_canon (n : Nat) (p : Packet) {s : State} (h : s.canon) : (windowDrain n p s).canon := by
  induction n generalizing s with
  | zero => exact h
  | succ n ih =>
    unfold windowDrain
    split
    · exact h
    · rename_i q _
      have hp := State.performTile_canon h q false
      split
      · rename_i e; rw [e] at hp; exact ih hp
      · rename_i e; rw [e] at hp; exact hp
      · rename_i e; rw [e] at hp; exact (State.putWait_canon _ _ _).2 hp

@[simp] theorem State.windowNext_canon {s : State} (h : s.canon) (p : Packet) (seen : Bool) : (s.windowNext p seen).2.canon := by
  have hp := State.performTile_canon h p seen
  unfold State.windowNext
  split
  · rename_i e; rw [e] at hp; exact windowDrain_canon _ _ hp
  · rename_i e; rw [e] at hp; exact hp
  · rename_i e; rw [e] at hp; exact hp

@[simp] theorem State.tileWindow_canon {s : State} (h : s.canon) (p : Packet) (seen : Bool) : (s.tileWindow p seen).2.canon := by
  unfold State.tileWindow
  split
  · split
    · exact h
    · split
      · simp [h]
      · exact State.windowNext_canon (by simp [h]) p seen
  · exact State.windowNext_canon h p seen
  · exact h
  · split
    · simp [h]
    · exact h
  · extract_lets _ s1
    have h1 : s1.canon := h
    split
    · split
      · simp [h1]
      · exact (State.reply_canon _ _ _).2 (memsCanon_slice h1 (Tile.wf_ecc _ _ _ _ (State.tile_wf h1)))
    · exact (State.reply_canon _ _ _).2 h1
  · simp [h]

@[simp] theorem State.bypass_canon {s : State} (p : Packet) (h : s.canon) : (s.bypass p).canon := by
  unfold State.bypass
  extract_lets ahead again new
  split
  · split
    · exact State.giveBack_canon p _ _ _ h
    · exact h
  · exact h

@[simp] theorem State.bypassAll_canon {s : State} (h : s.canon) : s.bypassAll.canon :=
  foldl_keeps State.canon _ (fun _ w ht => State.bypass_canon w.1 ht) _ _ h

@[simp] theorem State.arriveTile_canon {s : State} (p : Packet) (h : s.canon) : (s.arriveTile p).canon := by
  unfold State.arriveTile
  split
  · exact State.bypassAll_canon ((State.putWait_canon _ _ _).2 h)
  · have hw := State.tileWindow_canon h p false
    dsimp only
    split
    · exact (State.putWait_canon _ _ _).2 hw
    · exact hw

@[simp] theorem State.arriveAtTile_canon {s : State} (id : TileId) (p : Packet) (h : s.canon) : (s.arriveAtTile id p).canon :=
  State.atCore_canon h _ _ fun _ ht => State.arriveTile_canon p ht

@[simp] theorem Tile.unwait_slice (t : Tile) (p : Packet) : (t.unwait p).slice = t.slice := rfl

theorem tryWaiting_canon (ps : List (Packet × Bool)) {s : State} (h : s.canon) : (tryWaiting ps s).canon := by
  induction ps generalizing s with
  | nil => exact h
  | cons p r ih =>
    have hw := State.tileWindow_canon h p.1 p.2
    unfold tryWaiting
    dsimp only
    split
    · exact ih hw
    · exact hw

@[simp] theorem execCro_canonical (imm : Int) {s : State} (h : s.canon) : Canonical (execCro imm s) := by
  simp [execCro, h]

@[simp] theorem execCrc_canonical {s : State} (h : s.canon) : Canonical (execCrc s) := by
  simp [execCrc, h]

@[simp] theorem execChke_canonical (d a : SReg) {s : State} (h : s.canon) : Canonical (execChke d a s) := by
  simp [execChke, h]

@[simp] theorem execContainmentUnwind_canonical (u : UCause) {s : State} (h : s.canon) : Canonical (execContainmentUnwind u s) := by
  simp [execContainmentUnwind, h]

@[simp] theorem execDeferredEvent_canonical {s : State} (h : s.canon) : Canonical (execDeferredEvent s) := by
  unfold execDeferredEvent
  split <;> simp [h]

@[simp] theorem State.signed_canonical {s : State} (ws : List Word) (h : s.canon) : Canonical (s.signed ws) := by
  simp [State.signed, h]

@[simp] theorem execSigS_canonical (a : SReg) {s : State} (h : s.canon) : Canonical (execSigS a s) := by
  simp [execSigS, h]

@[simp] theorem execSigR_canonical (a : RCode) (base : Fin 16) (bank : Bool) {s : State} (h : s.canon) : Canonical (execSigR a base bank s) := by
  simp [execSigR, h]

@[simp] theorem execSigT_canonical (t : TReg) {s : State} (h : s.canon) : Canonical (execSigT t s) := by
  simp [execSigT, h]

@[simp] theorem execSigRd_canonical (d : SReg) {s : State} (h : s.canon) : Canonical (execSigRd d s) := by
  simp [execSigRd, h]

@[simp] theorem State.injUnit_canonical {s : State} (a b : SReg) (x y : Word) (h : s.canon) : Canonical (s.injUnit a b x y) := by
  simp [State.injUnit, h]

@[simp] theorem execInj_canonical (a b : SReg) {s : State} (h : s.canon) : Canonical (execInj a b s) := by
  refine canonical_ite_of (by simp [h]) (canonical_ite_of (by simp [h]) ?_)
  refine canonical_ite_of (by simp [h]) (canonical_ite_of (by simp [h]) ?_)
  split
  · simp [h]
  · simp [h]
  · simp [h]
  · exact canonical_ite_of (by simp [h]) (by simp [h])

@[simp] theorem execScrubTick_canonical {s : State} (h : s.canon) : Canonical (execScrubTick s) :=
  (canonical_next _).2 (memsCanon_slice h (Tile.wf_readWordEcc _ _ _ (State.tile_wf h)))

@[simp] theorem execScrubModule_canonical (found : ModuleError) {s : State} (h : s.canon) : Canonical (execScrubModule found s) :=
  (canonical_next _).2 (State.putCtx_canon h _ _ (Ctx.poisonFar_canon _ _ (State.ctx_canon h _)))

@[simp] theorem execLockstepMismatch_canonical (again : Bool) {s : State} (h : s.canon) : Canonical (execLockstepMismatch again s) := by
  simp [execLockstepMismatch, h]

@[simp] theorem imagePtr_canon (x : Word) : (imagePtr x).canon fun _ => True := by
  refine (Chk.bind_canon_iff (by simp)).2 fun p _ => ?_
  split <;> trivial

@[simp] theorem State.ctxChk_canonical {s : State} (h : s.canon) {k : Out} (hk : Canonical k) : Canonical (s.ctxChk k) :=
  canonical_ite_of (by simp [h]) (canonical_ite_of (by simp [h]) hk)

@[simp] theorem execCtxsv_canonical (d a : SReg) {s : State} (h : s.canon) : Canonical (execCtxsv d a s) := by
  refine State.ctxChk_canonical h (canonical_ite_of (by simp [h]) ((Chk.run_canonical_iff (by simp) h).2 fun p _ => ?_))
  refine Chk.run_canonical (State.placeAll_canon true _ h) h fun y hy => canonical_ite_of ((canonical_stall _).2 hy) ?_
  split
  · simp [hy]
  · exact (canonical_next _).2 ((State.retire_canon _).2 ((State.setS_canon _ _ _).2
      (State.chargeParts_canon _ (State.writeParts_canon _ _ hy))))

@[simp] theorem execCtxld_canonical (a : SReg) {s : State} (h : s.canon) : Canonical (execCtxld a s) := by
  refine State.ctxChk_canonical h (canonical_ite_of (by simp [h]) ((Chk.run_canonical_iff (by simp) h).2 fun p _ => ?_))
  refine Chk.run_canonical (State.placeAll_canon false _ h) h fun y hy => canonical_ite_of ((canonical_stall _).2 hy) ?_
  split
  · simp [hy]
  · have hr := State.readParts_canon y.1 hy
    refine canonical_ite_of (State.trapB_canonical _ _ hr) (Chk.run_canonical (State.placeAll_canon false _ hr) hr fun z hz => ?_)
    dsimp only
    split
    · simp [hz]
    · have hc := State.chargeParts_canon z.1 (State.readParts_canon z.1 hz)
      exact (canonical_next _).2 (State.consume_canon _ _ _ hc (by simp [hc]))

end Sys2Proof.Machine
end

section
/-! SUPPORT. The canonical form through traps, state registers, the services of a quay and the delivery of packets elsewhere. -/

namespace Sys2Proof.Machine

@[simp] theorem execTrap_canonical (code : Nat) {s : State} (h : s.canon) : Canonical (execTrap code s) := by
  simp [execTrap, h]

@[simp] theorem execTrapTake_canonical (cause : Cause) (va tpc : Word) (dfr : Bool) {s : State} (h : s.canon) : Canonical
    (execTrapTake cause va tpc dfr s) := by
  simp [execTrapTake, h]

@[simp] theorem execRpqrd_canonical (d a : SReg) {s : State} (h : s.canon) : Canonical (execRpqrd d a s) := by
  simp [execRpqrd, h]

@[simp] theorem State.vacate_canon (s : State) (n : Fin 8) : (s.vacate n).canon ↔ s.canon := by
  simp [State.vacate]

@[simp] theorem State.revive_canon (s : State) (n : Fin 8) (e : Entry) : (s.revive n e).canon ↔ s.canon := Iff.rfl

@[simp] theorem State.writeEntry_canon (s : State) (n : Fin 8) (w : Nat) (v : Word) : (s.writeEntry n w v).canon ↔ s.canon := by
  unfold State.writeEntry
  split <;> simp

@[simp] theorem execRpqwr_canonical (a b : SReg) {s : State} (h : s.canon) : Canonical (execRpqwr a b s) := by
  simp [execRpqwr, h]

@[simp] theorem execRpqdrp_canonical (a : SReg) {s : State} (h : s.canon) : Canonical (execRpqdrp a s) := by
  simp [execRpqdrp, h]

@[simp] theorem execRpqlen_canonical (d : SReg) {s : State} (h : s.canon) : Canonical (execRpqlen d s) := by
  simp [execRpqlen, h]

@[simp] theorem State.bundleAt_canon {s : State} (h : s.canon) (o : BitVec 19) : (s.bundleAt o).2.canon := by
  have hf := fetchWords_canon 5 (o.zeroExtend 64) h
  unfold State.bundleAt
  split
  · exact h
  · dsimp only
    split <;> exact hf

@[simp] theorem State.entryOp_canon {s : State} (h : s.canon) (n : Fin 8) : (s.entryOp n).2.canon := by
  have hb := State.bundleAt_canon h s.core.rq[n].bofs
  unfold State.entryOp
  dsimp only
  split
  · rename_i e
    rw [e] at hb
    split <;> exact hb
  · rename_i e
    rw [e] at hb
    exact hb

theorem State.entryOps_canon (lvl : Fin 3) (ns : List (Fin 8)) {s : State} (h : s.canon) : (State.entryOps lvl ns s).2.canon := by
  induction ns generalizing s with
  | nil => exact h
  | cons n r ih =>
    unfold State.entryOps
    split
    · have ho := State.entryOp_canon h n
      split
      · rename_i e
        rw [e] at ho
        exact ho
      · rename_i i k t e
        rw [e] at ho
        have hr := ih ho
        split
        · rename_i e; rw [e] at hr; exact hr
        · rename_i e; rw [e] at hr; exact hr
    · exact ih h

@[simp] theorem State.reinject_canon {s : State} (x : Fin 8 × Instr × Nat) (h : s.canon) : (s.reinject x).canon := by
  simp [State.reinject, h]

@[simp] theorem execTret_canonical {s : State} (h : s.canon) : Canonical (execTret s) := by
  unfold execTret
  extract_lets t tpc lvl
  refine canonical_ite_of (by simp [h]) (canonical_ite_of (by simp [h]) (canonical_ite_of (by simp [h]) ?_))
  have ho := State.entryOps_canon lvl allEntries h
  split
  · rename_i e; rw [e] at ho; exact State.trapB_canonical _ _ ho
  · rename_i e; rw [e] at ho; exact (canonical_next _).2 (foldl_keeps State.canon _ (fun t x ht => State.reinject_canon x ht) _ _ ho)

theorem Chk.runAt_canonical {α : Type} {c : Chk α} {P : α → Prop} {s : State} {k : α → Out} (hc : c.canon P) (h : s.canon) (o : BitVec 19)
    (hk : ∀ a, P a → Canonical (k a)) : Canonical (c.runAt s o k) := by
  cases c with
  | ok a => exact hk a hc
  | trap e va => exact (canonical_next _).2 (State.fault_canon _ _ _ _ _ h)
  | wait t => exact (canonical_stall _).2 hc

@[simp] theorem State.resend_canonical {s : State} (n : Fin 8) (h : s.canon) : Canonical (s.resend n) := by
  unfold State.resend
  extract_lets _ e dest
  have hd : ∀ id b r, Canonical (dest id b r) := by
    intro id b r
    show Canonical (match s.phPlace id with | none => _ | some ep => _)
    split
    · simp [h]
    · exact State.phSend_canonical h _ _ _ _ fun t ht => by simp [ht]
  split
  · exact hd _ _ _
  · exact hd _ _ _
  · exact hd _ _ _
  · exact hd _ _ _
  · split
    · exact Chk.runAt_canonical (State.placeAll_canon false _ h) h _ fun y hy => State.loadInto_canonical hy _ _ _ _ _ fun t ht => ht
    · split
      · exact canonical_ite_of (by simp [h]) (by simp [h])
      · simp [h]
  · simp [h]

@[simp] theorem State.loadEntry_canon (s : State) (n : Fin 8) : (s.loadEntry n).canon ↔ s.canon := by
  simp [State.loadEntry]

@[simp] theorem State.loadSlot_canon {s : State} (h : s.canon) : s.loadSlot.canon := by
  unfold State.loadSlot
  extract_lets live c w rw comp
  exact foldl_keeps State.canon _ (fun t n ht => (State.loadEntry_canon t n).2 ht) _ _ ((canon_mk ..).2 h)

@[simp] theorem State.noticeSeen_canon (s : State) : (s.noticeSeen).canon ↔ s.canon := Iff.rfl

@[simp] theorem execForwardResume_canonical {s : State} (h : s.canon) : Canonical (execForwardResume s) := by
  unfold execForwardResume
  split
  · simp [h]
  · extract_lets fpc s1
    have h1 : s1.canon := State.loadSlot_canon ((State.noticeSeen_canon s).2 h)
    clear_value s1 fpc
    refine canonical_ite_of (State.trapB_canonical _ _ h1) ?_
    have ho := State.entryOps_canon s1.core.tr.level allEntries (s := { s1 with core := { s1.core with pc := fpc, issued := false } }) h1
    split
    · rename_i e; rw [e] at ho; exact State.trapB_canonical _ _ ho
    · rename_i e; rw [e] at ho; exact (canonical_next _).2 (foldl_keeps State.canon _ (fun t x ht => State.reinject_canon x ht) _ _ ho)

@[simp] theorem execForwardDeliver_canonical {s : State} (h : s.canon) : Canonical (execForwardDeliver s) := by
  unfold execForwardDeliver
  split <;> simp [h]

@[simp] theorem execForwardKill_canonical {s : State} (h : s.canon) : Canonical (execForwardKill s) := by
  unfold execForwardKill
  split <;> simp [h]

@[simp] theorem execIabHit_canonical {s : State} (h : s.canon) : Canonical (execIabHit s) := by
  simp [execIabHit, h]

@[simp] theorem execSingleStep_canonical {s : State} (h : s.canon) : Canonical (execSingleStep s) := by
  simp [execSingleStep, h]

@[simp] theorem State.srChk_canonical {s : State} (h : s.canon) (n : Nat) {k : Out} (hk : Canonical k) : Canonical (s.srChk n k) :=
  canonical_ite_of (by simp [h]) (canonical_ite_of (by simp [h]) hk)

@[simp] theorem execSrd_canonical (d : SReg) (n : Fin 256) {s : State} (h : s.canon) : Canonical (execSrd d n s) := by
  simp [execSrd, h]

@[simp] theorem execSwr_canonical (n : Fin 256) (d : SReg) {s : State} (h : s.canon) : Canonical (execSwr n d s) := by
  simp [execSwr, h]

@[simp] theorem execSwrCki_canonical (d : SReg) {s : State} (h : s.canon) : Canonical (execSwrCki d s) := by
  simp [execSwrCki, h]

@[simp] theorem execSwrMctl_canonical (d : SReg) {s : State} (h : s.canon) : Canonical (execSwrMctl d s) := by
  simp [execSwrMctl, h]

@[simp] theorem execSwrFfl_canonical (d : SReg) {s : State} (h : s.canon) : Canonical (execSwrFfl d s) := by
  simp [execSwrFfl, h]

@[simp] theorem execSwrTvec_canonical (d : SReg) {s : State} (h : s.canon) : Canonical (execSwrTvec d s) := by
  simp [execSwrTvec, h]

@[simp] theorem execPack_canonical (d : SReg) {s : State} (h : s.canon) : Canonical (execPack d s) := by
  simp [execPack, h]

@[simp] theorem execMetr_canonical (d a : SReg) {s : State} (h : s.canon) : Canonical (execMetr d a s) := by
  refine canonical_ite_of (by simp [h]) ?_
  dsimp only
  split <;> simp [h]

/-- The state that a service of the quay leaves is canonical. -/
def Svc.canon : Svc → Prop
  | .done _ _ s => s.canon
  | .wait => True

@[simp] theorem Svc.done_canon (st : Nat) (v : Word) (s : State) : (Svc.done st v s).canon ↔ s.canon := Iff.rfl

@[simp] theorem Svc.wait_canon : Svc.wait.canon := trivial

@[simp] theorem Svc.ite_canon (p : Prop) [Decidable p] (x y : Svc) : (if p then x else y).canon ↔ if p then x.canon else y.canon := by
  split <;> rfl

@[simp] theorem State.svcMap_canon {s : State} (h : s.canon) (p : Word) (w : Bool) : (s.svcMap p w).canon := by
  unfold State.svcMap
  split
  · exact h
  · split
    · exact h
    · rename_i e; exact State.putCtx_canon h _ _ (Ctx.mapPage_canon (State.myCtx_canon h) e)

@[simp] theorem State.svcUnmap_canon {s : State} (h : s.canon) (p : Word) : (s.svcUnmap p).canon := by
  unfold State.svcUnmap
  split
  · exact h
  · split
    · exact h
    · split
      · trivial
      · exact State.putCtx_canon (State.shootDown_canon _ _ h) _ _ (Ctx.unmapPage_canon _ (State.myCtx_canon h))

@[simp] theorem State.readList_canon {s : State} (p : Word) (h : s.canon) : (s.readList p).canon := by
  unfold State.readList
  extract_lets o t m
  have ht : t.slice.wf = true := Tile.wf_ecc _ _ _ _ (State.tile_wf h)
  split
  · exact h
  · exact memsCanon_slice h (Tile.wf_ite (Tile.wf_ecc _ _ _ _ ht) ht)

@[simp] theorem State.recallList_canon {s : State} (code : Nat) (p : Word) (h : s.canon) : (s.recallList code p).canon := by
  unfold State.recallList
  split <;> simp [h]

@[simp] theorem State.svcGroup_canon {s : State} (h : s.canon) (p : Word) : (s.svcGroup p).canon := by
  unfold State.svcGroup
  have h1 := State.readList_canon p h
  split
  · trivial
  · dsimp only
    split
    · exact h1
    · split
      · exact h1
      · have h2 : ∀ gs, (((s.readList p).putCtx (s.readList p).tile.ctx { (s.readList p).myCtx with groups := gs }).draw).canon := fun gs =>
          (State.draw_canon _ _).2 (State.putCtx_canon h1 _ _ (State.myCtx_canon h1))
        split
        · exact h1
        · split <;> exact h2 _

@[simp] theorem State.svcReport_canon {s : State} (h : s.canon) (x y : Word) : (s.svcReport x y).canon := by
  simp [State.svcReport, h]

@[simp] theorem State.svcDebug_canon {s : State} (h : s.canon) (x y : Word) : (s.svcDebug x y).canon := by
  unfold State.svcDebug
  dsimp only
  split
  · exact h
  · split
    · exact State.atCore_canon h _ _ fun t ht => ht
    · exact State.atCore_canon h _ _ fun t ht => ht
    · exact State.atCore_canon h _ _ fun t ht => ht
    · exact h

theorem State.team?_mem {s : State} {ctx tag : Nat} {t : Team} (e : s.team? ctx tag = some t) : t ∈ s.teams := List.mem_of_find?_eq_some e

@[simp] theorem State.svcYield_canon {s : State} (h : s.canon) : s.svcYield.canon := by
  unfold State.svcYield
  split
  · rename_i t e
    exact State.putTeam_canon h _ fun u hu => State.dock_wf h (State.team?_mem e) hu
  · exact h

@[simp] theorem State.service_canon {s : State} (h : s.canon) (code : Nat) (x y : Word) : (s.service code x y).canon := by
  unfold State.service
  split <;> simp [h]

@[simp] theorem State.qsvc_canonical {s : State} (i : Instr) (h : s.canon) : Canonical (s.qsvc i) := by
  simp [State.qsvc, h]

@[simp] theorem execQsvcPing_canonical {s : State} (h : s.canon) : Canonical (execQsvcPing s) := by
  simp [execQsvcPing, h]

@[simp] theorem execQsvcMap_canonical {s : State} (h : s.canon) : Canonical (execQsvcMap s) := by
  simp [execQsvcMap, h]

@[simp] theorem execQsvcUnmap_canonical {s : State} (h : s.canon) : Canonical (execQsvcUnmap s) := by
  simp [execQsvcUnmap, h]

@[simp] theorem execQsvcGroup_canonical {s : State} (h : s.canon) : Canonical (execQsvcGroup s) := by
  simp [execQsvcGroup, h]

@[simp] theorem execQsvcYield_canonical {s : State} (h : s.canon) : Canonical (execQsvcYield s) := by
  simp [execQsvcYield, h]

@[simp] theorem execQsvcReport_canonical {s : State} (h : s.canon) : Canonical (execQsvcReport s) := by
  simp [execQsvcReport, h]

@[simp] theorem execQsvcDebug_canonical {s : State} (h : s.canon) : Canonical (execQsvcDebug s) := by
  simp [execQsvcDebug, h]

@[simp] theorem execQsvcUnknown_canonical {s : State} (h : s.canon) : Canonical (execQsvcUnknown s) := by
  simp [execQsvcUnknown, h]

theorem State.newEngine_canon {s t : State} (h : s.canon) {c : Word} {ws : List Word} (e : s.newEngine c = some (ws, t)) : t.canon := by
  unfold State.newEngine at e
  dsimp only at e
  split at e
  · cases e
  · obtain ⟨n, _, hn⟩ := Option.map_eq_some_iff.1 e
    cases hn
    exact (State.putRegion_canon _ _ _).2 h

@[simp] theorem State.walk_canon {s : State} (h : s.canon) (p : Word) (write : Bool) : (s.walk p write).2.canon := by
  unfold State.walk
  dsimp only
  split
  · exact h
  · split
    · split
      · rename_i e; exact State.putCtx_canon ((State.draw_canon _ _).2 h) _ _ (Ctx.mapPage_canon (State.myCtx_canon h) e)
      · exact h
    · simp [h]

theorem State.askAnswer_canon {s t : State} (h : s.canon) {k : Fin 13} {w1 w2 : Word} {base : Option Nat} {ws : List Word}
    (e : s.askAnswer k w1 w2 base = some (ws, t)) : t.canon := by
  unfold State.askAnswer at e
  split at e
  · have hs := State.service_canon h k.val w1 w2
    split at e
    · cases e
    · rename_i es; rw [es] at hs; cases e; exact hs
  · split at e
    · cases e; exact h
    · have ha := State.allocAnswer_canon w1 w2 base h
      rwa [Option.some.inj e] at ha
    · exact State.newEngine_canon h e
    · have ha := State.walk_canon h w1 (w2.getLsbD 0)
      rwa [Option.some.inj e] at ha
    · cases e; exact h

theorem State.serveBy_canon {s : State} (h : s.canon) (p : Packet) (held : State → State) (answer : State → Option (List Word × State))
    (hh : ∀ t : State, t.canon → (held t).canon) (ha : ∀ (t u : State) ws, t.canon → answer t = some (ws, u) → u.canon) :
    (s.serveBy p held answer).canon := by
  unfold State.serveBy
  split
  · simp [h]
  · split
    · exact h
    · refine State.atCore_canon h _ _ fun t ht => ?_
      split
      · exact hh _ ht
      · rename_i ws u e; exact (State.reply_canon _ _ _).2 (ha t u ws ht e)

@[simp] theorem State.serveAsk_canon {s : State} (p : Packet) (k : Fin 13) (w1 w2 : Word) (base : Option Nat) (h : s.canon) :
    (s.serveAsk p k w1 w2 base).canon :=
  State.serveBy_canon h _ _ _ (fun _ ht => State.recallList_canon _ _ ht) fun _ _ _ ht e => State.askAnswer_canon ht e

@[simp] theorem State.toldEntry_canon {s : State} (n : Fin 8) (ws : List Word) (h : s.canon) : (s.toldEntry n ws).canon := by
  unfold State.toldEntry
  dsimp only
  split
  · simp [h]
  · simp [h]
  · simp [h]
  · split <;> simp [h]
  · exact h

@[simp] theorem State.pageArrived_canon {s : State} (ws : List Word) (h : s.canon) : (s.pageArrived ws).canon := by
  unfold State.pageArrived
  (repeat' split) <;> simp [h]

theorem State.q4Serve_canon {s t : State} (hs : s.canon) {h : Word} {args ws : List Word} (e : s.q4Serve h args = some (ws, t)) : t.canon := by
  unfold State.q4Serve at e
  split at e
  · cases e; exact hs
  · have hv := State.service_canon hs (h.toNat % 65536) ((args[0]?).getD 0) ((args[1]?).getD 0)
    split at e
    · cases e
    · rename_i es; rw [es] at hv; cases e; exact hv

@[simp] theorem State.q4Send_canon (s : State) : (s.q4Send).canon ↔ s.canon := by
  unfold State.q4Send
  split <;> simp

@[simp] theorem State.q4Told_canon (s : State) (ws : List Word) : (s.q4Told ws).canon ↔ s.canon := Iff.rfl

@[simp] theorem execIdle_canonical (a : SReg) {s : State} (h : s.canon) : Canonical (execIdle a s) := by
  unfold execIdle
  (repeat' split) <;> simp [h]

@[simp] theorem execIdleWake_canonical {s : State} (h : s.canon) : Canonical (execIdleWake s) := by
  unfold execIdleWake
  split <;> simp [h]

@[simp] theorem State.putFarWins_canon (s : State) (eng : Bool) (n : Nat) (ws : List SeqWindow) : (s.putFarWins eng n ws).canon ↔ s.canon := by
  simp [State.putFarWins]

@[simp] theorem State.farDup_canon (s : State) (eng : Bool) (n : Nat) (p : Packet) : (s.farDup eng n p).canon ↔ s.canon := Iff.rfl

@[simp] theorem Ctx.atomic_canon {x : Ctx} (h : x.canon) (sh : Option Nat) (net : Bool) (op : AtomOp) (w : Bool) (o : Nat) (v e : Word) :
    (x.atomic sh net op w o v e).2.canon := by
  unfold Ctx.atomic
  extract_lets n bs old
  split
  · exact h
  · split
    · exact Ctx.farStore_canon _ _ _ _ h
    · exact h

@[simp] theorem State.performFar_canon {s : State} (h : s.canon) (eng : Bool) (p : Packet) : (s.performFar eng p).1.canon := by
  unfold State.performFar
  split
  · simp [h]
  · exact (State.reply_canon _ _ _).2 (State.farWrite_canon _ _ _ _ _ h)
  · exact (State.reply_canon _ _ _).2 (State.putCtx_canon h _ _ (Ctx.atomic_canon (State.ctx_canon h _) _ _ _ _ _ _ _))
  · simp [h]

theorem farDrain_canon (eng : Bool) (k n : Nat) (p : Packet) {s : State} (h : s.canon) : (farDrain eng k n p s).canon := by
  induction n generalizing s with
  | zero => exact h
  | succ n ih =>
    unfold farDrain
    split
    · exact h
    · exact ih ((State.putFarWins_canon _ _ _ _).2 (State.performFar_canon h _ _))

@[simp] theorem State.farNext_canon {s : State} (eng : Bool) (k : Nat) (p : Packet) (h : s.canon) : (s.farNext eng k p).canon :=
  farDrain_canon _ _ _ _ ((State.putFarWins_canon _ _ _ _).2 (State.performFar_canon h _ _))

@[simp] theorem State.arriveFar_canon {s : State} (eng : Bool) (k : Nat) (p : Packet) (h : s.canon) : (s.arriveFar eng k p).canon := by
  unfold State.arriveFar
  extract_lets ws mine pt s1
  have h1 : s1.canon := (State.farDup_canon ..).2 h
  split
  · split
    · exact h
    · split <;> simp [h]
  · simp [h]
  · simp [h]
  · split <;> simp [h]
  · split <;> simp [h1]
  · simp [h]

@[simp] theorem State.phAtEngine_canon {s : State} (reg : Nat) (p : Packet) (r : PhReq) (h : s.canon) : (s.phAtEngine reg p r).canon := by
  unfold State.phAtEngine
  extract_lets rg ph full early known a s1 s2 serve
  have h1 : s1.canon := (State.putRegion_canon s _ _).2 h
  have h2 : s2.canon := h1
  have hserve : serve.canon := by
    show (match a.1, p.body with | .value v, .phReg _ => _ | .value v, _ => _ | _, .phArrive _ => _ | _, _ => _ : State).canon
    split <;> simp [h2]
  clear_value serve
  split
  · simp [h]
  · split
    · simp [h]
    · exact hserve
  · split
    · simp [h]
    · exact hserve
  · exact hserve

@[simp] theorem State.atQuay_canon {s : State} (reg : Nat) (p : Packet) (h : s.canon) : (s.atQuay reg p).canon := by
  unfold State.atQuay
  split
  · simp [h]
  · exact State.serveBy_canon h _ _ _ (fun t ht => State.recallList_canon _ _ ht) fun t u ws ht e => State.q4Serve_canon ht e
  · simp [h]
  · refine (State.reply_canon _ _ _).2 (foldl_keeps State.canon _ (fun t b ht => ?_) _ _ h)
    split <;> simp [ht]
  · simp [h]
  · split <;> simp [h]

@[simp] theorem State.valueArrived_canon {s : State} (n : Fin 8) (v : Word) (h : s.canon) : (s.valueArrived n v).canon := by
  unfold State.valueArrived
  dsimp only
  split
  · split <;> simp [h]
  · simp [h]
  · split <;> simp [h]
  · split <;> simp [h]
  · exact h

@[simp] theorem State.installLease_canon (s : State) (l : Lease) : (s.installLease l).canon ↔ s.canon := by
  simp only [State.installLease, canon_mk, memsCanon_self]
  split <;> simp

@[simp] theorem State.oldArrived_canon {s : State} (p : Packet) (first : Bool) (v : Word) (bad : Bool) (g : Option (Nat × List Byte × Bool))
    (h : s.canon) : (s.oldArrived p first v bad g).canon := by
  unfold State.oldArrived
  extract_lets r s1 e
  have h1 : s1.canon := by
    show (match first, g with | true, some (sec, bs, b) => _ | _, _ => _ : State).canon
    split <;> simp [h]
  clear_value s1
  split <;> simp [h1]

@[simp] theorem State.answered_canon {s : State} (p : Packet) (r : Option RetryEntry) (h : s.canon) : (s.answered p r).canon := by
  unfold State.answered
  cases p.body with
  | data pos bs =>
    dsimp only
    split
    · split <;> simp [h]
    · exact h
  | old v bad g => simp [h]
  | value v =>
    dsimp only
    split <;> simp [h]
  | reject =>
    dsimp only
    split <;> simp [h]
  | _ => exact h

@[simp] theorem State.forgetAnswer_canon (s : State) (p : Packet) : (s.forgetAnswer p).canon ↔ s.canon := by
  simp [State.forgetAnswer]

@[simp] theorem State.vc0Response_canon {s : State} (p : Packet) (h : s.canon) : (s.vc0Response p).canon := by
  unfold State.vc0Response
  extract_lets q _ _ s1 first
  have h1 : s1.canon := by
    clear_value q
    cases q <;> exact h
  clear_value s1 first
  split
  · split <;> simp [h1]
  · refine (State.forgetAnswer_canon _ _).2 ?_
    split <;> simp [h1]
  · split
    · split <;> simp [h1]
    · exact h1
  · refine (State.forgetAnswer_canon _ _).2 (State.canon_ite_of (by simp [h1]) (State.canon_ite_of (by simp [h1]) ?_))
    split <;> simp [h1]
  · exact h1

@[simp] theorem State.response_canon {s : State} (p : Packet) (h : s.canon) : (s.response p).canon := by
  unfold State.response
  split
  · exact h
  · split
    · simp [h]
    · split <;> simp [h]

@[simp] theorem State.returnRecalled_canon {s : State} (h : s.canon) : s.returnRecalled.canon := by
  refine foldl_keeps State.canon _ (fun t l ht => ?_) _ _ h
  split <;> simp [ht]

@[simp] theorem State.recallArrived_canon {s : State} (p : Packet) (sec : Nat) (h : s.canon) : (s.recallArrived p sec).canon := by
  unfold State.recallArrived
  extract_lets r mine granted
  split
  · exact State.returnRecalled_canon h
  · split <;> exact h

@[simp] theorem State.divert_canon {s : State} (p : Packet) (h : s.canon) : (s.divert p).canon := by
  unfold State.divert
  split
  · split <;> simp [h]
  · rename_i t e
    have hd : ∀ u ∈ t.dockTiles, u.tile.slice.wf = true := fun u hu => State.dock_wf h (State.team?_mem e) hu
    refine State.canon_ite_of (State.putTeam_canon h _ hd) (State.canon_ite_of ?_ (State.canon_ite_of (by simp [h]) ?_))
    · exact (State.reply_canon _ _ _).2 (State.putTeam_canon h _ hd)
    · exact (State.reply_canon _ _ _).2 (State.putTeam_canon h _ hd)

@[simp] theorem State.turnAway_canon (s : State) (p : Packet) : (s.turnAway p).canon ↔ s.canon := by
  simp [State.turnAway]

@[simp] theorem State.deliver_canon {s : State} (p : Packet) (h : s.canon) : (s.deliver p).canon := by
  unfold State.deliver
  split
  · split
    · split <;> simp [h]
    · dsimp only
      split
      · exact State.atCore_canon h _ _ fun t ht => State.response_canon p ht
      · split <;> simp [h]
  · split
    · split
      · exact State.atCore_canon h _ _ fun t ht => State.recallArrived_canon _ _ ht
      · exact State.atCore_canon (State.atCore_canon h _ _ fun t ht => by simp [ht]) _ _ fun t ht => by simp [ht]
      · simp [h]
      · refine State.atCore_canon h _ _ fun t ht => ?_
        split <;> exact ht
      · exact h
    · split
      · split <;> simp [h]
      · split
        · repeat' split
          all_goals simp [h]
        · simp [h]
        · simp [h]
        · exact h

@[simp] theorem State.endLeg_canon {s : State} (p : Packet) (h : s.canon) : (s.endLeg p).canon := by
  simp [State.endLeg, h]

@[simp] theorem State.carry_canon {s : State} (p : Packet) (h : s.canon) : (s.carry p).canon := by
  unfold State.carry
  split
  · exact h
  · simp [h]
  · dsimp only
    split <;> simp [h]

@[simp] theorem State.crossed_canon (s : State) (m : Spot × Spot) : (s.crossed m).canon ↔ s.canon := by
  simp [State.crossed]

@[simp] theorem State.putPacket_canon {s : State} (p : Packet) (q : Packet × List (Spot × Spot)) (h : s.canon) : (s.putPacket p q).canon :=
  foldl_keeps State.canon _ (fun t m ht => (State.crossed_canon t m).2 ht) _ _ ((canon_mk ..).2 h)

@[simp] theorem State.stepPacket_canon {s : State} (p : Packet) (h : s.canon) : (s.stepPacket p).canon := by
  unfold State.stepPacket
  split
  · split
    · simp [h]
    · split <;> simp [h]
  · split
    · simp [h]
    · dsimp only
      split <;> simp [h]
    · split
      · split <;> simp [h]
      · simp [h]

@[simp] theorem State.flow_canon {s : State} (h : s.canon) : s.flow.canon := by
  unfold State.flow
  split
  · exact h
  · refine foldl_keeps State.canon _ (fun t p ht => ?_) _ _ (State.canon_ite_of h h)
    split <;> simp [ht]

@[simp] theorem State.packetEvent_canonical {s : State} (p : Packet) (is : Bool) (h : s.canon) : Canonical (s.packetEvent p is) := by
  refine canonical_ite_of ((canonical_next _).2 (State.canon_ite_of ?_ ?_)) (by simp [h])
  · exact State.carry_canon _ (State.carry_canon _ h)
  · exact State.carry_canon _ h

@[simp] theorem execSeqWindowArrival_canonical (p : Packet) {s : State} (h : s.canon) : Canonical (execSeqWindowArrival p s) := by
  simp [execSeqWindowArrival, h]

@[simp] theorem execMessageDelivery_canonical (p : Packet) {s : State} (h : s.canon) : Canonical (execMessageDelivery p s) := by
  simp [execMessageDelivery, h]

@[simp] theorem execRingMessageDelivery_canonical (p : Packet) {s : State} (h : s.canon) : Canonical (execRingMessageDelivery p s) := by
  simp [execRingMessageDelivery, h]

@[simp] theorem execInboxAppendAfterWait_canonical {s : State} (h : s.canon) : Canonical (execInboxAppendAfterWait s) :=
  (canonical_next _).2 (tryWaiting_canon _ h)

@[simp] theorem execRingMessageAfterWait_canonical {s : State} (h : s.canon) : Canonical (execRingMessageAfterWait s) :=
  (canonical_next _).2 (tryWaiting_canon _ h)

@[simp] theorem execHeldSlotWritePerform_canonical {s : State} (h : s.canon) : Canonical (execHeldSlotWritePerform s) :=
  (canonical_next _).2 (tryWaiting_canon _ h)

@[simp] theorem execRemoteResponse_canonical (p : Packet) {s : State} (h : s.canon) : Canonical (execRemoteResponse p s) := by
  simp [execRemoteResponse, h]

@[simp] theorem execAckReceived_canonical (p : Packet) {s : State} (h : s.canon) : Canonical (execAckReceived p s) := by
  simp [execAckReceived, h]

@[simp] theorem execRetryReceived_canonical (p : Packet) {s : State} (h : s.canon) : Canonical (execRetryReceived p s) := by
  simp [execRetryReceived, h]

@[simp] theorem execRejectReceived_canonical (p : Packet) {s : State} (h : s.canon) : Canonical (execRejectReceived p s) := by
  simp [execRejectReceived, h]

@[simp] theorem execRetryWaitExpiry_canonical (k : Nat) {s : State} (h : s.canon) : Canonical (execRetryWaitExpiry k s) := by
  unfold execRetryWaitExpiry
  split <;> simp [h]

@[simp] theorem execUnackedTimeout_canonical (k : Nat) {s : State} (h : s.canon) : Canonical (execUnackedTimeout k s) := by
  unfold execUnackedTimeout
  split <;> simp [h]

@[simp] theorem execVc0RequestRetry_canonical (e : Fin 8) {s : State} (h : s.canon) : Canonical (execVc0RequestRetry e s) := by
  simp [execVc0RequestRetry, h]

@[simp] theorem execPacketAgeTick_canonical (k : Nat) {s : State} (h : s.canon) : Canonical (execPacketAgeTick k s) := by
  unfold execPacketAgeTick
  split <;> simp [h]

@[simp] theorem execRegionFirewallCheck_canonical (p : Packet) (region : Nat) {s : State} (h : s.canon) : Canonical
    (execRegionFirewallCheck p region s) := by
  simp [execRegionFirewallCheck, h]

@[simp] theorem execRemoteAtomicAtHome_canonical (p : Packet) {s : State} (h : s.canon) : Canonical (execRemoteAtomicAtHome p s) := by
  simp [execRemoteAtomicAtHome, h]

@[simp] theorem execLeaseWriteBack_canonical (p : Packet) {s : State} (h : s.canon) : Canonical (execLeaseWriteBack p s) := by
  simp [execLeaseWriteBack, h]

@[simp] theorem execLeaseRecall_canonical (hx hy sector : Nat) {s : State} (h : s.canon) : Canonical (execLeaseRecall hx hy sector s) := by
  unfold execLeaseRecall
  split <;> simp [h]

@[simp] theorem State.phPacket_canonical {s : State} (b : Body) (h : s.canon) : Canonical (s.phPacket b) := by
  unfold State.phPacket
  split <;> simp [h]

@[simp] theorem execPhaserArrivalAtHome_canonical (r : PhReq) {s : State} (h : s.canon) : Canonical (execPhaserArrivalAtHome r s) := by
  simp [execPhaserArrivalAtHome, h]

@[simp] theorem execPhaserWaitAtHome_canonical (r : PhReq) {s : State} (h : s.canon) : Canonical (execPhaserWaitAtHome r s) := by
  simp [execPhaserWaitAtHome, h]

@[simp] theorem execPhaserRegisterAtHome_canonical (r : PhReq) {s : State} (h : s.canon) : Canonical (execPhaserRegisterAtHome r s) := by
  simp [execPhaserRegisterAtHome, h]

@[simp] theorem State.askRound_canon {s : State} (ent req : Nat) (base : Option Nat) (h : s.canon) : (s.askRound ent req base).canon := by
  unfold State.askRound
  split
  · exact h
  · extract_lets s1
    have h1 : s1.canon := by
      show (match s.askOf ent req with | none => _ | some p => _ : State).canon
      split
      · exact h
      · split <;> simp [h]
    clear_value s1
    split <;> simp [h1]

@[simp] theorem execQuayResponse_canonical (e : Fin 8) {s : State} (h : s.canon) : Canonical (execQuayResponse e s) := by
  simp [execQuayResponse, h]

@[simp] theorem execQ4RequestService_canonical {s : State} (h : s.canon) : Canonical (execQ4RequestService s) := by
  unfold execQ4RequestService
  dsimp only
  split <;> simp [h]

@[simp] theorem execAllocResponse_canonical (e : Fin 8) (base : Option Nat) {s : State} (h : s.canon) :
    Canonical (execAllocResponse e base s) := canonical_ite_of (by simp [h]) (by simp [h])

@[simp] theorem execTranslationResponse_canonical {s : State} (h : s.canon) : Canonical (execTranslationResponse s) := by
  unfold execTranslationResponse
  split
  · split <;> simp [h]
  · simp [h]

end Sys2Proof.Machine
end

section
/-! SUPPORT. The canonical form through teams, regions and the host. -/

namespace Sys2Proof.Machine

@[simp] theorem State.kIssue_canonical {s : State} (i : Instr) (ts : List Nat) (h : s.canon) : Canonical (s.kIssue i ts) := by
  simp [State.kIssue, h]

@[simp] theorem execKadd_canonical (d a b : KReg) {s : State} (h : s.canon) : Canonical (execKadd d a b s) := by
  simp [execKadd, h]

@[simp] theorem execKsub_canonical (d a b : KReg) {s : State} (h : s.canon) : Canonical (execKsub d a b s) := by
  simp [execKsub, h]

@[simp] theorem execKmul_canonical (d a b : KReg) {s : State} (h : s.canon) : Canonical (execKmul d a b s) := by
  simp [execKmul, h]

@[simp] theorem execKfma_canonical (d a b : KReg) {s : State} (h : s.canon) : Canonical (execKfma d a b s) := by
  simp [execKfma, h]

@[simp] theorem execKaddd_canonical (d a : KReg) (t : TReg) {s : State} (h : s.canon) : Canonical (execKaddd d a t s) := by
  simp [execKaddd, h]

@[simp] theorem execKscl_canonical (d a : KReg) (b : SReg) {s : State} (h : s.canon) : Canonical (execKscl d a b s) := by
  simp [execKscl, h]

@[simp] theorem execKmuld_canonical (d a : KReg) (t : TReg) {s : State} (h : s.canon) : Canonical (execKmuld d a t s) := by
  simp [execKmuld, h]

@[simp] theorem execKvsub_canonical (d a b : KReg) {s : State} (h : s.canon) : Canonical (execKvsub d a b s) := by
  simp [execKvsub, h]

@[simp] theorem execKnlRelu_canonical (d a : KReg) {s : State} (h : s.canon) : Canonical (execKnlRelu d a s) := by
  simp [execKnlRelu, h]

@[simp] theorem execKnlExp_canonical (d a : KReg) {s : State} (h : s.canon) : Canonical (execKnlExp d a s) := by
  simp [execKnlExp, h]

@[simp] theorem execKnlSig_canonical (d a : KReg) {s : State} (h : s.canon) : Canonical (execKnlSig d a s) := by
  simp [execKnlSig, h]

@[simp] theorem execKnlSq_canonical (d a : KReg) {s : State} (h : s.canon) : Canonical (execKnlSq d a s) := by
  simp [execKnlSq, h]

@[simp] theorem execKnlRcp_canonical (d a : KReg) {s : State} (h : s.canon) : Canonical (execKnlRcp d a s) := by
  simp [execKnlRcp, h]

@[simp] theorem execKmk_canonical (d : KReg) (a : Fin 8) (b : Option (Fin 8)) (bank : Bool) {s : State} (h : s.canon) : Canonical
    (execKmk d a b bank s) := by
  simp [execKmk, h]

@[simp] theorem State.kcol_canonical {s : State} (i : Instr) (t : Nat) (h : s.canon) : Canonical (s.kcol i t) := by
  simp [State.kcol, h]

@[simp] theorem execKcolMean_canonical (t : TReg) (a : KReg) {s : State} (h : s.canon) : Canonical (execKcolMean t a s) := by
  simp [execKcolMean, h]

@[simp] theorem execKcolVar_canonical (t : TReg) (a : KReg) {s : State} (h : s.canon) : Canonical (execKcolVar t a s) := by
  simp [execKcolVar, h]

@[simp] theorem execKcolSdev_canonical (t : TReg) (a : KReg) {s : State} (h : s.canon) : Canonical (execKcolSdev t a s) := by
  simp [execKcolSdev, h]

@[simp] theorem execKcolDraw_canonical (t : Fin 8) (a : KReg) (b : RCode) (base : Fin 16) (bank : Bool) (c : SReg) {s : State}
    (h : s.canon) : Canonical (execKcolDraw t a b base bank c s) :=
  (State.computing_canonical h _).2 fun _ => canonical_ite_of (by simp [h]) ((Chk.run_canonical_iff (by simp) h).2 fun _ _ => by simp [h])

@[simp] theorem execKacrd_canonical (d : KReg) (a : AccR) {s : State} (h : s.canon) : Canonical (execKacrd d a s) := by
  simp [execKacrd, h]

@[simp] theorem execKred_canonical (d a : KReg) {s : State} (h : s.canon) : Canonical (execKred d a s) := by
  simp [execKred, h]

@[simp] theorem execKmov_canonical (d a : KReg) {s : State} (h : s.canon) : Canonical (execKmov d a s) := by
  simp [execKmov, h]

@[simp] theorem execKmovTr_canonical (d a : KReg) {s : State} (h : s.canon) : Canonical (execKmovTr d a s) := by
  simp [execKmovTr, h]

@[simp] theorem execKmode_canonical (a b : SReg) {s : State} (h : s.canon) : Canonical (execKmode a b s) := by
  simp [execKmode, h]

@[simp] theorem kPtr_canon (x : Word) : (kPtr x).canon fun _ => True :=
  (Chk.bind_canon_iff (by simp)).2 fun p _ => alignChk_canon p 32

@[simp] theorem State.kld_canonical {s : State} (i : Instr) (d : KReg) (a : SReg) (n : Nat) (h : s.canon) : Canonical (s.kld i d a n) := by
  refine (State.computing_canonical h _).2 fun _ => canonical_ite_of (by simp [h]) ((Chk.run_canonical_iff (by simp) h).2 fun p _ => ?_)
  refine Chk.run_canonical (State.placeAll_canon false _ h) h fun y hy => ?_
  obtain ⟨ps, t⟩ := y
  have ht : t.canon := hy
  refine (State.withEntry_canonical ht _).2 fun e _ => canonical_ite_of ?_ ?_
  · exact State.sendLoad_canonical ht _ _ _ _ _ fun v hv => (State.retire_canon v).2 hv
  · split
    · simp [ht]
    · refine (canonical_next _).2 (State.retireEntry_canon _ ((State.retire_canon _).2 ((State.putEntry_canon _ _ _).2 ?_)))
      exact State.readHere_canon ps ht

@[simp] theorem execKldMp32_canonical (d : KReg) (a : SReg) {s : State} (h : s.canon) : Canonical (execKldMp32 d a s) :=
  State.kld_canonical _ _ _ _ h

@[simp] theorem execKldMb16_canonical (d : KReg) (a : SReg) {s : State} (h : s.canon) : Canonical (execKldMb16 d a s) :=
  State.kld_canonical _ _ _ _ h

@[simp] theorem State.kst_canonical {s : State} (d : KReg) (a : SReg) (bytes : MomentReg → List PByte) (h : s.canon) :
    Canonical (s.kst d a bytes) := by
  refine (State.computing_canonical h _).2 fun _ => canonical_ite_of (by simp [h]) ((Chk.run_canonical_iff (by simp) h).2 fun p _ => ?_)
  exact State.storeTo_canonical h _ _ _ _ _ fun t ht => by simp [ht]

@[simp] theorem execKstMp32_canonical (d : KReg) (a : SReg) {s : State} (h : s.canon) : Canonical (execKstMp32 d a s) := by
  simp [execKstMp32, h]

@[simp] theorem execKstMb16_canonical (d : KReg) (a : SReg) {s : State} (h : s.canon) : Canonical (execKstMb16 d a s) := by
  simp [execKstMb16, h]

@[simp] theorem State.kmma_canonical {s : State} (i : Instr) (a b : Ring) (m : MatX) (h : s.canon) : Canonical (s.kmma i a b m) :=
  (State.computing_canonical h _).2 fun _ => State.twoRings_canonical h a b
    (State.unitIssue_canonical h _ _ _ _ _ _ fun u => bindPair_canon h u a b _ _)

@[simp] theorem execKmmaDwAcc_canonical (d : AccR) (a b : Ring) (keep : Keep) (m : MatX) {s : State} (h : s.canon) : Canonical
    (execKmmaDwAcc d a b keep m s) := by
  simp [execKmmaDwAcc, h]

@[simp] theorem execKmmaMwAcc_canonical (d : AccR) (a b : Ring) (keep : Keep) (m : MatX) {s : State} (h : s.canon) : Canonical
    (execKmmaMwAcc d a b keep m s) := by
  simp [execKmmaMwAcc, h]

@[simp] theorem execKmmaDwOvw_canonical (d : AccR) (a b : Ring) (keep : Keep) (m : MatX) {s : State} (h : s.canon) : Canonical
    (execKmmaDwOvw d a b keep m s) := by
  simp [execKmmaDwOvw, h]

@[simp] theorem execKmmaMwOvw_canonical (d : AccR) (a b : Ring) (keep : Keep) (m : MatX) {s : State} (h : s.canon) : Canonical
    (execKmmaMwOvw d a b keep m s) := by
  simp [execKmmaMwOvw, h]

@[simp] theorem State.fence_canonical {s : State} (loads : Bool) (writes : Option Scope) (h : s.canon) : Canonical (s.fence loads writes) := by
  simp [State.fence, h]

@[simp] theorem execFenceRwTile_canonical {s : State} (h : s.canon) : Canonical (execFenceRwTile s) := by
  simp [execFenceRwTile, h]

@[simp] theorem execFenceRwQuad_canonical {s : State} (h : s.canon) : Canonical (execFenceRwQuad s) := by
  simp [execFenceRwQuad, h]

@[simp] theorem execFenceRwRegion_canonical {s : State} (h : s.canon) : Canonical (execFenceRwRegion s) := by
  simp [execFenceRwRegion, h]

@[simp] theorem execFenceRwWafer_canonical {s : State} (h : s.canon) : Canonical (execFenceRwWafer s) := by
  simp [execFenceRwWafer, h]

@[simp] theorem execFenceRwPod_canonical {s : State} (h : s.canon) : Canonical (execFenceRwPod s) := by
  simp [execFenceRwPod, h]

@[simp] theorem execFenceR_canonical {s : State} (h : s.canon) : Canonical (execFenceR s) := by
  simp [execFenceR, h]

@[simp] theorem execFenceWTile_canonical {s : State} (h : s.canon) : Canonical (execFenceWTile s) := by
  simp [execFenceWTile, h]

@[simp] theorem execFenceWQuad_canonical {s : State} (h : s.canon) : Canonical (execFenceWQuad s) := by
  simp [execFenceWQuad, h]

@[simp] theorem execFenceWRegion_canonical {s : State} (h : s.canon) : Canonical (execFenceWRegion s) := by
  simp [execFenceWRegion, h]

@[simp] theorem execFenceWWafer_canonical {s : State} (h : s.canon) : Canonical (execFenceWWafer s) := by
  simp [execFenceWWafer, h]

@[simp] theorem execFenceWPod_canonical {s : State} (h : s.canon) : Canonical (execFenceWPod s) := by
  simp [execFenceWPod, h]

@[simp] theorem execFenceI_canonical {s : State} (h : s.canon) : Canonical (execFenceI s) := by
  simp [execFenceI, h]

@[simp] theorem execJournalCheckpoint_canonical (quay : Nat) {s : State} (h : s.canon) : Canonical (execJournalCheckpoint quay s) := by
  simp [execJournalCheckpoint, h]

@[simp] theorem execJournalGapRecord_canonical (quay : Nat) {s : State} (h : s.canon) : Canonical (execJournalGapRecord quay s) := by
  simp [execJournalGapRecord, h]

theorem newTile_wf (s : State) (x : Ctx) (ctx part tag : Nat) (im : ModuleImage) (place : List Placed) (rank : Nat) :
    (newTile s x ctx part tag im place rank).tile.slice.wf = true :=
  foldl_keeps (fun m : Memory => m.wf = true) _ (fun _ _ hm => Memory.wf_writeMany _ _ _ hm) _ _ rfl

theorem State.occupy_canon (us : List FullTile) {s : State} (h : s.canon) : (s.occupy us).canon := by
  induction us generalizing s with
  | nil => exact h
  | cons u us ih => exact ih ((canon_mk ..).2 (State.putTile_canon h _ (Tile.scrambled_wf _ _)))

@[simp] theorem State.startTeam_canon {s : State} (t : Team) (h : s.canon) (ht : ∀ u ∈ t.dockTiles, u.tile.slice.wf = true) :
    (s.startTeam t).canon := by
  refine State.putTeam_canon (State.mapTiles_canon h _ _ ?_) _ ht
  exact fun _ hu => hu

@[simp] theorem State.dequeue_canon (s : State) (reg : Nat) (q : Queued) : (s.dequeue reg q).canon ↔ s.canon := Iff.rfl

theorem mapEdges_canon (n : Nat) {x : Ctx} (h : x.canon) (es : List (Nat × Nat)) : (mapEdges n x es).canon := by
  refine foldl_keeps Ctx.canon _ (fun x e hx => foldl_keeps Ctx.canon _ (fun x c hx => ?_) _ _ hx) _ _ h
  cases e : x.mapPage n c.1 true with
  | none => exact hx
  | some y => exact Ctx.mapPage_canon hx e

theorem State.addTeam_canon {s : State} (h : s.canon) (t : Team) (ht : ∀ u ∈ t.dockTiles, u.tile.slice.wf = true) :
    State.canon { s with teams := s.teams ++ [t] } := by
  refine memsCanon_teams h fun v hv => ?_
  rcases List.mem_append.1 hv with hv | hv
  · exact fun u hu => State.dock_wf h hv hu
  · rw [List.mem_singleton.1 hv]; exact ht

theorem State.place_canon {s : State} (h : s.canon) (q : Queued) (reg : Nat) (c : PlaceChoice) : (s.place q reg c).canon := by
  unfold State.place
  extract_lets copy t pl x us s1 s2
  have h1 : s1.canon := State.putCtx_canon h _ _ (mapEdges_canon _ (State.ctx_canon h _) _)
  have h2 : s2.canon := State.canon_ite_of h1 ((State.dequeue_canon _ _ _).2 h1)
  clear_value s2
  split
  · exact State.startTeam_canon t (State.occupy_canon us (State.addTeam_canon h2 t fun u hu => nomatch hu)) fun u hu => nomatch hu
  · refine State.addTeam_canon h2 _ fun u hu => ?_
    obtain ⟨n, _, rfl⟩ := List.mem_map.1 hu
    exact newTile_wf _ _ _ _ _ _ _ _

@[simp] theorem execLaunchQueueTake_canonical (region : Nat) (c : PlaceChoice) {s : State} (h : s.canon) :
    Canonical (execLaunchQueueTake region c s) := by
  unfold execLaunchQueueTake
  split
  · simp [h]
  · refine canonical_ite_of (by simp [h]) (canonical_ite_of (by simp [h]) (canonical_ite_of (by simp [h]) (canonical_ite_of ?_ (by simp [h]))))
    exact (canonical_next _).2 (State.place_canon h _ _ _)

@[simp] theorem State.returnLeases_canon {s : State} (h : s.canon) : (s.returnLeases).canon := by
  simp [State.returnLeases, h]

@[simp] theorem State.stopCore_canon {s : State} (h : s.canon) : s.stopCore.canon := by
  have h1 := rpshFillAll_canon s.core.rpsh.length h
  refine (canon_mk ..).2 (State.returnLeases_canon ((State.withdraw_canon _).2 (State.canon_ite_of (State.mmqHalt_canon h1) h1)))

@[simp] theorem execStopRequest_canonical {s : State} (h : s.canon) : Canonical (execStopRequest s) := by
  refine canonical_ite_of ?_ (by simp [h])
  split
  · rename_i t e
    exact (canonical_next _).2 (State.putTeam_canon (State.stopCore_canon h) _ fun u hu => State.dock_wf h (State.team?_mem e) hu)
  · simp [h]

@[simp] theorem State.answerRpc_canon {s : State} (cmd part : Nat) (adm : Bool) (reqid : BitVec 64) (status : Nat) (bs : List Byte)
    (h : s.canon) : (s.answerRpc cmd part adm reqid status bs).canon := by
  simp [State.answerRpc, h]

@[simp] theorem State.settleStops_canon {s : State} (h : s.canon) : s.settleStops.canon :=
  foldl_keeps State.canon _ (fun _ _ ht => State.answerRpc_canon _ _ _ _ _ _ ht) _ _ ((canon_mk ..).2 h)

@[simp] theorem State.releaseCtx_canon {s : State} (n : Nat) (h : s.canon) : (s.releaseCtx n).canon := by
  have h1 : ((s.ctx n).releasing.foldl (fun s r => s.answerRpc 5 r.2.1 r.2.2 r.1 0 []) s).canon :=
    foldl_keeps State.canon _ (fun t x ht => State.answerRpc_canon _ _ _ _ _ _ ht) _ _ h
  exact memsCanon_ctxs h1 fun c hc => h1.2.2.1 c (List.mem_filter.1 hc).1

@[simp] theorem State.settleReleases_canon {s : State} (h : s.canon) : s.settleReleases.canon :=
  foldl_keeps State.canon _ (fun _ _ ht => State.releaseCtx_canon _ ht) _ _ (State.settleStops_canon h)

@[simp] theorem State.endPlain_canon {s : State} (t : Team) (us : List FullTile) (status : Nat) (words : List Word) (flags : Nat)
    (h : s.canon) : (s.endPlain t us status words flags).canon := by
  refine State.finishTeam_canon _ _ _ (State.journalCtx_canon _ _ _ (State.dropGroups_canon _ (State.putCtx_canon h _ _ ?_)))
  exact State.ctx_canon h t.ctx

@[simp] theorem State.endPaired_canon {s : State} (t : Team) (us : List FullTile) (commit : Option Nat) (status : Nat) (words : List Word)
    (h : s.canon) : (s.endPaired t us commit status words).canon := by
  unfold State.endPaired
  extract_lets x x1 x2 s1 others
  have hx1 : x1.canon := by
    cases commit with
    | none => exact State.ctx_canon h _
    | some k => exact Ctx.commit_canon _ (State.ctx_canon h _)
  have hx2 : x2.canon := foldl_keeps Ctx.canon _ (fun x k hx => Ctx.dropShadow_canon _ hx) _ _ hx1
  have h1 : s1.canon := (State.settleStorage_canon _ _ _ _).2 (State.putCtx_canon h _ _ hx2)
  exact State.endPlain_canon _ _ _ _ _ (foldl_keeps State.canon _ (fun s u hs => State.removeTeam_canon u hs) _ _ h1)

theorem State.copyEnd_canon {s : State} (h : s.canon) (t : Team) (us : List FullTile) (ht : ∀ u ∈ t.dockTiles, u.tile.slice.wf = true) :
    (s.copyEnd t us).canon := by
  unfold State.copyEnd
  extract_lets mine all sigOf wordsOf' s1 s2
  have h2 : s2.canon := State.putTeam_canon (State.releaseTiles_canon _ _ h) _ ht
  clear_value s2
  split
  · split <;> simp [h2]
  · split
    · simp [h2]
    · split <;> simp [h2]
  · exact h2

@[simp] theorem execTeamEnd_canonical (ctx tag : Nat) {s : State} (h : s.canon) : Canonical (execTeamEnd ctx tag s) := by
  unfold execTeamEnd
  split
  · rename_i t e
    refine canonical_ite_of ((canonical_next _).2 ((State.sendStops_canon _ _ _).2 ?_)) (by simp [h])
    exact State.putTeam_canon h _ fun u hu => State.dock_wf h (State.team?_mem e) hu
  · simp [h]

theorem State.mapTeams_canon {s : State} (h : s.canon) (f : Team → Team)
    (hf : ∀ t ∈ s.teams, ∀ u ∈ (f t).dockTiles, u.tile.slice.wf = true) : State.canon { s with teams := s.teams.map f } := by
  refine memsCanon_teams h fun t ht => ?_
  obtain ⟨v, hv, rfl⟩ := List.mem_map.1 ht
  exact hf v hv

theorem State.beginSwap_canon {s : State} (h : s.canon) (t : Team) (why : Nat) (ht : ∀ u ∈ t.dockTiles, u.tile.slice.wf = true) :
    (s.beginSwap t why).canon := by
  unfold State.beginSwap
  refine (State.sendStops_canon _ _ _).2 (foldl_keeps State.canon _ (fun s p hs => State.divert_canon p hs) _ _ ?_)
  refine State.putTeam_canon (State.mapTiles_canon h _ _ ?_) _ ht
  exact fun _ hu => hu

@[simp] theorem execTeamSwapOut_canonical (ctx tag : Nat) {s : State} (h : s.canon) : Canonical (execTeamSwapOut ctx tag s) := by
  unfold execTeamSwapOut
  split
  · rename_i t e
    refine canonical_ite_of ((canonical_next _).2 ?_) (by simp [h])
    exact State.beginSwap_canon h t 2 fun u hu => State.dock_wf h (State.team?_mem e) hu
  · simp [h]

theorem FullTile.docked_wf {u : FullTile} (h : u.tile.slice.wf = true) : u.docked.tile.slice.wf = true := Memory.wf_filter _ _ h

@[simp] theorem State.dockKill_canon {s : State} (ctx : Nat) (h : s.canon) : (s.dockKill ctx).canon :=
  State.settleReleases_canon (State.killContext_canon _ _ _ _ _ _ h)

theorem State.tilesOf_wf {s : State} (h : s.canon) {t : Team} {u : FullTile} (hu : u ∈ s.tilesOf t) : u.tile.slice.wf = true := by
  rcases List.mem_cons.1 (List.mem_filter.1 hu).1 with rfl | hu
  · exact (congrArg (fun t : Tile => t.slice.wf) (State.curTile_tile s)).trans (State.tile_wf h)
  · exact State.tiles_wf h hu

theorem mem_of_mem_byRank {us : List FullTile} {u : FullTile} (hu : u ∈ byRank us) : u ∈ us := by
  obtain ⟨n, _, hn⟩ := List.mem_filterMap.1 hu
  exact List.mem_of_find?_eq_some hn

@[simp] theorem State.dock_canon {s : State} (t : Team) (h : s.canon) : (s.dock t).canon := by
  refine State.putTeam_canon (State.releaseTiles_canon _ _ (State.journalCtx_canon _ _ _ h)) _ fun u hu => ?_
  obtain ⟨v, hv, rfl⟩ := List.mem_map.1 hu
  exact FullTile.docked_wf (State.tilesOf_wf h (mem_of_mem_byRank hv))

theorem retireHeld_canon (ns : List (Fin 8)) {s : State} (h : s.canon) : (retireHeld ns s).canon := by
  induction ns generalizing s with
  | nil => exact h
  | cons n r ih =>
    unfold retireHeld
    dsimp only
    split
    · exact ih (State.retireEntry_canon _ h)
    · exact ih h

@[simp] theorem State.resumeCore_canon {s : State} (h : s.canon) : s.resumeCore.canon := retireHeld_canon _ ((canon_mk ..).2 h)

@[simp] theorem State.revisePromises_canon (s : State) : (s.revisePromises).canon ↔ s.canon := Iff.rfl

@[simp] theorem State.resumeTile_canon {s : State} (id : TileId) (h : s.canon) : (s.resumeTile id).canon :=
  State.atCore_canon (State.atCore_canon h _ _ fun t ht => State.resumeCore_canon ((State.revisePromises_canon t).2 ht)) _ _ fun _ ht =>
    State.resumeCore_canon ht

@[simp] theorem State.replay_canon {s : State} (p : Packet) (h : s.canon) : (s.replay p).canon := by
  unfold State.replay
  split
  · split
    · exact State.atCore_canon h _ _ fun t ht => State.response_canon p ht
    · simp [h]
  · exact h

@[simp] theorem State.undock_canon {s : State} (t : Team) (o : Nat × Nat) (h : s.canon) : (s.undock t o).canon :=
  State.occupy_canon _ ((canon_mk ..).2 h)

@[simp] theorem execTeamSwapIn_canonical (ctx tag : Nat) (c : PlaceChoice) {s : State} (h : s.canon) :
    Canonical (execTeamSwapIn ctx tag c s) := by
  unfold execTeamSwapIn
  split
  · rename_i t o _ _
    extract_lets x quarters apart room spill t' s1 s2 s3
    have h1 : s1.canon := State.putTeam_canon (State.undock_canon t o h) t' fun u hu => nomatch hu
    have h2 : s2.canon := State.canon_ite_of h1 (State.startTeam_canon t' h1 fun u hu => nomatch hu)
    have h3 : s3.canon := foldl_keeps State.canon _ (fun s p hs => State.replay_canon p hs) _ _ h2
    refine canonical_ite_of (by simp [h]) (canonical_ite_of (by simp [h]) ((canonical_next _).2 ?_))
    exact foldl_keeps State.canon _ (fun s p hs => State.resumeTile_canon _ hs) _ _ h3
  · simp [h]

@[simp] theorem execSwapAnnouncement_canonical (ctx tag : Nat) {s : State} (h : s.canon) : Canonical (execSwapAnnouncement ctx tag s) := by
  simp [execSwapAnnouncement, h]

@[simp] theorem execSpillDivert_canonical (p : Packet) {s : State} (h : s.canon) : Canonical (execSpillDivert p s) := by
  simp [execSpillDivert, h]

@[simp] theorem execCollectorQuiescent_canonical (ctx tag : Nat) {s : State} (h : s.canon) : Canonical (execCollectorQuiescent ctx tag s) := by
  unfold execCollectorQuiescent
  split
  · simp [h]
  · rename_i t e
    have ht : ∀ u ∈ t.dockTiles, u.tile.slice.wf = true := fun u hu => State.dock_wf h (State.team?_mem e) hu
    dsimp only
    split
    · refine canonical_ite_of (canonical_ite_of ((canonical_next _).2 ?_) ((canonical_next _).2 ?_)) (by simp [h])
      · exact State.settleReleases_canon (State.settleKill_canon _ (State.finishKilled_canon _ h))
      · exact State.settleReleases_canon (State.canon_ite_of (State.copyEnd_canon h t _ ht) (State.endPlain_canon _ _ _ _ _ h))
    · exact canonical_ite_of ((canonical_next _).2 (State.canon_ite_of (State.dockKill_canon _ h) (State.dock_canon _ h))) (by simp [h])
    · simp [h]

@[simp] theorem execTokenBucketRefill_canonical (ctx : Nat) {s : State} (h : s.canon) : Canonical (execTokenBucketRefill ctx s) := by
  unfold execTokenBucketRefill
  extract_lets x s1 quays s2 s3 s4 s5 waits ys s6
  have h1 : s1.canon := State.putCtx_canon h _ _ (State.ctx_canon h ctx)
  have h2 : s2.canon := foldl_keeps State.canon _ (fun s q hs => (State.putRegion_canon _ _ _).2 hs) _ _ h1
  have h3 : s3.canon := State.journalCtx_canon _ _ _ h2
  have h4 : s4.canon := State.mapTiles_canon h3 _ _ fun _ hu => hu
  have h5 : s5.canon := by
    refine State.mapTeams_canon h4 _ fun t ht u hu => ?_
    dsimp only at hu
    have hd : ∀ v ∈ t.dockTiles.map FullTile.refilled, v.tile.slice.wf = true := fun v hv => by
      obtain ⟨w, hw, rfl⟩ := List.mem_map.1 hv
      exact State.dock_wf (u := w) h4 ht hw
    split at hu
    · split at hu <;> exact hd u hu
    · exact State.dock_wf h4 ht hu
  have h6 : s6.canon := by
    refine State.mapTeams_canon h5 _ fun t ht u hu => State.dock_wf h5 ht ?_
    split at hu <;> exact hu
  refine canonical_ite_of (by simp [h]) ((canonical_next _).2 (State.canon_ite_of ?_ h6))
  refine foldl_mem_keeps State.canon _ _ _ (fun s v hv hs => State.beginSwap_canon hs _ 2 fun u hu => ?_) h6
  exact State.dock_wf h5 (List.mem_filter.1 (List.mem_filter.1 hv).1).1 hu

@[simp] theorem execTokenBucketEmpty_canonical (ctx : Nat) {s : State} (h : s.canon) : Canonical (execTokenBucketEmpty ctx s) := by
  refine canonical_ite_of (by simp [h]) ((canonical_next _).2 (foldl_mem_keeps State.canon _ _ _ (fun t v hv ht => ?_) h))
  exact State.beginSwap_canon ht v 3 fun u hu => State.dock_wf h (List.mem_filter.1 hv).1 hu

@[simp] theorem State.chargeShare_canon {s : State} (energy total : Nat) (xs : List (FullTile × Nat)) (t : Team) (h : s.canon) :
    (s.chargeShare energy total xs t).canon := by
  refine foldl_keeps State.canon _ (fun s x hs => State.mapTiles_canon hs _ _ fun u hu => ?_) _ _ (State.chargeCtx_canon _ _ _ _ h)
  simp [hu]

@[simp] theorem execEnergyMeterPeriod_canonical (region microjoules : Nat) {s : State} (h : s.canon) :
    Canonical (execEnergyMeterPeriod region microjoules s) := by
  refine (canonical_next _).2 (foldl_keeps State.canon _ (fun t v ht => State.chargeShare_canon _ _ _ _ ht) _ _ ?_)
  simp [h]

@[simp] theorem State.modRegion_canon (s : State) (n : Nat) (f : Region → Region) : (s.modRegion n f).canon ↔ s.canon := Iff.rfl

@[simp] theorem State.stepClock_canon (s : State) (region : Nat) (up : Bool) : (s.stepClock region up).canon ↔ s.canon := by
  simp [State.stepClock]

@[simp] theorem execClockStepChange_canonical (region : Nat) (up : Bool) {s : State} (h : s.canon) : Canonical
    (execClockStepChange region up s) := by
  simp [execClockStepChange, h]

@[simp] theorem State.askedSteps_canon {s : State} (h : s.canon) : s.askedSteps.canon :=
  foldl_keeps State.canon _ (fun t _ ht => (State.stepClock_canon _ _ _).2 ((State.modRegion_canon t _ _).2 ht)) _ _ h

@[simp] theorem execPllRelockDone_canonical (region : Nat) {s : State} (h : s.canon) : Canonical (execPllRelockDone region s) := by
  simp [execPllRelockDone, h]

@[simp] theorem execGovernorTick_canonical (milliwatts : Nat) {s : State} (h : s.canon) : Canonical (execGovernorTick milliwatts s) := by
  unfold execGovernorTick
  extract_lets lowering s1
  have h1 : s1.canon := h
  clear_value s1
  refine canonical_ite_of ?_ (by simp [h1])
  split <;> simp [h1]

@[simp] theorem execDroopStretch_canonical (region : Nat) (percent : Nat) {s : State} (h : s.canon) : Canonical
    (execDroopStretch region percent s) := by
  simp [execDroopStretch, h]

@[simp] theorem State.leaveOn_canon {s : State} (n : Nat) (r' : Region → Region) (h : s.canon) : (s.leaveOn n r').canon := by
  unfold State.leaveOn
  extract_lets ctxs s1 s2 r heir s3 s4 s5 s6 b s7 s8 s9
  have h1 : s1.canon := State.mapTiles_canon h _ _ fun _ _ => rfl
  have h2 : s2.canon := foldl_keeps State.canon _ (fun t c ht => State.killContext_canon _ _ _ _ _ _ ht) _ _ h1
  have h3 : s3.canon := (State.modRegion_canon _ _ _).2 h2
  have h4 : s4.canon := (State.putRegion_canon _ _ _).2 h3
  have h5 : s5.canon := State.lose_canon _ h4
  have h7 : s7.canon := h5
  have h8 : s8.canon := foldl_keeps State.canon _ (fun t l ht => State.endFail_canon l ht) _ _ h7
  have h9 : s9.canon := (State.report_canon ..).2 h8
  exact State.settleReleases_canon (State.canon_ite_of h9 h9)

@[simp] theorem State.addException_canon {s : State} (x g : Nat) (e : BitVec 64) (h : s.canon) : (s.addException x g e).canon := by
  unfold State.addException
  refine State.canon_ite_of h ?_
  split
  · exact State.canon_ite_of h ((State.writeException_canon _ _).2 h)
  · exact h

@[simp] theorem State.addDetours_canon {s : State} (es : List (Nat × Nat × BitVec 64)) (h : s.canon) : (s.addDetours es).canon := by
  refine foldl_keeps State.canon _ (fun t e ht => ?_) _ _ h
  exact State.canon_ite_of (State.addException_canon _ _ _ ht) ht

@[simp] theorem State.detourSite_canon {s : State} (x g : Nat) (h : s.canon) : (s.detourSite x g).canon := by
  simp [State.detourSite, h]

@[simp] theorem State.giveDetours_canon {s : State} (here : Nat → Bool) (h : s.canon) : (s.giveDetours here).canon := by
  simp [State.giveDetours, h]

@[simp] theorem State.noteReplace_canon {s : State} (h : s.canon) : (s.noteReplace).canon := by
  simp [State.noteReplace, h]

@[simp] theorem State.openRpc_canon {s : State} (b : BootFacts) (h : s.canon) : (s.openRpc b).canon := by
  refine State.noteReplace_canon (State.giveDetours_canon _ ((canon_mk ..).2 ?_))
  exact foldl_keeps State.canon _ (fun t n ht => (State.modRegion_canon t _ _).2 ht) _ _ h

@[simp] theorem State.bootStep_canon {s : State} (h : s.canon) : (s.bootStep).canon := by
  unfold State.bootStep
  (repeat' split) <;> simp [h]

@[simp] theorem execRampInTolerance_canonical (region : Nat) {s : State} (h : s.canon) : Canonical (execRampInTolerance region s) := by
  simp [execRampInTolerance, h]

@[simp] theorem execRampTimeout_canonical (region : Nat) {s : State} (h : s.canon) : Canonical (execRampTimeout region s) := by
  simp [execRampTimeout, h]

@[simp] theorem execRegulatorFault_canonical (region : Nat) {s : State} (h : s.canon) : Canonical (execRegulatorFault region s) := by
  simp [execRegulatorFault, h]

@[simp] theorem execCoolDone_canonical (region : Nat) {s : State} (h : s.canon) : Canonical (execCoolDone region s) := by
  simp [execCoolDone, h]

@[simp] theorem execTriesReset_canonical (region : Nat) {s : State} (h : s.canon) : Canonical (execTriesReset region s) := by
  simp [execTriesReset, h]

@[simp] theorem execModulePowerCycle_canonical (s : State) : Canonical (execModulePowerCycle s) := (canonical_next _).2 reset_canon

@[simp] theorem execModuleBoot_canonical (b : BootFacts) {s : State} (h : s.canon) : Canonical (execModuleBoot b s) := by
  simp [execModuleBoot, h]

theorem State.beginSwaps_canon {s : State} (h : s.canon) (p : Team → Bool) (why : Nat) :
    ((s.teams.filter p).foldl (fun s t => s.beginSwap t why) s).canon :=
  foldl_mem_keeps State.canon _ _ _ (fun _ v hv ht => State.beginSwap_canon ht v why fun _ hu => State.dock_wf h (List.mem_filter.1 hv).1 hu) h

@[simp] theorem State.retireStart_canon {s : State} (region col prow : Nat) (spare : Bool) (ws : List RouterWrite) (h : s.canon) :
    (s.retireStart region col prow spare ws).canon := by
  unfold State.retireStart
  extract_lets r row x y u s1 q pending cs s2
  have h1 : s1.canon := State.canon_ite_of ((State.report_canon ..).2 h) h
  have hp : ∀ t : State, t.canon → (pending t).canon := fun t ht => State.mapTiles_canon ht _ _ fun _ hu => hu
  have h2 : s2.canon := State.beginSwaps_canon h1 _ 4
  refine State.canon_ite_of h (State.canon_ite_of (State.canon_ite_of h h) (State.canon_ite_of ?_ (State.canon_ite_of h1 ?_)))
  · exact hp _ ((State.sendStops_canon _ _ _).2 h1)
  · exact hp _ h2

@[simp] theorem State.retireSite_canon {s : State} (q : Retiring) (h : s.canon) : (s.retireSite q).canon := by
  unfold State.retireSite
  extract_lets x g row s1 s2 s3 given s4
  have h1 : s1.canon := State.lose_canon _ h
  have h2 : s2.canon := (State.modRegion_canon _ _ _).2 h1
  have h3 : s3.canon := by
    refine State.canon_ite_of ((State.modRegion_canon _ _ _).2 h1) ?_
    cases row <;> exact h2
  have hg : given.canon := foldl_keeps State.canon _ (fun t w ht => (State.writeException_canon t w).2 ht) _ _ h3
  exact State.canon_ite_of hg (State.detourSite_canon _ _ h3)

@[simp] theorem State.retireEnd_canon {s : State} (q : Retiring) (h : s.canon) : (s.retireEnd q).canon := by
  unfold State.retireEnd
  extract_lets s1 s2 s3
  have h2 : s2.canon := by
    refine foldl_keeps State.canon _ (fun t c ht => State.atCore_canon ht _ _ fun v hv => ?_) _ _ h
    exact State.canon_ite_of hv ((canon_mk ..).2 (State.resumeCore_canon hv))
  have h3 : s3.canon := State.noteReplace_canon h2
  clear_value s3
  split
  · exact h3
  · exact State.retireStart_canon _ _ _ _ _ h3

@[simp] theorem State.retireStep_canon {s : State} (h : s.canon) : s.retireStep.canon := by
  unfold State.retireStep
  split
  · exact h
  · split
    · exact State.canon_ite_of h h
    · exact State.retireSite_canon _ h
    · exact State.askedSteps_canon ((State.notices_canon _).2 h)
    · exact State.canon_ite_of h (State.retireEnd_canon _ h)

@[simp] theorem execTileRetirement_canonical (region : Nat) (col prow : Nat) (spare : Bool) (rewrites : List RouterWrite) {s : State}
    (h : s.canon) : Canonical (execTileRetirement region col prow spare rewrites s) := by
  simp [execTileRetirement, h]

@[simp] theorem State.reportBad_canon (s : State) : (s.reportBad).canon ↔ s.canon := by
  simp [State.reportBad]

@[simp] theorem State.watchErrors_canon {s : State} (h : s.canon) : s.watchErrors.canon := by
  unfold State.watchErrors
  extract_lets s1 t now ts due s2
  have h1 : s1.canon := (State.reportBad_canon s).2 h
  have h2 : s2.canon := h1
  refine State.canon_ite_of h1 ?_
  clear_value s2
  split
  · exact State.canon_ite_of (State.retireStart_canon _ _ _ _ _ ((State.reportTile_canon ..).2 h2)) h2
  · exact h2

@[simp] theorem State.giveUp_canon (s : State) : (s.giveUp).canon ↔ s.canon := Iff.rfl

@[simp] theorem execStopAckTimeout_canonical (ctx tag : Nat) {s : State} (h : s.canon) : Canonical (execStopAckTimeout ctx tag s) := by
  unfold execStopAckTimeout
  split
  · split
    · rename_i u _
      extract_lets s1
      have h1 : s1.canon := State.settleReleases_canon (State.atCore_canon h _ _ fun t ht =>
        State.atCore_canon (State.killContext_canon _ _ _ _ _ _ ht) _ _ fun v hv => (State.giveUp_canon v).2 hv)
      clear_value s1
      refine (canonical_next _).2 ?_
      split
      · exact State.retireStart_canon _ _ _ _ _ h1
      · exact h1
    · simp [h]
  · simp [h]

@[simp] theorem State.noDetour_canon {s : State} (l : Link) (h : s.canon) : (s.noDetour l).canon := by
  unfold State.noDetour
  extract_lets s1 ends
  have h1 : s1.canon := State.settleReleases_canon
    (foldl_keeps State.canon _ (fun t c ht => State.killContext_canon _ _ _ _ _ _ ht) _ _ h)
  clear_value s1
  split
  · exact State.retireStart_canon _ _ _ _ _ h1
  · exact h1

@[simp] theorem execFailureReport_canonical (l : Link) (detour : Option (List RouterWrite)) {s : State} (h : s.canon) :
    Canonical (execFailureReport l detour s) := by
  refine canonical_ite_of (by simp [h]) ?_
  split
  · refine canonical_ite_of ((canonical_next _).2 ((State.installed_canon _).2 ?_)) (by simp [h])
    exact foldl_keeps State.canon _ (fun t w ht => (State.sendEntry_canon t w).2 ht) _ _ h
  · exact (canonical_next _).2 (State.canon_ite_of h (State.noDetour_canon _ h))

@[simp] theorem execEdgeMemoryModuleFailure_canonical (engine : Bool) (number : Nat) {s : State} (h : s.canon) : Canonical
    (execEdgeMemoryModuleFailure engine number s) := by
  simp [execEdgeMemoryModuleFailure, h]

@[simp] theorem State.respond_canon {s : State} (f : Frame) (cmd status : Nat) (bs : List Byte) (h : s.canon) :
    (s.respond f cmd status bs).canon := by
  simp [State.respond, h]

theorem State.rpc_canonical {s : State} (h : s.canon) (f : Frame) (cmd : Nat) (adm attest : Bool)
    (k : State → Option (Nat × List Byte) × State) (hk : ∀ t : State, t.canon → (k t).2.canon) : Canonical (s.rpc f cmd adm attest k) := by
  unfold State.rpc
  extract_lets fenced p s1
  have h1 : s1.canon := h
  have h2 := hk s1 h1
  clear_value s1
  refine canonical_ite_of (by simp [h]) (canonical_ite_of (by simp [p, h]) ?_)
  split
  · exact (canonical_next _).2 h1
  · refine canonical_ite_of (by simp [h1]) (canonical_ite_of (by simp [h1]) (canonical_ite_of (by simp [h1]) ?_))
    split
    · rename_i e
      rw [e] at h2
      exact (canonical_next _).2 (State.respond_canon _ _ _ _ h2)
    · rename_i e
      rw [e] at h2
      exact (canonical_next _).2 h2

@[simp] theorem deny_state (st : Nat) (s : State) : (deny st s).2 = s := rfl

theorem canon_snd_ite_of {α : Type} {c : Prop} [Decidable c] {x y : α × State} (hx : x.2.canon) (hy : y.2.canon) :
    (if c then x else y).2.canon := by
  split
  · exact hx
  · exact hy

@[simp] theorem execLaunch_canonical (f : Frame) (pkt : LaunchPacket) {s : State} (h : s.canon) : Canonical (execLaunch f pkt s) := by
  refine State.rpc_canonical h _ _ _ _ _ fun t ht => canon_snd_ite_of ht ?_
  extract_lets id q large s1
  have h1 : s1.canon := ht
  clear_value s1 id
  refine canon_snd_ite_of ht ?_
  refine canon_snd_ite_of ht ?_
  refine canon_snd_ite_of ht ?_
  dsimp only
  refine State.canon_ite_of ?_ (State.canon_ite_of ?_ (State.canon_ite_of ?_ ?_))
  · exact State.complete_canon _ _ _ _ _ h1
  · exact State.complete_canon _ _ _ _ _ h1
  · exact State.complete_canon _ _ _ _ _ h1
  · exact (State.modRegion_canon _ _ _).2 h1

@[simp] theorem execWrite_canonical (f : Frame) (ctx off : Nat) (data : List (BitVec 8)) {s : State} (h : s.canon) :
    Canonical (execWrite f ctx off data s) := by
  refine State.rpc_canonical h _ _ _ _ _ fun t ht => canon_snd_ite_of ht (canon_snd_ite_of ht ?_)
  refine State.putCtx_canon ht _ _ (Ctx.farStore_canon _ _ _ _ (foldl_keeps Ctx.canon _ (fun x o hx => ?_) _ _ (State.ctx_canon ht _)))
  cases e : x.mapPage ctx o true with
  | none => exact hx
  | some y => exact Ctx.mapPage_canon hx e

@[simp] theorem execRead_canonical (f : Frame) (ctx off len : Nat) {s : State} (h : s.canon) : Canonical (execRead f ctx off len s) :=
  State.rpc_canonical h _ _ _ _ _ fun _ ht => canon_snd_ite_of ht (canon_snd_ite_of ht ht)

@[simp] theorem execQueryResidency_canonical (f : Frame) {s : State} (h : s.canon) : Canonical (execQueryResidency f s) :=
  State.rpc_canonical h _ _ _ _ _ fun _ ht => ht

@[simp] theorem execQueryCounters_canonical (f : Frame) (ctx : Nat) {s : State} (h : s.canon) : Canonical (execQueryCounters f ctx s) := by
  refine State.rpc_canonical h _ _ _ _ _ fun t ht => canon_snd_ite_of ht ?_
  split <;> exact ht

@[simp] theorem execQueryErrorLog_canonical (f : Frame) (region : Nat) {s : State} (h : s.canon) : Canonical (execQueryErrorLog f region s) :=
  State.rpc_canonical h _ _ _ _ _ fun _ ht => ht

@[simp] theorem execQueryTrace_canonical (f : Frame) (region : Nat) {s : State} (h : s.canon) : Canonical (execQueryTrace f region s) :=
  State.rpc_canonical h _ _ _ _ _ fun _ ht => ht

theorem State.mapCtxs_canon {s : State} (h : s.canon) (f : Nat × Ctx → Nat × Ctx) (hf : ∀ x, x.2.canon → (f x).2.canon) :
    State.canon { s with ctxs := s.ctxs.map f } := by
  refine memsCanon_ctxs h fun c hc => ?_
  obtain ⟨d, hd, rfl⟩ := List.mem_map.1 hc
  exact hf d (h.2.2.1 d hd)

@[simp] theorem execAllocateQuarters_canonical (f : Frame) (q : QuarterGrant) {s : State} (h : s.canon) :
    Canonical (execAllocateQuarters f q s) := by
  refine State.rpc_canonical h _ _ _ _ _ fun t ht => ?_
  extract_lets p free bad badWin mine ws p' src s'
  have h1 : src.canon := State.putPart_canon ht _ _ (State.partOf_wf ht q.partition)
  have h' : s'.canon := by
    refine (canon_mk ..).2 (memsCanon_ctxs h1 fun c hc => ?_)
    obtain ⟨d, hd, rfl⟩ := List.mem_map.1 hc
    dsimp only
    split
    · exact ht.2.2.1 d hd
    · exact ht.2.2.1 d hd
  clear_value s' bad
  exact canon_snd_ite_of ht (canon_snd_ite_of ht h')

theorem newCtx_canon {pt : Part} (h : pt.net.wf = true) (part : Nat) (c : CtxRequest) : (newCtx pt part c).canon :=
  ⟨rfl, h, fun _ hx => (nomatch hx), fun _ hx => (nomatch hx)⟩

@[simp] theorem execAllocateCreateContext_canonical (f : Frame) (c : CtxRequest) {s : State} (h : s.canon) :
    Canonical (execAllocateCreateContext f c s) := by
  refine State.rpc_canonical h _ _ _ _ _ fun t ht => canon_snd_ite_of ht (canon_snd_ite_of ht (canon_snd_ite_of ht ?_))
  exact State.putCtx_canon ht _ _ (newCtx_canon (State.partOf_wf ht _) _ _)

@[simp] theorem execAllocateReleaseContext_canonical (f : Frame) (ctx : Nat) {s : State} (h : s.canon) :
    Canonical (execAllocateReleaseContext f ctx s) := by
  refine State.rpc_canonical h _ _ _ _ _ fun t ht => canon_snd_ite_of ht (canon_snd_ite_of ?_ ?_)
  · have h1 := State.flushQueues_canon ctx stAbandoned [] ht
    exact State.putCtx_canon h1 _ _ (State.ctx_canon h1 ctx)
  · have h1 := State.flushQueues_canon ctx stAbandoned [] ht
    exact memsCanon_ctxs h1 fun c hc => h1.2.2.1 c (List.mem_filter.1 hc).1

@[simp] theorem execStopContext_canonical (f : Frame) (ctx : Nat) {s : State} (h : s.canon) : Canonical (execStopContext f ctx s) :=
  State.rpc_canonical h _ _ _ _ _ fun _ ht => canon_snd_ite_of ht
    (State.settleReleases_canon ((canon_mk ..).2 (State.killContext_canon _ _ _ _ _ _ ht)))

@[simp] theorem execStopTeam_canonical (f : Frame) (ctx tag : Nat) {s : State} (h : s.canon) : Canonical (execStopTeam f ctx tag s) := by
  refine State.rpc_canonical h _ _ _ _ _ fun t ht => canon_snd_ite_of ht ?_
  split
  · exact ht
  · refine State.settleReleases_canon ((canon_mk ..).2 (foldl_mem_keeps State.canon _ _ _ (fun s v hv hs => ?_) ht))
    exact State.canon_ite_of (State.killTeam_canon _ v hs fun u hu => State.dock_wf ht (List.mem_filter.1 hv).1 hu) hs

@[simp] theorem execAttest_canonical (f : Frame) (nonce : List (BitVec 8)) {s : State} (h : s.canon) : Canonical (execAttest f nonce s) :=
  State.rpc_canonical h _ _ _ _ _ fun _ ht => ht

@[simp] theorem State.journalOne_canon (s : State) (q : Nat) : (s.journalOne q).2.canon ↔ s.canon := Iff.rfl

@[simp] theorem execJournal_canonical (f : Frame) (quay : Nat) {s : State} (h : s.canon) : Canonical (execJournal f quay s) :=
  State.rpc_canonical h _ _ _ _ _ fun t ht => foldl_keeps (fun r : List Byte × State => r.2.canon)
    (fun r q => (r.1 ++ (r.2.journalOne q).1, (r.2.journalOne q).2)) (fun r q hr => (State.journalOne_canon r.2 q).2 hr) _ ([], t) ht

@[simp] theorem execHostRdmaOperation_canonical (part window off : Nat) (write : Option (List (BitVec 8))) (len : Nat) {s : State} (h : s.canon) :
    Canonical (execHostRdmaOperation part window off write len s) := by
  unfold execHostRdmaOperation
  extract_lets p
  split
  · simp [h]
  · split
    · refine canonical_ite_of (by simp [h]) ((canonical_next _).2 (State.mapCtxs_canon (State.putPart_canon h _ _ ?_) _ fun x hx => ?_))
      · exact Memory.wf_writeMany _ _ _ (State.partOf_wf h part)
      · dsimp only
        split
        · exact Ctx.farStore_canon _ _ _ _ hx
        · exact hx
    · exact canonical_ite_of (by simp [h]) ((canonical_next _).2 h)

@[simp] theorem execAdd_canonical (d a b : SReg) {s : State} (h : s.canon) : Canonical (execAdd d a b s) := by
  simp [execAdd, h]

@[simp] theorem execSub_canonical (d a b : SReg) {s : State} (h : s.canon) : Canonical (execSub d a b s) := by
  simp [execSub, h]

@[simp] theorem execAnd_canonical (d a b : SReg) {s : State} (h : s.canon) : Canonical (execAnd d a b s) := by
  simp [execAnd, h]

@[simp] theorem execOr_canonical (d a b : SReg) {s : State} (h : s.canon) : Canonical (execOr d a b s) := by
  simp [execOr, h]

@[simp] theorem execXor_canonical (d a b : SReg) {s : State} (h : s.canon) : Canonical (execXor d a b s) := by
  simp [execXor, h]

@[simp] theorem execShl_canonical (d a b : SReg) {s : State} (h : s.canon) : Canonical (execShl d a b s) := by
  simp [execShl, h]

@[simp] theorem execShr_canonical (d a b : SReg) {s : State} (h : s.canon) : Canonical (execShr d a b s) := by
  simp [execShr, h]

@[simp] theorem execSha_canonical (d a b : SReg) {s : State} (h : s.canon) : Canonical (execSha d a b s) := by
  simp [execSha, h]

@[simp] theorem execMul_canonical (d a b : SReg) {s : State} (h : s.canon) : Canonical (execMul d a b s) := by
  simp [execMul, h]

@[simp] theorem execMulh_canonical (d a b : SReg) {s : State} (h : s.canon) : Canonical (execMulh d a b s) := by
  simp [execMulh, h]

@[simp] theorem execMulhu_canonical (d a b : SReg) {s : State} (h : s.canon) : Canonical (execMulhu d a b s) := by
  simp [execMulhu, h]

@[simp] theorem execSeq_canonical (d a b : SReg) {s : State} (h : s.canon) : Canonical (execSeq d a b s) := by
  simp [execSeq, h]

@[simp] theorem execSlt_canonical (d a b : SReg) {s : State} (h : s.canon) : Canonical (execSlt d a b s) := by
  simp [execSlt, h]

@[simp] theorem execSltu_canonical (d a b : SReg) {s : State} (h : s.canon) : Canonical (execSltu d a b s) := by
  simp [execSltu, h]

@[simp] theorem execSel_canonical (d a b : SReg) {s : State} (h : s.canon) : Canonical (execSel d a b s) := by
  simp [execSel, h]

@[simp] theorem execMin_canonical (d a b : SReg) {s : State} (h : s.canon) : Canonical (execMin d a b s) := by
  simp [execMin, h]

@[simp] theorem execMax_canonical (d a b : SReg) {s : State} (h : s.canon) : Canonical (execMax d a b s) := by
  simp [execMax, h]

@[simp] theorem execMinu_canonical (d a b : SReg) {s : State} (h : s.canon) : Canonical (execMinu d a b s) := by
  simp [execMinu, h]

@[simp] theorem execMaxu_canonical (d a b : SReg) {s : State} (h : s.canon) : Canonical (execMaxu d a b s) := by
  simp [execMaxu, h]

@[simp] theorem execAddw_canonical (d a b : SReg) {s : State} (h : s.canon) : Canonical (execAddw d a b s) := by
  simp [execAddw, h]

@[simp] theorem execSubw_canonical (d a b : SReg) {s : State} (h : s.canon) : Canonical (execSubw d a b s) := by
  simp [execSubw, h]

@[simp] theorem execMulw_canonical (d a b : SReg) {s : State} (h : s.canon) : Canonical (execMulw d a b s) := by
  simp [execMulw, h]

@[simp] theorem execAddi_canonical (d a : SReg) (imm : Int) {s : State} (h : s.canon) : Canonical (execAddi d a imm s) := by
  simp [execAddi, h]

@[simp] theorem execLi_canonical (d : SReg) (imm : Int) {s : State} (h : s.canon) : Canonical (execLi d imm s) := by
  simp [execLi, h]

@[simp] theorem execAndi_canonical (d a : SReg) (imm : Int) {s : State} (h : s.canon) : Canonical (execAndi d a imm s) := by
  simp [execAndi, h]

@[simp] theorem execShli_canonical (d a : SReg) (n : Fin 64) {s : State} (h : s.canon) : Canonical (execShli d a n s) := by
  simp [execShli, h]

@[simp] theorem execShri_canonical (d a : SReg) (n : Fin 64) {s : State} (h : s.canon) : Canonical (execShri d a n s) := by
  simp [execShri, h]

@[simp] theorem execShai_canonical (d a : SReg) (n : Fin 64) {s : State} (h : s.canon) : Canonical (execShai d a n s) := by
  simp [execShai, h]

@[simp] theorem execMov_canonical (d a : SReg) {s : State} (h : s.canon) : Canonical (execMov d a s) := by
  simp [execMov, h]

@[simp] theorem execClz_canonical (d a : SReg) {s : State} (h : s.canon) : Canonical (execClz d a s) := by
  simp [execClz, h]

@[simp] theorem execCtz_canonical (d a : SReg) {s : State} (h : s.canon) : Canonical (execCtz d a s) := by
  simp [execCtz, h]

@[simp] theorem execPopc_canonical (d a : SReg) {s : State} (h : s.canon) : Canonical (execPopc d a s) := by
  simp [execPopc, h]

@[simp] theorem execBrev_canonical (d a : SReg) {s : State} (h : s.canon) : Canonical (execBrev d a s) := by
  simp [execBrev, h]

@[simp] theorem execSextB_canonical (d a : SReg) {s : State} (h : s.canon) : Canonical (execSextB d a s) := by
  simp [execSextB, h]

@[simp] theorem execSextH_canonical (d a : SReg) {s : State} (h : s.canon) : Canonical (execSextH d a s) := by
  simp [execSextH, h]

@[simp] theorem execSextW_canonical (d a : SReg) {s : State} (h : s.canon) : Canonical (execSextW d a s) := by
  simp [execSextW, h]

@[simp] theorem execZextW_canonical (d a : SReg) {s : State} (h : s.canon) : Canonical (execZextW d a s) := by
  simp [execZextW, h]

@[simp] theorem execBext_canonical (d a b : SReg) {s : State} (h : s.canon) : Canonical (execBext d a b s) := by
  simp [execBext, h]

@[simp] theorem execBins_canonical (d a b : SReg) {s : State} (h : s.canon) : Canonical (execBins d a b s) := by
  simp [execBins, h]

@[simp] theorem State.divide_canonical {s : State} (i : Instr) (d a b : SReg) (w : Bool) (h : s.canon) : Canonical (s.divide i d a b w) := by
  simp [State.divide, h]

@[simp] theorem execDiv_canonical (d a b : SReg) {s : State} (h : s.canon) : Canonical (execDiv d a b s) := by
  simp [execDiv, h]

@[simp] theorem execRem_canonical (d a b : SReg) {s : State} (h : s.canon) : Canonical (execRem d a b s) := by
  simp [execRem, h]

@[simp] theorem execDivu_canonical (d a b : SReg) {s : State} (h : s.canon) : Canonical (execDivu d a b s) := by
  simp [execDivu, h]

@[simp] theorem execRemu_canonical (d a b : SReg) {s : State} (h : s.canon) : Canonical (execRemu d a b s) := by
  simp [execRemu, h]

@[simp] theorem execDivw_canonical (d a b : SReg) {s : State} (h : s.canon) : Canonical (execDivw d a b s) := by
  simp [execDivw, h]

@[simp] theorem execRemw_canonical (d a b : SReg) {s : State} (h : s.canon) : Canonical (execRemw d a b s) := by
  simp [execRemw, h]

@[simp] theorem execDivuw_canonical (d a b : SReg) {s : State} (h : s.canon) : Canonical (execDivuw d a b s) := by
  simp [execDivuw, h]

@[simp] theorem execRemuw_canonical (d a b : SReg) {s : State} (h : s.canon) : Canonical (execRemuw d a b s) := by
  simp [execRemuw, h]

@[simp] theorem execDivideComplete_canonical (e : Fin 8) {s : State} (h : s.canon) : Canonical (execDivideComplete e s) := by
  unfold execDivideComplete
  dsimp only
  split
  · exact canonical_ite_of (by simp [h]) (by simp [h])
  · simp [h]

@[simp] theorem execPmk_canonical (d a b : SReg) {s : State} (h : s.canon) : Canonical (execPmk d a b s) := by
  unfold execPmk
  (repeat' split) <;> simp [h]

@[simp] theorem execPspc_canonical (d a : SReg) {s : State} (h : s.canon) : Canonical (execPspc d a s) := by
  simp [execPspc, h]

@[simp] theorem execPrnk_canonical (d a : SReg) {s : State} (h : s.canon) : Canonical (execPrnk d a s) := by
  simp [execPrnk, h]

@[simp] theorem execPoff_canonical (d a : SReg) {s : State} (h : s.canon) : Canonical (execPoff d a s) := by
  simp [execPoff, h]

@[simp] theorem execPadd_canonical (d a b : SReg) {s : State} (h : s.canon) : Canonical (execPadd d a b s) := by
  unfold execPadd
  (repeat' split) <;> simp [h]

end Sys2Proof.Machine
end

section
/-! SUPPORT. The canonical form through a step. -/

namespace Sys2Proof.Machine

/-- The next state of every instruction and event is canonical: each constructor is one of the lemmas above. -/
theorem exec_canonical (i : Instr) {s : State} (h : s.canon) : Canonical (exec i s) := by
  unfold exec
  cases i <;> simp [h]

@[simp] theorem State.resumeAt_canon (s : State) (n : Fin 8) : (s.resumeAt n).canon ↔ s.canon := Iff.rfl

@[simp] theorem State.resumeBack_canon {s t : State} (n : Fin 8) (ht : t.canon) : (s.resumeBack t n).canon := by
  unfold State.resumeBack
  extract_lets e x t1 took
  have h1 : t1.canon := State.canon_ite_of ((State.putEntry_canon _ _ _).2 ht) ht
  clear_value t1
  exact State.canon_ite_of h1 (State.canon_ite_of h1 h1)

@[simp] theorem State.compare_canon {s t : State} (h : s.canon) (ht : t.canon) : (State.compare s t).canon :=
  State.canon_ite_of (State.compared_canon _ _ h ht) ht

@[simp] theorem State.resumeTurn_canonical {s : State} (n : Fin 8) (h : s.canon) : Canonical (s.resumeTurn n) := by
  unfold State.resumeTurn
  dsimp only
  split
  · simp [h]
  · rename_i i _
    have hi := exec_canonical i ((State.resumeAt_canon s n).2 h)
    refine canonical_ite_of ?_ (State.resend_canonical n h)
    split
    · rename_i t e
      exact (canonical_next _).2 (State.resumeBack_canon n (State.compare_canon h (hi t e)))
    · simp
    · simp

@[simp] theorem State.issueBundle_canonical {s : State} (h : s.canon) : Canonical s.issueBundle := by
  have hf := State.fetch_canon h
  unfold State.issueBundle
  split
  · rename_i i n t e
    rw [e] at hf
    have ht : (t.begin n).canon := (State.begin_canon _ _).2 hf
    split
    · rename_i u eu
      exact (canonical_next _).2 (State.compare_canon ht (exec_canonical i ht u eu))
    · simp
    · simp
  · rename_i e
    rw [e] at hf
    exact State.trapB_canonical _ _ hf

@[simp] theorem State.turnOf_canonical {s : State} (h : s.canon) : Canonical s.turnOf := by
  unfold State.turnOf
  refine canonical_ite_of (by simp [h]) (canonical_ite_of (by simp [h]) (canonical_ite_of (by simp [h]) ?_))
  split <;> simp [h]

theorem runAll_canonical (fs : List (State → Out)) (hf : ∀ f ∈ fs, ∀ t : State, t.canon → Canonical (f t)) {s : State} (h : s.canon) :
    Canonical (runAll fs s) := by
  induction fs generalizing s with
  | nil => simp [runAll, h]
  | cons f fs ih =>
    have h1 := hf f (List.mem_cons_self ..) s h
    unfold runAll
    split
    · rename_i t e
      exact ih (fun g hg => hf g (List.mem_cons_of_mem _ hg)) (h1 t e)
    · simp
    · simp

@[simp] theorem State.retryOne_canonical {s : State} (h : s.canon) : Canonical s.retryOne := by
  unfold State.retryOne
  split <;> simp [h]

@[simp] theorem State.atomicDone_canon (n : Fin 8) {s : State} (h : s.canon) : (s.atomicDone n).canon :=
  State.canon_ite_of (State.retireEntry_canon n h) h

theorem entryActions_canonical (n : Fin 8) : ∀ f ∈ entryActions n, ∀ t : State, t.canon → Canonical (f t) := by
  simp +contextual [entryActions]

theorem tileActions_canonical : ∀ f ∈ tileActions, ∀ t : State, t.canon → Canonical (f t) := by
  simp +contextual [tileActions]

theorem State.quayActions_canonical (s : State) : ∀ f ∈ s.quayActions, ∀ t : State, t.canon → Canonical (f t) := by
  unfold State.quayActions
  split <;> simp +contextual

@[simp] theorem State.rotate_canon {s : State} (h : s.canon) : s.rotate.canon := by
  unfold State.rotate
  split
  · exact h
  · split
    · rename_i e; exact memsCanon_tiles h fun u hu => by rw [e] at hu; exact nomatch hu
    · rename_i t r e
      have hts : ∀ u ∈ t :: r, u.tile.slice.wf = true := fun u hu => State.tiles_wf h (e ▸ hu)
      have hr : State.canon { s with tiles := r ++ [s.curTile] } := memsCanon_tiles h fun u hu => by
        rcases List.mem_append.1 hu with hu | hu
        · exact hts u (List.mem_cons_of_mem _ hu)
        · rw [List.mem_singleton.1 hu, State.curTile_tile]; exact State.tile_wf h
      exact (State.withFull_canon hr t .stage).2 (hts t (List.mem_cons_self ..))

@[simp] theorem State.chargeCycle_canon {s : State} (t : Team) (h : s.canon) : (s.chargeCycle t).canon :=
  State.mapTiles_canon (State.chargeCtx_canon _ _ _ _ h) _ _ fun u hu => by simp [hu]

@[simp] theorem State.tick_canon {s : State} (h : s.canon) : s.tick.canon :=
  foldl_keeps State.canon _ (fun _ t hu => State.chargeCycle_canon t hu) _ _ ((canon_mk ..).2 h)

theorem State.workActions_canonical (s : State) : ∀ f ∈ s.workActions, ∀ t : State, t.canon → Canonical (f t) := by
  intro f hf t ht
  unfold State.workActions at hf
  simp only [List.mem_append, List.mem_flatMap, List.mem_singleton] at hf
  rcases hf with ((⟨n, _, hn⟩ | hf) | hf) | rfl
  · exact entryActions_canonical n f hn t ht
  · exact tileActions_canonical f hf t ht
  · exact s.quayActions_canonical f hf t ht
  · simp [ht]

@[simp] theorem State.between_canonical {s : State} (h : s.canon) : Canonical s.between := by
  refine runAll_canonical _ (fun f hf t ht => ?_) h
  simp only [List.mem_append, List.mem_singleton] at hf
  rcases hf with (rfl | hf) | rfl
  · simp [ht]
  · split at hf
    · exact nomatch hf
    · exact s.workActions_canonical f hf t ht
  · exact (canonical_next _).2 ((canon_mk ..).2 (State.tick_canon (State.rotate_canon ht)))

@[simp] theorem State.toPlace_canon {s : State} (p : Option (TileId × CoreSel)) (h : s.canon) : (s.toPlace p).canon := by
  unfold State.toPlace
  split <;> simp [h]

theorem State.advance_canonical {s : State} (h : s.canon) : Canonical s.advance := by
  unfold State.advance
  split
  · refine canonical_ite_of (exec_canonical _ (State.toPlace_canon _ ((canon_mk ..).2 h))) (by simp [h])
  · exact canonical_ite_of (State.turnOf_canonical ((canon_mk ..).2 h)) (State.between_canonical h)

end Sys2Proof.Machine
end

section
/-! SUPPORT. The canonical form of memories, settled. -/

namespace Sys2Proof
open Machine

/-- Settles O59: one lemma for each function of the model says that it keeps the canonical form, and a step is an instruction, an event or the work
between two turns. -/
theorem everyStepKeepsMemoriesCanonical : Obligations.EveryStepKeepsMemoriesCanonical :=
  fun _ t h e => State.advance_canonical h t e

end Sys2Proof
end

section
/-! SUPPORT. The checks of an access, before any byte moves (05 R111-R113). -/

namespace Sys2Proof.Machine

/-! ### The pointer (R112) -/

theorem eaChk_of_some {x p : Word} {disp : Int} (h : ea x disp = some p) : eaChk x disp = .ok p := by simp [eaChk, h]
theorem eaChk_of_none {x : Word} {disp : Int} (h : ea x disp = none) : eaChk x disp = .trap .bnd x := by simp [eaChk, h]

/-! ### The place (R111, R112) -/

section
variable {s : State} {p : Word} {n : Nat}

theorem State.resolve_unprivileged (hsp : ptrSpace p = 3) (hpriv : s.privileged = false) (w : Bool) :
    s.resolve p n w = .trap .priv p := by
  simp [State.resolve, hsp, hpriv]

theorem State.resolve_past (hpriv : ptrSpace p = 3 → s.privileged = true) (h : spaceLimit (ptrSpace p) < ptrOfs p + n) (w : Bool) :
    s.resolve p n w = .trap .bnd p := by
  have hpass : (ptrSpace p == 3 && !s.privileged) = false := by
    by_cases hsp : ptrSpace p = 3
    · simp [hpriv hsp]
    · simp [hsp]
  simp [State.resolve, hpass, h]

theorem State.resolve_noRank (hsp : ptrSpace p = 1) (hofs : ptrOfs p + n ≤ 0x80000) (hrank : s.tile.placement.length ≤ ptrRank p) (w : Bool) :
    s.resolve p n w = .trap .bnd p := by
  have hlimit : ¬ spaceLimit (ptrSpace p) < ptrOfs p + n := by rw [hsp]; exact Nat.not_lt.2 hofs
  simp [State.resolve, hsp, hsp ▸ hlimit, List.getElem?_eq_none hrank]

end

/-! ### What a scalar load and store do with a check -/

section
variable {s : State} {i : Instr} {d a : SReg} {l : List SReg} {n : Nat} {v w1 : Word} {x : Option Xsc}

theorem State.loadScalar_trap (hr : s.core.ready (d :: l) = true) {c : Cause} (h1 : c ≠ .due) (h2 : c ≠ .nvf) (va : Word) :
    s.loadScalar i d l (.trap c va) n x = .next (s.takeTrap c va s.core.pc false) := by
  simp [State.loadScalar, hr, State.trapB_eq s c va h1 h2]

theorem State.storeScalar_trap (hr : s.core.ready l = true) {c : Cause} (h1 : c ≠ .due) (h2 : c ≠ .nvf) (va : Word) :
    s.storeScalar l (.trap c va) n v x = .next (s.takeTrap c va s.core.pc false) := by
  simp [State.storeScalar, hr, State.trapB_eq s c va h1 h2]

theorem exec_ldd (s : State) (d a : SReg) (imm : Int) (x : Option Xsc) :
    exec (.ldd d a imm x) s = s.loadScalar (.ldd d a imm x) d [a] (eaChk (s.S a) imm) 8 x := rfl

theorem exec_std (s : State) (d a : SReg) (imm : Int) (x : Option Xsc) :
    exec (.std d a imm x) s = s.storeScalar [d, a] (eaChk (s.S a) imm) 8 (s.S d) x := rfl

/-- An access whose place is refused traps. -/
theorem State.scalar_refused (hld : s.core.ready (d :: l) = true) {p : Word} (ho : s.orderReady x = true) {c : Cause}
    (h1 : c ≠ .due) (h2 : c ≠ .nvf) {va : Word} (hres : ∀ w, s.resolve p n w = .trap c va) (j : Instr) :
    s.loadScalar j d l (.ok p) n x = .next (s.takeTrap c va s.core.pc false) ∧
      s.storeScalar (d :: l) (.ok p) n v x = .next (s.takeTrap c va s.core.pc false) := by
  simp [State.loadScalar, State.storeScalar, hld, State.load, State.storeTo, ho, State.placeAll, hres, State.trapB_eq s c va h1 h2]

end

end Sys2Proof.Machine

namespace Sys2Proof
open Machine

/-- Settles O11: the checks of an access come before it, one by one. -/
theorem accessChecksTrapInOrder : Obligations.AccessChecksTrapInOrder := by
  intro s d a b imm z x p hready
  have hr : s.core.ready [d, a] = true := Core.ready_of_subset hready (by simp)
  refine ⟨fun hnone => ?_, fun hsome ho => ?_, fun hsel => ?_⟩
  · rw [exec_ldd, exec_std, eaChk_of_none hnone]
    exact ⟨State.loadScalar_trap hr (c := .bnd) (by decide) (by decide) _, State.storeScalar_trap hr (c := .bnd) (by decide) (by decide) _⟩
  · have refused (c : Cause) (h1 : c ≠ .due) (h2 : c ≠ .nvf) (hres : ∀ w, s.resolve p 8 w = .trap c p) :
        exec (.ldd d a imm x) s = .next (s.takeTrap c p s.core.pc false) ∧
          exec (.std d a imm x) s = .next (s.takeTrap c p s.core.pc false) := by
      rw [exec_ldd, exec_std, eaChk_of_some hsome]
      exact State.scalar_refused hr ho h1 h2 hres _
    exact ⟨fun hsp hpriv => refused _ (by decide) (by decide) (State.resolve_unprivileged hsp hpriv),
      fun hpriv hpast => refused _ (by decide) (by decide) (State.resolve_past hpriv hpast),
      fun hsp hofs hrank => refused _ (by decide) (by decide) (State.resolve_noRank hsp hofs hrank)⟩
  · have hstaging (k : Out) : s.staging k = .next (s.takeTrap .ill s.core.pc s.core.pc false) := by
      simp [State.staging, hsel, State.trapB_ill]
    exact ⟨hstaging _, hstaging _⟩

end Sys2Proof
end

section
/-! SUPPORT. Accesses to the own slice with nothing in their way (05 R111-R126). -/

namespace Sys2Proof.Machine

/-! ### Bytes and values -/

theorem Tile.bytes_vals (t : Tile) (o n : Nat) : (t.bytes o n).map (·.1) = t.slice.readMany o n := by
  apply List.ext_getElem? fun j => ?_
  by_cases hj : j < n
  · rw [List.getElem?_map, Tile.getElem_bytes t hj, getElem_readMany _ _ _ _ hj]
    rfl
  · rw [List.getElem?_eq_none (by simpa using hj), List.getElem?_eq_none (by simpa using hj)]

theorem getElem_leBytes {n j : Nat} (v : Nat) (h : j < n) : (leBytes n v)[j]? = some (BitVec.ofNat 8 (v / 256 ^ j)) := by
  induction n generalizing j v with
  | zero => omega
  | succ n ih =>
    cases j with
    | zero => simp [leBytes]
    | succ j =>
      rw [leBytes, List.getElem?_cons_succ, ih (v / 256) (Nat.lt_of_succ_lt_succ h), Nat.div_div_eq_div_mul, Nat.pow_succ']

/-- The bytes of a word are its fields of 8 bits. -/
theorem getElem_leBytes_word {n j : Nat} (w : Word) (h : j < n) : (leBytes n w.toNat)[j]? = some (w.extractLsb' (8 * j) 8) := by
  rw [getElem_leBytes w.toNat h]
  congr 1
  apply BitVec.eq_of_toNat_eq
  rw [BitVec.toNat_ofNat, BitVec.extractLsb'_toNat, Nat.shiftRight_eq_div_pow, Nat.pow_mul]

/-! ### The parts of an access in the own slice -/

/-- A part of an access that lies in the own slice. -/
def InSlice (q : Nat × Word × Nat) : Prop := ptrSpace q.2.1 = 0 ∧ ptrOfs q.2.1 + q.2.2 ≤ 0x80000

/-- The place of such a part. -/
def herePart (q : Nat × Word × Nat) : Part1 := { pos := q.1, place := .here (ptrOfs q.2.1), len := q.2.2 }

section
variable {s : State} {parts : List (Nat × Word × Nat)}

theorem State.resolve_slice {p : Word} {n : Nat} (hsp : ptrSpace p = 0) (h : ptrOfs p + n ≤ 0x80000) (w : Bool) :
    s.resolve p n w = .ok (.slice (ptrOfs p), s) := by
  have hlimit : ¬ spaceLimit (ptrSpace p) < ptrOfs p + n := by rw [hsp]; exact Nat.not_lt.2 h
  simp [State.resolve, hsp, hsp ▸ hlimit]

theorem State.placeAll_slice (h : ∀ q ∈ parts, InSlice q) (w : Bool) : State.placeAll w parts s = .ok (parts.map herePart, s) := by
  induction parts with
  | nil => rfl
  | cons q parts ih =>
    obtain ⟨hsp, hofs⟩ := h q (by simp)
    simp only [State.placeAll, State.resolve_slice hsp hofs, Chk.bind_ok, ih fun r hr => h r (by simp [hr])]
    rfl

theorem State.slotPending_none (h : s.core.rpsh = []) (ps : List Part1) : s.slotPending ps = false := by simp [State.slotPending, h]

theorem any_here {f : Part1 → Bool} (h : ∀ q, f (herePart q) = false) : (parts.map herePart).any f = false := by simp [h]

theorem State.leaseHere_none (h : s.tile.leaseDir = []) : s.leaseHere (parts.map herePart) = none := by
  simp only [State.leaseHere, List.findSome?_eq_none_iff, List.mem_map]
  rintro _ ⟨q, -, rfl⟩
  exact Tile.leasedOut_none h _ _

theorem State.leasesOf_here : s.leasesOf (parts.map herePart) = [] := by simp [State.leasesOf, herePart]

theorem State.grantPending_here : s.grantPending (parts.map herePart) = false := any_here fun _ => rfl

theorem State.dropLeases_nil : s.dropLeases [] = s := by simp [State.dropLeases]

theorem State.chargeParts_here : s.chargeParts (parts.map herePart) = s := by
  simp [State.chargeParts, List.foldl_map, herePart]

theorem writeReq_here (reg : Nat) (bs : List (Option PByte)) : ((parts.map herePart).map fun p => p.writeReq reg bs).flatten = [] := by
  simp [herePart, Part1.writeReq]

/-! ### Loads -/

theorem State.readHere_slice (hf : s.tile.flips = []) :
    State.readHere (parts.map herePart) s = (parts.map fun q => (q.1, s.tile.bytes (ptrOfs q.2.1) q.2.2), s) := by
  induction parts with
  | nil => rfl
  | cons q parts ih =>
    have hfresh : (if s.tile.flips.isEmpty then s.fresh else s.fresh + 1) = s.fresh := by simp [hf]
    rw [List.map_cons, State.readHere]
    simp only [herePart, Tile.ecc_clean hf, hfresh] at ih ⊢
    rw [ih]
    rfl

/-- A load from the own slice gets the bytes of its parts at once. -/
theorem State.load_here {i : Instr} {x : Option Xsc} {total : Nat} {w1 w2 : Word} {k : State → List PByte → Out} (ho : s.orderReady x = true)
    (hin : ∀ q ∈ parts, InSlice q) (hf : s.tile.flips = []) (hl : s.tile.leaseDir = []) (hr : s.core.rpsh = []) :
    s.load i x parts total w1 w2 k = k s (gather total (parts.map fun q => (q.1, s.tile.bytes (ptrOfs q.2.1) q.2.2))) := by
  simp only [State.load, ho, State.placeAll_slice hin, Chk.run_ok, State.slotPending_none hr, any_here (f := Part1.isFar) fun _ => rfl,
    State.leaseHere_none hl, State.readHere_slice hf, Bool.not_true, Bool.false_eq_true, if_false]

theorem gather_one {n : Nat} {bs : List PByte} (h : bs.length = n) : gather n [(0, bs)] = bs := by
  simp [gather, putBytes, ← h]

/-! ### Stores -/

/-- The slice after the parts of a store have been written. -/
def sliceParts (bs : List (Option PByte)) : List (Nat × Word × Nat) → Memory → Memory
  | [], m => m
  | q :: r, m => sliceParts bs r (m.writeMany (ptrOfs q.2.1) (((bs.drop q.1).take q.2.2).map fun b => b.map (·.1)))

theorem sliceParts_wf (bs : List (Option PByte)) {m : Memory} (h : m.wf = true) : (sliceParts bs parts m).wf = true := by
  induction parts generalizing m with
  | nil => exact h
  | cons q parts ih => exact ih (Memory.wf_writeMany _ _ _ h)

/-- A byte after a store whose parts follow each other from o on: a part that covers it writes it. -/
theorem read_sliceParts {bs : List (Option PByte)} {o : Nat} (hp : ∀ q ∈ parts, ptrOfs q.2.1 = o + q.1) {m : Memory} (hm : m.wf = true)
    (a : Nat) : (sliceParts bs parts m).read a =
      if ∃ q ∈ parts, o + q.1 ≤ a ∧ a < o + q.1 + q.2.2 then (((bs[a - o]?).join).map (·.1)).getD (m.read a) else m.read a := by
  induction parts generalizing m with
  | nil => simp [sliceParts]
  | cons q parts ih =>
    have hfirst : (m.writeMany (ptrOfs q.2.1) (((bs.drop q.1).take q.2.2).map fun b => b.map (·.1))).read a =
        if o + q.1 ≤ a ∧ a < o + q.1 + q.2.2 then (((bs[a - o]?).join).map (·.1)).getD (m.read a) else m.read a := by
      rw [Memory.read_writeMany _ _ _ _ hm, hp q (by simp)]
      by_cases hlow : o + q.1 ≤ a
      · by_cases hhigh : a < o + q.1 + q.2.2
        · rw [if_pos hlow, if_pos ⟨hlow, hhigh⟩, List.getElem?_map, List.getElem?_take_of_lt (by omega), List.getElem?_drop,
            show q.1 + (a - (o + q.1)) = a - o by omega]
          cases bs[a - o]? with
          | none => rfl
          | some b => cases b <;> rfl
        · rw [if_pos hlow, if_neg (fun h => hhigh h.2), List.getElem?_eq_none (by simp; omega)]
          rfl
      · rw [if_neg hlow, if_neg (fun h => hlow h.1)]
    rw [sliceParts, ih (fun r hr => hp r (by simp [hr])) (Memory.wf_writeMany _ _ _ hm), hfirst]
    by_cases hq : o + q.1 ≤ a ∧ a < o + q.1 + q.2.2
    · cases h : ((bs[a - o]?).join).map (·.1) <;> simp [hq]
    · simp only [List.mem_cons, exists_eq_or_imp, hq, if_false, false_or]

/-- The parts of a store change the slice, its poison and its fresh name, and nothing else. -/
theorem State.writeHere_slice (hf : s.tile.flips = []) (bs : List (Option PByte)) :
    ∃ poison, State.writeHere bs (parts.map herePart) s =
      { s with tile := { s.tile with slice := sliceParts bs parts s.tile.slice, poison := poison } } := by
  induction parts generalizing s with
  | nil => exact ⟨s.tile.poison, rfl⟩
  | cons q parts ih =>
    obtain ⟨poison, h⟩ := ih (s := { s with tile := s.tile.store s.fresh (ptrOfs q.2.1) ((herePart q).cut bs) }) (by simp [Tile.store, hf])
    refine ⟨poison, ?_⟩
    have hfresh : (if s.tile.flips.isEmpty then s.fresh else s.fresh + 1) = s.fresh := by simp [hf]
    rw [List.map_cons, State.writeHere]
    simp only [herePart, hfresh] at h ⊢
    rw [h]
    simp [Tile.store, hf, sliceParts, Part1.cut]

theorem Tile.heldWrite_none {t : Tile} (he : t.heldExt = []) (hr : ∀ h : Ring, t.rings[h].held = 0) (o : Nat) (bs : List (Option PByte)) :
    t.heldWrite o bs = false := by
  have hany : t.rings.toList.any (fun r => r.held != 0) = false := by
    simp only [List.any_eq_false, Vector.mem_toList_iff, bne_iff_ne, ne_eq, not_not]
    intro r hr'
    obtain ⟨i, hi, rfl⟩ := Vector.mem_iff_getElem.1 hr'
    exact hr ⟨i, hi⟩
  simp only [Tile.heldWrite, he, hany, List.isEmpty_nil, Bool.not_true, Bool.or_self, Bool.false_and]

/-- The state after the parts of a store have been written, with what the store folds into the signature and says of poison. -/
def State.storedHere (s : State) (parts : List (Nat × Word × Nat)) (bs : List (Option PByte)) (folded : List Word) : State :=
  ((State.writeHere bs (parts.map herePart) s).fold folded).copied (bs.any fun b => match b with | some x => x.2 | none => false)

/-- A store to the own slice is performed at once. -/
theorem State.storeTo_here {x : Option Xsc} {bs : List (Option PByte)} {folded : List Word} {k : State → Out} (ho : s.orderReady x = true)
    (hin : ∀ q ∈ parts, InSlice q) (hl : s.tile.leaseDir = []) (hr : s.core.rpsh = []) (he : s.tile.heldExt = [])
    (hh : ∀ h : Ring, s.tile.rings[h].held = 0) : s.storeTo x parts bs folded k = k (s.storedHere parts bs folded) := by
  have hheld : s.heldHere bs (parts.map herePart) = false := any_here fun q => Tile.heldWrite_none he hh _ _
  simp only [State.storeTo, ho, State.placeAll_slice hin, Chk.run_ok, State.slotPending_none hr, hheld, State.leaseHere_none hl,
    State.leasesOf_here, State.grantPending_here, State.send, writeReq_here, any_here (f := Part1.isQuay) fun _ => rfl, List.map_nil,
    List.append_nil, List.isEmpty_nil, List.foldl_nil, State.dropLeases_nil, State.chargeParts_here, Bool.or_self, Bool.true_or,
    Bool.not_true, Bool.false_eq_true, if_false, if_true]
  rfl

/-- What a store to the own slice changes: the bytes that its parts cover. -/
theorem State.storedHere_only {p : Word} {n : Nat} {bs : List (Option PByte)} (hf : s.tile.flips = []) (hw : s.tile.slice.wf = true)
    (hp : ∀ q ∈ parts, ptrOfs q.2.1 = ptrOfs p + q.1) {f : Nat → Option Byte}
    (hin : ∀ a, (∃ q ∈ parts, ptrOfs p + q.1 ≤ a ∧ a < ptrOfs p + q.1 + q.2.2) → ptrOfs p ≤ a ∧ a < ptrOfs p + n)
    (hval : ∀ j < n, f j = if ∃ q ∈ parts, q.1 ≤ j ∧ j < q.1 + q.2.2 then ((bs[j]?).join).map (·.1) else none) (folded : List Word) :
    s.onlyStored (s.storedHere parts bs folded).retire p n f := by
  obtain ⟨poison, hwrite⟩ := State.writeHere_slice (s := s) (parts := parts) hf bs
  obtain ⟨sig, hfold⟩ := (State.writeHere bs (parts.map herePart) s).fold_eq folded
  obtain ⟨cki, hcopied⟩ := ((State.writeHere bs (parts.map herePart) s).fold folded).copied_eq
    (bs.any fun b => match b with | some x => x.2 | none => false)
  have hstate : s.storedHere parts bs folded = { s with
      core := { s.core with sig := sig }
      tile := { s.tile with slice := sliceParts bs parts s.tile.slice, poison := poison, cki := cki } } := by
    rw [State.storedHere, hcopied, hfold, hwrite]
  rw [hstate]
  refine ⟨fun a => ?_, rfl, fun _ => rfl, rfl, rfl, rfl, rfl, rfl, rfl, rfl, rfl, rfl, rfl, rfl⟩
  show (sliceParts bs parts s.tile.slice).read a = _
  rw [read_sliceParts hp hw]
  by_cases hcov : ∃ q ∈ parts, ptrOfs p + q.1 ≤ a ∧ a < ptrOfs p + q.1 + q.2.2
  · have hrange := hin a hcov
    have hcov' : ∃ q ∈ parts, q.1 ≤ a - ptrOfs p ∧ a - ptrOfs p < q.1 + q.2.2 := by
      obtain ⟨q, hq, hlow, hhigh⟩ := hcov
      exact ⟨q, hq, by omega, by omega⟩
    rw [if_pos hcov, if_pos hrange, hval _ (by omega), if_pos hcov']
  · rw [if_neg hcov]
    split
    · next hrange =>
      rw [hval _ (by omega), if_neg fun ⟨q, hq, hlow, hhigh⟩ => hcov ⟨q, hq, by omega, by omega⟩]
      rfl
    · rfl

end

/-! ### Accesses of one part -/

section
variable {s : State} {p : Word} {n : Nat}

theorem State.readsHere_clean (h : s.readsHere p n) : ∀ b ∈ s.tile.bytes (ptrOfs p) n, b.2 = false := by
  obtain ⟨-, -, -, -, -, hpoison⟩ := h
  intro b hb
  obtain ⟨j, hj, rfl⟩ := List.getElem_of_mem hb
  have hj' : j < n := by simpa using hj
  have hget := Tile.getElem_bytes s.tile (o := ptrOfs p) hj'
  rw [List.getElem?_eq_getElem hj] at hget
  rw [Option.some.inj hget]
  exact hpoison j hj'

theorem State.readsHere_noPoison (h : s.readsHere p n) : (s.tile.bytes (ptrOfs p) n).any (·.2) = false :=
  List.any_eq_false.2 fun b hb => by simp [s.readsHere_clean h b hb]

/-- A load of one part. -/
theorem State.load_one {i : Instr} {x : Option Xsc} {w1 w2 : Word} {k : State → List PByte → Out} (ho : s.orderReady x = true)
    (h : s.readsHere p n) : s.load i x [(0, p, n)] n w1 w2 k = k s (s.tile.bytes (ptrOfs p) n) := by
  obtain ⟨hsp, hofs, hf, hl, hr, -⟩ := h
  rw [State.load_here ho (by simpa [InSlice] using ⟨hsp, hofs⟩) hf hl hr]
  exact congrArg (k s) (gather_one (Tile.length_bytes ..))

/-- A store of one part. -/
theorem State.storeTo_one {x : Option Xsc} {bs : List (Option PByte)} {folded : List Word} (ho : s.orderReady x = true)
    (h : s.writesHere p n) (hw : s.tile.slice.wf = true) {f : Nat → Option Byte} (hval : ∀ j < n, f j = ((bs[j]?).join).map (·.1)) :
    ∃ u, s.storeTo x [(0, p, n)] bs folded (fun s => .next s.retire) = .next u ∧ s.onlyStored u p n f := by
  obtain ⟨hsp, hofs, hf, hl, hr, he, hh⟩ := h
  refine ⟨_, State.storeTo_here ho (by simpa [InSlice] using ⟨hsp, hofs⟩) hl hr he hh, State.storedHere_only hf hw (by simp) (by simp) ?_ _⟩
  intro j hj
  simp [hval j hj, hj]

end

end Sys2Proof.Machine
end

section
/-! SUPPORT. The scalar loads and stores of the own slice (05 R120). -/

namespace Sys2Proof.Machine

section
variable {s : State} {d : SReg} {l : List SReg} {p : Word} {n : Nat} {x : Option Xsc}

/-- A scalar load of the own slice writes what its form makes of the bytes. -/
theorem State.loadScalar_here {i : Instr} (hr : s.core.ready (d :: l) = true) (ho : s.orderReady x = true) (h : s.readsHere p n) :
    s.loadScalar i d l (.ok p) n x = .next (s.result d (scalarResult i (s.tile.bytes (ptrOfs p) n))) := by
  simp only [State.loadScalar, hr, Chk.run_ok, State.load_one ho h, State.readsHere_noPoison h, State.consume, Bool.not_true,
    Bool.false_eq_true, if_false, State.result]

/-- The bytes of a load without poison are a little-endian value. -/
theorem scalarResult_word {i : Instr} (h : s.readsHere p n) (f : Nat → Word)
    (hi : ∀ bs : List PByte, bs.any (·.2) = false → scalarResult i bs = f (leNat (bs.map (·.1)))) :
    scalarResult i (s.tile.bytes (ptrOfs p) n) = f (s.sliceNat p n) := by
  rw [hi _ (State.readsHere_noPoison h), Tile.bytes_vals, State.sliceNat]

/-- A scalar store to the own slice stores the low bytes of its word. -/
theorem State.storeScalar_here (hr : s.core.ready l = true) (ho : s.orderReady x = true) (h : s.writesHere p n) (hw : s.tile.slice.wf = true)
    (v : Word) : ∃ u, s.storeScalar l (.ok p) n v x = .next u ∧ s.onlyStored u p n fun j => some (v.extractLsb' (8 * j) 8) := by
  simp only [State.storeScalar, hr, Chk.run_ok, Bool.not_true, Bool.false_eq_true, if_false]
  refine State.storeTo_one ho h hw fun j hj => ?_
  simp [plain, getElem_leBytes_word v hj]

theorem State.indexed_of_some {a b : SReg} (h : ea (s.S a) ((s.S b).toInt * n) = some p) : s.indexed a b n = .ok p := eaChk_of_some h

end

end Sys2Proof.Machine

namespace Sys2Proof
open Machine

/-- Settles O9: an access to the own slice with nothing in its way is performed at once. -/
theorem localLoadsAndStoresReachTheSlice : Obligations.LocalLoadsAndStoresReachTheSlice := by
  refine ⟨fun s d a b imm z x p hready ho => ?_, fun s d a b imm z x p hready ho hw => ?_⟩
  · have htwo : s.core.ready [d, a] = true := Core.ready_of_subset hready (by simp)
    refine ⟨fun he h => ?_, fun he h => ?_, fun hsel he h => ?_⟩
    · have hval := scalarResult_word (i := .ldw d a imm x) h (fun v => BitVec.signExtend 64 (BitVec.ofNat 32 v))
        fun bs hbs => by simp [scalarResult, hbs, sextTo]
      show s.loadScalar (.ldw d a imm x) d [a] (eaChk (s.S a) imm) 4 x = _
      rw [eaChk_of_some he, State.loadScalar_here htwo ho h, hval]
    · have hval := scalarResult_word (i := .ldd d a imm x) h (fun v => BitVec.ofNat 64 v) fun bs hbs => by simp [scalarResult, hbs]
      rw [exec_ldd, eaChk_of_some he, State.loadScalar_here htwo ho h, hval]
    · have hval := scalarResult_word (i := .ldx z d a b x) h (fun v => BitVec.ofNat 64 v) fun bs hbs => by simp [scalarResult, hbs]
      have hvals := scalarResult_word (i := .ldxs z d a b x) h (fun v => (BitVec.ofNat (8 * sizeBytes z) v).signExtend 64)
        fun bs hbs => by cases z <;> simp [scalarResult, hbs, sextTo, sizeBytes]
      constructor
      · show s.staging (s.loadScalar (.ldx z d a b x) d [a, b] (s.indexed a b (sizeBytes z)) (sizeBytes z) x) = _
        rw [State.staging_stage hsel, State.indexed_of_some he, State.loadScalar_here hready ho h, hval]
      · show s.staging (s.loadScalar (.ldxs z d a b x) d [a, b] (s.indexed a b (sizeBytes z)) (sizeBytes z) x) = _
        rw [State.staging_stage hsel, State.indexed_of_some he, State.loadScalar_here hready ho h, hvals]
  · have htwo : s.core.ready [d, a] = true := Core.ready_of_subset hready (by simp)
    refine ⟨fun he h => ?_, fun he h => ?_, fun hsel he h => ?_⟩
    · show ∃ u, s.storeScalar [d, a] (eaChk (s.S a) imm) 4 (s.S d) x = _ ∧ _
      rw [eaChk_of_some he]
      exact State.storeScalar_here htwo ho h hw _
    · rw [exec_std, eaChk_of_some he]
      exact State.storeScalar_here htwo ho h hw _
    · show ∃ u, s.staging (s.storeScalar [d, a, b] (s.indexed a b (sizeBytes z)) (sizeBytes z) (s.S d) x) = _ ∧ _
      rw [State.staging_stage hsel, State.indexed_of_some he]
      exact State.storeScalar_here hready ho h hw _

end Sys2Proof
end

section
/-! SUPPORT. Rows: reading one after a write, its bytes, and the loads and stores of rows and tile registers (02 R53-R56, 05 R121-R123). -/

namespace Sys2Proof.Machine

/-! ### Reading a row after a write (R53, R54, R56) -/

/-- Whether a row operand names a register: not z, the broadcast or an operand that is refused. -/
def RowSel.isReg : RowSel → Bool
  | .tile _ _ | .o _ | .l => true
  | _ => false

theorem TileReg.row_put (t : TileReg) (r q : Fin 16) (v : RowVal) : (t.put r v).row q = if q = r then v else t.row q := by
  by_cases hq : q = r
  · subst hq
    simp [TileReg.put, TileReg.row, vput]
  · rw [if_neg hq]
    by_cases hl : t.live = true
    · simp only [TileReg.put, TileReg.row, hl, if_true]
      exact vput_other _ _ _ _ hq
    · simp only [TileReg.put, TileReg.row, hl, if_true, Bool.false_eq_true, if_false]
      rw [vput_other _ _ _ _ hq]
      simp

section
variable (c : Core) (v : RowVal)

theorem Core.rowVal_setRow_same {r : RowSel} (h : r.isReg = true) (w : Nat) (b : SReg) : (c.setRow r v).rowVal r w b = v := by
  cases r with
  | tile t n => simp [Core.setRow, Core.rowVal, vput, TileReg.row_put]
  | o n => simp [Core.setRow, Core.rowVal, vput, ORow.get]
  | l => rfl
  | _ => exact nomatch h

theorem Core.rowVal_setRow_other {r q : RowSel} (h : q ≠ r) (w : Nat) (b : SReg) : (c.setRow r v).rowVal q w b = c.rowVal q w b := by
  cases r with
  | tile t n =>
    cases q with
    | tile t' n' =>
      by_cases ht : t' = t
      · subst ht
        have hn : n' ≠ n := fun e => h (by rw [e])
        simp [Core.setRow, Core.rowVal, vput, TileReg.row_put, hn]
      · simp [Core.setRow, Core.rowVal, vput_other _ _ _ _ ht]
    | _ => rfl
  | o n =>
    cases q with
    | o n' =>
      have hn : n' ≠ n := fun e => h (by rw [e])
      simp [Core.setRow, Core.rowVal, vput_other _ _ _ _ hn]
    | _ => rfl
  | l =>
    cases q with
    | l => exact absurd rfl h
    | _ => rfl
  | _ => rfl

/-- A row written is no scalar, no accumulator, no state register, and not the place of the bundle. -/
theorem Core.setRow_frame (r : RowSel) : (c.setRow r v).npc = c.npc ∧ (c.setRow r v).regs = c.regs ∧ (c.setRow r v).live = c.live ∧
    (c.setRow r v).rf.c = c.rf.c ∧ (c.setRow r v).rf.k = c.rf.k ∧ (c.setRow r v).sr = c.sr ∧ (c.setRow r v).tr = c.tr := by
  cases r <;> exact ⟨rfl, rfl, rfl, rfl, rfl, rfl, rfl⟩

end

/-- The bundle's whole effect is to write a row. -/
def State.rowResult (s : State) (r : RowSel) (v : RowVal) : State := State.retire { s with core := s.core.setRow r v }

theorem State.rowResult_only (s : State) (r : RowSel) (v : RowVal) : s.onlyRow (s.rowResult r v) r := by
  obtain ⟨hnpc, hregs, hlive, hc, hk, hsr, htr⟩ := s.core.setRow_frame v r
  refine ⟨hnpc, fun q => ?_, fun q hq => s.core.rowVal_setRow_other v hq 8 0, hc, hk, hsr, htr, rfl, rfl, rfl, rfl, rfl⟩
  show (s.core.setRow r v).S q = s.core.S q
  simp only [Core.S, hregs, hlive]

theorem State.rowResult_val (s : State) {r : RowSel} (h : r.isReg = true) (v : RowVal) : (s.rowResult r v).core.rowVal r 8 0 = v :=
  s.core.rowVal_setRow_same v h 8 0

/-- The row operand of an access that is not refused is z or a register. -/
theorem State.memRow_isReg {s : State} {c : RCode} {p : RowPos} {j : Nat} (h1 : s.memRow c p j ≠ .ill) (h2 : s.memRow c p j ≠ .rgf)
    (h3 : s.memRow c p j ≠ .z) : (s.memRow c p j).isReg = true := by
  unfold State.memRow at *
  cases h : rowSel s.sel c p.base p.bank j with
  | bc => simp [h] at h1
  | _ => simp_all [RowSel.isReg]

/-! ### The bytes of a row and of a tile register -/

theorem RowVal.getElem_bytes (v : RowVal) {j : Nat} (h : j < 64) : v.bytes[j]? = some (Row.byte v.bits j, v.bad.getLsbD (j / 32)) := by
  simp [RowVal.bytes, upto_eq_range, h]

/-- A row from clean bytes holds them, and no poison. -/
theorem RowVal.ofBytes_clean {bs : List PByte} (hc : bs.any (·.2) = false) :
    RowVal.ofBytes bs = { bits := rowOfBytes (bs.map (·.1)), bad := 0 } := by
  have hclean : ∀ b ∈ bs, b.2 = false := by simpa using hc
  have hany (l : List PByte) (hs : l ⊆ bs) : l.any (·.2) = false := List.any_eq_false.2 fun b hb => by simp [hclean b (hs hb)]
  have hvals : (bs.map fun b => if b.2 then 0 else b.1) = bs.map (·.1) := List.map_congr_left fun b hb => by simp [hclean b hb]
  rw [RowVal.ofBytes, hany _ (List.take_subset ..), hany _ (List.drop_subset ..), hvals]
  rfl

/-- Element j of a list of pieces of 64. -/
theorem getElem_flatten_pieces {α : Type} (ls : List (List α)) (h : ∀ l ∈ ls, l.length = 64) (j : Nat) :
    ls.flatten[j]? = (ls[j / 64]?).bind fun l => l[j % 64]? := by
  induction ls generalizing j with
  | nil => simp
  | cons l ls ih =>
    have hl : l.length = 64 := h l (by simp)
    rw [List.flatten_cons]
    by_cases hj : j < 64
    · rw [List.getElem?_append_left (by omega), Nat.div_eq_of_lt hj, Nat.mod_eq_of_lt hj]
      rfl
    · obtain ⟨k, rfl⟩ := Nat.exists_eq_add_of_le (Nat.not_lt.1 hj)
      rw [List.getElem?_append_right (by omega), hl, Nat.add_sub_cancel_left, ih (fun l hl => h l (by simp [hl])),
        Nat.add_div_left k (by decide), Nat.add_mod_left, List.getElem?_cons_succ]

theorem TileReg.getElem_bytes (t : TileReg) {j : Nat} (h : j < 1024) : t.bytes[j]? =
    some (Row.byte (t.row (Fin.ofNat 16 (j / 64))).bits (j % 64), (t.row (Fin.ofNat 16 (j / 64))).bad.getLsbD (j % 64 / 32)) := by
  have hrow : (List.finRange 16)[j / 64]? = some (Fin.ofNat 16 (j / 64)) := by
    have hlt : j / 64 < 16 := by omega
    rw [List.getElem?_eq_getElem (by simpa using hlt), List.getElem_finRange]
    congr 1
    apply Fin.ext
    simp [Nat.mod_eq_of_lt hlt]
  rw [TileReg.bytes_eq, getElem_flatten_pieces _ (by simp [RowVal.bytes, upto_eq_range]), List.getElem?_map, hrow]
  exact RowVal.getElem_bytes _ (Nat.mod_lt _ (by decide))

/-! ### The masked bytes (R123) -/

theorem getElem_maskBytes (mask : Word) (bs : List PByte) {j : Nat} (h : j < bs.length) :
    (maskBytes mask bs)[j]? = some (if mask.getLsbD j then bs[j]? else none) := by
  simp [maskBytes, upto_eq_range, h]

/-- A clean byte of the mask replaces the row's. -/
theorem Row.byte_merge_some (v : RowVal) {bs : List (Option PByte)} {j : Nat} (h : j < 64) {b : Byte} (hb : bs[j]? = some (some (b, false))) :
    Row.byte (v.merge bs).bits j = b := by
  rw [RowVal.merge]
  dsimp only
  rw [Row.byte_rowOfBytes (by simp [upto_eq_range])]
  simp [upto_eq_range, h, hb]

/-- A byte that the mask does not select stays. -/
theorem Row.byte_merge_none (v : RowVal) {bs : List (Option PByte)} {j : Nat} (h : j < 64) (hb : bs[j]? = some none) :
    Row.byte (v.merge bs).bits j = Row.byte v.bits j := by
  rw [RowVal.merge]
  dsimp only
  rw [Row.byte_rowOfBytes (by simp [upto_eq_range])]
  simp [upto_eq_range, h, hb]

/-- The parts of a masked access follow each other, and cover every byte of the mask. -/
theorem maskParts_spec (mask : Word) {p : Word} (hsp : ptrSpace p = 0) (hofs : ptrOfs p + 64 ≤ 0x80000) :
    (∀ q ∈ maskParts mask p, InSlice q ∧ ptrOfs q.2.1 = ptrOfs p + q.1 ∧ q.1 + q.2.2 ≤ 64) ∧
      ∀ j < 64, mask.getLsbD j = true → ∃ q ∈ maskParts mask p, q.1 ≤ j ∧ j < q.1 + q.2.2 := by
  have hval : (p + 32).toNat = p.toNat + 32 := by
    rw [ptrSpace_eq] at hsp
    rw [BitVec.toNat_add, Nat.mod_eq_of_lt]
    · rfl
    · show p.toNat + 32 < _
      omega
  have hsp' : ptrSpace (p + 32) = 0 := by
    rw [ptrSpace_eq, hval]
    rw [ptrSpace_eq] at hsp
    rw [ptrOfs_near (by rw [ptrSpace_eq, hsp]; decide)] at hofs
    omega
  have hofs' : ptrOfs (p + 32) = ptrOfs p + 32 := by
    rw [ptrOfs_near (by rw [hsp']; decide), hval]
    rw [ptrOfs_near (by rw [hsp]; decide)] at hofs ⊢
    omega
  have hlen : secondLen p = 32 := by
    rw [secondLen, hsp, if_neg (by rw [spaceLimit, if_pos (by decide)]; omega)]
  have hfirst : InSlice (0, p, 32) := ⟨hsp, by show ptrOfs p + 32 ≤ _; omega⟩
  have hsecond : InSlice (32, p + 32, 32) := ⟨hsp', by show ptrOfs (p + 32) + 32 ≤ _; omega⟩
  refine ⟨fun q hq => ?_, fun j hj hbit => ?_⟩
  · rw [maskParts, hlen, List.mem_append] at hq
    rcases hq with hq | hq
    · obtain rfl : q = (0, p, 32) := by split at hq <;> simp_all
      exact ⟨hfirst, rfl, by simp⟩
    · obtain rfl : q = (32, p + 32, 32) := by split at hq <;> simp_all
      exact ⟨hsecond, hofs', by simp⟩
  · rw [maskParts, hlen]
    by_cases hlow : j < 32
    · have hne : ¬ (mask.truncate 32 == (0 : W32)) = true := by
        intro h
        have := congrArg (BitVec.getLsbD · j) (eq_of_beq h)
        simp [hlow, hbit] at this
      exact ⟨(0, p, 32), by rw [if_neg hne]; simp, Nat.zero_le _, by omega⟩
    · have hne : ¬ ((mask >>> 32).truncate 32 == (0 : W32)) = true := by
        intro h
        have := congrArg (BitVec.getLsbD · (j - 32)) (eq_of_beq h)
        simp [show j - 32 < 32 by omega, show 32 + (j - 32) = j by omega, hbit] at this
      exact ⟨(32, p + 32, 32), by rw [if_neg hne]; simp, by omega, by omega⟩

/-! ### The bytes that a masked load gathers -/

theorem getElem_putBytes {buf bs : List PByte} {pos : Nat} (h : pos + bs.length ≤ buf.length) (j : Nat) :
    (putBytes buf pos bs)[j]? = if pos ≤ j ∧ j < pos + bs.length then bs[j - pos]? else buf[j]? := by
  have htake : (buf.take pos).length = pos := by simp; omega
  rw [putBytes, List.append_assoc]
  by_cases hlow : j < pos
  · rw [List.getElem?_append_left (by omega), List.getElem?_take_of_lt hlow, if_neg (by omega)]
  · rw [List.getElem?_append_right (by omega), htake]
    by_cases hhigh : j < pos + bs.length
    · rw [List.getElem?_append_left (by omega), if_pos ⟨by omega, hhigh⟩]
    · rw [List.getElem?_append_right (by omega), List.getElem?_drop, if_neg (by omega), show pos + bs.length + (j - pos - bs.length) = j by omega]

theorem length_putBytes {buf bs : List PByte} {pos : Nat} (h : pos + bs.length ≤ buf.length) : (putBytes buf pos bs).length = buf.length := by
  simp [putBytes]; omega

/-- A byte of a gathered access whose parts follow each other from o on. -/
theorem getElem_gather (t : Tile) {parts : List (Nat × Word × Nat)} {o total : Nat}
    (hp : ∀ q ∈ parts, ptrOfs q.2.1 = o + q.1 ∧ q.1 + q.2.2 ≤ total) :
    (gather total (parts.map fun q => (q.1, t.bytes (ptrOfs q.2.1) q.2.2))).length = total ∧
    ∀ j, (∃ q ∈ parts, q.1 ≤ j ∧ j < q.1 + q.2.2) →
      (gather total (parts.map fun q => (q.1, t.bytes (ptrOfs q.2.1) q.2.2)))[j]? =
        some (t.slice.read (o + j), t.poison.contains ((o + j) / 32)) := by
  have general (buf : List PByte) (hbuf : buf.length = total) : ∀ b, b = (parts.map fun q => (q.1, t.bytes (ptrOfs q.2.1) q.2.2)).foldl
      (fun b x => putBytes b x.1 x.2) buf → b.length = total ∧ ∀ j, b[j]? = if ∃ q ∈ parts, q.1 ≤ j ∧ j < q.1 + q.2.2 then
        some (t.slice.read (o + j), t.poison.contains ((o + j) / 32)) else buf[j]? := by
    induction parts generalizing buf with
    | nil => rintro _ rfl; exact ⟨hbuf, by simp⟩
    | cons q parts ih =>
      obtain ⟨hofs, hfit⟩ := hp q (by simp)
      have hfit' : q.1 + (t.bytes (ptrOfs q.2.1) q.2.2).length ≤ buf.length := by simp [hbuf, hfit]
      intro b hb
      obtain ⟨hlen, hget⟩ := ih (fun r hr => hp r (by simp [hr])) (putBytes buf q.1 (t.bytes (ptrOfs q.2.1) q.2.2))
        ((length_putBytes hfit').trans hbuf) b hb
      refine ⟨hlen, fun j => ?_⟩
      rw [hget, getElem_putBytes hfit', Tile.length_bytes]
      by_cases hq : q.1 ≤ j ∧ j < q.1 + q.2.2
      · have hbyte : (t.bytes (ptrOfs q.2.1) q.2.2)[j - q.1]? = some (t.slice.read (o + j), t.poison.contains ((o + j) / 32)) := by
          rw [Tile.getElem_bytes t (by omega), hofs, show o + q.1 + (j - q.1) = o + j by omega]
        have hcover : ∃ r ∈ q :: parts, r.1 ≤ j ∧ j < r.1 + r.2.2 := ⟨q, by simp, hq⟩
        rw [if_pos hq, hbyte, ite_self, if_pos hcover]
      · simp only [List.mem_cons, exists_eq_or_imp, hq, if_false, false_or]
  obtain ⟨hlen, hget⟩ := general (List.replicate total (0, false)) (by simp) _ rfl
  exact ⟨hlen, fun j hj => (hget j).trans (if_pos hj)⟩

/-- The bytes that a masked load selects in the own slice. -/
theorem masked_gather {s : State} {p : Word} (h : s.readsHere p 64) (mask : Word) {j : Nat} (hj : j < 64) :
    (maskBytes mask (gather 64 ((maskParts mask p).map fun q => (q.1, s.tile.bytes (ptrOfs q.2.1) q.2.2))))[j]? =
      some (if mask.getLsbD j then some (s.tile.slice.read (ptrOfs p + j), false) else none) := by
  obtain ⟨hsp, hofs, -, -, -, hpoison⟩ := h
  obtain ⟨hparts, hcover⟩ := maskParts_spec mask hsp hofs
  obtain ⟨hlen, hget⟩ := getElem_gather s.tile (parts := maskParts mask p) (o := ptrOfs p) (total := 64)
    fun q hq => ⟨(hparts q hq).2.1, (hparts q hq).2.2⟩
  rw [getElem_maskBytes mask _ (by rw [hlen]; exact hj)]
  by_cases hbit : mask.getLsbD j = true
  · rw [if_pos hbit, if_pos hbit, hget j (hcover j hj hbit), hpoison j hj]
  · rw [if_neg hbit, if_neg hbit]

/-- No byte that a masked load selects is poisoned; f tells whether one is. -/
theorem masked_clean {s : State} {p : Word} (h : s.readsHere p 64) (mask : Word) (f : Option PByte → Bool) (hnone : f none = false)
    (hsome : ∀ b, f (some (b, false)) = false) :
    (maskBytes mask (gather 64 ((maskParts mask p).map fun q => (q.1, s.tile.bytes (ptrOfs q.2.1) q.2.2)))).any f = false := by
  obtain ⟨hlen, -⟩ := getElem_gather s.tile (parts := maskParts mask p) (o := ptrOfs p) (total := 64) fun q hq =>
    ((maskParts_spec mask h.1 h.2.1).1 q hq).2
  refine List.any_eq_false.2 fun y hy => ?_
  obtain ⟨j, hget⟩ := List.getElem?_of_mem hy
  have hj : j < 64 := by
    obtain ⟨hj, -⟩ := List.getElem?_eq_some_iff.1 hget
    simpa [maskBytes, upto_eq_range, hlen] using hj
  rw [masked_gather h mask hj] at hget
  cases hget
  split
  · simp [hsome]
  · simp [hnone]

end Sys2Proof.Machine
end

section
/-! SUPPORT. The loads and stores of rows and tile registers at the own slice (05 R121-R123). -/

namespace Sys2Proof.Machine

theorem State.codeChk_ok (s : State) {r : RowSel} (h : r ≠ .ill) : s.codeChk [r] = .ok () := by simp [State.codeChk, Ne.symm h]

theorem State.rowChk_ok (s : State) {r : RowSel} (h1 : r ≠ .ill) (h2 : r ≠ .rgf) : s.rowChk [r] = .ok () := by
  simp [State.rowChk, Ne.symm h1, Ne.symm h2]

/-- A base scalar whose access lies in the own slice is no far pointer. -/
theorem State.isFarRep_near {s : State} (hs : s.core.still = true) {x p : Word} {disp : Int} (he : ea x disp = some p) (hsp : ptrSpace p = 0) :
    s.isFarRep x = false := by
  have hx : ptrSpace x = 0 := (ea_fields he).1 ▸ hsp
  simp [State.isFarRep, Core.still_issuing hs, State.isFarPtr, hx]

section
variable {s : State} {c : RCode} {t : Fin 4} {a b : SReg} {imm : Int} {pos : RowPos} {x : Option Xsc} {p : Word} (hs : s.core.still = true)
include hs

section
variable (hrep : pos.rep = .one) (hill : s.memRow c pos 0 ≠ .ill) (hrgf : s.memRow c pos 0 ≠ .rgf)
include hrep hill hrgf

/-- LDR from the own slice. -/
theorem execLdr_here (he : ea (s.S a) imm = some p) (h : s.readsHere p 64) : execLdr c a imm pos x s =
    .next (s.rowResult (s.memRow c pos 0) (RowVal.ofBytes (s.tile.bytes (ptrOfs p) 64))) := by
  have hchk : eaChk (s.S a) (imm + (64 * 0 : Nat)) = .ok p := by rw [Nat.mul_zero, Nat.cast_zero, add_zero, eaChk_of_some he]
  simp only [execLdr, Core.still_ready hs, s.codeChk_ok hill, Chk.run_ok, State.isFarRep_near hs he h.1, hrep, State.repeated_one hs,
    Core.still_rowOpen hs, s.rowChk_ok hill hrgf, hchk, State.load_one (State.still_orderReady hs x) h, State.consume,
    State.readsHere_noPoison h, Bool.not_true, Bool.false_eq_true, if_false, State.rowResult]

/-- STR to the own slice. -/
theorem execStr_here (he : ea (s.S a) imm = some p) (h : s.writesHere p 64) (hw : s.tile.slice.wf = true) :
    ∃ u, execStr c a imm pos x s = .next u ∧
      s.onlyStored u p 64 fun j => some (Row.byte (s.core.rowVal (s.memRow c pos 0) 8 0).bits j) := by
  have hchk : eaChk (s.S a) (imm + (64 * 0 : Nat)) = .ok p := by rw [Nat.mul_zero, Nat.cast_zero, add_zero, eaChk_of_some he]
  simp only [execStr, Core.still_ready hs, s.codeChk_ok hill, Chk.run_ok, hrep, State.repeated_one hs, Core.still_rowFree hs,
    s.rowChk_ok hill hrgf, hchk, Bool.not_true, Bool.false_eq_true, if_false]
  refine State.storeTo_one (State.still_orderReady hs x) h hw fun j hj => ?_
  rw [List.getElem?_map, RowVal.getElem_bytes _ hj]
  rfl

section
variable (hsel : s.sel = .stage) (he : ea (s.S a) 0 = some p) (halign : ptrOfs p % 32 = 0)
include hsel he halign

omit hs hrep hill hrgf hsel in
/-- The pointer of a masked access without REP. -/
theorem maskChk_ok : ((eaChk (s.S a) (64 * 0 : Nat)).bind fun q => alignChk q 32) = .ok p := by
  rw [Nat.mul_zero, Nat.cast_zero, eaChk_of_some he, Chk.bind_ok]
  simp [alignChk, halign]

/-- LDS from the own slice. -/
theorem execLds_here (h : s.readsHere p 64) : execLds c a b pos x s = .next (s.rowResult (s.memRow c pos 0)
    ((s.core.rowVal (s.memRow c pos 0) 8 0).merge
      (maskBytes (s.S b) (gather 64 ((maskParts (s.S b) p).map fun q => (q.1, s.tile.bytes (ptrOfs q.2.1) q.2.2)))))) := by
  have hclean := masked_clean h (s.S b)
  obtain ⟨hsp, hofs, hf, hl, hr, -⟩ := h
  obtain ⟨hparts, -⟩ := maskParts_spec (s.S b) hsp hofs
  simp only [execLds, State.staging_stage hsel, Core.still_ready hs, s.codeChk_ok hill, Chk.run_ok, State.isFarRep_near hs he hsp, hrep,
    State.repeated_one hs, Core.still_rowOpen hs, s.rowChk_ok hill hrgf, maskChk_ok he halign,
    State.load_here (State.still_orderReady hs x) (fun q hq => (hparts q hq).1) hf hl hr, State.consume, Bool.not_true,
    Bool.false_eq_true, if_false, State.rowResult]
  rw [hclean _ rfl fun _ => rfl]
  rfl

/-- STS to the own slice. -/
theorem execSts_here (h : s.writesHere p 64) (hw : s.tile.slice.wf = true) :
    ∃ u, execSts c a b pos x s = .next u ∧ s.onlyStored u p 64 fun j =>
      if (s.S b).getLsbD j then some (Row.byte (s.core.rowVal (s.memRow c pos 0) 8 0).bits j) else none := by
  obtain ⟨hsp, hofs, hf, hl, hr, hext, hheld⟩ := h
  obtain ⟨hparts, hcover⟩ := maskParts_spec (s.S b) hsp hofs
  simp only [execSts, State.staging_stage hsel, Core.still_ready hs, s.codeChk_ok hill, Chk.run_ok, hrep, State.repeated_one hs,
    Core.still_rowFree hs, s.rowChk_ok hill hrgf, maskChk_ok he halign,
    State.storeTo_here (State.still_orderReady hs x) (fun q hq => (hparts q hq).1) hl hr hext hheld, Bool.not_true, Bool.false_eq_true, if_false]
  refine ⟨_, rfl, State.storedHere_only hf hw (fun q hq => (hparts q hq).2.1) (fun a ⟨q, hq, hlow, hhigh⟩ => ?_) (fun j hj => ?_) _⟩
  · have := (hparts q hq).2.2
    omega
  · rw [getElem_maskBytes _ _ (by simp [RowVal.bytes, upto_eq_range, hj]), RowVal.getElem_bytes _ hj]
    by_cases hbit : (s.S b).getLsbD j = true
    · rw [if_pos hbit, if_pos hbit, if_pos (hcover j hj hbit)]
      rfl
    · rw [if_neg hbit, if_neg hbit]
      exact (ite_self _).symm

end

end

section
variable (hsel : s.sel = .stage) (he : ea (s.S a) imm = some p)
include hsel he

/-- LDT from the own slice. -/
theorem execLdt_here (h : s.readsHere p 1024) : execLdt t a imm x s =
    .next (State.retire { s with core := s.core.setT t.val (tileOfBytes (s.tile.bytes (ptrOfs p) 1024)) }) := by
  simp only [execLdt, State.staging_stage hsel, Core.still_ready hs, Core.still_tileOpen hs, eaChk_of_some he, Chk.run_ok,
    State.load_one (State.still_orderReady hs x) h, State.consume, State.readsHere_noPoison h, Bool.and_self, Bool.not_true,
    Bool.false_eq_true, if_false]

/-- STT to the own slice. -/
theorem execStt_here (h : s.writesHere p 1024) (hw : s.tile.slice.wf = true) :
    ∃ u, execStt t a imm x s = .next u ∧ s.onlyStored u p 1024 fun j =>
      some (Row.byte ((s.core.T t.val).row (Fin.ofNat 16 (j / 64))).bits (j % 64)) := by
  simp only [execStt, State.staging_stage hsel, Core.still_ready hs, Core.still_busyT hs, eaChk_of_some he, Chk.run_ok, Bool.not_false,
    Bool.and_self, Bool.not_true, Bool.false_eq_true, if_false]
  refine State.storeTo_one (State.still_orderReady hs x) h hw fun j hj => ?_
  rw [List.getElem?_map, TileReg.getElem_bytes _ hj]
  rfl

end

end

theorem Core.setT_frame (c : Core) (t : Nat) (v : TileReg) :
    (c.setT t v).npc = c.npc ∧ (c.setT t v).regs = c.regs ∧ (c.setT t v).live = c.live := by
  unfold Core.setT
  split <;> exact ⟨rfl, rfl, rfl⟩

/-- A row of clean bytes of the slice. -/
theorem byte_ofBytes_slice {s : State} {p : Word} (h : s.readsHere p 64) {j : Nat} (hj : j < 64) :
    Row.byte (RowVal.ofBytes (s.tile.bytes (ptrOfs p) 64)).bits j = s.tile.slice.read (ptrOfs p + j) := by
  rw [RowVal.ofBytes_clean (State.readsHere_noPoison h), Row.byte_rowOfBytes (by simp), List.getElem?_map, Tile.getElem_bytes _ hj]
  rfl

/-- A row of a tile register of clean bytes of the slice. -/
theorem byte_tileOfBytes_slice {s : State} {p : Word} (h : s.readsHere p 1024) (i : Fin 16) {j : Nat} (hj : j < 64) :
    Row.byte ((tileOfBytes (s.tile.bytes (ptrOfs p) 1024)).row i).bits j = s.tile.slice.read (ptrOfs p + 64 * i.val + j) := by
  have hi := i.isLt
  have hrow : (tileOfBytes (s.tile.bytes (ptrOfs p) 1024)).row i = RowVal.ofBytes (((s.tile.bytes (ptrOfs p) 1024).drop (64 * i.val)).take 64) := by
    simp [tileOfBytes, TileReg.row]
  have hclean : (((s.tile.bytes (ptrOfs p) 1024).drop (64 * i.val)).take 64).any (·.2) = false :=
    List.any_eq_false.2 fun b hb => by simp [s.readsHere_clean h b (List.mem_of_mem_drop (List.mem_of_mem_take hb))]
  rw [hrow, RowVal.ofBytes_clean hclean, Row.byte_rowOfBytes (by simp), List.getElem?_map, List.getElem?_take_of_lt hj, List.getElem?_drop,
    Tile.getElem_bytes _ (by omega), Nat.add_assoc]
  rfl

end Sys2Proof.Machine

namespace Sys2Proof
open Machine

/-- Settles O10: a row or tile register is read or written at once, by the bytes that the mask selects. -/
theorem rowAndTileAccessesReachTheSlice : Obligations.RowAndTileAccessesReachTheSlice := by
  refine ⟨fun s c t a b imm base bank x p hs => ⟨fun hill hrgf he h => ?_, fun hsel hill hrgf he halign h => ?_, fun hsel he h => ?_⟩,
    fun s c t a b imm base bank x p hs hw => ⟨fun hill hrgf he h => execStr_here hs rfl hill hrgf he h hw,
      fun hsel hill hrgf he halign h => execSts_here hs rfl hill hrgf hsel he halign h hw, fun hsel he h => execStt_here hs hsel he h hw⟩⟩
  · refine ⟨_, execLdr_here hs rfl hill hrgf he h, s.rowResult_only _ _, fun hz => ?_, fun hz j hj => ?_⟩
    · rw [State.rowResult_val s (State.memRow_isReg hill hrgf hz), RowVal.ofBytes_clean (State.readsHere_noPoison h)]
    · rw [State.rowResult_val s (State.memRow_isReg hill hrgf hz), byte_ofBytes_slice h hj]
  · refine ⟨_, execLds_here hs rfl hill hrgf hsel he halign h, s.rowResult_only _ _, fun hz j hj => ?_⟩
    rw [State.rowResult_val s (State.memRow_isReg hill hrgf hz)]
    have hbyte := masked_gather h (s.S b) hj
    by_cases hbit : (s.S b).getLsbD j = true
    · rw [if_pos hbit] at hbyte ⊢
      exact Row.byte_merge_some _ hj hbyte
    · rw [if_neg hbit] at hbyte ⊢
      exact Row.byte_merge_none _ hj hbyte
  · obtain ⟨hnpc, hregs, hlive⟩ := s.core.setT_frame t.val (tileOfBytes (s.tile.bytes (ptrOfs p) 1024))
    refine ⟨_, execLdt_here hs hsel he h, hnpc, fun q => ?_, rfl, fun n hn => Core.T_setT_other s.core (Fin.castLE (by decide) t : TReg) _ hn,
      fun i j hj => ?_⟩
    · show (s.core.setT t.val _).S q = s.core.S q
      simp only [Core.S, hregs, hlive]
    · rw [← byte_tileOfBytes_slice h i hj]
      exact congrArg (fun v : TileReg => Row.byte (v.row i).bits j) (Core.T_setT_same s.core (Fin.castLE (by decide) t : TReg) _)

end Sys2Proof
end

section
/-! SUPPORT. The words of a capability and the instructions that make and check one (05 R127-R131). -/

namespace Sys2Proof.Machine

/-! ### Parts of a word -/

/-- A field of a word is part of every wider field that starts at its bottom. -/
theorem extract_of_low {e f : Word} (h : e.extractLsb' 0 51 = f.extractLsb' 0 51) {i n : Nat} (hn : i + n ≤ 51) :
    e.extractLsb' i n = f.extractLsb' i n := by
  apply BitVec.eq_of_getLsbD_eq
  intro j hj
  have hbit := congrArg (BitVec.getLsbD · (i + j)) h
  simpa [show i + j < 51 by omega, hj] using hbit

/-- A word is its low 51 bits and its high 13. -/
theorem word_ext {e f : Word} (hlow : e.extractLsb' 0 51 = f.extractLsb' 0 51) (hhigh : e.extractLsb' 51 13 = f.extractLsb' 51 13) : e = f := by
  apply BitVec.eq_of_getLsbD_eq
  intro i hi
  by_cases hi' : i < 51
  · simpa [hi'] using congrArg (BitVec.getLsbD · i) hlow
  · have hbit := congrArg (BitVec.getLsbD · (i - 51)) hhigh
    simpa [show i - 51 < 13 by omega, show 51 + (i - 51) = i by omega] using hbit

/-- A field of a number's word. -/
theorem extract_ofNat {x : Nat} (h : x < 2 ^ 64) (i n : Nat) : ((BitVec.ofNat 64 x).extractLsb' i n).toNat = x / 2 ^ i % 2 ^ n := by
  rw [BitVec.extractLsb'_toNat, BitVec.toNat_ofNat, Nat.mod_eq_of_lt h, Nat.shiftRight_eq_div_pow]

/-! ### The even word (R127) -/

/-- The low bits of an even word, before it is sealed. -/
def capLow (base : Nat) (perms : BitVec 3) : Nat := base % 2 ^ 48 + perms.toNat * 2 ^ 48

theorem capLow_lt (base : Nat) (perms : BitVec 3) : capLow base perms < 2 ^ 51 := by
  have hp : perms.toNat < 8 := perms.isLt
  have hb : base % 2 ^ 48 < 2 ^ 48 := Nat.mod_lt _ (Nat.two_pow_pos 48)
  unfold capLow
  omega

theorem mkCap_low_word (ctx base : Nat) (perms : BitVec 3) (o : Word) :
    (mkCap ctx base perms o).extractLsb' 0 51 = (BitVec.ofNat 64 (capLow base perms)).extractLsb' 0 51 := by
  have hlt := capLow_lt base perms
  rw [mkCap_low]
  apply BitVec.eq_of_toNat_eq
  rw [extract_ofNat (Nat.lt_trans hlt (by decide)), BitVec.toNat_ofNat, Nat.pow_zero, Nat.div_one]
  rfl

theorem capLow_base {base : Nat} (h : base < 2 ^ 48) (perms : BitVec 3) : capLow base perms / 2 ^ 0 % 2 ^ 48 = base := by
  rw [capLow, Nat.pow_zero, Nat.div_one, Nat.add_mul_mod_self_right, Nat.mod_mod, Nat.mod_eq_of_lt h]

theorem capLow_perms (base : Nat) (perms : BitVec 3) : capLow base perms / 2 ^ 48 % 2 ^ 3 = perms.toNat := by
  have hb : base % 2 ^ 48 < 2 ^ 48 := Nat.mod_lt _ (Nat.two_pow_pos 48)
  rw [capLow, Nat.add_mul_div_right _ _ (Nat.two_pow_pos 48), Nat.div_eq_of_lt hb, Nat.zero_add, Nat.mod_eq_of_lt perms.isLt]

theorem capBase_mkCap (ctx : Nat) {base : Nat} (h : base < 2 ^ 48) (perms : BitVec 3) (o : Word) : capBase (mkCap ctx base perms o) = base := by
  rw [capBase, extract_of_low (mkCap_low_word ctx base perms o) (by decide), extract_ofNat (Nat.lt_trans (capLow_lt base perms) (by decide)),
    capLow_base h]

theorem perms_mkCap (ctx base : Nat) (perms : BitVec 3) (o : Word) : (mkCap ctx base perms o).extractLsb' 48 3 = perms := by
  apply BitVec.eq_of_toNat_eq
  rw [extract_of_low (mkCap_low_word ctx base perms o) (by decide), extract_ofNat (Nat.lt_trans (capLow_lt base perms) (by decide)),
    capLow_perms]

/-- The seal depends on the low bits of the even word. -/
theorem sealOf_congr {ctx : Nat} {e f o : Word} (h : e.extractLsb' 0 51 = f.extractLsb' 0 51) : sealOf ctx e o = sealOf ctx f o := by
  simp only [sealOf, h]

theorem isSealed_iff {ctx : Nat} {e o : Word} : isSealed ctx e o = true ↔ capSlot o ≠ 0 ∧ e.extractLsb' 51 13 = sealOf ctx e o := by
  simp [isSealed]

/-- Two sealed even words of an odd word with the same low bits are the same. -/
theorem sealed_unique {ctx : Nat} {e f o : Word} (he : isSealed ctx e o = true) (hf : isSealed ctx f o = true)
    (h : e.extractLsb' 0 51 = f.extractLsb' 0 51) : e = f := by
  obtain ⟨-, hhighe⟩ := isSealed_iff.1 he
  obtain ⟨-, hhighf⟩ := isSealed_iff.1 hf
  exact word_ext h (hhighe.trans ((sealOf_congr h).trans hhighf.symm))

theorem mkCap_sealed_iff (ctx base : Nat) (perms : BitVec 3) (o : Word) :
    isSealed ctx (mkCap ctx base perms o) o = true ↔ capSlot o ≠ 0 :=
  ⟨fun h => (isSealed_iff.1 h).1, isSealed_mkCap ctx base perms o⟩

/-! ### The instructions (R130) -/

theorem State.trapB_capv (s : State) (va : Word) : s.trapB .capv va = .next (s.takeTrap .capv va s.core.pc false) :=
  State.trapB_eq s .capv va (by decide) (by decide)

section
variable {s : State} {d a b c : SReg} (hsel : s.sel = .stage)
include hsel

section
variable (hr : s.core.ready [d, a, pairOf a, b] = true)
include hr

theorem execCbnd_sealed (hsealed : isSealed s.tile.ctx (s.S a) (s.S (pairOf a)) = true) (hlen : (s.S b).toNat ≤ capLen (s.S (pairOf a))) :
    execCbnd d a b s = .next (s.result d (edgePtr (capBase (s.S a) + (s.S b).toNat))) := by
  simp only [execCbnd, State.staging_stage hsel, hr, hsealed, decide_eq_false (Nat.not_lt.2 hlen), Bool.not_true, Bool.or_self,
    Bool.false_eq_true, if_false, State.result]

theorem execCbnd_refused (h : ¬ (isSealed s.tile.ctx (s.S a) (s.S (pairOf a)) = true ∧ (s.S b).toNat ≤ capLen (s.S (pairOf a)))) :
    execCbnd d a b s = .next (s.takeTrap .capv (s.S b) s.core.pc false) := by
  have hrefuse : (!isSealed s.tile.ctx (s.S a) (s.S (pairOf a)) || decide (capLen (s.S (pairOf a)) < (s.S b).toNat)) = true := by
    simpa [imp_iff_not_or] using h
  simp only [execCbnd, State.staging_stage hsel, hr, hrefuse, Bool.not_true, Bool.false_eq_true, if_false, if_true, State.trapB_capv]

/-- What CCHK writes: 1, 2, 3 or 0 by the first check that fails. -/
def State.capStatus (s : State) (e o off : Word) : Word :=
  if isSealed s.tile.ctx e o = false then 1 else if capLen o ≤ off.toNat then 2 else if s.slotRevoked (capSlot o) = true then 3 else 0

/-- CCHK writes its status; it may also note the slot in the check cache. -/
theorem execCchk_eq : ∃ u, (u = s ∨ u = s.noteClear (capSlot (s.S (pairOf a)))) ∧
    execCchk d a b s = .next (u.result d (s.capStatus (s.S a) (s.S (pairOf a)) (s.S b))) := by
  simp only [execCchk, State.staging_stage hsel, hr, Bool.not_true, Bool.false_eq_true, if_false, State.capStatus]
  by_cases hsealed : isSealed s.tile.ctx (s.S a) (s.S (pairOf a)) = true
  · by_cases hlen : capLen (s.S (pairOf a)) ≤ (s.S b).toNat
    · exact ⟨s, .inl rfl, by simp [hsealed, hlen, State.result]⟩
    · by_cases hrevoked : s.slotRevoked (capSlot (s.S (pairOf a))) = true
      · exact ⟨s, .inl rfl, by simp [hsealed, hlen, hrevoked, State.result]⟩
      · exact ⟨_, .inr rfl, by simp [hsealed, hlen, hrevoked, State.result]⟩
  · exact ⟨s, .inl rfl, by simp [hsealed, State.result]⟩

end

section
variable (hr : s.core.ready [d, pairOf d, a, pairOf a, b, c] = true)
include hr

/-- The odd word of a narrowed pair: the new length with the slot of the old. -/
def narrowedOdd (o : Word) (len : Nat) : Word := BitVec.ofNat 64 (len + capSlot o * 2 ^ 40)

theorem execCnar_sealed (hsealed : isSealed s.tile.ctx (s.S a) (s.S (pairOf a)) = true) (h40 : (s.S c).toNat < 2 ^ 40)
    (hlen : ((s.S b).extractLsb' 0 40).toNat + (s.S c).toNat ≤ capLen (s.S (pairOf a))) :
    execCnar d a b c s = .next (((s.setS d (mkCap s.tile.ctx (capBase (s.S a) + ((s.S b).extractLsb' 0 40).toNat)
      ((s.S a).extractLsb' 48 3 &&& (s.S b).extractLsb' 40 3) (narrowedOdd (s.S (pairOf a)) (s.S c).toNat))).setS (pairOf d)
      (narrowedOdd (s.S (pairOf a)) (s.S c).toNat)).retire) := by
  simp only [execCnar, State.staging_stage hsel, hr, hsealed, decide_eq_false (Nat.not_le.2 h40), decide_eq_false (Nat.not_lt.2 hlen),
    Bool.not_true, Bool.or_self, Bool.false_eq_true, if_false, narrowedOdd]

theorem execCnar_refused (h : ¬ (isSealed s.tile.ctx (s.S a) (s.S (pairOf a)) = true ∧ (s.S c).toNat < 2 ^ 40 ∧
    ((s.S b).extractLsb' 0 40).toNat + (s.S c).toNat ≤ capLen (s.S (pairOf a)))) :
    execCnar d a b c s = .next (s.takeTrap .capv (s.S b) s.core.pc false) := by
  have hrefuse : (!isSealed s.tile.ctx (s.S a) (s.S (pairOf a)) || decide (2 ^ 40 ≤ (s.S c).toNat) ||
      decide (capLen (s.S (pairOf a)) < ((s.S b).extractLsb' 0 40).toNat + (s.S c).toNat)) = true := by
    by_contra hpass
    simp only [Bool.or_eq_true, Bool.not_eq_true', decide_eq_true_eq, not_or, Bool.not_eq_false, Nat.not_le, Nat.not_lt] at hpass
    obtain ⟨⟨hsealed, h40⟩, hlen⟩ := hpass
    exact h ⟨hsealed, h40, hlen⟩
  simp only [execCnar, State.staging_stage hsel, hr, hrefuse, Bool.not_true, Bool.false_eq_true, if_false, if_true, State.trapB_capv]

end

end

theorem narrowedOdd_toNat (o : Word) {len : Nat} (h : len < 2 ^ 40) : (narrowedOdd o len).toNat = len + capSlot o * 2 ^ 40 := by
  have hslot : capSlot o < 2 ^ 24 := (o.extractLsb' 40 24).isLt
  rw [narrowedOdd, BitVec.toNat_ofNat]
  omega

/-- The check cache is no register, and not the slice. -/
theorem State.noteClear_frame (s : State) (slot : Nat) : (s.noteClear slot).core = s.core ∧ (s.noteClear slot).tile.slice = s.tile.slice := by
  unfold State.noteClear
  split <;> exact ⟨rfl, rfl⟩

end Sys2Proof.Machine

namespace Sys2Proof
open Machine

/-- Settles O12: the pair is checked, and the seal is a function of the other bits of the pair. -/
theorem capabilitiesAreBoundedNarrowedChecked : Obligations.CapabilitiesAreBoundedNarrowedChecked := by
  refine ⟨fun s d a b c hsel hready => ?_, fun ctx base perms o hbase => ?_⟩
  · have hthree : s.core.ready [d, a, pairOf a, b] = true := Core.ready_of_subset hready (by simp [pairOf])
    have hsix : s.core.ready [d, pairOf d, a, pairOf a, b, c] = true := hready
    refine ⟨fun hs hlen => execCbnd_sealed hsel hthree hs hlen, fun h => execCbnd_refused hsel hthree h, fun hs h40 hlen => ?_,
      fun h => execCnar_refused hsel hsix h, ?_⟩
    · exact ⟨_, narrowedOdd_toNat _ h40, execCnar_sealed hsel hsix hs h40 hlen⟩
    · obtain ⟨u, hu, hexec⟩ := execCchk_eq hsel hthree
      obtain ⟨hcore, hslice⟩ : u.core = s.core ∧ u.tile.slice = s.tile.slice := by
        rcases hu with rfl | rfl
        · exact ⟨rfl, rfl⟩
        · exact s.noteClear_frame _
      have hread (r : SReg) : (u.result d (s.capStatus (s.S a) (s.S (pairOf a)) (s.S b))).S r =
          if r = d ∧ d ≠ 0 then s.capStatus (s.S a) (s.S (pairOf a)) (s.S b) else s.S r := by
        have hu' : u.S r = s.S r := congrArg (Core.S · r) hcore
        rw [← hu', ← State.S_setS]; rfl
      refine ⟨_, hexec, ?_, fun hd => ?_, fun r hr => ?_, hslice, ?_⟩
      · show (u.core.setS d _).npc = s.core.npc
        rw [Core.setS_npc, hcore]
      · rw [hread, if_pos ⟨rfl, hd⟩]; rfl
      · rw [hread, if_neg (fun h => hr h.1)]
      · show (u.core.setS d _).tr = s.core.tr
        rw [Core.setS_tr, hcore]
  · exact ⟨capBase_mkCap ctx hbase perms o, perms_mkCap .., mkCap_sealed_iff .., fun e he hlow =>
      sealed_unique he ((mkCap_sealed_iff ..).2 (isSealed_iff.1 he).1) hlow⟩

end Sys2Proof
end

section
/-! SUPPORT. A capability access whose read of the revocation bitmap is poisoned, inside an open containment region (05 R126, R131, 14 R344). -/

namespace Sys2Proof.Machine

/-- An unwind leaves the region. -/
theorem State.unwind_frames {s : State} {f : ContFrame} {fs : List ContFrame} (hr : s.core.rpsh = []) (hf : s.core.frames = f :: fs)
    (c : UCause) (bofs : BitVec 19) : (s.unwind c bofs).core.frames = fs := by
  have hnone : rpshFillAll s.core.rpsh.length s = s := by rw [hr]; rfl
  simp only [State.unwind, hnone, hf, State.reheld]
  repeat' split
  all_goals rfl

/-- A trap that is entered leaves the regions open. -/
theorem State.takeTrap_frames {s : State} {c : Cause} (hu : s.core.unit.ops = []) (hfwd : (s.preTrap c).forwards c = false)
    (hlevel : s.core.tr.level.val ≠ 2) (hvec : s.core.sr.tvec.getLsbD 19 = true) (va tpc : Word) (dfr : Bool) :
    (s.takeTrap c va tpc dfr).core.frames = s.core.frames := by
  have hcore : (s.preTrap c).core = { s.core with iabSkip := false, asleep := none, xlatReq := none, plReq := none } := by
    unfold State.preTrap
    rw [(State.traceRec_core ..).1, State.withdraw_none]
    exact hu
  rw [State.takeTrap_eq, if_neg (by simp [hfwd]), State.enterTrap_eq _ _ _ _ _ (by rw [hcore]; exact hlevel) (by rw [hcore]; exact hvec), hcore]

/-- Inside an open region DUE unwinds it. -/
theorem State.trapB_inRegion {s : State} (h : s.core.inRegion = true) (va : Word) : s.trapB .due va = .next (s.unwind .due s.core.bofs) := by
  simp [State.trapB, State.fault, h]

/-- The odd word of a pair of slot 1 and length 8. -/
def regionOdd : Word := 0x0000010000000008

/-- The core of the state below: one region is open, the traps have a vector, and s2 and s3 hold a sealed pair. -/
def regionCore : Core :=
  Core.setS (Core.setS { frames := [{ handler := 0, regs := Vector.replicate 16 0, live := 0 }], sr := { tvec := 0x80000 } } 2
    (mkCap 0 0 1 regionOdd)) 3 regionOdd

/-- A staging core inside a region, with a sealed pair that permits reads; the sector of the bitmap that holds the pair's bit is poisoned. -/
def regionState : State := { sel := .stage, core := regionCore, ctxs := [(0, { bitmapBad := [0] })] }

theorem regionState_pair : regionState.S 2 = mkCap 0 0 1 regionOdd ∧ regionState.S 3 = regionOdd ∧ regionState.S 0 = 0 := ⟨rfl, rfl, rfl⟩

theorem regionState_sealed : isSealed regionState.tile.ctx (regionState.S 2) (regionState.S 3) = true :=
  isSealed_mkCap 0 0 1 regionOdd (by decide)

theorem regionState_permits : capPR (regionState.S 2) = true := by
  have hbit := congrArg (BitVec.getLsbD · 0) (perms_mkCap 0 0 1 regionOdd)
  simpa [capPR, regionState_pair] using hbit

theorem regionState_inRegion : regionState.core.inRegion = true := by decide

/-- The bundle unwinds the region. -/
theorem regionState_unwinds : exec (.cld .d 8 2 0 none) regionState = .next (regionState.unwind .due regionState.core.bofs) := by
  have hready : regionState.core.ready [8, 2, pairOf 2, 0] = true := Core.still_ready (by decide) _
  have hpair : regionState.S (pairOf 2) = regionOdd := rfl
  have hsealed := regionState_sealed
  have hroom : ¬ capLen regionOdd < (regionState.S 0).toNat + sizeBytes .d := by decide
  have hpoison : regionState.slotPoisoned (capSlot regionOdd) = true := by decide
  have hchk : regionState.capCheck 2 0 (sizeBytes .d) false = .trap .due (edgePtr (capBase (regionState.S 2) + (regionState.S 0).toNat)) := by
    rw [regionState_pair.2.1] at hsealed
    simp only [State.capCheck, hpair, hsealed, regionState_permits, hroom, hpoison, Bool.not_true, Bool.false_eq_true, if_false, if_true]
  show execCld .d 8 2 0 none regionState = _
  rw [execCld, State.staging_stage (by rfl), hready, hchk]
  exact State.trapB_inRegion regionState_inRegion _

end Sys2Proof.Machine

namespace Sys2Proof
open Machine

/-- Refutes O13: inside an open containment region the poisoned read of the revocation bitmap unwinds the region (14 R344) and is no trap, so that
the region is closed where the statement keeps it open. -/
theorem not_capabilityAccessesAreChecked : ¬ Obligations.CapabilityAccessesAreChecked := by
  intro h
  obtain ⟨-, -, hdue, -⟩ := h regionState .d 8 2 0 none default rfl (by decide)
  have hpoison : regionState.slotPoisoned (capSlot (regionState.S (2 + 1))) = true := by decide
  have htrap := (hdue regionState_sealed (by decide) hpoison).1 regionState_permits
  rw [regionState_unwinds] at htrap
  have hframes := congrArg (·.core.frames) (Host.Outcome.next.inj htrap)
  rw [State.unwind_frames (s := regionState) rfl rfl, State.takeTrap_frames rfl (by decide) (by decide) (by decide)] at hframes
  exact absurd hframes (by decide)

end Sys2Proof
end

section
/-! SUPPORT. Requests on VC1 at the slice (05 R136, R137, 07 R165, R178). -/

namespace Sys2Proof.Machine

/-- Without wrong bits a store writes its bytes, and nothing else, to the slice. -/
theorem Tile.store_writes {t : Tile} (h : t.flips = []) (fresh o : Nat) (bs : List (Option PByte)) :
    (t.store fresh o bs).slice = t.slice.writeMany o (bs.map fun b => b.map (·.1)) := by
  simp [Tile.store, h]

/-- Of a tile without wrong bits a store leaves the name of the place and of its team. -/
theorem Tile.store_names {t : Tile} (h : t.flips = []) (fresh o : Nat) (bs : List (Option PByte)) :
    (t.store fresh o bs).id = t.id ∧ (t.store fresh o bs).hnd = t.hnd := by
  simp [Tile.store, h]

section
variable {s : State} {p : Packet}

/-- The bytes of a write stand in the slice. -/
def State.wrote (s : State) (o : Nat) (bs : List (Option PByte)) : State :=
  { s with tile := s.tile.store s.fresh o bs, fresh := s.fresh + 1 }

theorem performTile_read {pos o n : Nat} (hb : p.body = .read pos o n) (hl : s.tile.leaseDir = []) (hf : s.tile.flips = [])
    (seen : Bool) : s.performTile p seen = .done (State.reply { s with fresh := s.fresh + 1 } p (.data pos (s.tile.bytes o n))) none := by
  simp only [State.performTile, hb, Tile.leasedOut_none hl, Tile.ecc_clean hf]

section
variable {o : Nat} {bs : List (Option PByte)} (hb : p.body = .write o bs) (hl : s.tile.leaseDir = [])
include hb hl

theorem performTile_write (hheld : s.tile.heldWrite o bs = false) (seen : Bool) :
    s.performTile p seen = .done ((s.wrote o bs).reply p (.ack false)) none := by
  simp only [State.performTile, hb, Tile.leasedOut_none hl, hheld, Bool.false_eq_true, if_false, State.acked, State.wrote]

theorem performTile_heldWrite (hheld : s.tile.heldWrite o bs = true) (seen : Bool) : s.performTile p seen = .wait s := by
  simp only [State.performTile, hb, Tile.leasedOut_none hl, hheld, if_true]

/-- A held write that may be made leaves the port. -/
theorem heldSlotWritePerform_free (hx : Expects s.tile.windows p) (hport : s.tile.heldWrites = [(p, false)]) (hf : s.tile.flips = [])
    (hheld : s.tile.heldWrite o bs = false) : ∃ u, execHeldSlotWritePerform s = .next u ∧ u.tile.heldWrites = [] ∧
      u.tile.slice = s.tile.slice.writeMany o (bs.map fun b => b.map (·.1)) := by
  obtain ⟨net, hnet⟩ := (s.wrote o bs).reply_eq p (.ack false)
  have hdone := performTile_write hb hl hheld false
  rw [hnet] at hdone
  have hwindows : (s.wrote o bs).tile.windows = s.tile.windows := (s.tile.store_frame s.fresh o bs).2.1
  have hwaits : (s.wrote o bs).tile.heldWrites = s.tile.heldWrites := by simp [State.wrote, Tile.store, hf]
  have hrun := tryWaiting_done hx hdone hwindows (by rw [hb]; exact fun e => nomatch e)
  have hexec : execHeldSlotWritePerform s = .next (tryWaiting [(p, false)] s) := by rw [execHeldSlotWritePerform, hport]; rfl
  rw [hrun] at hexec
  refine ⟨_, hexec, ?_, Tile.store_writes hf s.fresh o bs⟩
  simp [State.counted, Tile.unwait, hwaits, hport]

end

/-! ### The arrival of a request -/

theorem State.putWait_slice {s : State} {p : Packet} (hv : p.vc = 1) (seen : Bool) :
    s.putWait p seen = { s with tile := { s.tile with heldWrites := s.tile.heldWrites ++ [(p, seen)] } } := by
  simp [State.putWait, hv]

section
variable (ha : s.arrives p) (hv : p.vc = 1)
include ha hv

/-- A request that is performed and answered in one move. -/
theorem seqWindowArrival_done {u : State} {b : Body} (hp : (s.without p).performTile p false = .done (u.reply p b) none) (hb : p.body ≠ .close)
    (hw : u.tile.windows = s.tile.windows) (hid : u.tile.id = s.tile.id) (hhnd : u.tile.hnd = s.tile.hnd) (hgen : u.routeGen = s.routeGen)
    (hsel : u.sel = s.sel) : execSeqWindowArrival p s = .next ((u.notice (s.replyHere p b)).counted p none) := by
  obtain ⟨x, y, hsid, hd, htaken⟩ := State.arrives_place ha
  have hreply : u.reply p b = u.notice (s.replyHere p b) := by
    rw [State.reply_here (hid.trans hsid) hd htaken, State.replyHere_congr hgen hhnd]
  rw [hreply] at hp
  have harrive := State.arriveTile_done (s := s.without p) (State.without_waits ha).1 (State.without_waits ha).2 hp hw hb
  have hvc : p.vc.val ≠ 0 ∧ p.vc.val ≠ 2 ∧ p.vc.val ≠ 7 := by rw [hv]; decide
  have hevent := State.packetEvent_arrives ha hvc harrive hid hsel
  simpa [execSeqWindowArrival, hv] using hevent

/-- A request that waits at the slice. -/
theorem seqWindowArrival_wait (hp : (s.without p).performTile p false = .wait (s.without p)) : execSeqWindowArrival p s =
    .next { s.without p with tile := { s.tile with heldWrites := [(p, isAtomicBody p.body)] } } := by
  have harrive := State.arriveTile_wait (s := s.without p) (State.without_waits ha).1 (State.without_waits ha).2 hp
  rw [State.putWait_slice hv] at harrive
  have hvc : p.vc.val ≠ 0 ∧ p.vc.val ≠ 2 ∧ p.vc.val ≠ 7 := by rw [hv]; decide
  have hevent := State.packetEvent_arrives ha hvc harrive rfl rfl
  simpa [execSeqWindowArrival, hv, State.without, (State.arrives_idle ha).2] using hevent

end

end

end Sys2Proof.Machine

namespace Sys2Proof
open Machine

/-- Settles O20: the window expects the packet, so that it is performed at once, or waits where it writes into a held slot. -/
theorem requestsArePerformedAtTheSlice : Obligations.RequestsArePerformedAtTheSlice := by
  intro s p ha hv hl hf hw
  refine ⟨fun pos o n hb => ?_, fun o bs hb => ⟨fun hheld => ?_, fun hheld => ?_⟩⟩
  · have hdone := performTile_read (s := s.without p) hb hl hf false
    exact ⟨_, seqWindowArrival_done ha hv hdone (by rw [hb]; exact fun e => nomatch e) rfl rfl rfl rfl rfl, rfl, rfl⟩
  · have hdone := performTile_write (s := s.without p) hb hl hheld false
    obtain ⟨hid, hhnd⟩ := Tile.store_names hf s.fresh o bs
    refine ⟨_, seqWindowArrival_done (u := (s.without p).wrote o bs) ha hv hdone (by rw [hb]; exact fun e => nomatch e)
      (s.tile.store_frame s.fresh o bs).2.1 hid hhnd rfl rfl,
      rfl, fun a => ?_⟩
    have hslice : (s.tile.store s.fresh o bs).slice = s.tile.slice.writeMany o (bs.map fun b => b.map (·.1)) := Tile.store_writes hf ..
    show (s.tile.store s.fresh o bs).slice.read a = _
    rw [hslice, Memory.read_writeMany _ _ _ _ hw]
    split
    · simp only [List.getElem?_map]
      cases h : bs[a - o]? with
      | none => rfl
      | some b => cases b <;> rfl
    · rfl
  · have hwait := performTile_heldWrite (s := s.without p) hb hl hheld false
    have hatomic : isAtomicBody p.body = false := by rw [hb]; rfl
    refine ⟨_, seqWindowArrival_wait ha hv hwait, rfl, rfl, by simp only [hatomic], fun t hport hwin hlt hft hfree => ?_⟩
    have hx : Expects s.tile.windows p := State.arrives_expects ha
    exact heldSlotWritePerform_free hb hlt (by rw [hwin]; exact hx) hport hft hfree

end Sys2Proof
end

section
/-! SUPPORT. A request to the quay of the region and its answer, on a core with nothing in flight (07 R165, R180, 15 R384). -/

namespace Sys2Proof.Machine

/-! ### The request -/

/-- The request to the quay of the region. -/
def State.askPkt (s : State) (k : Fin 13) (w1 w2 : Word) : Packet :=
  s.packet (.quay s.myRegion) 0 .stage (BitVec.ofNat 16 (s.core.link.vc0.filter fun p => p.req == s.core.link.req).length) false 0
    s.core.link.req (.ask k w1 w2)

/-- The entry of the request. -/
def State.askEntry (s : State) (i : Instr) (w1 w2 : Word) : Entry := { s.newEntry i 7 w1 w2 with fabric := true, req := s.core.link.req }

/-- The request has left, entry 0 waits for its answer, and the bundle has retired. -/
def State.asking (s : State) (i : Instr) (k : Fin 13) (w1 w2 : Word) : State :=
  { s with
    core := { s.core.setEntry 0 (s.askEntry i w1 w2) with
      link := { s.core.link with vc0 := s.core.link.vc0 ++ [s.askPkt k w1 w2], req := s.core.link.req + 1 }, pc := s.core.npc, issued := true }
    net := s.net ++ [s.askPkt k w1 w2] }

theorem State.asking_entry (s : State) (i : Instr) (k : Fin 13) (w1 w2 : Word) :
    (s.asking i k w1 w2).core.rq[(0 : Fin 8)] = s.askEntry i w1 w2 := vput_same ..

section
variable {s : State} {i : Instr} {k : Fin 13} {w1 w2 : Word} (hs : s.core.still = true)
include hs

theorem State.askQuay_free (hl : s.linkFree) : s.askQuay i k w1 w2 = .next (s.asking i k w1 w2) := by
  obtain ⟨hretry, hstreams, hhaw⟩ := hl
  have hsend : s.canSend [{ dst := .quay s.myRegion, vc := 0, ent := 0, body := .ask k w1 w2 }] = true := by
    simp [State.canSend, hretry, hstreams, hhaw, retryBytes, newStreams]
  have hent : ((0 : Fin 8) : Nat) = 0 := rfl
  simp only [State.askQuay, State.withEntry, Core.still_free hs, State.send, hent, hsend, Bool.or_true, if_true]
  rfl

theorem State.asks_of_askQuay (hl : s.linkFree) (hexec : exec i s = s.askQuay i k w1 w2) : s.asks (s.asking i k w1 w2) i k w1 w2 := by
  have hentry := s.asking_entry i k w1 w2
  refine ⟨hexec.trans (State.askQuay_free hs hl), rfl, ?_, ?_, ?_, ?_, fun _ => rfl, rfl, rfl, s.askPkt k w1 w2, rfl, rfl, rfl, rfl, rfl⟩
  all_goals rw [hentry]; rfl

end

/-! ### The quay's answer -/

/-- A packet of the team of the tile in focus, from the core in focus. -/
def State.sent (s : State) (p : Packet) : Prop :=
  p.shnd = s.tile.hnd ∧ p.ctx = s.tile.ctx ∧ p.stag = s.tile.ttag ∧ p.score = s.sel

/-- The quay serves a request of the core in focus once, and keeps its answer. -/
theorem State.serveBy_focus {s u : State} {p : Packet} {held : State → State} {answer : State → Option (List Word × State)} {ws : List Word}
    (hnew : s.answerTo p = none) (howned : s.tile.owned = true) (hp : s.sent p) (hans : answer s = some (ws, u))
    (hid : u.tile.id = s.tile.id) (hsel : u.sel = s.sel) :
    s.serveBy p held answer = State.reply { u with answers := u.answers ++ [answerOf p ws] } p (.told ws) := by
  obtain ⟨hhnd, hctx, htag, hcore⟩ := hp
  have hfind : s.allTiles.find? (fun t => t.tile.owned && t.tile.hnd == p.shnd && t.tile.ctx == p.ctx && t.tile.ttag == p.stag) =
      some s.curTile := by
    simp [State.allTiles, State.curTile_tile, howned, hhnd, hctx, htag]
  obtain ⟨net, hreply⟩ := State.reply_eq { u with answers := u.answers ++ [answerOf p ws] } p (.told ws)
  simp only [State.serveBy, hnew, hfind]
  rw [State.atCore_self (by rw [State.curTile_tile]) hcore.symm]
  · simp only [hans]
  · simp only [hans, hreply]; exact hid
  · simp only [hans, hreply]; exact hsel

/-- The answer of the quay, given in words. -/
def toldPkt (p : Packet) (gen : BitVec 16) (ws : List Word) : Packet := { replyTo p gen (.told ws) with rhnd := 0, ttag := p.stag }

theorem State.reply_told {s : State} {p : Packet} {r : Nat} (hd : p.dst = .quay r) (ht : p.taken = 0) (ws : List Word) :
    s.reply p (.told ws) = s.notice (toldPkt p s.routeGen ws) := by
  simp [State.reply, spilled, ht, hd, State.replier, toldPkt]

/-- The region of a quay is its number. -/
theorem regionOfEnd_quay (r : Nat) : regionOfEnd (.quay r) = r := by
  simp only [regionOfEnd, routerOf, regionOf]
  omega

/-- The fabric holds one packet, which has not set out. -/
def State.oneUnderWay (s : State) (p : Packet) : Prop := s.net = [p] ∧ landed p = p ∧ p.hop = none

/-- An answer of the quay of the region to the tile in focus is delivered to its core. -/
theorem State.carry_told {s u : State} {p : Packet} {x y : Nat} (hcalm : s.calm = true) (hone : s.oneUnderWay p) (hv : p.vc = 2) (ha : p.avc = 0)
    (hsrc : p.src = .quay s.myRegion) (hid : s.tile.id = .grid x y) (hd : p.dst = .tile x y) (howned : s.tile.owned = true)
    (hctx : p.ctx = s.tile.ctx) (htag : p.ttag = s.tile.ttag) (hcore : p.dcore = s.sel) (hswap : s.tile.swapping = false)
    (hu : State.response { s with net := [] } p = u) (h1 : u.tile.id = s.tile.id) (h2 : u.sel = s.sel) : s.carry p = u := by
  obtain ⟨hnet, hland, hhop⟩ := hone
  have hrelay : relays p = false := by simp [relays, hv]
  have hregion : regionOfEnd (.tile x y) = s.myRegion := by simp [regionOfEnd, routerOf, State.myRegion, TileId.region, hid, TileId.xy]
  have henters : s.entersRegion p = false := by
    simp [State.entersRegion, hcalm, legSrc, legDst, hhop, hrelay, hsrc, hd, regionOfEnd_quay, hregion]
  have htile : (State.tileAt { s with net := [] } (.grid x y)).tile = s.tile := State.tileAt_self (s := { s with net := [] }) hid
  have hfor : responseFor (State.tileAt { s with net := [] } (.grid x y)).tile p = true := by
    simp [responseFor, ha, htile, howned, hctx, htag]
  have hclosed : closedTo (State.tileAt { s with net := [] } (.grid x y)) p = false := by simp [closedTo, htile, hswap]
  have herase : s.net.erase p = [] := by simp [hnet]
  have hdeliver : State.deliver { s with net := [] } p = u := by
    simp only [State.deliver, hv, State.responseTile, hd, hfor, hclosed, beq_self_eq_true, Bool.not_false, Bool.and_self, if_true]
    subst hu
    exact State.atCore_self (s := { s with net := [] }) hid hcore.symm h1 h2
  simp only [State.carry, State.journeyOf, hcalm, if_true, henters, Bool.false_and, Bool.false_eq_true, if_false, State.endLeg, hrelay, hland,
    herase, hdeliver]

/-! ### The round of a request -/

/-- The request arrives and is served, and the answer sets out, in one event. -/
theorem State.askRound_eq {s u : State} {p q : Packet} {ent req : Nat} {base : Option Nat} {k : Fin 13} {w1 w2 : Word} (hhaw : s.hawser = false)
    (hask : s.askOf ent req = some p) (hcalm : s.calm = true) (hb : p.body = .ask k w1 w2)
    (hserve : State.serveAsk { s with net := s.net.erase p } (landed p) k w1 w2 base = u) (htold : u.toldTo ent req = some q) :
    s.askRound ent req base = u.carry q := by
  unfold State.askRound
  rw [if_neg (by simp [hhaw])]
  simp only [hask, State.journeyOf, hcalm, if_true, hb, hserve, htold]

section
variable {s : State} {i : Instr} {k : Fin 13} {w1 w2 : Word} (hq : s.quayNear)
include hq

theorem State.quayNear_calm {p : Packet} (hp : p.trail = []) {t : State} (h1 : t.linkFail = s.linkFail) (h2 : t.exceptions = s.exceptions)
    (h3 : t.credits = s.credits) (h4 : t.regions = s.regions) (h5 : t.net = [p]) : t.calm = true := by
  obtain ⟨-, hcalm, hnet, -⟩ := hq
  have hcalm : s.calm = true := hcalm
  simp only [State.calm, h1, h2, h3, h4, h5, hnet] at hcalm ⊢
  simpa [hp] using hcalm

/-- The state in which the request is at the quay. -/
def State.posed (s : State) (i : Instr) (k : Fin 13) (w1 w2 : Word) : State := { s.asking i k w1 w2 with net := [] }

/-- The quay has answered, and its contexts are cs; the answer has come to the tile. -/
def State.told (s : State) (i : Instr) (k : Fin 13) (w1 w2 : Word) (ws : List Word) (cs : Tab Ctx) : State :=
  { s.posed i k w1 w2 with ctxs := cs, answers := [answerOf (s.askPkt k w1 w2) ws] }

/-- The request goes to the quay, and its answer comes back. -/
theorem State.askRound_told {base : Option Nat} {ws : List Word} {cs : Tab Ctx} {u : State}
    (hans : (s.posed i k w1 w2).askAnswer k w1 w2 base = some (ws, { s.posed i k w1 w2 with ctxs := cs }))
    (hu : (s.told i k w1 w2 ws cs).response (toldPkt (s.askPkt k w1 w2) s.routeGen ws) = u) (h1 : u.tile.id = s.tile.id) (h2 : u.sel = s.sel) :
    (s.asking i k w1 w2).askRound 0 s.core.link.req base = u := by
  have hcalm := @State.quayNear_calm s hq
  obtain ⟨⟨-, -, hhaw⟩, -, hnet, hanswers, howned, hswap, -, -, x, y, hid, -, -⟩ := hq
  have hland : landed (s.askPkt k w1 w2) = s.askPkt k w1 w2 := rfl
  have hask : (s.asking i k w1 w2).askOf 0 s.core.link.req = some (s.askPkt k w1 w2) := by
    simp [State.askOf, State.asking, hnet, State.askPkt, State.packet]
  have hcalmAsk : (s.asking i k w1 w2).calm = true :=
    hcalm (p := s.askPkt k w1 w2) rfl rfl rfl rfl rfl (by simp [State.asking, hnet])
  have herase : (s.asking i k w1 w2).net.erase (s.askPkt k w1 w2) = [] := by simp [State.asking, hnet]
  have hserve : (s.posed i k w1 w2).serveAsk (s.askPkt k w1 w2) k w1 w2 base =
      { s.told i k w1 w2 ws cs with net := [toldPkt (s.askPkt k w1 w2) s.routeGen ws] } := by
    have hnew : (s.posed i k w1 w2).answerTo (s.askPkt k w1 w2) = none := by
      simp [State.answerTo, State.posed, State.asking, hanswers]
    rw [State.serveAsk,
      State.serveBy_focus (u := { s.posed i k w1 w2 with ctxs := cs }) hnew howned ⟨rfl, rfl, rfl, rfl⟩ hans rfl rfl,
      State.reply_told (r := s.myRegion) rfl rfl]
    simp [State.notice, State.told, State.posed, State.asking, hanswers]
  have htold : State.toldTo { s.told i k w1 w2 ws cs with net := [toldPkt (s.askPkt k w1 w2) s.routeGen ws] } 0 s.core.link.req =
      some (toldPkt (s.askPkt k w1 w2) s.routeGen ws) := by
    simp [State.toldTo, toldPkt, replyTo, State.askPkt, State.packet, State.told, State.posed, State.asking]
  have hcarry : State.carry { s.told i k w1 w2 ws cs with net := [toldPkt (s.askPkt k w1 w2) s.routeGen ws] }
      (toldPkt (s.askPkt k w1 w2) s.routeGen ws) = u :=
    State.carry_told (hcalm (p := toldPkt (s.askPkt k w1 w2) s.routeGen ws) rfl rfl rfl rfl rfl rfl) ⟨rfl, rfl, rfl⟩ rfl rfl rfl hid
      (by simp [toldPkt, replyTo, State.askPkt, State.packet, hid, TileId.endpoint]) howned rfl rfl rfl hswap hu h1 h2
  have hgone : ({ s.asking i k w1 w2 with net := (s.asking i k w1 w2).net.erase (s.askPkt k w1 w2) } : State) = s.posed i k w1 w2 := by
    rw [herase]; rfl
  exact (State.askRound_eq (s := s.asking i k w1 w2) hhaw hask hcalmAsk rfl (by rw [hgone, hland]; exact hserve) htold).trans hcarry

end

/-! ### The answer at the core -/

/-- The answer has come, and the request is no longer kept. -/
def State.heard (s : State) (i : Instr) (k : Fin 13) (w1 w2 : Word) (ws : List Word) (cs : Tab Ctx) : State :=
  let t := s.told i k w1 w2 ws cs
  { t with core := { t.core with link := { t.core.link with vc0 := [] } } }

/-- The quay may forget an answer that has arrived; nothing else changes. -/
theorem State.forgetAnswer_eq (s : State) (p : Packet) : ∃ as, s.forgetAnswer p = { s with answers := as } := by
  unfold State.forgetAnswer
  dsimp only
  split
  · exact ⟨s.answers, rfl⟩
  · exact ⟨_, rfl⟩

section
variable {s : State} {i : Instr} {k : Fin 13} {w1 w2 : Word} (hs : s.core.still = true)
include hs

theorem State.response_told (ws : List Word) (cs : Tab Ctx) : (s.told i k w1 w2 ws cs).response (toldPkt (s.askPkt k w1 w2) s.routeGen ws) =
    ((s.heard i k w1 w2 ws cs).toldEntry 0 ws).forgetAnswer (toldPkt (s.askPkt k w1 w2) s.routeGen ws) := by
  have hvc0 : (s.told i k w1 w2 ws cs).core.link.vc0 = [s.askPkt k w1 w2] := by
    simp [State.told, State.posed, State.asking, Core.still_vc0 hs]
  have hasked : (s.told i k w1 w2 ws cs).core.link.asked (toldPkt (s.askPkt k w1 w2) s.routeGen ws) = some (s.askPkt k w1 w2) := by
    simp [LinkState.asked, hvc0, toldPkt, replyTo]
  have hentry : (s.heard i k w1 w2 ws cs).core.rq[0] = s.askEntry i w1 w2 := s.asking_entry i k w1 w2
  have hfor : (s.heard i k w1 w2 ws cs).core.entryFor (toldPkt (s.askPkt k w1 w2) s.routeGen ws) = some 0 := by
    show (if (s.heard i k w1 w2 ws cs).core.rq[0].v && (s.heard i k w1 w2 ws cs).core.rq[0].fabric &&
      (s.heard i k w1 w2 ws cs).core.rq[0].req == s.core.link.req then some (0 : Fin 8) else none) = some 0
    rw [hentry]
    simp [State.askEntry, State.newEntry]
  have hheard : ({ s.told i k w1 w2 ws cs with core := { (s.told i k w1 w2 ws cs).core with link :=
      { (s.told i k w1 w2 ws cs).core.link with vc0 := (s.told i k w1 w2 ws cs).core.link.vc0.erase (s.askPkt k w1 w2) } } } : State) =
      s.heard i k w1 w2 ws cs := by
    rw [hvc0]; simp [State.heard]
  have hbody : (toldPkt (s.askPkt k w1 w2) s.routeGen ws).body = .told ws := rfl
  have havc : (toldPkt (s.askPkt k w1 w2) s.routeGen ws).avc = 0 := rfl
  have hent : (toldPkt (s.askPkt k w1 w2) s.routeGen ws).ent = 0 := rfl
  have hreject : (Body.told ws == .reject) = false := rfl
  simp only [State.response, hbody, hreject, havc, Bool.false_and, Bool.false_eq_true, if_false, beq_self_eq_true, if_true, State.vc0Response,
    hasked, hheard, hfor, Option.isSome_some, Bool.true_and, hent]
  rfl

end

end Sys2Proof.Machine
end

section
/-! SUPPORT. ALLOC and FREE (05 R132, R133). -/

namespace Sys2Proof.Machine

/-! ### ALLOC (R132) -/

/-- The entry of an ALLOC writes its pair and is freed. -/
theorem State.settle_alloc {s : State} {e : Entry} {d a b : SReg} (hen : s.core.rq[(0 : Fin 8)] = e) (hop : e.op = some (.alloc d a b))
    (hbuf : e.buf = []) (hlast : e.count.toNat ≤ e.next.toNat + 1) (hthaw : s.core.frozen e = false) (hup : s.core.upset = 0) :
    s.settle 0 = { s with core := ((s.core.setS d e.w3).setS (pairOf d) e.cap).dropEntry 0 } := by
  rw [State.settle_thawed hen hthaw]
  subst hen
  have hkld : s.core.rq[(0 : Fin 8)].kldFault (.alloc d a b) = none := rfl
  simp only [State.retireEntry, hop, hkld, State.consume, Entry.tainted_nil hbuf, Bool.false_eq_true, if_false]
  have hrq : (s.core.writeResult s.sel s.core.rq[(0 : Fin 8)] (.alloc d a b)).rq = s.core.rq := by
    show ((s.core.setS d _).setS (pairOf d) _).rq = _
    rw [Core.setS_rq, Core.setS_rq]
  rw [State.compared_agrees _ _ _ hup, State.entryDone_last (by simp only [hrq]; exact hlast)]
  rfl

/-- The answer to an ALLOC, as its words and the contexts of the quay after it. -/
def State.allocWords (s : State) (w1 w2 : Word) (base : Option Nat) : List Word :=
  match s.myCtx.allocate w1.toNat base with
  | none => [0, 0]
  | some k => [mkCap s.tile.ctx k.1 (w2.truncate 3) (BitVec.ofNat 64 (w1.toNat + k.2.1 * 2 ^ 40)), BitVec.ofNat 64 (w1.toNat + k.2.1 * 2 ^ 40)]

def State.allocCtxs (s : State) (w1 : Word) (base : Option Nat) : Tab Ctx :=
  match s.myCtx.allocate w1.toNat base with
  | none => s.ctxs
  | some k => Tab.put s.ctxs s.tile.ctx k.2.2

section
variable {s : State} {d a b : SReg} {w1 w2 : Word} {base : Option Nat} (hs : s.core.still = true)

theorem State.askAnswer_alloc (i : Instr) : (s.posed i 9 w1 w2).askAnswer 9 w1 w2 base =
    some (s.allocWords w1 w2 base, { s.posed i 9 w1 w2 with ctxs := s.allocCtxs w1 base }) := by
  have hctx : (s.posed i 9 w1 w2).myCtx = s.myCtx := rfl
  show some (State.allocAnswer _ w1 w2 base) = _
  rw [State.allocAnswer, hctx, State.allocWords, State.allocCtxs]
  cases s.myCtx.allocate w1.toNat base with
  | none => rfl
  | some k => rfl

/-- Word n of the answer. -/
def State.allocWord (s : State) (w1 w2 : Word) (base : Option Nat) (n : Nat) : Word := ((s.allocWords w1 w2 base)[n]?).getD 0

/-- The entry with the answer. -/
def State.allocEntry (s : State) (i : Instr) (w1 w2 : Word) (base : Option Nat) : Entry :=
  { s.askEntry i w1 w2 with w3 := s.allocWord w1 w2 base 0, cap := s.allocWord w1 w2 base 1 }

/-- The answer has come to its entry. -/
def State.allocHeard (s : State) (i : Instr) (w1 w2 : Word) (base : Option Nat) : State :=
  (s.heard i 9 w1 w2 (s.allocWords w1 w2 base) (s.allocCtxs w1 base)).putEntry 0 (s.allocEntry i w1 w2 base)

/-- The pair has been written, and entry 0 is free. -/
def State.allocated (s : State) (d : SReg) (i : Instr) (w1 w2 : Word) (base : Option Nat) : State :=
  let t := s.allocHeard i w1 w2 base
  { t with core := ((t.core.setS d (s.allocWord w1 w2 base 0)).setS (pairOf d) (s.allocWord w1 w2 base 1)).dropEntry 0 }

include hs

theorem State.toldEntry_alloc (hstop : s.core.stopped = false) (hfwd : s.core.tr.fwd = none) :
    (s.heard (.alloc d a b) 9 w1 w2 (s.allocWords w1 w2 base) (s.allocCtxs w1 base)).toldEntry 0 (s.allocWords w1 w2 base) =
      s.allocated d (.alloc d a b) w1 w2 base := by
  have hentry : (s.heard (.alloc d a b) 9 w1 w2 (s.allocWords w1 w2 base) (s.allocCtxs w1 base)).core.rq[(0 : Fin 8)] =
      s.askEntry (.alloc d a b) w1 w2 := s.asking_entry (.alloc d a b) 9 w1 w2
  have hop : (s.askEntry (.alloc d a b) w1 w2).op = some (.alloc d a b) := rfl
  have hready : (s.allocHeard (.alloc d a b) w1 w2 base).core.rq[(0 : Fin 8)] = s.allocEntry (.alloc d a b) w1 w2 base :=
    State.putEntry_entry ..
  have hthaw : (s.allocHeard (.alloc d a b) w1 w2 base).core.frozen (s.allocEntry (.alloc d a b) w1 w2 base) = false := by
    have hlevel : ¬ (s.core.tr.level.val < s.core.tr.level.val) := Nat.lt_irrefl _
    show (decide (s.core.tr.level.val < s.core.tr.level.val) || s.core.tr.fwd.isSome || s.core.stopped) = false
    rw [decide_eq_false hlevel, hfwd, hstop]
    rfl
  have hlast : (s.allocEntry (.alloc d a b) w1 w2 base).count.toNat ≤ (s.allocEntry (.alloc d a b) w1 w2 base).next.toNat + 1 := by
    simp [State.allocEntry, State.askEntry, State.newEntry]
  have hup : (s.allocHeard (.alloc d a b) w1 w2 base).core.upset = 0 := show s.core.upset = 0 from Core.still_upset hs
  have hsettle := State.settle_alloc hready hop rfl hlast hthaw hup
  simp only [State.toldEntry, hentry, hop]
  exact hsettle

theorem allocResponse_done (hq : s.quayNear) : ∃ as, execAllocResponse 0 base (s.asking (.alloc d a b) 9 w1 w2) =
    .next { s.allocated d (.alloc d a b) w1 w2 base with answers := as } := by
  have hentry := s.asking_entry (.alloc d a b) 9 w1 w2
  obtain ⟨hstop, hfwd⟩ : s.core.stopped = false ∧ s.core.tr.fwd = none := by
    obtain ⟨-, -, -, -, -, -, hstop, hfwd, -⟩ := hq
    exact ⟨hstop, hfwd⟩
  obtain ⟨as, hforget⟩ := (s.allocated d (.alloc d a b) w1 w2 base).forgetAnswer_eq
    (toldPkt (s.askPkt 9 w1 w2) s.routeGen (s.allocWords w1 w2 base))
  have hresponse := State.response_told (i := .alloc d a b) (k := 9) (w1 := w1) (w2 := w2) hs (s.allocWords w1 w2 base) (s.allocCtxs w1 base)
  rw [State.toldEntry_alloc hs hstop hfwd, hforget] at hresponse
  have hround := State.askRound_told hq (State.askAnswer_alloc _) hresponse rfl rfl
  refine ⟨as, ?_⟩
  simp only [execAllocResponse, hentry]
  exact congrArg _ hround

end

/-- The scalars after the pair has been written. -/
theorem State.S_allocated (s : State) (d : SReg) (i : Instr) (w1 w2 : Word) (base : Option Nat) (r : SReg) :
    (s.allocated d i w1 w2 base).S r = if r = pairOf d ∧ pairOf d ≠ 0 then s.allocWord w1 w2 base 1
      else if r = d ∧ d ≠ 0 then s.allocWord w1 w2 base 0 else s.S r := by
  have hread (c : Core) (v w : Word) : (((c.setS d v).setS (pairOf d) w).dropEntry 0).S r =
      if r = pairOf d ∧ pairOf d ≠ 0 then w else if r = d ∧ d ≠ 0 then v else c.S r := by
    rw [← Core.S_setS, ← Core.S_setS]; rfl
  exact hread _ _ _

/-- The odd register of an even pair is neither s0 nor the even register. -/
theorem pairOf_even {d : SReg} (h : d.val % 2 = 0) : pairOf d ≠ 0 ∧ pairOf d ≠ d := by
  revert d
  decide

/-! ### FREE (R133) -/

section
variable {s : State} {a : SReg} (hsel : s.sel = .stage) (hs : s.core.still = true)
include hsel hs

theorem execFree_unsealed (h : isSealed s.tile.ctx (s.S a) (s.S (pairOf a)) = false) :
    execFree a s = .next (s.takeTrap .capv (edgePtr (capBase (s.S a))) s.core.pc false) := by
  simp only [execFree, State.staging_stage hsel, Core.still_ready hs, h, Bool.not_true, Bool.not_false, Bool.false_eq_true, if_false,
    if_true, State.trapB_capv]

omit hs in
/-- FREE of a sealed pair, before the bytes return: the slot is revoked, and the check cache of the tile, the only one, drops it. -/
theorem revoke_alone (ht : s.tiles = []) (slot : Nat) : ∃ ck, (s.tile.owned = true → slot ∉ ck) ∧
    (s.modCtx fun x => { x with revoked := addTo x.revoked slot }).mapTiles (fun t => t.owned && t.ctx == s.tile.ctx)
      (fun u => { u with tile := { u.tile with ckCache := dropFrom u.tile.ckCache slot } }) =
    { s.modCtx fun x => { x with revoked := addTo x.revoked slot } with tile := { s.tile with ckCache := ck } } := by
  have hdrop : slot ∉ dropFrom s.tile.ckCache slot := by simp [dropFrom]
  by_cases howned : s.tile.owned = true
  · refine ⟨dropFrom s.tile.ckCache slot, fun _ => hdrop, ?_⟩
    simp [State.mapTiles, State.modCtx, State.putCtx, State.curTile, hsel, howned, ht, State.withFull, FullTile.core, otherCore]
  · refine ⟨s.tile.ckCache, fun h => absurd h howned, ?_⟩
    have hfree : s.tile.owned = false := by simpa using howned
    simp only [State.mapTiles, State.modCtx, State.putCtx, State.curTile, hsel, hfree, Bool.false_and, Bool.false_eq_true, if_false, ht,
      List.map_nil]
    rw [← hfree]

theorem execFree_sealed (h : isSealed s.tile.ctx (s.S a) (s.S (pairOf a)) = true) (ht : s.tiles = []) (hpeer : s.peer.still = true)
    (hnet : s.net = []) (hmod : s.modWins = []) : ∃ t, execFree a s = .next t ∧ t.core.pc = s.core.npc ∧ (∀ r, t.S r = s.S r) ∧
      t.tile.slice = s.tile.slice ∧ capSlot (s.S (pairOf a)) ∈ t.myCtx.revoked ∧
      (s.tile.owned = true → capSlot (s.S (pairOf a)) ∉ t.tile.ckCache) ∧ ∀ k ∈ t.myCtx.allocs, k.1 ≠ capSlot (s.S (pairOf a)) := by
  obtain ⟨ck, hck, hrevoke⟩ := revoke_alone hsel ht (capSlot (s.S (pairOf a)))
  have hadd (l : List Nat) (n : Nat) : n ∈ addTo l n := by
    unfold addTo
    split
    · next hin => exact List.contains_iff_mem.1 hin
    · simp
  have hmine : State.myCtx { s.modCtx fun x => { x with revoked := addTo x.revoked (capSlot (s.S (pairOf a))) } with
      tile := { s.tile with ckCache := ck } } = { s.myCtx with revoked := addTo s.myCtx.revoked (capSlot (s.S (pairOf a))) } :=
    s.ctx_putCtx s.tile.ctx _
  have hflight (b l : Nat) : State.capInFlight { s.modCtx fun x => { x with revoked := addTo x.revoked (capSlot (s.S (pairOf a))) } with
      tile := { s.tile with ckCache := ck } } b l = false := by
    simp [State.capInFlight, State.modCtx, State.putCtx, State.allTiles, State.curTile, hsel, hnet, hmod, ht, Core.still_retry hs,
      Core.still_retry hpeer]
  simp only [execFree, State.staging_stage hsel, Core.still_ready hs, h, Bool.not_true, Bool.false_eq_true, if_false]
  have hctx : (s.modCtx fun x => { x with revoked := addTo x.revoked (capSlot (s.S (pairOf a))) }).tile.ctx = s.tile.ctx := rfl
  rw [hctx, hrevoke, hmine]
  dsimp only
  cases hfind : s.myCtx.allocs.find? fun k => k.1 == capSlot (s.S (pairOf a)) with
  | none =>
    refine ⟨_, rfl, rfl, fun _ => rfl, rfl, ?_, hck, fun k hk => ?_⟩
    · exact (congrArg (_ ∈ Ctx.revoked ·) hmine).mpr (hadd _ _)
    · have hk' : k ∈ s.myCtx.allocs := (congrArg (k ∈ Ctx.allocs ·) hmine).mp hk
      simpa using List.find?_eq_none.1 hfind k hk'
  | some k =>
    dsimp only
    rw [hflight]
    have hback (f : Ctx → Ctx) (u : State) : (u.modCtx f).retire.myCtx = f u.myCtx := u.ctx_putCtx _ _
    refine ⟨_, rfl, rfl, fun _ => rfl, rfl, ?_, hck, ?_⟩
    · rw [hback, hmine]
      exact hadd _ _
    · rw [hback, hmine]
      simp

end

end Sys2Proof.Machine

namespace Sys2Proof
open Machine

/-- Settles O14: the request goes to the quay and back in one round, and FREE is one step of a tile that has the fabric to itself. -/
theorem heapAllocatesAndFrees : Obligations.HeapAllocatesAndFrees := by
  intro s d a b base hsel hs
  refine ⟨fun hl => ⟨s.asking (.alloc d a b) 9 (s.S a) (s.S b), State.asks_of_askQuay hs hl ?_, fun hq hd heven => ?_⟩,
    fun h => execFree_unsealed hsel hs h, fun h ht hpeer hnet hmod => execFree_sealed hsel hs h ht hpeer hnet hmod⟩
  · show execAlloc d a b s = _
    simp only [execAlloc, State.staging_stage hsel, Core.still_ready hs, Bool.not_true, Bool.false_eq_true, if_false]
  · obtain ⟨as, hexec⟩ := allocResponse_done (d := d) (a := a) (b := b) (w1 := s.S a) (w2 := s.S b) (base := base) hs hq
    obtain ⟨hodd, hne⟩ := pairOf_even heven
    have hread (r : SReg) := s.S_allocated d (.alloc d a b) (s.S a) (s.S b) base r
    have hread0 : (s.allocated d (.alloc d a b) (s.S a) (s.S b) base).S d = s.allocWord (s.S a) (s.S b) base 0 := by
      rw [hread, if_neg fun h => hne h.1.symm, if_pos ⟨rfl, hd⟩]
    have hread1 : (s.allocated d (.alloc d a b) (s.S a) (s.S b) base).S (d + 1) = s.allocWord (s.S a) (s.S b) base 1 := by
      rw [hread, if_pos ⟨rfl, hodd⟩]
    refine ⟨_, hexec, ?_, fun r hr hr1 => ?_, fun hnone => ⟨?_, ?_⟩, fun k hk => ⟨?_, ?_, ?_⟩⟩
    · exact (congrArg Entry.v (vput_same ..)).trans rfl
    · refine (hread r).trans ?_
      rw [if_neg fun h => hr1 h.1, if_neg fun h => hr h.1]
    · refine hread0.trans ?_
      simp [State.allocWord, State.allocWords, hnone]
    · refine hread1.trans ?_
      simp [State.allocWord, State.allocWords, hnone]
    · refine hread1.trans ?_
      simp [State.allocWord, State.allocWords, hk]
    · show (s.allocated d _ _ _ base).S d = mkCap _ _ _ ((s.allocated d _ _ _ base).S (d + 1))
      rw [hread0, hread1]
      simp [State.allocWord, State.allocWords, hk]
    · show Tab.get (s.allocCtxs (s.S a) base) {} s.tile.ctx = k.2.2
      simp [State.allocCtxs, hk]

end Sys2Proof
end

section
/-! SUPPORT. Packets that a bundle sends on a free link, and their answers (07 R158, R177, R180). -/

namespace Sys2Proof.Machine

/-! ### Sending -/

section
variable (s : State) (o : Outgoing)

/-- The packet that opens the stream of its destination. -/
def State.firstPkt : Packet := s.packet o.dst o.vc o.dcore 0 true o.ent s.core.link.req o.body

/-- The packet after it on the stream. -/
def State.nextPkt : Packet := s.packet o.dst o.vc o.dcore 1 false o.ent s.core.link.req o.body

/-- The state after a packet has opened its stream. -/
def State.sentFirst : State :=
  { s with
    core := { s.core with link := { s.core.link with
      streams := [{ dst := o.dst, vc := o.vc, next := 1 }], retry := [{ pkt := s.firstPkt o, gen := s.routeGen }] } }
    tile := s.tile.noteOpened o.dst
    net := s.net ++ [s.firstPkt o] }

/-- The state after two packets have left on a stream that the first opened. -/
def State.sentBoth (o' : Outgoing) : State :=
  { s with
    core := { s.core with link := { s.core.link with
      streams := [{ dst := o.dst, vc := o.vc, next := 2 }]
      retry := [{ pkt := s.firstPkt o, gen := s.routeGen }, { pkt := s.nextPkt o', gen := s.routeGen }] } }
    net := s.net ++ [s.firstPkt o, s.nextPkt o'] }

end

section
variable {s : State} {o : Outgoing} (hl : s.linkFree) (hv : o.vc ≠ 0)
include hl hv

theorem State.inject_first : s.inject o = s.sentFirst o := by
  obtain ⟨hretry, hstreams, -⟩ := hl
  have hnone : s.core.link.find o.dst o.vc = none := by simp [LinkState.find, hstreams]
  simp only [State.inject, beq_eq_false_iff_ne.2 hv, Bool.false_eq_true, if_false, hnone, Option.isNone_none, if_true, hretry, hstreams,
    List.nil_append]
  rfl

theorem State.send_first (hsize : pktBytes o.body ≤ 16384) (k : State → Out) : s.send [o] k = k (s.sentFirst o) := by
  have hcan : s.canSend [o] = true := by
    obtain ⟨hretry, hstreams, hhaw⟩ := hl
    simp [State.canSend, hretry, hstreams, hhaw, hv, retryBytes, newStreams, LinkState.find, hsize]
  simp only [State.send, hcan, Bool.or_true, if_true, List.foldl_cons, List.foldl_nil, State.inject_first hl hv]

/-- Two packets to a tile leave on one stream. -/
theorem State.send_both {o' : Outgoing} {x y : Nat} (hd : o.dst = .tile x y) (hd' : o'.dst = o.dst) (hv' : o'.vc = o.vc)
    (hsize : pktBytes o.body + pktBytes o'.body ≤ 16384) (k : State → Out) : s.send [o, o'] k = k (s.sentBoth o o') := by
  have hcan : s.canSend [o, o'] = true := by
    obtain ⟨hretry, hstreams, hhaw⟩ := hl
    simp [State.canSend, hretry, hstreams, hhaw, hv, hd', hv', retryBytes, newStreams, LinkState.find, hsize]
  have hopen : s.tile.noteOpened o.dst = s.tile := by rw [hd]; rfl
  have hfind : (s.sentFirst o).core.link.find o.dst o.vc = some { dst := o.dst, vc := o.vc, next := 1 } := by
    simp [State.sentFirst, LinkState.find]
  simp only [State.send, hcan, Bool.or_true, if_true, List.foldl_cons, List.foldl_nil, State.inject_first hl hv]
  congr 1
  simp only [State.inject, hd', hv', beq_eq_false_iff_ne.2 hv, Bool.false_eq_true, if_false, hfind, Option.isNone_some]
  simp [State.sentFirst, State.sentBoth, hopen, State.nextPkt, State.packet, hd', hv']

end

/-! ### Answers -/

/-- The answer to the only packet of the retry buffer frees it. -/
theorem LinkState.free_only {l : LinkState} {r : RetryEntry} (h : l.retry = [r]) (hb : r.pkt.body ≠ .close) (gen : BitVec 16) (b : Body) :
    l.free (replyTo r.pkt gen b) = ({ l with retry := [] }, some r) := by
  have hfind : l.retry.find? (fun r' => r'.pkt.dst == (replyTo r.pkt gen b).src && r'.pkt.vc == (replyTo r.pkt gen b).avc &&
      r'.pkt.seq == (replyTo r.pkt gen b).seq) = some r := by
    simp [h, replyTo]
  simp only [LinkState.free, hfind]
  have hclosed (l : LinkState) : l.closed r.pkt = l := by
    unfold LinkState.closed
    split
    · next hclose => exact absurd hclose hb
    · rfl
  rw [hclosed]
  simp [h]

/-- An entry in its last iteration, whose data are clean, writes its word 3 and is freed. -/
theorem State.retireEntry_clean {s : State} {n : Fin 8} {e : Entry} {i : Instr} {d : SReg} (hen : s.core.rq[n] = e) (hop : e.op = some i)
    (hi : WritesWord i d) (hclean : e.tainted = false) (hlast : e.count.toNat ≤ e.next.toNat + 1) (hup : s.core.upset = 0) :
    s.retireEntry n = s.wordDone n d e.w3 := by
  subst hen
  have hkld : s.core.rq[n].kldFault i = none := by rw [Entry.kldFault, hi.kld]
  simp only [State.retireEntry, hop, hkld, State.consume, hclean, Bool.false_eq_true, if_false, hi.result]
  rw [State.compared_agrees _ _ _ hup, State.entryDone_last (by simpa using hlast)]
  rfl

/-- The core in focus waits, with entry 0 alone, for the answer to the only packet that it has sent. -/
structure State.Awaits (t : State) (q : Packet) (i : Instr) (d : SReg) : Prop where
  retry : ∃ gen, t.core.link.retry = [{ pkt := q, gen := gen }]
  body : q.body ≠ .close
  vc : q.vc ≠ 0
  number : q.ent = 0 ∧ q.req = t.core.rq[(0 : Fin 8)].req
  valid : t.core.rq[(0 : Fin 8)].v = true ∧ t.core.rq[(0 : Fin 8)].fabric = true
  op : t.core.rq[(0 : Fin 8)].op = some i
  writes : WritesWord i d
  last : t.core.rq[(0 : Fin 8)].count.toNat ≤ t.core.rq[(0 : Fin 8)].next.toNat + 1
  thawed : t.core.rq[(0 : Fin 8)].lvl = t.core.tr.level ∧ t.core.tr.fwd = none ∧ t.core.stopped = false
  agrees : t.core.upset = 0

section
variable {t : State} {q : Packet} {i : Instr} {d : SReg} (h : t.Awaits q i d)
include h

theorem State.Awaits.thaw {e : Entry} (he : e.lvl = t.core.rq[(0 : Fin 8)].lvl) : t.core.frozen e = false := by
  obtain ⟨hlvl, hfwd, hstop⟩ := h.thawed
  rw [Core.frozen, he, hlvl, decide_eq_false (Nat.lt_irrefl _), hfwd, hstop]
  rfl

theorem State.Awaits.entryFor (gen : BitVec 16) (b : Body) : t.core.entryFor (replyTo q gen b) = some 0 := by
  obtain ⟨hent, hreq⟩ := h.number
  obtain ⟨hv, hf⟩ := h.valid
  have hent' : (replyTo q gen b).ent = 0 := hent
  have hreq' : (replyTo q gen b).req = t.core.rq[(0 : Fin 8)].req := hreq
  have hlt : (replyTo q gen b).ent < 8 := by rw [hent']; decide
  have hfin : (⟨(replyTo q gen b).ent, hlt⟩ : Fin 8) = 0 := Fin.ext hent'
  have hrq : t.core.rq[(replyTo q gen b).ent] = t.core.rq[(0 : Fin 8)] := congrArg (fun n : Fin 8 => t.core.rq[n]) hfin
  simp only [Core.entryFor, dif_pos hlt, hrq, hv, hf, hreq', hfin, beq_self_eq_true, Bool.and_self, if_true]

/-- The state in which the answer has freed its packet. -/
def State.unsent (t : State) : State := { t with core := { t.core with link := { t.core.link with retry := [] } } }

theorem State.Awaits.response_eq (gen : BitVec 16) {b : Body} (hretry : b ≠ .retry) (hreject : b ≠ .reject) :
    ∃ r, t.response (replyTo q gen b) = t.unsent.answered (replyTo q gen b) (some r) := by
  obtain ⟨g, hr⟩ := h.retry
  have hfree := LinkState.free_only hr h.body gen b
  have hbody : (replyTo q gen b).body = b := rfl
  have havc : ((replyTo q gen b).avc == 0) = false := beq_eq_false_iff_ne.2 h.vc
  refine ⟨{ pkt := q, gen := g }, ?_⟩
  unfold State.response
  rw [hbody]
  split
  · exact absurd rfl hretry
  · simp only [beq_eq_false_iff_ne.2 hreject, Bool.false_and, Bool.false_eq_true, if_false, havc]
    rw [hfree]
    rfl

/-- u is t after the answer v has been written to d and entry 0 freed. -/
def State.answeredWith (t u : State) (d : SReg) (v : Word) : Prop :=
  u.core.rq[(0 : Fin 8)].v = false ∧ u.S d = (if d = 0 then 0 else v) ∧ (∀ r, r ≠ d → u.S r = t.S r) ∧ u.core.link.retry = []

omit h in
theorem State.answeredWith_wordDone {s : State} (hS : ∀ r, s.S r = t.S r) (hretry : s.core.link.retry = []) (d : SReg) (v : Word) :
    t.answeredWith (s.wordDone 0 d v) d v := by
  refine ⟨by rw [State.wordDone_entry], ?_, fun r hr => ?_, ?_⟩
  · rw [State.S_wordDone]
    by_cases hd : d = 0 <;> simp [hd]
  · rw [State.S_wordDone, if_neg fun e => hr e.1, hS]
  · show (s.core.setS d v).link.retry = []
    rw [Core.setS_link, hretry]

omit h in
/-- The first lease of a tile. -/
theorem State.installLease_empty {s : State} (hs : s.tile.leases = []) (l : Lease) :
    s.installLease l = { s with tile := { s.tile with leases := [l] } } := by
  simp [State.installLease, hs]

/-- A lease of a sector of the home has been installed. -/
def State.leasing (s : State) (home : Nat × Nat) (sec : Nat) (sb : List Byte) : State :=
  { s with tile := { s.tile with leases := [{ x := home.1, y := home.2, sector := sec, bytes := sb, bad := false }] } }

omit h in
/-- The old value of an atomic is written to its entry once the lease that comes with it is installed. -/
theorem State.oldArrived_granted {s u : State} {p : Packet} {n : Fin 8} {v : Word} {sec : Nat} {sb : List Byte}
    (hu : s.installLease { x := (routerOf p.src).1, y := (routerOf p.src).2, sector := sec, bytes := sb, bad := false } = u)
    (hfor : u.core.entryFor p = some n) :
    s.oldArrived p true v false (some (sec, sb, false)) = (u.putEntry n { u.core.rq[n] with buf := [] }).settleWord n v := by
  delta State.oldArrived
  generalize State.settleWord = settleWord
  dsimp only
  rw [hu, hfor]
  rfl

/-- The old value of an atomic, with a lease where the lease store is empty, is written and the lease installed. -/
theorem State.Awaits.old (hleases : t.tile.leases = []) (gen : BitVec 16) (v : Word) (sec : Nat) (sb : List Byte) :
    t.answeredWith (t.response (replyTo q gen (.old v false (some (sec, sb, false))))) d v ∧
      (t.response (replyTo q gen (.old v false (some (sec, sb, false))))).tile.leases =
        [{ x := (routerOf q.dst).1, y := (routerOf q.dst).2, sector := sec, bytes := sb, bad := false }] := by
  obtain ⟨r, hresponse⟩ := h.response_eq gen (b := .old v false (some (sec, sb, false))) (by simp) (by simp)
  have hstate : t.unsent.answered (replyTo q gen (.old v false (some (sec, sb, false)))) (some r) =
      ((t.unsent.leasing (routerOf q.dst) sec sb).putEntry 0 { t.core.rq[(0 : Fin 8)] with buf := [] }).settleWord 0 v :=
    State.oldArrived_granted (s := t.unsent) (u := t.unsent.leasing (routerOf q.dst) sec sb)
      (State.installLease_empty (s := t.unsent) hleases _) (h.entryFor gen _)
  have hentry := (t.unsent.leasing (routerOf q.dst) sec sb).putEntry_entry 0 { t.core.rq[(0 : Fin 8)] with buf := [] }
  have hword := State.settleWord_writes hentry ⟨⟨i, h.op, h.writes⟩, rfl, h.last⟩ (h.thaw rfl) h.agrees v
  rw [hresponse, hstate, hword]
  exact ⟨State.answeredWith_wordDone (fun _ => rfl) rfl d v, rfl⟩

/-- The entry of the load i with all its bytes. -/
def Entry.received (e : Entry) (i : Instr) (bs : List PByte) : Entry :=
  { e with op := some i, buf := bs, parts := [], w3 := scalarResult i bs }

omit h in
theorem putBytes_all {buf bs : List PByte} (h : buf.length = bs.length) : putBytes buf 0 bs = bs := by simp [putBytes, h]

omit h in
/-- The only part of a load has arrived. -/
theorem State.dataArrived_all {s : State} {n : Fin 8} {bs : List PByte} (hop : s.core.rq[n].op = some i) (hd : (resultReg i).isSome = true)
    (hparts : s.core.rq[n].parts = [(0, bs.length)]) (hbuf : s.core.rq[n].buf.length = bs.length) :
    s.dataArrived n 0 bs = (s.putEntry n (s.core.rq[n].received i bs)).settle n := by
  have hnone : ([(0, bs.length)] : List (Nat × Nat)).filter (·.1 != 0) = [] := rfl
  simp only [State.dataArrived, hop, hd, putBytes_all hbuf, hparts, hnone, List.isEmpty_nil, if_true]
  rfl

/-- The bytes of a load are written as its form reads them. -/
theorem State.Awaits.data {bs : List PByte} (hd : (resultReg i).isSome = true) (hparts : t.core.rq[(0 : Fin 8)].parts = [(0, bs.length)])
    (hbuf : t.core.rq[(0 : Fin 8)].buf.length = bs.length) (hlds : ∀ e : Entry, e.op = some i → e.tainted = e.buf.any (·.2))
    (hbs : ∀ b ∈ bs, b.2 = false) (gen : BitVec 16) : t.answeredWith (t.response (replyTo q gen (.data 0 bs))) d (scalarResult i bs) := by
  obtain ⟨r, hresponse⟩ := h.response_eq gen (b := .data 0 bs) (by simp) (by simp)
  have hfor : t.unsent.core.entryFor (replyTo q gen (.data 0 bs)) = some 0 := h.entryFor gen _
  have hpart : (t.unsent.core.rq[(0 : Fin 8)].parts.any fun x => x.1 == 0) = true := by
    show (t.core.rq[(0 : Fin 8)].parts.any fun x => x.1 == 0) = true
    rw [hparts]
    rfl
  have harrived : t.unsent.answered (replyTo q gen (.data 0 bs)) (some r) = t.unsent.dataArrived 0 0 bs := by
    show (match t.unsent.core.entryFor (replyTo q gen (.data 0 bs)) with
      | some n => if t.unsent.core.rq[n].parts.any fun x => x.1 == 0 then t.unsent.dataArrived n 0 bs else t.unsent
      | none => t.unsent) = _
    rw [hfor]
    exact if_pos hpart
  have hall : t.unsent.dataArrived 0 0 bs = (t.unsent.putEntry 0 (t.core.rq[(0 : Fin 8)].received i bs)).settle 0 :=
    State.dataArrived_all h.op hd hparts hbuf
  have hentry := t.unsent.putEntry_entry 0 (t.core.rq[(0 : Fin 8)].received i bs)
  have hclean : (t.core.rq[(0 : Fin 8)].received i bs).tainted = false := by
    rw [hlds _ rfl, List.any_eq_false]
    exact fun b hb => by simp [hbs b hb]
  have hwritten := State.retireEntry_clean hentry rfl h.writes hclean h.last h.agrees
  rw [hresponse, harrived, hall, State.settle_thawed hentry (h.thaw rfl), hwritten]
  exact State.answeredWith_wordDone (fun _ => rfl) rfl d _

end

end Sys2Proof.Machine
end
section
/-! SUPPORT. Accesses that leave the tile, with nothing in their way (05 R111, R117, R136, 08 R195-R198, 15 R381). -/

namespace Sys2Proof.Machine

/-! ### Their place -/

/-- The part of an access of 8 bytes at one endpoint. -/
def farPart (e : Endpoint) (o : Nat) : Part1 := { pos := 0, place := .at e o, len := 8 }

/-- The tile after it was charged for a sector at e (R381). -/
def Tile.tolled (t : Tile) (e : Endpoint) : Tile := match e with | .tile _ _ => t | _ => t.addCharge 1 32

/-- The state after a sector at e has been charged. -/
def State.tolled (s : State) (e : Endpoint) : State := match e with | .tile _ _ => s | _ => s.charge 1 32

theorem State.tolled_eq (s : State) (e : Endpoint) :
    ∃ cs rs, s.tolled e = { s with tile := s.tile.tolled e, ctxs := cs, regions := rs } := by
  cases e <;> exact ⟨_, _, rfl⟩

/-- The tile with other entries in its micro-TLB. -/
def State.withTlb (s : State) (l : List Page) : State := { s with tile := { s.tile with tlb := l } }

/-- An access of 8 bytes at p is one part at e, which no lease of the tile covers. -/
structure State.Far (s : State) (l : List Page) (w : Bool) (p : Word) (e : Endpoint) : Prop where
  place : State.placeAll w [(0, p, 8)] s = .ok ([farPart e (ptrOfs p)], s.withTlb l)
  noLease : (s.withTlb l).leasesOf [farPart e (ptrOfs p)] = []
  toll (u : State) : u.chargeParts [farPart e (ptrOfs p)] = u.tolled e

section
variable {s : State} {p : Word} {k : Placed}

theorem State.resolve_tile (hsp : ptrSpace p = 1) (hrank : ptrRank p ≠ s.tile.rank) (hofs : ptrOfs p + 8 ≤ 0x80000)
    (hk : s.tile.placement[ptrRank p]? = some k) (w : Bool) : s.resolve p 8 w = .ok (.tile k.x k.y (ptrOfs p), s) := by
  have hlimit : ¬ spaceLimit (ptrSpace p) < ptrOfs p + 8 := by rw [hsp]; exact Nat.not_lt.2 hofs
  simp [State.resolve, hsp, hsp ▸ hlimit, hk, hrank]

theorem State.placeAll_tile (hsp : ptrSpace p = 1) (hrank : ptrRank p ≠ s.tile.rank) (hofs : ptrOfs p + 8 ≤ 0x80000)
    (hk : s.tile.placement[ptrRank p]? = some k) (w : Bool) :
    State.placeAll w [(0, p, 8)] s = .ok ([farPart (.tile k.x k.y) (ptrOfs p)], s.withTlb s.tile.tlb) := by
  simp only [State.placeAll, State.resolve_tile hsp hrank hofs hk, Chk.bind_ok]
  rfl

theorem State.chargeParts_tile (u : State) (x y o : Nat) : u.chargeParts [farPart (.tile x y) o] = u.tolled (.tile x y) := rfl

theorem State.far_tile (hsp : ptrSpace p = 1) (hrank : ptrRank p ≠ s.tile.rank) (hofs : ptrOfs p + 8 ≤ 0x80000)
    (hk : s.tile.placement[ptrRank p]? = some k) (hl : s.tile.leases = []) (w : Bool) : s.Far s.tile.tlb w p (.tile k.x k.y) :=
  ⟨State.placeAll_tile hsp hrank hofs hk w, by simp [State.leasesOf, State.withTlb, hl], fun u => u.chargeParts_tile ..⟩

/-- Eight bytes of one sector lie in one unit of 64 KiB. -/
theorem chunks_sector {o : Nat} (h : o % 32 + 8 ≤ 32) : chunks o 8 = [(o, 8)] := by
  have hunits : (o + 8 - 1) / 65536 + 1 - o / 65536 = 1 := by omega
  have hlow : Nat.max o (o / 65536 * 65536) = o := Nat.max_eq_left (by omega)
  have hhigh : Nat.min (o + 8) ((o / 65536 + 1) * 65536) = o + 8 := Nat.min_eq_left (by omega)
  rw [chunks, hunits]
  simp [upto, hlow, hhigh]

theorem sectors_one {o : Nat} (h : o % 32 + 8 ≤ 32) : sectors o 8 = [o / 32] := by
  have hcount : (o + 8 - 1) / 32 + 1 - o / 32 = 1 := by omega
  rw [sectors, hcount]
  simp [upto]

section
variable {g : Page} {net w : Bool} (hsp : ptrSpace p = if net then 4 else 2) (hofs : ptrOfs p + 8 ≤ spaceLimit (ptrSpace p))
  (hg : s.tile.tlb.find? (fun h => h.covers net (ptrOfs p)) = some g) (hsec : ptrOfs p % 32 + 8 ≤ 32)
  (hperm : (if w then g.w else g.r) = true) (hpaired : net = true → w = true → s.tile.modes.paired = false)
include hsp hofs hg hsec hperm hpaired

theorem State.resolve_page :
    s.resolve p 8 w = .ok (.far net [(g.endpoint, ptrOfs p, 8)], s.withTlb (g :: s.tile.tlb.filter (· != g))) := by
  have htranslate : translate p net w [(ptrOfs p, 8)] s =
      .ok ([(g.endpoint, ptrOfs p, 8)], s.withTlb (g :: s.tile.tlb.filter (· != g))) := by
    simp only [translate, hg, hperm, if_true]
    rfl
  have hlimit : ¬ spaceLimit (ptrSpace p) < ptrOfs p + 8 := Nat.not_lt.2 hofs
  cases net
  · have hsp' : ptrSpace p = 2 := hsp
    rw [hsp'] at hlimit
    simp [State.resolve, hsp', hlimit, chunks_sector hsec, htranslate, joinSegs]
  · have hsp' : ptrSpace p = 4 := hsp
    rw [hsp'] at hlimit
    have hopen : (w && s.tile.modes.paired) = false := by
      cases w
      · rfl
      · exact hpaired rfl rfl
    simp [State.resolve, hsp', hlimit, hopen, chunks_sector hsec, htranslate, joinSegs]

omit hsp hofs hg hperm hpaired in
theorem State.chargeParts_page (u : State) : u.chargeParts [farPart g.endpoint (ptrOfs p)] = u.tolled g.endpoint := by
  cases hnet : g.net <;> simp [State.chargeParts, farPart, Page.endpoint, hnet, State.tolled, sectors_one hsec]

theorem State.far_page : s.Far (g :: s.tile.tlb.filter (· != g)) w p g.endpoint := by
  refine ⟨?_, ?_, State.chargeParts_page hsec⟩
  · simp only [State.placeAll, State.resolve_page hsp hofs hg hsec hperm hpaired, Chk.bind_ok]
    rfl
  · cases hnet : g.net <;> simp [State.leasesOf, farPart, Page.endpoint, hnet]

end

end

end Sys2Proof.Machine
end
section
/-! SUPPORT. The requests of accesses that leave the tile (05 R136, 08 R195-R198). -/

namespace Sys2Proof.Machine

/-! ### What leaves -/

/-- The request of a load of 8 bytes at offset o of e. -/
def readOf (e : Endpoint) (o : Nat) : Outgoing := { dst := e, vc := 1, ent := 0, body := .read 0 o 8 }

/-- The bytes that a store sends to offset o of e. -/
def writeOf (e : Endpoint) (o : Nat) (v : Word) : Outgoing := { dst := e, vc := 1, body := .write o (plain (leBytes 8 v.toNat)) }

/-- The entry of a load whose request req has left. -/
def State.readingEntry (s : State) (i : Instr) (w1 w2 : Word) (x : Option Xsc) (req : Nat) : Entry :=
  { s.newEntry i 2 w1 w2 with
    acq := Xsc.isAcq x, fabric := true, req := req, parts := [(0, 8)], buf := List.replicate 8 (0, false) }

/-- The entry of an atomic whose request req has left. -/
def State.askingEntry (s : State) (i : Instr) (p y z : Word) (acq : Bool) (req : Nat) : Entry :=
  { s.newEntry i 3 p y with fabric := true, req := req, acq := acq, cap := z }

/-- The state after entry 0 has been taken for a request that has left. -/
def State.taken (s : State) (en : Entry) : State := { s with core := bumpReq (s.core.setEntry 0 en) }

theorem State.taken_entry (s : State) (en : Entry) : (s.taken en).core.rq[(0 : Fin 8)] = en := vput_same ..

section
variable {s u v : State} {p : Word} {e : Endpoint} {back : List Lease} {x : Option Xsc}

theorem State.load_far {i : Instr} {w1 w2 : Word} {k : State → List PByte → Out} (ho : s.orderReady x = true)
    (hplace : State.placeAll false [(0, p, 8)] s = .ok ([farPart e (ptrOfs p)], u)) (hfree : u.core.freeEntry = some 0)
    (hback : u.leasesOf [farPart e (ptrOfs p)] = back) (hgrant : u.grantPending [farPart e (ptrOfs p)] = false)
    (hsend : ∀ k, u.send (back.map writeBackOf ++ [readOf e (ptrOfs p)]) k = k v) :
    s.load i x [(0, p, 8)] 8 w1 w2 k = .next
      (((v.taken (u.readingEntry i w1 w2 x v.core.link.req)).dropLeases back).chargeParts [farPart e (ptrOfs p)]).retire := by
  have hslot : u.slotPending [farPart e (ptrOfs p)] = false := by simp [State.slotPending, farPart]
  have hfar : [farPart e (ptrOfs p)].any Part1.isFar = true := rfl
  have hreq : (([farPart e (ptrOfs p)].map fun q => q.readReq u.myRegion (0 : Fin 8).val).flatten) = [readOf e (ptrOfs p)] := rfl
  simp only [State.load, ho, hplace, Chk.run_ok, hslot, hfar, State.withEntry, hfree, State.sendLoad, hback, hgrant, hreq, hsend, Bool.not_true,
    Bool.false_eq_true, if_false, if_true]
  rfl

theorem State.storeTo_far {w : Word} {folded : List Word} {k : State → Out} (ho : s.orderReady x = true)
    (hplace : State.placeAll true [(0, p, 8)] s = .ok ([farPart e (ptrOfs p)], u))
    (hback : u.leasesOf [farPart e (ptrOfs p)] = back) (hgrant : u.grantPending [farPart e (ptrOfs p)] = false)
    (hsend : ∀ k, u.send (back.map writeBackOf ++ [writeOf e (ptrOfs p) w]) k = k v) :
    s.storeTo x [(0, p, 8)] (plain (leBytes 8 w.toNat)) folded k =
      k (((v.dropLeases back).chargeParts [farPart e (ptrOfs p)]).fold folded) := by
  have hslot : u.slotPending [farPart e (ptrOfs p)] = false := by simp [State.slotPending, farPart]
  have hheld : u.heldHere (plain (leBytes 8 w.toNat)) [farPart e (ptrOfs p)] = false := rfl
  have hlease : u.leaseHere [farPart e (ptrOfs p)] = none := rfl
  have hquay : [farPart e (ptrOfs p)].any Part1.isQuay = false := rfl
  have hreq : (([farPart e (ptrOfs p)].map fun q => q.writeReq u.myRegion (plain (leBytes 8 w.toNat))).flatten) =
      [writeOf e (ptrOfs p) w] := rfl
  simp only [State.storeTo, ho, hplace, Chk.run_ok, hslot, hheld, hlease, hback, hgrant, hquay, hreq, hsend, Bool.not_true, Bool.or_self,
    Bool.false_eq_true, if_false]
  rfl

/-- The request of an atomic. -/
def atomicOf (e : Endpoint) (op : AtomOp) (able : Bool) (o : Nat) (x y : Word) : Outgoing :=
  { dst := e, vc := 1, ent := 0, body := .atomic op false able o x y }

theorem State.atomSend_far {i : Instr} {y z : Word} {op : AtomOp} {able acq : Bool} {o : Nat} {folded : List Word}
    (hfree : s.core.freeEntry = some 0) (hsend : ∀ k, s.send [atomicOf e op able o y z] k = k v) :
    s.atomSend i p y z op false e o able acq [] folded = .next
      (((v.fold folded).tolled e).taken (v.askingEntry i p y z acq v.core.link.req)).retire := by
  have hreq : ([].map writeBackOf ++ [({ dst := e, vc := 1, ent := (0 : Fin 8).val, body := .atomic op false able o y z } : Outgoing)]) =
      [atomicOf e op able o y z] := rfl
  simp only [State.atomSend, State.withEntry, hfree, hreq, hsend, State.dropLeases_nil]
  cases e <;> rfl

end

/-! ### What an access leaves behind -/

/-- t is s after an access, whose place the micro-TLB l gives, has sent q to e and retired. -/
structure State.Travels (s : State) (l : List Page) (t : State) (q : Packet) (e : Endpoint) (b : Body) : Prop where
  pc : t.core.pc = s.core.npc
  regs (r : SReg) : t.S r = s.S r
  tile : t.tile = (({ s.tile with tlb := l } : Tile).noteOpened e).tolled e
  net : t.net = s.net ++ [q]
  packet : q.vc = 1 ∧ q.dst = e ∧ q.body = b

section
variable {s t : State} {l : List Page} {q : Packet} {e : Endpoint} {b : Body} (h : s.Travels l t q e b)
include h

theorem State.Travels.memory : t.tile.slice = s.tile.slice ∧ t.tile.rings = s.tile.rings := by
  rw [h.tile]
  cases e <;> exact ⟨rfl, rfl⟩

theorem State.Travels.charged (he : ∀ x y, e ≠ .tile x y) : t.tile.charged[(1 : Fin 3)] = s.tile.charged[(1 : Fin 3)] + 32 := by
  have hcharge (u : Tile) : (u.addCharge 1 32).charged[(1 : Fin 3)] = u.charged[(1 : Fin 3)] + 32 := vput_same ..
  rw [h.tile]
  cases e with
  | tile x y => exact absurd rfl (he x y)
  | _ => exact hcharge _

end

/-- Entry 0 of t is taken by an operation of a kind with its word 1. -/
def State.holdsEntry (t : State) (kind : BitVec 4) (p : Word) : Prop :=
  t.core.rq[(0 : Fin 8)].v = true ∧ t.core.rq[(0 : Fin 8)].kind = kind ∧ t.core.rq[(0 : Fin 8)].w1 = p

theorem State.awaits_of_entry {t : State} {q : Packet} {i : Instr} {d : SReg} {en : Entry} (hen : t.core.rq[(0 : Fin 8)] = en)
    (hretry : ∃ gen, t.core.link.retry = [{ pkt := q, gen := gen }]) (hvc : q.vc = 1) (hbody : q.body ≠ .close)
    (hnumber : q.ent = 0 ∧ q.req = en.req) (hvalid : en.v = true ∧ en.fabric = true) (hop : en.op = some i) (hwrites : WritesWord i d)
    (hlast : en.count = 1) (hthaw : en.lvl = t.core.tr.level ∧ t.core.tr.fwd = none ∧ t.core.stopped = false) (hup : t.core.upset = 0) :
    t.Awaits q i d := by
  subst hen
  exact ⟨hretry, hbody, by rw [hvc]; decide, hnumber, hvalid, hop, hwrites, by rw [hlast]; exact Nat.le_add_left .., hthaw, hup⟩

section
variable {s : State} {l : List Page} {p : Word} {e : Endpoint} {d a b : SReg} {imm : Int} {x : Option Xsc}
  (hs : s.core.still = true) (hl : s.linkFree) (hpeer : s.peer.link.retry = []) (hp : ea (s.S a) imm = some p)
include hs hl hpeer

omit hs in
/-- No lease is on its way where no request waits for its answer. -/
theorem State.grantPending_none (ps : List Part1) : s.grantPending ps = false := by
  simp only [State.grantPending, List.any_eq_false]
  intro q _
  split
  · simp [Core.mayLease, hl.1, hpeer]
  · simp

include hp

/-- A store is posted: its bytes leave, and it retires. -/
theorem State.std_travels (hfar : s.Far l true p e) : ∃ t q, exec (.std d a imm x) s = .next t ∧
    s.Travels l t q e (.write (ptrOfs p) (plain (leBytes 8 (s.S d).toNat))) ∧ t.core.rq = s.core.rq := by
  have hl' : (s.withTlb l).linkFree := hl
  have hsend := State.send_first hl' (o := writeOf e (ptrOfs p) (s.S d)) (show (1 : Fin 8) ≠ 0 by decide) (by
    simp [writeOf, plain, pktBytes, Body.size, leBytes])
  have hstore (folded : List Word) := State.storeTo_far (folded := folded) (k := fun s => .next s.retire) (State.still_orderReady hs x)
    hfar.place hfar.noLease (State.grantPending_none hl' hpeer _) hsend
  have hexec : exec (.std d a imm x) s = _ := exec_std s d a imm x
  simp only [eaChk_of_some hp, State.storeScalar, Core.still_ready hs, Chk.run_ok, hstore, State.dropLeases_nil, hfar.toll,
    Bool.not_true, Bool.false_eq_true, if_false] at hexec
  obtain ⟨cs, rs, htoll⟩ := ((s.withTlb l).sentFirst (writeOf e (ptrOfs p) (s.S d))).tolled_eq e
  rw [htoll] at hexec
  obtain ⟨sig, hfold⟩ := State.fold_eq _ _
  rw [hfold] at hexec
  exact ⟨_, _, hexec, ⟨rfl, fun _ => rfl, rfl, rfl, rfl, rfl, rfl⟩, rfl⟩

variable (hstop : s.core.stopped = false) (hfwd : s.core.tr.fwd = none)
include hstop hfwd

/-- A load takes entry 0 of KIND 2, sends its request and lets the core go on. -/
theorem State.ldd_travels (hfar : s.Far l false p e) : ∃ t q, exec (.ldd d a imm x) s = .next t ∧
    s.Travels l t q e (.read 0 (ptrOfs p) 8) ∧ t.holdsEntry 2 p ∧ t.Awaits q (.ldd d a imm x) d ∧
    t.core.rq[(0 : Fin 8)].parts = [(0, 8)] ∧ t.core.rq[(0 : Fin 8)].buf = List.replicate 8 (0, false) := by
  have hl' : (s.withTlb l).linkFree := hl
  have hsend := State.send_first hl' (o := readOf e (ptrOfs p)) (show (1 : Fin 8) ≠ 0 by decide) (by simp [readOf, pktBytes, Body.size])
  have hload (k : State → List PByte → Out) := State.load_far (i := .ldd d a imm x) (w1 := p) (w2 := 0) (k := k) (State.still_orderReady hs x)
    hfar.place (Core.still_free hs) hfar.noLease (State.grantPending_none hl' hpeer _) hsend
  have hexec : exec (.ldd d a imm x) s = _ := exec_ldd s d a imm x
  simp only [eaChk_of_some hp, State.loadScalar, Core.still_ready hs, Chk.run_ok, hload, State.dropLeases_nil, hfar.toll,
    Bool.not_true, Bool.false_eq_true, if_false] at hexec
  obtain ⟨cs, rs, htoll⟩ := (((s.withTlb l).sentFirst (readOf e (ptrOfs p))).taken
    ((s.withTlb l).readingEntry (.ldd d a imm x) p 0 x ((s.withTlb l).sentFirst (readOf e (ptrOfs p))).core.link.req)).tolled_eq e
  rw [htoll] at hexec
  have hen := ((s.withTlb l).sentFirst (readOf e (ptrOfs p))).taken_entry
    ((s.withTlb l).readingEntry (.ldd d a imm x) p 0 x ((s.withTlb l).sentFirst (readOf e (ptrOfs p))).core.link.req)
  have hup : s.core.upset = 0 := Core.still_upset hs
  refine ⟨_, _, hexec, ⟨rfl, fun _ => rfl, rfl, rfl, rfl, rfl, rfl⟩, ?_, ?_, congrArg Entry.parts hen,
    congrArg Entry.buf hen⟩
  · exact ⟨congrArg Entry.v hen, congrArg Entry.kind hen, congrArg Entry.w1 hen⟩
  · exact State.awaits_of_entry hen ⟨_, rfl⟩ rfl (by simp [State.firstPkt, State.packet, readOf]) ⟨rfl, rfl⟩ ⟨rfl, rfl⟩ rfl
      ⟨fun _ _ _ => rfl, rfl⟩ rfl ⟨rfl, hfwd, hstop⟩ hup

omit hpeer hp in
/-- An atomic takes entry 0 of KIND 3, sends its request and lets the core go on. -/
theorem State.atomSend_travels {i : Instr} (hi : WritesWord i d) (y z : Word) (op : AtomOp) (able acq : Bool) (folded : List Word) :
    ∃ t q, (s.withTlb l).atomSend i p y z op false e (ptrOfs p) able acq [] folded = .next t ∧
      s.Travels l t q e (.atomic op false able (ptrOfs p) y z) ∧ t.holdsEntry 3 p ∧ t.Awaits q i d := by
  have hl' : (s.withTlb l).linkFree := hl
  have hsend := State.send_first hl' (o := atomicOf e op able (ptrOfs p) y z) (show (1 : Fin 8) ≠ 0 by decide) (by
    simp [atomicOf, pktBytes, Body.size])
  have hatom := State.atomSend_far (s := s.withTlb l) (p := p) (i := i) (acq := acq) (folded := folded) (Core.still_free hs) hsend
  obtain ⟨sig, hfold⟩ := ((s.withTlb l).sentFirst (atomicOf e op able (ptrOfs p) y z)).fold_eq folded
  rw [hfold] at hatom
  obtain ⟨cs, rs, htoll⟩ := State.tolled_eq { (s.withTlb l).sentFirst (atomicOf e op able (ptrOfs p) y z) with
    core := { ((s.withTlb l).sentFirst (atomicOf e op able (ptrOfs p) y z)).core with sig := sig } } e
  rw [htoll] at hatom
  have hen (v : State) (en : Entry) : (v.taken en).retire.core.rq[(0 : Fin 8)] = en := vput_same ..
  have hup : s.core.upset = 0 := Core.still_upset hs
  refine ⟨_, _, hatom, ⟨rfl, fun _ => rfl, rfl, rfl, rfl, rfl, rfl⟩, ?_, ?_⟩
  · exact ⟨congrArg Entry.v (hen _ _), congrArg Entry.kind (hen _ _), congrArg Entry.w1 (hen _ _)⟩
  · exact State.awaits_of_entry (hen _ _) ⟨_, rfl⟩ rfl (by simp [State.firstPkt, State.packet, atomicOf]) ⟨rfl, rfl⟩ ⟨rfl, rfl⟩ rfl
      hi rfl ⟨rfl, hfwd, hstop⟩ hup

end

/-! ### Atomics (R191, R195) -/

section
variable {s u : State} {p y : Word} {t : Target} {i : Instr} {d a b : SReg} {x : Option Xsc} {op : AtomOp} {m c : Nat}

theorem State.atomPtr_ok (hp : ea y 0 = some p) (hsp : ptrSpace p ≤ 2) (hofs : ptrOfs p % 8 = 0)
    (hres : s.resolve p 8 true = .ok (t, u)) : s.atomPtr y 8 = .ok (p, t, u) := by
  have hquay : (ptrSpace p == 3) = false := beq_eq_false_iff_ne.2 (by omega)
  simp only [State.atomPtr, eaChk_of_some hp, Chk.bind_ok, hquay, Bool.false_and, Bool.false_eq_true, if_false, Nat.not_lt.2 hsp, hofs,
    bne_self_eq_false, hres]

variable (hs : s.core.still = true) (hp : ea (s.S a) 0 = some p) (hofs : ptrOfs p % 8 = 0)
include hs hp hofs

/-- An atomic in a sector of another tile may bring its lease where the lease store has room and the sector is not in use. -/
theorem State.atomicOp_tile (hl : s.linkFree) (hpeer : s.peer.link.retry = []) {k : Placed} (hsp : ptrSpace p = 1)
    (hres : s.resolve p 8 true = .ok (.tile k.x k.y (ptrOfs p), s)) (hleases : s.tile.leases = []) :
    s.atomicOp i d a b false x op m c = s.atomSend i p (s.S b) (s.S d) op false (.tile k.x k.y) (ptrOfs p) true (Xsc.isAcq x) []
      [p, s.S b, s.S d, Config.atomCode m c] := by
  have hptr := State.atomPtr_ok hp (by omega) hofs hres
  simp [State.atomicOp, Core.still_ready hs, hptr, State.still_orderReady hs, hleases, Core.mayLease, Core.uses, hl.1, hpeer]

theorem State.atomicOp_page (hsp : ptrSpace p = 2) {l : List Page} {e : Endpoint} {net : Bool}
    (hres : s.resolve p 8 true = .ok (.far net [(e, ptrOfs p, 8)], s.withTlb l)) :
    s.atomicOp i d a b false x op m c = (s.withTlb l).atomSend i p (s.S b) (s.S d) op false e (ptrOfs p) false (Xsc.isAcq x) []
      [p, s.S b, s.S d, Config.atomCode m c] := by
  have hptr := State.atomPtr_ok hp (by omega) hofs hres
  have ho : (s.withTlb l).orderReady x = true := State.still_orderReady (s := s.withTlb l) hs x
  simp only [State.atomicOp, Core.still_ready hs, hptr, Chk.run_ok, ho, Bool.not_true, Bool.false_eq_true, if_false]
  rfl

end

end Sys2Proof.Machine
end
section
/-! SUPPORT. Accesses to a sector that the lease store holds (08 R197, R198). -/

namespace Sys2Proof.Machine

/-! ### An atomic on the leased sector -/

/-- A word replaced in a list of bytes: its bytes where it lies, the others as they were. -/
theorem getElem_replaceWord {bs : List Byte} {o j : Nat} (w : Word) (ho : o + 8 ≤ bs.length) :
    (bs.take o ++ leBytes 8 w.toNat ++ bs.drop (o + 8))[j]? =
      if o ≤ j ∧ j < o + 8 then some (w.extractLsb' (8 * (j - o)) 8) else bs[j]? := by
  have htake : (bs.take o).length = o := by rw [List.length_take]; omega
  have hword : (leBytes 8 w.toNat).length = 8 := rfl
  rw [List.append_assoc]
  by_cases hlow : j < o
  · rw [List.getElem?_append_left (by omega), List.getElem?_take_of_lt hlow, if_neg (by omega)]
  · rw [List.getElem?_append_right (by omega), htake]
    by_cases hhigh : j < o + 8
    · rw [List.getElem?_append_left (by omega), getElem_leBytes_word w (by omega), if_pos ⟨by omega, hhigh⟩]
    · rw [List.getElem?_append_right (by omega), hword, List.getElem?_drop, if_neg (by omega)]
      congr 1
      omega

/-- An atomic that was performed under a lease writes its word 3 when it retires (R192). -/
theorem State.atomicDone_writes {t : State} {n : Fin 8} {en : Entry} {d : SReg} (hen : t.core.rq[n] = en)
    (hheld : en.v = true ∧ en.kind = 3 ∧ en.st = 1) (hw : en.WritesTo d) (hthaw : t.core.frozen en = false) (hup : t.core.upset = 0) :
    t.atomicDone n = t.wordDone n d en.w3 := by
  obtain ⟨hv, hkind, hst⟩ := hheld
  have hdone : (en.v && en.kind == 3 && en.st == 1 && !t.core.frozen en) = true := by simp [hv, hkind, hst, hthaw]
  rw [State.atomicDone, hen]
  exact (if_pos hdone).trans (State.retireEntry_word hen hw hup)

/-- What an atomic that was performed at its issue leaves: its entry of KIND 3, and its old value once it retires. -/
theorem State.atomHeld_writes {v : State} {i : Instr} {d : SReg} (hi : WritesWord i d) (hstop : v.core.stopped = false)
    (hfwd : v.core.tr.fwd = none) (hup : v.core.upset = 0) (p y z old : Word) (acq wrote : Bool) :
    (v.atomHeld i 0 p y z acq { old := old, bad := false, wrote := wrote }).holdsEntry 3 p ∧
      ((v.atomHeld i 0 p y z acq { old := old, bad := false, wrote := wrote }).atomicDone 0).S d = if d = 0 then 0 else old := by
  have hen := (v.putEntry_entry 0 { v.newEntry i 3 p y with st := 1, w3 := old, buf := [], acq := acq, cap := z })
  refine ⟨⟨congrArg Entry.v hen, congrArg Entry.kind hen, congrArg Entry.w1 hen⟩, ?_⟩
  have hthaw : v.core.frozen { v.newEntry i 3 p y with st := 1, w3 := old, buf := [], acq := acq, cap := z } = false := by
    simp [Core.frozen, State.newEntry, hfwd, hstop]
  rw [State.atomicDone_writes (t := v.atomHeld i 0 p y z acq { old := old, bad := false, wrote := wrote }) (d := d) hen ⟨rfl, rfl, rfl⟩
    ⟨⟨i, rfl, hi⟩, rfl, Nat.le_add_left ..⟩ hthaw hup, State.S_wordDone]
  by_cases hd : d = 0 <;> simp [hd]

/-- The lease after v has been added to its word at o. -/
def Lease.added (l : Lease) (o : Nat) (v : Word) : Lease :=
  { l with bytes := l.bytes.take (o % 32) ++
      leBytes 8 (BitVec.ofNat 64 (leNat ((l.bytes.drop (o % 32)).take 8)) + v).toNat ++ l.bytes.drop (o % 32 + 8) }

theorem Lease.atomic_add {l : Lease} (hbad : l.bad = false) (o : Nat) (v y : Word) :
    l.atomic .add false o v y =
      ({ old := BitVec.ofNat 64 (leNat ((l.bytes.drop (o % 32)).take 8)), bad := false, wrote := true }, l.added o v) := by
  simp only [Lease.atomic, hbad, Bool.false_eq_true, if_false, atomNew, atomOld, Lease.added, BitVec.toNat_add, BitVec.toNat_ofNat,
    Nat.mod_eq_of_lt v.isLt]

section
variable {s : State} {p : Word} {d a b : SReg} {x : Option Xsc} {k : Placed} {l : Lease} (hs : s.core.still = true)
  (hleases : s.tile.leases = [l]) (hx : l.x = k.x) (hy : l.y = k.y) (hsec : l.sector = ptrOfs p / 32)
include hs hleases hx hy hsec

section
variable (hretry : s.core.link.retry = []) (hp : ea (s.S a) 0 = some p) (hofs : ptrOfs p % 8 = 0) (hsp : ptrSpace p = 1)
  (hres : s.resolve p 8 true = .ok (.tile k.x k.y (ptrOfs p), s)) (hbad : l.bad = false) (hrecalled : l.recalled = false)
include hretry hp hofs hsp hres hbad hrecalled

/-- The atomic is executed on the lease, and its old value waits in entry 0 (R192, R197). -/
theorem exec_addLeased (hstop : s.core.stopped = false) (hfwd : s.core.tr.fwd = none) :
    ∃ t, exec (.amoaAdd d a b false x) s = .next t ∧ t.core.pc = s.core.npc ∧ t.net = s.net ∧ t.core.link = s.core.link ∧
      t.holdsEntry 3 p ∧ t.tile.slice = s.tile.slice ∧ t.tile.leases = [l.added (ptrOfs p) (s.S b)] ∧ (t.atomicDone 0).S d =
        (if d = 0 then 0 else BitVec.ofNat 64 (leNat ((l.bytes.drop (ptrOfs p % 32)).take 8))) := by
  have hptr := State.atomPtr_ok hp (by omega) hofs hres
  have hfind : (s.tile.leases.find? fun l => l.x == k.x && l.y == k.y && l.sector == ptrOfs p / 32) = some l := by
    simp [hleases, hx, hy, hsec]
  have hothers : s.tile.leases.filter (· != l) = [] := by simp [hleases]
  have hexec : exec (.amoaAdd d a b false x) s = s.atomicOp (.amoaAdd d a b false x) d a b false x .add 0 (atomC false false) := rfl
  simp only [State.atomicOp, Core.still_ready hs, hptr, Chk.run_ok, State.still_orderReady hs, hfind, hrecalled, hretry, List.any_nil,
    State.withEntry, Core.still_free hs, Lease.atomic_add hbad, hothers, Bool.not_true, Bool.false_eq_true, if_false] at hexec
  obtain ⟨sig, hfold⟩ := State.fold_eq { s with tile := { s.tile with leases := [l.added (ptrOfs p) (s.S b)] } }
    [p, s.S b, s.S d, Config.atomCode 0 (atomC false false)]
  rw [hfold] at hexec
  have hup : s.core.upset = 0 := Core.still_upset hs
  obtain ⟨hheld, hold⟩ := State.atomHeld_writes (i := .amoaAdd d a b false x) (d := d) (v := { s with
      core := { s.core with sig := sig }, tile := { s.tile with leases := [l.added (ptrOfs p) (s.S b)] } })
    ⟨fun _ _ _ => rfl, rfl⟩ hstop hfwd hup p (s.S b) (s.S d) (BitVec.ofNat 64 (leNat ((l.bytes.drop (ptrOfs p % 32)).take 8)))
    (Xsc.isAcq x) true
  exact ⟨_, hexec, rfl, rfl, rfl, hheld, rfl, rfl, hold⟩

end

/-! ### A plain access to the leased sector -/

omit hs in
theorem State.leasesOf_leased (hsector : ptrOfs p % 32 + 8 ≤ 32) : s.leasesOf [farPart (.tile k.x k.y) (ptrOfs p)] = [l] := by
  simp [State.leasesOf, hleases, farPart, hx, hy, hsec, sectors_one hsector]

/-- t is s after the lease l has gone back to its home and a request has followed it on the same stream. -/
def State.returnedBefore (s t : State) (k : Placed) (l : Lease) (b : Body) : Prop :=
  ∃ q r, t.core.pc = s.core.npc ∧ t.tile.leases = [] ∧ t.tile.slice = s.tile.slice ∧ t.net = s.net ++ [q, r] ∧ q.vc = 1 ∧
    q.dst = .tile k.x k.y ∧ q.body = .writeBack l.sector l.bytes l.bad ∧ r.vc = 1 ∧ r.dst = q.dst ∧ r.body = b ∧ r.seq = q.seq + 1

section
variable (hl : s.linkFree) (hpeer : s.peer.link.retry = []) {imm : Int} (hp : ea (s.S a) imm = some p) (hbytes : l.bytes.length = 32)
  (hsector : ptrOfs p % 32 + 8 ≤ 32)
  (hplace : ∀ w, State.placeAll w [(0, p, 8)] s = .ok ([farPart (.tile k.x k.y) (ptrOfs p)], s.withTlb s.tile.tlb))
include hl hpeer hp hbytes hsector hplace

/-- R198: a store returns the lease first. -/
theorem exec_std_leased : ∃ t, exec (.std d a imm x) s = .next t ∧
    s.returnedBefore t k l (.write (ptrOfs p) (plain (leBytes 8 (s.S d).toNat))) := by
  have hsend := State.send_both hl (o := writeBackOf l) (o' := writeOf (.tile k.x k.y) (ptrOfs p) (s.S d)) (show (1 : Fin 8) ≠ 0 by decide)
    rfl (by rw [← hx, ← hy]; rfl) rfl (by simp [writeBackOf, writeOf, plain, pktBytes, Body.size, leBytes, hbytes])
  have hstore (folded : List Word) := State.storeTo_far (folded := folded) (k := fun s => .next s.retire) (State.still_orderReady hs x)
    (hplace true) (State.leasesOf_leased hleases hx hy hsec hsector) (State.grantPending_none hl hpeer _) hsend
  have hexec : exec (.std d a imm x) s = _ := exec_std s d a imm x
  simp only [eaChk_of_some hp, State.storeScalar, Core.still_ready hs, Chk.run_ok, hstore, State.chargeParts_tile, State.tolled,
    Bool.not_true, Bool.false_eq_true, if_false] at hexec
  obtain ⟨sig, hfold⟩ := State.fold_eq _ _
  rw [hfold] at hexec
  have hdropped : s.tile.leases.filter (fun m => !([l].contains m)) = [] := by simp [hleases]
  have hhome : Endpoint.tile l.x l.y = .tile k.x k.y := by rw [hx, hy]
  exact ⟨_, hexec, _, _, rfl, hdropped, rfl, rfl, rfl, hhome, rfl, rfl, hhome.symm, rfl, rfl⟩

/-- R198: a load returns the lease first. -/
theorem exec_ldd_leased : ∃ t, exec (.ldd d a imm x) s = .next t ∧ s.returnedBefore t k l (.read 0 (ptrOfs p) 8) := by
  have hsend := State.send_both hl (o := writeBackOf l) (o' := readOf (.tile k.x k.y) (ptrOfs p)) (show (1 : Fin 8) ≠ 0 by decide)
    rfl (by rw [← hx, ← hy]; rfl) rfl (by simp [writeBackOf, readOf, pktBytes, Body.size, hbytes])
  have hload (k' : State → List PByte → Out) := State.load_far (i := .ldd d a imm x) (w1 := p) (w2 := 0) (k := k')
    (State.still_orderReady hs x) (hplace false) (Core.still_free hs) (State.leasesOf_leased hleases hx hy hsec hsector)
    (State.grantPending_none hl hpeer _) hsend
  have hexec : exec (.ldd d a imm x) s = _ := exec_ldd s d a imm x
  simp only [eaChk_of_some hp, State.loadScalar, Core.still_ready hs, Chk.run_ok, hload, State.chargeParts_tile, State.tolled,
    Bool.not_true, Bool.false_eq_true, if_false] at hexec
  have hdropped : s.tile.leases.filter (fun m => !([l].contains m)) = [] := by simp [hleases]
  have hhome : Endpoint.tile l.x l.y = .tile k.x k.y := by rw [hx, hy]
  exact ⟨_, hexec, _, _, rfl, hdropped, rfl, rfl, rfl, hhome, rfl, rfl, hhome.symm, rfl, rfl⟩

end

end

end Sys2Proof.Machine
end
section
/-! SUPPORT. Remote accesses and their answers (05 R111, R136, 08 R195-R198). -/

namespace Sys2Proof.Machine

/-- The bytes that a store of a word sends are its fields of 8 bits. -/
theorem plain_leBytes (w : Word) :
    plain (leBytes 8 w.toNat) = (List.range 8).map fun j => some (w.extractLsb' (8 * j) 8, false) := by
  apply List.ext_getElem? fun j => ?_
  by_cases hj : j < 8
  · simp [plain, getElem_leBytes_word w hj, List.getElem?_range hj]
  · rw [List.getElem?_eq_none (by simp [plain, leBytes]; omega), List.getElem?_eq_none (by simp; omega)]

section
variable {s t : State} {l : List Page} {q : Packet} {e : Endpoint} {b : Body} (h : s.Travels l t q e b)
include h

theorem State.Travels.far : t.core.pc = s.core.npc ∧ (∀ r, t.S r = s.S r) ∧ t.tile.slice = s.tile.slice ∧ t.tile.rings = s.tile.rings ∧
    t.net = s.net ++ [q] ∧ q.vc = 1 ∧ q.dst = e :=
  ⟨h.pc, h.regs, h.memory.1, h.memory.2, h.net, h.packet.1, h.packet.2.1⟩

/-- An answer that t brings to d is one of s. -/
theorem State.Travels.answered {u : State} {d : SReg} {v : Word} (ha : t.answeredWith u d v) : s.answeredWith u d v := by
  obtain ⟨hfree, hd, hother, hretry⟩ := ha
  exact ⟨hfree, hd, fun r hr => (hother r hr).trans (h.regs r), hretry⟩

/-- The bytes of an LDD reach its register. -/
theorem State.Travels.data {d a : SReg} {imm : Int} {x : Option Xsc} (hw : t.Awaits q (.ldd d a imm x) d)
    (hparts : t.core.rq[(0 : Fin 8)].parts = [(0, 8)]) (hbuf : t.core.rq[(0 : Fin 8)].buf = List.replicate 8 (0, false)) {bs : List PByte}
    (hlen : bs.length = 8) (hclean : ∀ b ∈ bs, b.2 = false) (gen : BitVec 16) :
    s.answeredWith (t.response (replyTo q gen (.data 0 bs))) d (BitVec.ofNat 64 (leNat (bs.map (·.1)))) := by
  have hany : bs.any (·.2) = false := List.any_eq_false.2 fun b hb => by simp [hclean b hb]
  have hval : scalarResult (.ldd d a imm x) bs = BitVec.ofNat 64 (leNat (bs.map (·.1))) := by simp [scalarResult, hany]
  have hdata := hw.data (bs := bs) rfl (by rw [hparts, hlen]) (by rw [hbuf, hlen]; rfl)
    (fun e he => by simp [Entry.tainted, he]) hclean gen
  exact h.answered (hval ▸ hdata)

end

/-- The endpoint of a page is a module or an engine. -/
theorem Page.endpoint_ne_tile (g : Page) (x y : Nat) : g.endpoint ≠ .tile x y := by
  cases hnet : g.net <;> simp [Page.endpoint, hnet]

end Sys2Proof.Machine

namespace Sys2Proof
open Machine

/-- Settles O16: the request of an access opens the stream of its destination, and its answer finds entry 0. -/
theorem remoteAccessesTravel : Obligations.RemoteAccessesTravel := by
  intro s d a b imm x p k bs hs hl hpeer hstop hfwd hp dataBack stored far entry
  have hstored : plain (leBytes 8 (s.S d).toNat) = (List.range 8).map fun j => some ((s.S d).extractLsb' (8 * j) 8, false) := plain_leBytes _
  refine ⟨fun hsp hrank hofs hk => ?_, fun g net hsp hofs hg hsector hread hwrite => ?_⟩
  · have hres := State.resolve_tile hsp hrank hofs hk true
    have hplace := State.placeAll_tile hsp hrank hofs hk
    refine ⟨fun hleases => ?_, fun lease hleases hx hy hsec hbytes hbad hrecalled himm halign => ?_⟩
    · have hplaced := State.far_tile hsp hrank hofs hk hleases
      refine ⟨?_, ?_, fun himm halign => ?_⟩
      · obtain ⟨t, q, hexec, htravels, hentry, hwaits, hparts, hbuf⟩ :=
          State.ldd_travels (d := d) (x := x) hs hl hpeer hp hstop hfwd (hplaced false)
        exact ⟨t, q, hexec, htravels.far, htravels.tile, hentry, htravels.packet.2.2,
          fun hlen hclean => htravels.data hwaits hparts hbuf hlen hclean _⟩
      · obtain ⟨t, q, hexec, htravels, hrq⟩ := State.std_travels (d := d) (x := x) hs hl hpeer hp (hplaced true)
        exact ⟨t, q, hexec, htravels.far, htravels.tile, hrq, by rw [htravels.packet.2.2, hstored]⟩
      · subst himm
        obtain ⟨t, q, hatom, htravels, hentry, hwaits⟩ := State.atomSend_travels (l := s.tile.tlb) (p := p) (e := .tile k.x k.y) (d := d)
          (i := .amoaAdd d a b false x) hs hl hstop hfwd ⟨fun _ _ _ => rfl, rfl⟩ (s.S b) (s.S d) .add true (Xsc.isAcq x)
          [p, s.S b, s.S d, Config.atomCode 0 (atomC false false)]
        have hexec : exec (.amoaAdd d a b false x) s = .next t :=
          (State.atomicOp_tile hs hp halign hl hpeer hsp hres hleases).trans hatom
        refine ⟨t, q, hexec, htravels.far, htravels.tile, hentry, htravels.packet.2.2, fun v sec sb => ?_⟩
        have hnone : t.tile.leases = [] := by rw [htravels.tile]; exact hleases
        obtain ⟨hanswer, hlease⟩ := hwaits.old hnone s.routeGen v sec sb
        obtain ⟨hfree, hd, hother, hretry⟩ := htravels.answered hanswer
        exact ⟨hfree, hd, hother, hretry, by rw [hlease, htravels.packet.2.1]; rfl⟩
    · subst himm
      have hsector : ptrOfs p % 32 + 8 ≤ 32 := by omega
      refine ⟨?_, fun i body hi => ?_⟩
      · obtain ⟨t, hexec, hpc, hnet, hlink, hentry, hslice, hnew, hold⟩ := exec_addLeased (d := d) (b := b) (x := x) hs hleases hx hy hsec
          hl.1 hp halign hsp hres hbad hrecalled hstop hfwd
        exact ⟨t, _, hexec, hpc, hnet, hlink, hentry, hslice, hnew, rfl, rfl, rfl, hbad,
          fun j _ => getElem_replaceWord _ (by omega), hold⟩
      · simp only [List.mem_cons, List.not_mem_nil, or_false, Prod.mk.injEq] at hi
        obtain ⟨rfl, hbody⟩ | ⟨rfl, hbody⟩ := hi
        · obtain ⟨t, hexec, q, r, hreturned⟩ :=
            exec_std_leased (d := d) (x := x) hs hleases hx hy hsec hl hpeer hp hbytes hsector hplace
          rw [hbad, hstored] at hreturned
          exact ⟨t, q, r, hexec, hbody ▸ hreturned⟩
        · obtain ⟨t, hexec, q, r, hreturned⟩ :=
            exec_ldd_leased (d := d) (x := x) hs hleases hx hy hsec hl hpeer hp hbytes hsector hplace
          rw [hbad] at hreturned
          exact ⟨t, q, r, hexec, hbody ▸ hreturned⟩
  · have hmodule := g.endpoint_ne_tile
    refine ⟨?_, fun hopen => ?_, fun hnet himm halign => ?_⟩
    · have hplaced := State.far_page (w := false) hsp hofs hg hsector hread (fun _ h => absurd h (by decide))
      obtain ⟨t, q, hexec, htravels, hentry, hwaits, hparts, hbuf⟩ :=
        State.ldd_travels (d := d) (x := x) hs hl hpeer hp hstop hfwd hplaced
      exact ⟨t, q, hexec, htravels.far, hentry, htravels.packet.2.2, htravels.charged hmodule,
        fun hlen hclean => htravels.data hwaits hparts hbuf hlen hclean _⟩
    · have hplaced := State.far_page (w := true) hsp hofs hg hsector hwrite (fun hnet _ => hopen.resolve_left (by simp [hnet]))
      obtain ⟨t, q, hexec, htravels, hrq⟩ := State.std_travels (d := d) (x := x) hs hl hpeer hp hplaced
      exact ⟨t, q, hexec, htravels.far, hrq, by rw [htravels.packet.2.2, hstored], htravels.charged hmodule⟩
    · subst himm hnet
      have hres := State.resolve_page (w := true) hsp hofs hg hsector hwrite (fun h => absurd h (by decide))
      obtain ⟨t, q, hatom, htravels, hentry, -⟩ := State.atomSend_travels (l := g :: s.tile.tlb.filter (· != g)) (p := p)
        (e := g.endpoint) (d := d) (i := .amobSwap d a b false x) hs hl hstop hfwd ⟨fun _ _ _ => rfl, rfl⟩ (s.S b) (s.S d) .swap false
        (Xsc.isAcq x) [p, s.S b, s.S d, Config.atomCode 2 (atomC false false)]
      have hexec : exec (.amobSwap d a b false x) s = .next t := (State.atomicOp_page hs hp halign hsp hres).trans hatom
      exact ⟨t, q, hexec, htravels.far, hentry, htravels.packet.2.2, htravels.charged hmodule⟩

end Sys2Proof
end

section
/-! SUPPORT. A FENCE with no acquire before it (06 R147, R149). -/

namespace Sys2Proof.Machine

theorem State.when_next (s t : State) (b : Bool) : s.when b (.next t) = .next (if b = true then t else s) :=
  (apply_ite Host.Outcome.next (b = true) t s).symm

section
variable {s : State} (h : s.core.acquiring = false)
include h

/-- R149: a kind that waits for loads says so in `loads`, and one that waits for writes names its scope in `writes`. -/
theorem State.fence_of_not_acquiring (loads : Bool) (writes : Option Scope) :
    s.fence loads writes = .next (if (loads = false ∨ s.core.readsPending = false) ∧ (∀ sc ∈ writes, s.unacked sc = false)
      then s.retire else s) := by
  cases writes <;> simp [State.fence, State.when_next, h]

theorem execFenceI_of_not_acquiring : execFenceI s = .next (if s.core.slotStores = false then s.retire else s) := by
  simp [execFenceI, State.when_next, h]

end

/-- The forms of FENCE.rw, each with its scope. -/
theorem exec_fenceRw (s : State) {i : Instr} {sc : Scope} (hi : (i, sc) ∈ ([(.fenceRwTile, .tile), (.fenceRwQuad, .quad),
    (.fenceRwRegion, .region), (.fenceRwWafer, .wafer), (.fenceRwPod, .pod)] : List (Instr × Scope))) :
    exec i s = s.fence true (some sc) := by
  simp only [List.mem_cons, List.not_mem_nil, or_false, Prod.mk.injEq] at hi
  obtain ⟨rfl, rfl⟩ | ⟨rfl, rfl⟩ | ⟨rfl, rfl⟩ | ⟨rfl, rfl⟩ | ⟨rfl, rfl⟩ := hi <;> rfl

/-- The forms of FENCE.w, each with its scope. -/
theorem exec_fenceW (s : State) {i : Instr} {sc : Scope} (hi : (i, sc) ∈ ([(.fenceWTile, .tile), (.fenceWQuad, .quad),
    (.fenceWRegion, .region), (.fenceWWafer, .wafer), (.fenceWPod, .pod)] : List (Instr × Scope))) :
    exec i s = s.fence false (some sc) := by
  simp only [List.mem_cons, List.not_mem_nil, or_false, Prod.mk.injEq] at hi
  obtain ⟨rfl, rfl⟩ | ⟨rfl, rfl⟩ | ⟨rfl, rfl⟩ | ⟨rfl, rfl⟩ | ⟨rfl, rfl⟩ := hi <;> rfl

theorem exec_fenceR (s : State) : exec .fenceR s = s.fence true none := rfl

end Sys2Proof.Machine

namespace Sys2Proof
open Machine

/-- Settles O15: each kind's wait is the part of the fence's condition that it names. -/
theorem fencesWaitForTheirAccesses : Obligations.FencesWaitForTheirAccesses := by
  intro s h
  have hfence := State.fence_of_not_acquiring h
  refine ⟨fun i sc hi => ?_, fun i sc hi => ?_, ?_, execFenceI_of_not_acquiring h⟩
  · simp [exec_fenceRw s hi, hfence]
  · simp [exec_fenceW s hi, hfence]
  · simp [exec_fenceR, hfence]

end Sys2Proof
end

section
/-! SUPPORT. One message of a SEND: its routing scalar, and the packet that leaves (07 R157-R159, 14 R344). -/

namespace Sys2Proof.Machine

/-! ### The routing scalar (R157, R158) -/

theorem extract_eq_zero (x : Word) (i n : Nat) : x.extractLsb' i n = 0 ↔ x.toNat / 2 ^ i % 2 ^ n = 0 := by
  simp [BitVec.toNat_eq, BitVec.extractLsb'_toNat, Nat.shiftRight_eq_div_pow]

theorem shift_eq_zero (x : Word) (i : Nat) : x >>> i = 0 ↔ x.toNat / 2 ^ i = 0 := by
  simp [BitVec.toNat_eq, BitVec.toNat_ushiftRight, Nat.shiftRight_eq_div_pow]

theorem shift_mask_eq_zero (x : Word) (i n : Nat) (hn : n < 64) : (x >>> i) &&& BitVec.ofNat 64 (2 ^ n - 1) = 0 ↔ x.toNat / 2 ^ i % 2 ^ n = 0 := by
  have hmask : (2 ^ n - 1) % 2 ^ 64 = 2 ^ n - 1 :=
    Nat.mod_eq_of_lt (Nat.lt_of_le_of_lt (Nat.sub_le ..) (Nat.pow_lt_pow_right (by decide) hn))
  rw [BitVec.toNat_eq, BitVec.toNat_and, BitVec.toNat_ofNat, hmask, Nat.and_two_pow_sub_one_eq_mod, BitVec.toNat_ushiftRight,
    Nat.shiftRight_eq_div_pow]
  rfl

/-- A message to a berth or a header: bits 63 to 42 and 40 to 38 are reserved. -/
theorem routeChk_berth {k : MsgKind} (hk : k ≠ .tileToRing) (rt : Word) : routeChk k rt = true ↔ rt >>> 42 = 0 ∧ (rt >>> 38) &&& 7 = 0 := by
  have hmask : (rt >>> 38) &&& 7 = 0 ↔ rt.toNat / 2 ^ 38 % 2 ^ 3 = 0 := shift_mask_eq_zero rt 38 3 (by decide)
  have hlt := rt.isLt
  simp only [routeChk, beq_eq_false_iff_ne.2 hk, Bool.false_eq_true, if_false, Bool.and_eq_true, beq_iff_eq, extract_eq_zero, shift_eq_zero, hmask]
  omega

/-- A tile register to a ring: bits 63 to 41 and 35 to 32 are reserved. -/
theorem routeChk_ring (rt : Word) : routeChk .tileToRing rt = true ↔ rt >>> 41 = 0 ∧ (rt >>> 32) &&& 15 = 0 := by
  have hmask : (rt >>> 32) &&& 15 = 0 ↔ rt.toNat / 2 ^ 32 % 2 ^ 4 = 0 := shift_mask_eq_zero rt 32 4 (by decide)
  have hbit : rt.getLsbD 41 = false ↔ rt.toNat / 2 ^ 41 % 2 = 0 := by
    simp [BitVec.getLsbD, Nat.testBit_eq_decide_div_mod_eq]
  have hlt := rt.isLt
  simp only [routeChk, beq_self_eq_true, if_true, Bool.and_eq_true, beq_iff_eq, Bool.not_eq_true', extract_eq_zero, shift_eq_zero, hmask, hbit]
  omega

theorem extract_toNat (x : Word) (i n : Nat) : (x.extractLsb' i n).toNat = (x >>> i).toNat % 2 ^ n := by
  rw [BitVec.extractLsb'_toNat, BitVec.toNat_ushiftRight]

theorem vcOf_val {n : Nat} (h : n < 4) : (vcOf n).val = 3 + n := Nat.mod_eq_of_lt (by omega)

/-- Bit 41 names the core. -/
theorem selOf_bit (rt : Word) : selOf (rt.getLsbD 41) = if (rt >>> 41).toNat % 2 = 1 then .comp else .stage := by
  rw [selOf, BitVec.getLsbD, Nat.testBit_eq_decide_div_mod_eq, ← Nat.shiftRight_eq_div_pow, ← BitVec.toNat_ushiftRight]
  simp only [decide_eq_true_eq]

/-! ### The message (R156, R158) -/

/-- The release scope of a message's order. -/
def releaseOf (x : Option Xsc) : Option Scope := if Xsc.isRel x then some (Xsc.scopeOf x) else none

theorem releaseOf_some (y : Xsc) : releaseOf (some y) = if y.ord = .rel ∨ y.ord = .ar then some y.scope else none := by
  simp [releaseOf, Xsc.isRel, Xsc.scopeOf]

/-- The message of a SEND, to the tile that its handle names. -/
def messageTo (k : MsgKind) (p : Placed) (rt : Word) (x : Option Xsc) (bs : List PByte) : Outgoing :=
  { dst := .tile p.x p.y, vc := vcOf (rt.extractLsb' 36 2).toNat, dcore := selOf (rt.getLsbD 41)
    body := .msg k (Fin.ofNat 16 (rt.extractLsb' 32 4).toNat) (Fin.ofNat 8 (rt.extractLsb' 38 3).toNat) (selOf (rt.getLsbD 41)) (rt.truncate 32)
      (releaseOf x) (bs.map (·.1)) (pmaskOf bs) }

theorem messageTo_vc (k : MsgKind) (p : Placed) (rt : Word) (x : Option Xsc) (bs : List PByte) :
    (messageTo k p rt x bs).vc.val = 3 + (rt >>> 36).toNat % 4 := by
  have hlt : (rt >>> 36).toNat % 2 ^ 2 < 4 := Nat.mod_lt _ (by decide)
  simp only [messageTo, extract_toNat, vcOf_val hlt]
  rfl

/-- The body of the message, by the fields of its routing scalar. -/
theorem messageTo_body (k : MsgKind) (p : Placed) (rt : Word) (x : Option Xsc) (bs : List PByte) : (messageTo k p rt x bs).body =
    .msg k (Fin.ofNat 16 ((rt >>> 32).toNat % 16)) (Fin.ofNat 8 ((rt >>> 38).toNat % 8))
      (if (rt >>> 41).toNat % 2 = 1 then .comp else .stage) (rt.truncate 32) (releaseOf x) (bs.map (·.1)) (pmaskOf bs) := by
  simp only [messageTo, extract_toNat, selOf_bit]
  rfl

theorem ckiSet_bit (w : Word) (j : Nat) : (ckiSet w 0).getLsbD j = (w.getLsbD j || decide (j = 0)) := by
  have hone : (BitVec.shiftLeft 1 0 : Word) = 1#64 := rfl
  rw [ckiSet, BitVec.getLsbD_or, hone, BitVec.getLsbD_one]
  simp

/-- Poison that is copied sets CKI.POI, and nothing else of CKI (14 R344). -/
theorem State.copied_cki (s : State) (b : Bool) : ∃ cki, s.copied b = { s with tile := { s.tile with cki := cki } } ∧
    ∀ j < 64, cki.getLsbD j = (s.tile.cki.getLsbD j || (decide (j = 0) && b)) := by
  cases b with
  | true => exact ⟨ckiSet s.tile.cki 0, rfl, fun j _ => by rw [ckiSet_bit, Bool.and_true]⟩
  | false => exact ⟨s.tile.cki, rfl, fun j _ => by rw [Bool.and_false, Bool.or_false]⟩

/-! ### The placement cache (R164) -/

/-- The state in which a rank is the most recently used of the placement cache. -/
def State.placed (s : State) (n : Nat) : State := { s with tile := { s.tile with plCache := n :: s.tile.plCache.filter (· != n) } }

theorem State.placeLookup_hit {s : State} {n : Nat} (h : s.tile.plCache.contains n = true) : s.placeLookup n = .ok (s.placed n) := if_pos h

theorem State.placeLookup_miss {s : State} {n : Nat} (h : s.tile.plCache.contains n = false) :
    s.placeLookup n = .wait { s with core := { s.core with plReq := some n } } := if_neg (Bool.eq_false_iff.1 h)

/-! ### SEND -/

section
variable {s : State} {k : MsgKind} {rt : Word} {x : Option Xsc} {bs : List PByte} {p : Placed} {n : Nat}

/-- The state after the message has left, before the bundle retires. -/
def State.sentMsg (s : State) (k : MsgKind) (n : Nat) (p : Placed) (rt : Word) (x : Option Xsc) (bs : List PByte) : State :=
  (((s.placed n).sentFirst (messageTo k p rt x bs)).fold (rt :: foldBytes bs)).copied (bs.any (·.2))

/-- A SEND to a handle whose placement entry is cached sends its message. -/
theorem State.sendMsg_hit (hs : s.core.still = true) (hl : s.linkFree) (hrt : routeChk k rt = true)
    (hrank : rankOf (rt.truncate 32) s.tile.placement 0 = some (n, p)) (hhit : s.tile.plCache.contains n = true) (hsize : bs.length ≤ 16352)
    (fin : State → State) : s.sendMsg k rt x bs fin = .next (fin (s.sentMsg k n p rt x bs)) := by
  have horder : (s.placed n).orderReady x = true := State.still_orderReady (s := s.placed n) hs x
  have hfree : (s.placed n).linkFree := hl
  have hvc : (messageTo k p rt x bs).vc ≠ 0 := fun h => by
    have hval := messageTo_vc k p rt x bs
    rw [h] at hval
    exact absurd hval (by rw [Fin.val_zero]; omega)
  have hbytes : pktBytes (messageTo k p rt x bs).body ≤ 16384 := by
    simp only [pktBytes, messageTo, Body.size, List.length_map]
    omega
  simp only [State.sendMsg, hrt, hrank, State.placeLookup_hit hhit, Chk.run_ok, horder, Bool.not_true, Bool.false_eq_true, if_false]
  exact State.send_first hfree hvc hbytes _

theorem State.sentMsg_injected : (s.sentMsg k n p rt x bs).core.npc = s.core.npc ∧
    (s.core.link.retry = [] → s.injected (s.sentMsg k n p rt x bs) p rt x k bs) := by
  obtain ⟨sig, hsig⟩ := State.fold_eq ((s.placed n).sentFirst (messageTo k p rt x bs)) (rt :: foldBytes bs)
  obtain ⟨cki, hcki, hbits⟩ := State.copied_cki (((s.placed n).sentFirst (messageTo k p rt x bs)).fold (rt :: foldBytes bs)) (bs.any (·.2))
  rw [State.sentMsg, hcki]
  rw [hsig] at hbits ⊢
  refine ⟨rfl, fun hretry => ⟨fun _ => rfl, rfl, rfl, hbits, (s.placed n).firstPkt (messageTo k p rt x bs), rfl, rfl, rfl, rfl, ?_, ?_⟩⟩
  · exact messageTo_vc k p rt x bs
  · refine (messageTo_body k p rt x bs).trans ?_
    cases x with
    | none => rfl
    | some y => rw [releaseOf_some]

/-- A SEND that its checks refuse takes BND. -/
theorem State.sendMsg_refused (h : routeChk k rt = false ∨ rankOf (rt.truncate 32) s.tile.placement 0 = none) (fin : State → State) :
    s.sendMsg k rt x bs fin = .next (s.takeTrap .bnd rt s.core.pc false) := by
  unfold State.sendMsg
  cases hrt : routeChk k rt with
  | false => simp only [Bool.not_false, if_true, State.trapB_bnd]
  | true =>
    have hnone := h.resolve_left (by rw [hrt]; decide)
    simp only [Bool.not_true, Bool.false_eq_true, if_false, hnone, State.trapB_bnd]

end

end Sys2Proof.Machine
end

section
/-! SUPPORT. The four SENDs without REP (07 R158, R159). -/

namespace Sys2Proof.Machine

section
variable {s : State} {a b : SReg} {c : RCode} {t : Fin 4} {pos : RowPos} {x : Option Xsc}

/-- The staging core's instructions are ILL on the compute core (00 R14). -/
theorem State.staging_comp (hsel : s.sel = .comp) (k : Out) : s.staging k = .next (s.takeTrap .ill s.core.pc s.core.pc false) := by
  simp [State.staging, hsel, State.trapB_ill]

theorem exec_send_comp (hsel : s.sel = .comp) (rep : Rep) :
    ∀ i ∈ [Instr.sendS a b rep x, .sendH a rep x, .sendR c a b pos x, .sendT t a rep x],
      exec i s = .next (s.takeTrap .ill s.core.pc s.core.pc false) := by
  simp only [List.forall_mem_cons, List.not_mem_nil, false_implies, implies_true, and_true]
  exact ⟨State.staging_comp hsel _, State.staging_comp hsel _, State.staging_comp hsel _, State.staging_comp hsel _⟩

theorem RowVal.length_bytes (v : RowVal) : v.bytes.length = 64 := by simp [RowVal.bytes, upto_eq_range]

/-- The row that SEND.r sends: a register of the core, or the broadcast of s[c]. -/
def Core.sentRow (c : Core) (r : RowSel) (b : SReg) : RowVal := if r = .bc then { bits := broadcast 8 (c.S b) } else c.rowVal r 8 b

section
variable (hs : s.core.still = true) (hsel : s.sel = .stage)
include hs hsel

theorem exec_sendS : exec (.sendS a b .one x) s =
    s.sendMsg .scalar (s.S a) x ((leBytes 8 (s.S b).toNat).map fun b => (b, false)) State.retire := by
  show execSendS a b .one x s = _
  simp only [execSendS, State.staging_stage hsel, Core.still_ready hs, Bool.not_true, Bool.false_eq_true, if_false, State.repeated_one hs]

theorem exec_sendH : exec (.sendH a .one x) s = s.sendMsg .header (s.S a) x [] State.retire := by
  show execSendH a .one x s = _
  simp only [execSendH, State.staging_stage hsel, Core.still_ready hs, Bool.not_true, Bool.false_eq_true, if_false, State.repeated_one hs]

theorem exec_sendT : exec (.sendT t a .one x) s = s.sendMsg .tileToRing (s.S a) x (s.core.T t.val).bytes State.retire := by
  show execSendT t a .one x s = _
  simp only [execSendT, State.staging_stage hsel, Core.still_ready hs, Core.still_busyT hs, Bool.not_false, Bool.and_self, Bool.not_true,
    Bool.false_eq_true, if_false, State.repeated_one hs]

theorem exec_sendR (hrep : pos.rep = .one) (hill : rowSel s.sel c pos.base pos.bank 0 ≠ .ill) (hrgf : rowSel s.sel c pos.base pos.bank 0 ≠ .rgf) :
    exec (.sendR c a b pos x) s =
      s.sendMsg .row (s.S a) x (s.core.sentRow (rowSel s.sel c pos.base pos.bank 0) b).bytes State.retire := by
  show execSendR c a b pos x s = _
  simp only [execSendR, State.staging_stage hsel, Core.still_ready hs, s.codeChk_ok hill, Chk.run_ok, hrep, State.repeated_one hs,
    Core.still_rowFree hs, s.rowChk_ok hill hrgf, Bool.not_true, Bool.false_eq_true, if_false, Core.sentRow, State.S, beq_iff_eq]

end

/-- A SEND to a handle of the team whose placement entry is cached. -/
theorem State.sends_of_exec {i : Instr} {k : MsgKind} {rt : Word} {bs : List PByte} {n : Nat} {p : Placed} (hs : s.core.still = true)
    (hl : s.linkFree) (hrank : rankOf (rt.truncate 32) s.tile.placement 0 = some (n, p)) (hhit : s.tile.plCache.contains n = true)
    (hexec : exec i s = s.sendMsg k rt x bs State.retire) (hrt : routeChk k rt = true) (hsize : bs.length ≤ 16352) :
    s.sends i p rt x k bs := by
  obtain ⟨hnpc, hsent⟩ := State.sentMsg_injected (s := s) (k := k) (rt := rt) (x := x) (bs := bs) (p := p) (n := n)
  exact ⟨_, hexec.trans (State.sendMsg_hit hs hl hrt hrank hhit hsize _), hnpc, hsent hl.1⟩

end

end Sys2Proof.Machine

namespace Sys2Proof
open Machine

/-- Settles O17: a routing scalar that passes its checks sends, any other takes BND, and the compute core has no SEND. -/
theorem sendsInjectTheirMessage : Obligations.SendsInjectTheirMessage := by
  refine ⟨fun s a b c t base bank x n k hsel hs hl hrank hhit => ?_, fun s a b c t base bank x hs => ⟨fun hsel hbad => ?_, fun hsel hbad => ?_,
    fun hsel => exec_send_comp hsel .one⟩⟩
  · have hsends {i kind bs} := State.sends_of_exec (x := x) (i := i) (k := kind) (bs := bs) hs hl hrank hhit
    refine ⟨fun hrt => ?_, fun hrt => ?_, fun hrt hill hrgf => ?_, fun h41 h32 => ?_⟩
    · exact hsends (exec_sendS hs hsel) ((routeChk_berth (by decide) _).2 hrt) (by simp)
    · exact hsends (exec_sendH hs hsel) ((routeChk_berth (by decide) _).2 hrt) (by simp)
    · exact hsends (exec_sendR hs hsel rfl hill hrgf) ((routeChk_berth (by decide) _).2 hrt) (by simp [RowVal.length_bytes])
    · exact hsends (exec_sendT hs hsel) ((routeChk_ring _).2 ⟨h41, h32⟩) (by simp)
  · have hrefused {kind bs} (hk : kind ≠ .tileToRing) :
        s.sendMsg kind (s.S a) x bs State.retire = .next (s.takeTrap .bnd (s.S a) s.core.pc false) := by
      refine State.sendMsg_refused ?_ _
      rw [← Bool.not_eq_true, routeChk_berth hk, not_and_or, or_assoc]
      exact hbad
    exact ⟨(exec_sendS hs hsel).trans (hrefused (by decide)), (exec_sendH hs hsel).trans (hrefused (by decide)),
      fun hill hrgf => (exec_sendR hs hsel rfl hill hrgf).trans (hrefused (by decide))⟩
  · refine (exec_sendT hs hsel).trans (State.sendMsg_refused ?_ _)
    rw [← Bool.not_eq_true, routeChk_ring, not_and_or, or_assoc]
    exact hbad

end Sys2Proof
end

section
/-! SUPPORT. The queues of a core, the activating message, and the placement table (02 R60-R62, 07 R161-R164). -/

namespace Sys2Proof.Machine

/-! ### A scalar written (02 R52) -/

theorem Core.S_setS_self (c : Core) (d : SReg) (v : Word) : (c.setS d v).S d = if d = 0 then 0 else v := by
  rw [Core.S_setS]
  by_cases hd : d = 0 <;> simp [hd]

theorem Core.S_setS_ne (c : Core) {d r : SReg} (v : Word) (h : r ≠ d) : (c.setS d v).S r = c.S r := by
  rw [Core.S_setS, if_neg fun e => h e.1]

/-! ### A word popped from a queue (02 R61, 07 R162) -/

/-- The core of s has become c, the word w is written to d with its poison, and the bundle has retired. -/
def State.poppedTo (s : State) (c : Core) (d : SReg) (w : Word) (bad : Bool) : State :=
  ((State.setS { s with core := c } d w).copied bad).retire

theorem State.poppedTo_eq (s : State) (c : Core) (d : SReg) (w : Word) (bad : Bool) :
    (s.poppedTo c d w bad).core = (c.setS d w).retire ∧ (s.poppedTo c d w bad).tile.slice = s.tile.slice := by
  obtain ⟨cki, hcki⟩ := State.copied_eq (State.setS { s with core := c } d w) bad
  rw [State.poppedTo, hcki]
  exact ⟨rfl, rfl⟩

/-- What a program reads after a pop that changes no scalar but d. -/
theorem State.poppedTo_reads {s : State} {c : Core} (hS : ∀ r, c.S r = s.S r) (hnpc : c.npc = s.core.npc) (d : SReg) (w : Word) (bad : Bool) :
    (s.poppedTo c d w bad).core.q = c.q ∧ (s.poppedTo c d w bad).S d = (if d = 0 then 0 else w) ∧
      (∀ r, r ≠ d → (s.poppedTo c d w bad).S r = s.S r) ∧ (s.poppedTo c d w bad).core.pc = s.core.npc := by
  obtain ⟨hcore, -⟩ := s.poppedTo_eq c d w bad
  have hread (r : SReg) : (s.poppedTo c d w bad).S r = (c.setS d w).S r := by rw [State.S, hcore]; rfl
  refine ⟨by simp [hcore], ?_, fun r hr => ?_, by simp [hcore, hnpc]⟩
  · rw [hread, Core.S_setS_self]
  · rw [hread, Core.S_setS_ne _ _ hr, hS]

/-- The core with r left of its completion queue. -/
def Core.withCq (c : Core) (r : List Word) : Core := { c with q := { c.q with cq := r } }

/-! ### The activating message (07 R161, R162) -/

/-- Bytes without poison. -/
def cleanBytes (bs : List Byte) : List PByte := bs.map fun b => (b, false)

@[simp] theorem any_cleanBytes (bs : List Byte) : (cleanBytes bs).any (·.2) = false := by simp [cleanBytes]
@[simp] theorem map_fst_cleanBytes (bs : List Byte) : (cleanBytes bs).map (·.1) = bs := by simp [cleanBytes, Function.comp_def]
@[simp] theorem length_cleanBytes (bs : List Byte) : (cleanBytes bs).length = bs.length := by simp [cleanBytes]

theorem Core.payload_clean {c : Core} {m : Msg} (hm : c.myMsg = some m) (hp : m.pmask = 0) : c.payload = cleanBytes m.payload := by
  simp only [Core.payload, hm, hp, upto_eq_range, cleanBytes]
  refine List.ext_getElem? fun j => ?_
  by_cases hj : j < m.payload.length <;> simp [hj]

/-- The first 64 bytes of a payload, with zeros past its end. -/
def Msg.first64 (m : Msg) : List Byte := m.payload.take 64 ++ List.replicate (64 - (m.payload.take 64).length) 0

theorem Msg.length_first64 (m : Msg) : m.first64.length = 64 := by simp [Msg.first64]

theorem Msg.getElem_first64 (m : Msg) {j : Nat} (hj : j < 64) : (m.first64[j]?).getD 0 = (m.payload[j]?).getD 0 := by
  by_cases hp : j < m.payload.length
  · rw [Msg.first64, List.getElem?_append_left (by simp; omega), List.getElem?_take_of_lt hj]
  · rw [List.getElem?_eq_none (Nat.not_lt.1 hp), Msg.first64, List.getElem?_append_right (by simp; omega), List.getElem?_replicate]
    split <;> rfl

/-- A row that is neither refused nor z nor the broadcast is a register. -/
theorem RowSel.isReg_of_ne {r : RowSel} (hill : r ≠ .ill) (hrgf : r ≠ .rgf) (hz : r ≠ .z) (hbc : r ≠ .bc) : r.isReg = true := by
  cases r <;> simp_all [RowSel.isReg]

section
variable {s : State} {d a : SReg} (hs : s.core.still = true)
include hs

theorem exec_inpop_insk_word {w : Word} {r : List Word} (hq : s.core.q.cq = w :: r) :
    exec (.inpop d) s = .next (s.poppedTo (s.core.withCq r) d w (w.getLsbD 13)) ∧
      exec (.insk d) s = .next (s.poppedTo (s.core.withCq r) d w (w.getLsbD 13)) := by
  have hpop : s.popCq d w r = .next (s.poppedTo (s.core.withCq r) d w (w.getLsbD 13)) := rfl
  refine ⟨(show execInpop d s = _ from ?_), (show execInsk d s = _ from ?_)⟩
  · simp only [execInpop, Core.still_ready hs, Bool.not_true, Bool.false_eq_true, if_false, hq, hpop]
  · simp only [execInsk, Core.still_ready hs, Bool.not_true, Bool.false_eq_true, if_false, hq, hpop]

theorem exec_inpop_empty (hq : s.core.q.cq = []) : exec (.inpop d) s = .next s := by
  show execInpop d s = _
  simp only [execInpop, Core.still_ready hs, Bool.not_true, Bool.false_eq_true, if_false, hq, State.stall]

theorem exec_insk_empty (hq : s.core.q.cq = []) : exec (.insk d) s = .next (s.result d 0) := by
  show execInsk d s = _
  simp only [execInsk, Core.still_ready hs, Bool.not_true, Bool.false_eq_true, if_false, hq, State.result]

section
variable {m : Msg} (hm : s.core.myMsg = some m) (hp : m.pmask = 0)
include hm hp

theorem exec_inrd_clean : exec (.inrd d a) s = .next (s.result d
    (if 8 * ((s.S a).toNat % 128) + 8 ≤ m.payload.length then
      BitVec.ofNat 64 (leNat ((m.payload.drop (8 * ((s.S a).toNat % 128))).take 8)) else 0)) := by
  have hpart (n : Nat) : ((cleanBytes m.payload).drop n).take 8 = cleanBytes ((m.payload.drop n).take 8) := by
    simp [cleanBytes, List.map_take, List.map_drop]
  show execInrd d a s = _
  simp only [execInrd, Core.still_ready hs, Bool.not_true, Bool.false_eq_true, if_false, Core.payload_clean hm hp, length_cleanBytes, hpart,
    any_cleanBytes, map_fst_cleanBytes, State.consume, State.result]
  split <;> rfl

theorem exec_inrdR_clean {c : RCode} {base : Fin 16} {bank : Bool} (hill : rowSel s.sel c base bank 0 ≠ .ill)
    (hrgf : rowSel s.sel c base bank 0 ≠ .rgf) :
    exec (.inrdR c base bank) s = .next (s.rowResult (rowSel s.sel c base bank 0) { bits := rowOfBytes m.first64 }) := by
  have hfirst : (cleanBytes m.payload).take 64 ++ List.replicate (64 - ((cleanBytes m.payload).take 64).length) (0, false) =
      cleanBytes m.first64 := by
    simp [cleanBytes, Msg.first64, List.map_take]
  show execInrdR c base bank s = _
  simp only [execInrdR, Core.still_rowOpen hs, Bool.not_true, Bool.false_eq_true, if_false, s.rowChk_ok hill hrgf, Chk.run_ok,
    Core.payload_clean hm hp, hfirst, any_cleanBytes, State.consume, RowVal.ofBytes_clean, map_fst_cleanBytes]
  rfl

end

/-! ### Queue registers (02 R60-R62) -/

omit hs in
theorem exec_qrd_lacking {q : Queue} (hq : s.qReadable q = false) :
    exec (.qrd d q) s = .next (s.takeTrap .ill s.core.pc s.core.pc false) := by
  show execQrd d q s = _
  simp only [execQrd, hq, Bool.not_false, if_true, State.trapB_ill]

theorem exec_qrd_word {q : Queue} (hq : s.qReadable q = true) {w : Word} (hw : s.core.qHead q = some w) :
    exec (.qrd d q) s = .next (s.poppedTo (s.core.popped q) d w (qPoi q w)) := by
  show execQrd d q s = _
  simp only [execQrd, hq, Core.still_ready hs, Bool.not_true, Bool.false_eq_true, if_false, hw]
  rfl

omit hs in
theorem exec_qwr_lacking {q : Queue} (h3 : q ≠ 3) (h4 : q ≠ 4) :
    exec (.qwr q a) s = .next (s.takeTrap .ill s.core.pc s.core.pc false) := by
  show execQwr q a s = _
  simp only [execQwr, beq_eq_false_iff_ne.2 h3, beq_eq_false_iff_ne.2 h4, Bool.false_and, Bool.or_self, Bool.not_false, if_true, State.trapB_ill]

/-- The core with a word appended to q4. -/
def Core.asked4 (c : Core) (w : Word) : Core := { c with q := { c.q with q4req := c.q.q4req ++ [w] } }

theorem exec_qwr_q4 (hroom : s.core.q.q4req.length < 4) : exec (.qwr 4 a) s = .next (State.retire { s with core := s.core.asked4 (s.S a) }) := by
  show execQwr 4 a s = _
  simp only [execQwr, beq_self_eq_true, Bool.true_or, Core.still_ready hs, Bool.not_true, Bool.false_eq_true, if_false, if_true,
    Nat.not_le.2 hroom]
  rfl

/-! ### Placement (07 R163, R164) -/

theorem exec_plh_none (hk : s.tile.placement[(s.S a).toNat]? = none) :
    exec (.plh d a) s = .next (s.takeTrap .bnd (s.S a) s.core.pc false) := by
  show execPlh d a s = _
  simp only [execPlh, Core.still_ready hs, Bool.not_true, Bool.false_eq_true, if_false, hk, State.trapB_bnd]

section
variable {k : Placed} (hk : s.tile.placement[(s.S a).toNat]? = some k)
include hk

theorem exec_plh_hit (hc : s.tile.plCache.contains (s.S a).toNat = true) :
    exec (.plh d a) s = .next ((s.placed (s.S a).toNat).result d (k.hnd.zeroExtend 64)) := by
  show execPlh d a s = _
  simp only [execPlh, Core.still_ready hs, Bool.not_true, Bool.false_eq_true, if_false, hk, State.placeLookup_hit hc, Chk.run_ok, State.result]

theorem exec_plh_miss (hc : s.tile.plCache.contains (s.S a).toNat = false) :
    exec (.plh d a) s = .next { s with core := { s.core with plReq := some (s.S a).toNat } } := by
  show execPlh d a s = _
  simp only [execPlh, Core.still_ready hs, Bool.not_true, Bool.false_eq_true, if_false, hk, State.placeLookup_miss hc, Chk.run_wait]

end

theorem exec_plq : exec (.plq d a) s = s.askQuay (.plq d a) 8 (s.S a) 0 := by
  show execPlq d a s = _
  simp only [execPlq, Core.still_ready hs, Bool.not_true, Bool.false_eq_true, if_false]

end

/-- The entry that a core waits for comes to the front of the placement cache. -/
theorem exec_placementCacheFill {s : State} {n : Nat} (h : s.core.plReq = some n) : ∃ u, exec .placementCacheFill s = .next u ∧
    u.tile.plCache.head? = some n ∧ u.core.plReq = none := by
  refine ⟨_, (show execPlacementCacheFill s = _ by rw [execPlacementCacheFill, h]), ?_, rfl⟩
  rfl

end Sys2Proof.Machine

namespace Sys2Proof
open Machine

/-- Settles O18: each read of a queue is a pop, and a placement look-up hits or asks. -/
theorem inboxQueuesAndPlacementAreRead : Obligations.InboxQueuesAndPlacementAreRead := by
  refine ⟨fun s d a c base bank m w rest hs => ⟨fun hq => ?_, fun hq => ⟨exec_inpop_empty hs hq, exec_insk_empty hs hq⟩,
    fun hm hp => ⟨exec_inrd_clean hs hm hp, fun hill hrgf => ?_⟩, fun q hq hw => ?_, fun q hq => exec_qrd_lacking hq, fun hroom => ?_,
    fun q h3 h4 => exec_qwr_lacking h3 h4⟩, fun s d a hs => ⟨fun k hk hc => ?_, exec_plh_none hs, fun k hk hc => ?_, fun hl => ?_⟩⟩
  · obtain ⟨hcq, hd, hr, hpc⟩ := State.poppedTo_reads (s := s) (c := s.core.withCq rest) (fun _ => rfl) rfl d w (w.getLsbD 13)
    obtain ⟨hinpop, hinsk⟩ := exec_inpop_insk_word (d := d) hs hq
    exact ⟨_, hinpop, hinsk, by rw [hcq]; rfl, hd, hr, hpc, (s.poppedTo_eq _ d w _).2⟩
  · refine ⟨_, exec_inrdR_clean hs hm hp hill hrgf, s.rowResult_only _ _, fun hz hbc j hj => ?_⟩
    rw [State.rowResult_val s (RowSel.isReg_of_ne hill hrgf hz hbc), Row.byte_rowOfBytes (Nat.le_of_eq m.length_first64), m.getElem_first64 hj]
  · exact ⟨_, exec_qrd_word hs hq hw, State.poppedTo_reads (s := s) (c := s.core.popped q) (fun _ => rfl) rfl d w (qPoi q w)⟩
  · exact ⟨_, exec_qwr_q4 hs hroom, rfl, fun _ => rfl, rfl, rfl⟩
  · exact ⟨_, exec_plh_hit hs hk hc, s.core.setS_npc d _, s.core.S_setS_self d _, fun r hr => s.core.S_setS_ne _ hr, rfl, rfl⟩
  · obtain ⟨u, hfill, hhead, hreq⟩ := exec_placementCacheFill (s := { s with core := { s.core with plReq := some (s.S a).toNat } }) rfl
    exact ⟨_, u, exec_plh_miss hs hk hc, rfl, fun _ => rfl, hfill, hhead, hreq⟩
  · exact ⟨_, State.asks_of_askQuay hs hl (exec_plq hs)⟩

end Sys2Proof
end

section
/-! SUPPORT. An answer on VC2 to the core in focus: its way there, the entry that it answers, and a kill that it begins (07 R177, R180,
15 R368). -/

namespace Sys2Proof.Machine

/-! ### The way of an answer to its core -/

/-- An answer to a packet of the core in focus goes to it in one move. -/
theorem State.packetEvent_answer {s u : State} {p : Packet} (h : s.answerComes p) (hu : (s.without p).response p = u)
    (hid' : u.tile.id = s.tile.id) (hsel' : u.sel = s.sel) : s.packetEvent p true = .next u := by
  obtain ⟨⟨x, y, hid, hd⟩, hnet, hhaw, hcalm, hland, hhop, hreg, hv, havc, hcore, hhnd, htag⟩ := h
  have hcalm : s.calm = true := hcalm
  have havc : (p.avc == 0) = false := beq_eq_false_iff_ne.2 havc
  have hrelay : relays p = false := by simp [relays, hv]
  have hjourney : s.journeyOf p = .arrives := if_pos hcalm
  have henters : s.entersRegion p = false := by
    rw [State.entersRegion, if_pos hcalm, legSrc, legDst, hrelay, hhop, hreg]
    simp
  have hfor : responseFor ((s.without p).tileAt (.grid x y)).tile p = true := by
    rw [State.tileAt_self (s := s.without p) hid]
    simp [responseFor, havc, State.without, hhnd, htag]
  have hclosed : closedTo ((s.without p).tileAt (.grid x y)) p = false := by simp [closedTo, havc]
  have hdeliver : State.deliver { s with net := s.net.erase p } p = u := by
    show (s.without p).deliver p = u
    simp only [State.deliver, hv, State.responseTile, hd, hfor, hclosed, beq_self_eq_true, Bool.not_false, Bool.and_self, if_true]
    subst hu
    exact State.atCore_self (s := s.without p) hid hcore.symm hid' hsel'
  have hcarry : s.carry p = u := by
    simp only [State.carry, hjourney, henters, Bool.false_and, Bool.false_eq_true, if_false, State.endLeg, hrelay, hland, hdeliver]
  simp [State.packetEvent, hhaw, hnet, hcarry, hrelay]

/-! ### The entry that an answer frees (R177) -/

/-- p answers the packet of a retry-buffer entry. -/
structure Answers (p : Packet) (r : RetryEntry) : Prop where
  dst : r.pkt.dst = p.src
  vc : r.pkt.vc = p.avc
  seq : r.pkt.seq = p.seq

theorem LinkState.free_answered {l : LinkState} {r : RetryEntry} {p : Packet} (h : l.retry = [r]) (ha : Answers p r) (hb : r.pkt.body ≠ .close) :
    l.free p = ({ l with retry := [] }, some r) := by
  have hsame : l.free p = l.free (replyTo r.pkt 0 p.body) := by simp only [LinkState.free, replyTo, ha.dst, ha.vc, ha.seq]
  rw [hsame, LinkState.free_only h hb]

section
variable {s : State} {p : Packet} {r : RetryEntry} (hr : s.core.link.retry = [r]) (ha : Answers p r)
include hr ha

/-- An acknowledgement frees the only entry. -/
theorem State.response_ack (hb : r.pkt.body ≠ .close) (hv : p.avc ≠ 0) {dup : Bool} (hp : p.body = .ack dup) : s.response p = s.unsent := by
  have hfree := LinkState.free_answered hr ha hb
  simp only [State.response, hp, beq_eq_false_iff_ne.2 hv, Bool.false_eq_true, if_false, hfree, State.answered]
  rfl

/-- The state whose retry buffer holds one entry. -/
def State.keeping (s : State) (r : RetryEntry) : State := { s with core := { s.core with link := { s.core.link with retry := [r] } } }

/-- retry marks the only entry as waiting. -/
theorem State.response_retry (hp : p.body = .retry) : s.response p = s.keeping { r with wait := true } := by
  simp only [State.response, hp, hr, List.map_cons, List.map_nil, ha.dst, ha.vc, ha.seq, beq_self_eq_true, Bool.and_self, if_true]
  rfl

/-- reject begins the kill of the context with reason 4, of a state with the same tile, teams and contexts. -/
theorem State.response_reject (hb : r.pkt.body ≠ .close) (hv : p.avc ≠ 0) (hp : p.body = .reject) :
    ∃ v : State, s.response p = v.killContext true s.tile.ctx 4 .none 0 0 ∧ v.tile = s.tile ∧ v.sel = s.sel ∧
      v.teams = s.teams ∧ v.ctxs = s.ctxs := by
  have hfree := LinkState.free_answered hr ha hb
  cases hown : p.avc == 2 || p.avc == 7 with
  | true =>
    refine ⟨s, ?_, rfl, rfl, rfl, rfl⟩
    simp only [State.response, hp, beq_eq_false_iff_ne.2 hv, Bool.false_or, hown, beq_self_eq_true, Bool.and_self, if_true]
  | false =>
    refine ⟨s.unsent.report s.myRegion repFirewall s.tile.hnd s.mySite 0 (pktWord0 r.pkt) (pktWord1 r.pkt), ?_, rfl, rfl, rfl, rfl⟩
    simp only [State.response, hp, beq_eq_false_iff_ne.2 hv, Bool.false_or, hown, Bool.and_false, Bool.false_eq_true, if_false, hfree,
      State.answered]
    rfl

end

/-! ### The kill of a context without teams (15 R368) -/

/-- Launches that complete when queues are flushed touch no core and no tile. -/
theorem State.flushQueues_focus (s : State) (ctx st : Nat) (ws : List Word) : (s.flushQueues ctx st ws).core = s.core ∧
    (s.flushQueues ctx st ws).tile = s.tile ∧ (s.flushQueues ctx st ws).sel = s.sel := by
  have hcomplete (u : State) (q : Queued) : (u.complete q.part q.id q.reqid st ws).core = u.core ∧
      (u.complete q.part q.id q.reqid st ws).tile = u.tile ∧ (u.complete q.part q.id q.reqid st ws).sel = u.sel := by
    unfold State.complete
    dsimp only
    split <;> exact ⟨rfl, rfl, rfl⟩
  refine foldl_keeps (fun u : State => u.core = s.core ∧ u.tile = s.tile ∧ u.sel = s.sel) _ (fun u x hu => ?_) s.regions s ⟨rfl, rfl, rfl⟩
  have h := foldl_keeps (fun v : State => v.core = s.core ∧ v.tile = s.tile ∧ v.sel = s.sel)
    (fun (v : State) (q : Queued) => v.complete q.part q.id q.reqid st ws)
    (fun v q hv => ⟨(hcomplete v q).1.trans hv.1, (hcomplete v q).2.1.trans hv.2.1, (hcomplete v q).2.2.trans hv.2.2⟩)
    (x.2.queue.filter fun q => q.pkt.ctx == ctx) u hu
  dsimp only
  split <;> exact h

/-- The first kill of a context that has no team left: the core stops for good, and the report is the context's. -/
theorem State.killContext_alone {s : State} (ht : s.teams = []) (ctx reason : Nat) (hk : (s.ctx ctx).killing = false) (c : Cause) (tpc va : Word) :
    (s.killContext true ctx reason c tpc va).core = s.core.killed ∧ (s.killContext true ctx reason c tpc va).tile = s.tile ∧
      (s.killContext true ctx reason c tpc va).sel = s.sel ∧
      ((s.killContext true ctx reason c tpc va).ctx ctx).killReport = s.killReport true ctx reason c tpc va := by
  unfold State.killContext
  dsimp only
  rw [hk, if_neg Bool.false_ne_true, if_pos rfl]
  generalize hrep : s.killReport true ctx reason c tpc va = rep
  generalize hs1 : (State.putCtx _ ctx _ : State) = s1
  obtain ⟨hteams, hctxs⟩ := s1.flushQueues_frame ctx stKilled rep
  obtain ⟨hcore, htile, hsel⟩ := s1.flushQueues_focus ctx stKilled rep
  have hnone : (s1.flushQueues ctx stKilled rep).teams = [] := hteams.trans (by rw [← hs1]; exact ht)
  have hctx : (s1.flushQueues ctx stKilled rep).ctx ctx = s1.ctx ctx := State.ctx_congr hctxs ctx
  simp only [hnone, List.filter_nil, List.foldl_nil, State.settleKill, List.any_nil, Bool.false_eq_true, if_false, State.ctx_putCtx, hctx]
  subst hs1
  exact ⟨hcore, htile, hsel, by rw [State.ctx_putCtx]⟩

/-- Words 0 and 9 of the report of a kill without a trap: the context, the reason and the handle, and no TPC. -/
theorem State.killReport_none (s : State) (ctx reason : Nat) :
    (s.killReport true ctx reason .none 0 0).head? = some (BitVec.ofNat 64 (ctx + 4096 * reason + 2 ^ 32 * s.tile.hnd.toNat)) ∧
      (s.killReport true ctx reason .none 0 0)[9]? = some 0 := by
  simp [State.killReport, causeCode]

/-- reject kills a context without teams: the core is dead, and the report names the sender and no TPC. -/
theorem State.response_reject_kills {s : State} {p : Packet} {r : RetryEntry} (hr : s.core.link.retry = [r]) (ha : Answers p r)
    (hb : r.pkt.body ≠ .close) (hv : p.avc ≠ 0) (hp : p.body = .reject) (ht : s.teams = []) (hk : (s.ctx s.tile.ctx).killing = false) :
    ∃ t, s.response p = t ∧ t.tile = s.tile ∧ t.sel = s.sel ∧ t.core.dead = true ∧
      (t.ctx s.tile.ctx).killReport.head? = some (BitVec.ofNat 64 (s.tile.ctx + 4096 * 4 + 2 ^ 32 * s.tile.hnd.toNat)) ∧
      (t.ctx s.tile.ctx).killReport[9]? = some 0 := by
  obtain ⟨v, hresponse, htile, hsel, hteams, hctxs⟩ := State.response_reject hr ha hb hv hp
  have hkilling : (v.ctx s.tile.ctx).killing = false := by rw [State.ctx_congr hctxs, hk]
  obtain ⟨hcore, htile', hsel', hreport⟩ := State.killContext_alone (hteams.trans ht) s.tile.ctx 4 hkilling .none 0 0
  obtain ⟨hhead, htpc⟩ := v.killReport_none s.tile.ctx 4
  refine ⟨_, hresponse, htile'.trans htile, hsel'.trans hsel, ?_, ?_, ?_⟩
  · rw [hcore]; rfl
  · rw [hreport, hhead, htile]
  · rw [hreport, htpc]

/-! ### Re-injection, and an acknowledgement that does not come (R177) -/

section
variable {s : State} {r : RetryEntry}

/-- An entry that waited is injected again and counted. -/
theorem exec_retryWaitExpiry (hr : s.core.link.retry = [r]) (hw : r.wait = true) (hh : s.hawser = false) :
    ∃ u, exec (.retryWaitExpiry 0) s = .next u ∧ u.core.link.retry = [{ r with wait := false }] ∧ u.net = s.net ++ [r.pkt] ∧
      (s.core.link.rtx ≠ 0xFFFF → u.core.link.rtx = s.core.link.rtx + 1) := by
  have hexec : exec (.retryWaitExpiry 0) s = execRetryWaitExpiry 0 s := rfl
  simp only [hexec, execRetryWaitExpiry, hr, List.getElem?_cons_zero, hw, hh, Bool.not_true, Bool.or_self, Bool.false_eq_true, if_false]
  exact ⟨_, rfl, rfl, rfl, fun h => if_neg (by simpa using h)⟩

/-- A resend notice of the next generation injects the only entry again. -/
theorem exec_resendNotice (hr : s.core.link.retry = [r]) (hw : r.wait = false) {gen : BitVec 16} (hg : gen = r.gen + 1) :
    ∃ u, exec (.resendNotice gen) s = .next u ∧ u.net = s.net ++ [{ r.pkt with gen := gen }] ∧
      u.core.link.retry = [{ r with gen := gen, pkt := { r.pkt with gen := gen } }] := by
  have hone : gen - r.gen = 1 := by subst hg; bv_omega
  have hold : (!r.wait && decide ((gen - r.gen).toNat < 32768) && r.gen != gen) = true := by
    have hne : r.gen ≠ gen := fun h => by rw [h, BitVec.sub_self] at hone; exact absurd hone (by decide)
    simp [hw, hone, hne]
  refine ⟨_, rfl, ?_, ?_⟩
  · simp only [State.resendFrom, Core.resend, hr, List.filter_cons, hold, if_true, List.filter_nil, List.map_cons, List.map_nil]
  · simp only [State.resendFrom, Core.resend, noteReinject, hr, List.map_cons, List.map_nil, hold, if_true]

/-- An acknowledgement that does not come is reported, and nothing but the region's log changes. -/
theorem exec_unackedTimeout (hr : s.core.link.retry = [r]) : ∃ t, exec (.unackedTimeout 0) s = .next t ∧ t.core = s.core ∧ t.net = s.net ∧
    ((s.region s.myRegion).errLog.length < 4096 → (t.region s.myRegion).errLog.length = (s.region s.myRegion).errLog.length + 1) := by
  have hexec : exec (.unackedTimeout 0) s = execUnackedTimeout 0 s := rfl
  simp only [hexec, execUnackedTimeout, hr, List.getElem?_cons_zero]
  refine ⟨_, rfl, rfl, rfl, fun hroom => ?_⟩
  simp [State.report, hroom]

end

end Sys2Proof.Machine

namespace Sys2Proof
open Machine

/-- Settles O21: each answer is one move to its core, and what it does there is said entry by entry. -/
theorem answersReachTheRetryBuffer : Obligations.AnswersReachTheRetryBuffer := by
  intro s p r hc hr hdst hvc hseq hb
  have ha : Answers p r := ⟨hdst, hvc, hseq⟩
  have hr' : (s.without p).core.link.retry = [r] := hr
  obtain ⟨-, -, hhaw, -, -, -, -, -, havc, -⟩ := id hc
  refine ⟨fun dup hp => ?_, fun hp => ?_, fun hp ht hk => ?_, fun gen hw hg => exec_resendNotice hr hw hg, exec_unackedTimeout hr⟩
  · have hexec : exec (.ackReceived p) s = s.packetEvent p true := by
      show execAckReceived p s = _
      simp only [execAckReceived, hp]
    exact ⟨_, hexec.trans (State.packetEvent_answer hc (State.response_ack hr' ha hb havc hp) rfl rfl), rfl, rfl, rfl⟩
  · have hexec : exec (.retryReceived p) s = s.packetEvent p true := by
      show execRetryReceived p s = _
      simp only [execRetryReceived, hp, beq_self_eq_true]
    exact ⟨_, hexec.trans (State.packetEvent_answer hc (State.response_retry hr' ha hp) rfl rfl), rfl, rfl,
      exec_retryWaitExpiry (s := (s.without p).keeping { r with wait := true }) (r := { r with wait := true }) rfl rfl hhaw⟩
  · have hexec : exec (.rejectReceived p) s = s.packetEvent p true := by
      show execRejectReceived p s = _
      simp only [execRejectReceived, hp, beq_self_eq_true]
    obtain ⟨t, hresponse, htile, hsel, hdead, hreport⟩ := State.response_reject_kills hr' ha hb havc hp ht hk
    exact ⟨t, hexec.trans (State.packetEvent_answer hc hresponse (congrArg Tile.id htile) hsel), hdead, hreport⟩

end Sys2Proof
end

section
/-! SUPPORT. Entries that write one scalar when they retire, and waits of KIND 6 (08 R192, R211, R216, 15 R369, R370). -/

namespace Sys2Proof.Machine

/-! ### After the word is written -/

theorem State.wordDone_core (t : State) (k : Fin 8) (d : SReg) (v : Word) : (t.wordDone k d v).core.pc = t.core.pc ∧
    (t.wordDone k d v).core.rf = t.core.rf ∧ (t.wordDone k d v).core.sr = t.core.sr ∧ (t.wordDone k d v).core.tr = t.core.tr :=
  ⟨Core.setS_pc .., Core.setS_rf .., Core.setS_sr .., Core.setS_tr ..⟩

theorem State.S_wordDone_self (t : State) (k : Fin 8) (d : SReg) (v : Word) : (t.wordDone k d v).S d = if d = 0 then 0 else v :=
  t.core.S_setS_self d v

/-- No entry is left where entry 0 alone was valid and has written its word. -/
theorem State.wordDone_alone {t : State} {d : SReg} (h : ∀ e : Fin 8, e ≠ 0 → t.core.rq[e].v = false) {v : Word} (e : Fin 8) :
    (t.wordDone 0 d v).core.rq[e].v = false := by
  by_cases he : e = 0
  · rw [he, State.wordDone_entry]
  · rw [← h e he]
    refine congrArg Entry.v ((vput_other _ _ _ _ he).trans ?_)
    rw [Core.setS_rq]

/-! ### A wait -/

/-- A new entry of KIND 6 that waits (15 R369). -/
def State.waitEntry (s : State) (i : Instr) (w1 w2 : Word) (req : Nat) (acq : Bool) : Entry :=
  { s.newEntry i 6 w1 w2 with fabric := true, req := req, acq := acq }

/-- Its wait ends with a word, which d gets. -/
theorem State.settleWord_ends {s t : State} {i : Instr} {d : SReg} (hi : WritesWord i d) {w1 w2 : Word} {req : Nat} {acq : Bool}
    (hen : t.core.rq[(0 : Fin 8)] = s.waitEntry i w1 w2 req acq) (htr : t.core.tr = s.core.tr) (hstop : t.core.stopped = false)
    (hfwd : t.core.tr.fwd = none) (hup : t.core.upset = 0) (v : Word) :
    (t.settleWord 0 v).core.rq[(0 : Fin 8)].v = false ∧ (t.settleWord 0 v).S d = if d = 0 then 0 else v := by
  have hthaw : t.core.frozen (s.waitEntry i w1 w2 req acq) = false := by
    simp [Core.frozen, State.waitEntry, State.newEntry, htr ▸ hfwd, htr, hstop]
  rw [State.settleWord_writes hen ⟨⟨i, rfl, hi⟩, rfl, Nat.le_add_left ..⟩ hthaw hup v]
  exact ⟨congrArg Entry.v (State.wordDone_entry ..), State.S_wordDone_self ..⟩

/-! ### A release -/

theorem State.still_releaseReady {s : State} (h : s.core.still = true) (sc : Scope) : s.releaseReady sc = true := by
  simp [State.releaseReady, Core.still_loads h, State.still_unacked h]

end Sys2Proof.Machine
end

section
/-! SUPPORT. Atomics on the own slice (08 R189-R192). -/

namespace Sys2Proof.Machine

/-! ### The value that an atomic leaves (R191) -/

/-- The value that stands in memory after an atomic: what it computes, or the old one where it writes nothing. -/
def atomLeaves (op : AtomOp) (n old x e : Nat) : Nat := (atomNew op n old x e).getD old

section
variable {n old : Nat} (hold : old < 2 ^ (8 * n)) (x e : Nat)
include hold

theorem atomLeaves_bitwise : atomLeaves .and n old x e = old &&& x % 2 ^ (8 * n) ∧ atomLeaves .or n old x e = old ||| x % 2 ^ (8 * n) ∧
    atomLeaves .xor n old x e = old ^^^ x % 2 ^ (8 * n) := by
  simp only [atomLeaves, atomNew, Nat.mod_eq_of_lt hold, Option.getD_some]
  exact ⟨rfl, rfl, rfl⟩

theorem atomLeaves_add_swap : atomLeaves .add n old x e = (old + x % 2 ^ (8 * n)) % 2 ^ (8 * n) ∧ atomLeaves .swap n old x e = x % 2 ^ (8 * n) := by
  simp only [atomLeaves, atomNew, Nat.mod_eq_of_lt hold, Option.getD_some, and_self]

theorem atomLeaves_unsigned :
    atomLeaves .minu n old x e = (if old < x % 2 ^ (8 * n) then old else x % 2 ^ (8 * n)) ∧
      atomLeaves .maxu n old x e = if old < x % 2 ^ (8 * n) then x % 2 ^ (8 * n) else old := by
  simp only [atomLeaves, atomNew, Nat.mod_eq_of_lt hold, Option.getD_some, and_self]

theorem atomLeaves_cas : atomLeaves .cas n old x e = if old = e % 2 ^ (8 * n) then x % 2 ^ (8 * n) else old := by
  simp only [atomLeaves, atomNew, Nat.mod_eq_of_lt hold, beq_iff_eq]
  split <;> rfl

/-- The two's complement value of n bytes, as the model compares it. -/
theorem toInt_ofNat_bytes (hn : 0 < n) :
    (BitVec.ofNat (8 * n) old).toInt = if old < 2 ^ (8 * n) / 2 then (old : Int) else (old : Int) - (2 ^ (8 * n) : Nat) := by
  obtain ⟨k, hk⟩ : ∃ k, 2 ^ (8 * n) = 2 * k := ⟨2 ^ (8 * n - 1), by rw [← Nat.pow_succ']; congr 1; omega⟩
  rw [BitVec.toInt_eq_toNat_cond, BitVec.toNat_ofNat, Nat.mod_eq_of_lt hold]
  simp only [hk]
  congr 1
  exact propext (by omega)

theorem atomLeaves_signed (hn : 0 < n) :
    let low (k : Nat) : BitVec (8 * n) := BitVec.ofNat (8 * n) k
    atomLeaves .min n old x e =
        (if (low old).toInt < (low (x % 2 ^ (8 * n))).toInt then old else x % 2 ^ (8 * n)) ∧
      atomLeaves .max n old x e = if (low old).toInt < (low (x % 2 ^ (8 * n))).toInt then x % 2 ^ (8 * n) else old := by
  have hx : x % 2 ^ (8 * n) < 2 ^ (8 * n) := Nat.mod_lt _ (Nat.two_pow_pos _)
  simp only [atomLeaves, atomNew, Nat.mod_eq_of_lt hold, toInt_ofNat_bytes hold hn, toInt_ofNat_bytes hx hn, Option.getD_some, and_self]

end

/-! ### One step on the bytes of the slice -/

/-- Of a tile without wrong bits a store changes the slice and its poison. -/
theorem Tile.store_clean {t : Tile} (hf : t.flips = []) (fresh o : Nat) (bs : List (Option PByte)) : t.store fresh o bs =
    { t with slice := t.slice.writeMany o (bs.map fun b => b.map (·.1)), poison := poisonAfter t.poison o bs } := by
  simp [Tile.store, hf]

theorem map_plain (bs : List Byte) : ((plain bs).map fun b => b.map (·.1)) = bs.map some := by simp [plain, Function.comp_def]

section
variable {t : Tile} {o n : Nat} {w : Bool} (hn : n = if w then 4 else 8)
include hn

/-- An atomic on a clean sector without wrong bits answers the old value and replaces its bytes. -/
theorem Tile.atomic_clean (hf : t.flips = []) (hp : t.poison.contains (o / 32) = false) (hw : t.slice.wf = true) (fresh : Nat) (op : AtomOp)
    (x e : Word) : ∃ wrote slice poison, t.atomic fresh op w o x e =
      ({ old := atomOld w (leNat (t.slice.readMany o n)), bad := false, wrote := wrote }, { t with slice := slice, poison := poison }) ∧
      ∀ a, slice.read a = if o ≤ a ∧ a < o + n
        then BitVec.ofNat 8 (atomLeaves op n (leNat (t.slice.readMany o n)) x.toNat e.toNat / 2 ^ (8 * (a - o))) else t.slice.read a := by
  subst hn
  simp only [Tile.atomic, Tile.ecc_clean hf, hp, Bool.false_eq_true, if_false, atomLeaves]
  generalize (if w = true then 4 else 8) = n
  cases atomNew op n (leNat (t.slice.readMany o n)) x.toNat e.toNat with
  | none =>
    refine ⟨false, t.slice, t.poison, rfl, fun a => ?_⟩
    split
    · next h =>
      obtain ⟨j, rfl⟩ : ∃ j, a = o + j := ⟨a - o, by omega⟩
      have hdigit := leNat_digit (t.slice.readMany o n) j
      rw [getElem_readMany _ _ _ _ (by omega : j < n)] at hdigit
      apply BitVec.eq_of_toNat_eq
      rw [BitVec.toNat_ofNat, Nat.add_sub_cancel_left, Nat.pow_mul]
      exact hdigit.symm
    · rfl
  | some v =>
    refine ⟨true, _, _, congrArg (Prod.mk _) (Tile.store_clean hf fresh o (plain (leBytes n v))), fun a => ?_⟩
    rw [map_plain, Memory.read_writeMany _ _ _ _ hw]
    by_cases hlow : o ≤ a
    · by_cases hhigh : a < o + n
      · simp [hlow, hhigh, getElem_leBytes v (show a - o < n by omega), Nat.pow_mul]
      · simp [hlow, hhigh, show n ≤ a - o by omega]
    · simp [hlow]

end

/-! ### The instructions (R191, R192) -/

/-- The step of an atomic has left the tile t. -/
def State.stepped (s : State) (t : Tile) : State := { s with tile := t, fresh := s.fresh + 1 }

section
variable {s : State} {p y : Word} {n : Nat} {w : Bool} {i : Instr} {d a b : SReg} {x : Option Xsc} {op : AtomOp} {m c : Nat}

theorem State.atomPtr_slice (hp : ea y 0 = some p) (hsp : ptrSpace p = 0) (hofs : ptrOfs p + n ≤ 0x80000) (hal : ptrOfs p % n = 0) :
    s.atomPtr y n = .ok (p, .slice (ptrOfs p), s) := by
  simp [State.atomPtr, eaChk_of_some hp, hsp, hal, State.resolve_slice hsp hofs]

theorem State.atomPtr_misaligned (hp : ea y 0 = some p) (hsp : ptrSpace p ≤ 2) (hal : ptrOfs p % n ≠ 0) : s.atomPtr y n = .trap .bnd p := by
  simp [State.atomPtr, eaChk_of_some hp, show ptrSpace p ≠ 3 by omega, Nat.not_lt.2 hsp, hal]

theorem State.atomPtr_noAtomics (hp : ea y 0 = some p) (hsp : ptrSpace p = 4) : s.atomPtr y n = .trap .bnd p := by
  simp [State.atomPtr, eaChk_of_some hp, hsp]

/-- The entry of an atomic that was performed at its issue writes the old value to d when it retires. -/
theorem State.atomHeld_done {v : State} (hi : WritesWord i d) (hstop : v.core.stopped = false) (hfwd : v.core.tr.fwd = none)
    (hup : v.core.upset = 0) (hrq : ∀ e : Fin 8, v.core.rq[e].v = false) (z old : Word) (acq wrote : Bool) :
    let u := (v.atomHeld i 0 p y z acq { old := old, bad := false, wrote := wrote }).atomicDone 0
    u.core.pc = v.core.npc ∧ (∀ e : Fin 8, u.core.rq[e].v = false) ∧ u.S d = (if d = 0 then 0 else old) ∧ (∀ r, r ≠ d → u.S r = v.S r) ∧
      u.core.rf = v.core.rf ∧ u.core.sr = v.core.sr ∧ u.core.tr = v.core.tr ∧ u.tile.slice = v.tile.slice ∧
      u.tile.rings = v.tile.rings ∧ u.tiles = v.tiles ∧ u.ctxs = v.ctxs ∧ u.net = v.net := by
  have hen := v.putEntry_entry 0 { v.newEntry i 3 p y with st := 1, w3 := old, buf := [], acq := acq, cap := z }
  have hthaw : v.core.frozen { v.newEntry i 3 p y with st := 1, w3 := old, buf := [], acq := acq, cap := z } = false := by
    simp [Core.frozen, State.newEntry, hfwd, hstop]
  have hdone := State.atomicDone_writes (t := v.atomHeld i 0 p y z acq { old := old, bad := false, wrote := wrote }) (d := d) hen
    ⟨rfl, rfl, rfl⟩ ⟨⟨i, rfl, hi⟩, rfl, Nat.le_add_left ..⟩ hthaw hup
  rw [hdone]
  obtain ⟨hpc, hrf, hsr, htr⟩ := State.wordDone_core (v.atomHeld i 0 p y z acq { old := old, bad := false, wrote := wrote }) 0 d old
  refine ⟨hpc, ?_, State.S_wordDone_self _ 0 d old, fun r hr => (State.S_wordDone _ 0 d old r).trans (if_neg fun h => hr h.1), hrf, hsr, htr,
    rfl, rfl, rfl, rfl, rfl⟩
  exact State.wordDone_alone fun e he => (congrArg Entry.v (vput_other _ _ _ _ he)).trans (hrq e)

variable (hs : s.core.still = true)
include hs

/-- An atomic whose pointer is refused takes its trap. -/
theorem State.atomicOp_trap (hptr : s.atomPtr (s.S a) (if w then 4 else 8) = .trap .bnd p) :
    s.atomicOp i d a b w x op m c = .next (s.takeTrap .bnd p s.core.pc false) := by
  simp only [State.atomicOp, Core.still_ready hs, hptr, Chk.run_trap, Bool.not_true, Bool.false_eq_true, if_false]
  exact State.trapB_bnd ..

/-- With nothing in its way an atomic on the own slice is performed as it issues (R192). -/
theorem State.atomicOp_here (hn : n = if w then 4 else 8) (hp : ea (s.S a) 0 = some p) (hwr : s.writesHere p n) (hal : ptrOfs p % n = 0)
    {r : AtomRes} {t : Tile} (hatomic : s.tile.atomic s.fresh op w (ptrOfs p) (s.S b) (s.S d) = (r, t)) :
    s.atomicOp i d a b w x op m c =
      .next (((s.stepped t).fold [p, s.S b, s.S d, Config.atomCode m c]).atomHeld i 0 p (s.S b) (s.S d) (Xsc.isAcq x) r) := by
  obtain ⟨hsp, hofs, -, hl, hr, he, hh⟩ := hwr
  have hptr := State.atomPtr_slice (s := s) (n := n) hp hsp hofs hal
  simp only [State.atomicOp, ← hn, Core.still_ready hs, hptr, Chk.run_ok, State.still_orderReady hs, Tile.heldWrite_none he hh,
    State.slotPending_none hr, Tile.leasedOut_none hl, State.withEntry, Core.still_free hs, Bool.not_true, Bool.or_self, Bool.false_eq_true,
    if_false, hatomic]
  rfl

/-- An atomic on the own slice: its bytes at once, its old value when its entry of KIND 3 retires (R191, R192). -/
theorem State.atoms_of_atomicOp (hstop : s.core.stopped = false) (hfwd : s.core.tr.fwd = none) (hwf : s.tile.slice.wf = true)
    (hn : n = if w then 4 else 8) (hp : ea (s.S a) 0 = some p) (hwr : s.writesHere p n) (hrd : s.readsHere p n) (hal : ptrOfs p % n = 0)
    (hexec : exec i s = s.atomicOp i d a b w x op m c) (hi : WritesWord i d) {v : Nat}
    (hv : atomLeaves op n (s.sliceNat p n) (s.S b).toNat (s.S d).toNat = v) : s.atoms i d w p v := by
  obtain ⟨-, -, hf, -, -, hpoison⟩ := hrd
  have hclean : s.tile.poison.contains (ptrOfs p / 32) = false := hpoison 0 (by rw [hn]; split <;> decide)
  obtain ⟨wrote, slice, poison, hatomic, hread⟩ := Tile.atomic_clean hn hf hclean hwf s.fresh op (s.S b) (s.S d)
  have hop := hexec.trans (State.atomicOp_here hs hn hp hwr hal hatomic)
  obtain ⟨sig, hfold⟩ := (s.stepped { s.tile with slice := slice, poison := poison }).fold_eq [p, s.S b, s.S d, Config.atomCode m c]
  rw [hfold] at hop
  have hdone := State.atomHeld_done (i := i) (d := d) (p := p) (y := s.S b)
    (v := { s.stepped { s.tile with slice := slice, poison := poison } with core := { s.core with sig := sig } })
    hi hstop hfwd (Core.still_upset hs) (Core.still_entries hs) (s.S d) (atomOld w (s.sliceNat p n)) (Xsc.isAcq x) wrote
  have hen (v : State) (en : Entry) : (v.putEntry 0 en).retire.core.rq[(0 : Fin 8)] = en := vput_same ..
  have hbytes := fun a' => hv ▸ hread a'
  subst hn
  obtain ⟨hpc, hfree, hd, hregs, hrf, hsr, htr, hslice, hrings, htiles, hctxs, hnet⟩ := hdone
  exact ⟨_, hop, rfl, congrArg Entry.v (hen _ _), congrArg Entry.kind (hen _ _), fun _ => rfl, hbytes, hpc, hfree, hslice,
    hd, hregs, hrf, hsr, htr, hrings, htiles, hctxs, hnet⟩

end

end Sys2Proof.Machine

namespace Sys2Proof
open Machine

/-- Settles O22: every form is one step on the bytes of the slice, which differ in the value that they leave. -/
theorem atomicsUpdateTheSlice : Obligations.AtomicsUpdateTheSlice := by
  intro s d a b w x p hs hstop hfwd hwf hp
  refine ⟨fun hwr hrd hal => ?_, fun hsp hal => ?_, fun hsp => ?_⟩
  · have hold : s.sliceNat p (if w then 4 else 8) < 2 ^ (8 * if w then 4 else 8) := by
      have h := leNat_lt (s.tile.slice.readMany (ptrOfs p) (if w then 4 else 8))
      rwa [length_readMany, show (256 : Nat) = 2 ^ 8 from rfl, ← Nat.pow_mul] at h
    have hpos : 0 < if w then 4 else 8 := by split <;> decide
    have hatoms {i op m c} := State.atoms_of_atomicOp (i := i) (d := d) (a := a) (b := b) (x := x) (op := op) (m := m) (c := c)
      hs hstop hfwd hwf rfl hp hwr hrd hal
    obtain ⟨hand, hor, hxor⟩ := atomLeaves_bitwise hold (s.S b).toNat (s.S d).toNat
    obtain ⟨hadd, hswap⟩ := atomLeaves_add_swap hold (s.S b).toNat (s.S d).toNat
    obtain ⟨hminu, hmaxu⟩ := atomLeaves_unsigned hold (s.S b).toNat (s.S d).toNat
    obtain ⟨hmin, hmax⟩ := atomLeaves_signed hold (s.S b).toNat (s.S d).toNat hpos
    refine ⟨hatoms rfl ⟨fun _ _ _ => rfl, rfl⟩ hadd, hatoms rfl ⟨fun _ _ _ => rfl, rfl⟩ hand, hatoms rfl ⟨fun _ _ _ => rfl, rfl⟩ hor,
      hatoms rfl ⟨fun _ _ _ => rfl, rfl⟩ hxor, hatoms rfl ⟨fun _ _ _ => rfl, rfl⟩ hmin, hatoms rfl ⟨fun _ _ _ => rfl, rfl⟩ hmax,
      hatoms rfl ⟨fun _ _ _ => rfl, rfl⟩ hminu, hatoms rfl ⟨fun _ _ _ => rfl, rfl⟩ hmaxu, hatoms rfl ⟨fun _ _ _ => rfl, rfl⟩ hswap, ?_⟩
    have hcas := atomLeaves_cas hold (s.S b).toNat (s.S d).toNat
    cases w with
    | true => exact hatoms (m := 0) (c := 0) rfl ⟨fun _ _ _ => rfl, rfl⟩ hcas
    | false => exact hatoms (m := 1) (c := 0) rfl ⟨fun _ _ _ => rfl, rfl⟩ hcas
  · have hptr : s.atomPtr (s.S a) 8 = .trap .bnd p := State.atomPtr_misaligned hp hsp hal
    exact ⟨State.atomicOp_trap hs hptr, State.atomicOp_trap hs hptr⟩
  · exact State.atomicOp_trap hs (State.atomPtr_noAtomics hp hsp)

end Sys2Proof
end

section
/-! SUPPORT. The refutation of O23: a lease with more bytes than the retry buffer has room for stays with its tile (07 R177, 08 R198). -/

namespace Sys2Proof.Machine

/-- A packet of more than 16 KiB finds no room in a retry buffer (R177). -/
theorem State.canSend_long (s : State) {o : Outgoing} (hv : o.vc ≠ 0) (hlong : 16384 < pktBytes o.body) : s.canSend [o] = false := by
  have hfull : ¬ retryBytes s.core.link + pktBytes o.body ≤ 16384 := by omega
  simp [State.canSend, hv, hfull]

/-- The only lease of the tile in focus has been recalled, and nothing is in the fabric. -/
def State.recalledOnly (s : State) (l : Lease) : State := { s with net := [], tile := { s.tile with leases := [{ l with recalled := true }] } }

theorem State.recallArrived_noRoom {s : State} {l : Lease} {q : Packet} (hleases : s.tile.leases = [l]) (hnet : s.net = [])
    (hsrc : q.src = .tile l.x l.y) (hlong : 16384 < pktBytes (writeBackOf l).body) :
    s.recallArrived q l.sector = s.recalledOnly l := by
  have hroom (u : State) : u.canSend [writeBackOf { l with recalled := true }] = false := u.canSend_long (by decide : (1 : Fin 8) ≠ 0) hlong
  simp [State.recallArrived, hleases, hsrc, routerOf, State.returnRecalled, hroom, State.recalledOnly, hnet]

section
variable {s : State} {l : Lease} {q : Packet} {x y : Nat} (hsel : s.sel = .stage) (hid : s.tile.id = .grid x y) (hclear : s.meshClear)
  (hhaw : s.hawser = false) (hnet : s.net = [q]) (hv : q.vc = 7) (hhop : q.hop = none) (hdst : q.dst = .tile x y)
  (hbody : q.body = .recall l.sector) (hregion : regionOfEnd q.src = regionOfEnd q.dst)
include hsel hid hclear hhaw hnet hv hhop hdst hbody hregion

/-- A recall within the region goes to its tile in one move. -/
theorem State.packetEvent_recall {u : State} (hu : State.recallArrived { s with net := [] } (landed q) l.sector = u)
    (h1 : u.tile.id = s.tile.id) (h2 : u.sel = s.sel) : s.packetEvent q true = .next u := by
  have hcalm : s.calm = true := hclear
  have hrelay : relays q = false := by simp [relays, hregion]; cases q.src <;> simp
  have henters : s.entersRegion q = false := by
    rw [State.entersRegion, if_pos hcalm, legSrc, legDst, hrelay, hhop, hregion]
    simp
  have hdeliver : State.deliver { s with net := [] } (landed q) = u := by
    have hv' : (landed q).vc = 7 := hv
    have hd' : (landed q).dst = .tile x y := hdst
    have hb' : (landed q).body = .recall l.sector := hbody
    simp only [State.deliver, hv', State.responseTile, hd', hb']
    subst hu
    exact State.atCore_self (s := { s with net := [] }) (f := fun s => s.recallArrived (landed q) l.sector) hid hsel h1 h2
  have hcarry : s.carry q = u := by
    have herase : s.net.erase q = [] := by simp [hnet]
    simp only [State.carry, State.journeyOf, hcalm, if_true, henters, Bool.false_and, Bool.false_eq_true, if_false, State.endLeg, hrelay, herase,
      hdeliver]
  simp [State.packetEvent, hhaw, hnet, hcarry, hrelay]

/-- A recall of a lease that finds no room for its return leaves it in the lease store. -/
theorem exec_leaseRecall_noRoom (hleases : s.tile.leases = [l]) (hsrc : q.src = .tile l.x l.y)
    (hlong : 16384 < pktBytes (writeBackOf l).body) : exec (.leaseRecall l.x l.y l.sector) s = .next (s.recalledOnly l) := by
  have hfind : (s.net.find? fun p => p.vc == 7 && p.src == .tile l.x l.y && p.dst == s.tile.id.endpoint && p.body == .recall l.sector) = some q := by
    simp [hnet, hv, hsrc, hdst, hid, TileId.endpoint, hbody]
  have hexec : exec (.leaseRecall l.x l.y l.sector) s = s.packetEvent q true := by
    show execLeaseRecall l.x l.y l.sector s = _
    simp only [execLeaseRecall, hfind]
  have harrived : State.recallArrived { s with net := [] } (landed q) l.sector = s.recalledOnly l :=
    State.recallArrived_noRoom (s := { s with net := [] }) (q := landed q) hleases rfl hsrc hlong
  exact hexec.trans (State.packetEvent_recall hsel hid hclear hhaw hnet hv hhop hdst hbody hregion harrived rfl rfl)

end

/-! ### The counterexample -/

/-- A lease of the last sector of the tile (2, 0) with 16 KiB of bytes, where a sector has 32. -/
def longLease : Lease := { x := 2, y := 0, sector := 16383, bytes := List.replicate 16384 0, bad := false }

/-- The recall of that lease. -/
def longRecall : Packet :=
  { vc := 7, dst := .tile 0 0, dcore := .stage, src := .tile 2 0, score := .stage, shnd := 7, ctx := 1, ttag := 1, part := 0, seq := 0,
    opn := false, age := 0, gen := 0, ent := 8, req := 0, avc := 0, body := .recall 16383 }

/-- The tile (0, 0) with the lease, and the recall in the fabric. -/
def longState : State := { tile := { owned := true, leases := [longLease] }, net := [longRecall] }

theorem longLease_long : 16384 < pktBytes (writeBackOf longLease).body := by
  have hlen : Body.size (writeBackOf longLease).body = 16384 := List.length_replicate
  simp only [pktBytes, hlen]
  omega

end Sys2Proof.Machine

namespace Sys2Proof
open Machine

/-- Refutes O23: in its last clause nothing holds the bytes of the lease to the 32 of a sector (R197). A lease of 16,384 bytes finds no room in
the retry buffer of R177, so that its recall leaves it in the lease store, which the statement asks to be empty. -/
theorem not_atomicsAndLeasesAtHome : ¬ Obligations.AtomicsAndLeasesAtHome := by
  rintro ⟨-, -, hrecall⟩
  have hregion : regionOfEnd longRecall.src = regionOfEnd longRecall.dst := by decide
  obtain ⟨t, r, hexec, hempty, -⟩ := hrecall longState longLease longRecall 0 0 rfl rfl rfl rfl rfl ⟨rfl, rfl, rfl⟩ rfl rfl rfl rfl rfl hregion
  have hkept : exec (.leaseRecall 2 0 16383) longState = .next (longState.recalledOnly longLease) :=
    exec_leaseRecall_noRoom (l := longLease) rfl rfl rfl rfl rfl rfl rfl rfl rfl hregion rfl rfl longLease_long
  obtain rfl := Host.Outcome.next.inj (hkept.symm.trans hexec)
  exact absurd hempty (List.cons_ne_nil _ _)

end Sys2Proof
end

section
/-! SUPPORT. PHNEW on a core with nothing in flight (08 R202, R207). -/

namespace Sys2Proof.Machine

/-! ### The identifier (R202) -/

/-- The fields of a tile phaser's identifier. -/
theorem phaserId_fields (home : W32) (i : Fin 8) (sc : Scope) (gen : BitVec 8) :
    phValid (phaserId home i.val 0 0 false sc gen) = true ∧ phSlot (phaserId home i.val 0 0 false sc gen) = i.val ∧
      phEng (phaserId home i.val 0 0 false sc gen) = false ∧ phHome (phaserId home i.val 0 0 false sc gen) = home ∧
      phGen (phaserId home i.val 0 0 false sc gen) = gen.toNat := by
  have hhome : home.toNat < 4294967296 := home.isLt
  have hi : i.val < 8 := i.isLt
  have hsc : scopeCode sc < 5 := by cases sc <;> decide
  have hgen : gen.toNat < 256 := gen.isLt
  have hval : (phaserId home i.val 0 0 false sc gen).toNat = home.toNat + 4294967296 * i.val + 4503599627370496 * scopeCode sc +
      36028797018963968 * gen.toNat + 9223372036854775808 := by
    simp only [phaserId, BitVec.toNat_ofNat, Bool.false_eq_true, if_false]
    omega
  generalize phaserId home i.val 0 0 false sc gen = id at hval
  refine ⟨?_, ?_, ?_, ?_, ?_⟩
  · simp only [phValid, BitVec.getLsbD, hval, Nat.testBit_eq_decide_div_mod_eq, decide_eq_true_eq]
    omega
  · simp only [phSlot, extract_toNat, BitVec.toNat_ushiftRight, Nat.shiftRight_eq_div_pow, hval]
    omega
  · simp only [phEng, BitVec.getLsbD, hval, Nat.testBit_eq_decide_div_mod_eq, decide_eq_false_iff_not]
    omega
  · apply BitVec.eq_of_toNat_eq
    simp only [phHome, BitVec.truncate_eq_setWidth, BitVec.toNat_setWidth, hval]
    omega
  · simp only [phGen, extract_toNat, BitVec.toNat_ushiftRight, Nat.shiftRight_eq_div_pow, hval]
    omega

/-! ### The new phaser -/

/-- The identifier of a new phaser in slot i. -/
def State.newId (s : State) (i : Fin 8) (sc mode : Nat) : Word :=
  phaserId s.tile.hnd i.val 0 0 false (scopeOf sc) (newPhaser s.tile.phasers[i] s (scopeOf sc) mode).gen

/-- Slot i holds the new phaser, and its creator is registered where the mode says so. -/
def State.created (s : State) (i : Fin 8) (sc mode : Nat) : State :=
  { s with
    tile := { s.tile with phasers := vput s.tile.phasers i (newPhaser s.tile.phasers[i] s (scopeOf sc) mode) }
    core := if mode == 0 then s.core else s.core.join (s.newId i sc mode) (phModeOf mode) 0 }

theorem State.created_core (s : State) (i : Fin 8) (sc mode : Nat) : (s.created i sc mode).core.npc = s.core.npc ∧
    (∀ r, (s.created i sc mode).core.S r = s.S r) ∧
    (s.created i sc mode).core.members.length = s.core.members.length + if mode = 0 then 0 else 1 := by
  by_cases hmode : mode = 0 <;> simp [State.created, hmode, Core.join, Core.S, State.S]

theorem State.created_phaser (s : State) (i : Fin 8) (sc mode : Nat) : (s.created i sc mode).tile.phasers[i].inUse = true ∧
    (s.created i sc mode).tile.phasers[i].phase = 0 ∧ (s.created i sc mode).tile.phasers[i].gen = s.tile.phasers[i].gen + 1 ∧
    (s.created i sc mode).tile.phasers[i].members.length = if mode = 0 then 0 else 1 := by
  have hslot : (s.created i sc mode).tile.phasers[i] = newPhaser s.tile.phasers[i] s (scopeOf sc) mode := vput_same ..
  rw [hslot]
  by_cases hmode : mode = 0 <;> simp [newPhaser, hmode]

/-- What a PHNEW with a free slot leaves. -/
theorem State.created_reads (s : State) (d : SReg) (i : Fin 8) (sc mode : Nat) :
    let t := (s.created i sc mode).result d (s.newId i sc mode)
    t.core.pc = s.core.npc ∧ t.tile.phasers[i].inUse = true ∧ t.tile.phasers[i].phase = 0 ∧
      t.tile.phasers[i].gen = s.tile.phasers[i].gen + 1 ∧ t.tile.phasers[i].members.length = (if mode = 0 then 0 else 1) ∧
      t.core.members.length = s.core.members.length + (if mode = 0 then 0 else 1) ∧
      (d ≠ 0 → phValid (t.S d) = true ∧ phSlot (t.S d) = i.val ∧ phEng (t.S d) = false ∧ phHome (t.S d) = s.tile.hnd ∧
        phGen (t.S d) = (s.tile.phasers[i].gen + 1).toNat) ∧
      (∀ r, r ≠ d → t.S r = s.S r) ∧ t.tile.slice = s.tile.slice := by
  intro t
  obtain ⟨hnpc, hregs, hmembers⟩ := s.created_core i sc mode
  obtain ⟨huse, hphase, hgen, hlen⟩ := s.created_phaser i sc mode
  refine ⟨(Core.setS_npc ..).trans hnpc, huse, hphase, hgen, hlen, (congrArg List.length (Core.setS_members ..)).trans hmembers, fun hd => ?_,
    fun r hr => (Core.S_setS_ne _ _ hr).trans (hregs r), rfl⟩
  have hid : t.S d = phaserId s.tile.hnd i.val 0 0 false (scopeOf sc) (s.tile.phasers[i].gen + 1) :=
    (Core.S_setS_self _ d (s.newId i sc mode)).trans (if_neg hd)
  rw [hid]
  exact phaserId_fields ..

/-! ### The checks (R207) -/

/-- The bits of a control word that are reserved. -/
theorem reserved_eq_zero (c : Word) : c.extractLsb' 6 58 = 0 ↔ c >>> 6 = 0 := by
  rw [extract_eq_zero, shift_eq_zero, Nat.mod_eq_of_lt]
  have := c.isLt
  omega

/-- Nothing in flight fills the membership table. -/
theorem Core.still_tableWaits {c : Core} (h : c.still = true) : c.tableWaits = false := by
  have hnone : c.registering = 0 := by
    simp only [Core.registering, List.length_eq_zero_iff, List.filter_eq_nil_iff]
    intro e he
    simp [(Core.still_parts h).1 e he]
  simp only [Core.tableWaits, hnone, Nat.add_zero, Bool.and_eq_false_iff, decide_eq_false_iff_not]
  omega

section
variable {s : State} {d a : SReg} (hs : s.core.still = true)
include hs

theorem exec_phnew_reserved (hc : s.S a >>> 6 ≠ 0) : exec (.phnew d a) s = .next (s.takeTrap .bnd (s.S a) s.core.pc false) := by
  have hres : ((s.S a).extractLsb' 6 58 != (0 : BitVec 58)) = true := bne_iff_ne.2 fun h => hc ((reserved_eq_zero _).1 h)
  have hexec : exec (.phnew d a) s = execPhnew d a s := rfl
  simp only [hexec, execPhnew, Core.still_ready hs, Core.still_acquiring hs, hres, Bool.or_true, Bool.true_or, Bool.not_true, Bool.false_eq_true,
    if_false, if_true, State.trapB_bnd]

variable (hc : s.S a >>> 6 = 0)
include hc

omit hs in
/-- A control word without reserved bits passes the checks of its scope. -/
theorem control_passes (hsc : (s.S a).toNat % 8 ≤ if (s.S a).getLsbD 3 then 4 else 2) : (decide (4 < (s.S a).toNat % 8) ||
    (s.S a).extractLsb' 6 58 != (0 : BitVec 58) || (!(s.S a).getLsbD 3 && decide (2 < (s.S a).toNat % 8))) = false := by
  rw [(reserved_eq_zero _).2 hc]
  cases heng : (s.S a).getLsbD 3 <;> simp only [heng, Bool.false_eq_true, if_false, if_true] at hsc <;> simp <;> omega

/-- Bit 3 asks the quay for a phaser of an engine. -/
theorem exec_phnew_engine (heng : (s.S a).getLsbD 3 = true) (hsc : (s.S a).toNat % 8 ≤ 4) (hroom : s.core.members.length < 8) :
    exec (.phnew d a) s = s.askQuay (.phnew d a) 10 (s.S a) 0 := by
  have hpass := control_passes hc (by rw [heng]; exact hsc)
  rw [heng, Bool.not_true] at hpass
  have hexec : exec (.phnew d a) s = execPhnew d a s := rfl
  simp only [hexec, execPhnew, Core.still_ready hs, Core.still_acquiring hs, heng, hpass, Core.still_tableWaits hs, Nat.not_le.2 hroom,
    decide_false, Bool.and_false, Bool.not_true, Bool.false_eq_true, if_false, if_true]

variable (heng : (s.S a).getLsbD 3 = false) (hsc : (s.S a).toNat % 8 ≤ 2)
include heng hsc

theorem exec_phnew_full (hnone : s.tile.freePhaser = none) : exec (.phnew d a) s = .next (s.result d 0) := by
  have hpass := control_passes hc (by rw [heng]; exact hsc)
  rw [heng] at hpass
  have hexec : exec (.phnew d a) s = execPhnew d a s := rfl
  simp only [hexec, execPhnew, Core.still_ready hs, Core.still_acquiring hs, heng, hpass, Core.still_tableWaits hs, hnone,
    Bool.and_false, Bool.not_true, Bool.false_eq_true, if_false, State.result]

theorem exec_phnew_slot {i : Fin 8} (hi : s.tile.freePhaser = some i) (hroom : s.core.members.length < 8) : exec (.phnew d a) s =
    .next ((s.created i ((s.S a).toNat % 8) ((s.S a).toNat / 16 % 4)).result d (s.newId i ((s.S a).toNat % 8) ((s.S a).toNat / 16 % 4))) := by
  have hpass := control_passes hc (by rw [heng]; exact hsc)
  rw [heng] at hpass
  have hexec : exec (.phnew d a) s = execPhnew d a s := rfl
  simp only [hexec, execPhnew, Core.still_ready hs, Core.still_acquiring hs, heng, hpass, Core.still_tableWaits hs, hi, Nat.not_le.2 hroom,
    decide_false, Bool.and_false, Bool.not_true, Bool.false_eq_true, if_false, State.result, State.created, State.newId]

end

end Sys2Proof.Machine
end

section
/-! SUPPORT. The other phaser instructions of a core with nothing in flight (08 R208-R212). -/

namespace Sys2Proof.Machine

/-! ### Requests to the home tile (R212) -/

/-- A phaser request to a tile. -/
def phaserTo (k : Placed) (ent : Nat) (b : Body) : Outgoing := { dst := .tile k.x k.y, vc := 1, ent := ent, body := b }

/-- An arrival of the member m of the phaser id at its arrival phase (R211). -/
def State.arrival (s : State) (id : Word) (m : Member) (rel leave : Bool) : Body := .phArrive (s.phReq id m.mode m.ap rel leave 8)

/-- The wait of entry 0 for phase q (R211). -/
def State.waitFor (s : State) (id : Word) (m : Member) (q : BitVec 16) : Body := .phWait (s.phReq id m.mode q false false (s.entReq 0))

/-- A registration with the mode w2 that entry 0 waits for (R208). -/
def State.registration (s : State) (id w2 : Word) : Body := .phReg (s.phReq id (phModeOf w2.toNat) 0 false false (s.entReq 0))

/-- A query that entry 0 waits for (R210). -/
def State.query (s : State) (id : Word) : Body := .phQry (s.phReq id .w 0 false false (s.entReq 0))

/-- The number of the request has been used. -/
def State.bumped (s : State) : State := { s with core := bumpReq s.core }

section
variable {s : State} (hl : s.linkFree) (k : Placed)
include hl

/-- An arrival leaves under a request number of its own. -/
theorem State.phSend_arrival (r : PhReq) (f : State → Out) :
    s.phSend (.tile k.x k.y) [.phArrive r] 8 f = f (s.sentFirst (phaserTo k 8 (.phArrive r))).bumped := by
  have hsend := State.send_first hl (o := phaserTo k 8 (.phArrive r)) (by decide : (1 : Fin 8) ≠ 0) (by simp [phaserTo, pktBytes, Body.size])
  exact hsend fun s => f s.bumped

/-- A request that entry 0 waits for. -/
theorem State.phSend_request {b : Body} (hb : ∀ r, b ≠ .phArrive r) (hsize : pktBytes b ≤ 16384) (f : State → Out) :
    s.phSend (.tile k.x k.y) [b] (0 : Fin 8).val f = f (s.sentFirst (phaserTo k 0 b)) := by
  have hsend := State.send_first hl (o := phaserTo k 0 b) (by decide : (1 : Fin 8) ≠ 0) hsize f
  cases b with
  | phArrive r => exact absurd rfl (hb r)
  | _ => exact hsend

/-- An arrival and the wait behind it. -/
theorem State.phSend_both (r v : PhReq) (f : State → Out) : s.phSend (.tile k.x k.y) [.phArrive r, .phWait v] (0 : Fin 8).val f =
    f (s.sentBoth (phaserTo k 8 (.phArrive r)) (phaserTo k 0 (.phWait v))) :=
  State.send_both hl (o := phaserTo k 8 (.phArrive r)) (o' := phaserTo k 0 (.phWait v)) (by decide : (1 : Fin 8) ≠ 0) rfl rfl rfl
    (by simp [phaserTo, pktBytes, Body.size]) f

end

/-! ### The instructions (R208-R211) -/

/-- The core in focus has the membership m in place of the one of the same phaser. -/
def State.withMember (s : State) (m : Member) : State := { s with core := s.core.setMember m }

/-- The core in focus has no membership of the phaser. -/
def State.withoutMember (s : State) (id : Word) : State :=
  { s with core := { s.core with members := s.core.members.filter fun k => k.id != id } }

/-- The core in focus waits in entry 0 for the phase q. -/
def State.phWaiting (s : State) (i : Instr) (id : Word) (q : BitVec 16) (acq : Bool) : State := (s.phWaitEntry i id q acq 0).retire

theorem State.phWaiting_entry (s : State) (i : Instr) (id : Word) (q : BitVec 16) (acq : Bool) :
    (s.phWaiting i id q acq).core.rq[(0 : Fin 8)] = s.waitEntry i id (q.zeroExtend 64) s.core.link.req acq := vput_same ..

/-- The core in focus waits in entry 0 for an answer of the home. -/
def State.phAsking (s : State) (i : Instr) (id w2 : Word) : State :=
  State.retire { s with core := bumpReq (s.core.setEntry 0 { s.newEntry i 7 id w2 with fabric := true, req := s.core.link.req }) }

theorem State.phAsking_entry (s : State) (i : Instr) (id w2 : Word) : (s.phAsking i id w2).core.rq[(0 : Fin 8)] =
    { s.newEntry i 7 id w2 with fabric := true, req := s.core.link.req } := vput_same ..

section
variable {s : State} {d a b : SReg} {o : Option Order} (hs : s.core.still = true)
include hs

/-- Without a membership an arrival or a wait takes BND. -/
theorem exec_phaser_stranger (hm : s.core.members = []) : ∀ i ∈ [Instr.pharr d a o, .phdrop d a, .phwait d a o, .phaw d a o],
    exec i s = .next (s.takeTrap .bnd (s.S a) s.core.pc false) := by
  have hnone : s.core.member (s.S a) = none := by simp [Core.member, hm]
  have htrap {l : List SReg} : (if !s.core.ready l then s.stall else s.trapB .bnd (s.S a)) =
      .next (s.takeTrap .bnd (s.S a) s.core.pc false) := by
    rw [Core.still_ready hs, State.trapB_bnd]; rfl
  intro i hi
  simp only [List.mem_cons, List.not_mem_nil, or_false] at hi
  rcases hi with rfl | rfl | rfl | rfl <;> refine Eq.trans ?_ (htrap (l := [d, a]))
  · show execPharr d a o s = _
    simp only [execPharr, hnone]
  · show execPhdrop d a s = _
    simp only [execPhdrop, hnone]
  · show execPhwait d a o s = _
    simp only [execPhwait, hnone]
  · show execPhaw d a o s = _
    simp only [execPhaw, hnone]

variable (hl : s.linkFree) {k : Placed} (hk : s.phPlace (s.S a) = some (.tile k.x k.y))
include hl hk

/-- A registration asks the home (R208). -/
theorem exec_phreg (hm : s.core.members = []) (hv : phValid (s.S a) = true) (hb : s.S b = 1 ∨ s.S b = 2 ∨ s.S b = 3) :
    exec (.phreg d a b) s = .next ((s.sentFirst (phaserTo k 0 (s.registration (s.S a) (s.S b)))).phAsking (.phreg d a b) (s.S a) (s.S b)) := by
  have hmode : ((s.S b).extractLsb' 2 62 != (0 : BitVec 62) || s.S b == 0) = false := by
    rcases hb with h | h | h <;> rw [h] <;> decide
  have hnone : s.core.member (s.S a) = none := by simp [Core.member, hm]
  have hroom : s.core.members.length < 8 := by simp [hm]
  have hsend := State.phSend_request hl k (b := s.registration (s.S a) (s.S b))
    (fun _ h => nomatch h) (by simp [State.registration, pktBytes, Body.size])
  have hexec : exec (.phreg d a b) s = execPhreg d a b s := rfl
  simp only [hexec, execPhreg, Core.still_ready hs, Core.still_acquiring hs, hmode, hnone, Nat.not_le.2 hroom, hv, Core.still_tableWaits hs, hk,
    State.withEntry, Core.still_free hs, Option.isSome_none, decide_false, Bool.not_true, Bool.or_self, Bool.false_eq_true, if_false]
  exact hsend _

/-- A query asks the home (R210). -/
theorem exec_phqry (hv : phValid (s.S a) = true) : exec (.phqry d a) s =
    .next ((s.sentFirst (phaserTo k 0 (s.query (s.S a)))).phAsking (.phqry d a) (s.S a) 0) := by
  have hsend := State.phSend_request hl k (b := s.query (s.S a)) (fun _ h => nomatch h)
    (by simp [State.query, pktBytes, Body.size])
  have hexec : exec (.phqry d a) s = execPhqry d a s := rfl
  simp only [hexec, execPhqry, Core.still_ready hs, Core.still_acquiring hs, hv, hk, State.withEntry, Core.still_free hs, Bool.not_true,
    Bool.false_eq_true, if_false, if_true]
  exact hsend _

variable {m : Member} (hm : s.core.member (s.S a) = some m)
include hm

/-- PHARR sends its arrival and goes on to the next phase (R211). -/
theorem exec_pharr (hmode : m.mode ≠ .w) : ∃ rel, exec (.pharr d a o) s =
    .next (((s.sentFirst (phaserTo k 8 (s.arrival (s.S a) m rel false))).bumped.withMember
      { m with ap := m.ap + 1 }).result d (m.ap.zeroExtend 64)) := by
  refine ⟨o.getD .rel != .rlx, ?_⟩
  have hexec : exec (.pharr d a o) s = execPharr d a o s := rfl
  simp only [hexec, execPharr, Core.still_ready hs, Core.still_acquiring hs, State.still_releaseReady hs, hm, hk, beq_eq_false_iff_ne.2 hmode,
    State.phSend_arrival hl, Bool.not_true, Bool.and_false, Bool.or_self, Bool.false_eq_true, if_false]
  rfl

/-- PHDROP sends its last arrival and leaves (R209). -/
theorem exec_phdrop : exec (.phdrop d a) s =
    .next (((s.sentFirst (phaserTo k 8 (s.arrival (s.S a) m (m.mode != .w) true))).bumped.withoutMember (s.S a)).result d
      ((if m.mode = .w then m.wp else m.ap).zeroExtend 64)) := by
  have hphase : (if m.mode != .w then m.ap else m.wp) = if m.mode = .w then m.wp else m.ap := by
    by_cases hw : m.mode = .w <;> simp [hw]
  have hexec : exec (.phdrop d a) s = execPhdrop d a s := rfl
  simp only [hexec, execPhdrop, Core.still_ready hs, Core.still_acquiring hs, State.still_releaseReady hs, hm, hk,
    State.phSend_arrival hl, hphase, Bool.not_true, Bool.and_false, Bool.or_self, Bool.false_eq_true, if_false]
  rfl

/-- PHWAIT asks for the completion of its wait phase (R211). -/
theorem exec_phwait (hmode : m.mode = .w ∨ (m.mode = .sw ∧ m.wp ≠ m.ap)) : ∃ acq, exec (.phwait d a o) s =
    .next (((s.sentFirst (phaserTo k 0 (s.waitFor (s.S a) m m.wp))).withMember
      { m with wp := m.wp + 1 }).phWaiting (.phwait d a o) (s.S a) m.wp acq) := by
  refine ⟨o.getD .acq != .rlx, ?_⟩
  have hmay : (m.mode == .s || (m.mode == .sw && m.wp == m.ap)) = false := by
    rcases hmode with h | ⟨h, hne⟩
    · simp [h]
    · simp [h, hne]
  have hsend := State.phSend_request hl k (b := s.waitFor (s.S a) m m.wp) (fun _ h => nomatch h)
    (by simp [State.waitFor, pktBytes, Body.size])
  have hexec : exec (.phwait d a o) s = execPhwait d a o s := rfl
  simp only [hexec, execPhwait, Core.still_ready hs, Core.still_acquiring hs, hm, hmay, hk, State.withEntry, Core.still_free hs, Bool.not_true,
    Bool.false_eq_true, if_false]
  exact hsend _

/-- PHAW arrives and asks for the completion of the same phase (R211). -/
theorem exec_phaw (hmode : m.mode = .sw) : ∃ rel acq, exec (.phaw d a o) s =
    .next (((s.sentBoth (phaserTo k 8 (s.arrival (s.S a) m rel false))
      (phaserTo k 0 (s.waitFor (s.S a) m m.ap))).withMember
      { m with ap := m.ap + 1, wp := m.ap + 1 }).phWaiting (.phaw d a o) (s.S a) m.ap acq) := by
  refine ⟨o.getD .ar == .rel || o.getD .ar == .ar, o.getD .ar == .acq || o.getD .ar == .ar, ?_⟩
  have hexec : exec (.phaw d a o) s = execPhaw d a o s := rfl
  have hboth : (m.mode != .sw) = false := by rw [hmode]; rfl
  simp only [hexec, execPhaw, Core.still_ready hs, Core.still_acquiring hs, State.still_releaseReady hs, hm, hboth, hk, State.withEntry,
    Core.still_free hs, Bool.not_true, Bool.and_false, Bool.or_self, Bool.false_eq_true, if_false]
  exact State.phSend_both hl k _ _ _

end

/-! ### What they leave behind -/

theorem Core.setMember_only {c : Core} {m n : Member} (hc : c.members = [m]) (hn : n.id = m.id) : (c.setMember n).members = [n] := by
  simp [Core.setMember, hc, hn]

/-- The membership n has taken the place of m, and entry 0 waits. -/
theorem State.phWaiting_reads {u : State} {m n : Member} (hu : u.core.members = [m]) (hn : n.id = m.id) (i : Instr) (id : Word) (q : BitVec 16)
    (acq : Bool) : let t := (u.withMember n).phWaiting i id q acq
    t.core.members = [n] ∧ t.core.rq[(0 : Fin 8)].v = true ∧ t.core.rq[(0 : Fin 8)].kind = 6 ∧ t.core.rq[(0 : Fin 8)].w1 = id ∧
      t.core.rq[(0 : Fin 8)].w2 = q.zeroExtend 64 ∧ t.core.pc = u.core.npc ∧ t.net = u.net := by
  intro t
  have hen : t.core.rq[(0 : Fin 8)] = _ := (u.withMember n).phWaiting_entry i id q acq
  rw [hen]
  exact ⟨Core.setMember_only (c := u.core) hu hn, rfl, rfl, rfl, rfl, rfl, rfl⟩

/-- A bundle that has changed a membership writes one scalar. -/
theorem State.result_reads (u : State) (d : SReg) (v : Word) : (u.result d v).core.members = u.core.members ∧
    (u.result d v).S d = (if d = 0 then 0 else v) ∧ (∀ q, q ≠ d → (u.result d v).S q = u.S q) ∧ (u.result d v).core.pc = u.core.npc ∧
    (u.result d v).net = u.net :=
  ⟨Core.setS_members .., Core.S_setS_self .., fun _ hq => Core.S_setS_ne _ _ hq, Core.setS_npc .., rfl⟩

/-- The completion of the phase reaches the wait of entry 0, and d gets the phase (R211, R214). -/
theorem exec_phaserRelease_waiting {s : State} {d a : SReg} {o : Option Order} {id : Word} {q : BitVec 16} {acq : Bool}
    (hstop : s.core.stopped = false) (hfwd : s.core.tr.fwd = none) (hup : s.core.upset = 0) :
    ∃ u, exec (.phaserRelease 0 q) (s.phWaiting (.phwait d a o) id q acq) = .next u ∧ u.core.rq[(0 : Fin 8)].v = false ∧
      u.S d = if d = 0 then 0 else q.zeroExtend 64 := by
  have hen := s.phWaiting_entry (.phwait d a o) id q acq
  have hends := State.settleWord_ends (d := d) ⟨fun _ _ _ => rfl, rfl⟩ hen rfl hstop hfwd hup (q.zeroExtend 64)
  have hexec (t : State) : exec (.phaserRelease 0 q) t = execPhaserRelease 0 q t := rfl
  refine ⟨_, ?_, hends⟩
  simp only [hexec, execPhaserRelease, hen, State.waitEntry, State.newEntry, beq_self_eq_true, Bool.and_self, if_true]

/-! ### The clauses of a member -/

section
variable {s : State} {d a : SReg} {o : Option Order} {k : Placed} {m : Member} (hs : s.core.still = true) (hl : s.linkFree)
  (hk : s.phPlace (s.S a) = some (.tile k.x k.y)) (hone : s.core.members = [m]) (hid : m.id = s.S a)
include hs hl hk hone hid

omit hs hl hk in
theorem Core.member_only : s.core.member (s.S a) = some m := by simp [Core.member, hone, hid]

theorem pharr_arrives (hmode : m.mode ≠ .w) : ∃ t p r, exec (.pharr d a o) s = .next t ∧ t.net = s.net ++ [p] ∧ p.dst = .tile k.x k.y ∧
    p.vc = 1 ∧ p.body = .phArrive r ∧ r.phase = m.ap ∧ r.leave = false ∧ t.core.members = [{ m with ap := m.ap + 1 }] ∧
    t.S d = (if d = 0 then 0 else m.ap.zeroExtend 64) ∧ (∀ q, q ≠ d → t.S q = s.S q) ∧ t.core.pc = s.core.npc := by
  obtain ⟨rel, hexec⟩ := exec_pharr (d := d) (o := o) hs hl hk (Core.member_only hone hid) hmode
  generalize hu : (s.sentFirst (phaserTo k 8 (s.arrival (s.S a) m rel false))).bumped = u at hexec
  obtain ⟨hmem, hd, hregs, hpc, hnet⟩ := (u.withMember { m with ap := m.ap + 1 }).result_reads d (m.ap.zeroExtend 64)
  have huone : u.core.members = [m] := by rw [← hu]; exact hone
  refine ⟨_, s.firstPkt (phaserTo k 8 (s.arrival (s.S a) m rel false)), _, hexec, hnet.trans ?_, rfl, rfl, rfl, rfl, rfl,
    hmem.trans (Core.setMember_only huone rfl), hd, fun q hq => (hregs q hq).trans ?_, hpc.trans ?_⟩ <;> (rw [← hu]; rfl)

theorem phdrop_leaves : ∃ t p r, exec (.phdrop d a) s = .next t ∧ t.net = s.net ++ [p] ∧ p.dst = .tile k.x k.y ∧ p.body = .phArrive r ∧
    r.leave = true ∧ r.phase = m.ap ∧ t.core.members = [] ∧
    t.S d = (if d = 0 then 0 else (if m.mode = .w then m.wp else m.ap).zeroExtend 64) ∧ t.core.pc = s.core.npc := by
  have hexec := exec_phdrop (d := d) hs hl hk (Core.member_only hone hid)
  generalize hu : (s.sentFirst (phaserTo k 8 (s.arrival (s.S a) m (m.mode != .w) true))).bumped = u at hexec
  obtain ⟨hmem, hd, -, hpc, hnet⟩ := (u.withoutMember (s.S a)).result_reads d ((if m.mode = .w then m.wp else m.ap).zeroExtend 64)
  have hgone : (u.withoutMember (s.S a)).core.members = [] := by
    have huone : u.core.members = [m] := by rw [← hu]; exact hone
    simp [State.withoutMember, huone, hid]
  refine ⟨_, s.firstPkt (phaserTo k 8 (s.arrival (s.S a) m (m.mode != .w) true)), _, hexec, hnet.trans ?_, rfl, rfl,
    rfl, rfl, hmem.trans hgone, hd, hpc.trans ?_⟩ <;> (rw [← hu]; rfl)

theorem phwait_waits (hmode : m.mode = .w ∨ (m.mode = .sw ∧ m.wp ≠ m.ap)) : ∃ t p r, exec (.phwait d a o) s = .next t ∧
    t.net = s.net ++ [p] ∧ p.dst = .tile k.x k.y ∧ p.body = .phWait r ∧ r.phase = m.wp ∧ t.core.members = [{ m with wp := m.wp + 1 }] ∧
    t.core.rq[(0 : Fin 8)].v = true ∧ t.core.rq[(0 : Fin 8)].kind = 6 ∧ t.core.rq[(0 : Fin 8)].w1 = s.S a ∧
    t.core.rq[(0 : Fin 8)].w2 = m.wp.zeroExtend 64 ∧ t.core.pc = s.core.npc ∧
    (s.core.stopped = false → s.core.tr.fwd = none → ∃ u, exec (.phaserRelease 0 m.wp) t = .next u ∧
      u.core.rq[(0 : Fin 8)].v = false ∧ u.S d = (if d = 0 then 0 else m.wp.zeroExtend 64)) := by
  obtain ⟨acq, hexec⟩ := exec_phwait (d := d) (o := o) hs hl hk (Core.member_only hone hid) hmode
  obtain ⟨hmem, hv, hkind, hw1, hw2, hpc, hnet⟩ := State.phWaiting_reads
    (u := s.sentFirst (phaserTo k 0 (s.waitFor (s.S a) m m.wp))) (n := { m with wp := m.wp + 1 }) hone rfl (.phwait d a o) (s.S a) m.wp acq
  have hup : s.core.upset = 0 := Core.still_upset hs
  exact ⟨_, _, _, hexec, hnet, rfl, rfl, rfl, hmem, hv, hkind, hw1, hw2, hpc,
    fun hstop hfwd => exec_phaserRelease_waiting hstop hfwd hup⟩

theorem phaw_arrives_and_waits (hmode : m.mode = .sw) : ∃ t p q r v, exec (.phaw d a o) s = .next t ∧ t.net = s.net ++ [p, q] ∧
    p.body = .phArrive r ∧ q.body = .phWait v ∧ r.phase = m.ap ∧ v.phase = m.ap ∧
    t.core.members = [{ m with ap := m.ap + 1, wp := m.ap + 1 }] ∧ t.core.rq[(0 : Fin 8)].kind = 6 ∧
    t.core.rq[(0 : Fin 8)].w2 = m.ap.zeroExtend 64 ∧ t.core.pc = s.core.npc := by
  obtain ⟨rel, acq, hexec⟩ := exec_phaw (d := d) (o := o) hs hl hk (Core.member_only hone hid) hmode
  obtain ⟨hmem, -, hkind, -, hw2, hpc, hnet⟩ := State.phWaiting_reads (u := s.sentBoth
    (phaserTo k 8 (s.arrival (s.S a) m rel false))
    (phaserTo k 0 (s.waitFor (s.S a) m m.ap))) (n := { m with ap := m.ap + 1, wp := m.ap + 1 })
    hone rfl (.phaw d a o) (s.S a) m.ap acq
  exact ⟨_, _, _, _, _, hexec, hnet, rfl, rfl, rfl, rfl, hmem, hkind, hw2, hpc⟩

end

end Sys2Proof.Machine

namespace Sys2Proof
open Machine

/-- Settles O24: each instruction sends its requests to the home tile in one bundle. -/
theorem phaserInstructionsActForTheirCore : Obligations.PhaserInstructionsActForTheirCore := by
  refine ⟨fun s d a hs => ⟨fun hc heng hsc i hi hroom => ?_, fun hc heng hsc hnone => exec_phnew_full hs hc heng hsc hnone,
    fun hc heng hsc hl hroom => ⟨_, State.asks_of_askQuay hs hl (exec_phnew_engine hs hc heng hsc hroom)⟩, fun hc => exec_phnew_reserved hs hc⟩,
    fun s d a b o m n k hs hl heng hrank => ?_⟩
  · exact ⟨_, exec_phnew_slot hs hc heng hsc hi hroom, s.created_reads d i ((s.S a).toNat % 8) ((s.S a).toNat / 16 % 4)⟩
  · have hk : s.phPlace (s.S a) = some (.tile k.x k.y) := by simp [State.phPlace, heng, hrank]
    refine ⟨fun hone hid => ?_, fun hm hv hb => ?_, fun hv => ?_, fun hm => ?_⟩
    · exact ⟨pharr_arrives hs hl hk hone hid, phdrop_leaves hs hl hk hone hid, phwait_waits hs hl hk hone hid,
        phaw_arrives_and_waits hs hl hk hone hid⟩
    · have hen := State.phAsking_entry (s.sentFirst (phaserTo k 0 (s.registration (s.S a) (s.S b)))) (.phreg d a b) (s.S a) (s.S b)
      exact ⟨_, _, _, exec_phreg hs hl hk hm hv hb, rfl, rfl, rfl, congrArg Entry.v hen, congrArg Entry.kind hen, rfl⟩
    · have hen := State.phAsking_entry (s.sentFirst (phaserTo k 0 (s.query (s.S a)))) (.phqry d a)
        (s.S a) 0
      exact ⟨_, _, _, exec_phqry hs hl hk hv, rfl, rfl, rfl, congrArg Entry.v hen, congrArg Entry.kind hen, rfl⟩
    · have hbnd := exec_phaser_stranger (d := d) (a := a) (o := o) hs hm
      exact ⟨hbnd _ (by simp), hbnd _ (by simp), hbnd _ (by simp), hbnd _ (by simp)⟩

end Sys2Proof
end

section
/-! SUPPORT. A phaser with one signalling member, at its home (08 R205, R208, R211). -/

namespace Sys2Proof.Machine

section
variable {h : Phaser} {m : PhMember} (hm : h.members = [m]) (hmode : m.mode = .sw) (hstart : m.start = h.phase) (hleft : m.left = none)
include hm hmode hstart hleft

/-- The phase of the only member completes with its arrival (rule 2). -/
theorem Phaser.completes_one : h.completes = m.arrived.contains h.phase := by
  have hcounts : m.countsFor h.phase = true := by simp [PhMember.countsFor, PhMember.signals, hmode, hstart, hleft, phDist]
  by_cases harr : h.phase ∈ m.arrived <;> simp [Phaser.completes, Phaser.nsig, Phaser.narr, hm, hcounts, harr]

theorem Phaser.settle_idle (harr : m.arrived = []) (n : Nat) : Phaser.settle n h = (h, []) := by
  have hidle : h.completes = false := by rw [Phaser.completes_one hm hmode hstart hleft, harr]; rfl
  cases n <;> simp [Phaser.settle, hidle]

/-- The phaser in its next phase, which nobody waits for. -/
def Phaser.nextPhase (h : Phaser) (m : PhMember) : Phaser :=
  { h with phase := h.phase + 1, waiters := [], pend := [], members := [{ m with arrived := [], start := h.phase + 1 }] }

omit hmode hstart in
theorem Phaser.advance_one (harr : m.arrived = [h.phase]) (hpend : h.pend = []) {w : PhReq} (hw : h.waiters = [w]) (hwp : w.phase = h.phase) :
    h.advance = (h.nextPhase m, [w]) := by
  simp [Phaser.advance, Phaser.sweep, Phaser.nextPhase, hm, hleft, harr, hpend, hw, hwp]

/-- The arrival completes the phase, ends the wait for it, and no further phase completes. -/
theorem Phaser.settle_one (hin : h.inUse = true) (harr : m.arrived = [h.phase]) (hpend : h.pend = []) {w : PhReq} (hw : h.waiters = [w])
    (hwp : w.phase = h.phase) (n : Nat) : Phaser.settle (n + 1) h = (h.nextPhase m, [w]) := by
  have hdone : h.completes = true := by rw [Phaser.completes_one hm hmode hstart hleft, harr]; simp
  have hnext : Phaser.settle n (h.nextPhase m) = (h.nextPhase m, []) :=
    Phaser.settle_idle (h := h.nextPhase m) rfl hmode rfl hleft rfl n
  simp only [Phaser.settle, hin, hdone, Phaser.advance_one hm hleft harr hpend hw hwp, hnext, Bool.and_self, if_true, List.append_nil]

section
variable {r : PhReq} {ctx ttag : Nat} (hlive : h.live r ctx ttag = true) (harr : m.arrived = [])
include hlive harr

/-- The arrival of the only member completes its phase (R205). -/
theorem Phaser.arrive_one (hphase : r.phase = h.phase) (hsame : phSame m r = true) (hr : r.mode = .sw) (hstay : r.leave = false)
    (hpend : h.pend = []) {w : PhReq} (hw : h.waiters = [w]) (hwp : w.phase = h.phase) :
    ∃ h', h.arrive r ctx ttag = (.ack, h', [w]) ∧ h'.phase = h.phase + 1 ∧ h'.waiters = [] := by
  have hin : h.inUse = true := by
    simp only [Phaser.live, Bool.and_eq_true] at hlive
    obtain ⟨⟨⟨hin, -⟩, -⟩, -⟩ := hlive
    exact hin
  have hnote : h.note r = { h with members := [{ m with arrived := [h.phase] }] } := by
    simp [Phaser.note, hm, hsame, harr, hstay, hphase]
  have hsettle := Phaser.settle_one (h := h.note r) (m := { m with arrived := [h.phase] }) (w := w) (by rw [hnote]) hmode (by rw [hnote]; exact hstart)
    hleft (by rw [hnote]; exact hin) (by rw [hnote]) (by rw [hnote]; exact hpend) (by rw [hnote]; exact hw) (by rw [hnote]; exact hwp)
    (h.pend.length + h.waiters.length + 3)
  refine ⟨(h.note r).nextPhase { m with arrived := [h.phase] }, ?_, ?_, rfl⟩
  · have hdist : phDist r.phase h.phase = 0 := by simp [phDist, hphase]
    have hfuel : (h.note r).fuel = h.pend.length + h.waiters.length + 3 + 1 := by rw [hnote]; rfl
    simp [Phaser.arrive, hlive, hr, hdist, hfuel, hsettle]
  · rw [hnote]; rfl

/-- A wait for the phase that is not complete is recorded (R211). -/
theorem Phaser.wait_one (hphase : r.phase = h.phase) (hw : h.waiters = []) :
    h.wait r ctx ttag = (.ack, { h with waiters := [r] }, []) := by
  have hdist : phDist r.phase h.phase = 0 := by simp [phDist, hphase]
  have hidle (n : Nat) : Phaser.settle n { h with waiters := [r] } = ({ h with waiters := [r] }, []) :=
    Phaser.settle_idle (h := { h with waiters := [r] }) hm hmode hstart hleft harr n
  simp [Phaser.wait, hlive, hdist, hw, hidle]

omit hmode hstart hleft in
/-- A registration before any arrival starts in the current phase (rule 3, R208). -/
theorem Phaser.register_one (heng : r.engine = false) (hadm : h.admits r = true) (hnew : phSame m r = false) :
    ∃ h', h.register r ctx ttag = (.value (h.phase.zeroExtend 64), h') ∧ h'.members.length = 2 := by
  have hnarr : h.narr h.phase = 0 := by simp [Phaser.narr, hm, harr]
  refine ⟨{ h with members := h.members ++ [{ x := r.mx, y := r.my, core := r.mcore, mode := r.mode, start := h.phase }] }, ?_, by simp [hm]⟩
  simp [Phaser.register, hlive, heng, hadm, hnew, hm, hnarr]

end

end

end Sys2Proof.Machine
end

section
/-! SUPPORT. Requests at the home tile of a phaser (08 R205, R208, R212). -/

namespace Sys2Proof.Machine

section
variable {s : State} {p : Packet}

/-- A request that is performed and answered in one move, its answer being cached where c says so. -/
theorem State.packetEvent_answers (ha : s.arrives p) (hv : p.vc = 1) {u : State} {b : Body} {c : Option Body}
    (hp : (s.without p).performTile p false = .done (u.reply p b) c) (hb : p.body ≠ .close) (hw : u.tile.windows = s.tile.windows)
    (hid : u.tile.id = s.tile.id) (hhnd : u.tile.hnd = s.tile.hnd) (hgen : u.routeGen = s.routeGen) (hsel : u.sel = s.sel) :
    s.packetEvent p true = .next ((u.notice (s.replyHere p b)).counted p c) := by
  obtain ⟨x, y, hsid, hd, htaken⟩ := State.arrives_place ha
  have hreply : u.reply p b = u.notice (s.replyHere p b) := by
    rw [State.reply_here (hid.trans hsid) hd htaken, State.replyHere_congr hgen hhnd]
  rw [hreply] at hp
  have harrive := State.arriveTile_done (s := s.without p) (State.without_waits ha).1 (State.without_waits ha).2 hp hw hb
  have hvc : p.vc.val ≠ 0 ∧ p.vc.val ≠ 2 ∧ p.vc.val ≠ 7 := by rw [hv]; decide
  exact State.packetEvent_arrives ha hvc harrive hid hsel

theorem performTile_phaser {b : Body} {r : PhReq} (hb : p.body = b) (hr : phReqOf b = some r) (seen : Bool) :
    s.performTile p seen = s.phAtHome p r := by
  cases b <;> simp_all [State.performTile, phReqOf]

/-- The home has phaser h in slot k, and the waits out have ended. -/
def State.phServed (s : State) (p : Packet) (k : Fin 8) (h : Phaser) (out : List PhReq) : State :=
  { s with
    tile := { s.tile with phasers := vput s.tile.phasers k h }
    net := s.net ++ out.map (phDone s.tile.id.endpoint s.tile.hnd p.ctx p.ttag p.part s.routeGen) }

/-- The packet's body for an answer that is given at once. -/
def PhAns.says : PhAns → Body → Prop
  | .ack, b => b = .ack false
  | .value v, b => b = .value v
  | _, _ => False

theorem State.phAtHome_says {r : PhReq} {a : PhAns} {h : Phaser} {out : List PhReq} {b : Body}
    (hserve : (s.tile.phasers[(Fin.ofNat 8 r.slot)]).serve p.body p.ctx p.ttag = (a, h, out)) (hb : a.says b) :
    s.phAtHome p r = .done ((s.phServed p (Fin.ofNat 8 r.slot) h out).reply p b) (some b) := by
  unfold State.phAtHome
  dsimp only
  rw [hserve]
  cases a with
  | ack => obtain rfl := hb; rfl
  | value v => obtain rfl := hb; rfl
  | retry => exact hb.elim
  | later => exact hb.elim

/-- A phaser request that is alone in the fabric is served as it arrives. -/
theorem State.phPacket_served (ha : s.arrives p) (hnet : s.net = [p]) (hv : p.vc = 1) {q : Body} (hq : p.body = q) {r : PhReq}
    (hr : phReqOf q = some r) {k : Fin 8} (hk : Fin.ofNat 8 r.slot = k) {a : PhAns} {h : Phaser} {out : List PhReq} {b : Body}
    (hserve : (s.tile.phasers[k]).serve q p.ctx p.ttag = (a, h, out)) (hb : a.says b) :
    ∃ t, s.phPacket q = .next t ∧ t.tile.phasers[k] = h ∧
      t.net = out.map (phDone s.tile.id.endpoint s.tile.hnd p.ctx p.ttag p.part s.routeGen) ++ [s.replyHere p b] := by
  subst hq hk
  have hdone := (performTile_phaser (s := s.without p) rfl hr false).trans (State.phAtHome_says (s := s.without p) hserve hb)
  have hevent := State.packetEvent_answers ha hv hdone (fun e => by rw [e] at hr; cases hr) rfl rfl rfl rfl rfl
  have hfind : s.phPacket p.body = s.packetEvent p true := by simp [State.phPacket, hnet]
  have herase : (s.without p).net = [] := by simp [State.without, hnet]
  refine ⟨_, hfind.trans hevent, vput_same .., ?_⟩
  show ((s.without p).net ++ _) ++ _ = _
  rw [herase]
  rfl

end

end Sys2Proof.Machine

namespace Sys2Proof
open Machine

/-- Settles O25: the phaser's answer is one of three cases of a phaser with one member, and the home gives it in one move. -/
theorem phasersCompleteAtHome : Obligations.PhasersCompleteAtHome := by
  intro s p r w m ha hnet hv heng hslot h hlive hm hmode hstart hleft harr hpend hphase hsame
  refine ⟨fun hb hr hstay hw hwp => ?_, fun hb hw => ?_, fun hb hweng hwslot hwlive hadm hnew => ?_⟩
  · obtain ⟨h', harrive, hnext, hnone⟩ := Phaser.arrive_one hm hmode hstart hleft hlive harr hphase hsame hr hstay hpend hw hwp
    have hserve : h.serve (.phArrive r) p.ctx p.ttag = (.ack, h', [w]) := harrive
    obtain ⟨t, hexec, hat, hout⟩ := State.phPacket_served ha hnet hv hb rfl rfl hserve (b := .ack false) rfl
    exact ⟨t, hexec, by rw [hat, hnext], by rw [hat, hnone], hout⟩
  · have hserve : h.serve (.phWait r) p.ctx p.ttag = (.ack, { h with waiters := [r] }, []) :=
      Phaser.wait_one hm hmode hstart hleft hlive harr hphase hw
    obtain ⟨t, hexec, hat, hout⟩ := State.phPacket_served ha hnet hv hb rfl rfl hserve (b := .ack false) rfl
    exact ⟨t, hexec, by rw [hat], by rw [hat], hout⟩
  · obtain ⟨h', hregister, hlen⟩ := Phaser.register_one hm hwlive harr hweng hadm hnew
    have hserve : h.serve (.phReg w) p.ctx p.ttag = (.value (h.phase.zeroExtend 64), h', []) := by simp only [Phaser.serve, hregister]
    obtain ⟨t, hexec, hat, hout⟩ := State.phPacket_served ha hnet hv hb rfl (by rw [hwslot]) hserve rfl
    exact ⟨t, hexec, by rw [hat, hlen], hout⟩

end Sys2Proof
end

section
/-! SUPPORT. Barriers on a core with nothing in flight (08 R215-R217). -/

namespace Sys2Proof.Machine

/-! ### Arriving -/

section
variable {s : State} {d : SReg} {sc : Scope} {ps : PhaserSet} {b : BarState}

/-- An arrival changes the episodes of barriers only. -/
theorem State.barArrive_eq (s : State) (sc : Scope) (ps : PhaserSet) (ep : BitVec 16) :
    s.barArrive sc ps ep = { s with barriers := (s.barArrive sc ps ep).barriers } := by
  unfold State.barArrive
  dsimp only
  split <;> rfl

/-- Whether an episode is complete depends on the episodes and on the tile. -/
theorem State.episodeDone_congr {t u : State} (hb : t.barriers = u.barriers) (ht : t.tile = u.tile) (ep : BitVec 16) :
    t.episodeDone sc ps ep = u.episodeDone sc ps ep := by
  simp only [State.episodeDone, State.episode, State.myInst, State.allArrived, State.participants, hb, ht]

/-- The core in focus has arrived at its episode, which is outstanding. -/
def State.atBarrier (s : State) (sc : Scope) (ps : PhaserSet) (ep : BitVec 16) : State :=
  { s with core := s.core.setBar sc ps { ep := ep + 1, out := true }, barriers := (s.barArrive sc ps ep).barriers }

theorem Core.setBar_same (c : Core) (sc : Scope) (ps : PhaserSet) (b : BarState) : (c.setBar sc ps b).bars[barIndex sc ps] = b :=
  vput_same ..

/-- The core in focus waits for the episode before that of b, which is outstanding no more. -/
def State.barred (s : State) (i : Instr) (sc : Scope) (ps : PhaserSet) (b : BarState) : State := (s.barWaitEntry i sc ps b 0).retire

theorem State.barred_entry (s : State) (i : Instr) (sc : Scope) (ps : PhaserSet) (b : BarState) : (s.barred i sc ps b).core.rq[(0 : Fin 8)] =
    s.waitEntry i (BitVec.ofNat 64 (scopeCode sc + 8 * psetCode ps)) ((b.ep - 1).zeroExtend 64) 0 true := vput_same ..

theorem State.barred_bar (s : State) (i : Instr) (sc : Scope) (ps : PhaserSet) (b : BarState) :
    (s.barred i sc ps b).core.bars[barIndex sc ps] = { b with out := false } := vput_same ..

variable (hs : s.core.still = true) (hb : s.core.bars[barIndex sc ps] = b)
include hs hb

theorem State.barGo_free (hout : b.out = false) (k : State → BarState → Out) :
    s.barGo sc ps k = k (s.atBarrier sc ps b.ep) { ep := b.ep + 1, out := true } := by
  simp only [State.barGo, hb, hout, Core.still_acquiring hs, State.still_releaseReady hs, Bool.false_and, Bool.not_true, Bool.or_self,
    Bool.false_eq_true, if_false]
  rw [State.barArrive_eq]
  rfl

/-! ### The instructions (R216) -/

section
variable (hset : psetHas ps s.sel = true)
include hset

theorem exec_bara (hout : b.out = false) : exec (.bara d sc ps) s = .next ((s.atBarrier sc ps b.ep).result d (b.ep.zeroExtend 64)) := by
  have hexec : exec (.bara d sc ps) s = execBara d sc ps s := rfl
  simp only [hexec, execBara, hset, Core.still_ready hs, State.barGo_free hs hb hout, BitVec.add_sub_cancel, Bool.not_true, Bool.false_eq_true,
    if_false, State.result]

theorem exec_bar (hout : b.out = false) :
    exec (.bar d sc ps) s = .next ((s.atBarrier sc ps b.ep).barred (.bar d sc ps) sc ps { ep := b.ep + 1, out := true }) := by
  have hexec : exec (.bar d sc ps) s = execBar d sc ps s := rfl
  simp only [hexec, execBar, hset, Core.still_ready hs, State.withEntry, Core.still_free hs, State.barGo_free hs hb hout, Bool.not_true,
    Bool.false_eq_true, if_false, State.barred]

theorem exec_barw : exec (.barw d sc ps) s =
    .next (if b.out then s.barred (.barw d sc ps) sc ps b else s.result d ((b.ep - 1).zeroExtend 64)) := by
  have hexec : exec (.barw d sc ps) s = execBarw d sc ps s := rfl
  simp only [hexec, execBarw, hset, Core.still_ready hs, Core.still_acquiring hs, hb, State.withEntry, Core.still_free hs, Bool.not_true,
    Bool.or_self, Bool.false_eq_true, if_false, State.result, State.barred]
  split <;> rfl

end

omit hb in
/-- The wait of a BAR ends once its episode is complete. -/
theorem exec_barrierRelease_bar (hstop : s.core.stopped = false) (hfwd : s.core.tr.fwd = none) {ep : BitVec 16}
    (hdone : (s.barArrive sc ps ep).episodeDone sc ps ep = true) :
    ∃ u, exec (.barrierRelease 0) ((s.atBarrier sc ps ep).barred (.bar d sc ps) sc ps { ep := ep + 1, out := true }) = .next u ∧
      u.core.rq[(0 : Fin 8)].v = false ∧ u.S d = (if d = 0 then 0 else ep.zeroExtend 64) := by
  have hen := (s.atBarrier sc ps ep).barred_entry (.bar d sc ps) sc ps { ep := ep + 1, out := true }
  rw [BitVec.add_sub_cancel] at hen
  have htile : s.tile = (s.barArrive sc ps ep).tile := by rw [State.barArrive_eq]
  have hbarriers : ((s.atBarrier sc ps ep).barred (.bar d sc ps) sc ps { ep := ep + 1, out := true }).barriers =
    (s.barArrive sc ps ep).barriers := rfl
  have hepisode := (State.episodeDone_congr (sc := sc) (ps := ps) hbarriers htile ep).trans hdone
  have hup : s.core.upset = 0 := Core.still_upset hs
  have hends := State.settleWord_ends (d := d) ⟨fun _ _ _ => rfl, rfl⟩ hen rfl hstop hfwd hup (ep.zeroExtend 64)
  have hword : (ep.zeroExtend 64).truncate 16 = ep := by simp
  have hexec (t : State) : exec (.barrierRelease 0) t = execBarrierRelease 0 t := rfl
  refine ⟨_, ?_, hends⟩
  simp only [hexec, execBarrierRelease, hen, State.waitEntry, State.newEntry, barOf, hword, hepisode, Bool.and_self, if_true]

omit hs hb in
/-- A core outside the set takes ILL (R215). -/
theorem exec_barrier_outside (hset : psetHas ps s.sel = false) :
    exec (.bara d sc ps) s = s.trapB .ill s.baseWord ∧ exec (.barw d sc ps) s = s.trapB .ill s.baseWord ∧
      exec (.bar d sc ps) s = s.trapB .ill s.baseWord :=
  have hout : (!psetHas ps s.sel) = true := by rw [hset]; rfl
  ⟨if_pos hout, if_pos hout, if_pos hout⟩

end

/-- Where every participant has arrived, the episode is complete. -/
theorem exec_barrierEpisodeComplete {s : State} {sc : Scope} {ps : PhaserSet} {ep : BitVec 16} {e : Episode}
    (he : s.episode sc ps ep = some e) (hall : s.allArrived e = true) :
    ∃ t, exec (.barrierEpisodeComplete sc ps ep) s = .next t ∧ (t.barriers.any fun c => c == { e with done := true }) = true := by
  have hexec : exec (.barrierEpisodeComplete sc ps ep) s = execBarrierEpisodeComplete sc ps ep s := rfl
  simp only [hexec, execBarrierEpisodeComplete, he, hall, if_true]
  have hmem : e ∈ s.barriers := List.mem_of_find?_eq_some he
  refine ⟨_, rfl, List.any_eq_true.2 ⟨_, List.mem_map_of_mem hmem, ?_⟩⟩
  simp

end Sys2Proof.Machine

namespace Sys2Proof
open Machine

/-- Settles O26: an arrival marks the episode as outstanding, and a wait takes it into entry 0. -/
theorem barriersMeet : Obligations.BarriersMeet := by
  intro s d sc ps b hs hb
  refine ⟨fun hset hout => ⟨?_, ?_, ?_⟩, fun hset hout => ?_, fun ep e => exec_barrierEpisodeComplete, fun hset => ?_⟩
  · refine ⟨_, exec_bara hs hb hset hout, ?_, Core.S_setS_self .., rfl, Core.setS_npc ..⟩
    exact (congrArg (·[barIndex sc ps]) (Core.setS_bars ..)).trans (Core.setBar_same ..)
  · exact (exec_barw hs hb hset).trans (by rw [hout]; rfl)
  · have hen := (s.atBarrier sc ps b.ep).barred_entry (.bar d sc ps) sc ps { ep := b.ep + 1, out := true }
    refine ⟨_, exec_bar hs hb hset hout, State.barred_bar .., congrArg Entry.v hen, congrArg Entry.kind hen,
      (congrArg Entry.w2 hen).trans (by rw [BitVec.add_sub_cancel]; rfl), rfl, fun hstop hfwd hdone => exec_barrierRelease_bar hs hstop hfwd hdone⟩
  · have hen := s.barred_entry (.barw d sc ps) sc ps b
    exact ⟨_, (exec_barw hs hb hset).trans (by rw [hout]; rfl), State.barred_bar .., congrArg Entry.v hen, congrArg Entry.kind hen, rfl⟩
  · obtain ⟨hbara, hbarw, hbar⟩ := exec_barrier_outside (d := d) (sc := sc) hset
    exact ⟨hbara.trans (State.trapB_ill ..), hbarw.trans (State.trapB_ill ..), hbar.trans (State.trapB_ill ..)⟩

end Sys2Proof
end

section
/-! SUPPORT. WAITP and the deadlines of promises (09 R231, R232). -/

namespace Sys2Proof.Machine

section
variable {s : State} {d a : SReg} {n : Fin 8}

/-- The state in which the promise of entry n is revised and MISSP is taken. -/
def State.missed (s : State) (n : Fin 8) : State :=
  let x := s.tile.copy.entries[n]
  (s.setCopy n { x with promise := s.revised x }).takeTrap .missp (promiseWord (s.revised x) n.val x.gen) s.core.pc false

theorem State.missPromise_eq (s : State) (n : Fin 8) : s.missPromise n = .next (s.missed n) :=
  State.trapB_eq _ .missp _ (by decide) (by decide)

theorem exec_waitp_comp (hsel : s.sel = .comp) : exec (.waitp d a) s = .next (s.takeTrap .ill s.core.pc s.core.pc false) :=
  State.staging_comp hsel _

/-- A deadline interrupts the WAITP that sleeps on its entry. -/
theorem exec_promiseDeadline_waiting (hbusy : (s.tile.copy.entries[n]).busy = true) (hend : (s.tile.copy.entries[n]).ended = false)
    (hcyc : (s.tile.copy.entries[n]).promise.toNat ≤ s.cyc.toNat) (hwaits : s.waitsOn n = true) :
    exec (.promiseDeadline n) s = .next (s.missed n) := by
  have hexec : exec (.promiseDeadline n) s = execPromiseDeadline n s := rfl
  simp only [hexec, execPromiseDeadline, hbusy, hend, hcyc, hwaits, decide_true, Bool.not_false, Bool.and_self, if_true, State.missPromise_eq]

section
variable (hsel : s.sel = .stage) (hr : s.core.ready [d, a] = true)
include hsel hr

/-- A word that no CPY gave takes BND. -/
theorem exec_waitp_noPromise (h : (s.S a).getLsbD 63 = false ∨ (s.S a).extractLsb' 60 3 ≠ 0) :
    exec (.waitp d a) s = .next (s.takeTrap .bnd (s.S a) s.core.pc false) := by
  have hexec : exec (.waitp d a) s = execWaitp d a s := rfl
  have hbad : (!(s.S a).getLsbD 63 || (s.S a).extractLsb' 60 3 != (0 : BitVec 3)) = true := by
    rcases h with h | h
    · rw [h]; rfl
    · rw [bne_iff_ne.2 h, Bool.or_true]
  simp only [hexec, execWaitp, State.staging_stage hsel, hr, hbad, Bool.not_true, Bool.false_eq_true, if_false, if_true, State.trapB_bnd]

/-- The outcomes of WAITP on a promise word of entry n exclude each other, in the order of R231. -/
theorem exec_waitp_promise (h63 : (s.S a).getLsbD 63 = true) (h60 : (s.S a).extractLsb' 60 3 = 0)
    (hn : ((s.S a).extractLsb' 52 3).toNat = n.val) :
    exec (.waitp d a) s =
      if (s.tile.copy.entries[n]).gen ≠ (s.S a).extractLsb' 55 5 then .next (s.result d (expiredWord n.val ((s.S a).extractLsb' 55 5).toNat))
      else if (s.tile.copy.entries[n]).ended then
        .next ((s.setS d (s.tile.copy.entries[n]).status).copied ((s.tile.copy.entries[n]).status.getLsbD 13)).retire
      else if (s.tile.copy.entries[n]).promise.toNat ≤ s.cyc.toNat then .next (s.missed n)
      else .next s := by
  have hexec : exec (.waitp d a) s = execWaitp d a s := rfl
  have hentry : Fin.ofNat 8 ((s.S a).extractLsb' 52 3).toNat = n := by
    rw [hn]
    exact Fin.ext (Nat.mod_eq_of_lt n.isLt)
  simp only [hexec, execWaitp, State.staging_stage hsel, hr, h63, h60, hentry, State.missPromise_eq, State.result, State.stall, bne_self_eq_false,
    bne_iff_ne, decide_eq_true_eq, Bool.not_true, Bool.or_self, Bool.false_eq_true, if_false]

end
end

end Sys2Proof.Machine

namespace Sys2Proof
open Machine

/-- Settles O28: a promise word names an entry, whose generation, end and promise choose the outcome. -/
theorem promisesAreAwaited : Obligations.PromisesAreAwaited := by
  refine ⟨fun s d a => exec_waitp_comp, fun s d a n hsel hr => ⟨exec_waitp_noPromise hsel hr, fun h63 h60 hn => ?_,
    exec_promiseDeadline_waiting⟩⟩
  rw [exec_waitp_promise hsel hr h63 h60 hn]
  refine ⟨fun hgen => if_pos hgen, fun hgen hend hpoi => ?_, fun hgen hend hcyc => ?_, fun hgen hend hcyc => ?_⟩ <;>
    rw [if_neg (not_not_intro hgen)]
  · rw [if_pos hend, hpoi]
    rfl
  · rw [if_neg (Bool.eq_false_iff.1 hend), if_neg (Nat.not_le.2 hcyc)]
  · rw [if_neg (Bool.eq_false_iff.1 hend), if_pos hcyc]
    rfl

end Sys2Proof
end

section
/-! SUPPORT. The checks of a CPY whose pointers lie in the own slice (09 R223, R224). -/

namespace Sys2Proof.Machine

/-! ### Descriptors -/

/-- Word k of a descriptor at q. -/
def State.descAt (s : State) (q : Word) (k : Nat) : Word := s.tile.slice.readWord (ptrOfs q + 8 * k)

/-- The descriptor that a CPY in a mode reads at q. -/
def State.copyDesc (s : State) (mode : Nat) (q : Word) : List Word := (List.range (if mode = 0 ∨ mode = 3 then 4 else 8)).map (s.descAt q)

theorem State.descWord_copyDesc (s : State) {mode k : Nat} (q : Word) (hk : k < if mode = 0 ∨ mode = 3 then 4 else 8) :
    descWord (s.copyDesc mode q) k = s.descAt q k := by
  rw [descWord, State.copyDesc, List.getElem?_map, List.getElem?_range hk]
  rfl

/-! ### Pointers into the slice -/

theorem ptrSpace_withOfs_slice {p : Word} (hp : ptrSpace p = 0) (o : Nat) : ptrSpace (withOfs p o) = 0 := by
  have hmod : withOfs p o = withOfs p (o % 2 ^ 40) := by
    rw [withOfs, withOfs, hp, if_pos (by decide), if_pos (by decide)]
    congr 1
    exact BitVec.eq_of_toNat_eq (by simp)
  rw [ptrSpace_eq] at hp ⊢
  rw [hmod, withOfs_near (by rw [ptrSpace_eq]; omega) (Nat.mod_lt _ (by decide))]
  omega

/-- The bytes that one side of a copy addresses lie within the slice. -/
def SpanInSlice (p : Word) (span : Option (Int × Int)) : Prop :=
  ∀ r, span = some r → 0 ≤ (ptrOfs p : Int) + r.1 ∧ (ptrOfs p : Int) + r.2 ≤ 0x80000

/-- One row, or the whole of a gather's list, from the pointer on. -/
theorem spanInSlice_row {p : Word} {n : Nat} (h : ptrOfs p + n ≤ 0x80000) : SpanInSlice p (spanOf n 0 1) := by
  intro r hr
  rw [spanOf] at hr
  split at hr
  · exact absurd hr nofun
  · cases hr
    simp only [Nat.sub_self, Nat.cast_zero, Int.mul_zero, min_self, max_self]
    omega

/-- Rows at a stride lie within the slice where the first and the last do. -/
theorem spanInSlice_rows {p : Word} {n count : Nat} {step : Int}
    (h : ∀ k < count, 0 ≤ (ptrOfs p : Int) + (k : Int) * step ∧ (ptrOfs p : Int) + (k : Int) * step + n ≤ 0x80000) :
    SpanInSlice p (spanOf n step count) := by
  intro r hr
  rw [spanOf] at hr
  split at hr
  · exact absurd hr nofun
  · rename_i hne
    cases hr
    have hcount : count ≠ 0 := fun h0 => hne (by rw [h0]; exact Bool.or_true _)
    have hfirst := h 0 (by omega)
    have hlast := h (count - 1) (by omega)
    simp only [Nat.cast_zero, Int.zero_mul] at hfirst
    generalize ((count - 1 : Nat) : Int) * step = far at hlast ⊢
    simp only
    omega

section
variable {s : State}

/-- A pointer into the slice passes its checks where its span lies there. -/
theorem State.endChk_slice {p : Word} (hp : ptrSpace p = 0) {span : Option (Int × Int)} (h : SpanInSlice p span) (first : Int) (write : Bool) :
    s.endChk p span first write = .ok s := by
  have hpage : s.firstPage (withOfs p (Int.ofNat (ptrOfs p) + first).toNat) write = .ok s := by
    simp [State.firstPage, ptrSpace_withOfs_slice hp]
  cases span with
  | none => simp [State.endChk, hp]
  | some r =>
    obtain ⟨hlo, hhi⟩ := h r rfl
    have hin : ¬ (Int.ofNat (ptrOfs p) + r.1 < 0 ∨ Int.ofNat (spaceLimit 0) < Int.ofNat (ptrOfs p) + r.2) := by
      simp only [spaceLimit, Nat.zero_le, if_true, Int.ofNat_eq_natCast]
      omega
    simp only [State.endChk, hp, hpage, if_neg hin]
    simp

theorem State.recallOwn_none (hl : s.tile.leaseDir = []) (o n : Nat) : s.recallOwn o n = .ok () := by
  rw [State.recallOwn, Tile.leasedOut_none hl]

/-- A descriptor whose pointers and spans lie within the slice passes all endpoint checks. -/
theorem State.copyChk_slice {mode : Nat} {d : List Word} (hl : s.tile.leaseDir = [])
    (hsrc : ptrSpace (descWord d 0) = 0 ∧ SpanInSlice (descWord d 0) (srcSpan (shapeOf mode d) d))
    (hdst : mode ≠ 3 → ptrSpace (descWord d 1) = 0 ∧ SpanInSlice (descWord d 1) (dstSpan (shapeOf mode d)))
    (hidx : mode = 2 → ptrSpace (descWord d 4) = 0 ∧ ptrOfs (descWord d 4) % 4 = 0 ∧
      SpanInSlice (descWord d 4) (spanOf (4 * (shapeOf mode d).count) 0 1)) :
    s.copyChk mode d = .ok s := by
  have hsource (first : Int) (write : Bool) := State.endChk_slice (s := s) hsrc.1 hsrc.2 first write
  simp only [State.copyChk, State.recallOwn_none hl, ite_self, Chk.bind_ok, hsource]
  by_cases h3 : mode = 3
  · subst h3
    rfl
  · obtain ⟨hspace, hspan⟩ := hdst h3
    simp only [beq_eq_false_iff_ne.2 h3, Bool.false_eq_true, if_false, State.endChk_slice hspace hspan, Chk.bind_ok]
    by_cases h2 : mode = 2
    · obtain ⟨hspace, halign, hspan⟩ := hidx h2
      simp only [h2, beq_self_eq_true, if_true, hspace, halign, bne_self_eq_false, Bool.or_self, Bool.false_eq_true, if_false] at hspan ⊢
      exact State.endChk_slice hspace hspan 0 false
    · simp only [beq_eq_false_iff_ne.2 h2, Bool.false_eq_true, if_false]

/-! ### Promises do not depend on free values -/

theorem State.hops_draw (s : State) (m dx dy n x g : Nat) : (s.draw m).hops dx dy n x g = s.hops dx dy n x g := by
  induction n generalizing x g with
  | zero => rfl
  | succ n ih =>
    simp only [State.hops, ih]
    rfl

theorem State.copyTime_draw (s : State) (m mode : Nat) (d : List Word) (unit within : Nat) :
    (s.draw m).copyTime mode d unit within = s.copyTime mode d unit within := by
  have hpath (e : Endpoint) : (s.draw m).pathTo e = s.pathTo e := by
    simp only [State.pathTo, State.pathFrom, State.hops_draw]
    rfl
  have hend (p : Word) : (s.draw m).endLat p = s.endLat p := by
    simp only [State.endLat, hpath]
    rfl
  simp only [State.copyTime, hend]
  rfl

end

end Sys2Proof.Machine
end

section
/-! SUPPORT. CPY at issue on a staging core with nothing in flight (09 R222, R228, R229). -/

namespace Sys2Proof.Machine

/-! ### Issue -/

section
variable {s : State} {mode : Nat} {d a : SReg} {n : Fin 8}

/-- The promise of an operation that is posted now. -/
def State.copyPromise (s : State) (mode : Nat) (q : Word) : Word :=
  BitVec.ofNat 64 (Nat.max (s.cyc.toNat + 2) s.tile.copy.ahead + s.copyTime mode (s.copyDesc mode q) 0 0)

/-- The generation of the next operation in entry n. -/
def CopyEngine.nextGen (e : CopyEngine) (n : Fin 8) : BitVec 5 := if e.entries[n].used then e.entries[n].gen + 1 else e.entries[n].gen

/-- The entry of an operation that is posted now. -/
def State.copyEntry (s : State) (mode : Nat) (q : Word) (n : Fin 8) : CopyEntry :=
  { gen := s.tile.copy.nextGen n, busy := true, used := true, mode := mode, desc := s.copyDesc mode q, core := s.sel,
    promise := s.copyPromise mode q, order := s.tile.copy.nextOrder }

/-- The state after a CPY is posted into entry n. -/
def State.copyPost (s : State) (mode : Nat) (d : SReg) (q : Word) (n : Fin 8) : State :=
  ((s.draw.modTile fun t => { t with copy := { t.copy with
    entries := vput t.copy.entries n (s.copyEntry mode q n), nextOrder := t.copy.nextOrder + 1 } }).result d
    (promiseWord (s.copyPromise mode q) n.val (s.tile.copy.nextGen n)))

theorem State.copyPost_entry (s : State) (mode : Nat) (d : SReg) (q : Word) (n : Fin 8) :
    (s.copyPost mode d q n).tile.copy.entries[n] = s.copyEntry mode q n := vput_same ..

/-- The compute core has no CPY. -/
theorem exec_cpy_comp (hsel : s.sel = .comp) (x : Option Xsc) : ∀ i ∈ [Instr.cpy d a x, .cpy2d d a x, .cpyGth d a x, .cpyRing d a x],
    exec i s = .next (s.takeTrap .ill s.core.pc s.core.pc false) := by
  simp only [List.forall_mem_cons, List.not_mem_nil, false_implies, implies_true, and_true]
  exact ⟨State.staging_comp hsel _, State.staging_comp hsel _, State.staging_comp hsel _, State.staging_comp hsel _⟩

section
variable (hs : s.core.still = true)
include hs

/-- A descriptor that is not LOCAL, not a multiple of 32 or past the slice. -/
theorem State.cpy_badPointer (hmode : mode = 0 ∨ mode = 3) (h : ¬ (ptrSpace (s.S a) = 0 ∧ ptrOfs (s.S a) % 32 = 0 ∧ ptrOfs (s.S a) + 32 ≤ 0x80000)) :
    s.cpy mode d a none = .next (s.takeTrap .bnd (s.S a) s.core.pc false) := by
  have hsize : (mode == 0 || mode == 3) = true := by simpa using hmode
  have hbad : (ptrSpace (s.S a) != 0 || ptrOfs (s.S a) % 32 != 0 || decide (0x80000 < ptrOfs (s.S a) + 32)) = true := by
    simp only [Bool.or_eq_true, bne_iff_ne, decide_eq_true_eq]
    omega
  simp only [State.cpy, Core.still_ready hs, Core.still_acquiring hs, hsize, hbad, Bool.not_true, Bool.or_self, Bool.false_eq_true, if_false, if_true,
    State.trapB_bnd]

end

/-- A staging core with nothing in flight, a descriptor at S(a) whose words can be read, and entry n free. -/
structure State.CpyReady (s : State) (a : SReg) (n : Fin 8) : Prop where
  sel : s.sel = .stage
  still : s.core.still = true
  flips : s.tile.flips = []
  poison : s.tile.poison = []
  space : ptrSpace (s.S a) = 0
  align : ptrOfs (s.S a) % 32 = 0
  inside : ptrOfs (s.S a) + 64 ≤ 0x80000
  lease : s.tile.leaseDir = []
  free : s.tile.copy.freeEntry = some n

/-- A descriptor that passes its checks is posted, unless it asks for more slots than its ring has. -/
theorem State.CpyReady.exec_checked (hr : s.CpyReady a n) {i : Instr} (hexec : exec i s = s.staging (s.cpy mode d a none))
    (hok : descOk mode (s.copyDesc mode (s.S a)) = true) (hcount : countBad mode (s.copyDesc mode (s.S a)) = false)
    (hchk : s.draw.copyChk mode (s.copyDesc mode (s.S a)) = .ok s.draw) :
    exec i s = .next (if s.ringShort mode (s.copyDesc mode (s.S a)) then
      s.draw.takeTrap .bnd (descWord (s.copyDesc mode (s.S a)) 1) s.core.pc false else s.copyPost mode d (s.S a) n) := by
  obtain ⟨hsel, hs, hflip, hpoi, hspace, halign, hin, hl, hn⟩ := hr
  have hsize : ¬ 0x80000 < ptrOfs (s.S a) + if mode == 0 || mode == 3 then 32 else 64 := by split <;> omega
  have hdesc : ((upto ((if mode == 0 || mode == 3 then 32 else 64) / 8)).map fun k => s.tile.slice.readWord (ptrOfs (s.S a) + 8 * k)) =
      s.copyDesc mode (s.S a) := by
    simp only [State.copyDesc, upto_eq_range, Bool.or_eq_true, beq_iff_eq]
    split <;> rfl
  have hclean (l : List Nat) : l.any List.nil.contains = false := by simp
  have hdraw : ({ s with tile := s.tile, fresh := s.fresh + 1 } : State) = s.draw := rfl
  have hshort : s.draw.ringShort mode (s.copyDesc mode (s.S a)) = s.ringShort mode (s.copyDesc mode (s.S a)) := rfl
  have hbnd := State.trapB_bnd s.draw (descWord (s.copyDesc mode (s.S a)) 1)
  rw [hexec, State.staging_stage hsel]
  simp only [State.cpy, Core.still_ready hs, Core.still_acquiring hs, hspace, halign, decide_eq_false hsize, State.recallOwn_none hl, Chk.run_ok,
    Tile.ecc_clean hflip, hpoi, hdesc, hok, hcount, hdraw, hchk, hshort, hbnd, State.draw_tile, hn, Xsc.isRel, hclean, bne_self_eq_false, Bool.not_true,
    Bool.false_and, Bool.or_self, Bool.false_eq_true, if_false]
  cases s.ringShort mode (s.copyDesc mode (s.S a)) with
  | true => rfl
  | false =>
    simp only [Bool.false_eq_true, if_false, State.copyTime_draw]
    rfl

/-- What a posted CPY leaves is what R222 and R228 say. -/
theorem State.copyPosted_of_exec {i : Instr} {q : Word} (h : exec i s = .next (s.copyPost mode d q n)) : s.copyPosted i d q n mode := by
  have hen := s.copyPost_entry mode d q n
  refine ⟨_, h, Core.setS_npc .., congrArg CopyEntry.busy hen, congrArg CopyEntry.started hen, congrArg CopyEntry.mode hen, congrArg CopyEntry.desc hen,
    congrArg CopyEntry.core hen, congrArg CopyEntry.promise hen, ?_, fun r hr => Core.S_setS_ne _ _ hr, rfl, rfl, rfl⟩
  rw [hen]
  exact Core.S_setS_self ..

theorem State.CpyReady.posted (hr : s.CpyReady a n) {i : Instr} (hexec : exec i s = s.staging (s.cpy mode d a none))
    (hok : descOk mode (s.copyDesc mode (s.S a)) = true) (hcount : countBad mode (s.copyDesc mode (s.S a)) = false)
    (hchk : s.draw.copyChk mode (s.copyDesc mode (s.S a)) = .ok s.draw) (hshort : s.ringShort mode (s.copyDesc mode (s.S a)) = false) :
    s.copyPosted i d (s.S a) n mode :=
  State.copyPosted_of_exec ((hr.exec_checked hexec hok hcount hchk).trans (by rw [if_neg (Bool.eq_false_iff.1 hshort)]))

end

end Sys2Proof.Machine
end

section
/-! SUPPORT. The four modes of CPY: legal fields, and bytes within the slice (09 R222-R224). -/

namespace Sys2Proof.Machine

/-! ### Legal fields (R223, R224) -/

section
variable {D : List Word}

theorem descOk_plain : descOk 0 D = true ↔ (descWord D 3).toNat < 2 ∧ (descWord D 2).toNat < 2 ^ 40 := by simp [descOk]

theorem descOk_2d : descOk 1 D = true ↔
    (descWord D 3).toNat < 2 ∧ (descWord D 2).toNat < 2 ^ 40 ∧ descWord D 6 = 0 ∧ descWord D 7 = 0 := by simp [descOk, and_assoc]

theorem descOk_gather : descOk 2 D = true ↔ (descWord D 3).toNat < 2 ∧ (descWord D 2).toNat < 2 ^ 40 ∧
    (descWord D 2).toNat / 2 ^ 13 % 128 = 0 ∧ (descWord D 5).toNat < 2 ^ 32 ∧ descWord D 6 = 0 ∧ descWord D 7 = 0 := by
  simp [descOk, and_assoc]

theorem descOk_ring : descOk 3 D = true ↔ (descWord D 3).toNat < 2 ∧ (descWord D 2).toNat < 128 ∧ (descWord D 1).toNat < 8 := by
  simp [descOk]

/-- Elements of 1 to 4,096 bytes. -/
theorem countBad_gather (h0 : 0 < (descWord D 2).toNat % 2 ^ 13) (h1 : (descWord D 2).toNat % 2 ^ 13 ≤ 4096) : countBad 2 D = false := by
  have hlen : (shapeOf 2 D).len = (descWord D 2).toNat % 2 ^ 13 := rfl
  simp only [countBad, hlen, beq_self_eq_true, Bool.true_and, Bool.or_eq_false_iff, beq_eq_false_iff_ne, decide_eq_false_iff_not]
  omega

/-! ### Bytes within the slice -/

section
variable {s : State} (hl : s.tile.leaseDir = []) (h0 : ptrSpace (descWord D 0) = 0)
include hl h0

theorem State.copyChk_plain (h1 : ptrSpace (descWord D 1) = 0) (hv : (descWord D 2).toNat < 2 ^ 40)
    (hsrc : ptrOfs (descWord D 0) + (descWord D 2).toNat ≤ 0x80000) (hdst : ptrOfs (descWord D 1) + (descWord D 2).toNat ≤ 0x80000) :
    s.copyChk 0 D = .ok s := by
  have hshape : shapeOf 0 D = { mode := 0, len := (descWord D 2).toNat, count := 1, sstep := 0, dstep := 0 } := by
    simp only [shapeOf, Nat.mod_eq_of_lt hv]
  refine State.copyChk_slice hl ⟨h0, ?_⟩ (fun _ => ⟨h1, ?_⟩) nofun
  · rw [hshape]
    exact spanInSlice_row hsrc
  · rw [hshape]
    exact spanInSlice_row hdst

theorem State.copyChk_2d (h1 : ptrSpace (descWord D 1) = 0) (hv : (descWord D 2).toNat < 2 ^ 40)
    (hrows : ∀ k < (descWord D 2).toNat / 2 ^ 20,
      0 ≤ (ptrOfs (descWord D 0) : Int) + (k : Int) * (descWord D 4).toInt ∧
      (ptrOfs (descWord D 0) : Int) + (k : Int) * (descWord D 4).toInt + ((descWord D 2).toNat % 2 ^ 20 : Nat) ≤ 0x80000 ∧
      0 ≤ (ptrOfs (descWord D 1) : Int) + (k : Int) * (descWord D 5).toInt ∧
      (ptrOfs (descWord D 1) : Int) + (k : Int) * (descWord D 5).toInt + ((descWord D 2).toNat % 2 ^ 20 : Nat) ≤ 0x80000) :
    s.copyChk 1 D = .ok s := by
  have hcount : (descWord D 2).toNat / 2 ^ 20 % 2 ^ 20 = (descWord D 2).toNat / 2 ^ 20 := Nat.mod_eq_of_lt (by omega)
  have hshape : shapeOf 1 D = ⟨1, (descWord D 2).toNat % 2 ^ 20, (descWord D 2).toNat / 2 ^ 20, (descWord D 4).toInt, (descWord D 5).toInt⟩ := by
    rw [← hcount]
    rfl
  refine State.copyChk_slice hl ⟨h0, ?_⟩ (fun _ => ⟨h1, ?_⟩) nofun
  · rw [hshape]
    exact spanInSlice_rows fun k hk => ⟨(hrows k hk).1, (hrows k hk).2.1⟩
  · rw [hshape]
    exact spanInSlice_rows fun k hk => (hrows k hk).2.2

theorem State.copyChk_gather (h1 : ptrSpace (descWord D 1) = 0) (hlim : (descWord D 5).toNat < 2 ^ 32)
    (hsrc : ptrOfs (descWord D 0) + (descWord D 2).toNat % 2 ^ 13 * (descWord D 5).toNat ≤ 0x80000)
    (hdst : ptrOfs (descWord D 1) + (descWord D 2).toNat % 2 ^ 13 * ((descWord D 2).toNat / 2 ^ 20) ≤ 0x80000)
    (h4 : ptrSpace (descWord D 4) = 0) (halign : ptrOfs (descWord D 4) % 4 = 0)
    (hidx : ptrOfs (descWord D 4) + 4 * ((descWord D 2).toNat / 2 ^ 20) ≤ 0x80000) : s.copyChk 2 D = .ok s := by
  have hcount : (descWord D 2).toNat / 2 ^ 20 % 2 ^ 20 = (descWord D 2).toNat / 2 ^ 20 := Nat.mod_eq_of_lt (by omega)
  have hshape : shapeOf 2 D =
      ⟨2, (descWord D 2).toNat % 2 ^ 13, (descWord D 2).toNat / 2 ^ 20, 0, (((descWord D 2).toNat % 2 ^ 13 : Nat) : Int)⟩ := by
    rw [← hcount]
    rfl
  have hlimit : limitOf D = (descWord D 5).toNat := Nat.mod_eq_of_lt hlim
  refine State.copyChk_slice hl ⟨h0, ?_⟩ (fun _ => ⟨h1, ?_⟩) fun _ => ⟨h4, halign, ?_⟩
  · rw [hshape, srcSpan, hlimit]
    simp only [beq_self_eq_true, if_true]
    split
    · exact nofun
    · exact spanInSlice_row hsrc
  · rw [hshape]
    exact spanInSlice_row hdst
  · rw [hshape]
    exact spanInSlice_row hidx

theorem State.copyChk_ring (hv : (descWord D 2).toNat < 128) (hsrc : ptrOfs (descWord D 0) + 1024 * (descWord D 2).toNat ≤ 0x80000) :
    s.copyChk 3 D = .ok s := by
  have hshape : shapeOf 3 D = { mode := 3, len := 1024 * (descWord D 2).toNat, count := 1, sstep := 0, dstep := 0 } := by
    simp [shapeOf, Nat.mod_eq_of_lt hv]
  refine State.copyChk_slice hl ⟨h0, ?_⟩ (fun h => absurd rfl h) nofun
  rw [hshape]
  exact spanInSlice_row hsrc

end

/-! ### Slots of a ring (R222, R224) -/

theorem State.ringShort_iff (s : State) (h : Ring) (hh : descWord D 1 = BitVec.ofNat 64 h.val) (hv : (descWord D 2).toNat < 128) :
    s.ringShort 3 D = true ↔ (descWord D 2).toNat = 0 ∨ (s.tile.ring h).nslot.toNat < (descWord D 2).toNat := by
  have hlt : h.val % 2 ^ 64 = h.val := Nat.mod_eq_of_lt (Nat.lt_trans h.isLt (by decide))
  have hring : Fin.ofNat 8 ((descWord D 1).toNat % 8) = h := by
    rw [hh, BitVec.toNat_ofNat, hlt]
    exact Fin.ext (by simp [Fin.ofNat, Nat.mod_eq_of_lt h.isLt])
  have hlen : (shapeOf 3 D).len = 1024 * (descWord D 2).toNat := by simp [shapeOf, Nat.mod_eq_of_lt hv]
  simp only [State.ringShort, Tile.ring, hring, hlen, beq_self_eq_true, Bool.true_and, Bool.or_eq_true, beq_iff_eq, decide_eq_true_eq]
  omega

end

/-! ### The modes -/

section
variable {s : State} {d a : SReg} {n : Fin 8} (hr : s.CpyReady a n) (h3 : (s.descAt (s.S a) 3).toNat < 2)
  (h0 : ptrSpace (s.descAt (s.S a) 0) = 0)
include hr h3 h0

theorem State.CpyReady.posts_plain (h1 : ptrSpace (s.descAt (s.S a) 1) = 0) (hv : (s.descAt (s.S a) 2).toNat < 2 ^ 40)
    (hsrc : (ptrOfs (s.descAt (s.S a) 0) : Int) + (s.descAt (s.S a) 2).toNat ≤ 0x80000)
    (hdst : (ptrOfs (s.descAt (s.S a) 1) : Int) + (s.descAt (s.S a) 2).toNat ≤ 0x80000) :
    s.copyPosted (.cpy d a none) d (s.S a) n 0 := by
  have hw {k : Nat} (hk : k < 4) := s.descWord_copyDesc (mode := 0) (s.S a) hk
  refine hr.posted rfl (descOk_plain.2 ?_) rfl (State.copyChk_plain hr.lease ?_ ?_ ?_ ?_ ?_) rfl <;> simp only [hw, Nat.reduceLT]
  exacts [⟨h3, hv⟩, h0, h1, hv, by omega, by omega]

theorem State.CpyReady.posts_2d (h1 : ptrSpace (s.descAt (s.S a) 1) = 0) (hv : (s.descAt (s.S a) 2).toNat < 2 ^ 40)
    (h6 : s.descAt (s.S a) 6 = 0) (h7 : s.descAt (s.S a) 7 = 0)
    (hrows : ∀ k < (s.descAt (s.S a) 2).toNat / 2 ^ 20,
      0 ≤ (ptrOfs (s.descAt (s.S a) 0) : Int) + (k : Int) * (s.descAt (s.S a) 4).toInt ∧
      (ptrOfs (s.descAt (s.S a) 0) : Int) + (k : Int) * (s.descAt (s.S a) 4).toInt + ((s.descAt (s.S a) 2).toNat % 2 ^ 20 : Nat) ≤ 0x80000 ∧
      0 ≤ (ptrOfs (s.descAt (s.S a) 1) : Int) + (k : Int) * (s.descAt (s.S a) 5).toInt ∧
      (ptrOfs (s.descAt (s.S a) 1) : Int) + (k : Int) * (s.descAt (s.S a) 5).toInt + ((s.descAt (s.S a) 2).toNat % 2 ^ 20 : Nat) ≤ 0x80000) :
    s.copyPosted (.cpy2d d a none) d (s.S a) n 1 := by
  have hw {k : Nat} (hk : k < 8) := s.descWord_copyDesc (mode := 1) (s.S a) hk
  refine hr.posted rfl (descOk_2d.2 ?_) rfl (State.copyChk_2d hr.lease ?_ ?_ ?_ ?_) rfl <;> simp only [hw, Nat.reduceLT]
  exacts [⟨h3, hv, h6, h7⟩, h0, h1, hv, hrows]

theorem State.CpyReady.posts_gather (h1 : ptrSpace (s.descAt (s.S a) 1) = 0) (hv : (s.descAt (s.S a) 2).toNat < 2 ^ 40)
    (h6 : s.descAt (s.S a) 6 = 0) (h7 : s.descAt (s.S a) 7 = 0) (hres : (s.descAt (s.S a) 2).toNat / 2 ^ 13 % 128 = 0)
    (hlim : (s.descAt (s.S a) 5).toNat < 2 ^ 32) (hpos : 0 < (s.descAt (s.S a) 2).toNat % 2 ^ 13)
    (hmax : (s.descAt (s.S a) 2).toNat % 2 ^ 13 ≤ 4096)
    (hsrc : (ptrOfs (s.descAt (s.S a) 0) : Int) + ((s.descAt (s.S a) 2).toNat % 2 ^ 13 * (s.descAt (s.S a) 5).toNat : Nat) ≤ 0x80000)
    (hdst : (ptrOfs (s.descAt (s.S a) 1) : Int) + ((s.descAt (s.S a) 2).toNat % 2 ^ 13 * ((s.descAt (s.S a) 2).toNat / 2 ^ 20) : Nat) ≤ 0x80000)
    (h4 : ptrSpace (s.descAt (s.S a) 4) = 0) (halign : ptrOfs (s.descAt (s.S a) 4) % 4 = 0)
    (hidx : (ptrOfs (s.descAt (s.S a) 4) : Int) + (4 * ((s.descAt (s.S a) 2).toNat / 2 ^ 20) : Nat) ≤ 0x80000) :
    s.copyPosted (.cpyGth d a none) d (s.S a) n 2 := by
  have hw {k : Nat} (hk : k < 8) := s.descWord_copyDesc (mode := 2) (s.S a) hk
  refine hr.posted rfl (descOk_gather.2 ?_) (countBad_gather ?_ ?_) (State.copyChk_gather hr.lease ?_ ?_ ?_ ?_ ?_ ?_ ?_ ?_) rfl <;>
    simp only [hw, Nat.reduceLT]
  exacts [⟨h3, hv, hres, hlim, h6, h7⟩, hpos, hmax, h0, h1, hlim, by exact_mod_cast hsrc, by exact_mod_cast hdst, h4, halign, by omega]

section
variable {h : Ring} (hh : s.descAt (s.S a) 1 = BitVec.ofNat 64 h.val) (hmax : (s.descAt (s.S a) 2).toNat < 128)
  (hsrc : (ptrOfs (s.descAt (s.S a) 0) : Int) + (1024 * (s.descAt (s.S a) 2).toNat : Nat) ≤ 0x80000)
include hh hmax hsrc

/-- A to-ring copy of legal fields is posted, or takes BND with its ring's word. -/
theorem State.CpyReady.exec_ring : exec (.cpyRing d a none) s =
    .next (if (s.descAt (s.S a) 2).toNat = 0 ∨ (s.tile.ring h).nslot.toNat < (s.descAt (s.S a) 2).toNat then
      s.draw.takeTrap .bnd (s.descAt (s.S a) 1) s.core.pc false else s.copyPost 3 d (s.S a) n) := by
  have hw {k : Nat} (hk : k < 4) := s.descWord_copyDesc (mode := 3) (s.S a) hk
  have hring : (s.descAt (s.S a) 1).toNat < 8 := by
    rw [hh, BitVec.toNat_ofNat]
    omega
  have hiff := s.ringShort_iff (D := s.copyDesc 3 (s.S a)) h (by rw [hw (by decide), hh]) (by rw [hw (by decide)]; exact hmax)
  refine (hr.exec_checked rfl (descOk_ring.2 ?_) rfl (State.copyChk_ring hr.lease ?_ ?_ ?_)).trans ?_ <;> simp only [hw, hiff, Nat.reduceLT]
  exacts [⟨h3, hmax, hring⟩, h0, hmax, by omega]

theorem State.CpyReady.posts_ring (hpos : 0 < (s.descAt (s.S a) 2).toNat)
    (hfit : (s.descAt (s.S a) 2).toNat ≤ (s.tile.ring h).nslot.toNat) : s.copyPosted (.cpyRing d a none) d (s.S a) n 3 :=
  State.copyPosted_of_exec ((hr.exec_ring h3 h0 hh hmax hsrc).trans (by rw [if_neg (by omega)]))

end

end

end Sys2Proof.Machine

namespace Sys2Proof
open Machine

/-- Settles O27: in each mode the fields are legal, the endpoint checks pass, and the free entry takes the operation. -/
theorem copiesArePosted : Obligations.CopiesArePosted := by
  refine ⟨fun s d a x hsel => ?_, fun s d a n hsel hs hflip hpoi => ⟨fun hbad => ⟨?_, ?_⟩, fun hspace halign hin hl hn h3 h0 => ?_⟩⟩
  · simpa only [List.forall_mem_cons, List.not_mem_nil, false_implies, implies_true, and_true] using exec_cpy_comp hsel x
  · exact (State.staging_stage hsel _).trans (State.cpy_badPointer hs (.inl rfl) hbad)
  · exact (State.staging_stage hsel _).trans (State.cpy_badPointer hs (.inr rfl) hbad)
  · have hr : s.CpyReady a n := ⟨hsel, hs, hflip, hpoi, hspace, halign, hin, hl, hn⟩
    refine ⟨hr.posts_plain h3 h0, hr.posts_2d h3 h0, hr.posts_gather h3 h0, fun h hh hpos hmax hsrc => ?_, fun h hh hmax hsrc hshort => ?_⟩
    · exact hr.posts_ring h3 h0 hh (Nat.lt_of_le_of_lt hmax (by decide)) hsrc hpos
    · exact (hr.exec_ring h3 h0 hh hmax hsrc).trans (by rw [if_pos (.inr hshort)]; rfl)

end Sys2Proof
end

section
/-! SUPPORT. The copy engine: one chunk of a plain copy within the slice (09 R225, R226). -/

namespace Sys2Proof.Machine

/-! ### Parts of an access within the slice -/

section
variable {s : State}

/-- A slice without flipped bits: a store changes its bytes and its poison. -/
theorem Tile.store_flipless {t : Tile} (h : t.flips = []) (f o : Nat) (bs : List (Option PByte)) : t.store f o bs =
    { t with slice := t.slice.writeMany o (bs.map fun b => b.map (·.1)), poison := poisonAfter t.poison o bs } := by
  simp [Tile.store, h]

theorem State.engineParts_slice {p : Word} (hp : ptrSpace p = 0) (n : Nat) (write : Bool) :
    s.engineParts p n write = some [herePart (0, p, n)] := by
  simp [State.engineParts, hp, herePart]

theorem State.partTile_here (q : Nat × Word × Nat) : s.partTile (herePart q) = some (s.tile.id, ptrOfs q.2.1) := rfl

theorem State.readParts_slice (hf : s.tile.flips = []) (p : Word) (n : Nat) :
    s.readParts [herePart (0, p, n)] = ([(0, s.tile.bytes (ptrOfs p) n)], s) := by
  simp only [State.readParts, State.partTile_here, State.sliceRead, State.tileAt_self, Tile.ecc_clean hf, hf, List.isEmpty_nil, if_true]
  rfl

theorem State.writeParts_slice (hf : s.tile.flips = []) (p : Word) {n : Nat} {bs : List (Option PByte)} (hn : bs.length = n) :
    s.writeParts bs [herePart (0, p, n)] = { s with tile := s.tile.store s.fresh (ptrOfs p) bs } := by
  have hcut : (herePart (0, p, n)).cut bs = bs := by simp [Part1.cut, herePart, ← hn]
  simp only [State.writeParts, State.partTile_here, hcut, State.sliceWrite, State.tileAt_self, hf, List.isEmpty_nil, if_true, State.modTileAt,
    beq_self_eq_true]

theorem State.partsLeased_slice (hl : s.tile.leaseDir = []) (qs : List (Nat × Word × Nat)) : s.partsLeased (qs.map herePart) = none := by
  simp only [State.partsLeased, List.findSome?_eq_none_iff, List.mem_map]
  rintro _ ⟨q, -, rfl⟩
  simp only [State.partTile_here, State.tileAt_self, Tile.leasedOut_none hl, Option.map_none]

theorem State.partsHeld_slice (he : s.tile.heldExt = []) (hr : ∀ h : Ring, s.tile.rings[h].held = 0) (bs : List (Option PByte))
    (qs : List (Nat × Word × Nat)) : s.partsHeld bs (qs.map herePart) = false := by
  simp only [State.partsHeld, List.any_eq_false, List.mem_map]
  rintro _ ⟨q, -, rfl⟩
  simp only [State.partTile_here, State.tileAt_self, Tile.heldWrite_none he hr, Bool.false_eq_true, not_false_eq_true]

theorem State.refused_slice (write : Bool) (qs : List (Nat × Word × Nat)) : s.refused write (qs.map herePart) = none := by
  simp only [State.refused, List.findSome?_eq_none_iff, List.mem_map]
  rintro _ ⟨q, -, rfl⟩
  rfl

/-! ### The chunk -/

section
variable {n : Fin 8} {x : CopyEntry}

/-- The pointer `within` bytes into a row. -/
def rowPtr (p : Word) (within : Nat) : Word := withOfs p (ptrOfs p + within)

theorem rowPtr_fields {p : Word} {within len : Nat} (hp : ptrSpace p = 0) (hw : within < len) (hlen : ptrOfs p + len ≤ 0x80000) :
    ptrSpace (rowPtr p within) = 0 ∧ ptrOfs (rowPtr p within) = ptrOfs p + within := by
  obtain ⟨hspace, -, hofs⟩ := withOfs_fields (x := p) (o := ptrOfs p + within) (by rw [hp, spaceLimit, if_pos (by decide)]; omega)
  exact ⟨hspace.trans hp, hofs⟩

/-- The next chunk of a plain copy. -/
theorem State.nextChunk_plain (hmode : x.mode = 0) (hunit : x.unit = 0) : s.nextChunk x =
    some (rowPtr (descWord x.desc 0) x.within, some (rowPtr (descWord x.desc 1) x.within),
      Nat.min 4096 ((shapeOf 0 x.desc).len - x.within)) := by
  have hofs (p : Word) : (Int.ofNat (ptrOfs p) + ((0 : Nat) : Int) * 0 + (x.within : Int)).toNat = ptrOfs p + x.within := by
    simp only [Int.mul_zero, Int.add_zero, Int.ofNat_eq_natCast]
    omega
  simp only [State.nextChunk, hmode, hunit, rowPtr, shapeOf, ← Int.add_assoc, hofs]

/-- A plain copy with bytes of its only row left, between pointers whose rows lie within the slice. -/
structure CopyEntry.PlainInSlice (x : CopyEntry) : Prop where
  mode : x.mode = 0
  unit : x.unit = 0
  within : x.within < (shapeOf 0 x.desc).len
  srcSpace : ptrSpace (descWord x.desc 0) = 0
  dstSpace : ptrSpace (descWord x.desc 1) = 0
  src : ptrOfs (descWord x.desc 0) + (shapeOf 0 x.desc).len ≤ 0x80000
  dst : ptrOfs (descWord x.desc 1) + (shapeOf 0 x.desc).len ≤ 0x80000

/-- A tile whose slice has no errors, no leased sectors and no held slots. -/
structure Tile.Open (t : Tile) : Prop where
  flips : t.flips = []
  poison : t.poison = []
  lease : t.leaseDir = []
  heldExt : t.heldExt = []
  held : ∀ h : Ring, t.rings[h].held = 0

/-- The state after a chunk of m bytes has moved from offset o to offset d. -/
def State.chunkMoved (s : State) (n : Fin 8) (x : CopyEntry) (o d m : Nat) : State :=
  State.setCopy { s.draw with tile := s.tile.store s.draw.fresh d ((s.tile.bytes o m).map some) } n (x.moved m false)

/-- A plain copy within the slice moves its next chunk of 4,096 bytes or less. -/
theorem exec_copyChunk_plain (hx : s.tile.copy.entries[n] = x) (hrun : s.tile.copy.running = some n) (hplain : x.PlainInSlice)
    (hopen : s.tile.Open) (hstop : s.core.stopped = false) (hcore : s.core.rpsh = []) (hpeer : s.peer.rpsh = []) :
    exec .copyChunkTransfer s = .next (s.chunkMoved n x (ptrOfs (descWord x.desc 0) + x.within) (ptrOfs (descWord x.desc 1) + x.within)
      (Nat.min 4096 ((shapeOf 0 x.desc).len - x.within))) := by
  obtain ⟨hmode, hunit, hwithin, h0, h1, hsrc, hdst⟩ := hplain
  obtain ⟨hf, hpoi, hl, he, hr⟩ := hopen
  obtain ⟨hsp, hso⟩ := rowPtr_fields h0 hwithin hsrc
  obtain ⟨hdp, hdo⟩ := rowPtr_fields h1 hwithin hdst
  have hlen : (shapeOf 0 x.desc).len ≠ 0 := by omega
  have hmode2 : (x.mode == 2) = false := by rw [hmode]; rfl
  have hmode3 : (x.mode == 3) = false := by rw [hmode]; rfl
  have hcount : (shapeOf 0 x.desc).count = 1 := rfl
  have hfin : x.finished = false := by
    rw [CopyEntry.finished, hmode, hunit, Shape.empty, hcount, beq_eq_false_iff_ne.2 hlen]
    rfl
  have hslots : (s.ownCore x.core).slotStores = false := by
    unfold State.ownCore
    split <;> simp [Core.slotStores, hcore, hpeer]
  have hchunk := State.nextChunk_plain (s := s.draw) hmode hunit
  generalize hm : Nat.min 4096 ((shapeOf 0 x.desc).len - x.within) = m at hchunk ⊢
  generalize hps : rowPtr (descWord x.desc 0) x.within = p at hchunk hsp hso
  generalize hqs : rowPtr (descWord x.desc 1) x.within = q at hchunk hdp hdo
  have hparts : [herePart (0, p, m)] ++ [herePart (0, q, m)] = [(0, p, m), (0, q, m)].map herePart := rfl
  have hfar : ([herePart (0, p, m)] ++ [herePart (0, q, m)]).any Part1.isFar = false := rfl
  have hdraw : ({ s with tile := s.tile, fresh := s.fresh + 1 } : State) = s.draw := rfl
  have hexec : exec .copyChunkTransfer s = execCopyChunkTransfer s := rfl
  have hrefp := s.draw.refused_slice false [(0, p, m)]
  have hrefq := s.draw.refused_slice true [(0, q, m)]
  have hleased := State.partsLeased_slice (s := s.draw) hl [(0, p, m), (0, q, m)]
  have hheld := State.partsHeld_slice (s := s.draw) he hr (List.replicate m (some (0, false))) [(0, q, m)]
  have hread := State.readParts_slice (s := s.draw) hf p m
  have hgather := gather_one (bs := s.tile.bytes (ptrOfs p) m) (n := m) (Tile.length_bytes ..)
  have hany : (s.tile.bytes (ptrOfs p) m).any (·.2) = false := by simpa using Tile.bytes_clean hpoi (ptrOfs p) m
  have hwrite := State.writeParts_slice (s := s.draw) hf q (n := m) (bs := (s.tile.bytes (ptrOfs p) m).map some) (by simp)
  simp only [hexec, execCopyChunkTransfer, hrun, hx, hfin, hmode2, hmode3, hstop, hslots, State.indexLeased, Bool.false_and, Bool.or_self,
    Bool.false_eq_true, if_false, hdraw, hchunk, State.engineParts_slice hsp, State.engineParts_slice hdp, hfar, Bool.and_false]
  simp only [List.map_cons, List.map_nil] at hrefp hrefq hheld
  simp only [hrefp, hrefq, hparts, hleased, hheld, hread, Option.orElse_none, State.draw_tile, hgather, Bool.or_false, hwrite, hany, Bool.false_eq_true, if_false]
  rw [State.chargeParts_here, ← hso, ← hdo]
  rfl

/-! ### What the chunk leaves -/

theorem State.chunkMoved_entry (s : State) (n : Fin 8) (x : CopyEntry) (o d m : Nat) :
    (s.chunkMoved n x o d m).tile.copy.entries[n] = x.moved m false := vput_same ..

/-- The entry counts the bytes, and has done its row where they were the last. -/
theorem CopyEntry.moved_plain (hmode : x.mode = 0) (hunit : x.unit = 0) (m : Nat) : (x.moved m false).done = x.done + m ∧
    (x.moved m false).within = (if x.within + m < (shapeOf 0 x.desc).len then x.within + m else 0) ∧
    (x.moved m false).unit = if x.within + m < (shapeOf 0 x.desc).len then 0 else 1 := by
  simp only [CopyEntry.moved, hmode]
  split
  · exact ⟨rfl, rfl, hunit⟩
  · exact ⟨rfl, rfl, by rw [hunit]⟩

/-- The destination's bytes are the source's as they were before the chunk; every other byte stays. -/
theorem State.chunkMoved_read (hf : s.tile.flips = []) (hwf : s.tile.slice.wf = true) (n : Fin 8) (x : CopyEntry) (o d m a : Nat) :
    (s.chunkMoved n x o d m).tile.slice.read a = if d ≤ a ∧ a < d + m then s.tile.slice.read (o + (a - d)) else s.tile.slice.read a := by
  have hslice : (s.chunkMoved n x o d m).tile.slice = s.tile.slice.writeMany d ((s.tile.bytes o m).map fun b => some b.1) :=
    Tile.store_slice hf ..
  rw [hslice, Memory.read_writeBytes hwf, Tile.length_bytes]
  by_cases ha : d ≤ a ∧ a < d + m
  · rw [if_pos ha, if_pos ha, Tile.getElem_bytes _ (by omega)]
    rfl
  · rw [if_neg ha, if_neg ha]

end
end

end Sys2Proof.Machine
end

section
/-! SUPPORT. The copy engine: the start and the end of an operation, and held words (09 R225, R227). -/

namespace Sys2Proof.Machine

section
variable {s : State} {n : Fin 8} {x : CopyEntry}

/-! ### Start and room -/

theorem exec_copyOperationStart_first (hhold : s.tile.copy.hold = none) (hrun : s.tile.copy.running = none) (hfirst : s.tile.copy.first = some n)
    (hstop : s.core.stopped = false) :
    exec .copyOperationStart s = .next (s.setCopy n { s.tile.copy.entries[n] with started := true }) := by
  have hexec : exec .copyOperationStart s = execCopyOperationStart s := rfl
  simp only [hexec, execCopyOperationStart, hhold, hrun, hfirst, hstop, Option.isSome_none, Bool.or_self, Bool.false_eq_true, if_false]

theorem exec_copyRingRoom_free (hx : s.tile.copy.entries[n] = x) (hrun : s.tile.copy.running = some n) (hmode : x.mode = 3) (hroom : x.room = false)
    (hfree : (shapeOf 3 x.desc).len ≤ 1024 * (s.tile.ring (ringOf x)).free) :
    exec .copyRingRoom s = .next (s.setCopy n { x with room := true, tail := (s.tile.ring (ringOf x)).tail.toNat }) := by
  have hexec : exec .copyRingRoom s = execCopyRingRoom s := rfl
  have hgo : (x.mode == 3 && !x.room && decide ((shapeOf 3 x.desc).len ≤ 1024 * (s.tile.ring (ringOf x)).free)) = true := by
    rw [hmode, hroom, decide_eq_true hfree]
    rfl
  simp only [hexec, execCopyRingRoom, hrun, hx, hgo, if_true]

/-! ### The end of an operation -/

/-- An entry whose operation has ended. -/
def CopyEntry.endedWith (x : CopyEntry) (n : Fin 8) (stat : Nat) : CopyEntry :=
  { x with busy := false, started := false, ended := true, status := statusWord stat n.val x.gen 0 x.poi x.done }

theorem State.placeWord_tile (s : State) (k : CoreSel) (q1 : Bool) (w : Word) :
    ∃ hold, (s.placeWord k q1 w).tile = { s.tile with copy := { s.tile.copy with hold := hold } } := by
  unfold State.placeWord
  split
  · exact ⟨s.tile.copy.hold, (s.modOwn_tile k _).1⟩
  · exact ⟨_, rfl⟩

/-- The end of an operation changes of the tile its entry, and the word that the engine holds. -/
theorem State.endCopy_tile (s : State) (n : Fin 8) (stat : Nat) : ∃ hold, (s.endCopy n stat).tile =
    { s.tile with copy := { s.tile.copy with entries := vput s.tile.copy.entries n ((s.tile.copy.entries[n]).endedWith n stat), hold := hold } } := by
  unfold State.endCopy
  dsimp only
  split
  · exact State.placeWord_tile ..
  · split
    · exact ⟨s.tile.copy.hold, rfl⟩
    · exact State.placeWord_tile ..

theorem State.endCopy_entry (s : State) (n : Fin 8) (stat : Nat) :
    (s.endCopy n stat).tile.copy.entries[n] = (s.tile.copy.entries[n]).endedWith n stat := by
  obtain ⟨hold, htile⟩ := s.endCopy_tile n stat
  rw [htile]
  exact vput_same ..

theorem State.endCopy_frame (s : State) (n : Fin 8) (stat : Nat) :
    (s.endCopy n stat).tile.slice = s.tile.slice ∧ (s.endCopy n stat).tile.rings = s.tile.rings := by
  obtain ⟨hold, htile⟩ := s.endCopy_tile n stat
  rw [htile]
  exact ⟨rfl, rfl⟩

/-- With room in the queue of the core in focus, the status word is appended there. -/
theorem State.endCopy_core (hx : s.tile.copy.entries[n] = x) (hcore : x.core = s.sel) (hflag : (descWord x.desc 3).getLsbD 0 = false)
    (hroom : s.core.q.cq.length < 8) (stat : Nat) :
    (s.endCopy n stat).core = s.core.place false (statusWord stat n.val x.gen 0 x.poi x.done) := by
  have hqueue : ∀ u : State, u.core = s.core → u.sel = s.sel → (u.ownCore s.sel).hasRoom false = true := by
    intro u hu hsel
    simp [State.ownCore, hu, hsel, Core.hasRoom, hroom]
  simp only [State.endCopy, hx, hflag, hcore, Bool.not_false, if_true, State.placeWord,
    hqueue (s.setCopy n _) rfl rfl, State.modOwn]
  simp [State.setCopy, State.modTile]

theorem exec_copyOperationEnd_done (hx : s.tile.copy.entries[n] = x) (hrun : s.tile.copy.running = some n) (hfin : x.finished = true)
    (hmode : x.mode ≠ 3) : exec .copyOperationEnd s = .next (s.endCopy n 0) := by
  have hexec : exec .copyOperationEnd s = execCopyOperationEnd s := rfl
  simp only [hexec, execCopyOperationEnd, hrun, hx, hfin, beq_eq_false_iff_ne.2 hmode, Bool.not_true, Bool.false_and, Bool.or_self,
    Bool.false_eq_true, if_false]

/-- A to-ring operation whose ring has room advances TAIL as it ends. -/
theorem exec_copyOperationEnd_ring (hx : s.tile.copy.entries[n] = x) (hrun : s.tile.copy.running = some n) (hfin : x.finished = true)
    (hcore : x.core = s.sel) (hmode : x.mode = 3) (hfree : (shapeOf 3 x.desc).len / 1024 ≤ (s.tile.ring (ringOf x)).free) :
    exec .copyOperationEnd s = .next ((s.tailAdvance (ringOf x) ((shapeOf 3 x.desc).len / 1024)).endCopy n 0) := by
  have hexec : exec .copyOperationEnd s = execCopyOperationEnd s := rfl
  have hadvance := State.atCore_self (s := s) (id := s.tile.id) (f := fun s => s.tailAdvance (ringOf x) ((shapeOf 3 x.desc).len / 1024)) rfl
    hcore.symm rfl rfl
  have hmode3 : (x.mode == 3) = true := by rw [hmode]; rfl
  simp only [hexec, execCopyOperationEnd, hrun, hx, hfin, hmode3, decide_eq_false (Nat.not_lt.2 hfree), Bool.not_true, Bool.and_false, Bool.or_self,
    Bool.false_eq_true, if_false, if_true, hadvance]

/-! ### A held word -/

/-- The word that the engine holds goes in when the queue has room. -/
theorem exec_completionPlaceDeferred_room {w : Word} (hhold : s.tile.copy.hold = some (s.sel, false, w)) (hroom : s.core.q.cq.length < 8) :
    exec .completionPlaceDeferred s =
      .next { s with tile := { s.tile with copy := { s.tile.copy with hold := none } }, core := s.core.place false w } := by
  have hexec : exec .completionPlaceDeferred s = execCompletionPlaceDeferred s := rfl
  have hqueue : (s.ownCore s.sel).hasRoom false = true := by simp [State.ownCore, Core.hasRoom, hroom]
  simp only [hexec, execCompletionPlaceDeferred, hhold, hqueue, if_true, State.modOwn, State.modTile, beq_self_eq_true]

end

end Sys2Proof.Machine

namespace Sys2Proof
open Machine

/-- Settles O29: one lemma for each event of the engine. -/
theorem copiesRun : Obligations.CopiesRun := by
  intro s n
  refine ⟨exec_copyOperationStart_first, exec_copyRingRoom_free rfl, ?_, ?_, ?_, ?_⟩
  · intro hrun hmode hunit hwithin hstop hcore hpeer h0 h1 hsrc hdst hf hpoi hl he hr hwf
    obtain ⟨hdone, hin, hrow⟩ := CopyEntry.moved_plain hmode hunit (Nat.min 4096 ((shapeOf 0 (s.tile.copy.entries[n]).desc).len -
      (s.tile.copy.entries[n]).within))
    refine ⟨_, exec_copyChunk_plain rfl hrun ⟨hmode, hunit, hwithin, h0, h1, hsrc, hdst⟩ ⟨hf, hpoi, hl, he, hr⟩ hstop hcore hpeer, rfl, ?_, ?_, ?_,
      fun a => State.chunkMoved_read hf hwf ..⟩ <;> rw [State.chunkMoved_entry]
    exacts [hdone, hin, hrow]
  · intro hrun hfin hcore hmode hflag hroom
    have hen := s.endCopy_entry n 0
    have hown := State.endCopy_core rfl hcore hflag hroom 0
    have hreg (r : SReg) : (s.endCopy n 0).S r = s.S r := by rw [State.S, hown]; rfl
    exact ⟨_, exec_copyOperationEnd_done rfl hrun hfin hmode, by rw [hown]; rfl, congrArg CopyEntry.ended hen, congrArg CopyEntry.busy hen,
      by rw [hen]; rfl, by rw [hown]; rfl, hreg, s.endCopy_frame n 0⟩
  · intro hrun hfin hcore hmode hfree
    obtain ⟨hslice, hrings⟩ := (s.tailAdvance (ringOf (s.tile.copy.entries[n])) ((shapeOf 3 (s.tile.copy.entries[n]).desc).len / 1024)).endCopy_frame n 0
    refine ⟨_, exec_copyOperationEnd_ring rfl hrun hfin hcore hmode hfree, congrArg CopyEntry.ended (State.endCopy_entry ..), ?_, hslice⟩
    rw [hrings]
    exact vput_same ..
  · intro w hhold hroom
    exact ⟨_, exec_completionPlaceDeferred_room hhold hroom, rfl, rfl, rfl, fun _ => rfl⟩

end Sys2Proof
end

section
/-! SUPPORT. Blocks in the slice, and buffers by their sealed pairs (09 R235, R240). -/

namespace Sys2Proof.Machine

section
variable {s : State}

/-! ### A block of n bytes at a pointer -/

theorem State.blockAt_refused {p : Word} {n : Nat} (h : ¬ (ptrSpace p = 0 ∧ ptrOfs p % n = 0 ∧ ptrOfs p + n ≤ 0x80000)) :
    s.blockAt p p n n = .trap .bnd p := by
  have hbad : (ptrSpace p != 0 || ptrOfs p % n != 0 || decide (0x80000 < ptrOfs p + n)) = true := by
    simp only [Bool.or_eq_true, bne_iff_ne, decide_eq_true_eq, ← Nat.not_le]
    tauto
  simp only [State.blockAt, hbad, if_true]

theorem State.blockAt_legal {p tva : Word} {n : Nat} (hspace : ptrSpace p = 0) (halign : ptrOfs p % n = 0) (hin : ptrOfs p + n ≤ 0x80000)
    (hpoi : s.tile.poison = []) (hl : s.tile.leaseDir = []) :
    s.blockAt p tva n n = .ok ((s.tile.slice.readMany (ptrOfs p) n).map BitVec.toNat) := by
  have hclean (l : List Nat) : l.any List.nil.contains = false := by simp
  simp only [State.blockAt, hspace, halign, decide_eq_false (Nat.not_lt.2 hin), State.recallOwn_none hl, hpoi, hclean, Chk.bind_ok,
    bne_self_eq_false, Bool.or_self, Bool.false_eq_true, if_false]

/-! ### The buffer of a storage command -/

section
variable {a : SReg} {ok : Word → Bool} {len : Nat → Bool}

theorem State.bufChk_grants (h : s.grants (s.S a) (s.S (a + 1)) (ok (s.S a)) 0) (hlen : len (capLen (s.S (a + 1))) = true) :
    s.bufChk a ok len = .ok () := by
  obtain ⟨hseal, hps, hok, -, hpoi, hrev⟩ := h
  have hpair : pairOf a = a + 1 := rfl
  simp only [State.bufChk, hpair, hseal, hps, hok, hlen, hpoi, hrev, Bool.not_true, Bool.or_self, Bool.false_eq_true, if_false]

theorem State.bufChk_refused (h : isSealed s.tile.ctx (s.S a) (s.S (a + 1)) = false ∨ capPS (s.S a) = false ∨ ok (s.S a) = false) :
    s.bufChk a ok len = .trap .capv (edgePtr (capBase (s.S a))) := by
  have hpair : pairOf a = a + 1 := rfl
  have hbad : (!isSealed s.tile.ctx (s.S a) (s.S (a + 1)) || !capPS (s.S a) || !ok (s.S a) || !len (capLen (s.S (a + 1)))) = true := by
    rcases h with h | h | h <;> rw [h] <;> simp
  simp only [State.bufChk, hpair, hbad, if_true]

/-- A slot that is found valid is noted in the check cache. -/
theorem State.noteClear_eq (s : State) (slot : Nat) : ∃ cache, s.noteClear slot = { s with tile := { s.tile with ckCache := cache } } := by
  unfold State.noteClear
  split
  · exact ⟨s.tile.ckCache, rfl⟩
  · exact ⟨_, rfl⟩

end
end

end Sys2Proof.Machine
end

section
/-! SUPPORT. Storage commands at issue (09 R234, R235). -/

namespace Sys2Proof.Machine

/-! ### Blocks that ask for no keys -/

/-- Only KVLST has a greatest number of keys. -/
theorem kvBlockOk_keys {op spaces : Nat} {blk : List Nat} (hop : op ≠ 3) (h : kvBlockOk op spaces blk = true) :
    (blk[24]?).getD 0 + 256 * (blk[25]?).getD 0 = 0 := by
  simp only [kvBlockOk, beq_eq_false_iff_ne.2 hop, Bool.and_eq_true, Bool.false_eq_true, if_false, upto_eq_range, List.all_eq_true, List.mem_range,
    beq_iff_eq] at h
  obtain ⟨-, hzero⟩ := h
  have h24 : (blk[24]?).getD 0 = 0 := hzero 0 (by decide)
  have h25 : (blk[25]?).getD 0 = 0 := hzero 1 (by decide)
  omega

section
variable {s : State} {d a b : SReg} {op base len keys : Nat} {blk : List Nat}

/-- The state after a storage command has been posted. -/
def State.kvPost (s : State) (op : Nat) (d : SReg) (base len keys : Nat) (blk : List Nat) : State :=
  ((State.setS { s with
    core := { s.core with kvTag := s.core.kvTag + 1, kvOut := s.core.kvOut + 1 }
    storage := s.storage ++ [s.kvCommand op base len keys blk] } d (s.core.kvTag.zeroExtend 64)).modCtx
      fun x => { x with storageOps := x.storageOps + 1 }).retire

/-- The compute core has no storage commands. -/
theorem exec_kv_comp (hsel : s.sel = .comp) : ∀ i ∈ [Instr.kvget d a b, .kvset d a b, .kvlst d a b, .kvdel d b],
    exec i s = .next (s.takeTrap .ill s.core.pc s.core.pc false) := by
  simp only [List.forall_mem_cons, List.not_mem_nil, false_implies, implies_true, and_true]
  exact ⟨State.staging_comp hsel _, State.staging_comp hsel _, State.staging_comp hsel _, State.staging_comp hsel _⟩

/-- What a posted command leaves, with the check cache as it may be. -/
theorem State.kvPosted_of_exec {i : Instr} {slots : List Nat}
    (h : exec i s = .next (State.kvPost { s with tile := { s.tile with ckCache := slots } } op d base len keys blk)) :
    s.kvPosted i d blk op base len keys := by
  refine ⟨_, _, h, Core.setS_npc .., Core.S_setS_self .., fun r hr => Core.S_setS_ne _ _ hr, ?_, ?_, rfl, rfl, rfl, rfl, rfl, rfl, rfl, rfl, rfl, rfl,
    rfl, rfl, rfl, rfl⟩
  · exact Core.setS_kvTag ..
  · exact Core.setS_kvOut ..

section
variable (hs : s.core.still = true)
include hs

theorem State.kvIssue_free (hout : s.core.kvOut < 8) (hhaw : s.hawser = false) :
    s.kvIssue op d base len keys blk = .next (s.kvPost op d base len keys blk) := by
  have hgo : (s.core.acquiring || !s.releaseReady .wafer || decide (8 ≤ s.core.kvOut) || s.hawser) = false := by
    simp only [Core.still_acquiring hs, State.still_releaseReady hs, decide_eq_false (Nat.not_le.2 hout), hhaw, Bool.not_true, Bool.or_self]
  simp only [State.kvIssue, hgo, Bool.false_eq_true, if_false]
  rfl

/-- A command whose block or buffer is refused. -/
theorem State.kv_badPointer {ok : Word → Bool} {cap : Nat → Bool}
    (h : ¬ (ptrSpace (s.S b) = 0 ∧ ptrOfs (s.S b) % 32 = 0 ∧ ptrOfs (s.S b) + 32 ≤ 0x80000)) :
    s.kv op d a b ok cap = .next (s.takeTrap .bnd (s.S b) s.core.pc false) := by
  simp only [State.kv, Core.still_ready hs, State.blockAt_refused h, Chk.run_trap, State.trapB_bnd, Bool.not_true, Bool.false_eq_true, if_false]

/-- A legal block at S(b), in a slice without poison and leases. -/
structure State.BlockAt (s : State) (b : SReg) : Prop where
  space : ptrSpace (s.S b) = 0
  align : ptrOfs (s.S b) % 32 = 0
  inside : ptrOfs (s.S b) + 32 ≤ 0x80000
  poison : s.tile.poison = []
  lease : s.tile.leaseDir = []

/-- The bytes of the block at S(b). -/
def State.kvBlock (s : State) (b : SReg) : List Nat := (s.tile.slice.readMany (ptrOfs (s.S b)) 32).map BitVec.toNat

section
variable {ok : Word → Bool} {cap : Nat → Bool} (hb : s.BlockAt b)
include hb

omit hs in
theorem State.BlockAt.read : s.blockAt (s.S b) (s.S b) 32 32 = .ok (s.kvBlock b) :=
  State.blockAt_legal hb.space hb.align hb.inside hb.poison hb.lease

section
variable (hblk : kvBlockOk op (s.partOf s.tile.part).namespaces (s.kvBlock b) = true)
include hblk

/-- A command with a legal block is posted where its sealed pair allows it. -/
theorem State.kvPosted_of_grants {i : Instr} (hexec : exec i s = s.kv op d a b ok cap)
    (hgrant : s.grants (s.S a) (s.S (a + 1)) (ok (s.S a)) 0) (hcap : cap (capLen (s.S (a + 1))) = true) (hout : s.core.kvOut < 8)
    (hhaw : s.hawser = false) : s.kvPosted i d (s.kvBlock b) op (capBase (s.S a)) (capLen (s.S (a + 1)))
      (((s.kvBlock b)[24]?).getD 0 + 256 * ((s.kvBlock b)[25]?).getD 0) := by
  obtain ⟨slots, hclear⟩ := s.noteClear_eq (capSlot (s.S (a + 1)))
  have hpair : pairOf a = a + 1 := rfl
  refine State.kvPosted_of_exec (slots := slots) (hexec.trans ?_)
  simp only [State.kv, Core.still_ready hs, hb.read, hblk, State.bufChk_grants hgrant hcap, hpair, hclear, Chk.run_ok, Bool.not_true,
    Bool.false_eq_true, if_false]
  exact State.kvIssue_free hs hout hhaw

/-- A command other than KVLST has no greatest number of keys. -/
theorem State.kvPosted_noKeys (hop : op ≠ 3) {i : Instr} (hexec : exec i s = s.kv op d a b ok cap)
    (hgrant : s.grants (s.S a) (s.S (a + 1)) (ok (s.S a)) 0) (hcap : cap (capLen (s.S (a + 1))) = true) (hout : s.core.kvOut < 8)
    (hhaw : s.hawser = false) : s.kvPosted i d (s.kvBlock b) op (capBase (s.S a)) (capLen (s.S (a + 1))) 0 :=
  kvBlockOk_keys hop hblk ▸ State.kvPosted_of_grants hs hb hblk hexec hgrant hcap hout hhaw

theorem State.kv_unsealed (h : isSealed s.tile.ctx (s.S a) (s.S (a + 1)) = false ∨ capPS (s.S a) = false ∨ ok (s.S a) = false) :
    s.kv op d a b ok cap = .next (s.takeTrap .capv (edgePtr (capBase (s.S a))) s.core.pc false) := by
  simp only [State.kv, Core.still_ready hs, hb.read, hblk, State.bufChk_refused h, Chk.run_ok, Chk.run_trap, State.trapB_capv, Bool.not_true,
    Bool.false_eq_true, if_false]

end

end

/-! ### KVDEL, and the forms that cannot be shadowed (14 R354) -/

omit hs in
theorem State.unpaired_alone (h : s.tile.modes.paired = false) (k : Out) : s.unpaired k = k := by
  simp only [State.unpaired, h, Bool.false_eq_true, if_false]

section
variable (hsel : s.sel = .stage) (hpair : s.tile.modes.paired = false)
include hsel hpair

theorem exec_kvdel_badPointer (h : ¬ (ptrSpace (s.S b) = 0 ∧ ptrOfs (s.S b) % 32 = 0 ∧ ptrOfs (s.S b) + 32 ≤ 0x80000)) :
    exec (.kvdel d b) s = .next (s.takeTrap .bnd (s.S b) s.core.pc false) := by
  have hexec : exec (.kvdel d b) s = execKvdel d b s := rfl
  simp only [hexec, execKvdel, State.staging_stage hsel, State.unpaired_alone hpair, Core.still_ready hs, State.blockAt_refused h, Chk.run_trap,
    State.trapB_bnd, Bool.not_true, Bool.false_eq_true, if_false]

theorem exec_kvdel_posted (hb : s.BlockAt b) (hblk : kvBlockOk 2 (s.partOf s.tile.part).namespaces (s.kvBlock b) = true)
    (hout : s.core.kvOut < 8) (hhaw : s.hawser = false) : s.kvPosted (.kvdel d b) d (s.kvBlock b) 2 0 0 0 := by
  have hexec : exec (.kvdel d b) s = execKvdel d b s := rfl
  refine State.kvPosted_of_exec (slots := s.tile.ckCache) ?_
  simp only [hexec, execKvdel, State.staging_stage hsel, State.unpaired_alone hpair, Core.still_ready hs, hb.read, hblk, Chk.run_ok,
    State.kvIssue_free hs hout hhaw, Bool.not_true, Bool.false_eq_true, if_false]

omit hs hpair in
theorem exec_kvget : exec (.kvget d a b) s = s.kv 0 d a b capPW fun _ => true := State.staging_stage hsel _

omit hs hpair in
theorem exec_kvlst : exec (.kvlst d a b) s = s.kv 3 d a b capPW fun _ => true := State.staging_stage hsel _

omit hs in
theorem exec_kvset : exec (.kvset d a b) s = s.kv 1 d a b capPR fun n => decide (n ≤ 2097152) :=
  (State.staging_stage hsel _).trans (State.unpaired_alone hpair _)

end

end
end

end Sys2Proof.Machine
end

section
/-! SUPPORT. What an update of every tile of a team does to the tile in focus (09 R237, R245). -/

namespace Sys2Proof.Machine

/-! ### Updates of every tile that meets a condition -/

section
variable {s : State} {p : Tile → Bool} {f : FullTile → FullTile}

@[simp] theorem State.curTile_core (s : State) : s.curTile.core s.sel = s.core := by
  unfold State.curTile
  split <;> rename_i h <;> rw [h] <;> rfl

@[simp] theorem State.mapTiles_sel (s : State) (p : Tile → Bool) (f : FullTile → FullTile) : (s.mapTiles p f).sel = s.sel := by
  unfold State.mapTiles; dsimp only; split <;> rfl
@[simp] theorem State.mapTiles_storage (s : State) (p : Tile → Bool) (f : FullTile → FullTile) : (s.mapTiles p f).storage = s.storage := by
  unfold State.mapTiles; dsimp only; split <;> rfl
@[simp] theorem State.mapTiles_collOps (s : State) (p : Tile → Bool) (f : FullTile → FullTile) : (s.mapTiles p f).collOps = s.collOps := by
  unfold State.mapTiles; dsimp only; split <;> rfl

/-- The tile in focus is replaced where it meets the condition. -/
theorem State.mapTiles_hit (h : p s.tile = true) :
    (s.mapTiles p f).tile = (f s.curTile).tile ∧ (s.mapTiles p f).core = (f s.curTile).core s.sel := by
  simp only [State.mapTiles, State.curTile_tile, h, if_true]
  exact ⟨rfl, rfl⟩

theorem State.mapTiles_miss (h : p s.tile = false) : (s.mapTiles p f).tile = s.tile ∧ (s.mapTiles p f).core = s.core := by
  simp only [State.mapTiles, State.curTile_tile, h, Bool.false_eq_true, if_false, and_self]

/-- What an update of tiles keeps of every tile, it keeps of the one in focus. -/
theorem State.mapTiles_keeps {α : Type} (g : Tile → α) (hf : ∀ u : FullTile, g (f u).tile = g u.tile) : g (s.mapTiles p f).tile = g s.tile := by
  cases h : p s.tile with
  | true => rw [(State.mapTiles_hit h).1, hf, State.curTile_tile]
  | false => rw [(State.mapTiles_miss h).1]

/-- An update that leaves the cores leaves the core in focus. -/
theorem State.mapTiles_core (hf : ∀ u k, (f u).core k = u.core k) : (s.mapTiles p f).core = s.core := by
  cases h : p s.tile with
  | true => rw [(State.mapTiles_hit h).2, hf, State.curTile_core]
  | false => exact (State.mapTiles_miss h).2

@[simp] theorem FullTile.core_setCore (u : FullTile) (k : CoreSel) (c : Core) : (u.setCore k c).core k = c := by cases k <;> rfl
theorem FullTile.core_setCore_ne (u : FullTile) {k j : CoreSel} (h : j ≠ k) (c : Core) : (u.setCore k c).core j = u.core j := by
  cases k <;> cases j
  case stage.stage => exact absurd rfl h
  case comp.comp => exact absurd rfl h
  all_goals rfl
@[simp] theorem FullTile.tile_setCore (u : FullTile) (k : CoreSel) (c : Core) : (u.setCore k c).tile = u.tile := by cases k <;> rfl

/-! ### A charge to a tile (15 R381) -/

section
variable (s : State) (ctx tag : Nat) (h : W32) (k : Fin 3) (n : Nat)

theorem State.chargeTile_core : (s.chargeTile ctx tag h k n).core = s.core := State.mapTiles_core fun _ k => by cases k <;> rfl

theorem State.chargeTile_tile {α : Type} (g : Tile → α) (hg : ∀ t : Tile, g (t.addCharge k n) = g t) :
    g (s.chargeTile ctx tag h k n).tile = g s.tile := State.mapTiles_keeps g fun u => hg u.tile

@[simp] theorem State.chargeTile_sel : (s.chargeTile ctx tag h k n).sel = s.sel := State.mapTiles_sel ..
@[simp] theorem State.chargeTile_teams : (s.chargeTile ctx tag h k n).teams = s.teams := State.mapTiles_teams ..
@[simp] theorem State.chargeTile_storage : (s.chargeTile ctx tag h k n).storage = s.storage := State.mapTiles_storage ..
@[simp] theorem State.chargeTile_collOps : (s.chargeTile ctx tag h k n).collOps = s.collOps := State.mapTiles_collOps ..

/-- A charge is no byte of edge memory. -/
theorem State.chargeTile_edge (c : Nat) : ((s.chargeTile ctx tag h k n).ctx c).edge = (s.ctx c).edge :=
  State.ctx_put_keeps Ctx.edge (s := s) (n := ctx) (x := (s.ctx ctx).charge k n) (State.mapTiles_ctxs ..) rfl c

end

/-! ### The tile of a team, by launch and handle -/

/-- The tile in focus is the tile with this handle of the team with these numbers. -/
structure State.IsHome (s : State) (ctx tag launch : Nat) (h : W32) : Prop where
  owned : s.tile.owned = true
  ctx_eq : s.tile.ctx = ctx
  tag_eq : s.tile.ttag = tag
  hnd_eq : s.tile.hnd = h
  launch_eq : s.launchOf ctx tag = launch

/-- What a result comes to where its tile is in focus. -/
theorem State.onTeamTile_home {ctx tag launch : Nat} {h : W32} (hh : s.IsHome ctx tag launch h) :
    (s.onTeamTile ctx tag launch h f).tile = (f s.curTile).tile ∧ (s.onTeamTile ctx tag launch h f).core = (f s.curTile).core s.sel ∧
      (s.onTeamTile ctx tag launch h f).ctxs = s.ctxs := by
  obtain ⟨howned, hctx, htag, hhnd, hlaunch⟩ := hh
  have hmine : (s.tile.owned && s.tile.ctx == ctx && s.tile.ttag == tag && s.tile.hnd == h) = true := by
    simp [howned, hctx, htag, hhnd]
  have hsome : (s.allTiles.any fun t => t.tile.owned && t.tile.ctx == ctx && t.tile.ttag == tag && t.tile.hnd == h) = true := by
    simp only [State.allTiles, List.any_cons, State.curTile_tile, hmine, Bool.true_or]
  have hmap := State.mapTiles_hit (f := f) (p := fun t => t.owned && t.ctx == ctx && t.ttag == tag && t.hnd == h) hmine
  simp only [State.onTeamTile, hlaunch, bne_self_eq_false, hsome, Bool.false_eq_true, if_false, if_true]
  exact ⟨hmap.1, hmap.2, State.mapTiles_ctxs ..⟩

@[simp] theorem State.onTeamTile_storage (s : State) (ctx tag launch : Nat) (h : W32) (f : FullTile → FullTile) :
    (s.onTeamTile ctx tag launch h f).storage = s.storage := by
  unfold State.onTeamTile
  split
  · rfl
  · split
    · exact State.mapTiles_storage ..
    · rfl

@[simp] theorem State.onTeamTile_collOps (s : State) (ctx tag launch : Nat) (h : W32) (f : FullTile → FullTile) :
    (s.onTeamTile ctx tag launch h f).collOps = s.collOps := by
  unfold State.onTeamTile
  split
  · rfl
  · split
    · exact State.mapTiles_collOps ..
    · rfl

/-- Teams and the owner of a tile make its home. -/
theorem State.IsHome.congr {t : State} {ctx tag launch : Nat} {h : W32} (hh : s.IsHome ctx tag launch h) (hteams : t.teams = s.teams)
    (howned : t.tile.owned = s.tile.owned) (hctx : t.tile.ctx = s.tile.ctx) (htag : t.tile.ttag = s.tile.ttag)
    (hhnd : t.tile.hnd = s.tile.hnd) : t.IsHome ctx tag launch h :=
  ⟨howned.trans hh.owned, hctx.trans hh.ctx_eq, htag.trans hh.tag_eq, hhnd.trans hh.hnd_eq, by rw [State.launchOf, hteams]; exact hh.launch_eq⟩

end

end Sys2Proof.Machine
end

section
/-! SUPPORT. Storage commands that end (09 R236, R237). -/

namespace Sys2Proof.Machine

section
variable {s : State} {k : KvOp} {y : KvAnswer}

/-- The core in focus after an entry has been appended to q2. -/
def Core.q2Add (c : Core) (w : Word) : Core := { c with q := { c.q with q2 := c.q.q2 ++ [w] } }

/-! ### What a command comes to -/

theorem State.kvResult_delete (hop : k.op = 2) :
    s.kvResult k y = (kvWord k.tag y.stat.toNat y.sct.toNat y.sc.toNat y.poi 0, []) := by
  simp [State.kvResult, hop, KvOp.bytes]

theorem State.kvResult_get (hop : k.op = 0) (hstat : y.stat = 0) (hpages : (s.ctx k.ctx).pagesOk k.base k.len true = true) :
    s.kvResult k y = (kvWord k.tag (if k.len < y.count.toNat then 3 else 0) y.sct.toNat y.sc.toNat y.poi y.count.toNat, y.value.take k.len) := by
  simp [State.kvResult, hop, hstat, hpages, KvOp.bytes]

/-! ### What is written -/

/-- What performing a command changes of the tile in focus: its charge. -/
theorem State.kvPerform_core (s : State) (k : KvOp) (bs : List Byte) : (s.kvPerform k bs).core = s.core := by
  unfold State.kvPerform
  rw [State.chargeTile_core]
  split <;> rfl

theorem State.kvPerform_tile {α : Type} (s : State) (k : KvOp) (bs : List Byte) (g : Tile → α) (hg : ∀ (t : Tile) n, g (t.addCharge 1 n) = g t) :
    g (s.kvPerform k bs).tile = g s.tile := by
  unfold State.kvPerform
  rw [State.chargeTile_tile _ _ _ _ _ _ g fun t => hg t _]
  split <;> rfl

theorem State.kvPerform_frame (s : State) (k : KvOp) (bs : List Byte) : (s.kvPerform k bs).sel = s.sel ∧ (s.kvPerform k bs).teams = s.teams ∧
    (s.kvPerform k bs).storage = s.storage := by
  simp only [State.kvPerform, State.chargeTile_sel, State.chargeTile_teams, State.chargeTile_storage]
  split <;> exact ⟨rfl, rfl, rfl⟩

/-- The edge memory after a command: its bytes stand in the buffer unless its copy was discarded. -/
theorem State.kvPerform_edge (hsh : k.sh = none) (s : State) (bs : List Byte) :
    ((s.kvPerform k bs).ctx k.ctx).edge = if k.void then (s.ctx k.ctx).edge else (s.ctx k.ctx).edge.writeMany k.base (bs.map some) := by
  unfold State.kvPerform
  rw [State.chargeTile_edge]
  split
  · rfl
  · rw [State.ctx_putCtx, hsh, ← map_plain]
    rfl

/-- Read back, a byte of the buffer is one of the value, below the buffer's end. -/
theorem read_writeValue {m : Memory} (hm : m.wf = true) (v : List Byte) (base len j : Nat) :
    (m.writeMany base ((v.take len).map some)).read (base + j) = if j < len then (v[j]?).getD (m.read (base + j)) else m.read (base + j) := by
  have hindex : base + j - base = j := by omega
  rw [Memory.read_writeMany _ _ _ _ hm, if_pos (Nat.le_add_right ..), hindex, List.getElem?_map, List.getElem?_take]
  split
  · cases v[j]? <;> rfl
  · rfl

/-! ### The event -/

/-- The only command is of the core in focus, in a team that runs here. -/
structure State.KvHere (s : State) (k : KvOp) : Prop where
  storage : s.storage = [k]
  core : k.core = s.sel
  home : s.IsHome k.ctx k.ttag k.launch k.hnd

theorem exec_storageCommandComplete_here (hk : s.KvHere k) : exec (.storageCommandComplete k.tag y) s = .next (s.kvEnd k y) := by
  have hmine : s.kvMine k = true := by
    simp [State.kvMine, hk.core, hk.home.owned, hk.home.ctx_eq, hk.home.tag_eq, hk.home.hnd_eq]
  have hfind : (s.storage.find? fun c => c.tag == k.tag && s.kvMine c) = some k := by
    simp [hk.storage, hmine]
  have hexec : exec (.storageCommandComplete k.tag y) s = execStorageCommandComplete k.tag y s := rfl
  simp only [hexec, execStorageCommandComplete, hfind, Option.orElse_some]

/-- A command ends with its word in q2 of its core, its writes performed. -/
theorem State.kvEnd_here (hk : s.KvHere k) : (s.kvEnd k y).storage = [] ∧ (s.kvEnd k y).core = s.core.q2Add (s.kvResult k y).1 ∧
    (s.kvEnd k y).tile.slice = s.tile.slice ∧ (s.kvEnd k y).tile.ctx = s.tile.ctx ∧
    (s.kvEnd k y).ctxs = (State.kvPerform { s with storage := [] } k (s.kvResult k y).2).ctxs := by
  have hrest : s.storage.erase k = [] := by rw [hk.storage]; simp
  generalize hP : State.kvPerform { s with storage := [] } k (s.kvResult k y).2 = P
  have htile {α : Type} (g : Tile → α) (hg : ∀ (t : Tile) n, g (t.addCharge 1 n) = g t) : g P.tile = g s.tile := by
    rw [← hP]
    exact State.kvPerform_tile _ _ _ g hg
  have hcore : P.core = s.core := by rw [← hP]; exact State.kvPerform_core ..
  obtain ⟨hsel, hteams, hstorage⟩ := State.kvPerform_frame { s with storage := [] } k (s.kvResult k y).2
  rw [hP] at hsel hteams hstorage
  have hhome : P.IsHome k.ctx k.ttag k.launch k.hnd := hk.home.congr hteams (htile _ fun _ _ => rfl) (htile _ fun _ _ => rfl)
    (htile _ fun _ _ => rfl) (htile _ fun _ _ => rfl)
  have hend : s.kvEnd k y = P.onTeamTile k.ctx k.ttag k.launch k.hnd fun u => u.setCore k.core ((u.core k.core).q2Add (s.kvResult k y).1) := by
    rw [State.kvEnd, hrest, ← hP]
    rfl
  obtain ⟨hdoneTile, hdoneCore, hdoneCtxs⟩ := State.onTeamTile_home hhome (f := fun u => u.setCore k.core ((u.core k.core).q2Add (s.kvResult k y).1))
  have hkP : k.core = P.sel := hk.core.trans hsel.symm
  rw [FullTile.tile_setCore, State.curTile_tile] at hdoneTile
  rw [hkP, FullTile.core_setCore, State.curTile_core, hcore, ← hkP] at hdoneCore
  rw [hend]
  refine ⟨(State.onTeamTile_storage ..).trans hstorage, hdoneCore, ?_, ?_, hdoneCtxs⟩ <;> rw [hdoneTile]
  exacts [htile _ fun _ _ => rfl, htile _ fun _ _ => rfl]

end

end Sys2Proof.Machine

namespace Sys2Proof
open Machine

/-- Settles O30: a block that passes its checks is posted with the next tag, and a command that ends does so at its core. -/
theorem storageCommandsArePostedAndComplete : Obligations.StorageCommandsArePostedAndComplete := by
  refine ⟨fun s d a b hsel => ?_, fun s d a b hsel hs hout hpair => ⟨fun hbad => ⟨?_, ?_⟩, fun hspace halign hin hpoi hl hhaw => ?_⟩,
    fun s k y hstorage hhnd hcore hctx htag hlaunch howned hwf => ?_⟩
  · simpa only [List.forall_mem_cons, List.not_mem_nil, false_implies, implies_true, and_true] using exec_kv_comp (d := d) (a := a) (b := b) hsel
  · exact exec_kvdel_badPointer hs hsel hpair hbad
  · exact (exec_kvget hsel).trans (State.kv_badPointer hs hbad)
  · have hb : s.BlockAt b := ⟨hspace, halign, hin, hpoi, hl⟩
    refine ⟨fun hblk => exec_kvdel_posted hs hsel hpair hb hblk hout hhaw, fun hgrant => ⟨fun hblk => ?_, fun hblk => ?_⟩,
      fun hgrant hblk hcap => ?_, fun hblk hseal => ?_⟩
    · exact State.kvPosted_noKeys hs hb hblk (by decide) (exec_kvget hsel) hgrant rfl hout hhaw
    · exact State.kvPosted_of_grants hs hb hblk (exec_kvlst hsel) hgrant rfl hout hhaw
    · exact State.kvPosted_noKeys hs hb hblk (by decide) (exec_kvset hsel hpair) hgrant (decide_eq_true hcap) hout hhaw
    · exact (exec_kvget hsel).trans (State.kv_unsealed hs hb hblk hseal)
  · have hk : s.KvHere k := ⟨hstorage, hcore, ⟨howned, hctx.symm, htag.symm, hhnd.symm, hlaunch⟩⟩
    obtain ⟨hgone, hq, hslice, htctx, hctxs⟩ := State.kvEnd_here (y := y) hk
    refine ⟨fun hop => ?_, fun hop hstat hsh hpages => ?_⟩
    · have hreg (r : SReg) : (s.kvEnd k y).S r = s.S r := by rw [State.S, hq]; rfl
      exact ⟨_, exec_storageCommandComplete_here hk, hgone, hreg, by rw [hq]; rfl, hslice, by rw [hq, State.kvResult_delete hop]; rfl⟩
    · have hmine : s.myCtx = s.ctx k.ctx := by rw [hctx]; rfl
      have hres := State.kvResult_get (y := y) hop hstat (hmine ▸ hpages)
      have hedge : (s.kvEnd k y).myCtx.edge = if k.void then s.myCtx.edge else s.myCtx.edge.writeMany k.base ((y.value.take k.len).map some) := by
        rw [State.myCtx, htctx, State.ctx_congr hctxs, ← hctx, hmine, State.kvPerform_edge hsh, hres]
        rfl
      refine ⟨_, exec_storageCommandComplete_here hk, hgone, by rw [hq, hres]; rfl, fun hvoid => ?_, fun hvoid j => ?_⟩
      · rw [hedge, if_pos hvoid]
      · rw [hedge, if_neg (Bool.eq_false_iff.1 hvoid), read_writeValue hwf]

end Sys2Proof
end

section
/-! SUPPORT. The only operation of the collective engines: its blocks, and how it goes on (09 R241-R244, R286). -/

namespace Sys2Proof.Machine

/-! ### Lists without duplicates -/

theorem mem_addTo {l : List Nat} {x y : Nat} : y ∈ addTo l x ↔ y ∈ l ∨ y = x := by
  unfold addTo
  split
  · rename_i h
    have hx : x ∈ l := by simpa using h
    exact ⟨.inl, fun h => h.elim id fun e => e ▸ hx⟩
  · simp

/-! ### Blocks -/

section
variable {o : CollOp} {b : Nat}

/-- A block is full once the bitmap names every member that it needs. -/
theorem CollOp.full_iff : o.full b = true ↔ ∀ r ∈ o.needs b, r ∈ Tab.get o.bitmap [] b := by
  simp [CollOp.full]

theorem CollOp.full_eq_false {r : Nat} (hr : r ∈ o.needs b) (hb : r ∉ Tab.get o.bitmap [] b) : o.full b = false :=
  Bool.eq_false_iff.2 fun h => hb (CollOp.full_iff.1 h r hr)

/-- All parameters have come: of every member but the own one. -/
theorem CollOp.allKnown_iff : o.allKnown = true ↔ ∀ r < o.m, r = o.own ∨ r ∈ o.known := by
  simp [CollOp.allKnown, upto_eq_range]

/-- No block can go on where each is not full, written or missing. -/
theorem CollOp.ready_none (h : ∀ b < o.blocks, o.full b = false ∨ b ∈ o.written ∨ b ∈ o.missing) : o.ready = none := by
  unfold CollOp.ready
  split
  · rfl
  · refine List.find?_eq_none.2 fun b hb => ?_
    have hlt : b < o.blocks := by simpa [upto_eq_range] using hb
    rcases h b hlt with h | h | h <;> simp [h]

end

/-! ### The table of operations -/

section
variable {s : State} {o p : CollOp} {slot : Nat}

theorem State.find_one (h : s.collOps = [o]) (hslot : o.slot = slot) : (s.collOps.find? fun p => p.slot == slot) = some o := by
  simp [h, hslot]

theorem State.putOp_one (h : s.collOps = [p]) (hslot : p.slot = o.slot) : (s.putOp o).collOps = [o] := by
  simp [State.putOp, h, hslot]

@[simp] theorem State.putOp_core (s : State) (o : CollOp) : (s.putOp o).core = s.core := rfl
@[simp] theorem State.putOp_tile (s : State) (o : CollOp) : (s.putOp o).tile = s.tile := rfl

theorem State.collFinish_one (h : s.collOps = [p]) (hslot : p.slot = o.slot) (stat : Nat) : (s.collFinish o stat).collOps = [] := by
  simp [State.collFinish, h, hslot]

@[simp] theorem State.closeWindow_collOps (s : State) (o : CollOp) : (s.closeWindow o).collOps = s.collOps := State.mapTiles_collOps ..

@[simp] theorem State.closeWindow_core (s : State) (o : CollOp) : (s.closeWindow o).core = s.core := State.mapTiles_core fun _ k => by cases k <;> rfl

/-! ### Writing a block -/

@[simp] theorem State.farWrite_core (s : State) (ctx tag : Nat) (net : Bool) (a : Nat) (bs : List (Option PByte)) :
    (s.farWrite ctx tag net a bs).core = s.core := by unfold State.farWrite; split <;> rfl
@[simp] theorem State.farWrite_tile (s : State) (ctx tag : Nat) (net : Bool) (a : Nat) (bs : List (Option PByte)) :
    (s.farWrite ctx tag net a bs).tile = s.tile := by unfold State.farWrite; split <;> rfl
@[simp] theorem State.farWrite_collOps (s : State) (ctx tag : Nat) (net : Bool) (a : Nat) (bs : List (Option PByte)) :
    (s.farWrite ctx tag net a bs).collOps = s.collOps := by unfold State.farWrite; split <;> rfl

/-- An operation one of whose blocks has been written. -/
def CollOp.wrote (o : CollOp) (b : Nat) (bs : List PByte) : CollOp := { o with written := o.written ++ [b], poi := o.poi || bs.any (·.2) }

theorem State.writeBlock_core (s : State) (o : CollOp) (b : Nat) (bs : List PByte) : (s.writeBlock o b bs).core = s.core := by
  unfold State.writeBlock
  simp only [State.putOp_core, State.chargeTile_core]
  split <;> simp

theorem State.writeBlock_tile {α : Type} (s : State) (o : CollOp) (b : Nat) (bs : List PByte) (g : Tile → α)
    (hg : ∀ (t : Tile) n, g (t.addCharge 1 n) = g t) : g (s.writeBlock o b bs).tile = g s.tile := by
  unfold State.writeBlock
  simp only [State.putOp_tile, State.chargeTile_tile _ _ _ _ _ _ g fun t => hg t _]
  split <;> simp

theorem State.writeBlock_one (h : s.collOps = [p]) (hslot : p.slot = o.slot) (b : Nat) (bs : List PByte) :
    (s.writeBlock o b bs).collOps = [o.wrote b bs] := by
  refine State.putOp_one (p := p) ?_ hslot
  simp only [State.chargeTile_collOps]
  split <;> simpa using h

/-! ### Going on -/

/-- The bytes of a block that needs no reduction: each from its member's contribution. -/
def CollOp.merged (o : CollOp) (b : Nat) : List PByte :=
  (upto (o.block b).2).map fun j =>
    ((Tab.get o.data [] (64 * b + if o.kind == 1 then o.root else ((o.block b).1 + j) / o.n))[j]?).getD (0, false)

/-- An operation ends once each block is written or missing, no index is out, and it waits for no parameters. -/
def CollOp.ends (o : CollOp) : Prop :=
  o.pushed = [] ∧ (o.allKnown = true ∨ o.missing ≠ []) ∧ o.blocks ≤ o.written.length + o.missing.length

section
variable (h : s.collOps = [o]) (hslot : o.slot = slot)
include h hslot

theorem collStep_none (hr : o.ready = none) (n : Nat) : collStep (n + 1) slot s =
    if o.pushed.isEmpty && (o.allKnown || !o.missing.isEmpty) && decide (o.blocks ≤ o.written.length + o.missing.length) then
      s.collFinish o (if o.missing.isEmpty then 0 else 5)
    else s := by
  simp only [collStep, State.find_one h hslot, hr]

theorem collStep_waits (hr : o.ready = none) (he : ¬ o.ends) (n : Nat) : collStep (n + 1) slot s = s := by
  rw [collStep_none h hslot hr, if_neg]
  simpa [CollOp.ends, and_assoc] using he

theorem collStep_ends (hr : o.ready = none) (he : o.ends) (n : Nat) :
    collStep (n + 1) slot s = s.collFinish o (if o.missing.isEmpty then 0 else 5) := by
  rw [collStep_none h hslot hr, if_pos]
  simpa [CollOp.ends, and_assoc] using he

theorem collStep_writes {b : Nat} (hr : o.ready = some b) (hk : o.kind ≠ 0) (n : Nat) :
    collStep (n + 1) slot s = collStep n slot (s.writeBlock o b (o.merged b)) := by
  simp only [collStep, State.find_one h hslot, hr, beq_eq_false_iff_ne.2 hk, Bool.false_eq_true, if_false]
  rfl

theorem State.collGo_eq : s.collGo slot = collStep (o.blocks + 2) slot s := by
  simp only [State.collGo, State.find_one h hslot]

theorem State.collGo_waits (hr : o.ready = none) (he : ¬ o.ends) : s.collGo slot = s :=
  (State.collGo_eq h hslot).trans (collStep_waits h hslot hr he _)

theorem State.collGo_ends (hr : o.ready = none) (he : o.ends) : s.collGo slot = s.collFinish o (if o.missing.isEmpty then 0 else 5) :=
  (State.collGo_eq h hslot).trans (collStep_ends h hslot hr he _)

end
end

end Sys2Proof.Machine
end

section
/-! SUPPORT. Contributions, and the completion of an operation at its tile (09 R241-R243). -/

namespace Sys2Proof.Machine

section
variable {s : State} {o : CollOp} {c : CollContribution}

/-! ### Contributions -/

/-- The parameters of a contribution are those of the operation. -/
def CollOp.Agrees (o : CollOp) (c : CollContribution) : Prop := c.n = o.n ∧ c.type = o.type ∧ c.blklog = o.blklog ∧ c.root = o.root

/-- An operation after a contribution to a block; `known` are the members whose parameters have come. -/
def CollOp.received (o : CollOp) (c : CollContribution) (known : List Nat) : CollOp :=
  { o with
    known := known
    bitmap := Tab.put o.bitmap c.block (addTo (Tab.get o.bitmap [] c.block) c.member)
    data := Tab.put o.data (64 * c.block + c.member)
      ((upto (o.blockBytes c.block)).map fun j => ((c.bytes[j]?).getD 0, c.bad.contains (j / 32))) }

/-- The members whose parameters have come, after a contribution. -/
def CollOp.knownAfter (o : CollOp) (c : CollContribution) : List Nat :=
  if c.member < o.m && c.member != o.own then addTo o.known c.member else o.known

theorem CollOp.mem_knownAfter {r : Nat} (hr : r < o.m) (h : r = o.own ∨ r = c.member ∨ r ∈ o.known) : r = o.own ∨ r ∈ o.knownAfter c := by
  by_cases hown : r = o.own
  · exact .inl hown
  · refine .inr ?_
    unfold CollOp.knownAfter
    split
    · exact mem_addTo.2 ((h.resolve_left hown).symm)
    · rename_i hcond
      refine (h.resolve_left hown).resolve_left fun heq => hcond ?_
      simp [← heq, hr, hown]

theorem exec_contribution_disagrees (h : s.collOps = [o]) (hc : ¬ o.Agrees c) : exec (.collContributionArrival o.slot c) s =
    .next ((if o.pushed.isEmpty then s else s.closeWindow o).collFinish o 6) := by
  have hexec : exec (.collContributionArrival o.slot c) s = execCollContributionArrival o.slot c s := rfl
  have hbad : (c.n != o.n || c.type != o.type || c.blklog != o.blklog || c.root != o.root) = true := by
    simp only [Bool.or_eq_true, bne_iff_ne]
    unfold CollOp.Agrees at hc
    tauto
  simp only [hexec, execCollContributionArrival, State.find_one h rfl, hbad, if_true]

/-- A contribution that fits is kept, its member noted, and the operation goes on. -/
theorem exec_contribution_fits (h : s.collOps = [o]) (hc : o.Agrees c) (hneeds : c.member ∈ o.needs c.block) (hown : c.member ≠ o.own)
    (hblock : c.block < o.blocks) (hnew : c.member ∉ Tab.get o.bitmap [] c.block) (hw : o.written = []) (hm : o.missing = []) :
    exec (.collContributionArrival o.slot c) s = .next ((s.putOp (o.received c (o.knownAfter c))).collGo o.slot) := by
  have hexec : exec (.collContributionArrival o.slot c) s = execCollContributionArrival o.slot c s := rfl
  obtain ⟨hn, htype, hlog, hroot⟩ := hc
  have hnoted : (if c.member < o.m && c.member != o.own then { o with known := addTo o.known c.member } else o) =
      { o with known := o.knownAfter c } := by
    unfold CollOp.knownAfter
    split <;> rfl
  have hgo : (!(o.needs c.block).contains c.member || c.member == o.own || decide (o.blocks ≤ c.block) || o.written.contains c.block ||
      o.missing.contains c.block || (Tab.get o.bitmap [] c.block).contains c.member) = false := by
    simp [hneeds, hown, hblock, hnew, hw, hm]
  simp only [hexec, execCollContributionArrival, State.find_one h rfl, hn, htype, hlog, hroot, bne_self_eq_false, Bool.or_self,
    Bool.false_eq_true, if_false, hnoted]
  exact if_neg (Bool.eq_false_iff.1 hgo)

theorem CollOp.received_bitmap (o : CollOp) (c : CollContribution) (known : List Nat) (b r : Nat) :
    r ∈ Tab.get (o.received c known).bitmap [] b ↔ r ∈ Tab.get o.bitmap [] b ∨ b = c.block ∧ r = c.member := by
  by_cases hb : b = c.block
  · subst hb
    simp [CollOp.received, mem_addTo]
  · simp [CollOp.received, Tab.get_put_other _ _ _ hb, hb]

/-- A reduction each of whose blocks still needs another member waits. -/
theorem State.contribution_waits (h : s.collOps = [o]) (hblock : c.block < o.blocks) (hw : o.written = []) (hm : o.missing = [])
    (hlack : ∀ b < o.blocks, ∃ r ∈ o.needs b, r ∉ Tab.get o.bitmap [] b ∧ r ≠ c.member) (known : List Nat) :
    (s.putOp (o.received c known)).collGo o.slot = s.putOp (o.received c known) := by
  refine State.collGo_waits (o := o.received c known) (State.putOp_one h rfl) rfl (CollOp.ready_none fun b hb => .inl ?_) fun he => ?_
  · obtain ⟨r, hr, hold, hne⟩ := hlack b hb
    refine CollOp.full_eq_false (r := r) hr fun hmem => ?_
    exact ((CollOp.received_bitmap ..).1 hmem).elim hold fun h => hne h.2
  · have hle : o.blocks ≤ o.written.length + o.missing.length := he.2.2
    rw [hw, hm, List.length_nil] at hle
    omega

/-- A broadcast of one block whose data and parameters have come is written, and ends. -/
theorem State.broadcast_ends (h : s.collOps = [o]) (hkind : o.kind = 1) (hone : o.blocks = 1) (hw : o.written = []) (hm : o.missing = [])
    (hp : o.pushed = []) (hroot : c.member = o.root) (hblock : c.block = 0) {known : List Nat} (hknown : ∀ r < o.m, r = o.own ∨ r ∈ known) :
    ((s.putOp (o.received c known)).collGo o.slot).collOps = [] := by
  have hall : (o.received c known).allKnown = true := CollOp.allKnown_iff.2 hknown
  have hfull : (o.received c known).full 0 = true := by
    refine CollOp.full_iff.2 fun r hr => (CollOp.received_bitmap ..).2 (.inr ⟨hblock.symm, ?_⟩)
    have hneeds : (o.received c known).needs 0 = [o.root] := by simp [CollOp.needs, CollOp.received, hkind]
    rw [hneeds, List.mem_singleton] at hr
    exact hr.trans hroot.symm
  have hready : (o.received c known).ready = some 0 := by
    have hblocks : (o.received c known).blocks = 1 := hone
    have hfree : (o.received c known).written = [] ∧ (o.received c known).missing = [] ∧ (o.received c known).pushed = [] := ⟨hw, hm, hp⟩
    simp [CollOp.ready, hall, hblocks, hfull, hfree, upto_eq_range]
  have hput : (s.putOp (o.received c known)).collOps = [o.received c known] := State.putOp_one h rfl
  have hslot : (o.received c known).slot = o.slot := rfl
  rw [State.collGo_eq hput hslot, collStep_writes hput hslot hready (by show o.kind ≠ 0; omega)]
  generalize hbs : (o.received c known).merged 0 = bs
  have hwritten : ((o.received c known).wrote 0 bs).written = [0] := by
    show o.written ++ [0] = [0]
    rw [hw, List.nil_append]
  have hblocks : ((o.received c known).wrote 0 bs).blocks = 1 := hone
  have hwrote := State.writeBlock_one hput rfl 0 bs
  have hslot' : ((o.received c known).wrote 0 bs).slot = o.slot := rfl
  rw [collStep_ends hwrote hslot' (CollOp.ready_none fun b hb => .inr (.inl ?_)) ⟨hp, .inl hall, ?_⟩]
  · exact State.collFinish_one hwrote rfl _
  · rw [hblocks, hwritten, List.length_singleton]
    exact Nat.le_add_right ..
  · rw [hwritten, List.mem_singleton]
    omega

/-! ### The completion at a tile (R243, R245) -/

/-- A store is no completion that waits. -/
theorem Tile.store_collDone (t : Tile) (f a : Nat) (bs : List (Option PByte)) : (t.store f a bs).collDone = t.collDone := by
  have hread (t : Tile) (f w : Nat) : (t.readWordEcc f w).collDone = t.collDone := by
    unfold Tile.readWordEcc
    dsimp only
    repeat' split
    all_goals rfl
  unfold Tile.store
  dsimp only
  split
  · rfl
  · refine foldl_keeps (fun u : Tile => u.collDone = t.collDone) _ (fun u w hu => ?_) _ _ rfl
    split
    · exact hu
    · split
      · exact (hread u f w).trans hu
      · exact hu

/-- The tile of an operation that ends: a report where blocks are missing, and the slot free. -/
def FullTile.collFreed (u : FullTile) (o : CollOp) (rep : List Word) : Tile :=
  let t := if rep.isEmpty then u.tile else u.tile.store 0 o.report (plain ((rep.map fun x => leBytes 8 x.toNat).flatten))
  { t with coll := if h : o.tslot < 4 then vput t.coll ⟨o.tslot, h⟩ { t.coll[o.tslot] with busy := false } else t.coll }

theorem FullTile.collEnd_eq (u : FullTile) (o : CollOp) (w : Word) (rep : List Word) : u.collEnd o w rep =
    if (u.core o.core).hasRoom false && (u.collFreed o rep).collDone.isEmpty then
      { u with tile := u.collFreed o rep }.setCore o.core ((u.core o.core).place false w)
    else { u with tile := { u.collFreed o rep with collDone := (u.collFreed o rep).collDone ++ [(o.core, w)] } } := rfl

theorem FullTile.collFreed_collDone (u : FullTile) (o : CollOp) (rep : List Word) : (u.collFreed o rep).collDone = u.tile.collDone := by
  unfold FullTile.collFreed
  dsimp only
  split
  · rfl
  · exact Tile.store_collDone ..

/-- With room in its queue and none waiting, the word goes to its core. -/
theorem FullTile.collEnd_room {u : FullTile} (hroom : (u.core o.core).q.cq.length < 8) (hdone : u.tile.collDone = []) (w : Word) (rep : List Word) :
    (u.collEnd o w rep).core o.core = (u.core o.core).place false w := by
  rw [FullTile.collEnd_eq, FullTile.collFreed_collDone, hdone, if_pos (by simp [Core.hasRoom, hroom]), FullTile.core_setCore]

/-- What a completion word leaves of a core, the end of an operation leaves of both. -/
theorem FullTile.collEnd_keeps {α : Type} (g : Core → α) (hg : ∀ (c : Core) w, g (c.place false w) = g c) (u : FullTile) (o : CollOp) (w : Word)
    (rep : List Word) (k : CoreSel) : g ((u.collEnd o w rep).core k) = g (u.core k) := by
  have htile (t : Tile) (j : CoreSel) : ({ u with tile := t } : FullTile).core j = u.core j := by cases j <;> rfl
  rw [FullTile.collEnd_eq]
  split
  · by_cases hk : k = o.core
    · rw [hk, FullTile.core_setCore, hg]
    · rw [FullTile.core_setCore_ne _ hk, htile]
  · rw [htile]

/-! ### The end of an operation, with its tile in focus or not -/

/-- The status word of an operation that ends. -/
def CollOp.doneWord (o : CollOp) (stat : Nat) : Word := statusWord stat o.tslot o.gen 1 o.poi (if stat == 6 then 0 else o.written.length)

/-- The operation's tile is in focus, and its core has room for the word. -/
structure State.CompletesHere (s : State) (o : CollOp) : Prop where
  home : s.IsHome o.ctx o.ttag o.launch o.hnd
  core : o.core = s.sel
  room : s.core.q.cq.length < 8
  none : s.tile.collDone = []

/-- The report of an operation that ends INCOMPLETE; no other has one. -/
def CollOp.missingReport (o : CollOp) (stat : Nat) : List Word :=
  if stat == 5 then reportWords ((upto o.blocks).filter fun b => !o.written.contains b) else []

/-- The engine after an operation has left its slot. -/
def State.opLeft (s : State) (o : CollOp) : State :=
  { s with collOps := s.collOps.filter fun p => p.slot != o.slot, lateIdx := s.lateIdx ++ o.pushed.map fun b => (o.pushedTo, o.slot, b) }

theorem State.collFinish_eq (s : State) (o : CollOp) (stat : Nat) : s.collFinish o stat =
    (s.opLeft o).onTeamTile o.ctx o.ttag o.launch o.hnd fun u => u.collEnd o (o.doneWord stat) (o.missingReport stat) := rfl

theorem State.collFinish_core (hs : s.CompletesHere o) (stat : Nat) : (s.collFinish o stat).core = s.core.place false (o.doneWord stat) := by
  have hhome : (s.opLeft o).IsHome o.ctx o.ttag o.launch o.hnd := hs.home.congr rfl rfl rfl rfl rfl
  have hcore : (s.opLeft o).curTile.core o.core = s.core := by rw [hs.core]; exact (s.opLeft o).curTile_core
  have hsel : (s.opLeft o).sel = o.core := hs.core.symm
  rw [State.collFinish_eq, (State.onTeamTile_home hhome).2.1, hsel, FullTile.collEnd_room, hcore]
  · rw [hcore]
    exact hs.room
  · rw [State.curTile_tile]
    exact hs.none

theorem State.mapTiles_core_keeps {α : Type} (g : Core → α) {p : Tile → Bool} {f : FullTile → FullTile} (hf : ∀ u k, g ((f u).core k) = g (u.core k)) :
    g (s.mapTiles p f).core = g s.core := by
  cases h : p s.tile with
  | true => rw [(State.mapTiles_hit h).2, hf, State.curTile_core]
  | false => rw [(State.mapTiles_miss h).2]

/-- What a completion word leaves of a core, the end of an operation leaves of the core in focus. -/
theorem State.collFinish_keeps {α : Type} (g : Core → α) (hg : ∀ (c : Core) w, g (c.place false w) = g c) (s : State) (o : CollOp) (stat : Nat) :
    g (s.collFinish o stat).core = g s.core := by
  unfold State.collFinish State.onTeamTile
  dsimp only
  split
  · rfl
  · split
    · exact State.mapTiles_core_keeps g fun u k => FullTile.collEnd_keeps g hg u o _ _ k
    · rfl

end

end Sys2Proof.Machine
end

section
/-! SUPPORT. Timeouts, lost peers, and the returns of a gateway (09 R243, R286, R287). -/

namespace Sys2Proof.Machine

section
variable {s : State} {o : CollOp}

/-! ### Blocks that never come (R243) -/

theorem CollOp.mem_giveUp {b : Nat} (hb : b < o.blocks) (hfull : o.full b = false) (hw : b ∉ o.written) : b ∈ o.giveUp.missing := by
  simp [CollOp.giveUp, upto_eq_range, hb, hfull, hw]

/-- An operation of whose blocks each is missing ends. -/
theorem State.collGo_missing {p : CollOp} {slot : Nat} (h : s.collOps = [p]) (hslot : p.slot = slot) (hp : p.pushed = []) (hb : 0 < p.blocks)
    (hm : ∀ b < p.blocks, b ∈ p.missing) : s.collGo slot = s.collFinish p 5 := by
  have hsub : List.range p.blocks ⊆ p.missing := fun b hb' => hm b (List.mem_range.1 hb')
  have hlen : p.blocks ≤ p.missing.length := by simpa using (List.nodup_range.subperm hsub).length_le
  have hne : p.missing ≠ [] := fun he => by rw [he, List.length_nil] at hlen; omega
  rw [State.collGo_ends h hslot (CollOp.ready_none fun b hb' => .inr (.inr (hm b hb'))) ⟨hp, .inr hne, by omega⟩,
    if_neg (by simpa using hne)]

/-- An operation of which nothing is complete ends with INCOMPLETE. -/
theorem State.collGive_incomplete (h : s.collOps = [o]) (hw : o.written = []) (hp : o.pushed = []) (hb : 0 < o.blocks)
    (hfull : ∀ b < o.blocks, o.full b = false) : s.collGive o = (s.putOp o.giveUp).collFinish o.giveUp 5 := by
  have hmissing (b : Nat) (hb : b < o.giveUp.blocks) : b ∈ o.giveUp.missing := CollOp.mem_giveUp hb (hfull b hb) (by rw [hw]; exact List.not_mem_nil)
  unfold State.collGive
  rw [if_neg (by simpa using Nat.ne_of_gt hb)]
  exact State.collGo_missing (State.putOp_one h rfl) rfl hp hb hmissing

theorem exec_collTimeout_one (h : s.collOps = [o]) : exec (.collTimeout o.slot) s = .next (s.collGive o) := by
  have hexec : exec (.collTimeout o.slot) s = execCollTimeout o.slot s := rfl
  simp only [hexec, execCollTimeout, State.find_one h rfl]

theorem exec_collPeerLost_one (h : s.collOps = [o]) {m : Nat} (hm : m < o.m) (hne : m ≠ o.own) :
    exec (.collPeerLost o.slot m) s = .next (s.collGive o) := by
  have hexec : exec (.collPeerLost o.slot m) s = execCollPeerLost o.slot m s := rfl
  simp only [hexec, execCollPeerLost, State.find_one h rfl, hm, bne_iff_ne.2 hne, decide_true, Bool.and_self, if_true]

/-- The completion of an operation that gave up. -/
theorem State.collGive_done (h : s.collOps = [o]) (hw : o.written = []) (hp : o.pushed = []) (hb : 0 < o.blocks)
    (hfull : ∀ b < o.blocks, o.full b = false) (hs : s.CompletesHere o) :
    (s.collGive o).collOps = [] ∧ (s.collGive o).core = s.core.place false (statusWord 5 o.tslot o.gen 1 o.poi 0) := by
  have hput : (s.putOp o.giveUp).CompletesHere o.giveUp := ⟨hs.home.congr rfl rfl rfl rfl rfl, hs.core, hs.room, hs.none⟩
  have hword : o.giveUp.doneWord 5 = statusWord 5 o.tslot o.gen 1 o.poi 0 := by
    show statusWord 5 o.tslot o.gen 1 o.poi o.written.length = _
    rw [hw, List.length_nil]
  rw [State.collGive_incomplete h hw hp hb hfull, State.collFinish_core hput, hword]
  exact ⟨State.collFinish_one (State.putOp_one (o := o.giveUp) h rfl) rfl _, rfl⟩

/-! ### A block that a gateway had (R286, R287) -/

/-- An operation whose only block out has come back. -/
def CollOp.pulled (o : CollOp) (b : Nat) : CollOp := { o with pushed := o.pushed.filter (· != b) }

/-- An operation one of whose blocks a gateway had, and lost. -/
def CollOp.lost (o : CollOp) (b : Nat) : CollOp := { (o.pulled b).giveUp with missing := addTo (o.pulled b).giveUp.missing b }

theorem CollOp.pulled_pushed {b : Nat} (h : o.pushed = [b]) : (o.pulled b).pushed = [] := by simp [CollOp.pulled, h]

section
variable {b : Nat} (h : s.collOps = [o]) (hw : o.written = [])
  (hrest : ∀ b' < o.blocks, b' ≠ b → o.full b' = false)
include h hw hrest

/-- A block of two or more that comes back written leaves the operation waiting for the others. -/
theorem State.gateBlock_written (htwo : 2 ≤ o.blocks) (hm : o.missing = []) (bs : List PByte) :
    ((s.closeWindow (o.pulled b)).writeBlock (o.pulled b) b bs).collGo o.slot = (s.closeWindow (o.pulled b)).writeBlock (o.pulled b) b bs := by
  have hwritten : ((o.pulled b).wrote b bs).written = [b] := by
    show o.written ++ [b] = [b]
    rw [hw, List.nil_append]
  have hops : ((s.closeWindow (o.pulled b)).writeBlock (o.pulled b) b bs).collOps = [(o.pulled b).wrote b bs] :=
    State.writeBlock_one (p := o) (o := o.pulled b) ((State.closeWindow_collOps ..).trans h) rfl b bs
  refine State.collGo_waits hops rfl (CollOp.ready_none fun b' hb' => ?_) fun he => ?_
  · by_cases hne : b' = b
    · exact .inr (.inl (by rw [hwritten, hne]; exact List.mem_singleton_self b))
    · exact .inl (hrest b' hb' hne)
  · have hle : o.blocks ≤ ((o.pulled b).wrote b bs).written.length + o.missing.length := he.2.2
    rw [hwritten, hm, List.length_singleton, List.length_nil] at hle
    omega

section
variable (hp : o.pushed = [b]) (hb : b < o.blocks)
include hp hb

/-- A block that is lost makes every block missing, since no other was complete, and the operation ends. -/
theorem State.blockLost_eq : s.blockLost o b = ((s.closeWindow (o.pulled b)).putOp (o.lost b)).collFinish (o.lost b) 5 := by
  have hops : ((s.closeWindow (o.pulled b)).putOp (o.lost b)).collOps = [o.lost b] :=
    State.putOp_one (p := o) ((State.closeWindow_collOps ..).trans h) rfl
  refine State.collGo_missing (slot := o.slot) hops rfl (CollOp.pulled_pushed hp) (Nat.lt_of_le_of_lt (Nat.zero_le _) hb) fun b' hb' => ?_
  by_cases hne : b' = b
  · exact mem_addTo.2 (.inr hne)
  · refine mem_addTo.2 (.inl (CollOp.mem_giveUp (o := o.pulled b) hb' (hrest b' hb' hne) ?_))
    show b' ∉ o.written
    rw [hw]
    exact List.not_mem_nil

theorem State.blockLost_collOps : (s.blockLost o b).collOps = [] := by
  rw [State.blockLost_eq h hw hrest hp hb]
  exact State.collFinish_one (State.putOp_one (p := o) (o := o.lost b) ((State.closeWindow_collOps ..).trans h) rfl) rfl _

/-- The gateway's returns that are still to be taken stay. -/
theorem State.blockLost_q3out : (s.blockLost o b).core.q.q3out = s.core.q.q3out := by
  rw [State.blockLost_eq h hw hrest hp hb, State.collFinish_keeps (fun c => c.q.q3out) fun _ _ => rfl, State.putOp_core, State.closeWindow_core]

end
end

/-! ### The return of an index (R287) -/

/-- The gateway core in focus after the engine has taken its next return. -/
def State.q3Taken (s : State) (rest : List Word) : State := { s with core := { s.core with q := { s.core.q with q3out := rest } } }

/-- The tile in focus after a return has been discarded. -/
def State.discarded (s : State) : State := { s with tile := { s.tile with discarded := s.tile.discarded + 1 } }

theorem State.find_pushed (h : s.collOps = [o]) {b : Nat} (hb : b ∈ o.pushed) :
    (s.collOps.find? fun p => p.slot == o.slot && p.pushed.contains b) = some o := by simp [h, hb]

theorem State.find_pushed_none (h : s.collOps = [o]) {b : Nat} (hb : b ∉ o.pushed) :
    (s.collOps.find? fun p => p.slot == o.slot && p.pushed.contains b) = none := by simp [h, hb]

theorem State.lateReturn_none {s : State} (hs : s.lateIdx = []) (g slot b : Nat) : s.lateReturn g slot b = none := by
  simp [State.lateReturn, hs]

section
variable {g : Nat} {w : Word} {rest : List Word} (hid : s.tile.id = .gateway g) (hq : s.core.q.q3out = w :: rest) (hlate : s.lateIdx = [])
  (h : s.collOps = [o]) (hslot : o.slot = 1024 * (g / 16) + w.toNat / 2 ^ 20 % 1024)
include hid hq hlate h hslot

/-- A return of no index of the operation, or without its high bit, is discarded. -/
theorem exec_gatewayReturn_discarded (hbad : w.getLsbD 63 = false ∨ w.toNat % 2 ^ 20 ∉ o.pushed) :
    exec .gatewayIndexReturn s = .next (s.q3Taken rest).discarded := by
  have hexec : exec .gatewayIndexReturn s = execGatewayIndexReturn s := rfl
  have hlater := State.lateReturn_none (s := s.q3Taken rest) hlate g o.slot (w.toNat % 2 ^ 20)
  simp only [State.q3Taken] at hlater
  simp only [hexec, execGatewayIndexReturn, hid, hq, ← hslot, hlater]
  by_cases hmem : w.toNat % 2 ^ 20 ∈ o.pushed
  · have hfind := State.find_pushed h hmem
    simp only [hfind, hbad.resolve_right (not_not_intro hmem), Bool.not_false, if_true]
    rfl
  · have hfind := State.find_pushed_none h hmem
    simp only [hfind]
    rfl

section
variable (hbit : w.getLsbD 63 = true) (hmem : w.toNat % 2 ^ 20 ∈ o.pushed)
include hbit hmem

/-- A block that comes back with STAT 0 or 2 is written; with any other it is lost. -/
theorem exec_gatewayReturn_taken : exec .gatewayIndexReturn s =
    .next (if w.toNat / 2 ^ 44 % 256 = 0 ∨ w.toNat / 2 ^ 44 % 256 = 2 then
        (((s.q3Taken rest).closeWindow (o.pulled (w.toNat % 2 ^ 20))).writeBlock (o.pulled (w.toNat % 2 ^ 20)) (w.toNat % 2 ^ 20)
          ((s.q3Taken rest).gateResult o (w.toNat % 2 ^ 20) (w.toNat / 2 ^ 44 % 256))).collGo o.slot
      else (s.q3Taken rest).blockLost o (w.toNat % 2 ^ 20)) := by
  have hexec : exec .gatewayIndexReturn s = execGatewayIndexReturn s := rfl
  have hlater := State.lateReturn_none (s := s.q3Taken rest) hlate g o.slot (w.toNat % 2 ^ 20)
  have hfind := State.find_pushed h hmem
  simp only [State.q3Taken] at hlater
  simp only [hexec, execGatewayIndexReturn, hid, hq, ← hslot, hlater, hfind, hbit, Bool.not_true, Bool.false_eq_true, if_false, Bool.or_eq_true,
    beq_iff_eq]
  split <;> rfl

end
end

theorem exec_gatewayIndexTimeout_one (h : s.collOps = [o]) {b : Nat} (hmem : b ∈ o.pushed) :
    exec (.gatewayIndexTimeout o.slot b) s = .next (State.blockLost { s with lateIdx := s.lateIdx ++ [(o.pushedTo, o.slot, b)] } o b) := by
  have hexec : exec (.gatewayIndexTimeout o.slot b) s = execGatewayIndexTimeout o.slot b s := rfl
  simp only [hexec, execGatewayIndexTimeout, State.find_pushed h hmem]

end

end Sys2Proof.Machine

namespace Sys2Proof
open Machine

/-- Settles O32: what each event does with the only operation. -/
theorem collectivesGoOn : Obligations.CollectivesGoOn := by
  intro s o c h hw hm
  refine ⟨fun hno => ⟨_, exec_contribution_disagrees h hno, ?_⟩, fun hagree hfits hp => ⟨fun hkind hlack => ?_, fun hkind hone hknown => ?_⟩,
    fun hp hfull howned hctx hhnd hcore htag hlaunch htiles hdone hroom hb => ?_,
    fun g b w rest hid hq hslot hbw hlate howned htiles hrest => ?_⟩
  · refine State.collFinish_one (p := o) ?_ rfl 6
    split
    · exact h
    · exact (State.closeWindow_collOps ..).trans h
  · obtain ⟨hneeds, hown, hblock, hnew⟩ := hfits
    have hexec := exec_contribution_fits h hagree hneeds hown hblock hnew hw hm
    rw [State.contribution_waits h hblock hw hm hlack] at hexec
    exact ⟨_, _, hexec, State.putOp_one h rfl, (CollOp.received_bitmap ..).2 (.inr ⟨rfl, rfl⟩), hw, rfl, rfl, rfl⟩
  · obtain ⟨hneeds, hown, hblock, hnew⟩ := hfits
    have hroot : c.member = o.root := by simpa [CollOp.needs, hkind] using hneeds
    exact ⟨_, exec_contribution_fits h hagree hneeds hown hblock hnew hw hm, State.broadcast_ends h hkind hone hw hm hp hroot (by omega)
      fun r hr => CollOp.mem_knownAfter hr (hknown r hr)⟩
  · obtain ⟨hgone, hq⟩ := State.collGive_done h hw hp hb hfull ⟨⟨howned, hctx, htag, hhnd, hlaunch⟩, hcore, hroom, hdone⟩
    have hreg (r : SReg) : (s.collGive o).S r = s.S r := by rw [State.S, hq]; rfl
    exact ⟨⟨_, exec_collTimeout_one h, hgone, by rw [hq]; rfl, hreg⟩,
      fun m hlt hne => ⟨_, exec_collPeerLost_one h hlt hne, hgone, by rw [hq]; rfl⟩⟩
  · subst hbw
    refine ⟨fun hbad => ⟨_, exec_gatewayReturn_discarded hid hq hlate h hslot hbad, rfl, h, rfl⟩, fun hbit hp hlt htwo hkind => ?_⟩
    have hmem : w.toNat % 2 ^ 20 ∈ o.pushed := by rw [hp]; exact List.mem_singleton_self _
    have hexec := exec_gatewayReturn_taken hid hq hlate h hslot hbit hmem
    have htaken : (s.q3Taken rest).collOps = [o] := h
    refine ⟨fun hstat => ?_, fun hstat => ?_, _, exec_gatewayIndexTimeout_one h hmem,
      State.blockLost_collOps (s := { s with lateIdx := _ }) h hw hrest hp hlt⟩
    · rw [if_pos (.inl hstat), State.gateBlock_written htaken hw hrest htwo hm] at hexec
      refine ⟨_, _, hexec, ?_, State.writeBlock_one (p := o) (o := o.pulled _) ((State.closeWindow_collOps ..).trans htaken) rfl _ _, ?_, CollOp.pulled_pushed hp⟩
      · rw [State.writeBlock_core, State.closeWindow_core]
        rfl
      · show o.written ++ [_] = _
        rw [hw, List.nil_append]
    · rw [if_neg (by omega)] at hexec
      refine ⟨_, hexec, ?_, State.blockLost_collOps htaken hw hrest hp hlt⟩
      rw [State.blockLost_q3out htaken hw hrest hp hlt]
      rfl

end Sys2Proof
end

section
/-! SUPPORT. What the work of the engines leaves of the core and the tile in focus (09 R241-R245, R286). -/

namespace Sys2Proof.Machine

/-! ### What a program sees of its core and its tile -/

/-- The pc and the scalars. -/
def Core.view (c : Core) : Word × Vector Word 16 × BitVec 16 := (c.pc, c.regs, c.live)

/-- The slice, and the use and the generation of collective slot n. -/
def Tile.view (t : Tile) (n : Fin 4) : Memory × Bool × BitVec 5 := (t.slice, (t.coll[n]).used, (t.coll[n]).gen)

/-- The program and its collective slot n are as they were. -/
def State.SameView (s t : State) (n : Fin 4) : Prop := t.core.view = s.core.view ∧ t.tile.view n = s.tile.view n

theorem State.SameView.refl (s : State) (n : Fin 4) : s.SameView s n := ⟨rfl, rfl⟩

theorem State.SameView.trans {s t u : State} {n : Fin 4} (h1 : s.SameView t n) (h2 : t.SameView u n) : s.SameView u n :=
  ⟨h2.1.trans h1.1, h2.2.trans h1.2⟩

theorem Core.view_S {c e : Core} (h : c.view = e.view) (r : SReg) : c.S r = e.S r := by
  simp only [Core.view, Prod.mk.injEq] at h
  obtain ⟨-, hregs, hlive⟩ := h
  simp only [Core.S, hregs, hlive]

section
variable {s : State} {o : CollOp} {n : Fin 4}

/-! ### The end of an operation -/

theorem FullTile.collFreed_view (u : FullTile) (o : CollOp) (n : Fin 4) : (u.collFreed o []).view n = u.tile.view n := by
  simp only [FullTile.collFreed, Tile.view, List.isEmpty_nil, if_true]
  split
  · rename_i ht
    by_cases hn : n = ⟨o.tslot, ht⟩
    · subst hn
      rw [vput_same]
      rfl
    · rw [vput_other _ _ _ _ hn]
  · rfl

theorem FullTile.collEnd_view (u : FullTile) (o : CollOp) (w : Word) (n : Fin 4) : (u.collEnd o w []).tile.view n = u.tile.view n := by
  rw [FullTile.collEnd_eq]
  split
  · rw [FullTile.tile_setCore]
    exact u.collFreed_view o n
  · exact u.collFreed_view o n

theorem State.onTeamTile_tile {α : Type} (g : Tile → α) {f : FullTile → FullTile} (hf : ∀ u : FullTile, g (f u).tile = g u.tile)
    (s : State) (ctx tag launch : Nat) (h : W32) : g (s.onTeamTile ctx tag launch h f).tile = g s.tile := by
  unfold State.onTeamTile
  split
  · rfl
  · split
    · exact State.mapTiles_keeps g hf
    · rfl

/-- An operation that ends without a report leaves what the program sees. -/
theorem State.collFinish_view (s : State) (o : CollOp) (n : Fin 4) {stat : Nat} (hstat : stat ≠ 5) : s.SameView (s.collFinish o stat) n := by
  have hrep : o.missingReport stat = [] := if_neg (by simpa using hstat)
  refine ⟨State.collFinish_keeps Core.view (fun _ _ => rfl) s o stat, ?_⟩
  rw [State.collFinish_eq, hrep]
  exact State.onTeamTile_tile (fun t => t.view n) (fun u => u.collEnd_view o _ n) ..

/-! ### Blocks -/

theorem State.writeBlock_view (s : State) (o : CollOp) (b : Nat) (bs : List PByte) (n : Fin 4) : s.SameView (s.writeBlock o b bs) n :=
  ⟨by rw [State.writeBlock_core], State.writeBlock_tile s o b bs (fun t => t.view n) fun _ _ => rfl⟩

/-- A tile that replaces the one in focus is seen as its parts are. -/
theorem State.putTile_view {u : FullTile} (hcore : u.tile.id = s.tile.id → (u.core s.sel).view = s.core.view)
    (htile : u.tile.id = s.tile.id → u.tile.view n = s.tile.view n) : s.SameView (s.putTile u) n := by
  unfold State.putTile
  split
  · rename_i hid
    have hid : u.tile.id = s.tile.id := by simpa using hid
    exact ⟨hcore hid, htile hid⟩
  · split <;> exact State.SameView.refl s n

theorem State.tileAt_id (s : State) (id : TileId) : (s.tileAt id).tile.id = id := by
  by_cases h : id = s.tile.id
  · rw [h, State.tileAt_focus, State.curTile_tile]
  · rw [State.tileAt_of_ne s h]
    cases hf : s.tiles.find? (FullTile.hasId id) with
    | none => rfl
    | some u =>
      have hid : FullTile.hasId id u = true := List.find?_some hf
      exact eq_of_beq hid

/-- A gateway that takes an index gets it in q3, and the engine's window. -/
def FullTile.indexed (u : FullTile) (ctx : Nat) (hnd : W32) (w : Word) : FullTile :=
  { u with
    tile := { u.tile with ctx := ctx, hnd := hnd }
    stage := { u.stage with q := { u.stage.q with q3in := u.stage.q.q3in ++ [w] } } }

theorem FullTile.indexed_view (u : FullTile) (ctx : Nat) (hnd : W32) (w : Word) (k : CoreSel) :
    ((u.indexed ctx hnd w).core k).view = (u.core k).view := by cases k <;> rfl

theorem State.pushBlock_view (s : State) (o : CollOp) (b : Nat) (n : Fin 4) : s.SameView (s.pushBlock o b) n := by
  unfold State.pushBlock
  dsimp only
  cases s.nextGate (o.slot / 1024) with
  | none => exact State.SameView.refl s n
  | some g =>
    dsimp only
    generalize hu : State.putOp (State.putCtx s _ _) _ = u
    have hview : s.SameView u n := by rw [← hu]; exact State.SameView.refl s n
    refine hview.trans (State.putTile_view (u := (u.tileAt _).indexed _ _ _) (fun hid => ?_) fun hid => ?_)
    all_goals
      have hself : TileId.gateway (16 * (o.slot / 1024) + g) = u.tile.id := (State.tileAt_id u _).symm.trans hid
      rw [hself, State.tileAt_focus]
    · rw [FullTile.indexed_view, State.curTile_core]
    · show u.curTile.tile.view n = _
      rw [State.curTile_tile]

/-- An operation no block of which is missing goes on without a change of what the program sees. -/
theorem collStep_view (k slot : Nat) (h : s.collOps = [o]) (hslot : o.slot = slot) (hm : o.missing = []) : s.SameView (collStep k slot s) n := by
  induction k generalizing s o with
  | zero => exact State.SameView.refl s n
  | succ k ih =>
    cases hr : o.ready with
    | none =>
      rw [collStep_none h hslot hr, hm]
      split
      · exact State.collFinish_view s o n (by decide)
      · exact State.SameView.refl s n
    | some b =>
      by_cases hk : o.kind = 0
      · have hstep : collStep (k + 1) slot s = if o.pushed.isEmpty then s.pushBlock o b else s := by
          simp only [collStep, State.find_one h hslot, hr, hk, beq_self_eq_true, if_true]
        rw [hstep]
        split
        · exact State.pushBlock_view s o b n
        · exact State.SameView.refl s n
      · rw [collStep_writes h hslot hr hk]
        exact (State.writeBlock_view s o b _ n).trans (ih (o := o.wrote b (o.merged b)) (State.writeBlock_one h rfl b _) hslot hm)

theorem State.collGo_view {slot : Nat} (h : s.collOps = [o]) (hslot : o.slot = slot) (hm : o.missing = []) : s.SameView (s.collGo slot) n := by
  rw [State.collGo_eq h hslot]
  exact collStep_view _ slot h hslot hm

end

end Sys2Proof.Machine
end

section
/-! SUPPORT. COLL at issue (09 R238-R240). -/

namespace Sys2Proof.Machine

section
variable {s : State} {d a : SReg} {x : Option Xsc} {kind k : Nat} {n : Fin 4} {g : Group} {c : CollDesc}

/-! ### The compute core, and descriptors that are refused -/

theorem exec_coll_comp (hsel : s.sel = .comp) : ∀ i ∈ [Instr.collRed d a x, .collBcst d a x, .collAgth d a x],
    exec i s = .next (s.takeTrap .ill s.core.pc s.core.pc false) := by
  simp only [List.forall_mem_cons, List.not_mem_nil, false_implies, implies_true, and_true]
  exact ⟨State.staging_comp hsel _, State.staging_comp hsel _, State.staging_comp hsel _⟩

theorem State.collPost_badPointer (hs : s.core.still = true) (hpair : s.tile.modes.paired = false)
    (h : ¬ (ptrSpace (s.S a) = 0 ∧ ptrOfs (s.S a) % 64 = 0 ∧ ptrOfs (s.S a) + 64 ≤ 0x80000)) :
    s.collPost kind d a x = .next (s.takeTrap .bnd (s.S a) s.core.pc false) := by
  simp only [State.collPost, State.unpaired_alone hpair, Core.still_ready hs, Core.still_acquiring hs, State.blockAt_refused h, Chk.run_trap,
    State.trapB_bnd, Bool.not_true, Bool.or_self, Bool.false_eq_true, if_false]

/-! ### The checks of R240 -/

theorem State.collCap_grants {e o : Word} {perm : Bool} {need : Nat} (h : s.grants e o perm need) : s.collCap e o perm need = .ok () := by
  obtain ⟨hseal, hps, hperm, hlen, -, -⟩ := h
  simp only [State.collCap, hseal, hps, hperm, decide_eq_false (Nat.not_lt.2 hlen), Bool.not_true, Bool.or_self, Bool.false_eq_true, if_false]

/-- A descriptor that fits its group and its buffers passes. A member of a broadcast other than its root has no source. -/
theorem State.collChk_fits (p : Word) (h : s.collFits kind g c) : s.collChk p c kind (some g) = .ok () := by
  obtain ⟨hok, hdst, hsrc⟩ := h
  have ⟨_, _, _, _, hdpoi, hdrev⟩ := hdst
  cases huse : !(kind == 1 && g.own != c.root) with
  | false =>
    simp only [State.collChk, hok, huse, State.collCap_grants hdst, hdpoi, hdrev, Chk.bind_ok, Bool.not_true, Bool.false_and, Bool.false_eq_true,
      if_false]
  | true =>
    have huses : ¬ (kind = 1 ∧ g.own ≠ c.root) := by simpa [imp_iff_not_or] using huse
    obtain ⟨hcap, hapart⟩ := hsrc huses
    have ⟨_, _, _, _, hspoi, hsrev⟩ := hcap
    have hover : (decide (capBase c.se < capBase c.de + c.dstBytes kind g.members.length) &&
        decide (capBase c.de < capBase c.se + c.srcBytes kind)) = false := by
      simp only [Bool.and_eq_false_iff, decide_eq_false_iff_not]
      omega
    simp only [State.collChk, hok, huse, State.collCap_grants hcap, State.collCap_grants hdst, hover, hspoi, hsrev, hdpoi, hdrev, Chk.bind_ok,
      Bool.not_true, Bool.true_and, Bool.false_eq_true, if_false, if_true]

/-! ### The posted operation -/

/-- The slot of the tile that COLL takes. -/
def State.collSlot (s : State) (n : Fin 4) : CollSlot :=
  { gen := if (s.tile.coll[n]).used then (s.tile.coll[n]).gen + 1 else (s.tile.coll[n]).gen, used := true, busy := true, core := s.sel }

/-- The operation before the own contribution. -/
def State.collNew (s : State) (kind k : Nat) (n : Fin 4) (g : Group) (c : CollDesc) : CollOp :=
  { slot := 1024 * s.myEngine + k, hnd := s.tile.hnd, ttag := s.tile.ttag, launch := s.launchOf s.tile.ctx s.tile.ttag, core := s.sel
    tslot := n.val, gen := (s.collSlot n).gen, ctx := s.tile.ctx, part := s.tile.part, kind := kind, group := c.group
    srcBase := capBase c.se, srcLen := c.srcBytes kind, dstBase := capBase c.de, dstLen := c.dstBytes kind g.members.length
    report := ptrOfs c.report, n := c.n, blklog := c.blklog, type := c.type, root := c.root
    timeout := if c.timeout == 0 then 64 else c.timeout, m := g.members.length, own := g.own }

/-- The operation that COLL posts: it has the own contribution. -/
def State.collOp (s : State) (kind k : Nat) (n : Fin 4) (g : Group) (c : CollDesc) : CollOp :=
  (upto (s.collNew kind k n g c).blocks).foldl (fun o b => s.ownPart o b) (s.collNew kind k n g c)

/-- The own contribution is data in the bitmap, and changes nothing else of an operation. -/
theorem State.ownPart_keeps {α : Type} (f : CollOp → α) (hf : ∀ o bm data, f { o with bitmap := bm, data := data } = f o) (o : CollOp) (b : Nat) :
    f (s.ownPart o b) = f o := by
  unfold State.ownPart
  split
  · exact hf ..
  · rfl

theorem State.collOp_keeps {α : Type} (f : CollOp → α) (hf : ∀ o bm data, f { o with bitmap := bm, data := data } = f o) :
    f (s.collOp kind k n g c) = f (s.collNew kind k n g c) :=
  foldl_keeps (fun o => f o = f (s.collNew kind k n g c)) _ (fun o b ho => (State.ownPart_keeps f hf o b).trans ho) _ _ rfl

/-- The state in which an operation has been posted: it stands in its engine, and d has its word. -/
def State.collIssued (s : State) (d : SReg) (n : Fin 4) (o : CollOp) : State :=
  (({ (s.modTile fun t => { t with coll := vput t.coll n (s.collSlot n) }) with collOps := s.collOps ++ [o] }.setS d
    (collWord n.val (s.collSlot n).gen)).retire).charge 1 o.sourceCharge

/-- An engine without operations has a slot free. -/
theorem State.freeOpSlot_empty (h : s.collOps = []) (e : Nat) : ∃ k, s.freeOpSlot e = some k := by
  have hmem : 0 ∈ upto 1024 := by
    rw [upto_eq_range]
    exact List.mem_range.2 (by decide)
  obtain ⟨j, hfree⟩ := Option.isSome_iff_exists.1 (List.find?_isSome.2 ⟨0, hmem, rfl⟩ : ((upto 1024).find? fun _ => true).isSome = true)
  simp only [State.freeOpSlot, h, List.any_nil, Bool.not_false, Bool.true_and, hfree]
  cases (upto 1024).find? fun n => !(s.lateIdx.any fun l => l.2.1 == 1024 * e + n) with
  | none => exact ⟨j, rfl⟩
  | some k => exact ⟨k, rfl⟩

/-- A COLL whose descriptor is legal and whose slots are free is posted, and goes on as far as it can. -/
theorem State.collPost_posts (hs : s.core.still = true) (hpair : s.tile.modes.paired = false) {blk : List Nat}
    (hblk : s.blockAt (s.S a) (s.S a) 64 64 = .ok blk) (hc : collDesc blk = c) (hhaw : s.hawser = false)
    (hg : s.myCtx.groups.find? (fun g => g.agreed && g.num == c.group) = some g) (hn : s.tile.freeColl = some n)
    (hk : s.freeOpSlot s.myEngine = some k) (hops : s.collOps = []) (hquota : 0 < Tab.get (s.partOf s.tile.part).quotas 16 6)
    (hfit : s.collFits kind g c) :
    s.collPost kind d a x = .next ((s.collIssued d n (s.collOp kind k n g c)).collGo (s.collOp kind k n g c).slot) := by
  have hgo (rel : Bool) (scope : Scope) : (s.hawser || rel && !s.releaseReady scope) = false := by
    rw [hhaw, State.still_releaseReady hs, Bool.not_true, Bool.and_false, Bool.or_self]
  have hmine : ¬ Tab.get (s.partOf s.tile.part).quotas 16 6 ≤
      ((s.collOps.filter fun o => o.slot / 1024 == s.myEngine).filter fun o => o.part == s.tile.part).length := by
    rw [hops]
    exact Nat.not_le.2 hquota
  simp only [State.collPost, State.unpaired_alone hpair, Core.still_ready hs, Core.still_acquiring hs, hblk, Chk.run_ok, hc, hg,
    State.collChk_fits _ hfit, hgo, hn, hk, if_neg hmine, Bool.not_true, Bool.or_self, Bool.false_eq_true, if_false]
  rfl

/-- While the parameters of another member have not come, an operation waits. -/
theorem CollOp.allKnown_alone {o : CollOp} (hm : 2 ≤ o.m) (hk : o.known = []) : o.allKnown = false := by
  have hother : ∃ r < o.m, r ≠ o.own := by
    by_cases h : o.own = 0
    · exact ⟨1, by omega, by omega⟩
    · exact ⟨0, by omega, fun e => h e.symm⟩
  obtain ⟨r, hr, hne⟩ := hother
  simp only [CollOp.allKnown, upto_eq_range, List.all_eq_false, List.mem_range]
  exact ⟨r, hr, by simp [hne, hk]⟩

theorem State.collGo_alone {o : CollOp} {slot : Nat} (h : s.collOps = [o]) (hslot : o.slot = slot) (hm : 2 ≤ o.m) (hk : o.known = [])
    (hmiss : o.missing = []) : s.collGo slot = s := by
  have hall : o.allKnown = false := CollOp.allKnown_alone hm hk
  refine State.collGo_waits h hslot ?_ fun he => ?_
  · simp only [CollOp.ready, hall, Bool.not_false, if_true]
  · obtain ⟨-, hgo, -⟩ := he
    exact hgo.elim (fun h => Bool.false_ne_true (hall.symm.trans h)) fun h => h hmiss

theorem State.collIssued_view (o : CollOp) : (s.collIssued d n o).core.pc = s.core.npc ∧ (s.collIssued d n o).tile.slice = s.tile.slice ∧
    (s.collIssued d n o).tile.coll[n] = s.collSlot n ∧ (s.collIssued d n o).collOps = s.collOps ++ [o] ∧
    ∀ r, (s.collIssued d n o).S r = (s.core.setS d (collWord n.val (s.collSlot n).gen)).S r :=
  ⟨Core.setS_npc .., rfl, vput_same .., rfl, fun _ => rfl⟩

/-- What a posted operation leaves. -/
theorem State.collPosted_of_exec {i : Instr} (hops : s.collOps = [])
    (h : exec i s = .next ((s.collIssued d n (s.collOp kind k n g c)).collGo (s.collOp kind k n g c).slot)) : s.collPosted i d kind n g c := by
  have hkeep {α : Type} (f : CollOp → α) (hf : ∀ o bm data, f { o with bitmap := bm, data := data } = f o) :
      f (s.collOp kind k n g c) = f (s.collNew kind k n g c) := State.collOp_keeps f hf
  generalize s.collOp kind k n g c = o at h hkeep
  obtain ⟨hpc, hslice, hslot, hlist, hS⟩ := s.collIssued_view (d := d) (n := n) o
  have hone : (s.collIssued d n o).collOps = [o] := by rw [hlist, hops, List.nil_append]
  have hmiss : o.missing = [] := hkeep CollOp.missing fun _ _ _ => rfl
  have hm : o.m = g.members.length := hkeep CollOp.m fun _ _ _ => rfl
  obtain ⟨hcore, htile⟩ := State.collGo_view (n := n) hone rfl hmiss
  simp only [Tile.view, Prod.mk.injEq, hslice, hslot] at htile
  obtain ⟨hslice', hused, hgen⟩ := htile
  have hpc' : ((s.collIssued d n o).collGo o.slot).core.pc = s.core.npc := (congrArg Prod.fst hcore).trans hpc
  have hS' (r : SReg) : ((s.collIssued d n o).collGo o.slot).S r = (s.core.setS d (collWord n.val (s.collSlot n).gen)).S r :=
    (Core.view_S hcore r).trans (hS r)
  refine ⟨_, h, hpc', hused, ?_, fun r hr => (hS' r).trans (Core.S_setS_ne _ _ hr), hslice', fun htwo => ?_⟩
  · rw [hS', Core.S_setS_self, hgen]
    rfl
  · rw [State.collGo_alone hone rfl (hm ▸ htwo) (hkeep CollOp.known fun _ _ _ => rfl) hmiss, hslot]
    exact ⟨rfl, o, hone, hkeep CollOp.kind fun _ _ _ => rfl, hkeep CollOp.tslot fun _ _ _ => rfl, hkeep CollOp.hnd fun _ _ _ => rfl,
      hkeep CollOp.core fun _ _ _ => rfl, hkeep CollOp.n fun _ _ _ => rfl, hm, hkeep CollOp.own fun _ _ _ => rfl,
      hkeep CollOp.dstBase fun _ _ _ => rfl, hkeep CollOp.written fun _ _ _ => rfl⟩

end

end Sys2Proof.Machine

namespace Sys2Proof

open Machine

/-- Settles O31: the checks of R240 pass for a descriptor that fits, an engine without operations has a slot free, and an operation that no
other member has joined waits; the work of an engine on it changes neither the scalars nor the slice. -/
theorem collectivesArePosted : Obligations.CollectivesArePosted := by
  unfold Obligations.CollectivesArePosted
  refine fun s d a x => ⟨fun hcomp => ?_, fun hsel hs hpair => ⟨fun hbad => ?_, ?_⟩⟩
  · simpa using exec_coll_comp (d := d) (a := a) (x := x) hcomp
  · have hbnd (kind : Nat) : s.staging (s.collPost kind d a x) = .next (s.takeTrap .bnd (s.S a) s.core.pc false) :=
      (State.staging_stage hsel _).trans (State.collPost_badPointer hs hpair hbad)
    exact ⟨hbnd 0, hbnd 1, hbnd 2⟩
  · intro hspace halign hin hpoi hlease hhaw g n hg hn hops hquota _ _
    obtain ⟨k, hk⟩ := State.freeOpSlot_empty hops s.myEngine
    have hblk := State.blockAt_legal (tva := s.S a) hspace halign hin hpoi hlease
    have hpost (i : Instr) (kind : Nat) (hexec : exec i s = s.staging (s.collPost kind d a x)) (hfit : s.collFits kind g _) :
        s.collPosted i d kind n g _ :=
      State.collPosted_of_exec (k := k) hops (hexec.trans ((State.staging_stage hsel _).trans
        (State.collPost_posts hs hpair hblk rfl hhaw hg hn hk hops hquota hfit)))
    exact ⟨hpost _ 0 rfl, hpost _ 1 rfl, hpost _ 2 rfl⟩

end Sys2Proof
end
